-- ==== Sys2Proof/Word.lean ====
section
/-! DEFINITION. The word types of the AL8-262 (R6, R7): every register is 32 bits wide, every memory is byte addressed, every multi-byte field is little-endian. -/

namespace Sys2Proof

/-- One byte of device DRAM, of an on-chip table or of a message. -/
abbrev Byte := BitVec 8

/-- One register (R7). -/
abbrev Word := BitVec 32

/-- One 64-bit operand slot of a manifest entry (R94). -/
abbrev DWord := BitVec 64

end Sys2Proof
end

