-- ==== Sys2Proof/Machine/HostState.lean ====
section
/-! DEFINITION. State of the management and host side of the AL8-262: reset and bring-up (chapters 02 and 03), clocks (04), host interface (05), MMU, data mover and copier (06) and the DRAM controller (07). Plain data; every field states its rule and its reset value. Registers that only hold what was last written to them stand in `State.regs` under their BAR0 offsets. -/

namespace Sys2Proof.Machine

/-- The four reset domains (R54). -/
inductive Domain | aon | mgmt | data | ctrl
  deriving DecidableEq, Repr

/-- The blocks released in the order of R58, domain by domain (`cores` are the control cores). -/
inductive Blk
  | clk | glb | thm | tim | urg | hif | twn | pmc
  | dmc | mmu | cpy | qdc | scr | csm | plk
  | cores | pos | fir | lck | lop | cam
  deriving DecidableEq, Repr

/-- The four states of a domain, block or link under reset (R57), as RST_DOMAIN encodes them. -/
inductive UnitState | up | isolating | inReset | pending
  deriving DecidableEq, Repr

/-- What a reset source can cover (R54, R72): a domain, a block held alone, or one Preaz Link. -/
inductive ResetUnit
  | domain (d : Domain)
  | block (b : Blk)
  | link (n : Fin 32)
  deriving DecidableEq, Repr

/-- The banks calibrated in stage 5, and the PCIe PHY of stage 2 (R40, R64). -/
inductive Bank | pcie | serW | serE | net | csi
  deriving DecidableEq, Repr

/-- RST_SLEEP.STATE (R69). -/
inductive SleepState | awake | draining | ready | refused
  deriving DecidableEq, Repr

/-- The OTP shadow read in stage 2 (R55, R64, R67, R86): reaches, rollback count, BAR2 enable, device serial number. -/
structure Otp where
  /-- Reach of RESET_N, 0 or 1 (R55). Reset: 0 (the default of R55). -/
  reachResetN : BitVec 3 := 0
  /-- Reach of PCIE_PERST_N, 1 or 4 (R55). Reset: 1. -/
  reachPerst : BitVec 3 := 1
  /-- Reach of the watchdog, 1 or 2 (R55). Reset: 2. -/
  reachWdog : BitVec 3 := 2
  /-- Reach of the twin fault, 2 or 3 (R55). Reset: 2. -/
  reachTwin : BitVec 3 := 2
  /-- Rollback count of R67 (32 bits). Reset: DESIGN CHOICE 0 (log entry 8). -/
  rollback : Nat := 0
  /-- BAR2 present (R19, R21). Reset: DESIGN CHOICE false (log entry 8). -/
  bar2 : Bool := false
  /-- Device serial number of R85, 64 bits. Reset: DESIGN CHOICE 0 (log entry 8). -/
  serial : BitVec 64 := 0
  /-- Subsystem ids of R86, 32 bits. Reset: 0 (unprogrammed, R86). -/
  subsystem : BitVec 32 := 0
  /-- Least POLICY of head authentication (R286, R293). Reset: 0 (unprogrammed). -/
  authMin : BitVec 2 := 0
  /-- Key slots 0 to 3 (R285). Reset: DESIGN CHOICE empty (log entry 8). -/
  keys : Vector (List Byte) 4 := Vector.replicate 4 []
  /-- Node number for URG_CFG.NODE, 10 bits (R369). Reset: 0 (unprogrammed). -/
  node : BitVec 10 := 0
  /-- Debug enabled: TDO may be driven (R37). Reset: DESIGN CHOICE false (log entry 8). -/
  debug : Bool := false
  deriving DecidableEq, Repr

/-- What training finds on a DRAM channel (R127, R128, R147). -/
inductive TrainResult
  /-- Trained: WIDTH, DENSITY, RANKS, RATE and DRFM as DMC_GEOM encodes them, PHY temperature in 1/16 degree. -/
  | trained (width density ranks rate : BitVec 2) (drfm : Bool) (temp : Int)
  /-- Populated, training failed. -/
  | failed
  /-- No device responds, or the ZQ resistor is open. -/
  | unpopulated
  deriving DecidableEq, Repr

/-- The reset controller and bring-up sequencer (RST, chapter 03). -/
structure RstState where
  /-- Power-on source asserted (R53). Reset: true, the power-on state. -/
  por : Bool := true
  /-- Rail source asserted (R53). Reset: true (the rails are below 90 % until they have risen; R53 'at power-up'). -/
  rail : Bool := true
  /-- RESET_N source asserted (R55). Reset: DESIGN CHOICE false (log entry 8). -/
  resetN : Bool := false
  /-- PCIE_PERST_N pin low (R55). Reset: DESIGN CHOICE false (log entry 8). -/
  perstLow : Bool := false
  /-- PCIE_PERST_N source asserted: low outside sleep (R55). Reset: false. -/
  perst : Bool := false
  /-- Thermal shutdown source and latch (R55, R56, R397). Reset: false. -/
  therm : Bool := false
  /-- Watchdog source asserted (R55). Reset: false. -/
  wdog : Bool := false
  /-- Twin fault source asserted (R55, R374). Reset: false. -/
  twinFault : Bool := false
  /-- RST_BLOCK.BLOCK_HOLD, 12 bits (R72). Reset: 0. -/
  blockHold : BitVec 12 := 0
  /-- RST_BLOCK.DATA_HOLD (R72). Reset: 0. -/
  dataHold : Bool := false
  /-- RST_BLOCK.CTRL_HOLD (R72). Reset: 0. -/
  ctrlHold : Bool := false
  /-- RST_LINK.LINK_HOLD, 32 bits (R72). Reset: 0. -/
  linkHold : BitVec 32 := 0
  /-- Links in the 100 µs reset that link supervision applies (R55, R287), 32 bits. Reset: 0. -/
  linkAuto : BitVec 32 := 0
  /-- RST_CAUSE, 9 bits (R55, R56). Reset: 1, POR (R72). -/
  cause : BitVec 9 := 1
  /-- OTP shadow (R64). -/
  otp : Otp := {}
  /-- State of the AON domain (R57). Reset: IN_RESET while the power-on source is asserted (R53, R54). -/
  aon : UnitState := .inReset
  /-- State of the MGMT domain (R57). Reset: IN_RESET. -/
  mgmt : UnitState := .inReset
  /-- State of the DATA domain, RST_DOMAIN.DATA (R57). Reset: IN_RESET (0b10). -/
  data : UnitState := .inReset
  /-- State of the CTRL domain, RST_DOMAIN.CTRL (R57). Reset: IN_RESET (0b10). -/
  ctrl : UnitState := .inReset
  /-- Blocks of MGMT already released, in the order of R58. Reset: 0. -/
  relMgmt : Nat := 0
  /-- Blocks of DATA already released (R58). Reset: 0. -/
  relData : Nat := 0
  /-- Blocks of CTRL already released (R58). Reset: 0. -/
  relCtrl : Nat := 0
  /-- State of each block as held alone at L4: bit k of BLOCK_HOLD, and HIF as number 12 for PCIE_PERST_N at L4 (R55, R57). Reset: UP. -/
  held : Vector UnitState 13 := Vector.replicate 13 .up
  /-- State of each Preaz Link as held alone (R57, R72). Reset: UP. -/
  link : Vector UnitState 32 := Vector.replicate 32 .up
  /-- RST_DOMAIN.DRAM_SR (R61). Reset: 0. -/
  dramSr : Bool := false
  /-- RST_BOOT.STAGE, 4 bits (R64). Reset: 1. -/
  stage : BitVec 4 := 1
  /-- RST_BOOT.ERROR, 8 bits (R64, R67). Reset: 0. -/
  error : BitVec 8 := 0
  /-- RST_BOOT.DDR1_OFF (R64, R128). Reset: 0. -/
  ddr1Off : Bool := false
  /-- RST_BOOT.SER_W_OFF (R40). Reset: 0. -/
  serWOff : Bool := false
  /-- RST_BOOT.SER_E_OFF (R40). Reset: 0. -/
  serEOff : Bool := false
  /-- RST_BOOT.NET_OFF (R40). Reset: 0. -/
  netOff : Bool := false
  /-- RST_BOOT.CSI_OFF (R40). Reset: 0. -/
  csiOff : Bool := false
  /-- RST_BOOT.SLOT (R67). Reset: 0. -/
  slot : Bool := false
  /-- RST_BOOT.ELAPSED, 10 bits (R72). Reset: 0. -/
  elapsed : BitVec 10 := 0
  /-- Banks whose calibration has ended in this bring-up: W, E, NET, CSI (R64). Reset: false. -/
  calDone : Vector Bool 4 := Vector.replicate 4 false
  /-- What training has found on each channel in this bring-up (R130). Reset: none. -/
  trainDone : Vector (Option TrainResult) 2 := Vector.replicate 2 none
  /-- RST_SLEEP.ENTER (R69, R70). Reset: 0. -/
  enter : Bool := false
  /-- RST_SLEEP bits 9:1: KEEP_ETH, WAKE_GPIO_EN, WAKE_GPIO_RISE, WAKE_GPIO, WAKE_RING_EN, WAKE_TIME_EN (R72), 9 bits. Reset: 0. -/
  sleepCfg : BitVec 9 := 0
  /-- RST_SLEEP.STATE (R69). Reset: AWAKE. -/
  sleep : SleepState := .awake
  /-- RST_SLEEP.REASON, 4 bits (R69). Reset: 0. -/
  reason : BitVec 4 := 0
  /-- RST_WAKE, 4 bits (R71). Reset: 0. -/
  wake : BitVec 4 := 0
  /-- The device is in sleep (R68). Reset: false. -/
  asleep : Bool := false
  /-- The function is in D3hot (R70). Reset: false (D0). -/
  d3hot : Bool := false
  /-- The 25 MHz oscillator runs (R53, R64). Reset: false. -/
  osc : Bool := false
  /-- The PCIe PHY has failed its calibration (R40, R64); it has no bit of its own. Reset: false. -/
  pcieOff : Bool := false
  /-- PCIe link is at L0 (R60, R64). Reset: false. -/
  pcieUp : Bool := false
  /-- PCIE_WAKE_N driven low (R71). Reset: false (off). -/
  wakeN : Bool := false
  /-- The watchdog has been missed and its reset has not yet been released (R44). Reset: false. -/
  wdogMissed : Bool := false
  deriving DecidableEq, Repr

/-- State of a digital output ball (R41, R42). -/
inductive PinLevel
  /-- High-impedance with weak pull-up. -/
  | pulled
  /-- Driven low. -/
  | low
  /-- Driven high. -/
  | high
  /-- Taken over from the pull-up at a time in half ns: driven high for 1 µs from it, then at a level, true for high. -/
  | handover (since : Nat) (level : Bool)
  deriving DecidableEq, Repr

/-- The interlock decoder and the balls with a state of their own (chapter 02); what the other balls do follows from the rest of the state (`State.ballState`). -/
structure PinState where
  /-- DRIVE_OK (R43, R44). Reset: pulled (R41). -/
  driveOk : PinLevel := .pulled
  /-- HOLD_REQ (R43, R45). Reset: pulled. -/
  holdReq : PinLevel := .pulled
  /-- CAM_TRIG0 to CAM_TRIG3 (R41, R300). Reset: pulled. -/
  camTrig : Vector PinLevel 4 := Vector.replicate 4 .pulled
  /-- GPIO0 to GPIO15 as outputs; `pulled` while an input (R41, R352). Reset: pulled. -/
  gpio : Vector PinLevel 16 := Vector.replicate 16 .pulled
  /-- TIM_GPIO_IN: level at each GPIO ball, 16 bits (R352). Reset: 0xFFFF (the pull-ups). -/
  gpioIn : BitVec 16 := 0xFFFF
  /-- THERMTRIP_N driven low (R397). Reset: false (off). -/
  thermtrip : Bool := false
  /-- FIRE_ENABLE asserted (R47). Reset: false. -/
  fireEnable : Bool := false
  /-- Consecutive good FIRE_ENABLE intervals, 0 to 4 (R47). Reset: 0. -/
  fireGood : Nat := 0
  /-- Time of the last FIRE_ENABLE edge, in half ns (R47). Reset: none. -/
  fireLast : Option Nat := none
  /-- Present level of FIRE_ENABLE at its last edge (R47). Reset: true (pull-up). -/
  fireLevel : Bool := true
  deriving DecidableEq, Repr

/-- Clocks (chapter 04). -/
structure ClkState where
  /-- CLK_LOCK.LOCKED, 11 bits (R82). Reset: 0. -/
  lock : BitVec 11 := 0
  /-- Non-link clocks found stopped by the monitor and not yet found running again, clock numbers 0 to 8 (R82, R83), 9 bits. Reset: 0. -/
  down : BitVec 9 := 0
  /-- LINK_CLK found stopped and not yet found running again (R82), 32 bits. Reset: 0. -/
  linkDown : BitVec 32 := 0
  /-- A measurement runs: clock number and window exponent (R82). Reset: none. -/
  meas : Option (BitVec 6 × BitVec 4) := none
  /-- CLK_MEAS.COUNT, 31 bits. Reset: 0. -/
  measCount : BitVec 31 := 0
  /-- CLK_MEAS.DONE. Reset: 0. -/
  measDone : Bool := false
  /-- Crossings out of CSI_BYTE_CLK[p] released (R84). Reset: false. -/
  csiRun : Vector Bool 4 := Vector.replicate 4 false
  deriving DecidableEq, Repr

/-- HIF_MRn_STATUS.STATE (R89). -/
inductive RingState | disabled | running | halted | error
  deriving DecidableEq, Repr

/-- One manifest ring (R88 to R92); its CFG and BASE stand in the register file. -/
structure MRing where
  /-- HIF_MRn_STATUS.HEAD, 16 bits. Reset: 0. -/
  head : BitVec 16 := 0
  /-- DBL_MTAIL.TAIL as last accepted, 16 bits (R91, R92). Reset: 0. -/
  tail : BitVec 16 := 0
  /-- HIF_MRn_STATUS.STATE. Reset: DISABLED. -/
  state : RingState := .disabled
  /-- HIF_MRn_STATUS.ERROR, 8 bits. Reset: 0. -/
  error : BitVec 8 := 0
  deriving DecidableEq, Repr

/-- One completion ring or the log ring (R88, R98, R103, R106). -/
structure CRing where
  /-- STATUS.TAIL, 16 bits. Reset: 0. -/
  tail : BitVec 16 := 0
  /-- STATUS.PHASE. Reset: 1. -/
  phase : Bool := true
  /-- DBL_CHEAD or DBL_LHEAD, 16 bits (R91). Reset: 0. -/
  head : BitVec 16 := 0
  /-- Entries written since the ring last signalled (R106). Reset: 0. -/
  unsig : Nat := 0
  deriving DecidableEq, Repr

/-- A manifest entry as it stands in host memory (R94). -/
structure Entry where
  /-- Byte 0. -/
  op : BitVec 8
  /-- Byte 1: FENCE, IRQ, QUIET. -/
  flags : BitVec 8
  /-- Bytes 2 and 3. -/
  sub : BitVec 16
  /-- Bytes 4 to 7. -/
  tag : BitVec 32
  /-- A0 to A6. -/
  a : Vector (BitVec 64) 7
  deriving DecidableEq, Repr

/-- Where a fetched entry stands (R97, R100). -/
inductive FlightPhase
  /-- Fetched, in the on-chip queue of its class, not started. -/
  | queued
  /-- Started and running. -/
  | running
  /-- Started and waiting on an event: a full copier queue, a LOCK CHECK or ARM, a JOB_CLOSE, a full band store. -/
  | waiting
  /-- Completed as MMU_FAULT and kept on chip (R100). -/
  | faulted
  deriving DecidableEq, Repr

/-- An entry fetched and not finished (R92, R97). -/
structure Flight where
  /-- Number given at the fetch; larger is later. -/
  id : Nat
  /-- Manifest ring. -/
  ring : Fin 16
  /-- Ring index of the entry (R98 INDEX). -/
  index : BitVec 16
  /-- The entry. -/
  e : Entry
  /-- Where it stands. -/
  phase : FlightPhase
  /-- Bytes done, kept while faulted (R100). -/
  done : Nat
  /-- Number of the fault, 0 before the first; faulted entries continue in this order. -/
  faultNo : Nat
  /-- Number given when the entry starts; larger is later (R118). -/
  start : Nat := 0
  /-- A JOB_CLOSE part of which a JOB_OPEN has superseded (R262). -/
  superseded : Bool := false
  deriving DecidableEq, Repr

/-- What a data-mover transfer moves (R118). -/
inductive XferKind
  /-- QUIRE_LOAD: host memory to job space. -/
  | quire
  /-- TABLE_LOAD: host memory to a table (view 0 live, 1 to 4 chamber). -/
  | table (t : BitVec 16) (view : Fin 5)
  /-- TABLE_READ: table to host memory. -/
  | tableRead (t : BitVec 16) (view : Fin 5)
  /-- MMU_WRITE: host memory to DRAM. -/
  | pte
  /-- COMPRESS: input of an engine, and its output (R118, R169). -/
  | compress
  deriving DecidableEq, Repr

/-- One piece issued to PCIe (R118, R119). -/
structure Piece where
  /-- Flight the piece belongs to. -/
  id : Nat
  /-- Physical DRAM address, or table offset. -/
  dev : Nat
  /-- Host address. -/
  host : Nat
  /-- Bytes, at most 4096. -/
  len : Nat
  /-- Job address of its first byte, where the MMU has translated it (R114). -/
  job : Option Nat := none
  /-- Output of a compression (R118). -/
  out : Bool := false
  /-- MMU_INVALIDATE entries that wait for this piece (R114). -/
  holds : List Nat := []
  deriving DecidableEq, Repr

/-- One data-mover transfer (R118). -/
structure Xfer where
  /-- Flight the transfer serves. -/
  id : Nat
  /-- Ring class, 0 to 3. -/
  cls : Fin 4
  /-- What moves. -/
  kind : XferKind
  /-- Next device-side address: job, physical or table offset. -/
  dev : Nat
  /-- Next host address. -/
  host : Nat
  /-- Bytes not yet issued. -/
  left : Nat
  /-- Bytes done. -/
  done : Nat
  /-- Fault found at issue, waiting for the outstanding pieces (R115). -/
  faulted : Bool
  /-- Start number of the entry (R118). -/
  start : Nat := 0
  deriving DecidableEq, Repr

/-- A host access to BAR0 that HIF has not finished (R78 to R80). -/
structure HostAccess where
  /-- BAR0 offset of its first byte. -/
  off : Nat
  /-- Bytes. -/
  len : Nat
  /-- Value of a write; none for a read. -/
  write : Option (BitVec 32)
  /-- What a read has got: nothing yet, Unsupported Request, or its bytes. -/
  result : Option (Option (List (BitVec 8)))
  deriving DecidableEq, Repr

/-- HIF (chapter 05) and the data mover (06). -/
structure HifState where
  /-- Manifest rings 0 to 15 (R88). -/
  mr : Vector MRing 16 := Vector.replicate 16 {}
  /-- Completion rings 0 to 7 (R88). -/
  cr : Vector CRing 8 := Vector.replicate 8 {}
  /-- The log ring (R103). -/
  log : CRing := {}
  /-- Log records lost and not yet reported by a LOST record (R105). Reset: 0. -/
  lostPending : Nat := 0
  /-- SEQ of the next log record, 32 bits (R103). Reset: 0. -/
  seq : BitVec 32 := 0
  /-- Entries fetched and not finished, oldest first (R92, R97). Reset: empty. -/
  flights : List Flight := []
  /-- Number of the next fetch. Reset: 0. -/
  nextId : Nat := 0
  /-- Number of the next entry that starts. Reset: 0. -/
  nextStart : Nat := 0
  /-- Number of the next fault. Reset: 0. -/
  nextFault : Nat := 0
  /-- Ring last served in each class, for the round robin of R93. Reset: DESIGN CHOICE 15 (log entry 12). -/
  lastServed : Vector (Fin 16) 4 := Vector.replicate 4 15
  /-- Data-mover transfers in the order their entries started (R118). Reset: empty. -/
  xfers : List Xfer := []
  /-- Pieces issued to PCIe and not complete, at most 8 (R119). Reset: empty. -/
  pieces : List Piece := []
  /-- MSI-X table: message address of each vector, 64 bits (R19). Reset: DESIGN CHOICE 0 (log entry 13). -/
  msixAddr : Vector (BitVec 64) 64 := Vector.replicate 64 0
  /-- MSI-X table: message data of each vector, 32 bits (R19). Reset: DESIGN CHOICE 0 (log entry 13). -/
  msixData : Vector (BitVec 32) 64 := Vector.replicate 64 0
  /-- Address bits held in the six base address registers of the configuration header (R19, R86). Reset: PRESUMED 0 (the PCI base specification; log entry 149). -/
  bar : Vector (BitVec 32) 6 := Vector.replicate 6 0
  /-- Device Control, 16 bits (R85). Reset: PRESUMED 0x2010, reads of 512 bytes and Relaxed Ordering enabled (the PCI Express base specification; log entry 149). -/
  devCtl : BitVec 16 := 0x2010
  /-- MSI-X vector mask bits, 64 (R106). Reset: PRESUMED all masked (the PCI base specification; log entry 13). -/
  msixMask : BitVec 64 := BitVec.allOnes 64
  /-- MSI-X pending bits, 64 (R106). Reset: 0. -/
  msixPend : BitVec 64 := 0
  /-- Unsupported Request recorded in Advanced Error Reporting (R7, R59, R79). Reset: false. -/
  aerUr : Bool := false
  /-- Host accesses to BAR0 in the order HIF received them (R78 to R80): those whose block's clock has stopped, the first of each crossing presented in it, and reads taken that wait for earlier reads. Reset: empty. -/
  accesses : List HostAccess := []
  deriving DecidableEq, Repr

/-- One cached page-table entry (R112): its level, the job address bits that index it, its 64-bit value. -/
structure PteCache where
  /-- Level 1 to 3. -/
  level : Nat
  /-- Job address divided by the span of one entry of the level. -/
  prefix_ : Nat
  /-- The entry as it was read. -/
  pte : Nat
  deriving DecidableEq, Repr

/-- One fault slot (R115). -/
structure FaultSlot where
  /-- VALID. Reset: 0. -/
  valid : Bool := false
  /-- KIND, 3 bits. Reset: 0. -/
  kind : BitVec 3 := 0
  /-- LEVEL, 2 bits. Reset: 0. -/
  level : BitVec 2 := 0
  /-- WRITE. Reset: 0. -/
  write : Bool := false
  /-- OPCODE, 8 bits. Reset: 0. -/
  opcode : BitVec 8 := 0
  /-- Job page, address bits 39:12. Reset: 0. -/
  page : Nat := 0
  deriving DecidableEq, Repr

/-- MMU (chapter 06). -/
structure MmuState where
  /-- Fault slots 0 to 16 (R115, R116). -/
  flt : Vector FaultSlot 17 := Vector.replicate 17 {}
  /-- Cached valid entries of every level (R112). Reset: empty. -/
  cache : List PteCache := []
  deriving DecidableEq, Repr

/-- One copier request (R121, R122). -/
structure CopyReq where
  /-- Device source address (R120). -/
  src : Nat
  /-- Device destination address. -/
  dst : Nat
  /-- Length in bytes. -/
  len : Nat
  /-- Event target (R123). -/
  target : BitVec 8
  deriving DecidableEq, Repr

/-- The running copy (R122, R424). -/
structure CopyRun where
  /-- The request. -/
  req : CopyReq
  /-- 64-byte beats written. -/
  moved : Nat
  /-- Beats read and not yet written, oldest first, at most 64. -/
  ahead : List (List (BitVec 8))
  /-- A block of its source or destination is in reset: no further beat moves (R124). -/
  stuck : Bool
  deriving DecidableEq, Repr

/-- CPY (chapter 06). -/
structure CpyState where
  /-- Waiting requests, oldest first, at most 16 (R122). Reset: empty. -/
  queue : List CopyReq := []
  /-- The running copy (R122, R424). Reset: none. -/
  run : Option CopyRun := none
  deriving DecidableEq, Repr

/-- A request in a subchannel's queues (R133, R134). -/
structure DramReq where
  /-- Acceptance number; smaller is older. -/
  seq : Nat
  /-- Port 0 to 9. -/
  port : Fin 10
  /-- Service class 0 to 3. -/
  cls : Fin 4
  /-- True for a write. -/
  write : Bool
  /-- Unit address, 64-byte aligned. -/
  unit : Nat
  /-- First byte within the unit. -/
  lo : Nat
  /-- Bytes. -/
  len : Nat
  /-- Bank within the subchannel (R129). -/
  bank : Nat
  /-- Row (R129). -/
  row : Nat
  /-- Promoted to tier 0 (R135). -/
  promoted : Bool
  /-- Tier of a read that waits for this write (R137); 4 for none. -/
  lift : Nat
  /-- Age limit that applied on arrival, in 100 ns, 0 for none (R135). -/
  limit : Nat
  /-- Arrival time in half ns. -/
  at_ : Nat
  /-- Acceptance numbers of writes this read must wait for (R137). -/
  waits : List Nat
  /-- Data of a read as of its acceptance (R137). -/
  data : List (BitVec 8)
  /-- Data of the read contains an uncorrectable unit (R140). -/
  bad : Bool
  /-- A zero write of the fill (R143). -/
  fill : Bool
  /-- A write of the whole unit has been accepted since this read (R140). -/
  covered : Bool
  deriving DecidableEq, Repr

/-- One subchannel scheduler (R134). -/
structure Subchannel where
  /-- Reads waiting, oldest first. Reset: empty. -/
  reads : List DramReq := []
  /-- Write queue, oldest first, at most 64 (R134). Reset: empty. -/
  writes : List DramReq := []
  /-- A drain burst is in progress (R134). Reset: false. -/
  draining : Bool := false
  /-- Open rows: bank, row (R134). Reset: empty. -/
  openRows : List (Nat × Nat) := []
  /-- Bank and length of the present run of row hits (R134). Reset: none. -/
  hits : Option (Nat × Nat) := none
  /-- Reads issued whose data has not returned. Reset: empty. -/
  issued : List DramReq := []
  /-- Requests whose activates drew a refresh of their row's neighbours, which comes before the bank's next activate (R139). Reset: empty. -/
  nrr : List DramReq := []
  /-- Closed by a retraining step or a refresh until this time (R131, R132). Reset: 0. -/
  closedUntil : Nat := 0
  /-- Time of the last retraining step (R131). Reset: none. -/
  lastStep : Option Nat := none
  deriving DecidableEq, Repr

/-- DMC (chapter 07). -/
structure DmcState where
  /-- Subchannels 0A, 0B, 1A, 1B (R129). -/
  sub : Vector Subchannel 4 := Vector.replicate 4 {}
  /-- Units accepted so far. Reset: 0. -/
  nextSeq : Nat := 0
  /-- Channel trained and serving: DMC_STATUS.CHc_UP. Reset: false. -/
  chUp : Vector Bool 2 := Vector.replicate 2 false
  /-- DMC_STATUS.CHc_FAULT (R132). Reset: false. -/
  chFault : Vector Bool 2 := Vector.replicate 2 false
  /-- A full retrain of the channel runs (R131). Reset: false. -/
  retrain : Vector Bool 2 := Vector.replicate 2 false
  /-- Ranks of subchannels that the running retrain of a channel has done (R131). Reset: 0. -/
  retrainAt : Vector Nat 2 := Vector.replicate 2 0
  /-- DMC_RETRAIN.COUNT, 8 bits (R131). Reset: 0. -/
  retrainCount : BitVec 8 := 0
  /-- Channels held in the training retention store (R61, R130). Reset: false. -/
  retained : Vector Bool 2 := Vector.replicate 2 false
  /-- DMC_GEOM, 32 bits (R147). Reset: 0. -/
  geom : BitVec 32 := 0
  /-- Temperature at the last training of each channel, in 1/16 degree (R131). Reset: 0 until training. -/
  trainTemp : Vector Int 2 := Vector.replicate 2 0
  /-- Refresh interval multiplier of each rank reported by MR4 (R132): channel, rank. Reset: DESIGN CHOICE 1 (log entry 16). -/
  mr4 : Vector (BitVec 3) 4 := Vector.replicate 4 1
  /-- DMC_SCRUB_PASS, 32 bits (R141). Reset: 0. -/
  scrubPass : BitVec 32 := 0
  /-- Next address the scrubber reads on each channel (R141). Reset: 0. -/
  scrubAt : Vector Nat 2 := Vector.replicate 2 0
  /-- DMC_STATUS.SCRUB_HELD (R141). Reset: false. -/
  scrubHeld : Bool := false
  /-- DMC_ECC.UE (R140). Reset: 0. -/
  ue : Bool := false
  /-- DMC_ECC.CE. Reset: 0. -/
  ce : Bool := false
  /-- DMC_ECC.UE_COUNT, 8 bits. Reset: 0. -/
  ueCount : BitVec 8 := 0
  /-- DMC_ECC.CE_COUNT, 16 bits. Reset: 0. -/
  ceCount : BitVec 16 := 0
  /-- DMC_ECC_ADDR: unit address and port (R140). Reset: 0. -/
  eccAddr : Nat := 0
  /-- DMC_ECC_ADDR_HI.PORT, 4 bits. Reset: 0. -/
  eccPort : BitVec 4 := 0
  /-- DMC_FILL_CTRL.BUSY: next byte address and bytes left of the running fill (R143). Reset: none. -/
  fill : Option (Nat × Nat) := none
  /-- DMC_FILL_CTRL.DONE. Reset: 0. -/
  fillDone : Bool := false
  /-- DMC_REGV.VALID (R144). Reset: 0. -/
  regv : Bool := false
  /-- DMC_REGV.PORT, 4 bits. Reset: 0. -/
  regvPort : BitVec 4 := 0
  /-- DMC_REGV.COUNT, 16 bits. Reset: 0. -/
  regvCount : BitVec 16 := 0
  /-- DMC_REGV_ADDR: unit address of the last dropped write. Reset: 0. -/
  regvAddr : Nat := 0
  /-- DMC_REGV_ADDR_HI.PORT: port of the last dropped write, 4 bits. Reset: 0. -/
  regvLast : BitVec 4 := 0
  /-- Accepting requests: false from reset until ZQ calibration has run (R61). Reset: false. -/
  ready : Bool := false
  /-- Units that every read finds uncorrectable until a write covers them whole (R140). Reset: empty. -/
  badUnits : List Nat := []
  deriving DecidableEq, Repr

end Sys2Proof.Machine
end

