-- ==== Sys2Proof/Machine/LoopState.lean ====
section
/-! DEFINITION. State of time, ring, twin mode, thermal management and counters of the AL8-262. -/

namespace Sys2Proof.Machine

/-- TIM_STATUS.STATE (R349). -/
inductive TimeState | free | locking | locked | holdover
  deriving DecidableEq, Repr

/-- One comparator (R351); CFG, TGT and PER stand in the register file. -/
structure Comparator where
  /-- Armed: waiting for its target (R351). Reset: false. -/
  armed : Bool := false
  /-- Target held internally, in 1/16 tick, 52 bits (R351). Reset: 0. -/
  target : Nat := 0
  /-- Period taken when armed, in 1/16 tick (R351). Reset: 0. -/
  period : Nat := 0
  /-- CMP_STAT.MATCHES, 16 bits. Reset: 0. -/
  matches_ : BitVec 16 := 0
  /-- CMP_STAT.SKIPPED, 15 bits. Reset: 0. -/
  skipped : BitVec 15 := 0
  /-- CMP_STAT.LATE. Reset: 0. -/
  late : Bool := false
  deriving DecidableEq, Repr

/-- The timestamps of the PTP exchange in progress, in 1/16 ns (R350). -/
structure PtpExchange where
  /-- Arrival time of a two-step Sync waiting for its Follow_Up. Reset: none. -/
  syncRx : Option Int := none
  /-- Master time and arrival time of the last complete Sync. Reset: none. -/
  sync : Option (Int × Int) := none
  /-- Departure time of the request awaiting a response. Reset: none. -/
  req : Option Int := none
  /-- Mean path delay, 1/16 ns. Reset: 0. -/
  delay : Int := 0
  deriving DecidableEq, Repr

/-- TIM (chapter 17). -/
structure TimState where
  /-- COUNT, 64 bits (R345). Reset: 0. -/
  count : Nat := 0
  /-- Part of a TIME_CLK cycle elapsed, 0 to 7 half ns: the model's own field (log entry 1). Reset: 0. -/
  phase : Nat := 0
  /-- C0 (R345). Reset: 0. -/
  c0 : Nat := 0
  /-- T0 in 2^-16 ns (R345). Reset: 0. -/
  t0 : Int := 0
  /-- TIM_RATE, signed 32 bits (R345). Reset: 0. -/
  rate : Int := 0
  /-- Rates left by changes made while a plane prints, within the last 1 ms: time of the change in half ns and rate before it (R348). Reset: empty. -/
  rateHist : List (Nat × Int) := []
  /-- TIM_STATUS.STATE (R349). Reset: FREE. -/
  state : TimeState := .free
  /-- TIM_STATUS.STEP_REFUSED (R348). Reset: 0. -/
  stepRefused : Bool := false
  /-- TIM_STATUS.HOPS, 10 bits. Reset: 0. -/
  hops : BitVec 10 := 0
  /-- TIM_STATUS.ERR, signed 16 bits. Reset: 0. -/
  err : BitVec 16 := 0
  /-- STEP_LO held for the step, 32 bits (R368). Reset: 0. -/
  stepLo : BitVec 32 := 0
  /-- Consecutive updates within 100 ns in LOCKING (R349). Reset: 0. -/
  good : Nat := 0
  /-- Consecutive updates beyond 1 µs in LOCKED (R349). Reset: 0. -/
  bad : Nat := 0
  /-- PTP_STATUS.PORT_STATE, 4 bits (R368). Reset: 0. -/
  ptpState : BitVec 4 := 0
  /-- Ethernet ports with link (R368, R420). Reset: false. -/
  ethLink : Vector Bool 2 := Vector.replicate 2 false
  /-- The PTP exchange in progress (R350). -/
  ptp : PtpExchange := {}
  /-- Comparators (R351). -/
  cmp : Vector Comparator 16 := Vector.replicate 16 {}
  /-- End of the running pulse of each GPIO, in half ns (R352). Reset: none. -/
  gpioPulse : Vector (Option Nat) 16 := Vector.replicate 16 none
  deriving DecidableEq, Repr

/-- URG_PORTk_STAT.STATE (R354). -/
inductive PortState | down | locking | up
  deriving DecidableEq, Repr

/-- One Ulilis Ring port (R354, R369). -/
structure RingPort where
  /-- STATE. Reset: DOWN. -/
  state : PortState := .down
  /-- The port runs at 1.25 Gbit/s: STATUS.LOW. Reset: 0. -/
  low : Bool := false
  /-- PEER_SLEEP. Reset: 0. -/
  peerSleep : Bool := false
  /-- PEER, 10 bits. Reset: 0. -/
  peer : BitVec 10 := 0
  /-- Valid HELLO messages received since lock, up to 3 (R354). Reset: 0. -/
  hellos : Nat := 0
  /-- Last 16 values of RTT minus turnaround, 1/16 ns, newest first (R360). Reset: empty. -/
  delays : List Nat := []
  /-- ERR.CRC, 16 bits. Reset: 0. -/
  crc : BitVec 16 := 0
  /-- ERR.DOWNS, 16 bits. Reset: 0. -/
  downs : BitVec 16 := 0
  deriving DecidableEq, Repr

/-- A node heard by ANNOUNCE and still live (R359). -/
structure RingNode where
  /-- Node number. -/
  node : BitVec 10
  /-- Web group. -/
  group : BitVec 8
  /-- TM_PRIO. -/
  prio : BitVec 8
  /-- Takes part in ring locks, from the roles of ANNOUNCE (R342, R356). -/
  accepts : Bool
  deriving DecidableEq, Repr

/-- A tide word (R362). -/
structure TideWord where
  /-- SOURCE. -/
  source : BitVec 10
  /-- GROUP. -/
  group : BitVec 8
  /-- VALID. -/
  valid : Bool
  /-- STILL. -/
  still : Bool
  /-- DIR: true for REV. -/
  rev : Bool
  /-- TIME_OK. -/
  timeOk : Bool
  /-- COUNT, 48 bits. -/
  count : BitVec 48
  /-- EXTREME, 48 bits. -/
  extreme : BitVec 48
  /-- EDGE_TIME, t of the newest edge in 1/16 ns. -/
  edgeTime : Nat
  /-- SPEED, signed, 1/16 count per second. -/
  speed : BitVec 32
  deriving DecidableEq, Repr

/-- A tide source heard in the device's web group (R363). -/
structure TideSource where
  /-- Node. -/
  node : BitVec 10
  /-- Words have arrived within 10 µs. -/
  live : Bool
  /-- Words counted as arrived since it became live. -/
  words : Nat
  /-- The newest word. -/
  word : TideWord
  deriving DecidableEq, Repr

/-- URG (chapter 17). -/
structure UrgState where
  /-- RING0 and RING1. -/
  port : Vector RingPort 2 := Vector.replicate 2 {}
  /-- Duplicate windows: originating node, highest SEQ, and the SEQ values seen in the 64 below it (R357). Reset: empty. -/
  seen : List (BitVec 10 × BitVec 16 × List (BitVec 16)) := []
  /-- SEQ of the next frame this device originates, 16 bits (R355). Reset: 0. -/
  seq : BitVec 16 := 0
  /-- Live nodes other than this one (R359). Reset: empty. -/
  nodes : List RingNode := []
  /-- STATUS.DUP (R366). Reset: 0. -/
  dup : Bool := false
  /-- Ring time master as elected (R359). Reset: none. -/
  master : Option (BitVec 10) := none
  /-- Tide sources heard in the web group (R363). Reset: empty. -/
  sources : List TideSource := []
  /-- Source in use (R363). Reset: none. -/
  inUse : Option (BitVec 10) := none
  /-- Counts subtracted from the words of the source in use after a change-over (R364). Reset: 0. -/
  offset : Int := 0
  /-- The last ΔC and how many times in a row it has been formed, up to 16 (R364). Reset: none. -/
  delta : Option (Int × Nat) := none
  /-- URG_TIDE.ACTIVE (R361). Reset: 0. -/
  active : Bool := false
  /-- URG_TIDE.REFUSED (R361). Reset: 0. -/
  refused : Bool := false
  /-- Nodes whose STOP still holds cause RING (R365). Reset: empty. -/
  stops : List (BitVec 10) := []
  /-- Tide words that wait while FIRE_CLK is stopped, oldest first (R80, R81). Reset: empty. -/
  tideWait : List TideWord := []
  /-- Tide words that the crossing to FIRE_CLK has discarded (R81). Reset: 0. -/
  tideLost : Nat := 0
  deriving DecidableEq, Repr

/-- THM_STATUS.LEVEL (R395); SHUTDOWN resets the device and is never read. -/
inductive ThermalLevel | normal | warn | throttle
  deriving DecidableEq, Repr

/-- One temperature sensor (R393, R394). -/
structure Sensor where
  /-- Latest reading, 1/16 degree. Reset: 0. -/
  temp : Int := 0
  /-- FAULT (R394). Reset: 0. -/
  fault : Bool := false
  /-- VALID. Reset: 0. -/
  valid : Bool := false
  deriving DecidableEq, Repr

/-- THM (chapter 19). -/
structure ThmState where
  /-- Sensors 0 to 11 (R393). -/
  sensor : Vector Sensor 12 := Vector.replicate 12 {}
  /-- LEVEL (R395). Reset: NORMAL. -/
  level : ThermalLevel := .normal
  /-- STATUS.MAX: T, 1/16 degree (R394). Reset: 0. -/
  max : Int := 0
  /-- STATUS.MAX_SENSOR, 4 bits. Reset: 0. -/
  maxSensor : Fin 12 := 0
  /-- RATE_HOLD: history entries since the hold began (R398). Reset: none. -/
  hold : Option Nat := none
  /-- History, newest first, at most 9, each a mean in 1/16000 degree (R398). Reset: empty. -/
  history : List Int := []
  /-- Sum of T over the conversions of the period in progress, 1/16 degree (R398). Reset: 0. -/
  sum : Int := 0
  /-- Conversions in the period in progress (R398). Reset: 0. -/
  samples : Nat := 0
  /-- THM_RATE.RATE, 0.1 degree per second, signed 16 bits (R398). Reset: 0. -/
  rate : Int := 0
  /-- EVENTS.WARN, 8 bits. Reset: 0. -/
  nWarn : BitVec 8 := 0
  /-- EVENTS.THROTTLE, 8 bits. Reset: 0. -/
  nThrottle : BitVec 8 := 0
  /-- EVENTS.RATE, 8 bits. Reset: 0. -/
  nRate : BitVec 8 := 0
  /-- EVENTS.FAULT, 8 bits. Reset: 0. -/
  nFault : BitVec 8 := 0
  /-- PEAK.PEAK: highest T since CLEAR or reset; the register reads 0 before the first. Reset: none. -/
  peak : Option Int := none
  /-- PEAK.PEAK_SENSOR, 4 bits. Reset: 0. -/
  peakSensor : Fin 12 := 0
  /-- Consecutive conversions with every sensor faulty (R394). Reset: 0. -/
  allFaulty : Nat := 0
  deriving DecidableEq, Repr

/-- PMC (chapter 19); its registers lie in the control cores' address space (R410). -/
structure PmcState where
  /-- PMC_CTRL.FREEZE (R406). Reset: 0. -/
  freeze : Bool := false
  /-- PMC_EVk, 32 bits (R410). Reset: PRIV 0b111, REQ 0x3FF, CLASS 0xF, the rest 0. -/
  ev : Vector (BitVec 32) 64 := Vector.replicate 64 0x3FFF0700
  /-- Live counters, 48 bits (R402). Reset: 0. -/
  cnt : Vector (BitVec 48) 64 := Vector.replicate 64 0
  /-- OVF bits (R402). Reset: 0. -/
  ovf : BitVec 64 := 0
  /-- Value last written to PMC_CNTk_HI, 16 bits (R410). Reset: 0. -/
  hi : Vector (BitVec 16) 64 := Vector.replicate 64 0
  /-- Snapshot registers: OVF in bit 48, value below (R406). Reset: 0. -/
  snap : Vector (BitVec 49) 64 := Vector.replicate 64 0
  /-- PMC_WIN.NS, 30 bits (R407). Reset: 1,000,000. -/
  win : BitVec 30 := 1000000
  /-- Bytes counted in the open window by each counter that carries code 0x60 (R407). Reset: 0. -/
  winBytes : Vector Nat 64 := Vector.replicate 64 0
  /-- PMC_ARr_BASE, 20 bits (R410). Reset: 0. -/
  arBase : Vector (BitVec 20) 4 := Vector.replicate 4 0
  /-- PMC_ARr_SIZE, 20 bits (R410). Reset: 0. -/
  arSize : Vector (BitVec 20) 4 := Vector.replicate 4 0
  /-- Time in units of 0.5 ns for which THROTTLE has been in force with CORE_CLK running and PMC counting, not yet carried to the counters (R74, R402, R404). Reset: 0. -/
  throttled : Nat := 0
  /-- Snapshot requests waiting, oldest first: the COUNTER_READ entry that asks, none for PMC_CTRL.SNAP (R406). Reset: empty. -/
  requests : List (Option Nat) := []
  deriving DecidableEq, Repr

end Sys2Proof.Machine
end

