-- ==== Sys2Proof/Machine/PressState.lean ====
section
/-! DEFINITION. State of the control plane that ties printing to the web: POS (chapter 11), FIR (12), PLK (13), the lock chambers (16) and TWN (18). -/

namespace Sys2Proof.Machine

/-- One encoder channel: the AON front end first, then the speed and stretch part of the CTRL domain (R240). -/
structure Channel where
  /-- COUNT, 48 bits (R224). Reset: 0. -/
  count : Nat := 0
  /-- Filtered (A, B) pair of the previous sample; none until the first sampled pair (R222, R224). Reset: none. -/
  pair : Option (BitVec 2) := none
  /-- Last counted step, +1 or −1; 0 before the first (R225). Reset: 0. -/
  step : Int := 0
  /-- Reference count and its direction (R226). Reset: none. -/
  ref : Option (Nat × Int) := none
  /-- DEV, signed 32 bits (R227). Reset: 0. -/
  dev : Int := 0
  /-- ISTAT.MISMATCH. Reset: 0. -/
  mismatch : Bool := false
  /-- ISTAT.FAULT (R227). Reset: 0. -/
  fault : Bool := false
  /-- ISTAT.MISSING (R228). Reset: 0. -/
  missing : Bool := false
  /-- ISTAT.ILLEGAL (R222). Reset: 0. -/
  illegal : Bool := false
  /-- ISTAT.RUN, 0 or 1 (R227). Reset: 0. -/
  run : Nat := 0
  /-- ISTAT.ILL_COUNT, 16 bits. Reset: 0. -/
  illCount : BitVec 16 := 0
  /-- FIRE_CLK times of the edges of the current run, newest first, as far back as the largest window needs (R231). Reset: empty. -/
  edges : List Nat := []
  /-- FIRE_CLK time of the newest counted edge (R224). Reset: none. -/
  lastEdge : Option Nat := none
  /-- FIRE_CLK cycle from which standstill is timed, and STILL_MS as it stood then (R232, R241). Reset: 0, 20. -/
  quiet : Nat × Nat := (0, 20)
  /-- SPSTAT.EDGE_DIR: latest edge was a reverse one. Reset: 0. -/
  edgeRev : Bool := false
  /-- SPSTAT.VALID (R232). Reset: 0. -/
  valid : Bool := false
  /-- SPSTAT.STILL (R232). Reset: 0. -/
  still : Bool := false
  /-- Speed as numerator and denominator, counts per second (R231). Reset: 0. -/
  speed : Int × Nat := (0, 1)
  /-- Main count, own count and LOG2STR at the opening of the stretch window (R238). Reset: none. -/
  window : Option (Nat × Nat × Nat) := none
  /-- STRETCH, 0.01 ppm (R238). Reset: 0. -/
  stretch : Int := 0
  /-- SPSTAT.STR_VALID. Reset: 0. -/
  strValid : Bool := false
  deriving DecidableEq, Repr

/-- POS (chapter 11); its set-up registers stand in the register file. -/
structure PosState where
  /-- Encoder channels 0 to 7. -/
  ch : Vector Channel 8 := Vector.replicate 8 {}
  /-- POS_STATUS.DIR: state REV (R234). Reset: 0. -/
  rev : Bool := false
  /-- Extreme count E of the own main channel, 48 bits (R234). Reset: 0. -/
  extreme : Nat := 0
  /-- POS_STATUS.REV_COUNT, 16 bits. Reset: 0. -/
  revCount : BitVec 16 := 0
  deriving DecidableEq, Repr

/-- FIR_PLp_STATUS.STATE (R256). -/
inductive PlanePhase | idle | run | hold | armed | closing
  deriving DecidableEq, Repr

/-- A committed line, then a launched one until its last link has emitted it (R247, R248). -/
structure FireLine where
  /-- Fire line. -/
  line : Nat
  /-- Stamp, 48-bit fire tick. -/
  stamp : Nat
  /-- T_f (R246). -/
  tf : Nat
  /-- Plane launch deadline, 48-bit fire tick. -/
  deadline : Nat
  /-- Links still to emit it, with their launch deadlines. -/
  links : List (Fin 32 × Nat)
  /-- Transmitted, not only computed: false on a twin standby (R374, R380). -/
  sends : Bool
  /-- Links whose gutter transmits as the line launches (R215), 32 bits. -/
  on : BitVec 32 := 0
  deriving DecidableEq, Repr

/-- A JOB_CLOSE in force on a plane, waiting or under way (R262). -/
structure Close where
  /-- Last web line L. -/
  last : Nat
  /-- The entries that wait for it, by number; those already completed as ABORTED are gone. -/
  flights : List Nat
  deriving DecidableEq, Repr

/-- One plane in FIR, with its position in POS (R233, R235, R243 to R256). -/
structure Plane where
  /-- STATUS.STATE. Reset: IDLE. -/
  phase : PlanePhase := .idle
  /-- STATUS.CAUSE, 8 bits (R253). Reset: 0. -/
  cause : BitVec 8 := 0
  /-- O_p, 48 bits (POS_PLp_ORIGIN with OPEN). Reset: none. -/
  origin : Option (BitVec 48) := none
  /-- X_p in 1/65536 line (R233). Reset: 0. -/
  x : Int := 0
  /-- P_p in 1/65536 line (R235). Reset: 0. -/
  print : Int := 0
  /-- Highest X_p since the plane last entered RUN, in 1/65536 line (R235; log entry 154). Reset: 0. -/
  reach : Int := 0
  /-- X_p has fallen below `reach` and not passed it since (R235). Reset: false. -/
  behind : Bool := false
  /-- Anchor X_a in 1/65536 line (R243). Reset: 0. -/
  xa : Int := 0
  /-- Anchor Φ_a in 1/65536 line (R243). Reset: 0. -/
  phia : Int := 0
  /-- F_p, 48 bits (R245). Reset: 0. -/
  next : Nat := 0
  /-- f_p: the last line launched; F_p − 1 as JOB_OPEN sets it before (R254, R311). Reset: −1. -/
  last : Int := -1
  /-- C_p: lowest line not yet committed (R245). Reset: 0. -/
  commit : Nat := 0
  /-- Lines committed and not launched, in ascending order (R247). Reset: empty. -/
  committed : List FireLine := []
  /-- Lines launched and not yet emitted by every link (R248). Reset: empty. -/
  launched : List FireLine := []
  /-- Stamp of the last line launched (R250). Reset: none. -/
  lastStamp : Option Nat := none
  /-- Interval between the previous two lines, for T_f without a prediction (R210). Reset: none. -/
  prevGap : Option Nat := none
  /-- S_p, signed 48 bits (R254). Reset: 0. -/
  seam : Int := 0
  /-- SEAM_HI.VALID (R265). Reset: 0. -/
  seamValid : Bool := false
  /-- H_p and M_p as they stood at the seam (R63, R254). Reset: 0. -/
  seamSpan : Nat × Int := (0, 0)
  /-- LAG.LAG, 16 bits (R251). Reset: 0. -/
  lag : Nat := 0
  /-- LAG.MAXLAG, 16 bits. Reset: 0. -/
  maxLag : Nat := 0
  /-- STOPS.STOPS, 16 bits. Reset: 0. -/
  stops : BitVec 16 := 0
  /-- STOPS.RESUMES, 16 bits. Reset: 0. -/
  resumes : BitVec 16 := 0
  /-- Highest Φ_p since a stop by OVERSPEED whose record is not yet written (R252). Reset: none. -/
  overPos : Option Int := none
  /-- The plane whose stop gave this one cause PEER (R253). Reset: none. -/
  peerOf : Option (Fin 8) := none
  /-- RETIRED of the progress block, 48 bits (R107). Reset: 0. -/
  retired : Nat := 0
  /-- FIRED of the progress block, 48 bits (R107). Reset: 0. -/
  fired : Nat := 0
  /-- The JOB_CLOSE in force (R262). Reset: none. -/
  close : Option Close := none
  /-- n_s of a planned swap this device gives: lines at or above it are the twin's to transmit (R388). Reset: none. -/
  swapAt : Option Nat := none
  /-- n_s of a planned swap this device takes: lines below it are the twin's to transmit (R388). Reset: 0. -/
  sendFrom : Nat := 0
  deriving DecidableEq, Repr

/-- FIR (chapter 12); its set-up registers stand in the register file. -/
structure FirState where
  /-- Planes C0 to C7. -/
  plane : Vector Plane 8 := Vector.replicate 8 {}
  /-- FIR_NOW in 2^-40 fire tick, modulo 2^88 (R246, R347). Reset: 0. -/
  now : Nat := 0
  /-- Part of a FIRE_CLK cycle elapsed, 0 to 4 half ns: the model's own field (log entry 1). Reset: 0. -/
  phase : Nat := 0
  /-- t has been stepped, and FIR_NOW follows whole at its next comparison (R347). Reset: false. -/
  realign : Bool := false
  /-- Fire tick of the newest edge of the position in use, 48 bits (R246). Reset: none. -/
  edge : Option Nat := none
  /-- FIR_CTRL.STOP bits, 8 bits (R253). Reset: 0. -/
  stop : BitVec 8 := 0
  /-- Tables of the restore period (R63). Reset: empty. -/
  restoreTables : List Nat := []
  /-- Planes that held when the restore period opened and for which it has not ended (R63), 8 bits. Reset: 0. -/
  restorePlanes : BitVec 8 := 0
  deriving DecidableEq, Repr

/-- PLK_LNn_STATE.STATE (R287). -/
inductive LinkPhase | disabled | t0 | rate | lock | prbs | echo | sync | auth | load | run | test | fault
  deriving DecidableEq, Repr

/-- Mode of both lanes of a link (R266). -/
inductive LinkRate | t0 | r5 | r10
  deriving DecidableEq, Repr

/-- Capabilities of a head driver board (R268). -/
structure Caps where
  /-- PVER. -/
  pver : BitVec 8
  /-- Rates: bit 0 R5, bit 1 R10. -/
  rates : BitVec 2
  /-- DUAL. -/
  dual : Bool
  /-- PORT: true for B. -/
  portB : Bool
  /-- AUTH. -/
  auth : Bool
  /-- TMIN_BRD. -/
  tmin : BitVec 16
  /-- PROC. -/
  proc : BitVec 16
  /-- CHANNELS. -/
  channels : BitVec 16
  /-- MAXBITS. -/
  maxBits : BitVec 8
  /-- NBUF. -/
  nbuf : BitVec 8
  deriving DecidableEq, Repr

/-- Who waits for a channel bank to become VALID (R282). -/
inductive BankFor
  /-- State LOAD. -/
  | load
  /-- A lock chamber. -/
  | chamber (c : Fin 4)
  /-- A direct TABLE_LOAD, by its entry. -/
  | table (id : Nat)
  /-- A change by COPY or a restore: nobody waits. -/
  | nobody
  deriving DecidableEq, Repr

/-- One channel-bank upload (R282). -/
structure Upload where
  /-- Who waits for it. -/
  who : BankFor
  /-- Bytes of the bank that differ from 0, by channel index, as they stood when it started; empty before. -/
  bytes : List (Nat × BitVec 8)
  /-- Bank it writes, once started. -/
  bank : Option Bool
  /-- The board has reported that bank VALID. -/
  valid : Bool
  /-- First fire line that names the bank, once known: VTAB changes from it. -/
  from_ : Option Nat
  deriving DecidableEq, Repr

/-- An authentication exchange under way (R285): the challenge, the policy and key slot it began under (R293), and the 6-byte groups received, by KIND and INDEX. -/
structure AuthRun where
  /-- C, 128 bits. -/
  challenge : BitVec 128
  /-- POLICY in force as the exchange began. -/
  policy : Nat
  /-- KEYSLOT as the exchange began. -/
  slot : Fin 4
  /-- Groups received: 16 × KIND + INDEX, 48 bits. -/
  got : List (Nat × BitVec 48)
  deriving DecidableEq, Repr

/-- One Preaz Link (chapter 13). -/
structure Link where
  /-- STATE. Reset: DISABLED. -/
  st : LinkPhase := .disabled
  /-- STATE.RATE. Reset: T0. -/
  rate : LinkRate := .t0
  /-- STATE.LOCK. Reset: 0. -/
  lock : Bool := false
  /-- STATE.CAUSE, 8 bits. Reset: 0. -/
  cause : BitVec 8 := 0
  /-- STATE.RETRAINS, 16 bits. Reset: 0. -/
  retrains : BitVec 16 := 0
  /-- Content of the latest CAP frames and how many in a row were identical (R269). Reset: none. -/
  seen : Option (BitVec 96 × Nat) := none
  /-- Capabilities accepted (CAP0 to CAP2). Reset: none, reading 0. -/
  caps : Option Caps := none
  /-- MAXRATE as the present bring-up began (R293). Reset: 0. -/
  maxRate : Nat := 0
  /-- PRBS_MS as the present bring-up began (R293). Reset: 0. -/
  prbsMs : Nat := 0
  /-- Rate that the RATE_GO frames under way name (R269). Reset: none. -/
  goRate : Option LinkRate := none
  /-- End of the latest gap in LINK_CLK[n] for a rate change, half ns (R82, R269). Reset: 0. -/
  gapUntil : Nat := 0
  /-- Failures to lock at the present rate (R287). Reset: 0. -/
  lockFails : Nat := 0
  /-- R10 is ruled out after three failures (R287). Reset: false. -/
  noR10 : Bool := false
  /-- ID of the next ECHO, 8 bits (R278). Reset: 0. -/
  echoId : BitVec 8 := 0
  /-- ECHOs without a reply: ID and departure time in 1/16 tick. Reset: empty. -/
  echoes : List (BitVec 8 × Nat) := []
  /-- Replies discarded (R278, R281). Reset: 0. -/
  discarded : Nat := 0
  /-- Control blocks of a type that R271 does not list. Reset: 0. -/
  unknown : Nat := 0
  /-- RTT of the latest valid replies, newest first, at most 64, 1/16 tick (R279). Reset: empty. -/
  rtts : List Int := []
  /-- DFWD, 1/16 tick, 20 bits. Reset: 0. -/
  dfwd : Nat := 0
  /-- TIMING.LAT: L_k, 14 bits. Reset: 0. -/
  lat : Nat := 0
  /-- TIMING.TLINK, 16 bits. Reset: 0. -/
  tlink : Nat := 0
  /-- ALIGN.ERR: e of the latest reply, signed. Reset: 0. -/
  err : Int := 0
  /-- ALIGN.MAXERR, 16 bits. Reset: 0. -/
  maxErr : Nat := 0
  /-- Consecutive replies beyond 4 ticks in RUN, or within 1 tick in SYNC (R281, R287). Reset: 0. -/
  streak : Nat := 0
  /-- SYNCs sent since SYNC was entered. Reset: 0. -/
  syncs : Nat := 0
  /-- READY has been reported since SYNC was entered (R287). Reset: false. -/
  ready : Bool := false
  /-- The link stands in FAULT because R286 refused its head. Reset: false. -/
  refused : Bool := false
  /-- PRBS.DEV, 16 bits (R284). Reset: 0. -/
  prbsDev : Nat := 0
  /-- PRBS.BRD, 16 bits. Reset: 0. -/
  prbsBrd : Nat := 0
  /-- A PRBS phase has ended and the board's STATUS after it is awaited (R284). Reset: false. -/
  prbsOver : Bool := false
  /-- BOARD.FLAGS, 8 bits (R283). Reset: 0. -/
  flags : BitVec 8 := 0
  /-- BOARD.EPOCH, 16 bits. Reset: 0. -/
  epoch : BitVec 16 := 0
  /-- LATE_CNT and CRC_CNT of the latest STATUS. Reset: none. -/
  counts : Option (BitVec 8 × BitVec 8) := none
  /-- LOST.LATE, 16 bits. Reset: 0. -/
  lostLate : Nat := 0
  /-- LOST.BAD, 16 bits. Reset: 0. -/
  lostBad : Nat := 0
  /-- LINES.COUNT, 32 bits. Reset: 0. -/
  lines : BitVec 32 := 0
  /-- Time at which the last bit of the latest line leaves, half ns (R272, R288). Reset: 0. -/
  sendUntil : Nat := 0
  /-- Time of the latest log record of each cause that does not leave RUN, half ns (R288). Reset: empty. -/
  logged : List (Nat × Nat) := []
  /-- Bank in force, VTAB (R282). Reset: 0. -/
  vtab : Bool := false
  /-- Uploads due, the first one running once its bank is set (R282). Reset: empty. -/
  uploads : List Upload := []
  /-- The exchange of R285. Reset: none. -/
  auth : Option AuthRun := none
  /-- AUTH.RESULT, 3 bits. Reset: 0. -/
  authResult : BitVec 3 := 0
  /-- SERIAL, 64 bits. Reset: 0. -/
  serial : BitVec 64 := 0
  /-- USAGE, 48 bits. Reset: 0. -/
  usage : BitVec 48 := 0
  /-- Usage counts seen per serial since PLK was last reset (R285). Reset: empty. -/
  seenUsage : List (BitVec 64 × BitVec 48) := []
  /-- Backoff that the next fault takes, in ms (R287). Reset: 1. -/
  backoff : Nat := 1
  /-- Time RUN was entered, half ns (R287). Reset: none. -/
  runSince : Option Nat := none
  /-- The 100 µs link reset that follows FAULT is under way, so that the next entry to T0 counts as a retrain (R287). Reset: false. -/
  restart : Bool := false
  deriving DecidableEq, Repr

/-- PLK (chapter 13). -/
structure PlkState where
  /-- Preaz Links 0 to 31. -/
  link : Vector Link 32 := Vector.replicate 32 {}
  deriving DecidableEq, Repr

/-- LCK_CHc_STATE.STATE (R336). -/
inductive ChamberPhase | open_ | checking | armed | applied | rejected
  deriving DecidableEq, Repr

/-- Who a CHECK or ARM answers to. -/
inductive LockFor
  /-- A LOCK entry. -/
  | entry (id : Nat)
  /-- A ring lock of another device (R342), by its node. -/
  | ring (node : BitVec 10)
  /-- A correction loop (R322): 1 collation, 2 nozzle health; its planes. -/
  | loop (loop : Nat) (planes : BitVec 8)
  deriving DecidableEq, Repr

/-- What a CHECK or ARM asks for (R338, R342). -/
structure LockAsk where
  /-- Who it answers to. -/
  who : LockFor
  /-- True for ARM. -/
  arm : Bool
  /-- Instant kind 0 to 3. -/
  kind : Nat
  /-- Plane. -/
  plane : Fin 8
  /-- Web line, or time in ns. -/
  at_ : Nat
  /-- Ring lock of this device. -/
  ring : Bool
  deriving DecidableEq, Repr

/-- A ring lock that this device has started (R342). -/
structure RingLock where
  /-- Participants still to reply ARMED. -/
  waiting : List (BitVec 10)
  /-- Participants. -/
  all : List (BitVec 10)
  /-- COMMIT has been sent. -/
  committed : Bool
  /-- Participants still to report their outcome. -/
  outcomes : List (BitVec 10)
  /-- A participant reported an outcome other than APPLIED. -/
  failed : Bool
  /-- The ARM that it answers to. -/
  ask : LockAsk
  deriving DecidableEq, Repr

/-- One lock chamber (R333, R336). -/
structure Chamber where
  /-- STATE. Reset: APPLIED. -/
  st : ChamberPhase := .applied
  /-- CHECKED. Reset: 0. -/
  checked : Bool := false
  /-- BAD_REG. Reset: 0. -/
  badReg : Bool := false
  /-- CODE, 5 bits. Reset: 0. -/
  code : BitVec 5 := 0
  /-- Register entries, BAR0 offset and value, rising offsets (R333). Reset: empty. -/
  entries : List (Nat × BitVec 32) := []
  /-- ENTRIES: entries appended, 0 to 64. Reset: 0. -/
  count : Nat := 0
  /-- Staged units: table key divided by 64, and the 64 bytes (R333). Reset: empty. -/
  units : List (Nat × BitVec 512) := []
  /-- PENDING copies, 0 to 16 (R123). Reset: 0. -/
  pending : Nat := 0
  /-- A copy to the chamber failed since OPEN (R124). Reset: false. -/
  copyFailed : Bool := false
  /-- The CHECK or ARM in force. Reset: none. -/
  ask : Option LockAsk := none
  /-- CHECKs and ARMs that wait for the pending copies, oldest first (R336). Reset: empty. -/
  waiting : List LockAsk := []
  /-- The ring lock this device has started (R342). Reset: none. -/
  ring : Option RingLock := none
  /-- Ring locks of this device applied here, whose participants' outcomes are still due, oldest first (R342). Reset: empty. -/
  ended : List RingLock := []
  /-- An ARMED participant that waits for COMMIT (R342). Reset: false. -/
  held : Bool := false
  /-- Live units displaced at ARM (R340): table key divided by 64, old bytes. Reset: empty. -/
  kept : List (Nat × BitVec 512) := []
  /-- The apply copy has been ordered (R338). Reset: false. -/
  copying : Bool := false
  /-- The apply copy has completed (R338). Reset: false. -/
  copied : Bool := false
  /-- The register contents have taken effect (R339). Reset: false. -/
  regsDone : Bool := false
  /-- SCR has written a line with the staged contents (R187). Reset: false. -/
  used : Bool := false
  /-- Links whose bank the apply waits for (R282). Reset: empty. -/
  banks : List (Fin 32) := []
  /-- Links in RUN that have been given the chamber's bank (R282). Reset: empty. -/
  sent : List (Fin 32) := []
  /-- Density targets a twin lock carries: column id and gain (R386). Reset: empty. -/
  targets : List (Nat × BitVec 8) := []
  deriving DecidableEq, Repr

/-- LCK (chapter 16). -/
structure LckState where
  /-- Chambers 0 to 3. -/
  ch : Vector Chamber 4 := Vector.replicate 4 {}
  deriving DecidableEq, Repr

/-- TWN_STATUS.ROLE (R374). -/
inductive TwinRole | single | active | standby | joining | failed
  deriving DecidableEq, Repr

/-- Signatures of one fire line of a plane (R376). -/
structure Sig where
  /-- Plane. -/
  plane : Fin 8
  /-- Fire line. -/
  line : Nat
  /-- ERR (R377). -/
  err : Bool
  /-- Link and CRC-32C, ascending links. -/
  sums : List (Fin 32 × BitVec 32)
  deriving DecidableEq, Repr

/-- Twin state of one plane. -/
structure TwinPlane where
  /-- e_p (R387). Reset: 0. -/
  epoch : Nat := 0
  /-- SEPOCH.VALID. Reset: 0. -/
  valid : Bool := false
  /-- MATCH.RUN, 13 bits. Reset: 0. -/
  match_ : Nat := 0
  /-- Largest L_k the peer reports (R375). Reset: 0. -/
  peerLat : Nat := 0
  /-- Received STAMPs not yet used: fire line, stamp, T_f (R375). Reset: empty. -/
  stamps : List (Nat × Nat × Nat) := []
  /-- Fire line of the latest STAMP received (R384). Reset: none. -/
  stamped : Option Nat := none
  /-- The latest line on which this device, as standby, was data-late and which the active is not yet known to have launched (R374, R390). Reset: none. -/
  late : Option Nat := none
  /-- Time of the latest error of R377 that concerns the plane, half ns. Reset: none. -/
  errAt : Option Nat := none
  deriving DecidableEq, Repr

/-- TWN (chapter 18). -/
structure TwnState where
  /-- STATUS.ROLE. Reset: SINGLE. -/
  role : TwinRole := .single
  /-- STATUS.PEER_LIVE. Reset: 0. -/
  peerLive : Bool := false
  /-- STATUS.FAIL_CAUSE, 4 bits. Reset: 0. -/
  failCause : BitVec 4 := 0
  /-- Causes recorded on a standby: FIRE_ENABLE, POSITION, HOST, DATA_LATE of TAKE_BLOCK, per plane (R383): bits 0 to 3. Reset: 0. -/
  block : Vector (BitVec 4) 8 := Vector.replicate 8 0
  /-- TWN_EPOCH.EPOCH, 16 bits. Reset: 1. -/
  epoch : BitVec 16 := 1
  /-- TAKEOVERS, 16 bits. Reset: 0. -/
  takeovers : BitVec 16 := 0
  /-- COUNT.DISAGREE, 16 bits. Reset: 0. -/
  disagree : BitVec 16 := 0
  /-- COUNT.STAMP_LATE, 16 bits. Reset: 0. -/
  stampLate : BitVec 16 := 0
  /-- Role the peer last reported. Reset: none. -/
  peerRole : Option TwinRole := none
  /-- TAKE_BLOCK the peer last reported is not 0 (R389). Reset: false. -/
  peerBlock : Bool := false
  /-- Planes. -/
  plane : Vector TwinPlane 8 := Vector.replicate 8 {}
  /-- Signatures formed so far of lines whose last link deadline has not passed (R376). Reset: empty. -/
  forming : List Sig := []
  /-- Own SIGs not yet compared, newest first. Reset: empty. -/
  own : List Sig := []
  /-- Peer SIGs not yet compared, newest first. Reset: empty. -/
  peer : List Sig := []
  /-- First line of each plane that is compared again after a takeover (R390). Reset: 0. -/
  after : Vector Nat 8 := Vector.replicate 8 0
  /-- Time of the latest TWIN_DISAGREE record of each link, half ns (R378). Reset: empty. -/
  logged : List (Nat × Nat) := []
  /-- The TWIN_CTRL swap entry under way (R389). Reset: none. -/
  swap : Option Nat := none
  /-- Planes in RUN at the swap whose line n_s the new active is not yet known to have transmitted (R389), 8 bits. Reset: 0. -/
  swapLeft : BitVec 8 := 0
  /-- TAKEOVER has come while this device was ACTIVE and gave no swap: no more lines are committed (R381). Reset: false. -/
  yielded : Bool := false
  deriving DecidableEq, Repr

end Sys2Proof.Machine
end

