-- ==== Sys2Proof/Machine/OutState.lean ====
section
/-! DEFINITION. What the block sends to the world outside it, as a trace (the model's own field, log entry 2). -/

namespace Sys2Proof.Machine

/-- What a Ulilis Ring frame carries (R356, R373). -/
inductive RingMsg
  /-- HELLO: node, SLEEP. -/
  | hello (node : BitVec 10) (sleep : Bool)
  /-- ANNOUNCE: node, group, TM_PRIO, and the role of a ring-lock participant. -/
  | announce (node : BitVec 10) (group : BitVec 8) (prio : BitVec 8) (accepts : Bool)
  /-- DELAY_REQ with its departure time, 1/16 ns. -/
  | delayReq (departure : Int)
  /-- DELAY_RESP: the request's departure time and the turnaround, 1/16 ns. -/
  | delayResp (departure turnaround : Int)
  /-- TIME: ORIGIN and CORRECTION, 1/16 ns. -/
  | time (origin correction : Int)
  /-- TIDE: its 32 payload bytes (R362). -/
  | tide (bytes : List Byte)
  /-- STOP: group, plane mask. -/
  | stop (group : BitVec 8) (mask : BitVec 8)
  /-- STATE: group, state of each plane. -/
  | state (group : BitVec 8) (planes : Vector PlanePhase 8)
  /-- LOCK_ARM: group, chamber, kind, plane, instant. -/
  | lockArm (group : BitVec 8) (chamber : Fin 4) (kind : Nat) (plane : Fin 8) (at_ : Nat)
  /-- LOCK_REPLY to the initiator: chamber, ARMED. -/
  | lockReply (to_ : BitVec 10) (chamber : Fin 4) (armed : Bool)
  /-- LOCK_COMMIT: group, chamber. -/
  | lockCommit (group : BitVec 8) (chamber : Fin 4)
  /-- LOCK_ABORT: group, chamber. -/
  | lockAbort (group : BitVec 8) (chamber : Fin 4)
  /-- LOCK_OUTCOME to the initiator: chamber, APPLIED. -/
  | lockOutcome (to_ : BitVec 10) (chamber : Fin 4) (applied : Bool)
  /-- HEARTBEAT: role, epoch, conditions of R370 (group, RING_ACCEPT and RING_STOP, time base, settings), largest L_k per plane, TAKE_BLOCK. -/
  | heartbeat (role : TwinRole) (epoch : BitVec 16) (prefer : Bool) (peer : BitVec 10) (conditions : BitVec 8 × Bool × Bool × List Nat)
      (lats : Vector Nat 8) (blocked : Bool)
  /-- STAMP: its 16 payload bytes (R375). -/
  | stamp (bytes : List Byte)
  /-- SIG: its payload bytes (R376). -/
  | sig (bytes : List Byte)
  /-- TAKEOVER: new epoch. -/
  | takeover (epoch : BitVec 16)
  /-- FAILED: cause. -/
  | failed (cause : BitVec 4)
  /-- SWAP: n_s of each plane. -/
  | swap (first : Vector Nat 8)
  /-- PLANE_STATE of one plane: X_a, Φ_a, o_p, σ_p, P_p, e_p. -/
  | planeState (plane : Fin 8) (xa phia ofs stretch print : Int) (epoch : Nat)
  /-- STAGE: chamber, units, register entries, glide targets. -/
  | stage (chamber : Fin 4) (units : List (Nat × BitVec 512)) (entries : List (Nat × BitVec 32)) (targets : List (Nat × BitVec 8))
  /-- JOIN. -/
  | join
  /-- WAKE to a node. -/
  | wake (node : BitVec 10)
  deriving DecidableEq, Repr

/-- One 64-bit block of a ring port (R354, R355): control or data, byte 0 in bits 7:0. -/
structure RingBlock where
  /-- A control block. -/
  control : Bool
  /-- Its 8 bytes. -/
  bits : BitVec 64
  deriving DecidableEq, Repr

/-- What a ring frame holds (R355): its header fields, SEQ and payload bytes. -/
structure RingFrame where
  /-- TYPE. -/
  type_ : BitVec 8
  /-- SRC. -/
  src : BitVec 10
  /-- DST. -/
  dst : BitVec 10
  /-- ALL. -/
  all : Bool
  /-- HOPS. -/
  hops : BitVec 10
  /-- SEQ. -/
  seq : BitVec 16
  /-- Payload, 0 to 32 blocks of 8 bytes. -/
  payload : List Byte
  deriving DecidableEq, Repr

/-- A PTP message the ordinary clock sends (R350). -/
inductive PtpKind | delayReq | pdelayReq | pdelayResp | delayResp | announce | sync | followUp | arpReply
  deriving DecidableEq, Repr

/-- A PTP message, or other Ethernet frame, that reaches the PTP port (R350), its times in 1/16 ns. -/
inductive PtpRx
  /-- Sync: origin timestamp, correction, and whether a Follow_Up carries the timestamp. -/
  | sync (origin correction : Int) (twoStep : Bool)
  /-- Follow_Up: precise origin timestamp, correction. -/
  | followUp (origin correction : Int)
  /-- Delay_Resp: receive timestamp, correction. -/
  | delayResp (receive correction : Int)
  /-- Pdelay_Resp with its follow-up: request receipt, response origin, correction. -/
  | pdelayResp (receipt origin correction : Int)
  /-- Delay_Req. -/
  | delayReq
  /-- Pdelay_Req. -/
  | pdelayReq
  /-- Announce, with the portState that the best master clock algorithm decides on it. -/
  | announce (portState : BitVec 4)
  /-- ARP request for an IPv4 address. -/
  | arp (address : BitVec 32)
  /-- Any other frame. -/
  | other
  deriving DecidableEq, Repr

/-- What a frame carries is a PTP message. -/
def PtpRx.isPtp : PtpRx → Bool
  | .sync .. | .followUp .. | .delayResp .. | .pdelayResp .. | .delayReq | .pdelayReq | .announce _ => true
  | .arp _ | .other => false

/-- A frame that reaches the PTP port, with how it is carried (R350). -/
structure PtpFrame where
  /-- It carries a tag. -/
  tagged : Bool := false
  /-- UDP over IPv4; else IEEE 802.3. -/
  udp : Bool := true
  /-- Domain number of a PTP message. -/
  domain : BitVec 8 := 0
  /-- logMessageInterval of a Sync. -/
  interval : Int := 0
  /-- What it carries. -/
  body : PtpRx
  deriving DecidableEq, Repr

/-- One message or transfer that leaves the device. -/
inductive Out
  /-- Read request to host memory: bus address, length. -/
  | hostRead (addr len : Nat)
  /-- Memory Write to host memory in one request or piece, with or without Relaxed Ordering (R98, R102, R103, R107). -/
  | hostWrite (addr : Nat) (bytes : List Byte) (relaxed : Bool)
  /-- MSI-X message of a vector: its address and data as the table holds them (R19, R106). -/
  | msix (vector : Fin 64) (addr : BitVec 64) (data : BitVec 32)
  /-- Data of a BAR0 read (R7, R78): offset of its first byte, its bytes. -/
  | barData (offset : Nat) (bytes : List Byte)
  /-- A request completed as Unsupported Request (R7, R21, R59, R65, R79). -/
  | unsupported (offset : Nat)
  /-- A configuration request completed with Configuration Request Retry Status (R65). -/
  | configRetry
  /-- A configuration request completed normally; the dword of a read where R85 and R86 give it. -/
  | config (value : Option Word)
  /-- Data of a BAR2 read, poisoned or not (R21, R140). -/
  | bar2Data (bytes : List Byte) (poisoned : Bool)
  /-- Data of a DRAM read returned to its port (R140). -/
  | dramData (port : Fin 10) (seq : Nat) (bytes : List Byte) (uncorrectable : Bool)
  /-- A capability frame on a Preaz Link: its 16 data bytes; sent once, or back to back until the link does something else (R267, R426). -/
  | capFrame (link : Fin 32) (bytes : List Byte) (repeats : Bool)
  /-- A control block on a Preaz Link: its payload (R271). -/
  | block (link : Fin 32) (payload : BitVec 64)
  /-- The 2,049 CFG blocks of an upload on a Preaz Link, in order: their payloads (R282). -/
  | cfg (link : Fin 32) (blocks : List (BitVec 64))
  /-- PRBS31 in data blocks on a Preaz Link, until its next control block (R284). -/
  | prbs (link : Fin 32)
  /-- A line on a Preaz Link (R272): LINE_START, eight LINE_PHASE blocks, the payload of the data blocks, LINE_END. -/
  | line (link : Fin 32) (start : BitVec 64) (phases : List (BitVec 64)) (payload : List Byte) (end_ : BitVec 64)
  /-- The line under way on a Preaz Link stops: what has not left yet, LINE_END with it, is not sent (R288, R291). -/
  | lineCut (link : Fin 32)
  /-- A frame this device originates, with its TYPE and SEQ, on both ports (R356, R357). -/
  | ring (type : BitVec 8) (seq : BitVec 16) (msg : RingMsg)
  /-- A frame on one port alone: HELLO, delay exchange, or a twin message on the direct hop (R356, R373). -/
  | hop (port : Fin 2) (type : BitVec 8) (seq : BitVec 16) (msg : RingMsg)
  /-- A frame forwarded on a port, block by block (R355, R357). -/
  | forward (port : Fin 2) (blocks : List RingBlock)
  /-- A TIME frame forwarded on a port: originator, SEQ, HOPS, ORIGIN and CORRECTION in 1/16 ns (R359). -/
  | timeForward (port : Fin 2) (src : BitVec 10) (seq : BitVec 16) (hops : Nat) (origin correction : Int)
  /-- A PTP message or ARP reply: Ethernet port, UDP over IPv4 or IEEE 802.3, domain (R350). -/
  | ptp (port : Fin 2) (udp : Bool) (domain : BitVec 8) (kind : PtpKind)
  /-- Refresh of a rank of a subchannel (R132). -/
  | refresh (sub : Fin 4)
  /-- Directed refresh for an activated row (R139): bank, row. -/
  | directedRefresh (sub : Fin 4) (bank row : Nat)
  /-- A row next to an activated one is activated and precharged (R139): bank, row. -/
  | neighbourActivate (sub : Fin 4) (bank row : Nat)
  /-- Interrupt to a control core: by a TIM comparator (R351). -/
  | comparatorInterrupt (k : Fin 16)
  /-- Interrupt to a control core: by a sampled counter (R408), with the counter's number. -/
  | coreInterrupt (core : Fin 4) (counter : Fin 64)
  deriving DecidableEq, Repr

end Sys2Proof.Machine
end

