-- ==== Sys2Proof/Machine/PrintState.lean ====
section
/-! DEFINITION. State of the printing path of the AL8-262. -/

namespace Sys2Proof.Machine

/-- State of an indexed quire (R163). -/
inductive QuireState | indexed | decoding | verified | bad | blanked
  deriving DecidableEq, Repr

/-- A base or overlay quire of the index (R148, R152). -/
structure Quire where
  /-- Number given when it was indexed; a replacement gets a new one. -/
  id : Nat
  /-- PLANE. -/
  plane : Fin 8
  /-- KIND: 0 contone, else bits per column. -/
  kind : Nat
  /-- Overlay number; none for a base quire. -/
  overlay : Option (Fin 16)
  /-- FIRST_LINE. -/
  first : Nat
  /-- LINE_COUNT. -/
  count : Nat
  /-- COL_FIRST. -/
  colFirst : Nat
  /-- COL_COUNT. -/
  colCount : Nat
  /-- RAW_LEN. -/
  rawLen : Nat
  /-- COMP_LEN. -/
  compLen : Nat
  /-- PAYLOAD_CRC. -/
  crc : BitVec 32
  /-- Job address of the header. -/
  job : Nat
  /-- State. -/
  state : QuireState
  /-- Stream bytes the engine has read so far (R425); those of the verified decode once it has passed. -/
  read : List (BitVec 8)
  /-- A read of the stream, or of a plate quire's header, has failed: the decoder gets no further input (R116, R158). -/
  cut : Bool := false
  deriving DecidableEq, Repr

/-- The decode of one repeat of a plate quire (R164, R174). -/
structure PlateRun where
  /-- Plate descriptor. -/
  desc : Fin 32
  /-- List entry of table 0x0014. -/
  entry : Nat
  /-- Web line on which plate line 0 of the repeat falls. -/
  origin : Int
  /-- The plate quire as its header reads at this decode, at web lines; its state as of R163. -/
  quire : Quire
  deriving DecidableEq, Repr

/-- What a decompression engine holds (R159). -/
inductive EngineJob
  /-- A base or overlay quire, by number. -/
  | quire (id : Nat)
  /-- A plate repeat, by the number of its quire record. -/
  | plate (id : Nat)
  deriving DecidableEq, Repr

/-- Where an operand of a compression lies (R95, R169): host memory, job space, or for the camera archive device DRAM. -/
inductive CompSpace | host | job | dram
  deriving DecidableEq, Repr

/-- A compression request (R169): a COMPRESS entry, or one of the firmware for the camera archive. -/
structure CompReq where
  /-- The COMPRESS entry; none for the camera archive. -/
  flight : Option Nat
  /-- Source address. -/
  src : Nat
  /-- Destination address. -/
  dst : Nat
  /-- Input length. -/
  len : Nat
  /-- Output capacity. -/
  cap : Nat
  /-- Chain depth. -/
  depth : Nat
  /-- Hash width. -/
  hash : Nat
  /-- Where the source lies. -/
  srcAt : CompSpace
  /-- Where the destination lies. -/
  dstAt : CompSpace
  deriving DecidableEq, Repr

/-- A compression on an engine (R118, R169). -/
structure CompJob where
  /-- The request. -/
  req : CompReq
  /-- Input bytes the engine has taken, in order. -/
  input : List (BitVec 8)
  /-- Input that has come before bytes that precede it: offset, bytes. -/
  early : List (Nat × List (BitVec 8))
  /-- Output bytes that have gone out. -/
  sent : Nat
  deriving DecidableEq, Repr

/-- QDC (chapter 08). -/
structure QdcState where
  /-- The quire index, oldest first (R152). Reset: empty. -/
  quires : List Quire := []
  /-- Number of the next quire. Reset: 0. -/
  nextId : Nat := 0
  /-- Sealed line of each plane, 48 bits (R153). Reset: 0. -/
  sealed : Vector Nat 8 := Vector.replicate 8 0
  /-- Plate repeats started and not yet passed by the fire line (R164). Reset: empty. -/
  plates : List PlateRun := []
  /-- Decompression engines (R159). Reset: idle. -/
  dec : Vector (Option EngineJob) 16 := Vector.replicate 16 none
  /-- Compression engines (R169). Reset: idle. -/
  comp : Vector (Option CompJob) 4 := Vector.replicate 4 none
  /-- Compression requests waiting, oldest first (R169). Reset: empty. -/
  compQueue : List CompReq := []
  /-- QDC_BAD.COUNT, 16 bits. Reset: 0. -/
  badCount : BitVec 16 := 0
  /-- QDC_BAD.LAST_CAUSE, 3 bits. Reset: 0. -/
  badCause : BitVec 3 := 0
  /-- QDC_BAD.LAST_PLANE, 3 bits. Reset: 0. -/
  badPlane : Fin 8 := 0
  /-- QDC_REPLACE.ACCEPTED, 16 bits. Reset: 0. -/
  accepted : BitVec 16 := 0
  /-- QDC_REPLACE.LATE, 16 bits. Reset: 0. -/
  late : BitVec 16 := 0
  deriving DecidableEq, Repr

/-- A source of a plane line (R172). -/
inductive LineSource
  /-- Fill. -/
  | fill
  /-- A plate repeat, by number. -/
  | plate (id : Nat)
  /-- A base or overlay quire, by number. -/
  | quire (id : Nat)
  deriving DecidableEq, Repr

/-- A line screening has started and not yet finished or released (R187, R191). -/
structure LineWork where
  /-- Web line. -/
  line : Nat
  /-- Sources that have written it. -/
  done : List LineSource
  deriving DecidableEq, Repr

/-- SCR (chapter 09). -/
structure ScrState where
  /-- READY of each plane, 48 bits (R191). Reset: 0. -/
  ready : Vector Nat 8 := Vector.replicate 8 0
  /-- Lines of each plane started and at or above READY, or rewritten by a replacement. Reset: empty. -/
  lines : Vector (List LineWork) 8 := Vector.replicate 8 []
  /-- Highest line started on each plane since JOB_OPEN, plus one (R187). Reset: 0. -/
  started : Vector Nat 8 := Vector.replicate 8 0
  /-- SCR_MASKED, 32 bits (R177). Reset: 0. -/
  masked : BitVec 32 := 0
  /-- Column passes of the last 1,000,000 CORE_CLK cycles, for LOAD (R186): time in half ns and number, newest first (log entry 24). Reset: empty. -/
  passes : List (Nat × Nat) := []
  deriving DecidableEq, Repr

/-- CSM_LNn_STATE (R215). -/
inductive GutterState | silent | refilling | running
  deriving DecidableEq, Repr

/-- The fetch of one fire line of a link (R200, R207). -/
structure FetchBuf where
  /-- Fire line. -/
  line : Nat
  /-- Links in RUN with their gate open when the fetch started (R200). -/
  live : BitVec 32
  /-- Segments started. -/
  started : List (Fin 16)
  /-- Segments mapped. -/
  done : List (Fin 16)
  /-- Levels by channel index; unlisted channels are at level 0. -/
  levels : List (Nat × Nat)
  deriving DecidableEq, Repr

/-- Fetch stage and gutter of one link (R207, R208, R215). -/
structure LinkGutter where
  /-- STATE. Reset: SILENT. -/
  state : GutterState := .silent
  /-- Fetch stage, up to K lines, ascending (R207). Reset: empty. -/
  fetch : List FetchBuf := []
  /-- Gutter slots: slot number and levels by channel index; an unlisted slot is at level 0 (R208). Reset: empty. -/
  slots : List (Nat × List (Nat × Nat)) := []
  /-- First fire line fetched after a rejoin or a JOB_OPEN (R208, R215). Reset: 0. -/
  f0 : Nat := 0
  /-- The line after the last one the gutter has taken in since then (R208, R216). Reset: 0. -/
  taken : Nat := 0
  /-- Lines launched before a JOB_OPEN and still to be sent: stamp, levels by channel index (R208, R263). Reset: empty. -/
  owed : List (Nat × List (Nat × Nat)) := []
  /-- The link has left RUN or its gate has closed, and it has not been RUNNING since (R214). Reset: false. -/
  away : Bool := false
  /-- Since it became RUNNING, a line has been complete at its launch (R215). Reset: false. -/
  joined : Bool := false
  /-- Fire lines of the job that its link has sent: first and last of each run, newest first (R320). Reset: empty. -/
  sent : List (Nat × Nat) := []
  deriving DecidableEq, Repr

/-- CSM (chapter 10). -/
structure CsmState where
  /-- Fetch stage and gutter of each link. -/
  link : Vector LinkGutter 32 := Vector.replicate 32 {}
  /-- CSM_GATE: closed gates, 32 bits (R217). Reset: 0. -/
  gate : BitVec 32 := 0
  /-- CSM_EMPTY, 19 bits (R212). Reset: 0. -/
  empty : Nat := 0
  /-- CSM_REFILL_BLANK, 32 bits (R216). Reset: 0. -/
  refillBlank : BitVec 32 := 0
  /-- CSM_DISCARD, 32 bits (R215). Reset: 0. -/
  discard : BitVec 32 := 0
  /-- Links live at a fetch, by link's plane: first fire line of each run of equal samples, newest first (R200, R320). Reset: empty. -/
  samples : Vector (List (Nat × BitVec 32)) 8 := Vector.replicate 8 []
  /-- Column visits of the last 1,000,000 CORE_CLK cycles, for LOAD (R218): time in half ns and number, newest first (log entry 24). Reset: empty. -/
  visits : List (Nat × Nat) := []
  deriving DecidableEq, Repr

end Sys2Proof.Machine
end

