-- ==== Sys2Proof/Syntax.lean ====
section
/-! DEFINITION. The commands the block takes, one constructor of Instr per row of the opcode table, and the operand types they use. -/

namespace Sys2Proof

open Sys2Proof.Machine

/-- Result of the boot ROM's three checks of one image slot (R67). -/
structure SlotCheck where
  /-- The signature verifies against a key in OTP. -/
  signature : Bool
  /-- The payload digest matches. -/
  digest : Bool
  /-- Rollback value of the image. -/
  rollback : Nat
  /-- Version of the image. -/
  version : Nat
  deriving DecidableEq, Repr

/-- Why a running copy fails (R124). -/
inductive CopyFault | sourceEcc | readWrapper | writeWrapper | chamberClosed
  deriving DecidableEq, Repr

/-- A dword or register of configuration space (R85, R86): the header by dword number, Device Control and the serial number by name, since the spec places no capability structure; any other. -/
inductive ConfigReg
  /-- Dword n of the header. -/
  | header (n : Fin 16)
  /-- Device Control of the PCI Express capability. -/
  | deviceControl
  /-- Half of the device serial number. -/
  | serial (high : Bool)
  /-- Any other. -/
  | other
  deriving DecidableEq, Repr

/-- A configuration request (R65, R85, R86). -/
structure ConfigAccess where
  /-- What it names. -/
  reg : ConfigReg
  /-- The dword of a write; none for a read. -/
  write : Option Word
  deriving DecidableEq, Repr

/-- The clocks that one window of the clock monitor counts (R82). -/
structure ClockWindow where
  /-- Clock numbers of R82 with the rising edges of each. -/
  counts : List (Fin 48 × Nat)
  /-- Reference nanosecond at which the window closes. -/
  at_ : Nat
  deriving DecidableEq, Repr

/-- A host write of a dword of BAR4, the MSI-X table (R19, R106). -/
structure TableWrite where
  /-- Byte offset. -/
  offset : BitVec 12
  /-- The dword. -/
  value : Word
  deriving DecidableEq, Repr

/-- What the (A, B) inputs of an encoder channel show (R221, R222). -/
structure EncoderPins where
  /-- Synchronised levels, A in bit 1 and B in bit 0. -/
  levels : BitVec 2
  /-- Consecutive FIRE_CLK samples that have shown the level of A. -/
  shownA : Nat
  /-- Those that have shown the level of B. -/
  shownB : Nat
  deriving DecidableEq, Repr

/-- What the Z input of an encoder channel shows after a change (R221, R225). -/
structure IndexPin where
  /-- The synchronised level has risen; else it has fallen. -/
  rising : Bool
  /-- Consecutive FIRE_CLK samples that have shown it. -/
  shown : Nat
  deriving DecidableEq, Repr

/-- An encoder channel at an instant (R232). -/
structure ChannelInstant where
  /-- The channel. -/
  channel : Fin 8
  /-- Reference nanosecond. -/
  at_ : Nat
  deriving DecidableEq, Repr

/-- A T0 frame as a link's receiver hands it on (R267). -/
structure LinkFrame where
  /-- The 16 data bytes, the first lowest. -/
  bytes : BitVec 128
  /-- No character had a code or disparity error. -/
  clean : Bool
  deriving DecidableEq, Repr

/-- The sync headers that a link's receiver has taken (R270). -/
structure LinkHeaders where
  /-- The link. -/
  link : Fin 32
  /-- The headers, oldest first. -/
  headers : List (BitVec 2)
  deriving DecidableEq, Repr

/-- SECDED outcome of a DRAM read (R140). -/
inductive EccOutcome | clean | corrected | uncorrectable
  deriving DecidableEq, Repr

/-- A DRAM request as its requester sends it (R133): a read of bytes, or a write of bytes, within one 64-byte unit. -/
structure DramAccess where
  /-- True for a write. -/
  write : Bool
  /-- Byte address. -/
  addr : BitVec 36
  /-- Length of a read, in bytes. -/
  len : Nat
  /-- Bytes of a write. -/
  bytes : List Byte
  /-- Port CP only: the request serves a chamber view or a chamber apply (class 0, R122). -/
  chamber : Bool
  deriving DecidableEq, Repr

/-- The commands of the block, one constructor per row of the opcode table (R78, R95, R104 and the rules each row names). -/
inductive Instr
  /-- POWER_ON_ASSERT (R53). VDD_AON below 0.70 V or VDDIO33 below 2.90 V asserts the power-on source at reach L0. -/
  | powerOnAssert
  /-- POWER_ON_RELEASE (R53). 10 ms after both rails pass their thresholds and the oscillator has started, the power-on source releases. -/
  | powerOnRelease
  /-- RAIL_DIP_DETECT (R53). A monitored rail below 90 % of nominal for 50 consecutive AON_CLK samples asserts the rail source at L1. -/
  | railDipDetect
  /-- RAIL_RECOVER_RELEASE (R53). When every monitored rail has been good on every sample for 1 ms, the rail source releases. -/
  | railRecoverRelease
  /-- RESET_N_ASSERT (R55). RESET_N held low for at least 1 µs asserts its source at its OTP reach, L0 or L1. -/
  | resetNAssert
  /-- RESET_N_RELEASE (R55). RESET_N returning high releases its source, and the covered domains move toward release. -/
  | resetNRelease
  /-- PCIE_PERST_ASSERT (R55). PCIE_PERST_N going low outside sleep asserts its source at L1, or at L4 on HIF; in state READY it starts sleep. -/
  | pciePerstAssert
  /-- PCIE_PERST_DEASSERT (R64). PCIE_PERST_N deassertion releases its source, starts or resumes bring-up and link training, and wakes a sleeping device. -/
  | pciePerstDeassert
  /-- WATCHDOG_EXPIRY (R55). A control-core watchdog period of 100 ms that is not served asserts the watchdog source for 100 µs at reach L1 or L2. -/
  | watchdogExpiry
  /-- WATCHDOG_SOURCE_RELEASE (R55). 100 µs after it asserts, the watchdog source lets go. -/
  | watchdogSourceRelease
  /-- LINK_RESET_EXPIRY (R55). The 100 µs link reset that precedes an automatic or commanded link retry ends, and the link restarts at T0. -/
  | linkResetExpiry (link : Fin 32)
  /-- RST_BLOCK_HOLD_WRITE (R72). A write of RST_BLOCK.BLOCK_HOLD applies or releases software L4 holds on single blocks at once. -/
  | rstBlockHoldWrite (hold : BitVec 12)
  /-- RST_DATA_HOLD_WRITE (R72). A write of RST_BLOCK.DATA_HOLD applies or releases an L3 hold on the DATA domain. -/
  | rstDataHoldWrite (hold : Bool)
  /-- RST_CTRL_HOLD_WRITE (R72). A write of RST_BLOCK.CTRL_HOLD applies or releases an L3 hold on the CTRL domain. -/
  | rstCtrlHoldWrite (hold : Bool)
  /-- RST_LINK_WRITE (R72). A write of RST_LINK applies or releases L4 holds on individual Preaz Links at once. -/
  | rstLinkWrite (hold : BitVec 32)
  /-- ISOLATION_DRAINED (R57). The isolation wrapper holds no outstanding transfer, and the domain enters IN_RESET with both halves of its crossings reset. -/
  | isolationDrained (unit : ResetUnit)
  /-- DOMAIN_CLOCKS_STABLE (R57). Every PLL of a PENDING domain is locked and 64 further cycles have passed, so release of its blocks begins. -/
  | domainClocksStable (unit : ResetUnit)
  /-- PENDING_CLOCK_TIMEOUT (R57). A clock of a PENDING domain is not stable after 10 ms, and the domain stays in reset with error 0x04 during bring-up. -/
  | pendingClockTimeout (unit : ResetUnit)
  /-- BLOCK_RELEASE (R58). The next block of a releasing domain leaves reset, one every 16 AON_CLK cycles in the fixed order, and takes its reset values. -/
  | blockRelease (domain : Domain)
  /-- DMC_ZQ_CAL_DONE (R61). After release, DMC finishes leaving self-refresh and ZQ calibration and begins accepting requests. -/
  | dmcZqCalDone
  /-- PLL_LOCK (R64). A PLL achieves lock, and CLK_LOCK follows. -/
  | pllLock (pll : Fin 11)
  /-- OSCILLATOR_START (R64). The 25 MHz oscillator starts, AON_CLK runs and the supervisor core leaves reset (bring-up stage 1). -/
  | oscillatorStart
  /-- OTP_READ_DONE (R64). The OTP read into the shadow completes (stage 2), or fails with code 0x01. -/
  | otpReadDone (record : Option Otp)
  /-- SECURE_BOOT_DONE (R67). The boot ROM finishes checking image slots A and B and runs the chosen one, or fails with code 0x02 or 0x03. -/
  | secureBootDone (slotA slotB : SlotCheck)
  /-- DRAM_TRAINING_DONE (R130). Training of a DRAM channel completes in stage 5; a failure of channel 0 fails bring-up, and one of channel 1 disables it. -/
  | dramTrainingDone (channel : Fin 2) (result : TrainResult)
  /-- SERDES_CALIBRATION_DONE (R40). Calibration of a SerDes bank or the CSI-2 receivers completes, or the bank is disabled and its OFF bit set. -/
  | serdesCalibrationDone (bank : Bank) (ok : Bool)
  /-- FIRMWARE_SELF_TEST_DONE (R64). The control cores finish firmware start and self-test (stage 6); bring-up is done, or fails with code 0x06. -/
  | firmwareSelfTestDone (ok : Bool) (elapsedMs : Nat)
  /-- PCIE_LINK_UP (R64). The PCIe link reaches L0. -/
  | pcieLinkUp
  /-- CONFIG_REQUEST (R65). A configuration request completes with Configuration Request Retry Status until bring-up ends, and normally afterwards. -/
  | configRequest (access : ConfigAccess)
  /-- BAR_ACCESS_UNSUPPORTED (R7). A misaligned, spanning or over-long BAR0 request, or a partial write, is discarded or completes as Unsupported Request. -/
  | barAccessUnsupported (write : Bool) (offset : BitVec 25) (length : Nat)
  /-- REGISTER_WRITE (R78). A host write to a register without behaviour of its own crosses to the block's clock and takes effect there. -/
  | registerWrite (offset : BitVec 25) (value : Word)
  /-- REG_ACCESS_ABANDONED (R79). A register access not taken by its block within 50 µs is abandoned, and a REG_ABANDONED record is written. -/
  | regAccessAbandoned (write : Bool) (offset : BitVec 25)
  /-- BAR2_ACCESS (R21). A host access to BAR2 reaches device DRAM through the window in class 3, or completes as Unsupported Request beyond the installed capacity. -/
  | bar2Access (write : Bool) (offset : BitVec 28) (bytes : List Byte)
  /-- SLEEP_ENTER_WRITE (R69). A write of RST_SLEEP.ENTER = 1 is refused with a REASON, or starts DRAINING. -/
  | sleepEnterWrite (value : Word)
  /-- SLEEP_DRAIN_DONE (R69). HIF completes the entries in progress and stops fetching, and RST_SLEEP.STATE moves to READY. -/
  | sleepDrainDone
  /-- D3HOT_ENTRY (R70). The function is placed in D3hot, and the 100 ms sleep-entry timer starts. -/
  | d3hotEntry
  /-- SLEEP_ENTRY_TIMEOUT (R70). 100 ms after D3hot entry in state READY, the device enters sleep. -/
  | sleepEntryTimeout
  /-- GPIO_WAKE_EDGE (R71). An enabled edge of the selected GPIO abandons sleep entry, or wakes the device and drives PCIE_WAKE_N low. -/
  | gpioWakeEdge (gpio : Fin 16) (rising : Bool)
  /-- HEARTBEAT_HALF_PERIOD (R43). Every 25,000 AON_CLK cycles the generator toggles DRIVE_OK and HOLD_REQ while their good conditions hold. -/
  | heartbeatHalfPeriod
  /-- FIRE_ENABLE_EDGE (R47). A filtered edge on FIRE_ENABLE is checked against the 200 µs to 2,000 µs interval rule, asserting or deasserting the interlock. -/
  | fireEnableEdge (at_ : Nat)
  /-- FIRE_ENABLE_TIMEOUT (R47). 2,000 µs without an edge deasserts FIRE_ENABLE. -/
  | fireEnableTimeout (at_ : Nat)
  /-- CLOCK_MONITOR_WINDOW (R82). Every 64 AON_CLK cycles CLK compares each monitored clock's cycle count with the expected count. -/
  | clockMonitorWindow (window : ClockWindow)
  /-- CLK_MEAS_START (R82). A write of CLK_MEAS_SEL.START starts or restarts a measurement of the selected clock. -/
  | clkMeasStart (value : Word)
  /-- CLK_MEAS_DONE (R82). The measurement window closes, and CLK_MEAS takes COUNT with DONE set. -/
  | clkMeasDone (count : BitVec 31)
  /-- MR_ENABLE_WRITE (R89). Writing 1 to a manifest ring's ENABLE starts it with HEAD 0, unless its size or completion ring forbids it. -/
  | mrEnableWrite (ring : Fin 16) (value : Word)
  /-- MR_DISABLE_WRITE (R90). Writing 0 to a manifest ring's ENABLE stops fetching and completes its waiting entries as ABORTED. -/
  | mrDisableWrite (ring : Fin 16) (value : Word)
  /-- MR_DRAINED (R90). The last fetched entry of a disabled ring completes, BUSY falls to 0 and STATE reads DISABLED. -/
  | mrDrained (ring : Fin 16)
  /-- CR_ENABLE_WRITE (R89). A write of ENABLE on a completion ring starts it with TAIL 0 and PHASE 1, or is refused while a manifest ring names it. -/
  | crEnableWrite (ring : Fin 8) (value : Word)
  /-- LOG_ENABLE_WRITE (R89). A write of HIF_LOG_CFG.ENABLE starts or stops the log ring. -/
  | logEnableWrite (value : Word)
  /-- PROG_ENABLE_WRITE (R107). A write of HIF_PROG_CFG.ENABLE starts the progress block, or stops its writes after the one in progress. -/
  | progEnableWrite (value : Word)
  /-- PROGRESS_BLOCK_WRITE (R107). Every PERIOD µs, and within 10 µs of a FIRING or HOLD change, the device writes the 128-byte progress block. -/
  | progressBlockWrite
  /-- DBL_MTAIL_WRITE (R92). A doorbell write of a manifest ring's TAIL makes entries fetchable, or is ignored and logged as RING_ERROR when out of range. -/
  | dblMtailWrite (ring : Fin 16) (tail : BitVec 16)
  /-- DBL_MCTRL_RESUME (R100). A RESUME doorbell write restarts a HALTED ring and continues its faulted entry from bytes done. -/
  | dblMctrlResume (ring : Fin 16)
  /-- DBL_CHEAD_WRITE (R98). A doorbell write of a completion ring's HEAD releases consumed completion slots. -/
  | dblCheadWrite (ring : Fin 8) (head : BitVec 16)
  /-- DBL_LHEAD_WRITE (R105). A doorbell write of the log ring's HEAD releases consumed log slots. -/
  | dblLheadWrite (head : BitVec 16)
  /-- MANIFEST_FETCH (R93). HIF fetches the next fetchable entry in class order after reserving its completion slot, and advances HEAD. -/
  | manifestFetch (ring : Fin 16) (entry : BitVec 512)
  /-- MANIFEST_READ_FAIL (R101). A failed read of a manifest ring sets STATE to ERROR and writes a RING_ERROR record. -/
  | manifestReadFail (ring : Fin 16)
  /-- COAL_TIMER_EXPIRY (R106). COAL_TIME µs after the first unsignalled entry, the ring signals its vector. -/
  | coalTimerExpiry (ring : Option (Fin 8))
  /-- MSIX_UNMASK (R106). Unmasking a vector with its pending bit set sends the held message. -/
  | msixUnmask (write : TableWrite)
  /-- LOST_RECORD_WRITE (R105). Once a log slot frees after losses, the device writes a LOST record with the pending count before any newer record. -/
  | lostRecordWrite
  /-- DATA_MOVER_PIECE_ISSUE (R118). The data mover issues the next piece of at most 4 KiB from the highest-class active transfer once fewer than 8 pieces are outstanding. -/
  | dataMoverPieceIssue
  /-- DATA_MOVER_PIECE_DONE (R118). A piece's host read or write completes, advancing its transfer and completing the entry when it was the last. -/
  | dataMoverPieceDone (piece : Nat) (bytes : List Byte)
  /-- HOST_READ_ERROR (R99). A host memory read completes with UR, CA, poison or timeout, and its entry completes as HOST_READ_ERR. -/
  | hostReadError (piece : Nat)
  /-- NOP (R95). NOP completes at once, acting as a barrier when FENCE is set. -/
  | nop (ring : Fin 16)
  /-- QUIRE_LOAD (R152). QUIRE_LOAD reserves a quire index entry, unless it replaces, and starts moving the quire into the job store. -/
  | quireLoad (ring : Fin 16)
  /-- TABLE_LOAD (R95). TABLE_LOAD moves table data into the live table or a chamber, or completes as STAGED_ONLY, BAD_ENTRY or BAD_TABLE. -/
  | tableLoad (ring : Fin 16)
  /-- TABLE_LOAD_CHANNEL_DONE (R282). A direct load of the channel table completes once every link in RUN has reported the new bank VALID or left RUN with cause CFG. -/
  | tableLoadChannelDone
  /-- TABLE_READ (R95). TABLE_READ writes the live or staged view of a table to host memory. -/
  | tableRead (ring : Fin 16)
  /-- MMU_WRITE (R113). MMU_WRITE copies page-table entries from host memory into the page-table region, whole 8-byte entry at a time. -/
  | mmuWrite (ring : Fin 16)
  /-- MMU_INVALIDATE (R114). MMU_INVALIDATE removes cached translations of a range and completes when every access that used them has finished. -/
  | mmuInvalidate (ring : Fin 16)
  /-- COPY (R121). A COPY entry is checked and accepted into the copier queue, or waits while the queue is full. -/
  | copy (ring : Fin 16)
  /-- COPY_QUEUE_ADMIT (R122). A waiting COPY entry is accepted once the copier queue has room, and then completes OK. -/
  | copyQueueAdmit
  /-- COMPRESS (R169). COMPRESS is checked and queued for a compression engine in arrival order. -/
  | compress (ring : Fin 16)
  /-- LOCK_OPEN (R336). LOCK OPEN empties an APPLIED or REJECTED chamber and opens it. -/
  | lockOpen (ring : Fin 16)
  /-- LOCK_CHECK (R336). LOCK CHECK asks for the chamber check once the pending-copy count reaches 0. -/
  | lockCheck (ring : Fin 16)
  /-- LOCK_ARM (R338). LOCK ARM checks the chamber and arms it for its instant kind, locally or as a ring lock. -/
  | lockArm (ring : Fin 16)
  /-- LOCK_DISCARD (R336). LOCK DISCARD empties the chamber, cancels its copies and rejects a waiting CHECK or ARM with DISCARDED, unless SCR has used the contents. -/
  | lockDiscard (ring : Fin 16)
  /-- JOB_OPEN (R245). JOB_OPEN sets the origin, anchor, F_p, C_p and P_p of each named plane, empties its quire index and gutters, and puts it in RUN. -/
  | jobOpen (ring : Fin 16)
  /-- JOB_CLOSE (R262). JOB_CLOSE sets the named planes in RUN to CLOSING with last line L, or leaves the close waiting on holding planes. -/
  | jobClose (ring : Fin 16)
  /-- SERVICE_BAND (R314). SERVICE_BAND is checked and records a test band, or waits while 64 bands are held. -/
  | serviceBand (ring : Fin 16)
  /-- SERVICE_BAND_ADMIT (R314). A waiting SERVICE_BAND entry records its band once a band slot frees. -/
  | serviceBandAdmit (ring : Fin 16)
  /-- LOOP_CTRL_RUN (R321). LOOP_CTRL run starts or resumes a loop on the planes in its mask, or is refused with a reason. -/
  | loopCtrlRun (ring : Fin 16)
  /-- LOOP_CTRL_FREEZE (R321). LOOP_CTRL freeze stops updates of a loop on the planes in its mask. -/
  | loopCtrlFreeze (ring : Fin 16)
  /-- LOOP_CTRL_ZERO (R321). LOOP_CTRL zero clears a loop's integrals and sets its baseline and targets to the live values. -/
  | loopCtrlZero (ring : Fin 16)
  /-- LINK_CTRL_TRAIN (R427). LINK_CTRL train sets ENABLE and starts bring-up at T0 from DISABLED or FAULT. -/
  | linkCtrlTrain (ring : Fin 16)
  /-- LINK_CTRL_RETRAIN (R427). LINK_CTRL retrain restarts bring-up at T0, silencing the gutter from RUN or TEST. -/
  | linkCtrlRetrain (ring : Fin 16)
  /-- LINK_CTRL_PRBS_START (R427). LINK_CTRL PRBS start moves a link in RUN to TEST and sends PRBS. -/
  | linkCtrlPrbsStart (ring : Fin 16)
  /-- LINK_CTRL_PRBS_STOP (R427). LINK_CTRL PRBS stop moves a link in TEST to ECHO. -/
  | linkCtrlPrbsStop (ring : Fin 16)
  /-- LINK_CTRL_AUTHENTICATE (R427). LINK_CTRL authenticate repeats the head authentication exchange between lines in RUN. -/
  | linkCtrlAuthenticate (ring : Fin 16)
  /-- LINK_CTRL_DISABLE (R427). LINK_CTRL disable clears ENABLE and takes the link to DISABLED. -/
  | linkCtrlDisable (ring : Fin 16)
  /-- TWIN_CTRL_CLEAR_FAILED (R389). TWIN_CTRL clear failed moves a FAILED device to JOINING and releases its twin fault source. -/
  | twinCtrlClearFailed (ring : Fin 16)
  /-- TWIN_CTRL_PLANNED_SWAP (R388). TWIN_CTRL planned swap makes the active send SWAP with n_s per plane, handing the active role to the standby. -/
  | twinCtrlPlannedSwap (ring : Fin 16)
  /-- COUNTER_READ (R406). COUNTER_READ requests a snapshot of the performance counters and writes the selected ones to host memory. -/
  | counterRead (ring : Fin 16)
  /-- MMU_ENABLE_WRITE (R117). A write of MMU_CFG.ENABLE enables translation or disables it, emptying the translation cache and stopping running transfers at their next page. -/
  | mmuEnableWrite (enable : Bool)
  /-- COPY_START (R122). When the copier is idle, the oldest queued request leaves the queue and starts running. -/
  | copyStart
  /-- COPY_DONE (R123). The last write of a copy is accepted, and the copier sends its completion event to the named target. -/
  | copyDone
  /-- COPY_FAIL (R124). A source ECC error, a wrapper error or a destination chamber leaving OPEN stops the copy, records CPY_ERR and sends a failure event. -/
  | copyFail (cause : CopyFault) (beat : Nat)
  /-- DRAM_REQUEST_ARRIVE (R133). A request reaches DMC on its port, with write-region protection and read-after-write handling applied. -/
  | dramRequestArrive (port : Fin 10) (access : DramAccess) (at_ : Nat)
  /-- DRAM_SCHEDULE_PICK (R134). A subchannel scheduler issues the next request by tier, row hit and age, or drains writes. -/
  | dramSchedulePick (sub : Fin 4) (at_ : Nat)
  /-- DRAM_AGE_PROMOTION (R135). A request that has waited longer than its class's age limit is promoted to tier 0. -/
  | dramAgePromotion (sub : Fin 4) (at_ : Nat)
  /-- DRAM_READ_RETURN (R140). Read data returns from the DRAM with SECDED checking, correcting single-bit errors and reporting uncorrectable ones to the requester. -/
  | dramReadReturn (sub : Fin 4) (seq : Nat) (ecc : EccOutcome)
  /-- REFRESH_DUE (R132). The same-bank refresh interval expires and DMC issues a refresh. -/
  | refreshDue (sub : Fin 4) (at_ : Nat) (refreshTime : Nat)
  /-- MR4_POLL (R132). Every 4 ms DMC reads MR4 and adapts the refresh interval. -/
  | mr4Poll (channel : Fin 2) (rank : Fin 2) (value : BitVec 3)
  /-- DMC_RETRAIN_NOW (R131). A write of DMC_RETRAIN.NOW starts a full retrain of both channels, unless one runs. -/
  | dmcRetrainNow
  /-- RETRAIN_STEP (R131). A retraining step closes one subchannel for at most 500 ns, at most once per 50 µs. -/
  | retrainStep (sub : Fin 4) (at_ : Nat) (last : Bool)
  /-- CA_PARITY_ALERT (R132). ALERT_N after three replays declares the channel faulty. -/
  | caParityAlert (channel : Fin 2)
  /-- SCRUB_UNIT_READ (R141). Every INTERVAL × 100 ns per channel the scrubber reads the next unit of the scrubbed regions and counts completed passes. -/
  | scrubUnitRead (channel : Fin 2) (ecc : EccOutcome)
  /-- FILL_START (R143). A write of DMC_FILL_CTRL.START starts zero-filling the given range, unless a fill is busy. -/
  | fillStart
  /-- FILL_UNIT_ISSUE (R143). The fill issues its next zero write to a subchannel, at most one per 8 ns, and sets DONE after the last. -/
  | fillUnitIssue (sub : Fin 4)
  /-- DECODE_DISPATCH (R159). An idle enabled engine takes the eligible quire or plate repeat whose replace deadline comes first. -/
  | decodeDispatch (engine : Fin 16)
  /-- DECODE_END (R158). A decode finishes; the quire becomes VERIFIED, or BAD with a QUIRE_BAD record. -/
  | decodeEnd (engine : Fin 16)
  /-- REPLACE_DEADLINE (R161). The plane's fire line reaches a quire's replace deadline, and a BAD quire becomes BLANKED. -/
  | replaceDeadline
  /-- QUIRE_RETIRE (R152). RETIRED passes a quire's last line, and its index entry is freed. -/
  | quireRetire
  /-- COMPRESS_ENGINE_START (R169). A free enabled compression engine takes the oldest waiting compression request. -/
  | compressEngineStart
  /-- COMPRESS_END (R169). A compression operation ends as OK, NOT_SMALLER or NO_SPACE, with the input CRC-32C. -/
  | compressEnd (engine : Fin 4)
  /-- SCREEN_LINE_WRITE (R177). Screening writes a source's columns of a plane line into the raster ring once the slot is released, in rank order. -/
  | screenLineWrite (plane : Fin 8) (line : Nat) (source : LineSource)
  /-- RASTER_FETCH_START (R207). After fire line f − K launches, raster fetch and the mapper start the fetch of line f for each segment. -/
  | rasterFetchStart (link : Fin 32) (seg : Fin 16)
  /-- FETCH_COMPLETE (R218). A segment fetch's data is back and mapped into the link's fetch stage. -/
  | fetchComplete (link : Fin 32) (seg : Fin 16)
  /-- GUTTER_EMIT (R22). At a link's launch deadline the gutter builds the line from the fetch stage and delayed slots and emits it, or discards it. -/
  | gutterEmit (link : Fin 32) (at_ : Nat)
  /-- REFILL_START (R215). A SILENT gutter whose link is in RUN with the gate open and whose plane prints enters REFILLING. -/
  | refillStart (link : Fin 32)
  /-- REFILL_DONE (R215). Every slot a delayed row group needs is refilled or marked blank, and the gutter becomes RUNNING. -/
  | refillDone (link : Fin 32)
  /-- CSM_GATE_CLOSE_WRITE (R217). A write of CSM_GATE_CLOSE closes the refill gates of the named links. -/
  | csmGateCloseWrite (value : Word)
  /-- CSM_GATE_OPEN_WRITE (R217). A write of CSM_GATE_OPEN opens the refill gates of the named links. -/
  | csmGateOpenWrite (value : Word)
  /-- ENCODER_STEP (R222). A change of the filtered A/B pair counts a step or an illegal transition, updates the direction state and X_p, and recomputes predictions. -/
  | encoderStep (k : Fin 8) (pins : EncoderPins) (at_ : Nat)
  /-- INDEX_EVENT (R226). A Z edge in the counting direction captures the count, sets a reference or records a deviation, and may correct the count. -/
  | indexEvent (k : Fin 8) (pin : IndexPin) (at_ : Nat)
  /-- MISSING_INDEX (R228). The count passes 4 × LPR + TOL + 1 from the reference without an index, and a missing index is taken. -/
  | missingIndex (k : Fin 8)
  /-- SPEED_UPDATE (R231). Every 1 µs each enabled channel recomputes its speed and may set VALID. -/
  | speedUpdate (at_ : Nat)
  /-- STANDSTILL (R232). No edge for STILL_MS ms declares standstill, clearing the speed and VALID. -/
  | standstill (instant : ChannelInstant)
  /-- STRETCH_WINDOW_CLOSE (R238). The main position advances 2^LOG2STR lines, and each roller channel stores its stretch. -/
  | stretchWindowClose
  /-- POS_FAULT_CLEAR (R230). A W1C of POS_CHk_ISTAT.FAULT clears the fault and removes the ENCODER stop cause of the main channel. -/
  | posFaultClear (k : Fin 8)
  /-- POS_MAIN_WRITE (R234). A write of POS_CFG.MAIN while no plane prints changes the main channel and resets the direction state. -/
  | posMainWrite (value : Word)
  /-- POS_CHANNEL_ENABLE (R224). A write of POS_CHk_CFG.ENABLE starts or stops decoding of the channel. -/
  | posChannelEnable (k : Fin 8) (value : Word)
  /-- POS_Z_EN_WRITE (R226). Writing Z_EN to 1 starts a new index reference. -/
  | posZEnWrite (k : Fin 8) (value : Word)
  /-- POS_LPR_WRITE (R226). A write of POS_CHk_LPR starts a new index reference or turns the check off. -/
  | posLprWrite (k : Fin 8) (value : Word)
  /-- LINE_COMMIT (R247). At t* − Λ_p the due line is committed with its stamp and link deadlines fixed, unless OVERSPEED stops the plane. -/
  | lineCommit (plane : Fin 8) (at_ : Nat)
  /-- LINE_LAUNCH (R248). At the plane launch deadline FIR checks the line is complete on every link, launching it and raising F_p, or declaring data-late. -/
  | lineLaunch (plane : Fin 8) (at_ : Nat)
  /-- FIR_CTRL_STOP_WRITE (R253). A write of FIR_CTRL.STOP sets or clears cause HOST on the named planes. -/
  | firCtrlStopWrite (value : Word)
  /-- FIR_CTRL_RESUME_FWD (R259). A write of FIR_CTRL.RESUME_FWD abandons the seam and puts the plane in RUN at the present position, unless a cause remains. -/
  | firCtrlResumeFwd (value : Word)
  /-- FIR_NOW_DISCIPLINE (R347). Every 1 µs FIR compares FIR_NOW with device time and corrects it by at most one tick. -/
  | firNowDiscipline (at_ : Nat)
  /-- CAP_FRAME_RX (R269). A valid CAP frame from the board arrives; after three identical ones the capabilities are accepted and RATE_GO is sent, or the link faults. -/
  | capFrameRx (link : Fin 32) (frame : LinkFrame)
  /-- ACK_FRAME_RX (R269). The board's ACK names the rate; the device sends four more RATE_GO frames and switches both lanes. -/
  | ackFrameRx (link : Fin 32) (frame : LinkFrame)
  /-- T0_TIMEOUT (R287). No accepted CAP within 10 ms, or no ACK within 1 ms, faults the link with cause 1. -/
  | t0Timeout (link : Fin 32)
  /-- BLOCK_LOCK_ACQUIRE (R270). 64 consecutive valid headers give block lock, and the link moves on to PRBS or ECHO. -/
  | blockLockAcquire (taken : LinkHeaders)
  /-- BLOCK_LOCK_LOSS (R270). 16 invalid headers in 64 lose block lock, leaving RUN with cause LOCK. -/
  | blockLockLoss (taken : LinkHeaders)
  /-- LOCK_TIMEOUT (R287). No block lock within 1 ms returns the link to T0, or falls back to R5, or faults it with cause 3. -/
  | lockTimeout (link : Fin 32)
  /-- PRBS_PHASE_END (R284). PRBS_MS ms elapse, and the device ends its PRBS phase by sending IDLE. -/
  | prbsPhaseEnd (link : Fin 32) (errors : Nat)
  /-- ECHO_SEND (R281). The device sends an ECHO, every ECHO_MS ms in RUN and back to back in bring-up. -/
  | echoSend (link : Fin 32) (departure : BitVec 52)
  /-- ECHO_REPLY_RX (R279). A board ECHO reply gives RTT and alignment error, updating D_FWD and L_k or faulting the link. -/
  | echoReplyRx (link : Fin 32) (id : BitVec 8) (turn r1 : BitVec 24) (arrival : BitVec 52)
  /-- ECHO_REPLY_TIMEOUT (R278). No reply within 20 µs of an ECHO discards a late reply and lets the next ECHO go. -/
  | echoReplyTimeout (link : Fin 32) (id : BitVec 8)
  /-- ECHO_PHASE_TIMEOUT (R287). The ECHO or SYNC state does not complete within 1 ms, faulting the link with cause 5, 6 or 7. -/
  | echoPhaseTimeout (link : Fin 32)
  /-- SYNC_SEND (R277). Every SYNC_US µs the device sends SYNC carrying T_ARR. -/
  | syncSend (link : Fin 32) (departure : BitVec 52)
  /-- STATUS_RX (R283). A board STATUS updates the mirrors and lost counts and drives PRBS, SYNC, LOAD and bank-VALID outcomes. -/
  | statusRx (link : Fin 32) (block : BitVec 64)
  /-- STATUS_TIMEOUT (R288). No STATUS for 1 ms leaves RUN with cause STATUS, or fails PRBS. -/
  | statusTimeout (link : Fin 32)
  /-- AUTH_RESPONSE_RX (R285). The board's AUTH serial, usage count and MAC arrive and are verified under the policy. -/
  | authResponseRx (link : Fin 32) (kind index : BitVec 4) (bytes : BitVec 48)
  /-- AUTH_TIMEOUT (R286). The board does not complete authentication within 50 ms, a link fault with cause AUTH. -/
  | authTimeout (link : Fin 32)
  /-- CFG_BANK_UPLOAD (R282). PLK uploads channel bytes to the bank not in force in CFG blocks and commits it with its CRC. -/
  | cfgBankUpload (link : Fin 32)
  /-- CFG_CONFIRM_TIMEOUT (R282). A bank not reported VALID within 10 ms leaves RUN with cause CFG. -/
  | cfgConfirmTimeout (link : Fin 32)
  /-- LINK_BACKOFF_EXPIRY (R287). With AUTO set, the retry backoff elapses and the link is reset for 100 µs before retraining. -/
  | linkBackoffExpiry (link : Fin 32)
  /-- PLK_ENABLE_WRITE (R287). A write of PLK_LNn_CFG.ENABLE starts bring-up at T0, or takes the link to DISABLED at once. -/
  | plkEnableWrite (link : Fin 32) (value : Word)
  /-- CSI_FRAME_START (R297). A Frame Start opens a context's frame, first closing any open frame. -/
  | csiFrameStart (port vc : Fin 4) (vcx : Bool) (ecc : EccOutcome) (number : BitVec 16)
  /-- CSI_FRAME_END (R297). A Frame End closes the frame, emitting MISSING lines up to HEIGHT in native mode. -/
  | csiFrameEnd (port vc : Fin 4) (vcx : Bool) (ecc : EccOutcome)
  /-- CSI_LONG_PACKET (R295). A long packet is checked and stored as one camera line, dropping waiting lines when the input buffer is full. -/
  | csiLongPacket (port vc : Fin 4) (vcx : Bool) (ecc : EccOutcome) (dt : BitVec 6) (payload : List Byte) (crcOk : Bool)
  /-- FRAME_END_TIMEOUT (R297). No packet of an open frame for FE_US µs closes it as short with NO_FE. -/
  | frameEndTimeout (ctx : Fin 16)
  /-- STREAM_STAGE_TAKE (R299). The stream stage takes the next complete line, tags it and produces streams S0 to S3. -/
  | streamStageTake (at_ : Nat)
  /-- TRIGGER_FIRE (R300). At a predicted position-trigger instant the output pulses and a trigger record goes to each context, unless too close to the last. -/
  | triggerFire (trigger : Fin 4) (at_ : Nat)
  /-- TRIGGER_RECORD_EXPIRE (R301). A trigger record older than MAXAGE_US is discarded and counted as STALE. -/
  | triggerRecordExpire (ctx : Fin 16) (at_ : Nat)
  /-- CAMERA_DROP_RECORD (R299). At most once per millisecond per context a CAMERA_DROP record reports the lines dropped. -/
  | cameraDropRecord (ctx : Fin 16) (at_ : Nat)
  /-- CAM_PORT_EN_WRITE (R308). A write of CAM_CFG.PORT_EN enables ports, or disables them and closes open frames. -/
  | camPortEnWrite (value : Word)
  /-- CAM_CONTEXT_ENABLE_WRITE (R310). A write of a context's ENABLE starts reception, or clearing it closes an open frame. -/
  | camContextEnableWrite (ctx : Fin 16) (value : Word)
  /-- BAND_MEASURE (R315). Once the covering contexts' tag lines pass a band's end, the band is measured or discarded with BAND_MISSED. -/
  | bandMeasure
  /-- BAND_MISSED_TIMEOUT (R315). 10 s after W_p passes a band's end without measurement, the band is discarded with reason 4. -/
  | bandMissedTimeout (at_ : Nat)
  /-- COLLATION_CYCLE (R324). Every CYCLE × 10 ms with new instances, the collation loop corrects offset, stretch and shift through the chamber. -/
  | collationCycle
  /-- CHAMBER_BUSY_TIMEOUT (R322). A loop that cannot open its chamber within 1 s writes CHAMBER_BUSY and drops the update. -/
  | chamberBusyTimeout (loop : Fin 3)
  /-- LCK_SDATA_WRITE (R335). A write of LCK_CHc_SDATA appends a register entry to an OPEN chamber, or sets BAD_REG. -/
  | lckSdataWrite (chamber : Fin 4) (value : Word)
  /-- CHAMBER_CHECK_START (R336). Once the pending-copy count reaches 0, a waiting CHECK or ARM moves the chamber to CHECKING. -/
  | chamberCheckStart (chamber : Fin 4)
  /-- CHAMBER_CHECK_END (R337). The check finishes; the chamber returns to OPEN, arms, or is REJECTED with a code. -/
  | chamberCheckEnd (chamber : Fin 4)
  /-- CHAMBER_APPLY_INSTANT (R338). A kind-0 or kind-2 instant arrives and the chamber's contents start to take effect. -/
  | chamberApplyInstant (chamber : Fin 4) (at_ : Nat)
  /-- CHAMBER_APPLY_COPY_DONE (R338). The apply copy of staged units into the live tables completes. -/
  | chamberApplyCopyDone (chamber : Fin 4)
  /-- LOCK_ARM_RX (R342). A participant receives a ring LOCK_ARM, checks its own chamber and replies ARMED or refused. -/
  | lockArmRx (node : BitVec 10) (group : BitVec 8) (chamber : Fin 4) (kind : Fin 4) (plane : Fin 8) (instant : BitVec 64)
  /-- LOCK_REPLY_RX (R342). The initiator collects participant replies and sends COMMIT or ABORT. -/
  | lockReplyRx (node : BitVec 10) (chamber : Fin 4) (armed : Bool)
  /-- RING_LOCK_WAIT_TIMEOUT (R342). Replies missing after RING_WAIT ms make the initiator abort the ring lock. -/
  | ringLockWaitTimeout (chamber : Fin 4)
  /-- LOCK_COMMIT_RX (R342). A participant receives COMMIT and applies, or rejects with PASSED. -/
  | lockCommitRx (node : BitVec 10) (chamber : Fin 4)
  /-- LOCK_ABORT_RX (R342). A participant receives ABORT and its armed chamber goes REJECTED with PEER. -/
  | lockAbortRx (node : BitVec 10) (chamber : Fin 4)
  /-- LOCK_OUTCOME_RX (R342). The initiator receives participant outcomes and completes its ARM. -/
  | lockOutcomeRx (node : BitVec 10) (chamber : Fin 4) (applied : Bool)
  /-- TIM_RATE_WRITE (R345). A write of TIM_RATE re-anchors device time at the new rate, within the printing limit. -/
  | timRateWrite (value : Word) (at_ : Nat)
  /-- TIM_STEP_WRITE (R348). A write of TIM_STEP_HI steps device time, or is refused while printing. -/
  | timStepWrite (hi : Word) (at_ : Nat)
  /-- TIM_SRC_WRITE (R349). A write of TIM_CFG.SRC selects the time source and returns the timebase to FREE. -/
  | timSrcWrite (value : Word)
  /-- COMPARATOR_MATCH (R351). A comparator reaches its target and drives camera triggers, GPIO pulses, interrupts or a wake. -/
  | comparatorMatch (k : Fin 16) (at_ : Nat)
  /-- COMPARATOR_ENABLE_WRITE (R351). A write of a comparator's ENABLE arms it at its target, or disarms it. -/
  | comparatorEnableWrite (k : Fin 16) (value : Word) (at_ : Nat)
  /-- GPIO_MODE_WRITE (R352). A write of TIM_GPIOg_CFG.MODE makes the GPIO an input, a level output or a pulse output. -/
  | gpioModeWrite (g : Fin 16) (value : Word)
  /-- PTP_MESSAGE_RX (R350). A PTP message or ARP request arrives on the PTP port, and a Sync result updates the servo. -/
  | ptpMessageRx (msg : PtpFrame) (at_ : Nat)
  /-- HOLDOVER_ENTRY (R349). No update for 3 intervals moves a LOCKED timebase to HOLDOVER. -/
  | holdoverEntry
  /-- HOLDOVER_EXPIRY (R349). HOLD_S seconds without an update return the timebase to FREE. -/
  | holdoverExpiry
  /-- RING_PORT_LOCK (R354). A ring port gains block lock or character synchronisation and enters LOCKING. -/
  | ringPortLock (port : Fin 2)
  /-- RING_PORT_RATE_ALTERNATE (R354). A port out of UP switches between the two rates every 2 ms. -/
  | ringPortRateAlternate (port : Fin 2)
  /-- HELLO_SEND (R356). Every 100 µs each port sends HELLO to its neighbour. -/
  | helloSend (port : Fin 2)
  /-- HELLO_RX (R354). A HELLO arrives; three bring the port UP, and its SLEEP flag switches the hop rate. -/
  | helloRx (port : Fin 2) (node : BitVec 10) (sleep : Bool)
  /-- HELLO_TIMEOUT (R354). No HELLO for 300 µs takes the port DOWN. -/
  | helloTimeout (port : Fin 2)
  /-- RING_FRAME_FORWARD (R357). A received frame is discarded as a duplicate, or forwarded cut-through on the other port with HOPS + 1. -/
  | ringFrameForward (port : Fin 2) (first : RingBlock) (rest : List RingBlock)
  /-- ANNOUNCE_SEND (R356). Every 10 ms the device sends ANNOUNCE to all nodes. -/
  | announceSend
  /-- ANNOUNCE_RX (R359). An ANNOUNCE updates node liveness, master election and duplicate-node detection. -/
  | announceRx (node : BitVec 10) (group prio : BitVec 8) (accepts : Bool)
  /-- NODE_LIVENESS_EXPIRY (R359). A node's ANNOUNCE unseen for 30 ms ends its liveness, and a new master may be elected. -/
  | nodeLivenessExpiry (node : BitVec 10)
  /-- DELAY_REQ_SEND (R356). Every 1 ms each port sends DELAY_REQ to its neighbour. -/
  | delayReqSend (port : Fin 2) (at_ : Nat)
  /-- DELAY_REQ_RX (R360). A DELAY_REQ is answered with DELAY_RESP carrying timestamps and turnaround. -/
  | delayReqRx (port : Fin 2) (departure turnaround : Int)
  /-- DELAY_RESP_RX (R360). A DELAY_RESP updates the port's link delay. -/
  | delayRespRx (port : Fin 2) (rtt turnaround : Nat)
  /-- TIME_SEND (R359). Every 16 µs the ring time master sends TIME. -/
  | timeSend (at_ : Nat)
  /-- TIME_RX (R359). A TIME message updates the ring-time servo and timebase state, and is forwarded with CORRECTION added. -/
  | timeRx (port : Fin 2) (src : BitVec 10) (seq : BitVec 16) (hops : BitVec 10) (origin correction : Int) (residence at_ : Nat)
  /-- TIDE_RX (R363). An arrived tide word feeds prediction, source liveness and ΔC, and recomputes predictions. -/
  | tideRx (word : TideWord) (at_ : Nat)
  /-- TIDE_SOURCE_EXPIRY (R364). A source goes 10 µs without a word; the receiver changes over with a VALID ΔC or asserts cause POSITION. -/
  | tideSourceExpiry (node : BitVec 10)
  /-- STOP_RX (R365). A ring STOP from the web group stops every plane in RUN or CLOSING with cause RING. -/
  | stopRx (node : BitVec 10) (group mask : BitVec 8)
  /-- STATE_SEND (R365). Every 1 ms, and at each plane state change, the device sends STATE to its group. -/
  | stateSend
  /-- STATE_RX (R365). A STATE message may clear cause RING for the sending node. -/
  | stateRx (node : BitVec 10) (group : BitVec 8) (planes : Vector PlanePhase 8)
  /-- URG_SEND_WAKE (R365). A write of URG_CTRL.SEND_WAKE sends WAKE to the named node. -/
  | urgSendWake (value : Word)
  /-- WAKE_RX (R71). A WAKE message wakes a sleeping node with WAKE_RING_EN set. -/
  | wakeRx
  /-- URG_CLR_RING (R365). A write of URG_CTRL.CLR_RING clears cause RING on every plane. -/
  | urgClrRing (value : Word)
  /-- TWIN_HEARTBEAT_SEND (R373). Every 20 µs each twin sends HEARTBEAT with role, epoch, conditions and largest L_k per plane. -/
  | twinHeartbeatSend
  /-- TWIN_HEARTBEAT_RX (R374). A peer HEARTBEAT updates liveness and L_pair, and may form the pair from SINGLE. -/
  | twinHeartbeatRx (node : BitVec 10) (role : TwinRole) (epoch : BitVec 16) (prefer : Bool) (peer : BitVec 10) (group : BitVec 8) (stops locked : Bool) (settings : List Nat) (lats : Vector (BitVec 24) 8) (blocked : Bool)
  /-- STAMP_RX (R375). The standby receives the active's stamp and T_f for a line. -/
  | stampRx (node : BitVec 10) (plane : Fin 8) (line stamp : BitVec 48) (tf : BitVec 24)
  /-- SIG_RX (R378). A peer SIG is compared with the device's own signatures, leading to agreement, disagreement or a role change. -/
  | sigRx (node : BitVec 10) (bytes : List Byte)
  /-- TAKEOVER_RX (R381). The old active receives TAKEOVER, stops committing and withdraws unlaunched lines. -/
  | takeoverRx (node : BitVec 10) (epoch : BitVec 16)
  /-- FAILED_RX (R379). A FAILED frame from the active makes the standby take over. -/
  | failedRx (node : BitVec 10) (cause : BitVec 4)
  /-- SWAP_RX (R388). The standby receives SWAP and takes over from the lines n_s. -/
  | swapRx (node : BitVec 10) (first : Vector (BitVec 48) 8)
  /-- PLANE_STATE_RX (R387). A device adopts the active's anchor, offsets and print position and sets F_p to the signature epoch. -/
  | planeStateRx (node : BitVec 10) (plane : Fin 8) (xa phia print : Int) (ofs stretch : Word) (epoch : BitVec 48)
  /-- STAGE_RX (R386). The standby stages the active's chamber units, register entries and glide targets. -/
  | stageRx (node : BitVec 10) (chamber : Fin 4) (units : List (Nat × BitVec 512)) (entries : List (Nat × Word)) (targets : List (Nat × BitVec 8))
  /-- JOIN_RX (R387). The active answers a JOIN with PLANE_STATE and e_p = F_p + JOIN_LEAD. -/
  | joinRx (node : BitVec 10)
  /-- PEER_LOSS_TIMEOUT (R379). No twin frame from the active for LOSS_US µs makes the standby take over when LOSS_TAKE is set. -/
  | peerLossTimeout
  /-- TWN_CTRL_FAIL_WRITE (R374). A write of TWN_CTRL.FAIL puts the device into FAILED at once. -/
  | twnCtrlFailWrite (value : Word)
  /-- TWN_ENABLE_WRITE (R374). A write of TWN_CFG.ENABLE to 0 while no plane prints returns the device to SINGLE with a raised epoch. -/
  | twnEnableWrite (value : Word)
  /-- TWN_EPOCH_WRITE (R391). A write of TWN_EPOCH.EPOCH while no plane prints sets the epoch the device's lines and IDLE carry. -/
  | twnEpochWrite (value : Word)
  /-- SENSOR_CONVERSION (R393). Every 1 ms all sensors convert; faults, the maximum T and thermal level changes follow. -/
  | sensorConversion (readings : Vector (Option Int) 12)
  /-- THERMAL_HISTORY_ENTRY (R398). Every 125 ms THM appends a history entry and evaluates the rate of rise, possibly starting or ending a rate hold. -/
  | thermalHistoryEntry
  /-- THM_CFG_WRITE (R399). A write of THM_CFG or THM_RATE changes thresholds and empties the history. -/
  | thmCfgWrite (rate : Bool) (value : Word)
  /-- THM_PEAK_CLEAR (R401). A write of THM_PEAK.CLEAR sets PEAK to the present T. -/
  | thmPeakClear
  /-- SLEEP_SENSOR_SAMPLE (R399). In sleep the supervisor samples sensor 3 at 10 Hz, with only the 118 °C threshold acting. -/
  | sleepSensorSample (reading : Option Int)
  /-- PMC_FREEZE_WRITE (R406). A write of PMC_CTRL.FREEZE stops or restarts every counter. -/
  | pmcFreezeWrite (freeze : Bool)
  /-- PMC_SNAP_WRITE (R406). A write of PMC_CTRL.SNAP requests a snapshot of all counters. -/
  | pmcSnapWrite
  /-- PMC_SNAPSHOT (R406). The next queued snapshot request copies all 64 counters and OVF bits on one edge. -/
  | pmcSnapshot
  /-- PMC_WINDOW_CLOSE (R407). Every PMC_WIN.NS ns counters 32 to 43 take the closed window's byte counts and length. -/
  | pmcWindowClose
  /-- PMC_COUNTER_WRITE (R409). A write of PMC_CNTk_LO stores a counter value with the held HI part. -/
  | pmcCounterWrite (k : Fin 64) (high : Bool) (value : Word)
  /-- PMC_WIN_WRITE (R410). A write of PMC_WIN sets the window length and restarts the window. -/
  | pmcWinWrite (ns : BitVec 30)
  /-- RING_PORT_LOCK_LOSS (R354). A Ulilis Ring port loses block lock or character synchronisation and goes DOWN. -/
  | ringPortLockLoss (port : Fin 2)
  /-- PLL_LOSES_LOCK (R83). A PLL loses lock or its reference fails, so its clocks stop and CLK_LOCK falls. -/
  | pllLosesLock (pll : Fin 11)
  /-- CSI_CLOCK_LANE_CHANGE (R84). A sensor starts or stops the clock lane of a CSI-2 port, so CLK_SEEN changes and the crossings out of CSI_BYTE_CLK release or freeze. -/
  | csiClockLaneChange (port : Fin 4) (running : Bool)
  /-- TRIGGER_PULSE_END (R300). WIDTH × 20 ns after a camera trigger pulse starts, CAM_TRIG returns to its IDLE level. -/
  | triggerPulseEnd (trigger : Fin 4)
  /-- GPIO_PULSE_END (R352). WIDTH × 20 ns after a GPIO pulse starts, the GPIO returns to LEVEL, unless a later match has extended it. -/
  | gpioPulseEnd (g : Fin 16) (at_ : Nat)
  /-- PTP_MESSAGE_SEND (R350). The PTP ordinary clock transmits its timed messages: Delay_Req or Pdelay_Req as slave, and Announce and Sync when it is master. -/
  | ptpMessageSend (kind : PtpKind) (at_ : Nat)
  /-- ETHERNET_LINK_CHANGE (R420). An Ethernet port gains or loses link at 10GBASE-R or 1000BASE-X, changing TIM_PTP_STATUS.LINK. -/
  | ethernetLinkChange (port : Fin 2) (up : Bool)
  /-- SCR_CFG_BITS_WRITE (R288). A write of SCR_CFG.BITS while no plane prints changes the bit depth, and faults with cause CAP every link that is up whose MAXBITS is exceeded. -/
  | scrCfgBitsWrite (value : Word)
  deriving DecidableEq, Repr

end Sys2Proof
end

