-- ==== Sys2Proof/Decode.lean ====
section
/-! DEFINITION. The command a word spells by the opcode table's bits: no row of this block's table gives any bits. -/

namespace Sys2Proof

/-- The command that a word of `nbits` bits spells (log entry 45): none, since no row of the table has an encoding. -/
def decodeTableWord (_nbits _w : Nat) : Option Instr := none

end Sys2Proof
end

