-- ==== Sys2Proof/Config.lean ====
section
/-! DEFINITION. What the spec leaves free (each an opaque constant, so that no proof can see a value) and what one implementation fixes. -/

namespace Sys2Proof.Config

open Sys2Proof

/-- A byte of device DRAM that nothing has written (R28: contents undefined). -/
opaque unwrittenDram : Nat → Byte

/-- A byte of a copy's destination from the failing beat onward (R124: undefined): draw number, address. -/
opaque copyTail : Nat → Nat → Byte

/-- Reads and writes that the copier makes in a while (R122, R424: its progress at a moment is not stated): draw number. -/
opaque copyTime : Nat → Nat

/-- Whether one of them is a read, ahead of the writes, or a write (R424): draw number, how many are left. -/
opaque copyReads : Nat → Nat → Bool

/-- Whether an access uses the old cached translation while a changed page-table entry awaits MMU_INVALIDATE (R112: either): draw number, page. -/
opaque staleEntry : Nat → Nat → Bool

/-- X_p of a plane that JOB_OPEN opens before any tide word has given a position (R237, R363: not stated): draw number. -/
opaque positionUnknown : Nat → Int

/-- EDGE_TIME of a tide word whose main channel has counted no edge (R362: not stated): draw number. -/
opaque edgeTimeUnknown : Nat → Nat

/-- A fresh 128-bit challenge from the random number generator (R285): draw number. -/
opaque challenge : Nat → BitVec 128

/-- Bit errors the device has counted in a PRBS phase that LINK_CTRL ends (R284): draw number. -/
opaque prbsErrors : Nat → Nat

/-- Byte 16 of the LINK_FAULT record of a link that a hold takes (R62, R104: no cause is given for it): draw number. -/
opaque linkResetCause : Nat → BitVec 8

/-- Whether the generator of R139 draws a neighbour refresh at an activate, its sequence not stated: draw number, log2 of p. -/
opaque neighbourDraw : Nat → Nat → Bool

/-- Place of a staged table unit within the 16 MiB of its chamber's store, in units of 64 bytes, which the spec does not lay out (R333, R334). -/
opaque storeSlot : Nat → Nat

/-- The bucket to which a compression engine hashes 3 input bytes, its hash function not stated (R166): hash width, the bytes. -/
opaque bucket : Nat → Byte → Byte → Byte → Nat

/-- The description of the dynamic codes that a compression engine builds for a block, its construction not stated (R166): the literal and length symbols of the block, its distance symbols. -/
opaque blockCodes : List Nat → List Nat → List Bool

/-- A request of the firmware for the camera archive (R169): device DRAM addresses, input length, output capacity, chain depth less 1, hash width less 10. -/
structure ArchiveReq where
  /-- Source. -/
  src : BitVec 36
  /-- Destination. -/
  dst : BitVec 36
  /-- Input length. -/
  len : BitVec 32
  /-- Output capacity. -/
  cap : BitVec 32
  /-- Chain depth less 1. -/
  depth : Fin 64
  /-- Hash width less 10. -/
  hash : Fin 6
  deriving DecidableEq, Repr

/-- The camera-archive requests that the firmware makes (R169; when and which the spec leaves to firmware, log entry 153): draw number. -/
opaque archiveRequests : Nat → List ArchiveReq

/-- A byte of the destination of a COMPRESS that ends as NOT_SMALLER or NO_SPACE (R169: undefined): draw number, address. -/
opaque compressTail : Nat → Nat → Byte

/-- Input bytes a COMPRESS has consumed when its destination faults (R115): draw number. -/
opaque compressConsumed : Nat → Nat

/-- TIME and LINE of the tag of a camera line that found no trigger record (R301, R303: not stated), 112 bits: draw number. -/
opaque untaggedLine : Nat → BitVec 112

/-- The value measured at a pixel of an RGB888 line where SAMPLE names a fourth sample (R332: three samples, field of two bits; not stated): samples of the line, pixel. -/
opaque fourthSample : List Nat → Nat → Nat

/-- Density in 1/1024 of a bin whose step mean is 0 (R316: the logarithm of 0, not stated): draw number, column, step. -/
opaque zeroDensity : Nat → Nat → Nat → Int

/-- Density in 1/1024 of a column whose centre does not lie between the centres of two bins (R323: not stated): draw number, column, step. -/
opaque endDensity : Nat → Nat → Nat → Int

/-- Class of a dash whose paper reference or whose darkness is 0 (R319: the quotient is not stated): draw number, column id. -/
opaque dashUnknown : Nat → Nat → Fin 4

/-- RATE that a servo asks for after an update, its gains not stated (R349, R350, R359): draw number, error in 1/16 ns, present RATE. -/
opaque servoRate : Nat → Int → Int → Int

/-- Events of a control core since the counters last took them, its instructions being firmware's (R404): draw number, EVENT code. -/
opaque coreEvents : Nat → Nat → Nat

/-- How far, as a power of two above 8, the depth of the crossing of tide words to FIRE_CLK goes (R74, R81: not stated). -/
opaque tideDepth : Nat

end Sys2Proof.Config
end

