-- ==== Sys2Proof/Machine/RegTable.lean ====
section
/-! DEFINITION. The registers the host writes (R7 to R9, R20 and the register tables of the chapters): offset, fields, access, reset value, and when a write is ignored. Read-only fields are computed from the state and stand in no row. -/

namespace Sys2Proof.Machine

/-- How a host write treats a field (R9). -/
inductive Acc
  /-- Takes the written value. -/
  | rw
  /-- A written 1 clears it. -/
  | w1c
  /-- As `rw`, but ignored while any plane prints, and staged by a lock chamber (R15). -/
  | st
  deriving DecidableEq, Repr

/-- When a host write of a field is ignored. -/
inductive Guard
  /-- Never. -/
  | open_
  /-- While bit 0 of the register at this distance from the written one is 1 (an ENABLE). -/
  | enabled (delta : Int)
  /-- While any plane prints. -/
  | printing
  /-- While BAR2 is absent (R21). -/
  | noBar2
  /-- While a DRAM fill is busy (R143). -/
  | filling
  /-- While any plane prints, and a value outside these bounds at any time. -/
  | outside (lo hi : Nat)
  /-- While any plane prints, and a LOG2SLOTS of 1 to 10 or above 16 at any time (R192). -/
  | ringSize
  /-- A value that leaves no engine enabled. -/
  | noEngine
  /-- While the camera port whose register this is has its bit of CAM_CFG.PORT_EN set (R310). -/
  | camPort
  /-- While the camera trigger whose register this is has MODE 1 or 2 (R310). -/
  | camTrig
  /-- A lines-per-count ratio of 0 or above 16 (R236), and while any plane prints. -/
  | ratio
  /-- As `ratio`, and while a stretch window of the channel is open (R241). -/
  | rollerRatio
  /-- While any lock chamber is neither APPLIED nor REJECTED (R344). -/
  | chambers
  /-- While a collation or nozzle-health loop is in RUN (R332). -/
  | loops (nozzle : Bool)
  deriving DecidableEq, Repr

/-- One field of a register. -/
structure RField where
  /-- Lowest bit. -/
  lo : Nat
  /-- Width. -/
  w : Nat
  /-- Access. -/
  acc : Acc := .rw
  /-- Reset value. -/
  rst : Nat := 0
  /-- When writes are ignored. -/
  guard : Guard := .open_
  deriving DecidableEq, Repr

/-- One register, or an array of `count` registers `stride` bytes apart. -/
structure RegDef where
  /-- Name in the spec. -/
  name : String
  /-- BAR0 offset of the first. -/
  off : Nat
  /-- Writable fields. -/
  fields : List RField
  /-- Number of registers. -/
  count : Nat := 1
  /-- Distance between them. -/
  stride : Nat := 4
  deriving DecidableEq, Repr

/-- GLB (R20, R21). -/
def regsGlb : List RegDef := [⟨"GLB_BAR2_WIN", 0x20, [⟨0, 8, .rw, 0, .noBar2⟩], 1, 4⟩]

/-- CLK (R82). START of CLK_MEAS_SEL acts at once and is not held. -/
def regsClk : List RegDef := [
  ⟨"CLK_STOPPED", 0x20004, [⟨0, 9, .w1c, 0, .open_⟩], 1, 4⟩,
  ⟨"CLK_LINK_STOPPED", 0x20008, [⟨0, 32, .w1c, 0, .open_⟩], 1, 4⟩,
  ⟨"CLK_MEAS_SEL", 0x20010, [⟨0, 6, .rw, 4, .open_⟩, ⟨8, 4, .rw, 6, .open_⟩], 1, 4⟩]

/-- THM (R401). -/
def regsThm : List RegDef := [
  ⟨"THM_CFG", 0x30004, [⟨0, 8, .rw, 100, .open_⟩, ⟨8, 8, .rw, 108, .open_⟩, ⟨16, 4, .rw, 3, .open_⟩, ⟨20, 1, .rw, 1, .open_⟩], 1, 4⟩,
  ⟨"THM_RATE", 0x30008, [⟨0, 12, .rw, 50, .open_⟩], 1, 4⟩]

/-- QDC. -/
def regsQdc : List RegDef := [
  ⟨"QDC_CFG", 0xA0000, [⟨0, 14, .rw, 512, .printing⟩], 1, 4⟩,
  ⟨"QDC_ENG_EN", 0xA0004, [⟨0, 16, .rw, 0xFFFF, .noEngine⟩, ⟨16, 4, .rw, 0xF, .noEngine⟩], 1, 4⟩]

/-- SCR (R194). -/
def regsScr : List RegDef := [
  ⟨"SCR_CFG", 0xC0000, [⟨0, 3, .rw, 2, .outside 1 4⟩], 1, 4⟩,
  ⟨"SCR_PLp_CFG", 0xC0100, [⟨0, 3, .st, 0, .open_⟩, ⟨8, 8, .st, 0, .open_⟩, ⟨16, 8, .st, 0, .open_⟩], 8, 0x40⟩,
  ⟨"SCR_RINGp_BASE_LO", 0xC0108, [⟨14, 18, .rw, 0, .printing⟩], 8, 0x40⟩,
  ⟨"SCR_RINGp_BASE_HI", 0xC010C, [⟨0, 4, .rw, 0, .printing⟩], 8, 0x40⟩,
  ⟨"SCR_RINGp_SIZE", 0xC0110, [⟨0, 5, .rw, 0, .ringSize⟩], 8, 0x40⟩]

/-- CSM; the gate registers act at once and are held in CsmState. -/
def regsCsm : List RegDef := [
  ⟨"CSM_CFG", 0x100000, [⟨0, 3, .rw, 2, .outside 2 4⟩, ⟨4, 1, .rw, 1, .open_⟩], 1, 4⟩,
  ⟨"CSM_PLp_CFG", 0x100100, [⟨0, 8, .st, 0, .open_⟩, ⟨8, 6, .st, 0, .open_⟩, ⟨16, 6, .st, 0, .open_⟩], 8, 0x10⟩]

/-- TIM (R368); TIM_RATE and TIM_STEP act at once and are held in TimState. -/
def regsTim : List RegDef := [
  ⟨"TIM_CFG", 0x280000, [⟨0, 2, .rw, 0, .open_⟩, ⟨8, 8, .rw, 10, .open_⟩], 1, 4⟩,
  ⟨"TIM_PTP_CFG", 0x280040, [⟨0, 1, .rw, 0, .open_⟩, ⟨1, 1, .rw, 0, .enabled 0⟩, ⟨2, 1, .rw, 0, .enabled 0⟩, ⟨3, 1, .rw, 0, .enabled 0⟩, ⟨4, 1, .rw, 1, .enabled 0⟩, ⟨8, 7, .rw, 0, .enabled 0⟩], 1, 4⟩,
  ⟨"TIM_PTP_IPV4", 0x280044, [⟨0, 32, .rw, 0, .enabled (-4)⟩], 1, 4⟩,
  ⟨"TIM_CMPk_CFG", 0x280100, [⟨0, 1, .rw, 0, .open_⟩, ⟨1, 1, .rw, 0, .open_⟩], 15, 0x20⟩,
  ⟨"TIM_CMP15_CFG", 0x2802E0, [⟨0, 1, .rw, 0, .open_⟩, ⟨1, 1, .rw, 0, .open_⟩, ⟨2, 1, .rw, 0, .open_⟩], 1, 4⟩,
  ⟨"TIM_CMPk_TGT_LO", 0x280104, [⟨0, 32, .rw, 0, .enabled (-4)⟩], 16, 0x20⟩,
  ⟨"TIM_CMPk_TGT_HI", 0x280108, [⟨0, 16, .rw, 0, .enabled (-8)⟩], 16, 0x20⟩,
  ⟨"TIM_CMPk_PER", 0x28010C, [⟨0, 32, .rw, 0, .enabled (-12)⟩], 16, 0x20⟩,
  ⟨"TIM_GPIOg_CFG", 0x280400, [⟨0, 2, .rw, 0, .open_⟩, ⟨2, 1, .rw, 0, .open_⟩, ⟨4, 4, .rw, 0, .open_⟩, ⟨8, 8, .rw, 50, .open_⟩], 16, 4⟩]

/-- URG (R369); URG_CTRL acts at once and is not held. -/
def regsUrg : List RegDef := [
  ⟨"URG_CFG", 0x2A0000, [⟨0, 10, .rw, 0, .open_⟩, ⟨16, 8, .rw, 0, .printing⟩, ⟨24, 8, .rw, 0, .open_⟩], 1, 4⟩,
  ⟨"URG_TIDE", 0x2A0004, [⟨0, 1, .rw, 0, .open_⟩], 1, 4⟩]

/-- HIF (R89, R107). -/
def regsHif : List RegDef := [
  ⟨"HIF_PROG_BASE_LO", 0x40000, [⟨12, 20, .rw, 0, .enabled 8⟩], 1, 4⟩,
  ⟨"HIF_PROG_BASE_HI", 0x40004, [⟨0, 32, .rw, 0, .enabled 4⟩], 1, 4⟩,
  ⟨"HIF_PROG_CFG", 0x40008, [⟨0, 1, .rw, 0, .open_⟩, ⟨1, 14, .rw, 100, .open_⟩], 1, 4⟩,
  ⟨"HIF_LOG_BASE_LO", 0x40010, [⟨12, 20, .rw, 0, .enabled 8⟩], 1, 4⟩,
  ⟨"HIF_LOG_BASE_HI", 0x40014, [⟨0, 32, .rw, 0, .enabled 4⟩], 1, 4⟩,
  ⟨"HIF_LOG_CFG", 0x40018, [⟨0, 1, .rw, 0, .open_⟩, ⟨1, 5, .rw, 8, .enabled 0⟩, ⟨6, 6, .rw, 0, .enabled 0⟩, ⟨16, 8, .rw, 1, .open_⟩, ⟨24, 8, .rw, 0, .open_⟩], 1, 4⟩,
  ⟨"HIF_MRn_BASE_LO", 0x40100, [⟨12, 20, .rw, 0, .enabled 8⟩], 16, 0x10⟩,
  ⟨"HIF_MRn_BASE_HI", 0x40104, [⟨0, 32, .rw, 0, .enabled 4⟩], 16, 0x10⟩,
  ⟨"HIF_MRn_CFG", 0x40108, [⟨0, 1, .rw, 0, .open_⟩, ⟨1, 5, .rw, 6, .enabled 0⟩, ⟨6, 2, .rw, 3, .enabled 0⟩, ⟨8, 1, .rw, 0, .enabled 0⟩, ⟨9, 3, .rw, 0, .enabled 0⟩], 16, 0x10⟩,
  ⟨"HIF_CRm_BASE_LO", 0x40200, [⟨12, 20, .rw, 0, .enabled 8⟩], 8, 0x10⟩,
  ⟨"HIF_CRm_BASE_HI", 0x40204, [⟨0, 32, .rw, 0, .enabled 4⟩], 8, 0x10⟩,
  ⟨"HIF_CRm_CFG", 0x40208, [⟨0, 1, .rw, 0, .open_⟩, ⟨1, 5, .rw, 8, .enabled 0⟩, ⟨6, 6, .rw, 0, .enabled 0⟩, ⟨16, 8, .rw, 1, .open_⟩, ⟨24, 8, .rw, 0, .open_⟩], 8, 0x10⟩]

/-- MMU (R110, R111, R117). -/
def regsMmu : List RegDef := [
  ⟨"MMU_CFG", 0x50000, [⟨0, 1, .rw, 0, .open_⟩], 1, 4⟩,
  ⟨"MMU_ROOT_LO", 0x50008, [⟨13, 19, .rw, 0, .enabled (-8)⟩], 1, 4⟩,
  ⟨"MMU_ROOT_HI", 0x5000C, [⟨0, 4, .rw, 0, .enabled (-12)⟩], 1, 4⟩,
  ⟨"MMU_PT_BASE_LO", 0x50010, [⟨16, 16, .rw, 0, .enabled (-16)⟩], 1, 4⟩,
  ⟨"MMU_PT_BASE_HI", 0x50014, [⟨0, 4, .rw, 0, .enabled (-20)⟩], 1, 4⟩,
  ⟨"MMU_PT_SIZE", 0x50018, [⟨0, 16, .rw, 0, .enabled (-24)⟩], 1, 4⟩]

/-- CPY (R124): only CPY_ERR.ERROR is writable; CAUSE and COUNT stand beside it and the host cannot write them. -/
def regsCpy : List RegDef := [
  ⟨"CPY_ERR", 0x60008, [⟨0, 1, .w1c, 0, .open_⟩], 1, 4⟩]

/-- DMC (R147). -/
def regsDmc : List RegDef := [
  ⟨"DMC_SCHED", 0x80010, [⟨0, 8, .rw, 20, .open_⟩, ⟨8, 8, .rw, 20, .open_⟩, ⟨16, 8, .rw, 20, .open_⟩, ⟨24, 5, .rw, 16, .open_⟩], 1, 4⟩,
  ⟨"DMC_NRR", 0x80014, [⟨0, 4, .rw, 9, .open_⟩, ⟨4, 2, .rw, 0, .open_⟩], 1, 4⟩,
  ⟨"DMC_RETRAIN", 0x80018, [⟨0, 1, .rw, 1, .open_⟩, ⟨1, 6, .rw, 20, .open_⟩], 1, 4⟩,
  ⟨"DMC_SCRUB", 0x80020, [⟨0, 1, .rw, 0, .open_⟩, ⟨8, 8, .rw, 10, .open_⟩], 1, 4⟩,
  ⟨"DMC_FILL_BASE", 0x80040, [⟨0, 20, .rw, 0, .filling⟩], 1, 4⟩,
  ⟨"DMC_FILL_SIZE", 0x80044, [⟨0, 20, .rw, 0, .filling⟩], 1, 4⟩,
  ⟨"DMC_RGNn_BASE", 0x80100, [⟨0, 20, .rw, 0, .open_⟩], 16, 0x10⟩,
  ⟨"DMC_RGNn_SIZE", 0x80104, [⟨0, 20, .rw, 0, .open_⟩], 16, 0x10⟩,
  ⟨"DMC_RGNn_ATTR", 0x80108, [⟨0, 1, .rw, 0, .open_⟩, ⟨1, 1, .rw, 0, .open_⟩, ⟨16, 10, .rw, 0x3FF, .open_⟩], 16, 0x10⟩]

/-- POS (R241); POS_CFG.MAIN, ENABLE, Z_EN and LPR have effects of their own beside the value held. -/
def regsPos : List RegDef := [
  ⟨"POS_CFG", 0x140000, [⟨0, 3, .rw, 0, .printing⟩, ⟨3, 1, .rw, 1, .open_⟩, ⟨8, 8, .rw, 20, .open_⟩, ⟨16, 5, .rw, 14, .open_⟩, ⟨24, 5, .rw, 20, .open_⟩], 1, 4⟩,
  ⟨"POS_RATIO_LO", 0x140008, [⟨0, 32, .rw, 0, .ratio⟩], 1, 4⟩,
  ⟨"POS_RATIO_HI", 0x14000C, [⟨0, 5, .rw, 1, .ratio⟩], 1, 4⟩,
  ⟨"POS_OFS_FWD", 0x140010, [⟨0, 32, .st, 0, .open_⟩], 1, 4⟩,
  ⟨"POS_OFS_REV", 0x140014, [⟨0, 32, .st, 0, .open_⟩], 1, 4⟩,
  ⟨"POS_CHk_CFG", 0x140400, [⟨0, 1, .rw, 0, .open_⟩, ⟨1, 1, .rw, 0, .enabled 0⟩, ⟨2, 1, .rw, 0, .open_⟩, ⟨3, 1, .rw, 0, .enabled 0⟩, ⟨4, 1, .rw, 0, .open_⟩, ⟨8, 6, .rw, 8, .enabled 0⟩, ⟨16, 8, .rw, 2, .open_⟩], 8, 0x40⟩,
  ⟨"POS_CHk_LPR", 0x140404, [⟨0, 24, .rw, 0, .open_⟩], 8, 0x40⟩,
  ⟨"POS_CHk_RATIO_LO", 0x140420, [⟨0, 32, .rw, 0, .rollerRatio⟩], 8, 0x40⟩,
  ⟨"POS_CHk_RATIO_HI", 0x140424, [⟨0, 5, .rw, 1, .rollerRatio⟩], 8, 0x40⟩]

/-- FIR (R265); FIR_CTRL acts at once and is not held. -/
def regsFir : List RegDef := [
  ⟨"FIR_CFG", 0x160000, [⟨0, 16, .rw, 2000, .printing⟩, ⟨16, 1, .rw, 0, .printing⟩, ⟨17, 1, .rw, 1, .open_⟩, ⟨18, 1, .rw, 0, .open_⟩], 1, 4⟩,
  ⟨"FIR_RESUME", 0x160004, [⟨0, 20, .rw, 2048, .open_⟩], 1, 4⟩,
  ⟨"FIR_AHEAD", 0x160008, [⟨0, 16, .rw, 256, .open_⟩], 1, 4⟩,
  ⟨"FIR_PLp_OFS", 0x160104, [⟨0, 32, .st, 0, .open_⟩], 8, 0x40⟩,
  ⟨"FIR_PLp_STRETCH", 0x160108, [⟨0, 32, .st, 0, .open_⟩], 8, 0x40⟩,
  ⟨"FIR_PLp_TMIN", 0x16010C, [⟨0, 16, .st, 3125, .open_⟩], 8, 0x40⟩]

/-- PLK (R293). -/
def regsPlk : List RegDef := [
  ⟨"PLK_LNn_CFG", 0x180000, [⟨0, 1, .rw, 0, .open_⟩, ⟨1, 2, .rw, 2, .open_⟩, ⟨3, 1, .rw, 1, .open_⟩, ⟨8, 8, .rw, 1, .open_⟩, ⟨16, 16, .rw, 0, .open_⟩], 32, 0x1000⟩,
  ⟨"PLK_LNn_TIMERS", 0x180020, [⟨0, 8, .rw, 1, .open_⟩, ⟨8, 8, .rw, 16, .open_⟩], 32, 0x1000⟩,
  ⟨"PLK_LNn_AUTH", 0x180040, [⟨0, 2, .rw, 0, .open_⟩, ⟨2, 2, .rw, 0, .open_⟩], 32, 0x1000⟩]

/-- CAM (R310). -/
def regsCam : List RegDef := [
  ⟨"CAM_CFG", 0x200000, [⟨0, 4, .rw, 0, .open_⟩], 1, 4⟩,
  ⟨"CAM_PTp_CFG", 0x200100, [⟨0, 2, .rw, 2, .camPort⟩, ⟨8, 8, .rw, 110, .camPort⟩], 4, 0x20⟩,
  ⟨"CAM_TRGt_CFG", 0x200200, [⟨0, 2, .rw, 0, .open_⟩, ⟨2, 1, .rw, 0, .camTrig⟩, ⟨4, 3, .rw, 0, .camTrig⟩, ⟨8, 8, .rw, 50, .camTrig⟩, ⟨16, 4, .rw, 0, .camTrig⟩], 4, 0x20⟩,
  ⟨"CAM_TRGt_PERIOD", 0x200204, [⟨0, 32, .rw, 0x40000, .camTrig⟩], 4, 0x20⟩,
  ⟨"CAM_TRGt_PHASE", 0x200208, [⟨0, 32, .rw, 0, .camTrig⟩], 4, 0x20⟩,
  ⟨"CAM_CTXc_CFG", 0x200400, [⟨0, 1, .rw, 0, .open_⟩, ⟨1, 1, .rw, 0, .enabled 0⟩, ⟨2, 6, .rw, 0x2A, .enabled 0⟩, ⟨8, 2, .rw, 0, .enabled 0⟩, ⟨16, 13, .rw, 256, .enabled 0⟩], 16, 0x80⟩,
  ⟨"CAM_CTXc_GEOM", 0x200404, [⟨0, 15, .rw, 8192, .enabled (-0x4)⟩, ⟨16, 16, .rw, 0, .enabled (-0x4)⟩], 16, 0x80⟩,
  ⟨"CAM_CTXc_TIMEOUT", 0x200408, [⟨0, 16, .rw, 1000, .enabled (-0x8)⟩, ⟨16, 16, .rw, 1000, .enabled (-0x8)⟩], 16, 0x80⟩,
  ⟨"CAM_CTXc_DIST", 0x20040C, [⟨0, 32, .rw, 0, .open_⟩], 16, 0x80⟩,
  ⟨"CAM_CTXc_S0_CROP", 0x200420, [⟨0, 15, .rw, 0, .enabled (-0x20)⟩, ⟨16, 15, .rw, 0, .enabled (-0x20)⟩], 16, 0x80⟩,
  ⟨"CAM_CTXc_S0_BASE_LO", 0x200424, [⟨12, 20, .rw, 0, .enabled (-0x24)⟩], 16, 0x80⟩,
  ⟨"CAM_CTXc_S0_BASE_HI", 0x200428, [⟨0, 4, .rw, 0, .enabled (-0x28)⟩], 16, 0x80⟩,
  ⟨"CAM_CTXc_S0_RING", 0x20042C, [⟨0, 5, .rw, 0, .enabled (-0x2C)⟩], 16, 0x80⟩,
  ⟨"CAM_CTXc_S1_CROP", 0x200434, [⟨0, 15, .rw, 0, .enabled (-0x34)⟩, ⟨16, 15, .rw, 0, .enabled (-0x34)⟩], 16, 0x80⟩,
  ⟨"CAM_CTXc_S1_SCALE", 0x200438, [⟨0, 8, .rw, 1, .enabled (-0x38)⟩, ⟨8, 8, .rw, 1, .enabled (-0x38)⟩], 16, 0x80⟩,
  ⟨"CAM_CTXc_S3_CROP", 0x20043C, [⟨0, 15, .rw, 0, .enabled (-0x3C)⟩, ⟨16, 15, .rw, 0, .enabled (-0x3C)⟩], 16, 0x80⟩,
  ⟨"CAM_CTXc_S3_SCALE", 0x200440, [⟨0, 8, .rw, 4, .enabled (-0x40)⟩, ⟨8, 8, .rw, 8, .enabled (-0x40)⟩], 16, 0x80⟩,
  ⟨"CAM_CTXc_S3_BASE_LO", 0x200444, [⟨12, 20, .rw, 0, .enabled (-0x44)⟩], 16, 0x80⟩,
  ⟨"CAM_CTXc_S3_BASE_HI", 0x200448, [⟨0, 4, .rw, 0, .enabled (-0x48)⟩], 16, 0x80⟩,
  ⟨"CAM_CTXc_S3_RING", 0x20044C, [⟨0, 5, .rw, 0, .enabled (-0x4C)⟩], 16, 0x80⟩,
  ⟨"CAM_WINw_CFG", 0x201000, [⟨0, 1, .rw, 0, .open_⟩, ⟨1, 4, .rw, 0, .open_⟩, ⟨8, 8, .rw, 0, .open_⟩, ⟨16, 14, .rw, 0, .open_⟩], 64, 0x10⟩,
  ⟨"CAM_WINw_START_LO", 0x201004, [⟨0, 32, .rw, 0, .open_⟩], 64, 0x10⟩,
  ⟨"CAM_WINw_START_HI", 0x201008, [⟨0, 16, .rw, 0, .open_⟩], 64, 0x10⟩,
  ⟨"CAM_WINw_SPAN", 0x20100C, [⟨0, 24, .rw, 0, .open_⟩, ⟨24, 8, .rw, 0, .open_⟩], 64, 0x10⟩]

/-- LOP (R332). -/
def regsLop : List RegDef := [
  ⟨"LOP_CFG", 0x240000, [⟨0, 2, .rw, 3, .loops true⟩, ⟨4, 3, .rw, 0, .loops false⟩], 1, 4⟩,
  ⟨"LOP_DENS_CFG", 0x240010, [⟨0, 4, .rw, 1, .open_⟩, ⟨4, 4, .rw, 8, .open_⟩, ⟨8, 12, .rw, 512, .open_⟩, ⟨20, 12, .rw, 256, .open_⟩], 1, 4⟩,
  ⟨"LOP_DSTEP0", 0x240014, [⟨0, 8, .rw, 128, .open_⟩, ⟨8, 1, .rw, 1, .open_⟩, ⟨16, 12, .rw, 614, .open_⟩], 1, 4⟩,
  ⟨"LOP_DSTEPk", 0x240018, [⟨0, 8, .rw, 128, .open_⟩, ⟨8, 1, .rw, 0, .open_⟩, ⟨16, 12, .rw, 614, .open_⟩], 7, 4⟩,
  ⟨"LOP_NZ_CFG", 0x240040, [⟨0, 7, .rw, 16, .open_⟩, ⟨8, 8, .rw, 16, .open_⟩, ⟨16, 8, .rw, 16, .open_⟩], 1, 4⟩,
  ⟨"LOP_NZ_THR", 0x240044, [⟨0, 8, .rw, 128, .open_⟩, ⟨8, 8, .rw, 51, .open_⟩, ⟨16, 8, .rw, 8, .open_⟩], 1, 4⟩,
  ⟨"LOP_DLOOP", 0x240050, [⟨0, 8, .rw, 128, .open_⟩, ⟨8, 4, .rw, 4, .open_⟩, ⟨16, 7, .rw, 64, .open_⟩, ⟨24, 8, .rw, 0, .open_⟩], 1, 4⟩,
  ⟨"LOP_CLOOP", 0x240054, [⟨0, 8, .rw, 128, .open_⟩, ⟨8, 8, .rw, 64, .open_⟩, ⟨16, 8, .rw, 16, .open_⟩, ⟨24, 8, .rw, 10, .open_⟩], 1, 4⟩,
  ⟨"LOP_CCLAMP", 0x240058, [⟨0, 8, .rw, 4, .open_⟩, ⟨8, 12, .rw, 500, .open_⟩, ⟨20, 4, .rw, 8, .open_⟩, ⟨24, 8, .rw, 10, .open_⟩], 1, 4⟩,
  ⟨"LOP_NLOOP", 0x24005C, [⟨0, 4, .rw, 2, .open_⟩, ⟨8, 8, .rw, 64, .open_⟩, ⟨16, 16, .rw, 256, .open_⟩], 1, 4⟩,
  ⟨"LOP_MARK_SIZE", 0x240060, [⟨0, 8, .rw, 63, .open_⟩, ⟨8, 8, .rw, 31, .open_⟩, ⟨16, 16, .rw, 64, .open_⟩], 1, 4⟩,
  ⟨"LOP_PLp_CFG", 0x240100, [⟨0, 2, .rw, 0, .open_⟩, ⟨4, 3, .rw, 0, .open_⟩, ⟨7, 1, .rw, 0, .open_⟩, ⟨8, 16, .rw, 64, .open_⟩, ⟨24, 4, .rw, 1, .open_⟩], 8, 0x20⟩,
  ⟨"LOP_CTXc_MAP0", 0x240400, [⟨0, 32, .rw, 0, .open_⟩], 16, 0x10⟩,
  ⟨"LOP_CTXc_MAP1", 0x240404, [⟨0, 32, .rw, 131072, .open_⟩], 16, 0x10⟩,
  ⟨"LOP_MARKm_CFG", 0x240800, [⟨0, 1, .rw, 0, .open_⟩, ⟨1, 3, .rw, 0, .open_⟩], 64, 0x20⟩,
  ⟨"LOP_MARKm_COL", 0x240804, [⟨0, 15, .rw, 0, .open_⟩], 64, 0x20⟩,
  ⟨"LOP_MARKm_LINE_LO", 0x240808, [⟨0, 32, .rw, 0, .open_⟩], 64, 0x20⟩,
  ⟨"LOP_MARKm_LINE_HI", 0x24080C, [⟨0, 16, .rw, 0, .open_⟩], 64, 0x20⟩,
  ⟨"LOP_MARKm_PERIOD", 0x240810, [⟨0, 24, .rw, 0, .open_⟩], 64, 0x20⟩]

/-- LCK (R344); SDATA acts at once and is not held. -/
def regsLck : List RegDef := [
  ⟨"LCK_CFG", 0x260000, [⟨0, 1, .rw, 0, .open_⟩, ⟨8, 8, .rw, 2, .open_⟩, ⟨16, 16, .rw, 256, .open_⟩], 1, 4⟩,
  ⟨"LCK_STORE_LO", 0x260008, [⟨26, 6, .rw, 0, .chambers⟩], 1, 4⟩,
  ⟨"LCK_STORE_HI", 0x26000C, [⟨0, 4, .rw, 0, .chambers⟩], 1, 4⟩,
  ⟨"LCK_CHc_SADDR", 0x260104, [⟨0, 24, .rw, 0, .open_⟩], 4, 0x20⟩]

/-- TWN (R392); TWN_EPOCH and TWN_CTRL act at once and are held in TwnState. A write of ENABLE = 0 while any plane prints is ignored. -/
def regsTwn : List RegDef := [
  ⟨"TWN_CFG", 0x2C0000, [⟨0, 1, .rw, 0, .open_⟩, ⟨1, 1, .rw, 0, .open_⟩, ⟨2, 1, .rw, 1, .open_⟩, ⟨8, 8, .rw, 50, .open_⟩, ⟨16, 10, .rw, 0, .enabled 0⟩], 1, 4⟩,
  ⟨"TWN_TIMING", 0x2C0004, [⟨0, 12, .rw, 400, .printing⟩, ⟨12, 8, .rw, 100, .open_⟩, ⟨20, 12, .rw, 1024, .open_⟩], 1, 4⟩]

end Sys2Proof.Machine
end

