-- ==== Sys2Proof/Machine/CameraState.lean ====
section
/-! DEFINITION. State of the inline camera interface (chapter 14) and of the measurement engine and correction loops (15). -/

namespace Sys2Proof.Machine

/-- What the coordinate of one plane was made of at a trigger instant (R243, R312). -/
structure PlaneFix where
  /-- O_p. -/
  origin : BitVec 48
  /-- X_a, 1/65536 line. -/
  xa : Int
  /-- Φ_a, 1/65536 line. -/
  phia : Int
  /-- o_p, 1/65536 line. -/
  ofs : Int
  /-- σ_p, 0.01 ppm. -/
  stretch : Int
  deriving DecidableEq, Repr

/-- A trigger record as one context holds it (R301). -/
structure TrigRecord where
  /-- Sequence number of the output, 32 bits. -/
  seq : BitVec 32
  /-- Trigger instant, device time in ns. -/
  time : Int
  /-- Trigger instant on the model's clock, half ns. -/
  at_ : Nat
  /-- Tag line n_t. -/
  tag : Int
  /-- VALID. -/
  valid : Bool
  /-- Plane q that the trigger names. -/
  plane : Fin 8
  /-- Coordinates of the planes that have an origin (R312). -/
  fix : Vector (Option PlaneFix) 8
  deriving DecidableEq, Repr

/-- What a waiting line is (R297, R299). -/
inductive CamLineKind | received | missing | dropped | long
  deriving DecidableEq, Repr

/-- A line in the input buffer of a port (R299). -/
structure CamLine where
  /-- Context. -/
  ctx : Fin 16
  /-- What it is. -/
  kind : CamLineKind
  /-- Payload as received; empty where the line holds none. -/
  bytes : List (BitVec 8)
  /-- Payload CRC error. -/
  crc : Bool
  /-- The frame is MARKED from this line on (R298). -/
  marked : Bool
  /-- CSI-2 frame number. -/
  frame : BitVec 16
  /-- Line number within the frame. -/
  index : Nat
  deriving DecidableEq, Repr

/-- One CSI-2 port (R295, R299, R310). -/
structure CamPort where
  /-- Waiting lines in order of arrival (R299). Reset: empty. -/
  lines : List CamLine := []
  /-- ERR.ECC_CORR, 16 bits. Reset: 0. -/
  eccCorr : BitVec 16 := 0
  /-- ERR.ECC_BAD, 16 bits. Reset: 0. -/
  eccBad : BitVec 16 := 0
  /-- ERR2.DISCARD, 16 bits. Reset: 0. -/
  discard : BitVec 16 := 0
  /-- ERR2.DROPPED, 16 bits. Reset: 0. -/
  dropped : BitVec 16 := 0
  /-- Virtual channel served last (R299). Reset: DESIGN CHOICE 3 (log entry 12). -/
  lastVc : Fin 4 := 3
  deriving DecidableEq, Repr

/-- An open frame of a context (R297, R298). -/
structure CamFrame where
  /-- Frame number. -/
  number : BitVec 16
  /-- Lines received so far, those above HEIGHT among them. -/
  lines : Nat
  /-- LONG. -/
  long : Bool
  /-- MARKED. -/
  marked : Bool
  /-- DROP. -/
  drop : Bool
  deriving DecidableEq, Repr

/-- An S1 group in progress (R304). -/
structure S1Group where
  /-- Sequence numbers divided by YAVG. -/
  number : Nat
  /-- Record of its first line. -/
  first : TrigRecord
  /-- Lines taken. -/
  taken : Nat
  /-- For each output sample, the sum of the camera samples it has taken and their number. -/
  sums : List (Nat × Nat)
  deriving DecidableEq, Repr

/-- A camera context (R295, R310). -/
structure CamCtx where
  /-- The open frame. Reset: none. -/
  frame : Option CamFrame := none
  /-- Trigger records, oldest first, at most 256 (R301). Reset: empty. -/
  records : List TrigRecord := []
  /-- FRAME.NUMBER, 16 bits. Reset: 0. -/
  number : BitVec 16 := 0
  /-- FRAME bits 20:16: SHORT, LONG, NO_FE, MARKED, DROP. Reset: 0. -/
  flags : BitVec 5 := 0
  /-- CNT_A.FRAMES, 16 bits. Reset: 0. -/
  frames : BitVec 16 := 0
  /-- CNT_A.SHORT, 16 bits. Reset: 0. -/
  short : BitVec 16 := 0
  /-- CNT_B.CRC, 16 bits. Reset: 0. -/
  crc : BitVec 16 := 0
  /-- CNT_B.PADDED, 16 bits. Reset: 0. -/
  padded : BitVec 16 := 0
  /-- CNT_C.DROPPED, 11 bits. Reset: 0. -/
  dropped : BitVec 11 := 0
  /-- CNT_C.CUT_LINES, 11 bits. Reset: 0. -/
  cutLines : BitVec 11 := 0
  /-- CNT_C.STALE, 10 bits. Reset: 0. -/
  stale : BitVec 10 := 0
  /-- S0_WIDX, 32 bits. Reset: 0. -/
  s0 : BitVec 32 := 0
  /-- S3_WIDX, 32 bits. Reset: 0. -/
  s3 : BitVec 32 := 0
  /-- Lines offered to S3 since the context was enabled, for YDEC (R304). Reset: 0. -/
  s3Lines : Nat := 0
  /-- The S1 group in progress. Reset: none. -/
  s1 : Option S1Group := none
  /-- Record of the latest line taken with a VALID tag (R315). Reset: none. -/
  lastTag : Option TrigRecord := none
  /-- Lines dropped since the last CAMERA_DROP record (R299). Reset: 0. -/
  unreported : Nat := 0
  /-- Time of the last CAMERA_DROP record, half ns (R299). Reset: none. -/
  reported : Option Nat := none
  deriving DecidableEq, Repr

/-- A camera trigger output (R300). -/
structure CamTrig where
  /-- Next sequence number, 32 bits; STAT.SEQ shows the low 16 (R310). Reset: 0. -/
  seq : BitVec 32 := 0
  /-- STAT.SKIP, 16 bits. Reset: 0. -/
  skip : BitVec 16 := 0
  /-- Time of the last pulse, half ns (R300). Reset: none. -/
  last : Option Nat := none
  /-- A pulse is under way. Reset: false. -/
  pulse : Bool := false
  /-- Next grid line of position mode, in 1/65536 line, once one has passed (R300). Reset: none. -/
  grid : Option Int := none
  deriving DecidableEq, Repr

/-- CAM (chapter 14); its set-up registers stand in the register file. -/
structure CamState where
  /-- Ports 0 to 3. -/
  port : Vector CamPort 4 := Vector.replicate 4 {}
  /-- Contexts 0 to 15. -/
  ctx : Vector CamCtx 16 := Vector.replicate 16 {}
  /-- Trigger outputs 0 to 3. -/
  trig : Vector CamTrig 4 := Vector.replicate 4 {}
  /-- CAM_PREVIEW_SKIP, 32 bits (R307). Reset: 0. -/
  previewSkip : BitVec 32 := 0
  /-- Port served last by the stream stage (R299). Reset: DESIGN CHOICE 3 (log entry 12). -/
  lastPort : Fin 4 := 3
  deriving DecidableEq, Repr

/-- State of a loop on a plane (R321). -/
inductive LoopPhase | off | run | frozen
  deriving DecidableEq, Repr

/-- What the engine has of one camera line or S1 group that falls in a band (R315, R316, R319). -/
structure BandLine where
  /-- Plane. -/
  plane : Fin 8
  /-- Context. -/
  ctx : Fin 16
  /-- Web line m. -/
  line : Int
  /-- Taken under R312. -/
  taken : Bool
  /-- First pixel, and pixels per sample value (XAVG for S1, 1 for S0). -/
  first : Nat
  /-- Pixels averaged in each value. -/
  avg : Nat
  /-- The plane's sample of each output pixel. -/
  values : List Nat
  deriving DecidableEq, Repr

/-- A recorded service band (R314), with the set-up read when it was recorded. -/
structure Band where
  /-- 1 DENSITY, 2 NOZZLE. -/
  kind : Nat
  /-- First web line F. -/
  first : Nat
  /-- Line count N. -/
  count : Nat
  /-- Plane mask. -/
  mask : BitVec 8
  /-- STEPS. -/
  steps : Nat
  /-- MARGIN in lines. -/
  margin : Nat
  /-- STEP_LINES. -/
  stepLines : Nat
  /-- PAPER. -/
  paper : Nat
  /-- PITCH. -/
  pitch : Nat
  /-- DASH. -/
  dash : Nat
  /-- GAP. -/
  gap : Nat
  /-- U0 and DU of each context (R313, R332). -/
  map : Vector (Int × Nat) 16
  /-- SAMPLE of each plane (R332). -/
  sample : Vector Nat 8
  /-- What the cameras have shown of it. -/
  lines : List BandLine
  /-- Reason 2 of R315 has arisen: a quire over it was BLANKED or refill marked a slot of it blank. -/
  spoilt : Bool
  /-- Time at which W_p of every plane had passed its end, half ns (R315). -/
  passedAt : Option Nat
  deriving DecidableEq, Repr

/-- A capture of a mark window (R306, R318). -/
structure Capture where
  /-- Mark. -/
  mark : Fin 64
  /-- Context. -/
  ctx : Fin 16
  /-- Instance i. -/
  inst : Nat
  /-- Last tag line of the instance's window. -/
  last : Int
  /-- Tag line. -/
  tag : Int
  /-- First pixel. -/
  first : Nat
  /-- Samples. -/
  values : List Nat
  /-- Plane q of the tag, and the coordinates at the trigger. -/
  record : TrigRecord
  deriving DecidableEq, Repr

/-- A valid mark instance (R318). -/
structure Mark where
  /-- Plane of the mark. -/
  plane : Fin 8
  /-- Web line LINE + i × PERIOD. -/
  line : Nat
  /-- e_x in 1/256 column. -/
  ex : Int
  /-- e_y in 1/256 line. -/
  ey : Int
  deriving DecidableEq, Repr

/-- LOP's state of one plane. -/
structure LoopPlane where
  /-- Density loop (R321). Reset: OFF. -/
  dens : LoopPhase := .off
  /-- Collation loop. Reset: OFF. -/
  coll : LoopPhase := .off
  /-- Nozzle-health loop. Reset: OFF. -/
  noz : LoopPhase := .off
  /-- Loops that froze themselves, bit by loop: STATUS.SELF_FROZEN where any did (R321). Reset: 0. -/
  selfFrozen : BitVec 3 := 0
  /-- Density baseline: gains that differ from 0, by column (R321). Reset: empty. -/
  base : List (Nat × BitVec 8) := []
  /-- Integrals that differ from 0, by column (R323). Reset: empty. -/
  integral : List (Nat × Int) := []
  /-- Collation baseline: o_p, σ_p, SHIFT. Reset: 0. -/
  collBase : Int × Int × Int := (0, 0, 0)
  /-- Sign of E_x in the last cycle when its size reached 0.75 column (R324). Reset: none. -/
  wide : Option Bool := none
  /-- Fail counts that differ from 0, by channel id (R325). Reset: empty. -/
  fails : List (Nat × Nat) := []
  /-- WHITE, 16 bits, once VALID (R316). Reset: none. -/
  white : Option Nat := none
  /-- ERR.E_Y, 1/256 line. Reset: 0. -/
  errY : Int := 0
  /-- ERR.E_X, 1/256 column. Reset: 0. -/
  errX : Int := 0
  /-- The four latest ranges that RESUME_FWD left unprinted (R311). Reset: empty. -/
  skipped : List (Int × Int) := []
  /-- Instances before this web line are discarded after an apply (R324). Reset: 0. -/
  since : Nat := 0
  deriving DecidableEq, Repr

/-- A loop's change that waits for its chamber (R322). -/
structure LoopApply where
  /-- 0 density (in a twin pair, R386), 1 collation, 2 nozzle health. -/
  loop : Nat
  /-- Planes touched. -/
  planes : BitVec 8
  /-- Register entries: BAR0 offset and value. -/
  entries : List (Nat × BitVec 32)
  /-- Column-set slots to clear: column id and slot. -/
  clears : List (Nat × Nat)
  /-- Density targets: column id and gain (R386). -/
  targets : List (Nat × BitVec 8)
  deriving DecidableEq, Repr

/-- LOP (chapter 15); its set-up registers stand in the register file. -/
structure LopState where
  /-- Recorded bands, oldest first, at most 64 (R314). Reset: empty. -/
  bands : List Band := []
  /-- Planes. -/
  plane : Vector LoopPlane 8 := Vector.replicate 8 {}
  /-- BANDS.DONE, 16 bits. Reset: 0. -/
  done : BitVec 16 := 0
  /-- BANDS.MISSED, 16 bits. Reset: 0. -/
  missed : BitVec 16 := 0
  /-- LIMITED.STEP, 16 bits. Reset: 0. -/
  stepLimited : BitVec 16 := 0
  /-- LIMITED.CLAMP, 16 bits. Reset: 0. -/
  clamped : BitVec 16 := 0
  /-- MARK_WEAK, 32 bits. Reset: 0. -/
  markWeak : BitVec 32 := 0
  /-- MIXED, 32 bits. Reset: 0. -/
  mixed : BitVec 32 := 0
  /-- WEAK, 32 bits. Reset: 0. -/
  weak : BitVec 32 := 0
  /-- Captures of instances not yet complete (R318). Reset: empty. -/
  captures : List Capture := []
  /-- Instances measured since the last cycle (R324). Reset: empty. -/
  marks : List Mark := []
  /-- Changes that wait for the loop chamber, at most one of each loop (R322). Reset: empty. -/
  waiting : List LoopApply := []
  /-- Host writes of mark registers that wait for the next cycle of a collation loop in RUN (R332): BAR0 offset and value. Reset: empty. -/
  later : List (Nat × BitVec 32) := []
  deriving DecidableEq, Repr

end Sys2Proof.Machine
end

