-- ==== Sys2Proof/Machine/State.lean ====
section
/-! DEFINITION. The state of the block, the reasons a step can stop, and the state right after power is applied. -/

namespace Sys2Proof.Machine

/-- Reasons a step can fault. The spec gives every command an effect, so no meaning raises one. -/
inductive Fault
  /-- Raised by no meaning. Safe. -/
  | none
  deriving DecidableEq, Repr

/-- Reasons a step can be refused. -/
inductive Refusal
  /-- The command has no meaning yet; raised by its arm in Dispatch alone. Safe. -/
  | notModelled (mnemonic : String)
  deriving DecidableEq, Repr

/-- Sparse bytes: strictly rising addresses, no entry equal to what an unlisted address reads as. -/
abbrev Mem := List (Nat × BitVec 8)

/-- Registers written by the host, by BAR0 offset, in the same canonical form against their reset values. -/
abbrev RegFile := List (Nat × BitVec 32)

/-- The block. -/
structure State where
  /-- Host-written registers (R7 to R10, R20) by BAR0 offset, 32 bits each; unlisted registers hold the reset value of their table row. Reset: empty. -/
  regs : RegFile := []
  /-- RST (chapter 03). -/
  rst : RstState := {}
  /-- Pins and the interlock decoder (chapter 02). -/
  pins : PinState := {}
  /-- CLK (chapter 04). -/
  clk : ClkState := {}
  /-- HIF and data mover (chapters 05, 06). -/
  hif : HifState := {}
  /-- MMU (chapter 06). -/
  mmu : MmuState := {}
  /-- CPY (chapter 06). -/
  cpy : CpyState := {}
  /-- DMC (chapter 07). -/
  dmc : DmcState := {}
  /-- QDC (chapter 08). -/
  qdc : QdcState := {}
  /-- SCR (chapter 09). -/
  scr : ScrState := {}
  /-- CSM (chapter 10). -/
  csm : CsmState := {}
  /-- POS (chapter 11). -/
  pos : PosState := {}
  /-- FIR (chapter 12). -/
  fir : FirState := {}
  /-- PLK (chapter 13). -/
  plk : PlkState := {}
  /-- CAM (chapter 14). -/
  cam : CamState := {}
  /-- LOP (chapter 15). -/
  lop : LopState := {}
  /-- LCK (chapter 16). -/
  lck : LckState := {}
  /-- TIM (chapter 17). -/
  tim : TimState := {}
  /-- URG (chapter 17). -/
  urg : UrgState := {}
  /-- TWN (chapter 18). -/
  twn : TwnState := {}
  /-- THM (chapter 19). -/
  thm : ThmState := {}
  /-- PMC (chapter 19). -/
  pmc : PmcState := {}
  /-- Parts of registers that reads of their LO parts captured, by BAR0 offset, in the form of `regs` (R241, R265, R368). Reset: empty. -/
  latch : RegFile := []
  /-- Device DRAM, physical, 36-bit addresses (R127, R129); an unlisted byte has not been written (R28). Reset: empty. -/
  dram : Mem := []
  /-- Live on-chip tables of R95: table id times 2^24 plus offset (R120); an unlisted byte is 0 (R193, R219). Reset: empty. -/
  tables : Mem := []
  /-- Time since power-on in half ns (2 per ns): the model's own clock (log entry 1). Reset: DESIGN CHOICE 0 (log entry 1). -/
  now : Nat := 0
  /-- Draws made from the opaque free values: the model's own field (log entry 3). Reset: DESIGN CHOICE 0 (log entry 3). -/
  draws : Nat := 0
  /-- What has left the device, oldest first: the model's own field (log entry 2). Reset: empty. -/
  out : List Out := []
  /-- Commands waiting, first in first out. Reset: empty. -/
  pending : List Instr := []
  deriving DecidableEq, Repr

/-- The block as power is applied (R53): the power-on source asserted, every domain in reset, every register at its reset value. -/
def State.reset : State := {}

end Sys2Proof.Machine
end

