-- ==== Sys2Proof/Machine/Registers.lean ====
section
/-! DEFINITION. The register file: reading, setting and host-writing a register by BAR0 offset (R7 to R10, R15), and bit fields. -/

namespace Sys2Proof.Machine

/-- Every register the host writes. -/
def regTable : List RegDef := regsGlb ++ regsClk ++ regsHif ++ regsThm ++ regsMmu ++ regsCpy ++ regsDmc ++
  regsQdc ++ regsScr ++ regsCsm ++ regsPos ++ regsFir ++ regsPlk ++ regsCam ++ regsLop ++ regsLck ++
  regsTim ++ regsUrg ++ regsTwn

/-- The row of the register at a BAR0 offset; none where no writable register stands (R8). -/
def regDefAt (o : Nat) : Option RegDef :=
  regTable.find? fun d => decide (d.off ≤ o ∧ (o - d.off) % d.stride = 0 ∧ (o - d.off) / d.stride < d.count)

/-- Which of `count` registers, `stride` bytes apart from `base`, stands at an offset. -/
def arrayAt (o base stride count : Nat) : Option Nat :=
  if base ≤ o ∧ (o - base) % stride = 0 ∧ (o - base) / stride < count then some ((o - base) / stride) else none

/-- `w` bits of a number from bit `lo`. -/
def bitsOf (n lo w : Nat) : Nat := (n >>> lo) % 2 ^ w

/-- Reset value of a register row (R10). -/
def RegDef.reset (d : RegDef) : BitVec 32 :=
  BitVec.ofNat 32 (d.fields.foldl (fun v f => v + f.rst * 2 ^ f.lo) 0)

/-- Reset value of the register at an offset. -/
def regReset (o : Nat) : BitVec 32 := ((regDefAt o).map RegDef.reset).getD 0

/-- Value of a key in a sparse list, `d` where it is not listed. -/
def sparseGet {α : Type} (d : α) : List (Nat × α) → Nat → α
  | [], _ => d
  | (k, v) :: t, a => if k = a then v else sparseGet d t a

/-- The list without a key. -/
def sparseErase {α : Type} : List (Nat × α) → Nat → List (Nat × α)
  | [], _ => []
  | (k, v) :: t, a => if k = a then sparseErase t a else (k, v) :: sparseErase t a

/-- The list with a key set, in rising order. -/
def sparseInsert {α : Type} : List (Nat × α) → Nat → α → List (Nat × α)
  | [], a, x => [(a, x)]
  | (k, v) :: t, a, x =>
    if a < k then (a, x) :: (k, v) :: t else if k = a then (k, x) :: t else (k, v) :: sparseInsert t a x

/-- The list with a key set to a value, keeping the canonical form against the default `d`. -/
def sparseSet {α : Type} [DecidableEq α] (d : α) (m : List (Nat × α)) (a : Nat) (x : α) : List (Nat × α) :=
  if x = d then sparseErase m a else sparseInsert m a x

/-- The register at a BAR0 offset, its host-written fields. -/
def State.reg (s : State) (o : Nat) : BitVec 32 := sparseGet (regReset o) s.regs o

/-- A field of the register at an offset. -/
def State.regField (s : State) (o lo w : Nat) : Nat := bitsOf (s.reg o).toNat lo w

/-- One bit of the register at an offset. -/
def State.regBit (s : State) (o i : Nat) : Bool := (s.reg o).getLsbD i

/-- The state with a register holding a value. -/
def State.setReg (s : State) (o : Nat) (v : BitVec 32) : State :=
  { s with regs := sparseSet (regReset o) s.regs o v }

/-- A word with `w` bits from `lo` replaced. -/
def putBits (v : BitVec 32) (lo w x : Nat) : BitVec 32 :=
  (v &&& ~~~(BitVec.ofNat 32 ((2 ^ w - 1) <<< lo))) ||| BitVec.ofNat 32 ((x % 2 ^ w) <<< lo)

/-- The state with a field of a register replaced. -/
def State.setField (s : State) (o lo w x : Nat) : State := s.setReg o (putBits (s.reg o) lo w x)

/-- A plane prints from the JOB_OPEN that opens it until it is IDLE again (R242). -/
def State.planePrints (s : State) (p : Fin 8) : Bool := decide (s.fir.plane[p].phase ≠ .idle)

/-- Any plane prints (R15, R242). -/
def State.printing (s : State) : Bool := s.fir.plane.toList.any fun p => decide (p.phase ≠ .idle)

/-- The ratio a write of the LO or HI half of a ratio register would give lies from 2^-32 to 16 (R233, R236). -/
def ratioOk (s : State) (o : Nat) (v : BitVec 32) : Bool :=
  let r := if o % 8 = 0 then v.toNat + bitsOf (s.reg (o + 4)).toNat 0 5 * 2 ^ 32
    else (s.reg (o - 4)).toNat + bitsOf v.toNat 0 5 * 2 ^ 32
  decide (1 ≤ r) && decide (r ≤ 2 ^ 36)

/-- MODE of camera trigger t: 1 position, 2 time, else off (R300, R310). -/
def State.trigMode (s : State) (t : Fin 4) : Nat :=
  let m := s.regField (0x200200 + 0x20 * t) 0 2
  if m = 3 then 0 else m

/-- Whether a guard lets a write of a field through. -/
def guardOpen (s : State) (o : Nat) (v : BitVec 32) (f : RField) : Guard → Bool
  | .open_ => true
  | .enabled d => !(s.reg (Int.toNat (o + d))).getLsbD 0
  | .printing => !s.printing
  | .noBar2 => s.rst.otp.bar2
  | .filling => s.dmc.fill.isNone
  | .outside lo hi =>
    let x := bitsOf v.toNat f.lo f.w
    !s.printing && decide (lo ≤ x) && decide (x ≤ hi)
  | .ringSize =>
    let x := bitsOf v.toNat f.lo f.w
    !s.printing && (decide (x = 0) || (decide (11 ≤ x) && decide (x ≤ 16)))
  | .noEngine => decide (bitsOf v.toNat 0 16 ≠ 0)
  | .camPort => !s.regBit 0x200000 ((o - 0x200100) / 0x20)
  | .camTrig => decide (s.trigMode (Fin.ofNat 4 ((o - 0x200200) / 0x20)) = 0)
  | .ratio => !s.printing && ratioOk s o v
  | .rollerRatio => (s.pos.ch[Fin.ofNat 8 ((o - 0x140400) / 0x40)]).window.isNone && ratioOk s o v
  | .chambers => s.lck.ch.toList.all fun c => decide (c.st = .applied ∨ c.st = .rejected)
  | .loops nozzle => s.lop.plane.toList.all fun p =>
      !(decide (p.coll = .run) || (nozzle && decide (p.noz = .run)))

/-- A word after a host write of one field (R9). -/
def writeField (s : State) (o : Nat) (v : BitVec 32) (old : BitVec 32) (f : RField) : BitVec 32 :=
  if guardOpen s o v f f.guard = false then old
  else match f.acc with
    | .rw => putBits old f.lo f.w (bitsOf v.toNat f.lo f.w)
    | .st => if s.printing then old else putBits old f.lo f.w (bitsOf v.toNat f.lo f.w)
    | .w1c => old &&& ~~~(BitVec.ofNat 32 (bitsOf v.toNat f.lo f.w <<< f.lo))

/-- A plain host write of a register: every writable field by its access code (R8, R9, R15). -/
def State.hostWrite (s : State) (o : Nat) (v : BitVec 32) : State :=
  match regDefAt o with
  | none => s
  | some d => s.setReg o (d.fields.foldl (writeField s o v) (s.reg o))

end Sys2Proof.Machine
end

