-- ==== Sys2Proof/Machine/Ops.lean ====
section
/-! DEFINITION. The named operations over the state that every family shares: bytes, sparse memory, time, reset state of a block, messages to the host. -/

namespace Sys2Proof.Machine

/-- A vector with one element changed. -/
def modAt {α : Type} {n : Nat} (v : Vector α n) (i : Fin n) (f : α → α) : Vector α n := v.set i (f v[i])

/-- `k` bytes of a number, little-endian (R6). -/
def leBytes : Nat → Nat → List Byte
  | 0, _ => []
  | k + 1, v => BitVec.ofNat 8 v :: leBytes k (v / 256)

/-- The number a little-endian byte string holds (R6). -/
def leNat : List Byte → Nat
  | [] => 0
  | b :: t => b.toNat + 256 * leNat t

/-- The signed reading of the low `w` bits of a number. -/
def signed (w n : Nat) : Int := if n % 2 ^ w < 2 ^ (w - 1) then (n % 2 ^ w : Nat) else ((n % 2 ^ w : Nat) : Int) - 2 ^ w

/-- The two's complement of an integer in `w` bits. -/
def unsigned (w : Nat) (i : Int) : Nat := (i % 2 ^ w).toNat

/-- An integer held within two bounds. -/
def clampInt (lo hi x : Int) : Int := if x < lo then lo else if hi < x then hi else x

/-- Saturating increment of a counter. -/
def satInc {w : Nat} (c : BitVec w) : BitVec w := if c = BitVec.allOnes w then c else c + 1

/-- Consecutive bytes of a sparse memory, through its read of one byte. -/
def readRange (get : Nat → Byte) (a : Nat) : Nat → List Byte
  | 0 => []
  | k + 1 => get a :: readRange get (a + 1) k

/-- A sparse memory with bytes written from an address upward; `d` is what an unlisted byte reads as, none where it counts as unwritten. -/
def writeRange (d : Option Byte) : Mem → Nat → List Byte → Mem
  | m, _, [] => m
  | m, a, b :: t =>
    writeRange d (match d with
      | none => sparseInsert m a b
      | some z => sparseSet z m a b) (a + 1) t

/-- Strictly rising keys. -/
def risingKeys {α : Type} : List (Nat × α) → Bool
  | [] => true
  | [_] => true
  | (a, _) :: (b, y) :: t => decide (a < b) && risingKeys ((b, y) :: t)

/-- The canonical form of a sparse memory: rising addresses, no entry equal to the default. -/
def Mem.wf (d : Option Byte) (m : Mem) : Bool :=
  risingKeys m && m.all fun c => decide (some c.2 ≠ d)

/-- The canonical form of the register file: rising offsets, no entry equal to the reset value. -/
def RegFile.wf (r : RegFile) : Bool :=
  risingKeys r && r.all fun c => decide (c.2 ≠ regReset c.1)

/-- One byte of device DRAM; a byte nothing has written is a free value (R28). -/
def State.dramByte (s : State) (a : Nat) : Byte := sparseGet (Config.unwrittenDram a) s.dram a

/-- One byte of a live table, by table id times 2^24 plus offset. -/
def State.tableByte (s : State) (a : Nat) : Byte := sparseGet 0 s.tables a

/-- Key of a table byte (R120). -/
def tableKey (t off : Nat) : Nat := t * 0x1000000 + off

/-- A little-endian number of `k` bytes in a live table. -/
def State.tableNum (s : State) (t off k : Nat) : Nat := leNat (readRange s.tableByte (tableKey t off) k)

/-- The state with bytes of a live table written. -/
def State.writeTable (s : State) (t off : Nat) (bs : List Byte) : State :=
  { s with tables := writeRange (some 0) s.tables (tableKey t off) bs }

/-- The state with every live table byte of a set of keys at 0. -/
def State.eraseBytes (s : State) (gone : Nat → Bool) : State := { s with tables := s.tables.filter fun c => !gone c.1 }

/-- The state with DRAM contents lost (R61). -/
def State.loseDram (s : State) : State := { s with dram := [] }

/-- The state with a message sent to the outside. -/
def State.emit (s : State) (o : Out) : State := { s with out := s.out ++ [o] }

/-- The number of the next free draw, and the state that has made it. -/
def State.draw (s : State) : Nat × State := (s.draws, { s with draws := s.draws + 1 })

/-- Device time t in 2^-16 ns (R345). -/
def State.timeFrac (s : State) : Int :=
  s.tim.t0 + ((s.tim.count : Int) - s.tim.c0) * 4 * 65536 * (2 ^ 40 + s.tim.rate) / 2 ^ 40

/-- Device time in whole ns (R103). -/
def State.timeNs (s : State) : Int := s.timeFrac / 65536

/-- Device time in 1/16 ns (R356, R362). -/
def State.timeSixteenth (s : State) : Int := s.timeFrac / 4096

/-- The device tick τ (R346). -/
def State.tick (s : State) : Int := s.timeFrac / (4 * 65536)

/-- Domain of a block (R54). -/
def Blk.domain : Blk → Domain
  | .clk | .glb | .thm | .tim | .urg | .hif | .twn | .pmc => .mgmt
  | .dmc | .mmu | .cpy | .qdc | .scr | .csm | .plk => .data
  | .cores | .pos | .fir | .lck | .lop | .cam => .ctrl

/-- Place of a block in the release order of its domain (R58). -/
def Blk.order : Blk → Nat
  | .clk => 0 | .glb => 1 | .thm => 2 | .tim => 3 | .urg => 4 | .hif => 5 | .twn => 6 | .pmc => 7
  | .dmc => 0 | .mmu => 1 | .cpy => 2 | .qdc => 3 | .scr => 4 | .csm => 5 | .plk => 6
  | .cores => 0 | .pos => 1 | .fir => 2 | .lck => 3 | .lop => 4 | .cam => 5

/-- Number of a block that can be held alone: the bit of BLOCK_HOLD (R72), and 12 for HIF under PCIE_PERST_N at L4 (R55). -/
def Blk.heldIndex : Blk → Option (Fin 13)
  | .mmu => some 0 | .cpy => some 1 | .dmc => some 2 | .qdc => some 3 | .scr => some 4 | .csm => some 5
  | .plk => some 6 | .pos => some 7 | .fir => some 8 | .cam => some 9 | .lop => some 10 | .lck => some 11
  | .hif => some 12
  | .clk | .glb | .thm | .tim | .urg | .twn | .pmc | .cores => none

/-- State of a domain (R57). -/
def State.domainState (s : State) : Domain → UnitState
  | .aon => s.rst.aon | .mgmt => s.rst.mgmt | .data => s.rst.data | .ctrl => s.rst.ctrl

/-- Blocks of a domain released so far (R58). -/
def State.released (s : State) : Domain → Nat
  | .aon => 0 | .mgmt => s.rst.relMgmt | .data => s.rst.relData | .ctrl => s.rst.relCtrl

/-- A block has left reset: its domain is UP, it has been released, and no hold of its own keeps it (R57, R58). -/
def State.blkUp (s : State) (b : Blk) : Bool :=
  decide (s.domainState b.domain = .up) && decide (b.order < s.released b.domain) &&
  match b.heldIndex with
  | none => true
  | some k => decide (s.rst.held[k] = .up)

/-- A Preaz Link's logic is out of reset (R57) and its bank is in use (R40). -/
def State.linkUp (s : State) (n : Fin 32) : Bool :=
  s.blkUp .plk && decide (s.rst.link[n] = .up) && !(if n.val < 16 then s.rst.serWOff else s.rst.serEOff)

/-- Bring-up has completed (R64, R65). -/
def State.bootDone (s : State) : Bool := decide (s.rst.stage = 7)

/-- The PLL of each clock CLK monitors, as CLK_LOCK numbers them (R73, R82). -/
def clkPll (k : Fin 9) : Nat := [1, 2, 3, 3, 4, 5, 6, 7, 8].getD k.val 0

/-- One of the clocks CLK monitors is running, by clock number: its PLL is locked and the monitor has not found it stopped (R82, R83). -/
def State.clkRuns (s : State) (k : Fin 9) : Bool := s.clk.lock.getLsbD (clkPll k) && !s.clk.down.getLsbD k

/-- AON_CLK runs: PLL_AON is locked (R73, R82). -/
def State.aonClkRuns (s : State) : Bool := s.clk.lock.getLsbD 0

/-- LINK_CLK of a link is running (R73, R82). -/
def State.linkClkRuns (s : State) (n : Fin 32) : Bool :=
  s.clk.lock.getLsbD (if n.val < 16 then 9 else 10) && !s.clk.linkDown.getLsbD n

/-- What a counted event carries for the filters of R405. -/
structure EventInfo where
  /-- DRAM port. -/
  port : Nat := 0
  /-- Service class. -/
  cls : Nat := 0
  /-- Byte address. -/
  addr : Nat := 0
  /-- Core mode: 0 user, 1 supervisor, 2 machine. -/
  mode : Nat := 2
  deriving DecidableEq, Repr

/-- The address range test of R405 for the EV word of a counter. -/
def State.arPasses (s : State) (ev : BitVec 32) (addr : Nat) : Bool :=
  !ev.getLsbD 14 ||
  let r : Fin 4 := Fin.ofNat 4 (bitsOf ev.toNat 30 2)
  let u := addr / 64 * 64
  decide (s.pmc.arBase[r].toNat * 65536 ≤ u) && decide (u < s.pmc.arBase[r].toNat * 65536 + s.pmc.arSize[r].toNat * 65536)

/-- An event of a code passes the filters of an EV word (R405). -/
def State.evPasses (s : State) (ev : BitVec 32) (code : Nat) (i : EventInfo) : Bool :=
  decide (bitsOf ev.toNat 0 8 = code) &&
  (if (0x01 ≤ code ∧ code ≤ 0x05) ∨ code = 0x60 then
    ev.getLsbD (16 + i.port) && ev.getLsbD (26 + i.cls) && s.arPasses ev i.addr
  else if 0x70 ≤ code ∧ code ≤ 0x73 then ev.getLsbD (8 + i.mode)
  else true)

/-- Raise one counter; a wrap sets its OVF bit and, with SAMPLE set, interrupts its core (R402, R408). -/
def State.raiseCounter (s : State) (k : Fin 64) (n : Nat) : State :=
  let v := s.pmc.cnt[k].toNat + n
  let s1 := { s with pmc := { s.pmc with cnt := s.pmc.cnt.set k (BitVec.ofNat 48 v) } }
  if v < 2 ^ 48 then s1
  else
    let s2 := { s1 with pmc := { s1.pmc with ovf := s1.pmc.ovf ||| BitVec.twoPow 64 k } }
    if s2.pmc.ev[k].getLsbD 11 then s2.emit (.coreInterrupt (Fin.ofNat 4 (bitsOf s2.pmc.ev[k].toNat 12 2)) k) else s2

/-- Count an event in every counter that carries its code and passes it; nothing while PMC is frozen or in reset (R402, R405, R406). -/
def State.countEvent (s : State) (code n : Nat) (i : EventInfo) : State :=
  if s.pmc.freeze || !s.blkUp .pmc then s
  else (List.finRange 64).foldl (fun t k => if t.evPasses t.pmc.ev[k] code i then t.raiseCounter k n else t) s

/-- Count bytes moved by a DRAM port: in the counters of code 0x01 and in the open bandwidth window (R404, R407). -/
def State.countDram (s : State) (port : Fin 10) (cls bytes addr : Nat) : State :=
  let i : EventInfo := { port := port.val, cls := cls, addr := addr }
  let s1 := s.countEvent 0x01 bytes i
  if s1.pmc.freeze || !s1.blkUp .pmc then s1
  else
    let w := (List.finRange 64).foldl (fun (v : Vector Nat 64) k => if s1.evPasses s1.pmc.ev[k] 0x60 i then modAt v k (· + bytes) else v) s1.pmc.winBytes
    { s1 with pmc := { s1.pmc with winBytes := w } }

/-- A bus address held in a LO and HI register pair. -/
def State.busAddr (s : State) (lo : Nat) : Nat := (s.reg lo).toNat + (s.reg (lo + 4)).toNat * 2 ^ 32

/-- The MSI-X message of a vector (R19, R106). -/
def State.msixMessage (s : State) (v : Fin 64) : Out := .msix v s.hif.msixAddr[v] s.hif.msixData[v]

/-- Data writes to host memory carry Relaxed Ordering: as Device Control enables (R85, R102). -/
def State.relaxed (s : State) : Bool := s.hif.devCtl.getLsbD 4

/-- Most bytes of one read request to host memory: Max_Read_Request_Size of Device Control (R85); the encodings above 4,096 bytes are reserved (log entry 149). -/
def State.maxRead (s : State) : Nat := 128 * 2 ^ min 5 (bitsOf s.hif.devCtl.toNat 12 3)

/-- Signal a vector: send its message, or set its pending bit while it is masked (R106). -/
def State.signal (s : State) (v : Fin 64) : State :=
  if s.hif.msixMask.getLsbD v then
    { s with hif := { s.hif with msixPend := s.hif.msixPend ||| BitVec.twoPow 64 v } }
  else (s.emit (s.msixMessage v)).countEvent 0x13 1 {}

/-- Entries of a ring of 2^LOG2SIZE (R88). -/
def State.ringSize (s : State) (cfg : Nat) : Nat := 2 ^ s.regField cfg 1 5

/-- Slots of a ring taken between a read index and a write index (R92). -/
def ringUsed (n : Nat) (rd wr : BitVec 16) : Nat := (wr.toNat + n - rd.toNat % n) % n

/-- The completion or log ring after the device has written one more slot (R98). -/
def CRing.advance (c : CRing) (n : Nat) : CRing :=
  let t := (c.tail.toNat + 1) % n
  { c with tail := BitVec.ofNat 16 t, phase := if t = 0 then !c.phase else c.phase, unsig := c.unsig + 1 }

/-- Entries per interrupt: COAL_COUNT, where 0 acts as 1 (R106). -/
def State.coalCount (s : State) (cfg : Nat) : Nat := max 1 (s.regField cfg 16 8)

/-- VECTOR of a ring (R106). -/
def State.ringVector (s : State) (cfg : Nat) : Fin 64 := Fin.ofNat 64 (s.regField cfg 6 6)

/-- CFG register of completion ring m. -/
def crCfg (m : Fin 8) : Nat := 0x40208 + 0x10 * m

/-- CFG register of manifest ring n. -/
def mrCfg (n : Fin 16) : Nat := 0x40108 + 0x10 * n

/-- CFG register of the log ring. -/
def logCfg : Nat := 0x40018

/-- Signal a completion ring that has something to signal (R106). -/
def State.signalCr (s : State) (m : Fin 8) : State :=
  { s with hif := { s.hif with cr := modAt s.hif.cr m fun c => { c with unsig := 0 } } }.signal (s.ringVector (crCfg m))

/-- Signal the log ring (R106). -/
def State.signalLog (s : State) : State :=
  { s with hif := { s.hif with log := { s.hif.log with unsig := 0 } } }.signal (s.ringVector logCfg)

/-- Write one 16-byte completion entry at the tail of a completion ring, then signal as R106 says (R98, R102). The phase bit joins byte 7 here. -/
def State.writeCompletion (s : State) (m : Fin 8) (tag : BitVec 32) (index : BitVec 16) (status : BitVec 8)
    (ring : Fin 16) (result : Nat) (irq : Bool) : State :=
  let c := s.hif.cr[m]
  let bytes := leBytes 4 tag.toNat ++ leBytes 2 index.toNat ++
    [status, BitVec.ofNat 8 (ring.val + if c.phase then 128 else 0)] ++ leBytes 8 result
  let c' := c.advance (s.ringSize (crCfg m))
  let s1 := { s with hif := { s.hif with cr := s.hif.cr.set m c' } }.emit
    (.hostWrite (s.busAddr (crCfg m - 8) + 16 * c.tail.toNat) bytes false) |>.countEvent 0x11 16 {}
  if irq || decide (s.coalCount (crCfg m) ≤ c'.unsig) then s1.signalCr m else s1

/-- Room for one more log record (R105). -/
def State.logRoom (s : State) : Bool :=
  s.blkUp .hif && s.regBit logCfg 0 &&
  decide (ringUsed (s.ringSize logCfg) s.hif.log.head s.hif.log.tail + 1 < s.ringSize logCfg)

/-- Put a 32-byte record into the log ring (R103) and signal as R106 says; the caller has checked for room. -/
def State.putRecord (s : State) (code sev unit : Nat) (data : List Byte) : State :=
  let c := s.hif.log
  let bytes := leBytes 8 (unsigned 64 s.timeNs) ++ leBytes 2 code ++ [BitVec.ofNat 8 sev, BitVec.ofNat 8 unit] ++
    leBytes 4 s.hif.seq.toNat ++ (data ++ List.replicate 14 0).take 14 ++ [0, if c.phase then 128 else 0]
  let c' := c.advance (s.ringSize logCfg)
  let s1 := { s with hif := { s.hif with log := c', seq := s.hif.seq + 1 } }.emit
    (.hostWrite (s.busAddr 0x40010 + 32 * c.tail.toNat) bytes false) |>.countEvent 0x11 32 {}
  if s.coalCount logCfg ≤ c'.unsig then s1.signalLog else s1

/-- Write the LOST record when losses are pending and a slot is free (R105). -/
def State.putLost (s : State) : State :=
  if s.hif.lostPending ≠ 0 && s.logRoom then
    { s with hif := { s.hif with lostPending := 0 } }.putRecord 0x0001 1 0xFF (leBytes 4 s.hif.lostPending)
  else s

/-- Register address of HIF_LOG_LOST, kept beside the host-written registers because it only counts. -/
def logLost : Nat := 0x40020

/-- Raise a log record (R103, R105): written behind a pending LOST record, or lost and counted; nothing while HIF is in reset. -/
def State.log (s : State) (code sev unit : Nat) (data : List Byte) : State :=
  if s.blkUp .hif then
    let s1 := s.putLost
    if s1.hif.lostPending = 0 && s1.logRoom then s1.putRecord code sev unit data
    else
      { s1 with hif := { s1.hif with lostPending := s1.hif.lostPending + 1, seq := s1.hif.seq + 1 } }.setReg logLost
        (satInc (s1.reg logLost))
  else s

/-- Work of one instant added to that of the last 1,000,000 CORE_CLK cycles, 1 ms (R186, R218). -/
def noteWork (now k : Nat) (w : List (Nat × Nat)) : List (Nat × Nat) := (now, k) :: w.filter fun x => decide (now < x.1 + 2000000)

/-- LOAD (R194): the work of the last 1,000,000 CORE_CLK cycles as a percentage of 64,000,000, rounded down (log entry 24). -/
def loadOf (now : Nat) (w : List (Nat × Nat)) : Nat :=
  min 100 (((w.filter fun x => decide (now < x.1 + 2000000)).map Prod.snd).sum / 640000)

/-- Bytes of a web line in log DATA: bits 47:0 (R103). -/
def lineBytes (l : Int) : List Byte := leBytes 6 (unsigned 48 l)

end Sys2Proof.Machine
end

