-- ==== Sys2Proof/Machine/DramQueue.lean ====
section
/-! DEFINITION. The subchannel schedulers of the DRAM controller (chapter 07): address mapping, regions, the queues, and the request that a scheduler issues next. Every requester of device DRAM comes through here (R133). -/

namespace Sys2Proof.Machine

/-- Installed capacity in bytes (R128). -/
def State.capacity (s : State) : Nat := bitsOf s.dmc.geom.toNat 8 8 * 2 ^ 30

/-- Subchannels in use (R129). -/
def State.subCount (s : State) : Nat := if s.rst.ddr1Off then 2 else 4

/-- Subchannel of an address (R129). -/
def State.subOf (s : State) (a : Nat) : Fin 4 := Fin.ofNat 4 ((a / 64) % s.subCount)

/-- Channel of a subchannel (R129). -/
def channelOf (c : Fin 4) : Fin 2 := if c.val < 2 then 0 else 1

/-- Bytes of one DRAM row (R129). -/
def State.rowBytes (s : State) : Nat := if bitsOf s.dmc.geom.toNat 0 2 = 1 then 8192 else 4096

/-- Ranks of a channel (R147). -/
def State.ranks (s : State) : Nat := if bitsOf s.dmc.geom.toNat 4 2 = 2 then 2 else 1

/-- Banks the row-sets rotate over: bank groups, banks, ranks (R129; the counts per device are JESD79-5's, log entry 17). -/
def State.bankCount (s : State) : Nat := 8 * (if bitsOf s.dmc.geom.toNat 2 2 = 0 then 2 else 4) * s.ranks

/-- Rows of a bank (R129). -/
def State.rowCount (s : State) : Nat := s.capacity / s.subCount / s.rowBytes / s.bankCount

/-- Bank and row of an address within its subchannel (R129). -/
def State.bankRow (s : State) (a : Nat) : Nat × Nat :=
  let set := (a / 64) / s.subCount / (s.rowBytes / 64)
  (set % s.bankCount, set / s.bankCount)

/-- Base of region n in bytes (R147). -/
def State.rgnBase (s : State) (n : Nat) : Nat := s.regField (0x80100 + 0x10 * n) 0 20 * 65536

/-- Size of region n in bytes (R147). -/
def State.rgnSize (s : State) (n : Nat) : Nat := s.regField (0x80104 + 0x10 * n) 0 20 * 65536

/-- Region n contains an address (R144). -/
def State.rgnHas (s : State) (a n : Nat) : Bool :=
  decide (s.rgnBase n ≤ a) && decide (a < s.rgnBase n + s.rgnSize n)

/-- The lowest-numbered region that contains an address (R144). -/
def State.rgnAt (s : State) (a : Nat) : Option Nat := (List.range 16).find? (s.rgnHas a)

/-- A write from a port is admitted at an address (R144). -/
def State.rgnAdmits (s : State) (port : Fin 10) (a : Nat) : Bool :=
  match s.rgnAt a with
  | none => true
  | some n => !s.regBit (0x80108 + 0x10 * n) 1 || s.regBit (0x80108 + 0x10 * n) (16 + port.val)

/-- Service class of a request of a port (R122, R133); `chamber` for a copier request that serves a chamber. -/
def portClass (port : Fin 10) (chamber : Bool) : Fin 4 :=
  match port.val with
  | 0 | 1 => 0
  | 5 => 1
  | 2 | 3 | 4 => 2
  | 7 => if chamber then 0 else 3
  | _ => 3

/-- Direction of a port (R133): SW and CM only write, RF, GR and CD only read. -/
def portDirects (port : Fin 10) (write : Bool) : Bool :=
  match port.val with
  | 2 | 5 => write
  | 0 | 1 | 3 => !write
  | _ => true

/-- A port that takes read data from the write queue (R133, R137). -/
def portForwards (port : Fin 10) : Bool := decide (port.val = 1 ∨ port.val = 8)

/-- Age limit of a class in 100 ns as it stands, 0 for class 0 and for no promotion (R135). -/
def State.ageLimit (s : State) (c : Fin 4) : Nat := if c.val = 0 then 0 else s.regField 0x80010 (8 * (c.val - 1)) 8

/-- The state with one subchannel changed. -/
def State.modSub (s : State) (k : Fin 4) (f : Subchannel → Subchannel) : State :=
  { s with dmc := { s.dmc with sub := modAt s.dmc.sub k f } }

/-- DMC serves requests (R61, R130). -/
def State.dmcServes (s : State) : Bool := s.blkUp .dmc && s.dmc.ready

/-- The request for bytes of one 64-byte unit that reaches DMC now (R133, R135). -/
def State.reqAt (s : State) (port : Fin 10) (cls : Fin 4) (write : Bool) (a len : Nat) : DramReq :=
  { seq := s.dmc.nextSeq, port := port, cls := cls, write := write, unit := a / 64 * 64, lo := a % 64, len := min (64 - a % 64) len
    bank := (s.bankRow a).1, row := (s.bankRow a).2, promoted := false, lift := 4, limit := s.ageLimit cls, at_ := s.now
    waits := [], data := [], bad := false, fill := false, covered := false }

/-- First byte of a request. -/
def DramReq.addr (r : DramReq) : Nat := r.unit + r.lo

/-- What the counters know of a request (R405). -/
def DramReq.info (r : DramReq) : EventInfo := { port := r.port.val, cls := r.cls.val, addr := r.addr }

/-- Tier of a request (R134): that of a read which waits for it, where that is lower (R137). -/
def DramReq.tier (r : DramReq) : Nat := min r.lift (if r.promoted then 0 else r.cls.val)

/-- Writes in a queue that cover a unit. -/
def Subchannel.covering (q : Subchannel) (u : Nat) : List DramReq := q.writes.filter fun w => decide (w.unit = u)

/-- A write moves to the tier of a read that waits for it (R137). -/
def DramReq.raise (w : DramReq) (r : DramReq) : DramReq := { w with lift := min w.lift r.tier }

/-- A read whose writes have all been issued can be issued (R137). -/
def Subchannel.readFree (q : Subchannel) (r : DramReq) : Bool := r.waits.all fun n => !q.writes.any fun w => decide (w.seq = n)

/-- A write is the oldest of its unit (R138). -/
def Subchannel.oldestOfUnit (q : Subchannel) (w : DramReq) : Bool :=
  q.writes.all fun x => decide (x.unit ≠ w.unit ∨ w.seq ≤ x.seq)

/-- The requests a scheduler chooses among (R134, R137): writes alone in a drain burst or where no read can be issued, else the reads and the writes that reads wait for. -/
def Subchannel.candidates (q : Subchannel) : List DramReq :=
  let reads := q.reads.filter q.readFree
  let writes := q.writes.filter q.oldestOfUnit
  if q.draining || reads.isEmpty then
    if writes.isEmpty then reads else writes
  else reads ++ writes.filter fun w => q.reads.any fun r => r.waits.contains w.seq

/-- A request hits the open row of its bank. -/
def Subchannel.rowHit (q : Subchannel) (r : DramReq) : Bool := q.openRows.contains (r.bank, r.row)

/-- The oldest of a list of requests. -/
def oldestReq : List DramReq → Option DramReq
  | [] => none
  | r :: t => match oldestReq t with
    | none => some r
    | some x => some (if r.seq < x.seq then r else x)

/-- The next request (R134): the lowest tier; in it a row hit first, then the oldest; after `cap` consecutive hits in one bank the oldest. -/
def Subchannel.pick (q : Subchannel) (cap : Nat) : Option DramReq :=
  let cs := q.candidates
  let top : Nat := cs.foldl (fun m r => min m r.tier) 4
  let mine := cs.filter fun r => decide (r.tier = top)
  let capped := match q.hits with | some (_, n) => decide (cap ≤ n) | none => false
  match if capped then none else oldestReq (mine.filter q.rowHit) with
  | some r => some r
  | none => oldestReq mine

/-- A write enters the write queue (R134): at 48 entries a drain burst begins. Reads of its unit that are still under way know that it covers the unit (R140). -/
def Subchannel.enqueue (q : Subchannel) (w : DramReq) : Subchannel :=
  let mark := fun r : DramReq => if r.unit = w.unit ∧ w.len = 64 then { r with covered := true } else r
  { q with
    writes := q.writes ++ [w], reads := q.reads.map mark, issued := q.issued.map mark
    draining := q.draining || decide (48 ≤ q.writes.length + 1) }

/-- A read enters its queue (R137): it waits for the queued writes of its unit, which move to its tier. -/
def Subchannel.hold (q : Subchannel) (r : DramReq) : Subchannel :=
  { q with
    reads := q.reads ++ [{ r with waits := (q.covering r.unit).map DramReq.seq }]
    writes := q.writes.map fun x => if x.unit = r.unit then x.raise r else x }

/-- One queued write of the whole unit gives a read its data (R137). -/
def Subchannel.forwards (q : Subchannel) (r : DramReq) : Bool :=
  portForwards r.port && match q.covering r.unit with | [w] => decide (w.len = 64) | _ => false

/-- The queues after a request has been issued (R134): a drain burst ends at 16 writes. -/
def Subchannel.issue (q : Subchannel) (r : DramReq) : Subchannel :=
  let q1 := if r.write then { q with writes := q.writes.filter fun w => decide (w.seq ≠ r.seq) }
    else { q with reads := q.reads.filter (fun x => decide (x.seq ≠ r.seq)), issued := q.issued ++ [r] }
  { q1 with draining := q1.draining && decide (16 < q1.writes.length) }

/-- LOG2P in force (R139, R147). -/
def State.logP (s : State) : Nat := max 6 (min 12 (s.regField 0x80014 0 4))

/-- Neighbour refresh by directed refresh management (R139, R147): MODE selects it, or automatic does, and the devices have it. -/
def State.directed (s : State) : Bool := s.dmc.geom.getLsbD 16 && decide (s.regField 0x80014 4 2 ≠ 2)

/-- A row's neighbours are refreshed (R139): by a directed refresh of the row, or by activating the rows one above and below. -/
def State.refreshNeighbours (s : State) (k : Fin 4) (d : DramReq) : State :=
  let rows := (if 0 < d.row then [d.row - 1] else []) ++ (if d.row + 1 < s.rowCount then [d.row + 1] else [])
  (if s.directed then s.emit (.directedRefresh k d.bank d.row)
   else rows.foldl (fun (t : State) x => t.emit (.neighbourActivate k d.bank x)) s).countEvent 0x04 1 d.info

/-- A request activates its row (R139): a refresh due in the bank comes first, and the generator may make the row's neighbours due before the bank's next activate. -/
def State.activate (s : State) (k : Fin 4) (r : DramReq) : State :=
  let due := ((s.dmc.sub[k]).nrr).filter fun x => decide (x.bank = r.bank)
  let s1 := due.foldl (fun (t : State) x => t.refreshNeighbours k x) s
  let hit := Config.neighbourDraw s1.draws s1.logP
  ((s1.draw).2.modSub k fun q => { q with
    nrr := (q.nrr.filter fun x => decide (x.bank ≠ r.bank)) ++ (if hit then [r] else [])
    openRows := (r.bank, r.row) :: q.openRows.filter fun x => decide (x.1 ≠ r.bank)
    hits := some (r.bank, 0) }).countEvent 0x03 1 r.info

/-- Issue a request: open its row, or count a row hit, then take it out of its queue (R134). A hit in another bank begins a run of its own (log entry 158). -/
def State.issueReq (s : State) (k : Fin 4) (r : DramReq) : State :=
  let s1 := if (s.dmc.sub[k]).rowHit r then
      (s.modSub k fun x => { x with hits := match x.hits with
        | some (b, n) => if b = r.bank then some (b, n + 1) else some (r.bank, 1)
        | none => some (r.bank, 1) }).countEvent 0x05 1 r.info
    else s.activate k r
  s1.modSub k fun x => x.issue r

/-- The fill has ended once its last zero write has been issued (R143). -/
def State.fillEnds (s : State) : State :=
  match s.dmc.fill with
  | some (_, 0) =>
    if s.dmc.sub.toList.all fun q => q.writes.all fun w => !w.fill then
      { s with dmc := { s.dmc with fill := none, fillDone := true } }
    else s
  | _ => s

/-- A subchannel's scheduler issues the request it picks (R134). -/
def State.pickIssue (s : State) (k : Fin 4) : State :=
  match (s.dmc.sub[k]).pick (max 1 (s.regField 0x80010 24 5)) with
  | none => s
  | some r => (s.issueReq k r).fillEnds

/-- A write gets its slot in the write queue (R24, R134): while the queue is full, the scheduler goes on; the number bounds what it issues. The time this takes is not shown (log entry 7). -/
def State.makeSlot (s : State) (k : Fin 4) : Nat → State
  | 0 => s
  | n + 1 => if 64 ≤ (s.dmc.sub[k]).writes.length then (s.pickIssue k).makeSlot k n else s

/-- The scheduler goes on until a read that an engine waits for has been issued (R134, R137); the number bounds what it issues (log entry 7). -/
def State.serveUntil (s : State) (k : Fin 4) (seq : Nat) : Nat → State
  | 0 => s
  | n + 1 => if (s.dmc.sub[k]).reads.any fun r => decide (r.seq = seq) then (s.pickIssue k).serveUntil k seq n else s

/-- Requests waiting at a subchannel. -/
def Subchannel.load (q : Subchannel) : Nat := q.reads.length + q.writes.length

/-- DMC has accepted a request (R137, R404): it has its number, and its bytes are counted. -/
def State.accepted (s : State) (r : DramReq) : State :=
  { s with dmc := { s.dmc with nextSeq := s.dmc.nextSeq + 1 } }.countDram r.port r.cls.val r.len r.addr

/-- Record a dropped write (R144). -/
def State.recordDrop (s : State) (port : Fin 10) (a : Nat) : State :=
  { s with dmc := { s.dmc with
      regv := true
      regvPort := if s.dmc.regv then s.dmc.regvPort else BitVec.ofNat 4 port.val
      regvCount := satInc s.dmc.regvCount
      regvAddr := a / 64 * 64
      regvLast := BitVec.ofNat 4 port.val } }

/-- Record an uncorrectable error (R140); it is an error of R377 on every plane. -/
def State.recordUe (s : State) (port : Fin 10) (a : Nat) : State :=
  { s with
    dmc := { s.dmc with
      ue := true, ueCount := satInc s.dmc.ueCount, eccAddr := a / 64 * 64, eccPort := BitVec.ofNat 4 port.val }
    twn := { s.twn with plane := s.twn.plane.map fun x => { x with errAt := some s.now } } }

/-- A request that no DRAM serves: beyond the capacity, or on a faulty channel (R132, R140). -/
def State.unserved (s : State) (a : Nat) : Bool := decide (s.capacity ≤ a) || s.dmc.chFault[channelOf (s.subOf a)]

/-- Bytes of one 64-byte unit reach the DRAM (R140): a write of the whole unit makes it readable again. -/
def State.storeUnit (s : State) (a : Nat) (bs : List Byte) : State :=
  { s with
    dram := writeRange none s.dram a bs
    dmc := { s.dmc with
      badUnits := if a % 64 = 0 ∧ 64 ≤ bs.length then s.dmc.badUnits.filter (· ≠ a / 64 * 64) else s.dmc.badUnits } }

/-- A unit has an uncorrectable error in the array until it is written whole (R140). -/
def State.spoilUnit (s : State) (u : Nat) : State :=
  { s with dmc := { s.dmc with badUnits := u :: s.dmc.badUnits.filter (· ≠ u) } }

/-- A write takes its place in the write queue of its subchannel (R24, R134, R138). -/
def State.queueWrite (s : State) (r : DramReq) : State :=
  let k := s.subOf r.addr
  ((s.makeSlot k ((s.dmc.sub[k]).load + 1)).modSub k fun q => q.enqueue r).accepted r

/-- DMC stores a write of a port: not beyond the capacity, where a region drops it, nor on a faulty channel (R132, R140, R144). -/
def State.writeLands (s : State) (r : DramReq) : Bool := !s.unserved r.addr && (r.fill || s.rgnAdmits r.port r.addr)

/-- A write of bytes of one unit reaches DMC (R132, R138, R140, R144): lost while DMC is in reset (R59) and beyond the capacity, dropped by a protecting region, in error on a faulty channel, else queued and stored. The fill ignores regions (R143). -/
def State.putWrite (s : State) (r : DramReq) (bs : List Byte) : State :=
  if !s.blkUp .dmc || decide (s.capacity ≤ r.addr) then s
  else if !r.fill && !s.rgnAdmits r.port r.addr then s.recordDrop r.port r.addr
  else if s.unserved r.addr then s.recordUe r.port r.unit
  else (s.queueWrite r).storeUnit r.addr bs

/-- An engine's read of bytes of one unit (R133, R134, R137): forwarded, or held in the queue until the scheduler has issued it. -/
def State.serveRead (s : State) (r : DramReq) : State :=
  let k := s.subOf r.addr
  if s.unserved r.addr || !s.blkUp .dmc then s
  else if (s.dmc.sub[k]).forwards r then s.accepted r
  else
    let s1 := (s.modSub k fun q => q.hold r).accepted r
    (s1.serveUntil k r.seq ((s1.dmc.sub[k]).load + 1)).modSub k fun q => { q with issued := q.issued.filter fun x => decide (x.seq ≠ r.seq) }

end Sys2Proof.Machine
end

