-- ==== Sys2Proof/Machine/Memory.lean ====
section
/-! DEFINITION. Device DRAM as its requesters see it (chapter 07), tables and chambers as address ranges, and the MMU walk (chapter 06). -/

namespace Sys2Proof.Machine

/-- Write bytes that lie in one 64-byte unit through a port (R138, R140, R144). -/
def State.dramPutUnit (s : State) (port : Fin 10) (a : Nat) (bs : List Byte) (chamber : Bool := false) : State :=
  s.putWrite (s.reqAt port (portClass port chamber) true a bs.length) bs

/-- The pieces of a byte string that starts at `a`, cut at 64-byte units; `fuel` bounds their number. -/
def cutUnits : Nat → Nat → List Byte → List (Nat × List Byte)
  | 0, _, _ => []
  | _ + 1, _, [] => []
  | k + 1, a, b :: bs =>
    let n := 64 - a % 64
    (a, (b :: bs).take n) :: cutUnits k (a + n) ((b :: bs).drop n)

/-- Write bytes through a port, unit by unit in ascending order (R138). -/
def State.dramPut (s : State) (port : Fin 10) (a : Nat) (bs : List Byte) (chamber : Bool := false) : State :=
  (cutUnits (bs.length + 1) a bs).foldl (fun t p => t.dramPutUnit port p.1 p.2 chamber) s

/-- A unit reads as uncorrectable: beyond the capacity, on a faulty channel, or left so by an error (R132, R140). -/
def State.unitBad (s : State) (a : Nat) : Bool := s.unserved a || s.dmc.badUnits.contains (a / 64 * 64)

/-- Bytes of DRAM as written so far. -/
def State.dramGet (s : State) (a len : Nat) : List Byte := readRange s.dramByte a len

/-- The pieces of a byte range, cut at 64-byte units: address and length; the number bounds the pieces. -/
def cutRange : Nat → Nat → Nat → List (Nat × Nat)
  | 0, _, _ => []
  | k + 1, a, len => if len = 0 then [] else (a, min len (64 - a % 64)) :: cutRange k (a + (64 - a % 64)) (len - (64 - a % 64))

/-- Unit addresses a byte range touches. -/
def unitsOf (a len : Nat) : List Nat :=
  if len = 0 then [] else (List.range ((a + len - 1) / 64 - a / 64 + 1)).map fun k => (a / 64 + k) * 64

/-- The first unit of a range that reads as uncorrectable. -/
def State.badIn (s : State) (a len : Nat) : Option Nat := (unitsOf a len).find? s.unitBad

/-- Read bytes that lie in one 64-byte unit through a port: an uncorrectable unit is recorded (R133, R140). -/
def State.dramReadUnit (s : State) (port : Fin 10) (a len : Nat) (chamber : Bool := false) : State :=
  let t := s.serveRead (s.reqAt port (portClass port chamber) false a len)
  if s.blkUp .dmc && s.unitBad a then t.recordUe port a else t

/-- The reads of a byte range through a port, unit by unit (R133, R140). -/
def State.dramTouch (s : State) (port : Fin 10) (a len : Nat) (chamber : Bool := false) : State :=
  (cutRange (len + 1) a len).foldl (fun t p => t.dramReadUnit port p.1 p.2 chamber) s

/-- Read DRAM through a port: the bytes and whether every unit was readable; every uncorrectable unit is recorded (R140). A DMC in reset answers with an error (R59). -/
def State.dramRead (s : State) (port : Fin 10) (a len : Nat) (chamber : Bool := false) : List Byte × Bool × State :=
  (s.dramGet a len, s.blkUp .dmc && (s.badIn a len).isNone, s.dramTouch port a len chamber)

/-- Size of a table in bytes (R95 and the chapters it names); none for an unlisted id. -/
def tableSize (t : Nat) : Option Nat :=
  match t with
  | 0x0001 => some 4194304
  | 0x0002 => some 262144
  | 0x0003 => some 262144
  | 0x0004 => some 10240
  | 0x0010 => some 786432
  | 0x0011 => some 524288
  | 0x0012 => some 8388608
  | 0x0013 => some 131584
  | 0x0014 => some 34816
  | 0x0015 => some 4096
  | 0x0020 => some 262144
  | _ => none

/-- A staged (ST) table of R95. -/
def tableStaged (t : Nat) : Bool := (tableSize t).isSome && decide (t ≠ 0x0020)

/-- The block that holds a table (R95). -/
def tableBlk (t : Nat) : Blk := if t < 0x0010 then .csm else if t < 0x0020 then .scr else .lop

/-- Start of the page-table region (R111). -/
def State.ptBase (s : State) : Nat := s.regField 0x50010 16 16 * 65536 + s.regField 0x50014 0 4 * 2 ^ 32

/-- Size of the page-table region (R111). -/
def State.ptSize (s : State) : Nat := s.regField 0x50018 0 16 * 65536

/-- Root table address (R110). -/
def State.ptRoot (s : State) : Nat := s.regField 0x50008 13 19 * 8192 + s.regField 0x5000C 0 4 * 2 ^ 32

/-- A byte range lies wholly inside the page-table region (R111). -/
def State.inPt (s : State) (a len : Nat) : Bool :=
  decide (s.ptBase ≤ a) && decide (a + len ≤ s.ptBase + s.ptSize)

/-- Outcome of a translation (R110, R115). -/
inductive Walk
  /-- Physical byte address. -/
  | ok (phys : Nat)
  /-- Fault kind and level of R115. -/
  | fault (kind level : Nat)
  deriving DecidableEq, Repr

/-- Job address bits below one entry of a level (R110). -/
def levelShift : Nat → Nat
  | 1 => 30
  | 2 => 21
  | _ => 12

/-- A walk reads an entry from DRAM (R111): none where it returns an uncorrectable error. -/
def State.readPte (s : State) (port : Fin 10) (a : Nat) : Option Nat × State :=
  match s.dramRead port a 8 with
  | (bs, ok, t) => (if ok then some (leNat bs) else none, t)

/-- The entry of a level that a walk uses (R112): a cached one without reading memory, the one in memory where none is cached; where the two differ, or memory has become unreadable, either. -/
def State.pickPte (s : State) (port : Fin 10) (level pre a : Nat) : Option Nat × State :=
  match s.mmu.cache.find? fun c => decide (c.level = level ∧ c.prefix_ = pre) with
  | none => s.readPte port a
  | some c =>
    if s.badIn a 8 = none ∧ leNat (s.dramGet a 8) = c.pte then (some c.pte, s)
    else
      let d := s.draw
      if Config.staleEntry d.1 pre then (some c.pte, d.2) else d.2.readPte port a

/-- The state with a valid entry cached (R112). -/
def State.cachePte (s : State) (level pre pte : Nat) : State :=
  let others := s.mmu.cache.filter fun c => !decide (c.level = level ∧ c.prefix_ = pre)
  { s with mmu := { s.mmu with cache := ⟨level, pre, pte⟩ :: others } }

/-- FRAME times 4096 of an entry (R110). -/
def pteFrame (p : Nat) : Nat := bitsOf p 12 24 * 4096

/-- Reserved bits of an entry are 0 (R110). -/
def pteClean (p : Nat) : Bool := decide (bitsOf p 3 9 = 0) && decide (bitsOf p 36 28 = 0)

/-- One step of the walk at a level whose table starts at `table` (R110, R111, R115); the number before it counts the levels left. Of several faults of one entry the first of FORMAT, PTR or PHYS, and WRITE is reported, an order the spec does not give (log entry 152). -/
def State.walkFrom (s : State) (port : Fin 10) (job : Nat) (write : Bool) : Nat → Nat → Nat → Walk × State
  | 0, level, _ => (.fault 2 level, s)
  | left + 1, level, table =>
    let sh := levelShift level
    let idx := (job / 2 ^ sh) % (if level = 1 then 1024 else 512)
    let pre := job / 2 ^ sh
    match s.pickPte port level pre (table + 8 * idx) with
    | (none, s1) => (.fault 7 level, s1)
    | (some p, s2) =>
      if !p.testBit 0 then (.fault 1 level, s2)
      else if !pteClean p then (.fault 2 level, s2)
      else if p.testBit 1 then
        if level = 1 || (level == 2 && decide (pteFrame p % 2 ^ 21 ≠ 0)) then (.fault 2 level, s2)
        else if s2.capacity < pteFrame p + 2 ^ sh then (.fault 4 level, s2)
        else if write && !p.testBit 2 then (.fault 5 level, s2.cachePte level pre p)
        else (.ok (pteFrame p + job % 2 ^ sh), s2.cachePte level pre p)
      else if level = 3 then (.fault 2 level, s2)
      else if !s2.inPt (pteFrame p) 4096 then (.fault 3 level, s2)
      else (s2.cachePte level pre p).walkFrom port job write left (level + 1) (pteFrame p)

/-- Translate one job address for the mover (port HF) or the codec (port CD) (R110 to R112, R117). -/
def State.translate (s : State) (port : Fin 10) (job : Nat) (write : Bool) : Walk × State :=
  if s.regBit 0x50000 0 then s.walkFrom port job write 3 1 s.ptRoot else (.fault 6 0, s)

/-- Record a fault in a slot: 0 to 15 a manifest ring, 16 the codec (R115, R116). -/
def State.recordFault (s : State) (slot : Fin 17) (kind level : Nat) (write : Bool) (op : BitVec 8) (job : Nat) : State :=
  let f : FaultSlot :=
    { valid := true, kind := BitVec.ofNat 3 kind, level := BitVec.ofNat 2 level, write := write, opcode := op, page := job / 4096 }
  { s with mmu := { s.mmu with flt := s.mmu.flt.set slot f } }

/-- A codec read translates a job address; the wrapper of an MMU in reset answers with an error, and no slot takes it (R59, R126). -/
def State.codecWalk (s : State) (port : Fin 10) (job : Nat) : Option Nat × State :=
  if s.blkUp .mmu then
    match s.translate port job false with
    | (.ok ph, t) => (some ph, t)
    | (.fault k l, t) => (none, t.recordFault 16 k l false 0 job)
  else (none, s)

/-- Read `len` bytes of job space for the codec, 4 KiB page by page; none from the first page that faults or reads as uncorrectable (R116, R140); `fuel` bounds the pages. The bytes read before that point come with it. -/
def State.jobRead (s : State) (port : Fin 10) : Nat → Nat → Nat → List Byte × Bool × State
  | 0, _, len => ([], decide (len = 0), s)
  | fuel + 1, job, len =>
    if len = 0 then ([], true, s)
    else
      let n := min len (4096 - job % 4096)
      match s.codecWalk port job with
      | (none, s1) => ([], false, s1)
      | (some ph, s1) =>
        match s1.badIn ph n with
        | some u => (s1.dramGet ph (u - ph), false, s1.dramTouch port ph (min n (u + 64 - ph)))
        | none =>
          let (bs, ok, s2) := (s1.dramTouch port ph n).jobRead port fuel (job + n) (len - n)
          (s1.dramGet ph n ++ bs, ok && s1.blkUp .dmc, s2)

end Sys2Proof.Machine
end

