-- ==== Sys2Proof/Machine/Entries.lean ====
section
/-! DEFINITION. Manifest entries: decoding and the checks of R96, starting an entry (R97), completing one (R98 to R101). -/

namespace Sys2Proof.Machine

/-- A manifest entry from its 64 bytes (R94). -/
def parseEntry (w : BitVec 512) : Entry :=
  { op := w.extractLsb' 0 8, flags := w.extractLsb' 8 8, sub := w.extractLsb' 16 16, tag := w.extractLsb' 32 32,
    a := #v[w.extractLsb' 64 64, w.extractLsb' 128 64, w.extractLsb' 192 64, w.extractLsb' 256 64,
            w.extractLsb' 320 64, w.extractLsb' 384 64, w.extractLsb' 448 64] }

/-- Operand slot k as a number. -/
def Entry.num (e : Entry) (k : Fin 7) : Nat := e.a[k].toNat

/-- Every slot from k up is 0 (R95: unused slots are reserved). -/
def Entry.zeroFrom (e : Entry) (k : Nat) : Bool := (e.a.toList.drop k).all (· = 0)

/-- Status codes of R99. -/
def stOk : BitVec 8 := 0x00
def stNotSmaller : BitVec 8 := 0x01
def stBadOpcode : BitVec 8 := 0x10
def stBadEntry : BitVec 8 := 0x11
def stPrivilege : BitVec 8 := 0x12
def stAlign : BitVec 8 := 0x13
def stBadTable : BitVec 8 := 0x14
def stStagedOnly : BitVec 8 := 0x15
def stMmuFault : BitVec 8 := 0x20
def stHostReadErr : BitVec 8 := 0x21
def stBlockReset : BitVec 8 := 0x23
def stNoSpace : BitVec 8 := 0x24
def stHeaderBad : BitVec 8 := 0x30
def stReplaceLate : BitVec 8 := 0x31
def stReplaceNone : BitVec 8 := 0x32
def stLockRejected : BitVec 8 := 0x40
def stLockState : BitVec 8 := 0x41
def stFwRefused : BitVec 8 := 0x50
def stAborted : BitVec 8 := 0x60

/-- Opcodes of R95. -/
def knownOps : List (BitVec 8) :=
  [0x00, 0x10, 0x20, 0x21, 0x30, 0x31, 0x40, 0x48, 0x50, 0x60, 0x61, 0x62, 0x70, 0x71, 0x72, 0x78]

/-- Opcodes marked P in R95. -/
def privOps : List (BitVec 8) := [0x30, 0x31, 0x71, 0x72, 0x78]

/-- A device address range of R120: DRAM, or one view of one table. -/
inductive DevRange
  /-- DRAM from a byte address. -/
  | dram (a : Nat)
  /-- Table id, view (0 live, 1 to 4 chamber), offset. -/
  | table (t : Nat) (view : Nat) (off : Nat)
  deriving DecidableEq, Repr

/-- The range of R120 that holds `len` bytes from a device address; none where the range leaves it. -/
def State.devRange (s : State) (a len : Nat) : Option DevRange :=
  if a + len ≤ s.capacity then some (.dram a)
  else if a < 2 ^ 40 then none
  else
    let v := (a - 2 ^ 40) / 2 ^ 32
    let t := (a - 2 ^ 40) % 2 ^ 32 / 2 ^ 24
    let off := a % 2 ^ 24
    match tableSize t with
    | none => none
    | some n => if v ≤ 4 ∧ off + len ≤ n ∧ off < n ∧ (t = 0x0020 → v = 0) then some (.table t v off) else none

/-- A3[7:0] names an event target of R123. -/
def eventTarget (x : Nat) : Bool := decide (x ≤ 4) || (decide (0x20 ≤ x) && decide (x ≤ 0x3F))

/-- Two ranges of equal length overlap. -/
def overlaps (a b len : Nat) : Bool := decide (a < b + len) && decide (b < a + len)

/-- Reserved bits are 0 and operands in range: step 3 of R96, for the operands of R95, R109, R113, R114 and R121. The chamber and staged-table tests of R121 and its alignment run when the copier accepts the request. -/
def State.operandsOk (s : State) (e : Entry) : Bool :=
  let sub := e.sub.toNat
  decide (e.flags.toNat < 8) &&
  match e.op.toNat with
  | 0x00 => decide (sub = 0) && e.zeroFrom 0
  | 0x10 => decide (sub < 2) && decide (64 ≤ e.num 2) && decide (e.num 2 < 2 ^ 32) && decide (e.num 1 + e.num 2 ≤ 2 ^ 40) && e.zeroFrom 3
  | 0x20 => decide (e.num 1 < 2 ^ 32) && decide (e.num 2 < 2 ^ 32) && decide (e.num 1 % 64 = 0) && decide (e.num 2 % 64 = 0) &&
      decide (e.num 3 ≤ 4) && e.zeroFrom 4
  | 0x21 => decide (e.num 1 < 2 ^ 32) && decide (e.num 2 < 2 ^ 32) && decide (e.num 3 < 8) && e.zeroFrom 4
  | 0x30 => decide (sub = 0) && decide (e.num 1 % 8 = 0) && decide (e.num 2 % 8 = 0) && decide (8 ≤ e.num 2) && decide (e.num 2 < 2 ^ 32) &&
      s.inPt (e.num 1) (e.num 2) && e.zeroFrom 3
  | 0x31 => decide (sub = 0) && decide (e.num 0 % 4096 = 0) && decide (e.num 0 + e.num 1 ≤ 2 ^ 40) && e.zeroFrom 2
  | 0x40 => decide (sub = 0) && decide (e.num 2 ≠ 0) && decide (e.num 2 < 2 ^ 32) && decide (e.num 3 < 256) && e.zeroFrom 4 &&
      (s.devRange (e.num 0) (e.num 2)).isSome && (s.devRange (e.num 1) (e.num 2)).isSome &&
      !overlaps (e.num 0) (e.num 1) (e.num 2) && eventTarget (e.num 3)
  | 0x48 => decide (e.num 2 % 2 ^ 32 ≠ 0) && decide (1 ≤ sub % 128) && decide (sub % 128 ≤ 64) && decide (bitsOf sub 7 1 = 0) &&
      decide (10 ≤ bitsOf sub 8 4) && decide (bitsOf sub 8 4 ≤ 15) && decide (sub < 2 ^ 14) && e.zeroFrom 3 &&
      (!sub.testBit 12 || decide (e.num 0 + e.num 2 % 2 ^ 32 ≤ 2 ^ 40)) &&
      (!sub.testBit 13 || decide (e.num 1 + e.num 2 / 2 ^ 32 ≤ 2 ^ 40))
  | 0x50 =>
      let act := bitsOf sub 4 4
      decide (bitsOf sub 2 2 = 0) && decide (sub < 256) && decide (1 ≤ act) && decide (act ≤ 4) &&
      if act = 3 then decide (e.num 0 % 16 ≤ 3) && decide (e.num 0 < 2 ^ 7) && decide (e.num 2 < 2) && e.zeroFrom 3
      else e.zeroFrom 0
  | 0x60 => decide (e.num 0 < 2 ^ 48) && decide (e.num 1 < 256) && e.zeroFrom 2
  | 0x61 => decide (sub = 0) && decide (e.num 0 < 2 ^ 48) && decide (e.num 1 < 256) && e.zeroFrom 2
  | 0x62 => decide (e.num 0 < 2 ^ 48) && decide (e.num 1 < 2 ^ 40) && e.zeroFrom 2
  | 0x70 => decide (sub ≤ 2) && decide (e.num 0 % 256 ≤ 2) && decide (e.num 0 < 2 ^ 16) && e.zeroFrom 1
  | 0x71 => decide (sub ≤ 31) && decide (e.num 0 ≤ 5) && e.zeroFrom 1
  | 0x72 => decide (sub = 0) && decide (e.num 0 ≤ 1) && e.zeroFrom 1
  | 0x78 => decide (sub = 0) && decide (e.num 0 % 64 = 0) && e.zeroFrom 2
  | _ => true

/-- Table id, offset and length: step 5 of R96. -/
def tableOk (e : Entry) : Bool :=
  match tableSize e.sub.toNat with
  | none => false
  | some n =>
    decide (e.num 1 + e.num 2 ≤ n) &&
    (decide (e.sub ≠ 0x0020) || decide (if e.op = 0x20 then e.num 3 = 0 else e.num 3 % 2 = 0))

/-- The first failing check of R96 on an entry of a ring; none where it passes. -/
def State.entryCheck (s : State) (priv : Bool) (e : Entry) : Option (BitVec 8) :=
  if !knownOps.contains e.op then some stBadOpcode
  else if privOps.contains e.op && !priv then some stPrivilege
  else if !s.operandsOk e then some stBadEntry
  else if e.op = 0x10 ∧ e.num 1 % 64 ≠ 0 then some stAlign
  else if (e.op = 0x20 ∨ e.op = 0x21) ∧ tableOk e = false then some stBadTable
  else none

/-- Class of a manifest ring. -/
def State.ringClass (s : State) (n : Fin 16) : Fin 4 := Fin.ofNat 4 (s.regField (mrCfg n) 6 2)

/-- Completion ring of a manifest ring. -/
def State.ringCr (s : State) (n : Fin 16) : Fin 8 := Fin.ofNat 8 (s.regField (mrCfg n) 9 3)

/-- A completion slot of ring m can be reserved: slots written and not released, and those reserved by entries on chip, leave one free (R26, R92, R98). -/
def State.slotFree (s : State) (m : Fin 8) : Bool :=
  let n := s.ringSize (crCfg m)
  let c := s.hif.cr[m]
  let reserved := (s.hif.flights.filter fun f => decide (f.phase ≠ .faulted ∧ s.ringCr f.ring = m)).length
  s.regBit (crCfg m) 0 && decide (ringUsed n c.head c.tail + reserved + 1 < n)

/-- The on-chip entry with a number. -/
def State.flight? (s : State) (id : Nat) : Option Flight := s.hif.flights.find? fun f => decide (f.id = id)

/-- The state with one on-chip entry changed. -/
def State.modFlight (s : State) (id : Nat) (g : Flight → Flight) : State :=
  { s with hif := { s.hif with flights := s.hif.flights.map fun f => if f.id = id then g f else f } }

/-- The state with one on-chip entry removed. -/
def State.dropFlight (s : State) (id : Nat) : State :=
  { s with hif := { s.hif with flights := s.hif.flights.filter fun f => decide (f.id ≠ id) } }

/-- Write the completion of an on-chip entry: always, but for a QUIET entry that is OK (R94, R98). -/
def State.postCompletion (s : State) (f : Flight) (status : BitVec 8) (result : Nat) : State :=
  if f.e.flags.getLsbD 2 && status = stOk then s
  else s.writeCompletion (s.ringCr f.ring) f.e.tag f.index status f.ring result (f.e.flags.getLsbD 1)

/-- Complete an on-chip entry with a status and a result; it leaves the chip (R97, R98). -/
def State.complete (s : State) (id : Nat) (status : BitVec 8) (result : Nat) : State :=
  match s.flight? id with
  | none => s
  | some f => (s.dropFlight id).postCompletion f status result

/-- Complete an on-chip entry as MMU_FAULT: it stays on chip and its ring goes HALTED (R100, R115). -/
def State.completeFault (s : State) (id done : Nat) : State :=
  match s.flight? id with
  | none => s
  | some f =>
    let s1 := s.modFlight id fun g => { g with phase := .faulted, done := done, faultNo := s.hif.nextFault }
    let s2 := { s1 with hif := { s1.hif with
      nextFault := s1.hif.nextFault + 1
      mr := modAt s1.hif.mr f.ring fun r => if r.state = RingState.running then { r with state := .halted } else r } }
    s2.postCompletion f stMmuFault done

/-- The blocks a manifest entry is aimed at (R95, R108). -/
def Entry.blocks (e : Entry) : List Blk :=
  match e.op.toNat with
  | 0x10 => [.qdc, .mmu, .dmc]
  | 0x20 => if e.num 3 = 0 then [tableBlk e.sub.toNat] else [.lck, .dmc]
  | 0x21 => if e.num 3 % 2 = 0 then [tableBlk e.sub.toNat] else [.lck, .dmc]
  | 0x30 => [.mmu, .dmc]
  | 0x31 => [.mmu]
  | 0x40 => [.cpy]
  | 0x48 => if e.sub.getLsbD 12 || e.sub.getLsbD 13 then [.qdc, .dmc, .mmu] else [.qdc]
  | 0x50 => [.lck]
  | 0x60 => [.pos, .fir]
  | 0x61 => [.fir]
  | 0x62 | 0x70 => [.lop]
  | 0x72 => [.twn]
  | 0x78 => [.pmc]
  | _ => []

/-- An entry that has started and keeps later entries of its ring from starting: one that waits for room in the copier queue or the band store (R122, R314). -/
def Flight.blocks (f : Flight) : Bool := decide (f.phase = .waiting) && (decide (f.e.op = 0x40) || decide (f.e.op = 0x62))

/-- The entry of a ring that may start next: its oldest queued one, unless an earlier one blocks it or it has FENCE set and an earlier one has not completed (R97), be it one that has completed as MMU_FAULT and waits on chip to complete again (log entry 151). -/
def State.startable (s : State) (ring : Fin 16) : Option Flight :=
  let mine := s.hif.flights.filter fun f => decide (f.ring = ring)
  match mine.find? fun f => decide (f.phase = .queued) with
  | none => none
  | some f =>
    let earlier := mine.filter fun g => decide (g.id < f.id)
    if earlier.any Flight.blocks then none
    else if f.e.flags.getLsbD 0 && !earlier.isEmpty then none
    else some f

/-- Start the next entry of a ring when it is the command `is` asks for; `run` carries it out. Anything else changes nothing (log entry 4). -/
def State.withEntry (s : State) (ring : Fin 16) (is : Entry → Bool) (run : Flight → State → State) : State :=
  match s.startable ring with
  | none => s
  | some f =>
    if is f.e then
      let n := s.hif.nextStart
      let s1 := s.modFlight f.id fun g => { g with phase := .running, start := n }
      run { f with start := n } { s1 with hif := { s1.hif with nextStart := n + 1 } }
    else s

/-- Start an entry as `withEntry`, completing it as BLOCK_RESET where a block it is aimed at is in reset (R108). -/
def State.withEntryAt (s : State) (ring : Fin 16) (is : Entry → Bool) (blks : Entry → List Blk)
    (run : Flight → State → State) : State :=
  s.withEntry ring is fun f t => if (blks f.e).all t.blkUp then run f t else t.complete f.id stBlockReset 0

/-- Put a running entry to wait on an event. -/
def State.waitFlight (s : State) (id : Nat) : State := s.modFlight id fun g => { g with phase := .waiting }

/-- RESULT of an entry that is cut or aborted: the bytes its transfer has done, or for a halted one those it had done at its fault (R95, R99, R100); 0 for an entry that moves no bytes. -/
def State.bytesDone (s : State) (f : Flight) : Nat :=
  match s.hif.xfers.find? fun x => decide (x.id = f.id) with
  | some x => if x.kind = .compress then 0 else x.done
  | none => f.done

/-- Complete every on-chip entry that satisfies a test with a status and the bytes it has done, oldest first (R60, R90, R95). The ABORTED completion of a halted entry takes no slot of its own (log entry 150). -/
def State.completeAll (s : State) (test : Flight → Bool) (status : BitVec 8) : State :=
  (s.hif.flights.filter test).foldl (fun t f => t.complete f.id status (s.bytesDone f)) s

/-- MMU_INVALIDATE entries complete once no piece that used a removed translation is outstanding (R114). -/
def State.invalidatesEnd (s : State) : State :=
  (s.hif.flights.filter fun f => decide (f.e.op = 0x31 ∧ f.phase = .waiting) && !s.hif.pieces.any fun p => p.holds.contains f.id).foldl
    (fun (t : State) f => t.complete f.id stOk 0) s

/-- The data mover drops the transfers of entries, with their pieces and compressions (R60, R118, R169); what waited for those pieces goes on. -/
def State.dropXfers (s : State) (test : Nat → Bool) : State :=
  { s with
    hif := { s.hif with
      xfers := s.hif.xfers.filter fun x => !test x.id
      pieces := s.hif.pieces.filter fun p => !test p.id }
    qdc := { s.qdc with comp := s.qdc.comp.map fun (c : Option CompJob) =>
      match c with
      | some j => if j.req.flight.any test then none else some j
      | none => none } }.invalidatesEnd

end Sys2Proof.Machine
end

