-- ==== Sys2Proof/Machine/HostAccess.lean ====
section
/-! DEFINITION. Whether a host access reaches a register (R7, R59, R65, R66) and what happens to one that does not. -/

namespace Sys2Proof.Machine

/-- The registers of POS that lie in its front end, in AON (R241). -/
def posFront (o : Nat) : Bool := decide (0x140400 ≤ o ∧ o < 0x140600 ∧ o % 0x40 < 0x18)

/-- The block whose window holds a BAR0 offset (R20); none outside every window, `some none` for RST and the front end of POS, which lie in AON (R241). -/
def windowBlk (o : Nat) : Option (Option Blk) :=
  if o < 0x10000 then some (some .glb)
  else if o < 0x20000 then some none
  else if o < 0x30000 then some (some .clk)
  else if o < 0x40000 then some (some .thm)
  else if o < 0x50000 then some (some .hif)
  else if o < 0x60000 then some (some .mmu)
  else if o < 0x70000 then some (some .cpy)
  else if o < 0x80000 then none
  else if o < 0xA0000 then some (some .dmc)
  else if o < 0xC0000 then some (some .qdc)
  else if o < 0x100000 then some (some .scr)
  else if o < 0x140000 then some (some .csm)
  else if o < 0x160000 then some (if posFront o then none else some .pos)
  else if o < 0x180000 then some (some .fir)
  else if o < 0x200000 then some (some .plk)
  else if o < 0x240000 then some (some .cam)
  else if o < 0x260000 then some (some .lop)
  else if o < 0x280000 then some (some .lck)
  else if o < 0x2A0000 then some (some .tim)
  else if o < 0x2C0000 then some (some .urg)
  else if o < 0x300000 then some (some .twn)
  else if o < 0x310000 then some (some .hif)
  else none

/-- The Preaz Link whose registers hold a BAR0 offset (R20). -/
def linkWindow (o : Nat) : Option (Fin 32) :=
  if 0x180000 ≤ o ∧ o < 0x1A0000 then some (Fin.ofNat 32 ((o - 0x180000) / 0x1000)) else none

/-- A host access to a BAR0 offset is carried out: the link and the function are up, bring-up has ended (or failed, for GLB and RST alone), and the block that holds the offset is not in reset (R59, R65, R66, R70). -/
def State.barOpen (s : State) (o : Nat) : Bool :=
  s.rst.pcieUp && !s.rst.asleep && !s.rst.d3hot &&
  (if s.rst.stage = 0xF then decide (o < 0x20000)
   else s.bootDone && s.blkUp .hif &&
    match windowBlk o with
    | none => true
    | some none => true
    | some (some b) => s.blkUp b &&
      match linkWindow o with
      | none => true
      | some n => decide (s.rst.link[n] = .up))

/-- A write that reaches no register is discarded and recorded as Unsupported Request in Advanced Error Reporting (R7, R59, R79). -/
def State.discardWrite (s : State) : State := { s with hif := { s.hif with aerUr := true } }

/-- Clocks of the block that holds a register (R73, R78): TIME_CLK for TIM, RING_CLK for URG, FIRE_CLK for POS with its front end and for FIR, CAM_CLK for CAM, MEM_CLK0 for DMC, PCI_CLK for HIF, CORE_CLK for the others outside AON; DEDUCED from the block names of R73 (log entry 35). -/
def windowClk (o : Nat) : Option (Fin 9) :=
  match windowBlk o with
  | some none => if posFront o then some 0 else none
  | some (some b) => match b with
    | .glb | .clk | .thm => none
    | .tim => some 1
    | .urg => some 2
    | .pos | .fir => some 0
    | .cam => some 5
    | .dmc => some 6
    | .hif => some 8
    | .twn | .pmc | .mmu | .cpy | .qdc | .scr | .csm | .plk | .cores | .lck | .lop => some 4
  | none => none

/-- The clock that takes an access to a register has stopped (R79, R80): LINK_CLK for the registers of a link. -/
def State.clockStopped (s : State) (o : Nat) : Bool :=
  match linkWindow o with
  | some n => !s.linkClkRuns n
  | none => match windowClk o with
    | some k => !s.clkRuns k
    | none => false

/-- Two registers share a held-value crossing: they lie in one block, and within PLK in one link (R78). -/
def sameCrossing (a b : Nat) : Bool := decide (windowBlk a = windowBlk b ∧ linkWindow a = linkWindow b)

/-- An access that its block has not taken. -/
def HostAccess.waits (a : HostAccess) : Bool := decide (a.result = none)

/-- The reads that can complete, oldest first, and the accesses that stay (R78): a read completes once every earlier read has. -/
def readsDone : List HostAccess → List Out × List HostAccess
  | [] => ([], [])
  | a :: t =>
    match a.write, a.result with
    | some _, _ => ((readsDone t).1, a :: (readsDone t).2)
    | none, none => ([], a :: t)
    | none, some (some bs) => (.barData a.off bs :: (readsDone t).1, (readsDone t).2)
    | none, some none => (.unsupported a.off :: (readsDone t).1, (readsDone t).2)

/-- Reads complete in the order HIF received them (R78). -/
def State.completeReads (s : State) : State :=
  (readsDone s.hif.accesses).1.foldl State.emit { s with hif := { s.hif with accesses := (readsDone s.hif.accesses).2 } }

/-- HIF takes one more access in. -/
def State.addAccess (s : State) (a : HostAccess) : State := { s with hif := { s.hif with accesses := s.hif.accesses ++ [a] } }

/-- A read that gets no data completes as Unsupported Request in its turn (R7, R59, R78). -/
def State.readUnsupported (s : State) (o len : Nat) : State := (s.addAccess ⟨o, len, none, some none⟩).completeReads

/-- The accesses that wait for registers a test names are cut off (R59, R84): writes go, reads complete as Unsupported Request. -/
def State.cutAccesses (s : State) (test : Nat → Bool) : State :=
  let kept := s.hif.accesses.filter fun a => !(a.waits && a.write.isSome && test a.off)
  { s with hif := { s.hif with
      accesses := kept.map fun (a : HostAccess) => if a.waits && test a.off then { a with result := some none } else a } }.completeReads

/-- Carry out a host write of a value to the register at an offset (R59, R78, R80): discard it where the offset is not open; while the block's clock is stopped it waits, the first of a crossing presented in it. -/
def State.onWrite (s : State) (o : Nat) (v : BitVec 32) (run : State → State) : State :=
  if s.barOpen o then
    if s.clockStopped o then s.addAccess ⟨o, 4, some v, none⟩ else run s
  else s.discardWrite

end Sys2Proof.Machine
end

