-- ==== Sys2Proof/Machine/Deflate.lean ====
section
/-! DEFINITION. CRC-32C (R150) and the DEFLATE decoder of the codec (R156 to R158; the format is that of RFC 1951, log entry 20). -/

namespace Sys2Proof.Machine

/-- One bit step of CRC-32C in reflected form (R150). -/
def crcStep (c : BitVec 32) : BitVec 32 := if c.getLsbD 0 then (c >>> 1) ^^^ 0x82F63B78#32 else c >>> 1

/-- One byte, least significant bit first (R150). -/
def crcByte (c : BitVec 32) (b : Byte) : BitVec 32 :=
  crcStep (crcStep (crcStep (crcStep (crcStep (crcStep (crcStep (crcStep (c ^^^ b.setWidth 32))))))))

/-- CRC-32C of bytes in ascending order (R150). -/
def crc32c (bs : List Byte) : BitVec 32 := ~~~(bs.foldl crcByte 0xFFFFFFFF#32)

/-- Bits of a byte string, least significant bit of each byte first. -/
def bitsOfBytes (bs : List Byte) : List Bool :=
  bs.flatMap fun b => [b.getLsbD 0, b.getLsbD 1, b.getLsbD 2, b.getLsbD 3, b.getLsbD 4, b.getLsbD 5, b.getLsbD 6, b.getLsbD 7]

/-- How decoding stands. -/
inductive InflateEnd
  /-- The final block has ended, this many bits into the stream. -/
  | finished (bitsLeft : Nat)
  /-- The input ran out first. -/
  | starved
  /-- A check failed: 1 invalid code, 2 distance, 3 overrun (R158). -/
  | bad (cause : Nat)
  deriving DecidableEq, Repr

/-- What a decode has produced, newest byte first, its length, and how it stands. -/
structure Inflated where
  /-- Output, newest byte first. -/
  rev : List Byte
  /-- Bytes of output. -/
  size : Nat
  /-- How decoding stands. -/
  stop : InflateEnd
  deriving DecidableEq, Repr

/-- A number of `n` bits, least significant first. -/
def takeNum : Nat → List Bool → Option (Nat × List Bool)
  | 0, bs => some (0, bs)
  | _ + 1, [] => none
  | n + 1, b :: bs =>
    match takeNum n bs with
    | none => none
    | some (v, r) => some (b.toNat + 2 * v, r)

/-- Lengths in use among `lens`, per length. -/
def lenCount (lens : List Nat) (l : Nat) : Nat := (lens.filter (· = l)).length

/-- Code space left after the lengths up to 15: none when over-subscribed. -/
def codeSpace (lens : List Nat) : Option Nat :=
  (List.range 15).foldl (fun acc i =>
    match acc with
    | none => none
    | some left => if 2 * left < lenCount lens (i + 1) then none else some (2 * left - lenCount lens (i + 1))) (some 1)

/-- A code the decoder accepts (R156): neither over-subscribed nor incomplete; a distance code may have a single used symbol or none. -/
def codeOk (dist : Bool) (lens : List Nat) : Bool :=
  match codeSpace lens with
  | none => false
  | some left => decide (left = 0) || (dist && decide ((lens.filter (· ≠ 0)).length ≤ 1))

/-- Symbols of a code in canonical order: by length, then by value. -/
def canonical (lens : List Nat) : List Nat :=
  (List.range 15).flatMap fun l => (List.range lens.length).filter fun s => lens.getD s 0 = l + 1

/-- A decoded symbol, or why there is none. -/
inductive Symbol
  | sym (s : Nat) (rest : List Bool)
  | starved
  | invalid
  deriving DecidableEq, Repr

/-- Read one symbol of a canonical code: `l` is the length tried next, `code` the bits read, `first` and `index` the first code and first symbol of that length. -/
def readSym (lens order : List Nat) : Nat → Nat → Nat → Nat → Nat → List Bool → Symbol
  | 0, _, _, _, _, _ => .invalid
  | _ + 1, _, _, _, _, [] => .starved
  | fuel + 1, l, code, first, index, b :: bs =>
    let c := 2 * code + b.toNat
    let n := lenCount lens l
    if c < 2 * first + n then .sym (order.getD (index + (c - 2 * first)) 0) bs
    else readSym lens order fuel (l + 1) c (2 * first + n) (index + n) bs

/-- A prefix code with its canonical symbol order. -/
structure Code where
  /-- Code length of each symbol. -/
  lens : List Nat
  /-- Symbols in canonical order. -/
  order : List Nat

/-- The code of a list of lengths. -/
def Code.of (lens : List Nat) : Code := ⟨lens, canonical lens⟩

/-- Read one symbol. -/
def Code.read (c : Code) (bs : List Bool) : Symbol := readSym c.lens c.order 15 1 0 0 0 bs

/-- Base and extra bits of length symbols 257 to 285. -/
def lengthTable : List (Nat × Nat) :=
  [(3, 0), (4, 0), (5, 0), (6, 0), (7, 0), (8, 0), (9, 0), (10, 0), (11, 1), (13, 1), (15, 1), (17, 1), (19, 2), (23, 2), (27, 2),
   (31, 2), (35, 3), (43, 3), (51, 3), (59, 3), (67, 4), (83, 4), (99, 4), (115, 4), (131, 5), (163, 5), (195, 5), (227, 5), (258, 0)]

/-- Base and extra bits of distance symbols 0 to 29: two symbols to each extra bit from symbol 4 on. -/
def distanceOf (s : Nat) : Nat × Nat :=
  if s < 4 then (s + 1, 0) else let e := s / 2 - 1; ((2 + s % 2) * 2 ^ e + 1, e)

/-- Order in which code length code lengths are sent. -/
def clOrder : List Nat := [16, 17, 18, 0, 8, 7, 9, 6, 10, 5, 11, 4, 12, 3, 13, 2, 14, 1, 15]

/-- The fixed literal and distance codes. -/
def fixedLit : Code :=
  Code.of (List.replicate 144 8 ++ List.replicate 112 9 ++ List.replicate 24 7 ++ List.replicate 8 8)
def fixedDist : Code := Code.of (List.replicate 32 5)

/-- Copy `n` bytes from `d` back, stopping at `room` bytes; the output is newest first. -/
def copyBack : Nat → Nat → List Byte → List Byte
  | 0, _, out => out
  | n + 1, d, out => copyBack n d (out.getD (d - 1) 0 :: out)

/-- Where a block ended: more blocks may follow, or decoding stopped. -/
inductive BlockEnd
  | more (rest : List Bool)
  | stop (e : InflateEnd)
  deriving DecidableEq, Repr

/-- Decode the symbols of one block: `raw` is RAW_LEN (R158, cause 3). -/
def inflateSyms (lit dist : Code) (raw : Nat) : Nat → List Bool → List Byte → Nat → List Byte × Nat × BlockEnd
  | 0, _, out, n => (out, n, .stop .starved)
  | fuel + 1, bs, out, n =>
    match lit.read bs with
    | .starved => (out, n, .stop .starved)
    | .invalid => (out, n, .stop (.bad 1))
    | .sym s r =>
      if s < 256 then
        if n < raw then inflateSyms lit dist raw fuel r (BitVec.ofNat 8 s :: out) (n + 1) else (out, n, .stop (.bad 3))
      else if s = 256 then (out, n, .more r)
      else if 285 < s then (out, n, .stop (.bad 1))
      else
        let (lb, le) := lengthTable.getD (s - 257) (0, 0)
        match takeNum le r with
        | none => (out, n, .stop .starved)
        | some (lx, r1) =>
          match dist.read r1 with
          | .starved => (out, n, .stop .starved)
          | .invalid => (out, n, .stop (.bad 1))
          | .sym ds r2 =>
            if 29 < ds then (out, n, .stop (.bad 1))
            else
              let (db, de) := distanceOf ds
              match takeNum de r2 with
              | none => (out, n, .stop .starved)
              | some (dx, r3) =>
                let len := lb + lx
                let d := db + dx
                if n < d then (out, n, .stop (.bad 2))
                else if raw < n + len then (copyBack (raw - n) d out, raw, .stop (.bad 3))
                else inflateSyms lit dist raw fuel r3 (copyBack len d out) (n + len)

/-- Why the code lengths of a dynamic block could not be read, or the lengths. -/
inductive Lengths
  | got (lens : List Nat) (rest : List Bool)
  | starved
  | invalid
  deriving DecidableEq, Repr

/-- Read `want` code lengths through the code length code (R156). -/
def readLengths (cl : Code) (want : Nat) : Nat → List Bool → List Nat → Lengths
  | 0, _, _ => .invalid
  | fuel + 1, bs, acc =>
    if acc.length = want then .got acc bs
    else
      match cl.read bs with
      | .starved => .starved
      | .invalid => .invalid
      | .sym s r =>
        if s < 16 then readLengths cl want fuel r (acc ++ [s])
        else
          let (base, extra) := if s = 16 then (3, 2) else if s = 17 then (3, 3) else (11, 7)
          match takeNum extra r with
          | none => .starved
          | some (x, r1) =>
            if s = 16 ∧ acc = [] then .invalid
            else if want < acc.length + base + x then .invalid
            else readLengths cl want fuel r1 (acc ++ List.replicate (base + x) (if s = 16 then acc.getLastD 0 else 0))

/-- Read `n` code length code lengths of 3 bits. -/
def readClLens : Nat → List Bool → Option (List Nat × List Bool)
  | 0, bs => some ([], bs)
  | n + 1, bs =>
    match takeNum 3 bs with
    | none => none
    | some (v, r) => (readClLens n r).map fun p => (v :: p.1, p.2)

/-- The codes of a dynamic block (R156). -/
def readDynamic (bs : List Bool) : Except InflateEnd (Code × Code × List Bool) :=
  match takeNum 14 bs with
  | none => .error .starved
  | some (v, r) =>
    let hlit := v % 32 + 257
    let hdist := v / 32 % 32 + 1
    let hclen := v / 1024 + 4
    if 286 < hlit ∨ 30 < hdist then .error (.bad 1)
    else match readClLens hclen r with
      | none => .error .starved
      | some (cls, r1) =>
        let lens := (List.range 19).map fun s => cls.getD (clOrder.idxOf s) 0
        if !codeOk false lens then .error (.bad 1)
        else match readLengths (Code.of lens) (hlit + hdist) (hlit + hdist + 1) r1 [] with
          | .starved => .error .starved
          | .invalid => .error (.bad 1)
          | .got all r2 =>
            let lit := all.take hlit
            let dist := all.drop hlit
            if !codeOk false lit || !codeOk true dist then .error (.bad 1) else .ok (Code.of lit, Code.of dist, r2)

/-- Copy `n` stored bytes (R156, R158). -/
def inflateStored (raw : Nat) : Nat → List Bool → List Byte → Nat → List Byte × Nat × BlockEnd
  | 0, bs, out, n => (out, n, .more bs)
  | k + 1, bs, out, n =>
    match takeNum 8 bs with
    | none => (out, n, .stop .starved)
    | some (v, r) => if n < raw then inflateStored raw k r (BitVec.ofNat 8 v :: out) (n + 1) else (out, n, .stop (.bad 3))

/-- Decode blocks until the final one ends (R156 to R158): `pos` keeps the number of bits of the whole stream, for the byte alignment of stored blocks. -/
def inflateBlocks (raw total : Nat) : Nat → List Bool → List Byte → Nat → Inflated
  | 0, _, out, n => ⟨out, n, .starved⟩
  | fuel + 1, bs, out, n =>
    match takeNum 3 bs with
    | none => ⟨out, n, .starved⟩
    | some (v, r) =>
      let step := match v / 2 with
        | 0 =>
          let r1 := r.drop ((8 - (total - r.length) % 8) % 8)
          match takeNum 32 r1 with
          | none => (out, n, BlockEnd.stop .starved)
          | some (x, r2) =>
            if x % 65536 + x / 65536 ≠ 65535 then (out, n, .stop (.bad 1)) else inflateStored raw (x % 65536) r2 out n
        | 1 => inflateSyms fixedLit fixedDist raw (r.length + 1) r out n
        | 2 =>
          match readDynamic r with
          | .error e => (out, n, .stop e)
          | .ok (lit, dist, r1) => inflateSyms lit dist raw (r1.length + 1) r1 out n
        | _ => (out, n, .stop (.bad 1))
      match step with
      | (o, m, .stop e) => ⟨o, m, e⟩
      | (o, m, .more r1) => if v % 2 = 1 then ⟨o, m, .finished r1.length⟩ else inflateBlocks raw total fuel r1 o m

/-- Decode a stream with an empty window, up to RAW_LEN bytes (R156 to R158). -/
def inflate (raw : Nat) (stream : List Byte) : Inflated :=
  let bs := bitsOfBytes stream
  inflateBlocks raw bs.length (bs.length + 1) bs [] 0

/-- Outcome of a decode: none where it passes, else the cause of R158. `whole` says that every byte of COMP_LEN was read. -/
def decodeCause (raw : Nat) (crc : BitVec 32) (stream : List Byte) (whole : Bool) : Option Nat :=
  let r := inflate raw stream
  match r.stop with
  | .bad c => some c
  | .starved => some 5
  | .finished left =>
    if r.size < raw then some 5
    else if 8 ≤ left ∨ whole = false then some 5
    else if crc32c r.rev.reverse ≠ crc then some 4
    else none

end Sys2Proof.Machine
end

