-- ==== Sys2Proof/Machine/Geometry.lean ====
section
/-! DEFINITION. What CSM derives from its tables (chapter 10), and the view of a table or register that a given web line sees while a lock chamber is ARMED (R187, R213, R339, R340). -/

namespace Sys2Proof.Machine

/-- A table byte reader: key of R120 to byte. -/
abbrev TableView := Nat → Byte

/-- A little-endian number of `k` bytes of a table under a view. -/
def viewNum (v : TableView) (t off k : Nat) : Nat := leNat (readRange v (tableKey t off) k)

/-- One byte of a staged unit of a chamber; none where the unit is not staged (R333). -/
def Chamber.stagedByte (c : Chamber) (key : Nat) : Option Byte :=
  (c.units.find? fun u => decide (u.1 = key / 64)).map fun u => u.2.extractLsb' (8 * (key % 64)) 8

/-- A chamber whose contents govern lines at or above its web line: ARMED, kind 1 or 3, past the wait of a ring lock (R338). -/
def Chamber.byLine (c : Chamber) : Option Nat :=
  match c.st, c.ask with
  | .armed, some a => if (a.kind = 1 ∨ a.kind = 3) ∧ !c.held then some a.at_ else none
  | _, _ => none

/-- Staged contents of a chamber that a line uses: channel-table units only once the copy of R282 is ordered (R213). -/
def Chamber.lineByte (c : Chamber) (line : Int) (key : Nat) : Option Byte :=
  match c.byLine with
  | none => none
  | some l => if (l : Int) ≤ line ∧ (key / 0x1000000 ≠ 2 ∨ c.copying) then c.stagedByte key else none

/-- A table as web line `line` sees it (R187, R213): staged units of an ARMED web-line chamber at or above its line, live ones otherwise. -/
def State.viewAt (s : State) (line : Int) : TableView := fun key =>
  match s.lck.ch.toList.findSome? fun c => c.lineByte line key with
  | some b => b
  | none => s.tableByte key

/-- The live tables (R95). -/
def State.liveView (s : State) : TableView := s.tableByte

/-- An ST register as web line `line` sees it (R187, R213). -/
def State.regAt (s : State) (line : Int) (o : Nat) : BitVec 32 :=
  match s.lck.ch.toList.findSome? fun c =>
      match c.byLine with
      | none => none
      | some l => if (l : Int) ≤ line then (c.entries.find? fun e => decide (e.1 = o)).map (·.2) else none with
  | some v => v
  | none => s.reg o

/-- A head segment (R195), its fields clamped to their ranges (R211). -/
structure Seg where
  /-- PLANE. -/
  plane : Fin 8
  /-- CH_FIRST. -/
  chFirst : Nat
  /-- CH_COUNT. -/
  chCount : Nat
  /-- COL_FIRST. -/
  colFirst : Nat
  /-- COL_COUNT. -/
  colCount : Nat
  /-- OFFSET. -/
  offset : Int
  deriving DecidableEq, Repr

/-- Segment descriptor j of link n; none where it is not VALID (R195, R211). -/
def segAt (v : TableView) (n : Fin 32) (j : Fin 16) : Option Seg :=
  let o := (16 * n.val + j.val) * 16
  let w := viewNum v 0x0004 o 2
  if !w.testBit 0 then none
  else
    let cf := viewNum v 0x0004 (o + 2) 2 % 8192
    let col := min 32767 (viewNum v 0x0004 (o + 6) 2)
    some { plane := Fin.ofNat 8 (bitsOf w 1 3)
           chFirst := cf
           chCount := min (8192 - cf) (max 1 (viewNum v 0x0004 (o + 4) 2))
           colFirst := col
           colCount := min (32768 - col) (max 1 (viewNum v 0x0004 (o + 8) 2))
           offset := signed 20 (viewNum v 0x0004 (o + 12) 4) }

/-- The plane of a link: that of its lowest valid segment (R196, R211). -/
def linkPlane (v : TableView) (n : Fin 32) : Option (Fin 8) :=
  (List.finRange 16).findSome? fun j => (segAt v n j).map Seg.plane

/-- The segments of a link that count: those of the link's plane, ascending (R196, R211). -/
def linkSegs (v : TableView) (n : Fin 32) : List (Fin 16 × Seg) :=
  match linkPlane v n with
  | none => []
  | some p => (List.finRange 16).filterMap fun j =>
      match segAt v n j with
      | some g => if g.plane = p then some (j, g) else none
      | none => none

/-- The segment that owns a channel of a link: the lowest-numbered one that holds it (R211). -/
def segOf (v : TableView) (n : Fin 32) (i : Nat) : Option (Fin 16 × Seg) :=
  (linkSegs v n).find? fun g => decide (g.2.chFirst ≤ i ∧ i < g.2.chFirst + g.2.chCount)

/-- The links that carry a plane, ascending. -/
def planeLinks (v : TableView) (p : Fin 8) : List (Fin 32) :=
  (List.finRange 32).filter fun n => decide (linkPlane v n = some p)

/-- Offsets O_s of a plane's valid segments. -/
def planeOffsets (v : TableView) (p : Fin 8) : List Int :=
  (planeLinks v p).flatMap fun n => (linkSegs v n).map fun g => g.2.offset

/-- SCR_CFG.BITS (R171). -/
def State.bits (s : State) : Nat := s.regField 0xC0000 0 3

/-- Q, the gutter depth of a link (R208). -/
def State.gutterDepth (s : State) : Nat := 2048 / s.bits

/-- Tier-2 delay D_g of row group g of link n as the gutter applies it (R209, R211). -/
def State.rowDelay (s : State) (v : TableView) (n : Fin 32) (g : Nat) : Nat :=
  min (viewNum v 0x0004 (8192 + (16 * n.val + g) * 4) 2 % 2048) (s.gutterDepth - 1)

/-- Tier-3 phase of row group g of link n (R209). -/
def rowPhase (v : TableView) (n : Fin 32) (g : Nat) : Nat := viewNum v 0x0004 (8192 + (16 * n.val + g) * 4 + 2) 1

/-- Largest element of a list of integers, none for the empty list. -/
def maxInt : List Int → Option Int
  | [] => none
  | x :: t => match maxInt t with | none => some x | some y => some (if x < y then y else x)

/-- Smallest element of a list of integers. -/
def minInt : List Int → Option Int
  | [] => none
  | x :: t => match minInt t with | none => some x | some y => some (if x < y then x else y)

/-- K, CSM_CFG.LEAD (R207). -/
def State.lead (s : State) : Nat := s.regField 0x100000 0 3

/-- H_p under a view (R198). -/
def spanOf (v : TableView) (p : Fin 8) : Nat := (max 0 ((maxInt (planeOffsets v p)).getD 0)).toNat

/-- H_p under the live segments (R198). -/
def State.span (s : State) (p : Fin 8) : Nat := spanOf s.liveView p

/-- O_min (R252): the smallest offset of the plane's valid segments, 0 without one. -/
def State.offMin (s : State) (p : Fin 8) : Int := (minInt (planeOffsets s.liveView p)).getD 0

/-- A_p, the fetch advance (R198). -/
def State.fetchAdvance (s : State) (p : Fin 8) : Nat :=
  match minInt (planeOffsets s.liveView p) with
  | none => 0
  | some o => (max 0 ((s.lead : Int) - 1 - o)).toNat

/-- M_p: the largest O_s + D_g over the plane's segments and their links' row groups (R311). -/
def State.depth (s : State) (p : Fin 8) : Int :=
  (maxInt ((planeLinks s.liveView p).flatMap fun n => (linkSegs s.liveView n).flatMap fun g =>
    (List.range 16).map fun r => g.2.offset + s.rowDelay s.liveView n r)).getD 0

/-- LOG2SLOTS of a plane's raster ring (R189). -/
def State.ringLog (s : State) (p : Fin 8) : Nat := s.regField (0xC0110 + 0x40 * p) 0 5

/-- S_p, slots of the ring; 0 for no ring (R189, R192). -/
def State.ringSlots (s : State) (p : Fin 8) : Nat := if s.ringLog p = 0 then 0 else 2 ^ s.ringLog p

/-- Base of a plane's raster ring (R189). -/
def State.ringBase (s : State) (p : Fin 8) : Nat :=
  s.regField (0xC0108 + 0x40 * p) 14 18 * 16384 + s.regField (0xC010C + 0x40 * p) 0 4 * 2 ^ 32

/-- N_p: lines the ring holds ahead of the fire line, 0 without a ring (R190). -/
def State.ahead (s : State) (p : Fin 8) : Nat := s.ringSlots p - s.span p

/-- DRAM address of the slot of web line n (R189). -/
def State.slotAddr (s : State) (p : Fin 8) (n : Nat) : Nat := s.ringBase p + 16384 * (n % s.ringSlots p)

/-- F_p (R245). -/
def State.fireLine (s : State) (p : Fin 8) : Nat := s.fir.plane[p].next

/-- Web lines of a plane below this one are released (R13, R190): F_p − H_p, and while the plane holds the line above its seam, whatever the tables say meanwhile (R63, R216). -/
def State.releaseBound (s : State) (p : Fin 8) : Int :=
  let pl := s.fir.plane[p]
  if pl.phase = .hold ∨ pl.phase = .armed then pl.seam + 1 else (pl.next : Int) - s.span p

/-- The lowest web line of a plane that is not released (R13, R190). -/
def State.releaseLine (s : State) (p : Fin 8) : Nat := (s.releaseBound p).toNat

/-- Lines from here on have no free slot in the plane's ring (R190): line n − S_p is not released; without a ring no line has one (R192). -/
def State.slotLimit (s : State) (p : Fin 8) : Nat := if s.ringLog p = 0 then 0 else (s.releaseBound p + s.ringSlots p).toNat

/-- Web line m of a plane is released (R13, R190). -/
def State.lineReleased (s : State) (p : Fin 8) (m : Nat) : Bool := decide (m < s.releaseLine p)

/-- Count of CSM_EMPTY (R212): columns with a VALID slot and no slot VALID and ACTIVE with, if local, EN set. -/
def emptyColumns (v : TableView) : Nat :=
  ((List.range 262144).filter fun c =>
    let slots := (List.range 4).map fun k => viewNum v 0x0001 (16 * c + 3 * k) 3
    slots.any (·.testBit 18) && !slots.any fun w =>
      w.testBit 18 && w.testBit 19 && (w.testBit 20 || (viewNum v 0x0002 (w % 2 ^ 18) 1).testBit 0)).length

end Sys2Proof.Machine
end

