-- ==== Sys2Proof/Machine/Quires.lean ====
section
/-! DEFINITION. Quires, plates and overlays as sources of plane lines (chapters 08 and 09): headers, coverage, which lines may be fetched. -/

namespace Sys2Proof.Machine

/-- Job-store bytes as a codec read would return them now, without its side effects; none where it would fail. -/
def State.peekJob (s : State) (job len : Nat) : Option (List Byte) :=
  match s.jobRead 3 (len / 4096 + 2) job len with
  | (bs, true, _) => some bs
  | (_, false, _) => none

/-- A quire header as its bytes stand (R148). -/
structure QHeader where
  /-- MAGIC. -/
  magic : Nat
  /-- VERSION. -/
  version : Nat
  /-- PLANE byte. -/
  plane : Nat
  /-- KIND. -/
  kind : Nat
  /-- ROLE byte. -/
  role : Nat
  /-- FIRST_LINE. -/
  first : Nat
  /-- LINE_COUNT. -/
  count : Nat
  /-- COL_FIRST. -/
  colFirst : Nat
  /-- COL_COUNT. -/
  colCount : Nat
  /-- RAW_LEN. -/
  rawLen : Nat
  /-- COMP_LEN. -/
  compLen : Nat
  /-- PAYLOAD_CRC. -/
  crc : BitVec 32
  /-- OVERLAY. -/
  overlay : Nat
  /-- Bytes 33 to 59 are 0. -/
  clean : Bool
  /-- HDR_CRC is right. -/
  crcOk : Bool
  deriving DecidableEq, Repr

/-- A number of `k` bytes in a byte string. -/
def numAt (bs : List Byte) (o k : Nat) : Nat := leNat ((bs.drop o).take k)

/-- The header in 64 bytes (R148). -/
def parseHeader (bs : List Byte) : QHeader :=
  { magic := numAt bs 0 4, version := numAt bs 4 1, plane := numAt bs 5 1, kind := numAt bs 6 1, role := numAt bs 7 1
    first := numAt bs 8 6, count := numAt bs 14 2, colFirst := numAt bs 16 2, colCount := numAt bs 18 2
    rawLen := numAt bs 20 4, compLen := numAt bs 24 4, crc := BitVec.ofNat 32 (numAt bs 28 4), overlay := numAt bs 32 1
    clean := ((bs.drop 33).take 27).all (· = 0)
    crcOk := decide (crc32c (bs.take 60) = BitVec.ofNat 32 (numAt bs 60 4)) }

/-- Bits per column of a quire of a KIND (R149). -/
def kindBits (kind : Nat) : Nat := if kind = 0 then 8 else kind

/-- stride of a line (R149). -/
def strideOf (kind cols : Nat) : Nat := (cols * kindBits kind + 7) / 8

/-- Checks 1 to 3 of R151 on a header; `payload` is A2 − 64 where the load gives it. -/
def QHeader.good (h : QHeader) (payload : Option Nat) : Bool :=
  decide (h.magic = 0x52514C41) && decide (h.version = 1) && h.crcOk && h.clean &&
  decide (h.plane < 8) && decide (h.kind ≤ 4) && decide (h.role % 4 ≤ 2) && decide (h.role < 8) &&
  (decide (h.role % 4 ≠ 1) || decide (h.role < 4)) &&
  decide (1 ≤ h.count) && decide (h.count ≤ 4096) && decide (1 ≤ h.colCount) && decide (h.colFirst + h.colCount ≤ 32768) &&
  (if h.role % 4 = 2 then decide (h.overlay < 16) else decide (h.overlay = 0)) &&
  decide (h.rawLen = h.count * strideOf h.kind h.colCount) && decide (2 ≤ h.compLen) &&
  (match payload with | none => true | some n => decide (h.compLen = n))

/-- The quire record of a header. -/
def QHeader.quire (h : QHeader) (id job : Nat) : Quire :=
  { id := id, plane := Fin.ofNat 8 h.plane, kind := h.kind
    overlay := if h.role % 4 = 2 then some (Fin.ofNat 16 h.overlay) else none
    first := h.first, count := h.count, colFirst := h.colFirst, colCount := h.colCount
    rawLen := h.rawLen, compLen := h.compLen, crc := h.crc, job := job, state := .indexed, read := [] }

/-- A quire covers web line n. -/
def Quire.covers (q : Quire) (n : Nat) : Bool := decide (q.first ≤ n) && decide (n < q.first + q.count)

/-- VERIFIED or BLANKED: its lines may be fetched (R162). -/
def Quire.fetchable (q : Quire) : Bool := decide (q.state = .verified ∨ q.state = .blanked)

/-- A plate descriptor (R173). -/
structure Plate where
  /-- Descriptor number. -/
  d : Fin 32
  /-- PLANE. -/
  plane : Fin 8
  /-- PERIOD. -/
  period : Nat
  /-- START_LINE. -/
  start : Nat
  /-- END_LINE; none for no end. -/
  stop : Option Nat
  /-- PHASE. -/
  phase : Nat
  /-- LIST_FIRST. -/
  listFirst : Nat
  /-- LIST_COUNT. -/
  listCount : Nat
  deriving DecidableEq, Repr

/-- Plate descriptor d under a view; none where it is not VALID (R173), its PERIOD at least 1 and its list within the table (R211). -/
def plateAt (v : TableView) (d : Fin 32) : Option Plate :=
  let o := 64 * d.val
  let w := viewNum v 0x0014 o 1
  if !w.testBit 0 then none
  else
    let e := viewNum v 0x0014 (o + 16) 6
    let f := min 4095 (viewNum v 0x0014 (o + 28) 2)
    some { d := d, plane := Fin.ofNat 8 (bitsOf w 1 3), period := max 1 (viewNum v 0x0014 (o + 4) 4)
           start := viewNum v 0x0014 (o + 8) 6, stop := if e = 0xFFFFFFFFFFFF then none else some e
           phase := viewNum v 0x0014 (o + 24) 4, listFirst := f
           listCount := min (4096 - f) (max 1 (viewNum v 0x0014 (o + 30) 2)) }

/-- The descriptor covers web line n (R174). -/
def Plate.covers (pl : Plate) (n : Nat) : Bool :=
  decide (pl.start ≤ n) && (match pl.stop with | none => true | some e => decide (n < e))

/-- Plate line printed at web line n (R174). -/
def Plate.lineAt (pl : Plate) (n : Nat) : Nat := (n - pl.start + pl.phase) % pl.period

/-- Job address of list entry e (R173). -/
def listHeader (v : TableView) (e : Nat) : Nat := viewNum v 0x0014 (2048 + 8 * e) 8 % 2 ^ 40 / 64 * 64

/-- The quire a plate list entry names, as its header reads now; one whose header cannot be read or fails checks 1 to 3 of R151 covers the whole plate and no column, and its decode fails (R158; log entry 26). -/
def State.plateQuire (s : State) (pl : Plate) (job : Nat) : Quire :=
  let bad : Quire := { id := 0, plane := pl.plane, kind := 0, overlay := none, first := 0, count := pl.period, colFirst := 0, colCount := 0, rawLen := 0, compLen := 0, crc := 0, job := job, state := .indexed, read := [] }
  match s.peekJob job 64 with
  | some bs => let h := parseHeader bs
    if h.good none then { h.quire 0 job with plane := pl.plane, overlay := none } else bad
  | none => bad

/-- A repeat of a plate quire: descriptor, list entry, web line of plate line 0. -/
structure Repeat where
  /-- Descriptor. -/
  d : Fin 32
  /-- List entry. -/
  entry : Nat
  /-- Origin. -/
  origin : Int
  deriving DecidableEq, Repr

/-- The record of a repeat that has started (R164). -/
def State.plateRun (s : State) (r : Repeat) : Option PlateRun :=
  s.qdc.plates.find? fun x => decide (x.desc = r.d ∧ x.entry = r.entry ∧ x.origin = r.origin)

/-- The quire of a repeat: as recorded at its start, or as its header reads now. -/
def State.repeatQuire (s : State) (pl : Plate) (job : Nat) (r : Repeat) : Quire :=
  match s.plateRun r with
  | some x => x.quire
  | none => s.plateQuire pl job

/-- The plate repeats that cover web line n of a plane, with their quires at plate lines (R174). -/
def State.repeatsAt (s : State) (p : Fin 8) (n : Nat) : List (Repeat × Quire) :=
  let v := s.viewAt n
  (List.finRange 32).flatMap fun d =>
    match plateAt v d with
    | none => []
    | some pl =>
      if pl.plane = p ∧ pl.covers n then
        (List.range pl.listCount).filterMap fun k =>
          let e := pl.listFirst + k
          let r : Repeat := ⟨d, e, (n : Int) - pl.lineAt n⟩
          let q := s.repeatQuire pl (listHeader v e) r
          if q.covers (pl.lineAt n) then some (r, q) else none
      else []

/-- Sealed: line n of a plane is complete (R154). -/
def State.lineComplete (s : State) (p : Fin 8) (n : Nat) : Bool := decide (n < s.qdc.sealed[p])

/-- Base and overlay quires of a plane that cover a line. -/
def State.quiresAt (s : State) (p : Fin 8) (n : Nat) : List Quire :=
  s.qdc.quires.filter fun q => decide (q.plane = p) && q.covers n

/-- Raster fetch may fetch line n of a plane, as far as QDC goes (R162). -/
def State.lineDecoded (s : State) (p : Fin 8) (n : Nat) : Bool :=
  s.lineComplete p n && (s.quiresAt p n).all Quire.fetchable &&
  (s.repeatsAt p n).all fun r => (s.plateRun r.1).isSome && r.2.fetchable

/-- An overlay descriptor (R175). -/
structure Overlay where
  /-- KEY value in KEY mode. -/
  key : Option Nat
  /-- COL_FIRST. -/
  colFirst : Nat
  /-- COL_COUNT. -/
  colCount : Nat
  /-- START_LINE. -/
  start : Nat
  /-- END_LINE; none for no end. -/
  stop : Option Nat
  /-- PERIOD, 0 for none. -/
  period : Nat
  /-- HEIGHT. -/
  height : Nat
  deriving DecidableEq, Repr

/-- Overlay o of plane p under a view; none where it is not VALID (R175). -/
def overlayAt (v : TableView) (p : Fin 8) (o : Fin 16) : Option Overlay :=
  let b := (16 * p.val + o.val) * 32
  let w := viewNum v 0x0015 b 1
  if !w.testBit 0 then none
  else
    let e := viewNum v 0x0015 (b + 16) 6
    let c := min 32767 (viewNum v 0x0015 (b + 2) 2)
    some { key := if w.testBit 1 then some (viewNum v 0x0015 (b + 1) 1) else none
           colFirst := c, colCount := min (32768 - c) (max 1 (viewNum v 0x0015 (b + 4) 2))
           start := viewNum v 0x0015 (b + 8) 6, stop := if e = 0xFFFFFFFFFFFF then none else some e
           period := viewNum v 0x0015 (b + 24) 4, height := viewNum v 0x0015 (b + 28) 4 }

/-- Line n lies in the window of an overlay (R176). -/
def Overlay.inWindow (o : Overlay) (n : Nat) : Bool :=
  decide (o.start ≤ n) && (match o.stop with | none => true | some e => decide (n < e)) &&
  (decide (o.period = 0) || decide ((n - o.start) % o.period < o.height))

/-- An overlay quire writes something in line n: its overlay is VALID and the line lies in the window (R176). -/
def State.overlayWrites (s : State) (q : Quire) (n : Nat) : Bool :=
  match q.overlay with
  | none => true
  | some o => match overlayAt (s.viewAt n) q.plane o with
    | none => false
    | some w => w.inWindow n

/-- Rank of a source that writes (R172), with its quire. -/
structure Source where
  /-- Which source. -/
  src : LineSource
  /-- 0 fill and plates, 1 base, 2 overlays. -/
  rank : Nat
  /-- Quire, at plate lines for a plate; none for the fill. -/
  quire : Option Quire
  /-- Web line of the quire's line 0 of its own numbering. -/
  origin : Int
  deriving DecidableEq, Repr

/-- Every source that writes line n of a plane (R172); a plate repeat that has not started has number none and stands under the number its record will take. -/
def State.sourcesAt (s : State) (p : Fin 8) (n : Nat) : List Source :=
  let fill : Source := ⟨.fill, 0, none, 0⟩
  let plates := (s.repeatsAt p n).map fun r => (⟨.plate ((s.plateRun r.1).elim s.qdc.nextId fun x => x.quire.id), 0, some r.2, r.1.origin⟩ : Source)
  let quires := (s.quiresAt p n).filter fun q => s.overlayWrites q n
  fill :: plates ++ quires.map fun q => ⟨.quire q.id, if q.overlay.isSome then 2 else 1, some q, 0⟩

/-- The work on a line that screening has started. -/
def State.lineWork (s : State) (p : Fin 8) (n : Nat) : Option LineWork :=
  s.scr.lines[p].find? fun w => decide (w.line = n)

/-- A source has written line n. -/
def State.hasWritten (s : State) (p : Fin 8) (n : Nat) (src : LineSource) : Bool :=
  match s.lineWork p n with
  | none => false
  | some w => w.done.contains src

/-- Every source of line n has written it; the line is complete (R154, R191). -/
def State.lineWritten (s : State) (p : Fin 8) (n : Nat) : Bool :=
  s.lineComplete p n && (s.sourcesAt p n).all fun x => s.hasWritten p n x.src

/-- READY after it has passed written lines from n; `fuel` bounds them (R191). -/
def State.readyFrom (s : State) (p : Fin 8) : Nat → Nat → Nat
  | 0, n => n
  | k + 1, n => if s.lineWritten p n then s.readyFrom p k (n + 1) else n

/-- READY advances past lines released or fully written; the records of released lines go (R191). -/
def State.advanceReady (s : State) (p : Fin 8) : State :=
  let low := max s.scr.ready[p] (s.releaseLine p)
  let r := s.readyFrom p (s.ringSlots p) low
  { s with scr := { s.scr with
      ready := s.scr.ready.set p r
      lines := s.scr.lines.set p (s.scr.lines[p].filter fun w => !s.lineReleased p w.line) } }

/-- Raster fetch may read line n of a plane (R162, R191), once every source that writes it as it now stands has written it (R163, R172; log entry 141). -/
def State.lineReadable (s : State) (p : Fin 8) (n : Nat) : Bool :=
  decide (n < s.scr.ready[p]) && s.lineDecoded p n && (s.sourcesAt p n).all fun x => s.hasWritten p n x.src

/-- The line at which the replace deadline of a quire falls (R161). -/
def State.deadlineLine (s : State) (p : Fin 8) (first : Int) : Int :=
  first - s.fetchAdvance p - max 16 (s.regField 0xA0000 0 14)

/-- The replace deadline of a base or overlay quire has passed (R151, R161). -/
def State.deadlinePassed (s : State) (q : Quire) : Bool :=
  decide (s.deadlineLine q.plane q.first ≤ (s.fireLine q.plane : Int))

end Sys2Proof.Machine
end

