-- ==== Sys2Proof/Machine/Position.lean ====
section
/-! DEFINITION. Time and position: the model's clock, fire ticks, the position in use, the plane coordinate (chapters 11, 12 and 17), and frames on the Ulilis Ring. -/

namespace Sys2Proof.Machine

/-- The model's clock moves on to a command's time; COUNT and FIR_NOW count the cycles that have passed (R345, R347). A reset of FIR does not stop the ticks that launched lines are sent by (R248). -/
def State.advance (s : State) (t : Nat) : State :=
  if t ≤ s.now then s
  else
    let d := t - s.now
    let k := (s.tim.phase + d) / 8
    let j := (s.fir.phase + d) / 5
    { s with
      now := t
      pmc := if s.thm.level = .throttle ∧ s.clkRuns 4 ∧ s.blkUp .pmc ∧ !s.pmc.freeze then { s.pmc with throttled := s.pmc.throttled + d } else s.pmc
      tim := if s.rst.aon = .up ∧ s.clkRuns 1 then { s.tim with count := (s.tim.count + k) % 2 ^ 64, phase := (s.tim.phase + d) % 8 } else s.tim
      fir := if s.clkRuns 0 then
          { s.fir with now := ((s.fir.now : Int) + j * (2 ^ 40 + s.tim.rate)).toNat % 2 ^ 88, phase := (s.fir.phase + d) % 5 }
        else s.fir }

/-- FIR_NOW in whole fire ticks, 48 bits (R246). -/
def State.fireTick (s : State) : Nat := s.fir.now / 2 ^ 40

/-- What FIR_NOW would read at the present device time, in 2^-40 fire tick modulo 2^88 (R246). -/
def State.firTarget (s : State) : Nat := unsigned 88 (s.timeFrac * 2 ^ 25 / 5)

/-- FIR_NOW takes device time whole (R264, R347). -/
def State.realignFir (s : State) : State := { s with fir := { s.fir with now := s.firTarget, realign := false } }

/-- The correction of FIR_NOW at a comparison (R347): at most one tick either way. -/
def State.disciplineFir (s : State) : State :=
  let d := signed 88 (s.firTarget + 2 ^ 88 - s.fir.now % 2 ^ 88)
  { s with fir := { s.fir with now := unsigned 88 ((s.fir.now : Int) + clampInt (-(2 ^ 40)) (2 ^ 40) d) } }

/-- Signed difference of two 48-bit counts (R246, R346). -/
def diff48 (a b : Nat) : Int := signed 48 (a % 2 ^ 48 + 2 ^ 48 - b % 2 ^ 48)

/-- Free-running FIRE_CLK cycle at the model's clock (R224). -/
def State.fireClk (s : State) : Nat := s.now / 5

/-- SEQ of the next frame, and the state that has sent it (R355). -/
def State.nextSeq (s : State) : BitVec 16 × State := (s.urg.seq, { s with urg := { s.urg with seq := s.urg.seq + 1 } })

/-- TYPE of a message (R356, R373). -/
def RingMsg.type : RingMsg → BitVec 8
  | .hello .. => 0x01
  | .announce .. => 0x02
  | .delayReq .. => 0x03
  | .delayResp .. => 0x04
  | .time .. => 0x05
  | .tide .. => 0x10
  | .stop .. => 0x11
  | .state .. => 0x12
  | .lockArm .. => 0x18
  | .lockReply .. => 0x19
  | .lockCommit .. => 0x1A
  | .lockAbort .. => 0x1B
  | .lockOutcome .. => 0x1C
  | .heartbeat .. => 0x20
  | .stamp .. => 0x21
  | .sig .. => 0x22
  | .takeover .. => 0x23
  | .failed .. => 0x24
  | .swap .. => 0x25
  | .planeState .. => 0x26
  | .stage .. => 0x27
  | .join => 0x28
  | .wake .. => 0x30

/-- Send a frame on both ports (R357). -/
def State.ringSend (s : State) (m : RingMsg) : State :=
  if s.blkUp .urg then (s.nextSeq.2).emit (.ring m.type s.nextSeq.1 m) else s

/-- Send a frame on one port (R356). -/
def State.hopSend (s : State) (port : Fin 2) (m : RingMsg) : State :=
  if s.blkUp .urg then (s.nextSeq.2).emit (.hop port m.type s.nextSeq.1 m) else s

/-- URG_CFG.NODE. -/
def State.node (s : State) : BitVec 10 := BitVec.ofNat 10 (s.regField 0x2A0000 0 10)

/-- URG_CFG.GROUP, the web group. -/
def State.group (s : State) : BitVec 8 := BitVec.ofNat 8 (s.regField 0x2A0000 16 8)

/-- This device is the elected ring time master (R359). -/
def State.isMaster (s : State) : Bool := decide (s.urg.master = some s.node)

/-- TIM_CFG.SRC: 1 PTP, 2 ring, 0 none; 3 acts as 0. -/
def State.timeSrc (s : State) : Nat := if s.regField 0x280000 0 2 = 3 then 0 else s.regField 0x280000 0 2

/-- The timebase stands for tide words: ring time master, or locked or in holdover to ring time (R362, R363). -/
def State.timeOk (s : State) : Bool :=
  s.isMaster || (decide (s.timeSrc = 2) && decide (s.tim.state = .locked ∨ s.tim.state = .holdover))

/-- TWN_CFG.PEER. -/
def State.peerNode (s : State) : BitVec 10 := BitVec.ofNat 10 (s.regField 0x2C0000 16 10)

/-- The ring port whose hop leads straight to the twin peer and is UP (R373). -/
def State.directPort (s : State) : Option (Fin 2) :=
  (List.finRange 2).find? fun k => decide (s.urg.port[k].state = .up ∧ s.urg.port[k].peer = s.peerNode)

/-- Send a twin message: on the direct hop while that is UP, else on both ports (R373). -/
def State.twinSend (s : State) (m : RingMsg) : State :=
  match s.directPort with
  | some k => s.hopSend k m
  | none => s.ringSend m

/-- POS_CFG.MAIN. -/
def State.mainChannel (s : State) : Fin 8 := Fin.ofNat 8 (s.regField 0x140000 0 3)

/-- POS_RATIO in 2^-32 lines per count (R233). -/
def State.ratio (s : State) : Nat := (s.reg 0x140008).toNat + s.regField 0x14000C 0 5 * 2 ^ 32

/-- A signed 32-bit register. -/
def State.regSigned (s : State) (o : Nat) : Int := (s.reg o).toInt

/-- The position comes from tide words (R237, R371). -/
def State.usesTide (s : State) : Bool := s.regBit 0x160000 16 || decide (s.twn.role ≠ .single)

/-- The newest word of the tide source in use (R363). -/
def State.tideNow (s : State) : Option TideWord :=
  match s.urg.inUse with
  | none => none
  | some n => (s.urg.sources.find? fun x => decide (x.node = n ∧ x.live)).map (·.word)

/-- Two tide words have come from the source in use while it is live (R28, R253). -/
def State.tideReady (s : State) : Bool :=
  match s.urg.inUse with
  | none => false
  | some n => s.urg.sources.any fun x => decide (x.node = n ∧ 2 ≤ x.words) && x.live

/-- Count at a time that a word predicts, rounded to the nearest count, after the offset of a change-over (R363, R364). -/
def TideWord.countAt (w : TideWord) (t : Int) (offset : Int) : Nat :=
  let dt : Int := t - w.edgeTime
  unsigned 48 ((w.count.toNat : Int) - offset + (2 * w.speed.toInt * dt + 256000000000) / 512000000000)

/-- Direction count D and whether the direction state is REV, as of the newest edge in use (R234, R237, R364); none before the first tide word. -/
def State.direction (s : State) : Option (Nat × Bool) :=
  if s.usesTide then s.tideNow.map fun w => (unsigned 48 ((w.extreme.toNat : Int) - s.urg.offset), w.rev)
  else some (s.pos.extreme, s.pos.rev)

/-- Direction count D at this instant: E as R234 moves it by the count that the newest tide word predicts for now (R237, R363); with an own encoder, E itself. -/
def State.directionNow (s : State) : Option (Nat × Bool) :=
  match s.usesTide, s.tideNow, s.direction with
  | true, some w, some (e, rev) =>
    let d := diff48 (w.countAt s.timeSixteenth s.urg.offset) e
    some (if (rev && decide (d < 0)) || (!rev && decide (0 < d)) then unsigned 48 ((e : Int) + d) else e, rev)
  | _, _, r => r

/-- Speed in use as a fraction of counts per second; none while it is not VALID (R232, R245, R363). -/
def State.speedNow (s : State) : Option (Int × Nat) :=
  if s.usesTide then
    match s.tideNow with
    | none => none
    | some w => if w.valid then some (w.speed.toInt, 16) else none
  else
    let c := s.pos.ch[s.mainChannel]
    if c.valid then some c.speed else none

/-- Lines may be committed: direction FWD and the speed VALID and forward (R245). -/
def State.forwardSpeed (s : State) : Option (Int × Nat) :=
  match s.direction, s.speedNow with
  | some (_, false), some (v, w) => if 0 < v then some (v, w) else none
  | _, _ => none

/-- X_p for an origin in 1/65536 line (R233). -/
def State.lineOf (s : State) (origin : BitVec 48) (d : Nat) (rev : Bool) : Int :=
  diff48 d origin.toNat * s.ratio / 2 ^ 16 + s.regSigned (if rev then 0x140014 else 0x140010)

/-- σ_p in 0.01 ppm, within ±500000 (R243). -/
def State.sigma (s : State) (p : Fin 8) : Int := clampInt (-500000) 500000 (s.regSigned (0x160108 + 0x40 * p))

/-- o_p in 1/65536 line (R243). -/
def State.offset (s : State) (p : Fin 8) : Int := s.regSigned (0x160104 + 0x40 * p)

/-- T_min in fire ticks (R250). -/
def State.tmin (s : State) (p : Fin 8) : Nat := max 3125 (s.regField (0x16010C + 0x40 * p) 0 16)

/-- Φ at a position X in 1/65536 line, for a plane's anchor, offset and stretch (R243). -/
def coordAt (xa phia sigma ofs x : Int) : Int := phia + (100000000 + sigma) * (x - xa) / 100000000 - ofs

/-- Φ_p in 1/65536 line (R243). -/
def State.coord (s : State) (p : Fin 8) : Int :=
  let pl := s.fir.plane[p]
  coordAt pl.xa pl.phia (s.sigma p) (s.offset p) pl.x

/-- The state with one plane changed. -/
def State.modPlane (s : State) (p : Fin 8) (f : Plane → Plane) : State :=
  { s with fir := { s.fir with plane := modAt s.fir.plane p f } }

/-- A plane takes a value of X_p: P_p and the reach of R235 rise with it. -/
def Plane.moveTo (pl : Plane) (x : Int) : Plane :=
  { pl with
    x := x, print := max pl.print x, reach := max pl.reach x
    behind := if pl.reach < x then false else pl.behind || decide (x < pl.x) }

/-- X_p at this instant (R233, R237, R243). -/
def State.positionNow (s : State) (p : Fin 8) : Int :=
  match s.fir.plane[p].origin, s.directionNow with
  | some o, some (d, rev) => if s.usesTide then s.lineOf o d rev else s.fir.plane[p].x
  | _, _ => s.fir.plane[p].x

/-- Φ_p at this instant, in 1/65536 line (R243). -/
def State.coordNow (s : State) (p : Fin 8) : Int :=
  let pl := s.fir.plane[p]
  coordAt pl.xa pl.phia (s.sigma p) (s.offset p) (s.positionNow p)

/-- X_p and P_p of every plane with an origin follow the position (R233, R235); the highest Φ_p since an OVERSPEED stop is kept (R252). -/
def State.followPosition (s : State) : State :=
  match s.direction with
  | none => s
  | some (d, rev) =>
    (List.finRange 8).foldl (fun t p =>
      match t.fir.plane[p].origin with
      | none => t
      | some o =>
        let x := t.lineOf o d rev
        let t1 := t.modPlane p fun pl => pl.moveTo x
        t1.modPlane p fun pl => { pl with overPos := pl.overPos.map fun m => max m (t1.coord p) }) s

/-- Set the anchor to (X_p, Φ_p + o_p) before a change of σ_p (R243). -/
def State.anchor (s : State) (p : Fin 8) : State :=
  s.modPlane p fun pl => { pl with xa := pl.x, phia := s.coord p + s.offset p }

/-- GUARD in fire ticks, rounded up (R249, R280). -/
def State.guardTicks (s : State) : Nat := (max 2000 (s.regField 0x160000 0 16) * 2 + 4) / 5

/-- The largest L_k among a plane's links, on both devices of a twin pair (R247, R375). -/
def State.planeLat (s : State) (p : Fin 8) : Nat :=
  let own := (planeLinks s.liveView p).foldl (fun m n => max m (s.plk.link[n]).lat) 0
  if s.twn.role = .single then own else max own (s.twn.plane[p]).peerLat

/-- Λ_p (R247, R375). -/
def State.launchLead (s : State) (p : Fin 8) : Nat :=
  s.planeLat p + s.guardTicks + 200 + (if s.twn.role = .single then 0 else s.regField 0x2C0004 0 12)

/-- Rate of Φ_p as a fraction of 1/65536 line per fire tick (R246). -/
def State.phiRate (s : State) (p : Fin 8) (speed : Int × Nat) : Int × Int :=
  ((100000000 + s.sigma p) * s.ratio * speed.1 * 65536, 100000000 * 2 ^ 32 * speed.2 * 400000000)

/-- t* of line n relative to the present fire tick, rounded to nearest, halves up (R246); none without a newest edge. -/
def State.predict (s : State) (p : Fin 8) (n : Nat) (speed : Int × Nat) : Option Int :=
  s.fir.edge.map fun e =>
    let r := s.phiRate p speed
    diff48 e s.fireTick + (2 * ((n * 65536 : Nat) - s.coord p) * r.2 + r.1) / (2 * r.1)

/-- Φ_p predicted at a tick relative to the present one, in 1/65536 line (R251). -/
def State.predictCoord (s : State) (p : Fin 8) (rel : Int) (speed : Int × Nat) : Int :=
  match s.fir.edge with
  | none => s.coord p
  | some e =>
    let r := s.phiRate p speed
    s.coord p + (rel - diff48 e s.fireTick) * r.1 / r.2

/-- Fire tick of a device time in 1/16 ns (R246). -/
def tickOfTime (t16 : Int) : Nat := unsigned 48 (t16 / 40)

end Sys2Proof.Machine
end

