-- ==== Sys2Proof/Machine/Marks.lean ====
section
/-! DEFINITION. The pixel mapping of the cameras and the mark windows that the collation loop places (R313, R317). -/

namespace Sys2Proof.Machine

/-- BAR0 offset of a register of camera context c (R310). -/
def ctxReg (c : Fin 16) (o : Nat) : Nat := 0x200400 + 0x80 * c.val + o

/-- BAR0 offset of a register of mark m (R332). -/
def markReg (m : Fin 64) (o : Nat) : Nat := 0x240800 + 0x20 * m.val + o

/-- BAR0 offset of a register of mark window w (R310). -/
def winReg (w : Fin 64) (o : Nat) : Nat := 0x201000 + 0x10 * w.val + o

/-- BAR0 offset of a register of LOP's plane p (R332). -/
def lopReg (p : Fin 8) (o : Nat) : Nat := 0x240100 + 0x20 * p.val + o

/-- u of camera pixel k in 1/65536 column (R313). -/
def State.pixelU (s : State) (c : Fin 16) (k : Int) : Int := s.regSigned (0x240400 + 0x10 * c.val) * 256 + k * (s.reg (0x240404 + 0x10 * c.val)).toNat

/-- DU: columns per pixel in 1/65536; 0 disables the context for LOP (R332). -/
def State.pixelDu (s : State) (c : Fin 16) : Nat := (s.reg (0x240404 + 0x10 * c.val)).toNat

/-- WIDTH of a context: 8 to 16384 pixels in multiples of 8 (R296, R310). -/
def State.camWidth (s : State) (c : Fin 16) : Nat := max 8 (min 16384 (s.regField (ctxReg c 4) 3 12 * 8))

/-- FIRST and COUNT of a crop register, clipped to WIDTH (R304). -/
def State.cropOf (s : State) (c : Fin 16) (o : Nat) : Nat × Nat :=
  let first := s.regField (ctxReg c o) 0 15
  (first, min (s.regField (ctxReg c o) 16 15) (s.camWidth c - first))

/-- U0 and DU of every context, as a band keeps them (R313, R332). -/
def State.mapping (s : State) : Vector (Int × Nat) 16 := Vector.ofFn fun c => (s.pixelU c 0, s.pixelDu c)

/-- A context measures for LOP: enabled, mapped, with an S1 crop (R304, R313, R332). -/
def State.measures (s : State) (map : Vector (Int × Nat) 16) (c : Fin 16) : Bool :=
  s.regBit (ctxReg c 0) 0 && decide ((map[c]).2 ≠ 0) && decide ((s.cropOf c 0x34).2 ≠ 0)

/-- Contexts that measure. -/
def State.measuring (s : State) (map : Vector (Int × Nat) 16) : List (Fin 16) := (List.finRange 16).filter (s.measures map)

/-- The context by which a column is measured (R313): the lowest-numbered whose S1 crop covers the column's centre, a pixel reaching half of DU to either side of its centre. -/
def State.columnCtx (s : State) (map : Vector (Int × Nat) 16) (col : Nat) : Option (Fin 16) :=
  (s.measuring map).find? fun c =>
    let (f, n) := s.cropOf c 0x34
    let (u0, du) := map[c]
    let u : Int := 2 * (col * 65536 + 32768)
    decide (2 * (u0 + f * du) - du ≤ u) && decide (u < 2 * (u0 + (f + n) * du) - du)

/-- Mark m's plane. -/
def State.markPlane (s : State) (m : Fin 64) : Fin 8 := Fin.ofNat 8 (s.regField (markReg m 0) 1 3)

/-- Web line of instance i of mark m (R318, R332). -/
def State.markLine (s : State) (m : Fin 64) (i : Nat) : Nat :=
  (s.reg (markReg m 8)).toNat + s.regField (markReg m 12) 0 16 * 2 ^ 32 + i * s.regField (markReg m 16) 0 24

/-- The position in 1/65536 line at which R243 places a web line. -/
def placeOf (f : PlaneFix) (line : Int) : Int := f.xa + (line * 65536 + f.ofs - f.phia) * 100000000 / (100000000 + f.stretch)

/-- BAR0 offset of a register of camera trigger t (R310). -/
def trigReg (t : Fin 4) (o : Nat) : Nat := 0x200200 + 0x20 * t.val + o

/-- Plane q of a trigger output (R300). -/
def State.trigPlane (s : State) (t : Fin 4) : Fin 8 := Fin.ofNat 8 (s.regField (trigReg t 0) 4 3)

/-- Coordinates of every plane with an origin, as they stand (R243, R312). -/
def State.planeFixes (s : State) : Vector (Option PlaneFix) 8 := Vector.ofFn fun p =>
  let pl := s.fir.plane[p]
  pl.origin.map fun o => ⟨o, pl.xa, pl.phia, s.offset p, s.sigma p⟩

/-- The tag line, in 1/65536, at which a context whose trigger names plane q shows a web line of plane p (R312, R317). -/
def State.tagOf (s : State) (q p : Fin 8) (line : Nat) : Option Int :=
  match (s.planeFixes)[q], (s.planeFixes)[p] with
  | some a, some f => some (placeOf f line - diff48 a.origin.toNat f.origin.toNat * s.ratio / 65536)
  | _, _ => none

/-- The window of mark m with its expected centre at the window's centre, in the context that covers COL (R317); a position below 0 is written as 0. -/
def State.placeWindow (s : State) (m : Fin 64) : State :=
  let p := s.markPlane m
  let col := s.regField (markReg m 4) 0 15
  match s.columnCtx s.mapping col with
  | none => s
  | some c =>
    match s.tagOf (s.trigPlane (Fin.ofNat 4 (s.regField (ctxReg c 0) 8 2))) p (s.markLine m 0) with
    | none => s
    | some n =>
      let xw := s.regField 0x240060 0 8
      let h := s.regField 0x240060 8 8
      let k := ((col * 65536 + 32768 : Nat) - s.pixelU c 0) / s.pixelDu c
      let x := min 16383 (k - (xw + 1) / 2).toNat
      let start := (n / 65536 - (h + 1) / 2).toNat
      (((s.setReg (winReg m 0) (BitVec.ofNat 32 (1 + 2 * c.val + 256 * xw + 65536 * x))).setReg (winReg m 4) (BitVec.ofNat 32 start)).setReg
        (winReg m 8) (BitVec.ofNat 32 (bitsOf start 32 16))).setReg (winReg m 12) (BitVec.ofNat 32 (s.regField (markReg m 16) 0 24 + 2 ^ 24 * h))

/-- The collation loop writes the windows of the VALID marks of some planes (R317). -/
def State.placeWindows (s : State) (planes : List (Fin 8)) : State :=
  if !s.blkUp .cam then s
  else ((List.finRange 64).filter fun m => s.regBit (markReg m 0) 0 && planes.contains (s.markPlane m)).foldl State.placeWindow s

end Sys2Proof.Machine
end

