-- ==== Sys2Proof/Machine/ChamberRules.lean ====
section
/-! DEFINITION. What a lock chamber's contents touch and the check of its contents (chapter 16, R211, R282, R428). -/

namespace Sys2Proof.Machine

/-- Table id of a staged unit. -/
def unitTable (u : Nat) : Nat := u * 64 / 0x1000000

/-- Byte offset of a staged unit in its table. -/
def unitOff (u : Nat) : Nat := u * 64 % 0x1000000

/-- The tables with a chamber's contents laid over them (R337). -/
def State.stagedView (s : State) (c : Chamber) : TableView := fun key => (c.stagedByte key).getD (s.tableByte key)

/-- The ST registers: block and plane of a BAR0 offset (R335); planes of POS registers are none. -/
inductive StReg
  /-- SCR_PLp_CFG. -/
  | scr (p : Fin 8)
  /-- CSM_PLp_CFG. -/
  | csm (p : Fin 8)
  /-- FIR_PLp_OFS, FIR_PLp_STRETCH, FIR_PLp_TMIN. -/
  | fir (p : Fin 8)
  /-- POS_OFS_FWD, POS_OFS_REV. -/
  | pos
  deriving DecidableEq, Repr

/-- The ST register at a BAR0 offset; none where none stands there (R335). -/
def stReg (o : Nat) : Option StReg :=
  if o = 0x140010 ∨ o = 0x140014 then some .pos
  else if 0xC0100 ≤ o ∧ o < 0xC0300 ∧ o % 0x40 = 0 then some (.scr (Fin.ofNat 8 ((o - 0xC0100) / 0x40)))
  else if 0x100100 ≤ o ∧ o < 0x100180 ∧ o % 0x10 = 0 then some (.csm (Fin.ofNat 8 ((o - 0x100100) / 0x10)))
  else if 0x160100 ≤ o ∧ o < 0x160300 ∧ (o % 0x40 = 4 ∨ o % 0x40 = 8 ∨ o % 0x40 = 0xC) then
    some (.fir (Fin.ofNat 8 ((o - 0x160100) / 0x40)))
  else none

/-- A register entry lies in FIR or POS. -/
def inCtrl (o : Nat) : Bool :=
  match stReg o with
  | some (.fir _) | some .pos => true
  | _ => false

/-- The planes that the valid segments of a link name under a view. -/
def segPlanes (v : TableView) (n : Fin 32) : List (Fin 8) := (List.finRange 16).filterMap fun j => (segAt v n j).map Seg.plane

/-- Planes of the staged and the live segments of a link (R428). -/
def State.linkPlanes (s : State) (c : Chamber) (n : Fin 32) : List (Fin 8) :=
  segPlanes (s.stagedView c) n ++ segPlanes s.liveView n

/-- Planes whose SCR contents a staged unit touches (R428). -/
def State.unitScr (s : State) (c : Chamber) (u : Nat) : List (Fin 8) :=
  let o := unitOff u
  match unitTable u with
  | 0x0010 => [Fin.ofNat 8 (o / 98304)]
  | 0x0011 => [Fin.ofNat 8 (o / 65536)]
  | 0x0012 => List.finRange 8
  | 0x0013 => if o < 512 then [Fin.ofNat 8 (o / 64)] else [Fin.ofNat 8 ((o - 512) / 16384)]
  | 0x0014 =>
    if o < 2048 then [s.stagedView c, s.liveView].map fun v => Fin.ofNat 8 (bitsOf (viewNum v 0x0014 o 1) 1 3)
    else List.finRange 8
  | 0x0015 => [Fin.ofNat 8 (o / 512)]
  | _ => []

/-- Planes whose CSM contents a staged unit touches (R428). -/
def State.unitCsm (s : State) (c : Chamber) (u : Nat) : List (Fin 8) :=
  let o := unitOff u
  match unitTable u with
  | 0x0001 => [Fin.ofNat 8 (o / 524288)]
  | 0x0002 => s.linkPlanes c (Fin.ofNat 32 (o / 8192))
  | 0x0003 => List.finRange 8
  | 0x0004 => s.linkPlanes c (Fin.ofNat 32 (if o < 8192 then o / 256 else (o - 8192) / 64))
  | _ => []

/-- Planes whose SCR contents a chamber touches (R187, R428). -/
def State.scrTouched (s : State) (c : Chamber) : List (Fin 8) :=
  (c.units.flatMap fun u => s.unitScr c u.1) ++
  c.entries.filterMap fun e => match stReg e.1 with | some (.scr p) => some p | _ => none

/-- Planes whose CSM contents a chamber touches (R213, R428). -/
def State.csmTouched (s : State) (c : Chamber) : List (Fin 8) :=
  (c.units.flatMap fun u => s.unitCsm c u.1) ++
  c.entries.filterMap fun e => match stReg e.1 with | some (.csm p) => some p | _ => none

/-- A web line of a plane waits for the copy of a chamber (R338): the chamber governs it, touches the plane, and its copy is under way. -/
def Chamber.holdsLine (c : Chamber) (touched : List (Fin 8)) (p : Fin 8) (line : Int) : Bool :=
  c.copying && !c.copied && (match c.byLine with
    | some l => decide ((l : Int) ≤ line) && touched.contains p
    | none => false)

/-- Screening of a web line waits for an apply copy (R338). -/
def State.scrWaits (s : State) (p : Fin 8) (line : Int) : Bool := s.lck.ch.toList.any fun c => c.holdsLine (s.scrTouched c) p line

/-- Raster fetch of a web line waits for an apply copy (R338). -/
def State.csmWaits (s : State) (p : Fin 8) (line : Int) : Bool := s.lck.ch.toList.any fun c => c.holdsLine (s.csmTouched c) p line

/-- Reserved bits of an ST register (R194, R241, R265, chapter 10). -/
def stReserved (o : Nat) : Nat :=
  match stReg o with
  | some (.scr _) => 0xFF0000F8
  | some (.csm _) => 0xFFC0C000
  | some (.fir _) => if o % 0x40 = 0xC then 0xFFFF0000 else 0
  | _ => 0

/-- A register entry with a reserved bit set, or a SHIFT outside −64 to 64 (R211, R337). -/
def badEntry (e : Nat × BitVec 32) : Bool :=
  decide (e.2.toNat &&& stReserved e.1 ≠ 0) ||
  match stReg e.1 with
  | some (.csm _) => decide (signed 8 (e.2.toNat % 256) < -64 ∨ 64 < signed 8 (e.2.toNat % 256))
  | _ => false

/-- A column-set entry with a reserved bit set (R199). -/
def badColumn (v : TableView) (c : Nat) : Bool :=
  ((List.range 4).any fun k => decide (bitsOf (viewNum v 0x0001 (16 * c + 3 * k) 3) 21 3 ≠ 0)) ||
  decide (viewNum v 0x0001 (16 * c + 13) 3 ≠ 0)

/-- A segment descriptor with a reserved bit set or, if VALID, a field outside its range (R195). -/
def badSegment (v : TableView) (k : Nat) : Bool :=
  let o := 16 * k
  let w := viewNum v 0x0004 o 2
  let cf := viewNum v 0x0004 (o + 2) 2
  let cc := viewNum v 0x0004 (o + 4) 2
  let lf := viewNum v 0x0004 (o + 6) 2
  let lc := viewNum v 0x0004 (o + 8) 2
  decide (bitsOf w 4 12 ≠ 0 ∨ bitsOf cf 13 3 ≠ 0 ∨ viewNum v 0x0004 (o + 10) 2 ≠ 0 ∨ bitsOf (viewNum v 0x0004 (o + 12) 4) 20 12 ≠ 0) ||
  (w.testBit 0 && decide (cc = 0 ∨ 8192 < cf + cc ∨ 32767 < lf ∨ lc = 0 ∨ 32768 < lf + lc))

/-- A row-group word with a reserved bit set (R209). -/
def badRow (v : TableView) (k : Nat) : Bool :=
  let w := viewNum v 0x0004 (8192 + 4 * k) 4
  decide (bitsOf w 11 5 ≠ 0 ∨ bitsOf w 24 8 ≠ 0)

/-- A plate descriptor with a reserved bit set or, if VALID, a PERIOD or LIST_COUNT outside its range (R173). -/
def badPlate (v : TableView) (d : Nat) : Bool :=
  let o := 64 * d
  let per := viewNum v 0x0014 (o + 4) 4
  let cnt := viewNum v 0x0014 (o + 30) 2
  decide (bitsOf (viewNum v 0x0014 o 1) 4 4 ≠ 0 ∨ viewNum v 0x0014 (o + 1) 3 ≠ 0 ∨ viewNum v 0x0014 (o + 14) 2 ≠ 0 ∨
    viewNum v 0x0014 (o + 22) 2 ≠ 0 ∨ viewNum v 0x0014 (o + 32) 32 ≠ 0) ||
  ((viewNum v 0x0014 o 1).testBit 0 &&
    decide (per = 0 ∨ 16777216 < per ∨ 4095 < viewNum v 0x0014 (o + 28) 2 ∨ cnt = 0 ∨ 4096 < cnt))

/-- A plate list entry with a reserved bit set (R173). -/
def badListEntry (v : TableView) (e : Nat) : Bool :=
  let w := viewNum v 0x0014 (2048 + 8 * e) 8
  decide (w % 64 ≠ 0 ∨ 2 ^ 40 ≤ w)

/-- An overlay descriptor with a reserved bit set or, if VALID, a field outside its range (R175). -/
def badOverlay (v : TableView) (k : Nat) : Bool :=
  let o := 32 * k
  let cf := viewNum v 0x0015 (o + 2) 2
  let cc := viewNum v 0x0015 (o + 4) 2
  let per := viewNum v 0x0015 (o + 24) 4
  let h := viewNum v 0x0015 (o + 28) 4
  decide (bitsOf (viewNum v 0x0015 o 1) 2 6 ≠ 0 ∨ viewNum v 0x0015 (o + 6) 2 ≠ 0 ∨ viewNum v 0x0015 (o + 14) 2 ≠ 0 ∨
    viewNum v 0x0015 (o + 22) 2 ≠ 0) ||
  ((viewNum v 0x0015 o 1).testBit 0 &&
    decide (32767 < cf ∨ cc = 0 ∨ 32768 < cf + cc ∨ (per ≠ 0 ∧ (h = 0 ∨ per < h))))

/-- Code FIELD on table contents: reserved bits and ranges of every table (R211, R337; which ranges belong here and which to a later code, log entry 27). -/
def badTables (v : TableView) : Bool :=
  ((List.range 262144).any (badColumn v)) ||
  ((List.range 262144).any fun i => decide (128 ≤ viewNum v 0x0002 i 1)) ||
  ((List.range 512).any (badSegment v)) || ((List.range 512).any (badRow v)) ||
  ((List.range 524288).any fun k => decide (viewNum v 0x0012 (16 * k + 15) 1 ≠ 0)) ||
  ((List.range 131072).any fun k => (viewNum v 0x0013 (512 + k) 1).testBit 3 || (viewNum v 0x0013 (512 + k) 1).testBit 7) ||
  ((List.range 32).any (badPlate v)) || ((List.range 4096).any (badListEntry v)) || ((List.range 128).any (badOverlay v))

/-- Half-open ranges meet. -/
def rangesMeet (a n b m : Nat) : Bool := decide (a < b + m) && decide (b < a + n)

/-- The valid segments of a link, all planes together. -/
def allSegs (v : TableView) (n : Fin 32) : List Seg := (List.finRange 16).filterMap (segAt v n)

/-- Some pair of a list, earlier before later, satisfies a test. -/
def anyPair {α : Type} (f : α → α → Bool) : List α → Bool
  | [] => false
  | x :: t => t.any (f x) || anyPair f t

/-- Code SEGMENT (R196): valid segments of a link overlap or name different planes. -/
def segmentsClash (v : TableView) : Bool :=
  (List.finRange 32).any fun n => anyPair (fun a b => decide (a.plane ≠ b.plane) || rangesMeet a.chFirst a.chCount b.chFirst b.chCount) (allSegs v n)

/-- Local VALID members of every column set: channel id and column id. -/
def localMembers (v : TableView) : List (Nat × Nat) :=
  (List.range 262144).flatMap fun c => (List.range 4).filterMap fun k =>
    let w := viewNum v 0x0001 (16 * c + 3 * k) 3
    if w.testBit 18 && !w.testBit 20 then some (w % 2 ^ 18, c) else none

/-- A member's channel lies in a valid segment of its column's plane that serves the column (R211). -/
def memberServed (v : TableView) (m : Nat × Nat) : Bool :=
  (allSegs v (Fin.ofNat 32 (m.1 / 8192))).any fun g =>
    decide (g.plane.val = m.2 / 32768 ∧ g.chFirst ≤ m.1 % 8192 ∧ m.1 % 8192 < g.chFirst + g.chCount ∧
      g.colFirst ≤ m.2 % 32768 ∧ m.2 % 32768 < g.colFirst + g.colCount)

/-- The restore period of R63 is open for a table: a reset emptied it, and no plane is in RUN, ARMED or CLOSING. -/
def State.restoreOpen (s : State) (t : Nat) : Bool :=
  s.fir.restoreTables.contains t && s.fir.plane.toList.all fun p => decide (p.phase = .idle ∨ p.phase = .hold)

/-- Code GEOMETRY (R211, R282, R337): a segment, a DELAY or a ROWGRP of a link whose plane prints changes. -/
def State.geometryMoves (s : State) (c : Chamber) : Bool :=
  let v := s.stagedView c
  (List.finRange 32).any fun n =>
    (s.linkPlanes c n).any s.planePrints &&
    ((!s.restoreOpen 0x0004 &&
        ((List.finRange 16).any fun j =>
          decide (segAt v n j ≠ segAt s.liveView n j) ||
          decide (viewNum v 0x0004 (8192 + (16 * n.val + j.val) * 4) 2 ≠ viewNum s.liveView 0x0004 (8192 + (16 * n.val + j.val) * 4) 2))) ||
     (!s.restoreOpen 0x0002 &&
        ((List.range 8192).any fun i =>
          decide (bitsOf (viewNum v 0x0002 (8192 * n.val + i) 1) 3 4 ≠ bitsOf (viewNum s.liveView 0x0002 (8192 * n.val + i) 1) 3 4))))

/-- A register as a chamber's entries leave it. -/
def State.stagedReg (s : State) (c : Chamber) (o : Nat) : BitVec 32 :=
  match c.entries.find? fun e => decide (e.1 = o) with
  | some e => e.2
  | none => s.reg o

/-- Code TMIN (R250, R280): T_min below T_link of a link of the plane in RUN. -/
def State.tminShort (s : State) (c : Chamber) : Bool :=
  (List.finRange 8).any fun p =>
    let t := max 3125 (bitsOf (s.stagedReg c (0x16010C + 0x40 * p)).toNat 0 16)
    (planeLinks (s.stagedView c) p).any fun n => decide ((s.plk.link[n]).st = .run ∧ t < (s.plk.link[n]).tlink)

/-- A plate descriptor as code PLATE reads it: plane, lines, PERIOD, PHASE, list (R174). -/
def plateWords (v : TableView) (d : Nat) : Option (Nat × Nat × Nat × Nat × Nat × Nat) :=
  let o := 64 * d
  let w := viewNum v 0x0014 o 1
  if w.testBit 0 then
    some (bitsOf w 1 3, viewNum v 0x0014 (o + 8) 6, viewNum v 0x0014 (o + 16) 6, viewNum v 0x0014 (o + 4) 4,
      viewNum v 0x0014 (o + 24) 4, viewNum v 0x0014 (o + 28) 2 + viewNum v 0x0014 (o + 30) 2)
  else none

/-- Code PLATE (R174). An END_LINE of all ones is no end. -/
def platesBad (v : TableView) : Bool :=
  let ds := (List.range 32).filterMap (plateWords v)
  (ds.any fun d => decide (d.2.2.2.1 = 0 ∨ d.2.2.2.1 ≤ d.2.2.2.2.1 ∨ 4096 < d.2.2.2.2.2)) ||
  anyPair (fun a b => decide (a.1 = b.1) && decide (a.2.1 < b.2.2.1 ∨ b.2.2.1 = 0xFFFFFFFFFFFF) &&
    decide (b.2.1 < a.2.2.1 ∨ a.2.2.1 = 0xFFFFFFFFFFFF) && decide (a.2.1 < a.2.2.1 ∧ b.2.1 < b.2.2.1)) ds

/-- Line windows of two overlays are disjoint (R176); an empty [START_LINE, END_LINE) meets none. -/
def windowsApart (a b : Overlay) : Bool :=
  (match a.stop with | some e => decide (e ≤ a.start) | none => false) ||
  (match b.stop with | some e => decide (e ≤ b.start) | none => false) ||
  (match a.stop with | some e => decide (e ≤ b.start) | none => false) ||
  (match b.stop with | some e => decide (e ≤ a.start) | none => false) ||
  (decide (a.period = b.period) && decide (a.period ≠ 0) &&
    let d := (b.start % a.period + a.period - a.start % a.period) % a.period
    decide (a.height ≤ d ∧ d + b.height ≤ a.period))

/-- Code OVERLAY (R176): two VALID overlays of a plane overlap. -/
def overlaysClash (v : TableView) : Bool :=
  (List.finRange 8).any fun p =>
    anyPair (fun a b => rangesMeet a.colFirst a.colCount b.colFirst b.colCount && !windowsApart a b)
      ((List.finRange 16).filterMap (overlayAt v p))

/-- The first failing content row of R337, 0x02 to 0x0C; 0 where none fails. -/
def State.contentCode (s : State) (c : Chamber) : Nat :=
  let v := s.stagedView c
  let ms := localMembers v
  if c.badReg || c.entries.any badEntry || badTables v then 0x02
  else if segmentsClash v then 0x03
  else if ms.any fun m => !memberServed v m then 0x04
  else if anyPair (fun a b => decide (a.1 = b.1 ∧ a.2 ≠ b.2)) ms then 0x05
  else if ms.any fun m => !s.regBit (0x180000 + 0x1000 * (m.1 / 8192)) 0 then 0x06
  else if (List.range 512).any fun k => decide (s.gutterDepth ≤ viewNum v 0x0004 (8192 + 4 * k) 2 % 2048) then 0x07
  else if (List.finRange 8).any fun p => decide (s.ringLog p ≠ 0 ∧ 2 ^ s.ringLog p < 2048 + spanOf v p) then 0x08
  else if s.geometryMoves c then 0x09
  else if s.tminShort c then 0x0A
  else if platesBad v then 0x0B
  else if overlaysClash v then 0x0C
  else 0

/-- The highest fire line of a plane that a segment of a link has fetched or started to fetch (R207, R213): below F_p while the plane prints, up to the last line launched else (log entry 28); negative for none. -/
def State.fetchedLine (s : State) (p : Fin 8) (n : Fin 32) (j : Fin 16) : Int :=
  ((s.csm.link[n]).fetch.filter fun b => b.started.contains j).foldl (fun m b => max m (b.line : Int))
    (if s.planePrints p then (s.fireLine p : Int) - 1 else (s.fir.plane[p]).last)

/-- A segment of a plane has fetched a web line at or above L (R213). -/
def State.csmPassed (s : State) (p : Fin 8) (l : Nat) : Bool :=
  (planeLinks s.liveView p).any fun n => (linkSegs s.liveView n).any fun g =>
    let f := s.fetchedLine p n g.1
    decide (0 ≤ f ∧ (l : Int) ≤ f - g.2.offset)

/-- SCR has started a line at or above L of a plane (R187). -/
def State.scrPassed (s : State) (p : Fin 8) (l : Nat) : Bool := decide (l < s.scr.started[p])

/-- A chamber holds channel-table contents. -/
def Chamber.hasChannels (c : Chamber) : Bool := c.units.any fun u => decide (unitTable u.1 = 0x0002)

/-- Device tick of a time in ns, and the difference to now (R346). -/
def State.ticksAhead (s : State) (ns : Nat) : Int := (ns / 4 : Nat) - s.tick

/-- The instant of an ARM has passed (R187, R213, R338); channel-table contents are tested at their copy, not at ARM (R282). -/
def State.instantPassed (s : State) (c : Chamber) (a : LockAsk) (atCopy : Bool) : Bool :=
  if a.kind = 2 then decide (s.ticksAhead a.at_ < 0)
  else if a.kind = 1 ∨ a.kind = 3 then
    (!atCopy && (s.scrTouched c).any fun p => s.scrPassed p a.at_) ||
    ((atCopy || !c.hasChannels) && (s.csmTouched c).any fun p => s.csmPassed p a.at_)
  else false

/-- Units kept in the apply buffer: LCK_BUF.USED (R340, R344). -/
def State.bufUsed (s : State) : Nat := s.lck.ch.toList.foldl (fun n c => n + c.kept.length) 0

/-- A staged unit or register offset is also held by an ARMED chamber (R337). -/
def State.contentsBusy (s : State) (k : Fin 4) (c : Chamber) : Bool :=
  (List.finRange 4).any fun o =>
    let d := s.lck.ch[o]
    decide (o ≠ k) && decide (d.st = .armed) &&
    ((c.units.any fun u => d.units.any fun w => decide (w.1 = u.1)) || c.entries.any fun e => d.entries.any fun f => decide (f.1 = e.1))

/-- The ARM rows of R337, 0x0D to 0x14; 0 where none fails. A time outside ±2^47 ticks is TIME_RANGE, not PASSED (R346). -/
def State.armCode (s : State) (k : Fin 4) (c : Chamber) (a : LockAsk) : Nat :=
  let far := a.kind == 2 && decide (s.ticksAhead a.at_ < -(2 ^ 47) ∨ 2 ^ 47 < s.ticksAhead a.at_)
  if !far && s.instantPassed c a false then 0x0D
  else if far then 0x0E
  else if (a.kind = 1 ∨ a.kind = 3) ∧ 8192 < s.bufUsed + c.units.length then 0x0F
  else if s.contentsBusy k c then 0x10
  else if a.kind = 3 ∧ (s.qdc.quires.any fun q => decide (q.plane = a.plane ∧ q.overlay = none ∧ q.first = a.at_)) = false then 0x14
  else 0

/-- The code the check of a chamber sets, 0 when it passes (R337). An empty chamber passes, but for a failed copy (R124), a bad register entry (R335) and a ring lock of kind 0 (R342). -/
def State.checkCode (s : State) (k : Fin 4) (c : Chamber) (a : LockAsk) : Nat :=
  if c.copyFailed then 0x01
  else if a.ring && decide (a.kind = 0) then 0x02
  else if c.badReg then 0x02
  else if c.units.isEmpty && c.entries.isEmpty then 0
  else
    let code := s.contentCode c
    if code ≠ 0 then code
    else if a.arm then s.armCode k c a
    else 0

/-- The channel bytes of a link that differ from 0, as PLK uploads them (R282). -/
def channelBytes (v : TableView) (n : Fin 32) : List (Nat × BitVec 8) :=
  (List.range 8192).filterMap fun i =>
    let b := viewNum v 0x0002 (8192 * n.val + i) 1
    let x := bitsOf b 1 2 + 4 * bitsOf b 3 4
    if x = 0 then none else some (i, BitVec.ofNat 8 x)

end Sys2Proof.Machine
end

