-- ==== Sys2Proof/Machine/Chambers.lean ====
section
/-! DEFINITION. The lock chambers (chapter 16): arming, the effect of their contents, becoming APPLIED or REJECTED, and the channel-bank uploads they wait for (R282). -/

namespace Sys2Proof.Machine

/-- The state with one chamber changed. -/
def State.modChamber (s : State) (k : Fin 4) (f : Chamber → Chamber) : State :=
  { s with lck := { s.lck with ch := modAt s.lck.ch k f } }

/-- The state with one Preaz Link changed. -/
def State.modLink (s : State) (n : Fin 32) (f : Link → Link) : State :=
  { s with plk := { s.plk with link := modAt s.plk.link n f } }

/-- The state with LOP's part of one plane changed. -/
def State.modLoop (s : State) (p : Fin 8) (f : LoopPlane → LoopPlane) : State :=
  { s with lop := { s.lop with plane := modAt s.lop.plane p f } }

/-- A LOOP_EVENT record (R104, R329). -/
def State.loopEvent (s : State) (loop plane event value : Nat) : State :=
  s.log 0x0050 0 loop ([BitVec.ofNat 8 plane, BitVec.ofNat 8 event] ++ leBytes 2 value)

/-- The planes of a mask, ascending. -/
def planesOf (m : BitVec 8) : List (Fin 8) := (List.finRange 8).filter fun p => m.getLsbD p

/-- A change without its part for a plane (R321). -/
def LoopApply.without (a : LoopApply) (p : Fin 8) : LoopApply :=
  { a with
    planes := a.planes &&& ~~~BitVec.twoPow 8 p.val
    entries := a.entries.filter fun e => match stReg e.1 with
      | some (.scr q) | some (.csm q) | some (.fir q) => decide (q ≠ p)
      | some .pos | none => true
    clears := a.clears.filter fun x => decide (x.1 / 32768 ≠ p.val)
    targets := a.targets.filter fun x => decide (x.1 / 32768 ≠ p.val) }

/-- The waiting changes of some loops lose their parts for a plane: the loops make no further update there (R321). -/
def State.dropChanges (s : State) (p : Fin 8) (mine : Nat → Bool) : State :=
  let f := fun a : LoopApply => if mine a.loop then a.without p else a
  { s with lop := { s.lop with waiting := (s.lop.waiting.map f).filter fun a => decide (a.planes ≠ 0) } }

/-- A loop freezes itself on a plane (R321). -/
def State.selfFreeze (s : State) (loop : Nat) (p : Fin 8) (value : Nat) : State :=
  ((s.dropChanges p fun k => decide (k = loop)).modLoop p fun l => { l with
    selfFrozen := l.selfFrozen ||| BitVec.twoPow 3 loop
    dens := if loop = 0 ∧ l.dens = .run then .frozen else l.dens
    coll := if loop = 1 ∧ l.coll = .run then .frozen else l.coll
    noz := if loop = 2 ∧ l.noz = .run then .frozen else l.noz }).loopEvent loop p 0x30 value

/-- The chamber of a loop's change has been REJECTED: CHAMBER_REJECTED on each plane concerned, and the loop freezes itself there (R322). -/
def State.loopRejected (s : State) (loop : Nat) (planes : BitVec 8) (code : Nat) : State :=
  (planesOf planes).foldl (fun (t : State) (p : Fin 8) => (t.loopEvent loop p.val 0x33 code).selfFreeze loop p 0) s

/-- Targets of table 0x0020 take the gains of staged units of table 0x0011 (R326). -/
def State.followGains (s : State) (units : List (Nat × BitVec 512)) : State :=
  units.foldl (fun t u =>
    if unitTable u.1 = 0x0011 then
      t.writeTable 0x0020 (unitOff u.1 / 2) ((List.range 32).map fun i => u.2.extractLsb' (16 * i + 8) 8)
    else t) s

/-- The bytes of a unit. -/
def unitBytes (u : BitVec 512) : List Byte := (List.range 64).map fun i => u.extractLsb' (8 * i) 8

/-- CSM_EMPTY is counted again (R212). -/
def State.countEmpty (s : State) : State := { s with csm := { s.csm with empty := emptyColumns s.liveView } }

/-- Staged units become live (R333, R338); gains take their targets with them (R326), and CSM_EMPTY is counted again where table 0x0001 or 0x0002 changes (R212). -/
def State.unitsLive (s : State) (units : List (Nat × BitVec 512)) : State :=
  let s1 := units.foldl (fun t u => t.writeTable (unitTable u.1) (unitOff u.1) (unitBytes u.2)) s
  let s2 := s1.followGains units
  if units.any fun u => decide (unitTable u.1 = 0x0001 ∨ unitTable u.1 = 0x0002) then s2.countEmpty else s2

/-- One register entry takes effect: a change of σ_p re-anchors the plane first, and X_p follows a new position offset at once (R236, R243, R244). -/
def State.entryLive (s : State) (e : Nat × BitVec 32) : State :=
  match stReg e.1 with
  | some (.fir p) => if e.1 % 0x40 = 8 ∧ s.reg e.1 ≠ e.2 then (s.anchor p).setReg e.1 e.2 else s.setReg e.1 e.2
  | some .pos => (s.setReg e.1 e.2).followPosition
  | _ => s.setReg e.1 e.2

/-- The FIR and POS register contents of a chamber take effect (R338, R339). -/
def State.ctrlLive (s : State) (k : Fin 4) : State :=
  let c := s.lck.ch[k]
  ((c.entries.filter fun e => inCtrl e.1).foldl State.entryLive s).modChamber k fun d => { d with regsDone := true }

/-- The density targets that a twin lock carries reach table 0x0020 (R386). -/
def State.targetsLive (s : State) (ts : List (Nat × BitVec 8)) : State :=
  ts.foldl (fun t x => t.writeTable 0x0020 x.1 [x.2]) s

/-- The links in RUN whose channel ids lie in a staged unit of table 0x0002 (R282). -/
def State.bankLinks (s : State) (c : Chamber) : List (Fin 32) :=
  (List.finRange 32).filter fun n => decide ((s.plk.link[n]).st = .run) &&
    c.units.any fun u => decide (unitTable u.1 = 0x0002 ∧ unitOff u.1 / 8192 = n.val)

/-- Queue an upload of a link's channel bank (R282). -/
def State.queueUpload (s : State) (n : Fin 32) (who : BankFor) : State :=
  s.modLink n fun l => { l with uploads := l.uploads ++ [⟨who, [], none, false, none⟩] }

/-- The SCR and CSM contents of a chamber become live (R187, R213, R338); a link in RUN that was not given the chamber's bank takes the new channel bytes as after any change of the live table (R282). -/
def State.dataLive (s : State) (k : Fin 4) : State :=
  let c := s.lck.ch[k]
  let s1 := ((c.entries.filter fun e => !inCtrl e.1).foldl State.entryLive (s.unitsLive c.units)).targetsLive c.targets
  ((s1.bankLinks c).filter fun n => !c.sent.contains n).foldl (fun (t : State) n => t.queueUpload n .nobody) s1

/-- Uploads of a chamber that no line names yet leave their links. -/
def State.dropUploads (s : State) (k : Fin 4) : State :=
  (List.finRange 32).foldl (fun t n => t.modLink n fun l =>
    { l with uploads := l.uploads.filter fun u => !decide (u.who = .chamber k ∧ u.from_ = none) }) s

/-- LOCK OPEN empties a chamber and opens it (R336). -/
def State.openChamber (s : State) (k : Fin 4) : State :=
  s.modChamber k fun d => { d with
    st := .open_, checked := false, badReg := false, code := 0, entries := [], count := 0, units := [], copyFailed := false
    ask := none, ring := none, held := false, kept := [], copying := false, copied := false, regsDone := false
    used := false, banks := [], sent := [], targets := [] }

/-- Address of a staged unit in the chamber store (R334); its place within the chamber's part is free (log entry 163). -/
def State.storeAddr (s : State) (k : Fin 4) (unit : Nat) : Nat :=
  s.regField 0x260008 26 6 * 2 ^ 26 + s.regField 0x26000C 0 4 * 2 ^ 32 + k.val * 2 ^ 24 + 64 * (Config.storeSlot unit % 2 ^ 18)

/-- A reader of a chamber's units takes one from the chamber store (R133, R338). -/
def State.readStored (s : State) (port : Fin 10) (chamber : Bool) (k : Fin 4) (unit : Nat) : State :=
  if (s.lck.ch[k]).units.any fun u => decide (u.1 = unit) then s.dramReadUnit port (s.storeAddr k unit) 64 chamber else s

/-- Every unit of a chamber is read from the chamber store through port CP: by the check in class 3, by the apply copy in class 0 (R133, R338). -/
def State.readStore (s : State) (k : Fin 4) (apply_ : Bool) : State :=
  (s.lck.ch[k]).units.foldl (fun (t : State) u => t.readStored 7 apply_ k u.1) s

/-- Stage bytes of a table in an OPEN chamber, filling each new unit with its live bytes (R333, R334); the unit goes to the chamber store through the stager's port (log entry 163). -/
def State.stageUnits (s : State) (port : Fin 10) (k : Fin 4) (t off : Nat) (bs : List Byte) : State :=
  (cutUnits (bs.length + 1) (tableKey t off) bs).foldl (fun u p =>
    let key := p.1
    let unit := key / 64
    let old := (List.range 64).map fun i => ((u.lck.ch[k]).stagedByte (64 * unit + i)).getD (u.tableByte (64 * unit + i))
    let new := old.take (key % 64) ++ p.2 ++ old.drop (key % 64 + p.2.length)
    (u.dramPutUnit port (u.storeAddr k unit) new (decide (port = 7))).modChamber k fun d => { d with
      checked := false, units := sparseInsert d.units unit (BitVec.ofNat 512 (leNat new)) }) s

/-- Append a register entry to an OPEN chamber (R333, R335). A later entry for an offset replaces the earlier one. -/
def Chamber.append (c : Chamber) (o : Nat) (v : BitVec 32) : Chamber :=
  if c.st ≠ .open_ then c
  else
    let known := c.entries.any fun e => decide (e.1 = o)
    if (stReg o).isNone ∨ (known = false ∧ 64 ≤ c.entries.length) then { c with badReg := true, checked := false }
    else { c with checked := false, count := if known then c.count else c.count + 1, entries := sparseInsert c.entries o v }

/-- The loop chamber of LOP_CFG (R322). -/
def State.loopChamber (s : State) : Fin 4 := Fin.ofNat 4 (s.regField 0x240000 0 2)

/-- A chamber that LOCK OPEN may open (R336). -/
def Chamber.free (c : Chamber) : Bool := decide (c.st = .applied ∨ c.st = .rejected)

/-- L of a loop's apply and the plane it names: the largest F_p + A_p + 64 over the planes touched (R322). -/
def State.loopInstant (s : State) (planes : BitVec 8) : Fin 8 × Nat :=
  (planesOf planes).foldl (fun (b : Fin 8 × Nat) p =>
    let l := s.fireLine p + s.fetchAdvance p + 64
    if b.2 < l then (p, l) else b) (0, 0)

/-- The unit of a column set with ACTIVE of one slot cleared is staged, with its records (R325): MEMBER_REMOVED, and BOUNDARY where the column also holds REMOTE slots. -/
def State.stageClear (s : State) (k : Fin 4) (x : Nat × Nat) : State :=
  let off := 16 * x.1 + 3 * x.2 + 2
  let old := ((s.lck.ch[k]).stagedByte (tableKey 0x0001 off)).getD (s.tableByte (tableKey 0x0001 off))
  let s1 := (s.stageUnits 7 k 0x0001 off [old &&& 0xF7]).loopEvent 2 (x.1 / 32768) (0x20 + x.2) (x.1 % 32768)
  if (List.range 4).any fun j => let w := viewNum s.liveView 0x0001 (16 * x.1 + 3 * j) 3; w.testBit 18 && w.testBit 20 then
    s1.loopEvent 2 (x.1 / 32768) 0x25 (x.1 % 32768)
  else s1

/-- A loop's change goes into the loop chamber, which is free: opened, staged, and armed at its web line (R322); in a twin pair the contents go to the standby in STAGE, and the lock is a ring lock (R386). -/
def State.stageLoop (s : State) (a : LoopApply) : State :=
  let k := s.loopChamber
  let (plane, l) := s.loopInstant a.planes
  let s1 := (s.openChamber k).modChamber k fun d => { (a.entries.foldl (fun (c : Chamber) e => c.append e.1 e.2) d) with targets := a.targets }
  let s2 := a.clears.foldl (fun (t : State) x => t.stageClear k x) s1
  let twin := decide (s.twn.role ≠ .single)
  let s3 := if twin then s2.twinSend (.stage k (s2.lck.ch[k]).units a.entries a.targets) else s2
  let s4 := if a.loop = 1 then (planesOf a.planes).foldl (fun (t : State) p => t.modLoop p fun x => { x with since := l }) s3 else s3
  s4.modChamber k fun d => { d with waiting := d.waiting ++ [⟨.loop a.loop a.planes, true, 1, plane, l, twin⟩] }

/-- The oldest waiting change of a loop takes the loop chamber once it is free (R322). -/
def State.admitLoops (s : State) : State :=
  match s.lop.waiting with
  | [] => s
  | a :: rest => if (s.lck.ch[s.loopChamber]).free then { s with lop := { s.lop with waiting := rest } }.stageLoop a else s

/-- What an ended CHECK or ARM answers (R99, R336, R342): 0 for APPLIED or a passed check, else the rejection code. The collation loop places its windows anew after an apply (R317). -/
def State.lockAnswer (s : State) (k : Fin 4) (armed : Bool) (a : LockAsk) (code : Nat) : State :=
  match a.who with
  | .entry id => if code = 0 then s.complete id stOk 0 else s.complete id stLockRejected code
  | .ring node => if armed then s.ringSend (.lockOutcome node k (decide (code = 0))) else s.ringSend (.lockReply node k false)
  | .loop l planes => if code ≠ 0 then s.loopRejected l planes code else if l = 1 then s.placeWindows (planesOf planes) else s

/-- A chamber goes REJECTED with a code (R336, R337); a ring lock this device started and has not committed is aborted (R342). -/
def State.rejectCore (s : State) (k : Fin 4) (code : Nat) : State :=
  let c := s.lck.ch[k]
  let s1 := (s.modChamber k fun d => { d with
    st := .rejected, code := BitVec.ofNat 5 code, ask := none, ring := none, held := false, kept := []
    copying := false, copied := false, regsDone := false, banks := [] }).dropUploads k
  let s2 := match c.ring with
    | some r => if r.committed then s1 else s1.ringSend (.lockAbort s1.group k)
    | none => s1
  match c.ask with
  | some a => s2.lockAnswer k (decide (c.st = .armed) && !c.held) a code
  | none => s2

/-- A chamber goes REJECTED with a code; a waiting change of a loop may then take it (R322). -/
def State.rejectChamber (s : State) (k : Fin 4) (code : Nat) : State := (s.rejectCore k code).admitLoops

/-- Every plane a web-line chamber touches that still prints has passed the line: F_p above L for SCR contents, above L + H_p for CSM contents (R187, R213, R339). -/
def State.planesPassed (s : State) (c : Chamber) (l : Nat) : Bool :=
  ((s.scrTouched c).all fun p => !s.planePrints p || decide (l < s.fireLine p)) &&
  (s.csmTouched c).all fun p => !s.planePrints p || decide (l + s.span p < s.fireLine p)

/-- Ring locks of this device applied here end once every participant has reported (R342). -/
def State.ringDone (s : State) (k : Fin 4) : State :=
  let done := (s.lck.ch[k]).ended.filter fun r => r.outcomes.isEmpty
  done.foldl (fun (t : State) r => t.lockAnswer k true r.ask (if r.failed then 0x11 else 0))
    (s.modChamber k fun d => { d with ended := d.ended.filter fun r => !r.outcomes.isEmpty })

/-- An ARMED chamber becomes APPLIED once its register contents have taken effect and every table content is live (R338, R339). -/
def State.finishChamber (s : State) (k : Fin 4) : State :=
  let c := s.lck.ch[k]
  match c.st, c.ask with
  | .armed, some a =>
    let byLine := decide (a.kind = 1 ∨ a.kind = 3)
    if !c.held && c.regsDone && c.copied && (!byLine || s.planesPassed c a.at_) then
      let s1 := (if byLine then s.dataLive k else s).modChamber k fun d => { d with
        st := .applied, ask := none, ring := none, kept := [], copying := false, copied := false, regsDone := false, banks := [] }
      (match c.ring with
        | some r => (s1.modChamber k fun d => { d with ended := d.ended ++ [r] }).ringDone k
        | none => s1.lockAnswer k true a 0).admitLoops
    else s
  | _, _ => s

/-- The first fire line whose fetch on a link maps a web line at or above L: L + O_s of its segments, the least of them (R282). -/
def State.bankLine (s : State) (n : Fin 32) (l : Nat) : Nat :=
  ((minInt ((linkSegs s.liveView n).map fun g => (l : Int) + g.2.offset)).getD l).toNat

/-- The plane of a link, or plane 0 for a link without a segment. -/
def State.planeOf (s : State) (n : Fin 32) : Fin 8 := (linkPlane s.liveView n).getD 0

/-- A launched line that a link has still to send lies below fire line g. -/
def State.linePending (s : State) (n : Fin 32) (g : Nat) : Bool :=
  s.fir.plane.toList.any fun x => x.launched.any fun l => decide (l.line < g) && l.links.any fun k => decide (k.1 = n)

/-- A change of a link's bank takes effect at once where every line to come is at or above its first line and none below is still to be sent (R282; log entry 143). -/
def State.settleBank (s : State) (n : Fin 32) : State :=
  match (s.plk.link[n]).uploads with
  | [] => s
  | u :: rest => match u.bank, u.from_ with
    | some b, some g =>
      if u.valid && decide (g ≤ s.fireLine (s.planeOf n)) && !s.linePending n g then
        s.modLink n fun x => { x with vtab := b, uploads := rest }
      else s
    | _, _ => s

/-- The banks of a chamber are named from a fire line on each link (R282). -/
def State.setBankLines (s : State) (k : Fin 4) (line : Fin 32 → Nat) : State :=
  (List.finRange 32).foldl (fun t n => (t.modLink n fun l =>
    { l with uploads := l.uploads.map fun u => if u.who = .chamber k ∧ u.valid ∧ u.from_ = none then { u with from_ := some (line n) } else u }).settleBank n) s

/-- The copy of a chamber into the live tables has nothing to move. -/
def Chamber.noCopy (c : Chamber) : Bool := c.units.isEmpty && c.targets.isEmpty && c.entries.all fun e => inCtrl e.1

/-- The apply copy has ended: for a next-line or time instant the SCR and CSM contents become live (R338); then APPLIED if nothing is left. -/
def State.copyEnded (s : State) (k : Fin 4) : State :=
  let c := s.lck.ch[k]
  match c.ask with
  | none => s
  | some a =>
    let s1 := if a.kind = 1 ∨ a.kind = 3 then s else (s.dataLive k).setBankLines k fun n => s.fireLine (s.planeOf n)
    (s1.modChamber k fun d => { d with copied := true }).finishChamber k

/-- Order the apply copy once the instant allows it and every link has its bank VALID (R282, R338); at a web line, channel-table contents are tested for a passed instant here. -/
def State.orderCopy (s : State) (k : Fin 4) : State :=
  let c := s.lck.ch[k]
  match c.st, c.ask with
  | .armed, some a =>
    let byLine := decide (a.kind = 1 ∨ a.kind = 3)
    if !c.held && c.banks.isEmpty && !c.copying && (byLine || c.regsDone) then
      if byLine && c.hasChannels && s.instantPassed c a true then s.rejectChamber k 0x0D
      else
        let s1 := s.modChamber k fun d => { d with copying := true }
        let s2 := if byLine then s1.setBankLines k fun n => s1.bankLine n a.at_ else s1
        if c.noCopy then s2.copyEnded k else s2
    else s.finishChamber k
  | _, _ => s

/-- The units a web-line chamber displaces, as they are now (R340). -/
def State.displaced (s : State) (c : Chamber) : List (Nat × BitVec 512) :=
  c.units.map fun u => (u.1, BitVec.ofNat 512 (leNat (readRange s.tableByte (64 * u.1) 64)))

/-- The named plane of a web-line chamber no longer holds its registers back: it does not print, or F_p has reached L (R339). -/
def State.regsDue (s : State) (a : LockAsk) : Bool := !s.planePrints a.plane || decide (a.at_ ≤ s.fireLine a.plane)

/-- An ARMED chamber past the wait of a ring lock applies as its instant kind requires (R338, R339). A next-line instant of a plane in neither RUN nor CLOSING is at once. -/
def State.beginApply (s : State) (k : Fin 4) : State :=
  let c := s.lck.ch[k]
  match c.ask with
  | none => s
  | some a =>
    if a.kind = 1 ∨ a.kind = 3 then
      (if s.regsDue a then s.ctrlLive k else s).orderCopy k
    else if a.kind = 0 ∧ (s.fir.plane[a.plane]).phase ≠ .run ∧ (s.fir.plane[a.plane]).phase ≠ .closing then (s.ctrlLive k).orderCopy k
    else s

/-- A next-line or time instant has come (R338). -/
def State.instantCome (s : State) (k : Fin 4) : State :=
  let c := s.lck.ch[k]
  match c.st, c.ask with
  | .armed, some a => if !c.held && !c.regsDone && decide (a.kind = 0 ∨ a.kind = 2) then (s.ctrlLive k).orderCopy k else s
  | _, _ => s

/-- A chamber has become ARMED: uploads of its channel banks fall due on every link that carries a staged unit (R282). -/
def State.queueBanks (s : State) (k : Fin 4) : State :=
  let c := s.lck.ch[k]
  let ls := s.bankLinks c
  (ls.foldl (fun t n => t.queueUpload n (.chamber k)) s).modChamber k fun d => { d with banks := ls, sent := ls }

/-- A link no longer holds a chamber back: its bank is VALID, or it has left RUN (R282). -/
def State.bankSettled (s : State) (k : Fin 4) (n : Fin 32) : State :=
  (s.modChamber k fun d => { d with banks := d.banks.filter (· ≠ n) }).orderCopy k

/-- Participants of a ring lock: the live nodes of the web group that take part (R342; how a device knows them, log entry 29). -/
def State.participants (s : State) : List (BitVec 10) :=
  (s.urg.nodes.filter fun n => decide (n.group = s.group) && n.accepts).map (·.node)

/-- Every participant has replied ARMED: COMMIT while the margin of R342 holds, else ABORT and code PEER. -/
def State.ringCommit (s : State) (k : Fin 4) : State :=
  let c := s.lck.ch[k]
  match c.ring, c.ask with
  | some r, some a =>
    let margin := s.regField 0x260000 16 16
    let inTime := if a.kind = 2 then decide (s.timeNs + 1000 * margin ≤ a.at_) else decide (s.fireLine a.plane + margin ≤ a.at_)
    if inTime then
      (s.modChamber k fun d => { d with held := false, ring := some { r with committed := true, outcomes := r.all } }).ringSend
        (.lockCommit s.group k) |>.beginApply k
    else s.rejectChamber k 0x11
  | _, _ => s

/-- A chamber has passed the check for an ARM and becomes ARMED; a web-line chamber keeps the units it displaces (R336, R338, R340, R342). -/
def State.armChamber (s : State) (k : Fin 4) (a : LockAsk) : State :=
  let wait := a.ring || (match a.who with | .ring _ => true | _ => false)
  let a1 := if a.kind = 0 then { a with at_ := s.fireLine a.plane } else a
  let old := if a.kind = 1 ∨ a.kind = 3 then s.displaced s.lck.ch[k] else []
  let s1 := (s.modChamber k fun d => { d with
    st := .armed, ask := some a1, held := wait, kept := old, copying := false, copied := false, regsDone := false, used := false }).queueBanks k
  match a.who with
  | .ring node => s1.ringSend (.lockReply node k true)
  | _ =>
    if a.ring then
      let ps := s1.participants
      let s2 := (s1.modChamber k fun d => { d with ring := some ⟨ps, ps, false, [], false, a1⟩ }).ringSend
        (.lockArm s1.group k a.kind a.plane a.at_)
      if ps.isEmpty then s2.ringCommit k else s2
    else s1.beginApply k

/-- The check of a CHECKING chamber ends (R336, R337). -/
def State.endCheck (s : State) (k : Fin 4) : State :=
  let c := s.lck.ch[k]
  match c.st, c.ask with
  | .checking, some a =>
    let code := s.checkCode k c a
    if code ≠ 0 then s.rejectChamber k code
    else if a.arm then s.armChamber k a
    else (s.modChamber k fun d => { d with st := .open_, checked := true, ask := none }).lockAnswer k false a 0
  | _, _ => s

/-- An asker is still there: an entry that its ring has not aborted meanwhile (R90). -/
def State.askLives (s : State) (a : LockAsk) : Bool :=
  match a.who with
  | .entry id => (s.flight? id).isSome
  | _ => true

/-- What F_p's rise, a RESUME_FWD or a plane's end of printing means for the chambers: registers that fall due take effect, and chambers whose planes have passed become APPLIED (R338, R339). -/
def State.chambersFollow (s : State) : State :=
  (List.finRange 4).foldl (fun t k =>
    let c := t.lck.ch[k]
    match c.st, c.ask with
    | .armed, some a =>
      if (a.kind = 1 ∨ a.kind = 3) ∧ c.held = false then
        let t1 := if !c.regsDone && t.regsDue a then t.ctrlLive k else t
        t1.finishChamber k
      else t
    | _, _ => t) s

end Sys2Proof.Machine
end

