-- ==== Sys2Proof/Machine/Press.lean ====
section
/-! DEFINITION. Planes under FIR (chapter 12): stops and their causes, seams, arming, commit, launch, closing, JOB_OPEN and the forward resume. -/

namespace Sys2Proof.Machine

/-- The device computes lines and does not transmit them: a twin standby, or one that joins (R374, R383, R384). -/
def State.standsBy (s : State) : Bool := decide (s.twn.role = .standby ∨ s.twn.role = .joining)

/-- A plane fires: RUN or CLOSING (R256). -/
def Plane.firing (p : Plane) : Bool := decide (p.phase = .run ∨ p.phase = .closing)

/-- A cause bit as TAKE_BLOCK records it (R383): FIRE_ENABLE, POSITION, HOST, DATA_LATE. -/
def blockBit : Nat → Option Nat
  | 2 => some 0
  | 4 => some 1
  | 5 => some 2
  | 0 => some 3
  | _ => none

/-- The state with TWN's part of one plane changed. -/
def State.modTwin (s : State) (p : Fin 8) (f : TwinPlane → TwinPlane) : State :=
  { s with twn := { s.twn with plane := modAt s.twn.plane p f } }

/-- The last web line a plane prints, once it closes (R262). -/
def State.closeLine (s : State) (p : Fin 8) : Option Nat :=
  let pl := s.fir.plane[p]
  if pl.phase = .closing ∨ pl.phase = .hold ∨ pl.phase = .armed then pl.close.map (·.last) else none

/-- Entries of a JOB_CLOSE that no plane still holds complete: OK, or ABORTED where a plane's part was aborted (R262). -/
def State.closeDone (s : State) (ids : List Nat) : State :=
  ids.foldl (fun (t : State) id =>
    if t.fir.plane.toList.any fun p => (match p.close with | some c => c.flights.contains id | none => false) then t
    else match t.flight? id with
      | none => t
      | some f => t.complete id (if f.superseded then stAborted else stOk) 0) s

/-- The restore period of R63 ends for a plane, and for the device with its last plane. -/
def State.endRestore (s : State) (p : Fin 8) : State :=
  let m := s.fir.restorePlanes &&& ~~~(BitVec.ofNat 8 (2 ^ p.val))
  { s with fir := { s.fir with restorePlanes := m, restoreTables := if m = 0 then [] else s.fir.restoreTables } }

/-- A CLOSING plane has launched every line up to L + M_p and goes IDLE (R262). -/
def State.closeCheck (s : State) (p : Fin 8) : State :=
  let pl := s.fir.plane[p]
  match pl.phase, pl.close with
  | .closing, some c =>
    if (c.last : Int) + s.depth p ≤ (pl.next : Int) - 1 then
      (((s.modPlane p fun x => { x with
        phase := .idle, close := none, committed := [], commit := x.next, cause := 0, peerOf := none }).endRestore p).closeDone c.flights).chambersFollow
    else s
  | _, _ => s

/-- The live gain of a column id (table 0x0011, byte 1). -/
def State.gainOf (s : State) (c : Nat) : Byte := s.tableByte (tableKey 0x0011 (2 * c + 1))

/-- The target of a column id (table 0x0020). -/
def State.targetOf (s : State) (c : Nat) : Byte := s.tableByte (tableKey 0x0020 c)

/-- One glide step of a gain toward its target (R327). -/
def glideTo (gain target : Byte) (step : Nat) : Byte :=
  let g := gain.toInt
  let t := target.toInt
  BitVec.ofInt 8 (if g < t then min t (g + step) else max t (g - step))

/-- The columns of a plane whose gain and target can differ: those with a listed target, then those with a listed gain and target 0. -/
def State.glideColumns (s : State) (p : Fin 8) : List Nat :=
  let inPlane := fun c : Nat => decide (c / 32768 = p.val)
  (s.tables.filterMap fun e =>
    if 0x20000000 ≤ e.1 ∧ e.1 < 0x20000000 + 262144 ∧ inPlane (e.1 - 0x20000000) then some (e.1 - 0x20000000) else none) ++
  s.tables.filterMap fun e =>
    let o := e.1 - 0x11000000
    if 0x11000000 ≤ e.1 ∧ o < 524288 ∧ o % 2 = 1 ∧ inPlane (o / 2) ∧ s.targetOf (o / 2) = 0 then some (o / 2) else none

/-- The glide unit steps the columns whose stepping line F_p has reached (R327). -/
def State.glideStep (s : State) (p : Fin 8) : State :=
  let o := 0x240100 + 0x20 * p
  let k := s.regField o 8 16
  if k = 0 || !s.blkUp .lop then s
  else (s.glideColumns p).foldl (fun (t : State) c =>
    if (s.fireLine p + 173 * (c % 32768)) % k = 0 then
      t.writeTable 0x0011 (2 * c + 1) [glideTo (t.gainOf c) (t.targetOf c) (max 1 (min 8 (s.regField o 24 4)))]
    else t) s

/-- W_p (R311). -/
def State.printedLine (s : State) (p : Fin 8) : Int := (s.fir.plane[p]).last - s.depth p

/-- Bands whose end W_p of every plane has just passed take the time (R315). -/
def State.bandsPass (s : State) : State :=
  { s with lop := { s.lop with bands := s.lop.bands.map fun b =>
      if b.passedAt.isNone && (planesOf b.mask).all fun p => decide ((b.first + b.count : Nat) ≤ s.printedLine p + 1) then { b with passedAt := some s.now } else b } }

/-- What FIRED and RETIRED read after F_p has moved (R107): RETIRED the line below which all is released, FIRED the last line its foremost segment has fired; neither falls (log entry 31). -/
def State.publish (s : State) (p : Fin 8) : State :=
  s.modPlane p fun x => { x with
    retired := max x.retired (s.releaseLine p)
    fired := max x.fired ((x.next : Int) - 1 - s.offMin p).toNat }

/-- F_p has risen: what it releases and sets in motion (R190, R191, R311, R327, R339). -/
def State.lineFollow (s : State) (p : Fin 8) : State :=
  ((((s.publish p).advanceReady p).glideStep p).bandsPass).chambersFollow

/-- The fetch of a line on a link is complete: every segment of the link has been mapped (R207, R218). -/
def State.fetchDone (s : State) (k : Fin 32) (n : Nat) : Bool :=
  match (s.csm.link[k]).fetch.find? fun b => decide (b.line = n) with
  | none => false
  | some b => (linkSegs s.liveView k).all fun g => b.done.contains g.1

/-- A web line that a segment of a link is to fetch for fire line n cannot be read yet (R162, R191, R192): none below 0 or past a close. -/
def State.lineMissing (s : State) (p : Fin 8) (k : Fin 32) (n : Nat) : Bool :=
  (linkSegs s.liveView k).any fun g =>
    let m := (n : Int) - g.2.offset
    decide (0 ≤ m) && !(match s.closeLine p with | some l => decide ((l : Int) < m) | none => false) && !s.lineReadable p m.toNat

/-- A link keeps a line from launching: its gutter is RUNNING and the line is not complete (R215, R248). A gutter that has not begun to transmit waits for its first complete line, and keeps a line back only where its web lines cannot be read (R162, R192; log entry 140). -/
def State.linkLate (s : State) (p : Fin 8) (k : Fin 32) (n : Nat) : Bool :=
  decide ((s.csm.link[k]).state = .running) && ((s.csm.link[k]).joined || s.lineMissing p k n) && !s.fetchDone k n

/-- Gutters that have become RUNNING transmit from their first complete line (R215). -/
def State.joinLinks (s : State) (l : FireLine) : State :=
  l.links.foldl (fun (t : State) k =>
    if (t.csm.link[k.1]).state = .running ∧ t.fetchDone k.1 l.line then
      { t with csm := { t.csm with link := modAt t.csm.link k.1 fun g => { g with joined := true } } }
    else t) s

/-- The links of a line whose gutters transmit (R215). -/
def State.linksOn (s : State) (l : FireLine) : BitVec 32 :=
  l.links.foldl (fun m k => if (s.csm.link[k.1]).state = .running ∧ (s.csm.link[k.1]).joined then m ||| BitVec.twoPow 32 k.1.val else m) 0

/-- This device transmits a line: it is SINGLE or ACTIVE, and a planned swap has not given the line to its twin (R374, R388). -/
def State.transmits (s : State) (p : Fin 8) (n : Nat) : Bool :=
  let pl := s.fir.plane[p]
  let given := match pl.swapAt with | some l => decide (l ≤ n) | none => false
  match s.twn.role with
  | .single => true
  | .active => decide (pl.sendFrom ≤ n) && !given
  | .standby => pl.swapAt.isSome && !given
  | .joining | .failed => false

/-- This device works as one of a pair: it compares lines with its twin (R374, R376). -/
def State.paired (s : State) : Bool := decide (s.twn.role = .active ∨ s.twn.role = .standby ∨ s.twn.role = .joining)

/-- An error of R377 on a plane within ERR_WIN ms before now. -/
def State.errorNear (s : State) (p : Fin 8) : Bool :=
  match (s.twn.plane[p]).errAt with
  | some t => decide (s.now ≤ t + 2000000 * max 1 (s.regField 0x2C0004 12 8))
  | none => false

/-- The SIG of a launched line is begun, its ERR as at the plane launch deadline (R376, R377). -/
def State.openSig (s : State) (p : Fin 8) (l : FireLine) : State :=
  if s.paired && !l.links.isEmpty then { s with twn := { s.twn with forming := s.twn.forming ++ [⟨p, l.line, s.errorNear p, []⟩] } } else s

/-- A line is launched at its plane launch deadline (R248): F_p rises, and each link will transmit it at its own deadline. -/
def State.launchLine (s : State) (p : Fin 8) (l : FireLine) : State :=
  let s0 := s.joinLinks l
  let sent := { l with sends := s.transmits p l.line, on := s0.linksOn l }
  let s1 := s0.modPlane p fun x => { x with
    next := l.line + 1, last := l.line, commit := max x.commit (l.line + 1), committed := x.committed.drop 1
    launched := if l.links.isEmpty then x.launched else x.launched ++ [sent]
    prevGap := x.lastStamp.map fun t => (diff48 l.stamp t).toNat
    lastStamp := some l.stamp }
  ((s1.openSig p l).lineFollow p).closeCheck p

/-- The received STAMP of a line on a standby (R375). -/
def State.stampOf (s : State) (p : Fin 8) (n : Nat) : Option (Nat × Nat) :=
  if s.standsBy then ((s.twn.plane[p]).stamps.find? fun x => decide (x.1 = n)).map (·.2) else none

/-- On a twin standby the line the STAMP of the active came for takes its stamp and T_f; a line without one counts as STAMP_LATE (R375). -/
def State.adoptStamp (s : State) (p : Fin 8) (l : FireLine) : FireLine × State :=
  if !s.standsBy then (l, s)
  else match s.stampOf p l.line with
    | some (t, tf) =>
      ({ l with stamp := t, tf := tf }, s.modTwin p fun x => { x with stamps := x.stamps.filter fun y => decide (l.line < y.1) })
    | none => (l, { s with twn := { s.twn with stampLate := satInc s.twn.stampLate } })

/-- The oldest committed line of a plane whose plane launch deadline has come, with FIR and FIRE_CLK running (R248). -/
def State.lineDueNow (s : State) (p : Fin 8) : Option FireLine :=
  match (s.fir.plane[p]).committed with
  | [] => none
  | l :: _ => if s.blkUp .fir && s.clkRuns 0 && decide (diff48 l.deadline s.fireTick ≤ 0) then some l else none

/-- A line is not complete on every link at its plane launch deadline (R248); with CORE_CLK stopped none is (R83). -/
def State.lineLate (s : State) (p : Fin 8) (l : FireLine) : Bool := (l.links.any fun k => s.linkLate p k.1 l.line) || !s.clkRuns 4

/-- The complete lines of a firing plane whose deadlines have come are launched, before what meets the deadline acts (R263). -/
def State.launchPassed : Nat → State → Fin 8 → State
  | 0, s, _ => s
  | k + 1, s, p =>
    match s.lineDueNow p with
    | none => s
    | some l0 =>
      let (l, s1) := s.adoptStamp p l0
      if s1.lineLate p l then s else launchPassed k (s1.launchLine p l) p

/-- The lines of every plane whose deadlines have come are tested and launched (R263). -/
def State.launchAllPassed (s : State) : State :=
  (List.finRange 8).foldl (fun (t : State) p => State.launchPassed (t.fir.plane[p]).committed.length t p) s

/-- One plane takes a stop cause (R254, R256): in RUN or CLOSING it withdraws its unlaunched lines, records its seam and holds; in ARMED it holds at the seam it has; in HOLD the cause is added. -/
def State.takeCause (s : State) (p : Fin 8) (bit : Nat) : State :=
  let pl := s.fir.plane[p]
  let c := pl.cause ||| BitVec.ofNat 8 (2 ^ bit)
  match pl.phase with
  | .idle => s
  | .hold => s.modPlane p fun x => { x with cause := c }
  | .armed => s.modPlane p fun x => { x with cause := c, phase := .hold }
  | _ => s.modPlane p fun x => { x with
      cause := c, phase := .hold, committed := [], commit := x.next
      seam := (x.next : Int) - 1 - s.span p, seamValid := true, seamSpan := (s.span p, s.depth p)
      stops := x.stops + 1 }

/-- The log record of a stop on a plane, by the first cause (R253): the OVERSPEED record is written later, from the highest Φ_p (R252). -/
def State.stopRecord (s : State) (p : Fin 8) (bit : Nat) : State :=
  let seam := lineBytes (s.fir.plane[p]).seam
  match bit with
  | 0 => s.log 0x0020 2 p seam
  | 1 => s.modPlane p fun x => { x with overPos := some ((x.overPos.getD (s.coord p))) }
  | 2 => s.log 0x0023 1 p seam
  | _ => s

/-- Planes as a mask. -/
def maskOf (ps : List (Fin 8)) : BitVec 8 := ps.foldl (fun m p => m ||| BitVec.ofNat 8 (2 ^ p.val)) 0

/-- STOP and STATE go to the web group: RING_STOP is set and the device is no standby (R365, R384). -/
def State.tellsRing (s : State) : Bool := s.regBit 0x160000 18 && !s.standsBy

/-- Lines that a stop finds at their plane launch deadline and not complete are data-late with it: DATA_LATE joins the causes, with the same seam (R263). -/
def State.lateWith (s old : State) (ps : List (Fin 8)) : State :=
  ps.foldl (fun (t : State) p =>
    match old.lineDueNow p with
    | none => t
    | some l => ((t.takeCause p 0).stopRecord p 0).countEvent 0x31 l.links.length {}) s

/-- A cause asserts on planes at one instant (R253 to R255, R263): lines whose deadlines have come are tested first; each plane takes the cause with its own seam; with STOP_ALL the other firing planes take PEER; the ring hears of the stop. -/
def State.stopPlanes (s0 : State) (ps : List (Fin 8)) (bit : Nat) : State :=
  let s := s0.launchAllPassed
  let fresh := ps.filter fun p => s.planePrints p && !(s.fir.plane[p]).cause.getLsbD bit
  let firing := fresh.filter fun p => (s.fir.plane[p]).firing
  let s1 := fresh.foldl (fun (t : State) p => t.takeCause p bit) s
  let peers := match firing with
    | [] => []
    | _ :: _ => if s.regBit 0x160000 17 then (List.finRange 8).filter fun p => (s1.fir.plane[p]).firing else []
  let s2 := peers.foldl (fun (t : State) p => (t.takeCause p 6).modPlane p fun x => { x with peerOf := firing.head? }) s1
  let s3 := ((fresh ++ peers).foldl (fun (t : State) p => t.stopRecord p bit) s2).lateWith s
    (if bit = 0 ∨ s.standsBy then [] else firing ++ peers)
  if firing.isEmpty || !s3.tellsRing then s3 else s3.ringSend (.stop s3.group (maskOf (firing ++ peers)))

/-- A cause of R253 asserts; on a twin standby FIRE_ENABLE, POSITION, HOST and DATA_LATE are only recorded (R383). -/
def State.assertCause (s : State) (ps : List (Fin 8)) (bit : Nat) : State :=
  match if s.standsBy then blockBit bit else none with
  | some b => (ps.filter s.planePrints).foldl (fun (t : State) p => { t with twn := { t.twn with block := modAt t.twn.block p fun m => m ||| BitVec.ofNat 4 (2 ^ b) } }) s
  | none => s.stopPlanes ps bit

/-- Cause PEER goes once every cause of the plane that stopped first is cleared (R253). -/
def State.settlePeers (s : State) : State :=
  (List.finRange 8).foldl (fun (t : State) p =>
    match (t.fir.plane[p]).peerOf with
    | none => t
    | some q => if (t.fir.plane[q]).cause = 0 then
        t.modPlane p fun x => { x with cause := x.cause &&& ~~~(0x40#8), peerOf := none }
      else t) s

/-- A cause clears on planes (R253). -/
def State.clearCause (s : State) (ps : List (Fin 8)) (bit : Nat) : State :=
  (ps.foldl (fun (t : State) p =>
    let t1 := t.modPlane p fun x => { x with cause := x.cause &&& ~~~(BitVec.ofNat 8 (2 ^ bit)) }
    match blockBit bit with
    | some b => { t1 with twn := { t1.twn with block := modAt t1.twn.block p fun m => m &&& ~~~(BitVec.ofNat 4 (2 ^ b)) } }
    | none => t1) s).settlePeers

/-- FIR_AHEAD (R265). -/
def State.aheadLines (s : State) : Nat := max 16 (s.regField 0x160008 0 16)

/-- DATA_LATE may clear (R63, R253): every line the first AHEAD fire lines after the seam will fetch can be fetched, and in a restore period H_p and M_p match the seam. -/
def State.dataReady (s : State) (p : Fin 8) : Bool :=
  let pl := s.fir.plane[p]
  let last := s.closeLine p
  ((planeOffsets s.liveView p).all fun o => (List.range s.aheadLines).all fun k =>
    let m := (pl.next + k : Nat) - o
    decide (m < 0) || (match last with | some l => decide ((l : Int) < m) | none => false) || s.lineReadable p m.toNat) &&
  (!s.fir.restorePlanes.getLsbD p || decide (pl.seamSpan = (s.span p, s.depth p)))

/-- DATA_LATE clears on the planes whose lines are there again (R253). -/
def State.clearLate (s : State) : State :=
  (List.finRange 8).foldl (fun (t : State) p =>
    if ((t.fir.plane[p]).cause.getLsbD 0 || (t.twn.block[p]).getLsbD 3) && t.dataReady p then t.clearCause [p] 0 else t) s

/-- FIR_RESUME.RUNUP (R257). -/
def State.runup (s : State) : Nat := max 64 (s.regField 0x160004 0 20)

/-- A holding plane with every cause cleared and Φ_p at least RUNUP below F_p becomes ARMED (R256, R257). -/
def State.armPlanes (s : State) : State :=
  (List.finRange 8).foldl (fun (t : State) p =>
    let pl := t.fir.plane[p]
    if pl.phase = .hold ∧ pl.cause = 0 ∧ t.coord p ≤ ((pl.next : Int) - t.runup) * 65536 then t.modPlane p fun x => { x with phase := .armed } else t) s

/-- STATE goes to the web group when a plane has changed state (R365). -/
def State.report (s old : State) : State :=
  if s.tellsRing && decide ((s.fir.plane.toList.map (·.phase)) ≠ old.fir.plane.toList.map (·.phase)) then
    s.ringSend (.state s.group (s.fir.plane.map (·.phase)))
  else s

/-- What follows from any change of position, causes or ring contents (R253, R256): DATA_LATE and PEER clear where they may, planes arm, and the ring hears of state changes. -/
def State.settle (s old : State) : State := (s.clearLate.settlePeers.armPlanes).report old

/-- The OVERSPEED record of a plane, once the range it covers is known (R252). -/
def State.overRecord (s : State) (p : Fin 8) : State :=
  match (s.fir.plane[p]).overPos with
  | none => s
  | some m =>
    (s.modPlane p fun x => { x with overPos := none }).log 0x0022 2 p
      (lineBytes ((s.fir.plane[p]).seam + 1) ++ lineBytes (m / 65536 - s.offMin p))

/-- OVERSPEED clears, and its records are written, when the direction state leaves FWD or the main channel stands still (R252, R253). -/
def State.overEnds (s : State) : State :=
  ((List.finRange 8).foldl (fun (t : State) p => t.overRecord p) s).clearCause (List.finRange 8) 1

/-- A plane enters RUN, or CLOSING where a JOB_CLOSE waits on it (R256, R262). -/
def State.enterRun (s : State) (p : Fin 8) : State :=
  ((s.modPlane p fun x => { x with
    phase := if x.close.isSome then .closing else .run, seamValid := false, peerOf := none, reach := x.x, behind := false }).endRestore p).closeCheck p

/-- The smallest stamp distance of a due line to now: T_min after the line before it (R250). -/
def State.earliest (s : State) (p : Fin 8) : Option Int :=
  let pl := s.fir.plane[p]
  let prev := match pl.committed.getLast? with
    | some l => some l.stamp
    | none => pl.lastStamp
  prev.map fun t => diff48 t s.fireTick + s.tmin p

/-- The stamp of a due line relative to now (R247, R250). -/
def State.dueStamp (s : State) (p : Fin 8) (rel : Int) : Int :=
  let t := max rel (s.launchLead p)
  match s.earliest p with
  | none => t
  | some e => max t e

/-- T_f for a line with a given stamp (R246). -/
def State.nextGap (s : State) (p : Fin 8) (n : Nat) (stamp : Int) (speed : Int × Nat) : Nat :=
  match s.predict p (n + 1) speed with
  | some r => (max r (stamp + s.tmin p) - stamp).toNat
  | none => (s.fir.plane[p]).prevGap.getD 0

/-- A committed line: its stamp and every deadline fixed (R247, R248). -/
def State.fixLine (s : State) (p : Fin 8) (n : Nat) (stamp : Int) (tf : Nat) : FireLine :=
  let at_ := fun r : Int => unsigned 48 ((s.fireTick : Int) + r)
  { line := n, stamp := at_ stamp, tf := tf, deadline := at_ (stamp - s.planeLat p - s.guardTicks)
    links := (planeLinks s.liveView p).map fun k => (k, at_ (stamp - (s.plk.link[k]).lat - s.guardTicks)), sends := true }

/-- The STAMP payload (R375). -/
def stampBytes (p : Fin 8) (l : FireLine) : List Byte :=
  leBytes 1 p.val ++ leBytes 6 l.line ++ leBytes 6 l.stamp ++ leBytes 3 (min l.tf 0xFFFFFF)

/-- Line C_p is committed with a stamp (R247, R251, R256): from ARMED the plane enters RUN, and SEAM_RESUME is written. -/
def State.commitLine (s : State) (p : Fin 8) (stamp : Int) (tf lag : Nat) : State :=
  let pl := s.fir.plane[p]
  let l := s.fixLine p pl.commit stamp tf
  let s1 := s.modPlane p fun x => { x with
    commit := x.commit + 1, committed := x.committed ++ [l], lag := lag, maxLag := max x.maxLag lag }
  let s2 := (if s.twn.role = .active then s1.twinSend (.stamp (stampBytes p l)) else s1).countEvent 0x32 1 {}
  if pl.phase = .armed then
    ((s2.modPlane p fun x => { x with resumes := x.resumes + 1 }).log 0x0021 0 p (lineBytes pl.seam)).enterRun p
  else s2

/-- A lag in 1/65536 line as the register holds it: from 0, saturating (R251, R265). -/
def lagReg (e : Int) : Nat := min 0xFFFF e.toNat

/-- FIR may commit a line of a plane: it fires or is ARMED, it has an X_p (R233), and after a reversal X_p has passed P_p again (R235; log entry 154). -/
def Plane.mayCommit (pl : Plane) : Bool := pl.origin.isSome && (decide (pl.phase = .armed) || (pl.firing && !pl.behind))

/-- Commit line C_p of a plane when it is due (R245, R247, R251); a standby takes the active's stamp where it has arrived (R375). Nothing else changes anything (log entry 4). -/
def State.commitDue (s : State) (p : Fin 8) : State :=
  let pl := s.fir.plane[p]
  if !s.blkUp .fir || !s.clkRuns 0 || s.twn.yielded || !pl.mayCommit then s
  else match s.stampOf p pl.commit with
    | some (t, tf) => s.commitLine p (diff48 t s.fireTick) tf pl.lag
    | none =>
      match s.forwardSpeed with
      | none => s
      | some v =>
        match s.predict p pl.commit v with
        | none => s
        | some rel =>
          if (s.launchLead p : Int) < rel then s
          else
            let stamp := s.dueStamp p rel
            let lag := s.predictCoord p stamp v - (pl.commit * 65536 : Nat)
            if 32768 < lag then s.stopPlanes [p] 1
            else s.commitLine p stamp (s.nextGap p pl.commit stamp v) (lagReg lag)

/-- A standby is data-late on a line (R374, R383): recorded, and it goes back to JOINING once the active is known to have launched the line. -/
def State.standbyLate (s : State) (p : Fin 8) (n : Nat) : State :=
  let s1 := (s.assertCause [p] 0).modTwin p fun x => { x with late := some n }
  if s.twn.role = .standby ∧ (s.twn.peer.any fun g => decide (g.plane = p ∧ g.line = n)) then
    { s1 with twn := { s1.twn with role := .joining, plane := s1.twn.plane.map fun x => { x with match_ := 0, late := none } } }
  else s1

/-- The plane launch deadline of the oldest committed line has come (R22, R248): the line is launched, or data-late for its plane. -/
def State.launchDue (s : State) (p : Fin 8) : State :=
  match s.lineDueNow p with
  | none => s
  | some l0 =>
    let (l, s1) := s.adoptStamp p l0
    if s1.lineLate p l then
      if s1.standsBy then (s1.standbyLate p l.line).launchLine p l else (s1.stopPlanes [p] 0).countEvent 0x31 l.links.length {}
    else s1.launchLine p l

/-- The stop causes that hold as a level when a plane starts: FIRE_ENABLE, ENCODER, POSITION, HOST (R48, R230, R253; log entry 32). -/
def State.levelCauses (s : State) (p : Fin 8) : List Nat :=
  (if s.pins.fireEnable then [] else [2]) ++
  (if s.regBit 0x140000 3 && (s.pos.ch[s.mainChannel]).fault then [3] else []) ++
  (if s.usesTide && !s.tideReady then [4] else []) ++
  (if s.fir.stop.getLsbD p then [5] else [])

/-- Row group of a channel of a link (R204). -/
def rowGroup (v : TableView) (n : Fin 32) (i : Nat) : Nat := bitsOf (viewNum v 0x0002 (8192 * n.val + i) 1) 3 4

/-- Level of a channel in the line that the gutter builds for fire line f (R208): from the fetch stage, or from the slot of f − D_g. -/
def State.gutterLevel (s : State) (n : Fin 32) (f : Nat) (slots : List (Nat × List (Nat × Nat))) (buf : List (Nat × Nat)) (i : Nat) : Nat :=
  let d := s.rowDelay s.liveView n (rowGroup s.liveView n i)
  let q := s.gutterDepth
  if d = 0 then sparseGet 0 buf i
  else sparseGet 0 (sparseGet [] slots ((f + q - d) % q)) i

/-- The levels above 0 of such a line, by channel index. -/
def State.gutterLevels (s : State) (n : Fin 32) (f : Nat) (slots : List (Nat × List (Nat × Nat))) (buf : List (Nat × Nat)) : List (Nat × Nat) :=
  (List.range 8192).filterMap fun i =>
    let l := s.gutterLevel n f slots buf i
    if l = 0 then none else some (i, l)

/-- Levels in the fetch stage of a link for a fire line. -/
def State.fetchLevels (s : State) (n : Fin 32) (f : Nat) : List (Nat × Nat) :=
  (((s.csm.link[n]).fetch.find? fun b => decide (b.line = f)).map FetchBuf.levels).getD []

/-- The lines of a plane that a link has still to transmit (R248). -/
def State.linesOwed (s : State) (p : Fin 8) (n : Fin 32) : List FireLine :=
  (s.fir.plane[p]).launched.filter fun l => l.on.getLsbD n.val && (l.links.any fun k => decide (k.1 = n)) &&
    !((s.csm.link[n]).owed.any fun o => decide (o.1 = l.stamp))

/-- What a link's gutter keeps of lines launched before a JOB_OPEN: they are sent as they stand (R208, R263). -/
def State.oweLines (s : State) (p : Fin 8) (n : Fin 32) : List (Nat × List (Nat × Nat)) :=
  let g := s.csm.link[n]
  ((s.linesOwed p n).foldl (fun (a : List (Nat × List (Nat × Nat)) × List (Nat × List (Nat × Nat))) l =>
    let buf := s.fetchLevels n l.line
    (sparseSet [] a.1 (l.line % s.gutterDepth) buf, a.2 ++ [(l.stamp, s.gutterLevels n l.line a.1 buf)])) (g.slots, g.owed)).2

/-- Gutters of a plane's links at a JOB_OPEN (R208, R214): fetches abandoned, every slot at level 0, fetching restarts with the new F_p. -/
def State.openGutters (s : State) (p : Fin 8) : State :=
  let f := s.fireLine p
  (planeLinks s.liveView p).foldl (fun (t : State) n =>
    let on := decide ((s.plk.link[n]).st = .run) && !s.csm.gate.getLsbD n.val
    { t with csm := { t.csm with
        link := modAt t.csm.link n fun g =>
          { g with fetch := [], slots := [], owed := s.oweLines p n, f0 := f, taken := f, away := g.away && !on, sent := [] }
        samples := t.csm.samples.set p [] } }) s

/-- Bank changes of a plane's links at a JOB_OPEN: every line of the new job comes after them (R245, R282; log entry 143). -/
def State.openBanks (s : State) (p : Fin 8) : State :=
  (planeLinks s.liveView p).foldl (fun (t : State) n => (t.modLink n fun l =>
    { l with uploads := l.uploads.map fun u => if u.from_.isSome then { u with from_ := some 0 } else u }).settleBank n) s

/-- QDC and SCR at a JOB_OPEN of a plane: its index entries go, its decodes stop, its sealed line and READY are 0 (R155, R191). -/
def State.openSources (s : State) (p : Fin 8) : State :=
  let gone := s.qdc.quires.filter fun q => decide (q.plane = p)
  let goneP := s.qdc.plates.filter fun x => decide (x.quire.plane = p)
  let stops := fun j : Option EngineJob => match j with
    | some (.quire id) => gone.any fun q => decide (q.id = id)
    | some (.plate id) => goneP.any fun x => decide (x.quire.id = id)
    | none => false
  { s with
    qdc := { s.qdc with
      quires := s.qdc.quires.filter fun q => decide (q.plane ≠ p)
      plates := s.qdc.plates.filter fun x => decide (x.quire.plane ≠ p)
      dec := s.qdc.dec.map fun j => if stops j then none else j
      sealed := s.qdc.sealed.set p 0 }
    scr := { s.scr with ready := s.scr.ready.set p 0, lines := s.scr.lines.set p [], started := s.scr.started.set p 0 } }

/-- A band is discarded: counted, with its LOOP_EVENT BAND_MISSED (R315, R329). -/
def State.missBand (s : State) (b : Band) (reason : Nat) : State :=
  { s with lop := { s.lop with missed := s.lop.missed + 1 } }.loopEvent 0xFF (((planesOf b.mask).head?.map Fin.val).getD 0) 0x31 reason

/-- The loops of a plane go OFF: integrals and baseline are lost (R321). -/
def State.loopsOff (s : State) (p : Fin 8) : State :=
  (s.dropChanges p fun _ => true).modLoop p fun l => { l with
    dens := .off, coll := .off, noz := .off, selfFrozen := 0, base := [], integral := [], collBase := (0, 0, 0), wide := none, fails := [] }

/-- LOP at a JOB_OPEN of a plane: its bands are discarded with reason 5, its loops go OFF, its unprinted ranges go (R311, R315, R321). -/
def State.openLoops (s : State) (p : Fin 8) : State :=
  let gone := s.lop.bands.filter fun b => b.mask.getLsbD p
  let s1 := { s with lop := { s.lop with bands := s.lop.bands.filter fun b => !b.mask.getLsbD p } }
  ((gone.foldl (fun (t : State) b => t.missBand b 5) s1).loopsOff p).modLoop p fun l => { l with skipped := [], since := 0 }

/-- A close that waits on a plane ends as ABORTED when JOB_OPEN names the plane (R262). -/
def State.abortClose (s : State) (p : Fin 8) : State :=
  match (s.fir.plane[p]).close with
  | none => s
  | some c =>
    let s1 := c.flights.foldl (fun (t : State) id => t.modFlight id fun f => { f with superseded := true }) s
    (s1.modPlane p fun x => { x with close := none }).closeDone c.flights

/-- PLANE_STATE of a plane, with its signature epoch (R373, R387). -/
def State.sendPlaneState (s : State) (p : Fin 8) (epoch : Nat) : State :=
  let pl := s.fir.plane[p]
  (s.modTwin p fun x => { x with epoch := epoch, valid := true, match_ := 0 }).twinSend
    (.planeState p pl.xa pl.phia (s.offset p) (s.sigma p) pl.print epoch)

/-- X_p for a fresh origin, at the newest edge and at this instant; a free value while no tide word has given a position (R237, R243, R245). -/
def State.openPosition (s : State) (o : BitVec 48) : (Int × Int) × State :=
  match s.direction, s.directionNow with
  | some (d, rev), some (e, _) => ((s.lineOf o d rev, s.lineOf o e rev), s)
  | _, _ => ((Config.positionUnknown s.draws, Config.positionUnknown s.draws), s.draw.2)

/-- Position triggers of a plane start their grid afresh, on the P_q of the new job (R300, R308). -/
def State.openTriggers (s : State) (p : Fin 8) : State :=
  let f := fun t : Fin 4 => if s.trigPlane t = p then { (s.cam.trig[t]) with grid := none } else s.cam.trig[t]
  { s with cam := { s.cam with trig := Vector.ofFn f } }

/-- JOB_OPEN of one plane (R155, R208, R235, R243, R245, R252, R256, R262, R263). -/
def State.openPlane (s : State) (p : Fin 8) (o : BitVec 48) : State :=
  let s0 := ((State.launchPassed (s.fir.plane[p]).committed.length s p).overRecord p).abortClose p
  let (x, s1) := s0.openPosition o
  let s2 := s1.modPlane p fun pl => { pl with
    phase := .run, cause := 0, origin := some o, x := x.1, print := x.2, reach := x.2, behind := false, xa := x.2, phia := x.2
    committed := [], seamValid := false, lag := 0, maxLag := 0, overPos := none, peerOf := none
    retired := 0, fired := 0, close := none, swapAt := none, sendFrom := 0 }
  let f := (max 0 (coordAt x.2 x.2 (s2.sigma p) (s2.offset p) x.2 / 65536 + 1)).toNat
  let s3 := (s2.modPlane p fun pl => { pl with next := f, last := (f : Int) - 1, commit := f }).endRestore p
  let s4 := ((((s3.openSources p).openGutters p).openBanks p).openLoops p).openTriggers p
  let s5 := (s4.publish p).advanceReady p
  if s5.twn.role = .active then s5.sendPlaneState p (f + 64) else s5

/-- JOB_OPEN of the planes of a mask (R245, R339): the planes start, chambers follow the new F_p, and causes that hold as a level assert at once. A device that joins asks for PLANE_STATE anew (R387; log entry 44). -/
def State.openPlanes (s : State) (ps : List (Fin 8)) (o : BitVec 48) : State :=
  let s1 := (ps.foldl (fun (t : State) p => t.openPlane p o) s).settlePeers.chambersFollow
  let level := fun b : Nat => ps.filter fun p => (s1.levelCauses p).contains b
  let s2 := ((((s1.assertCause (level 2) 2).assertCause (level 3) 3).assertCause (level 4) 4).assertCause (level 5) 5).settle s
  if s2.twn.role = .joining then s2.twinSend .join else s2

/-- RESUME_FWD on one plane (R259, R263): nothing unless it stands in HOLD or ARMED with every cause cleared. -/
def State.resumeForward (s : State) (p : Fin 8) : State :=
  let pl := s.fir.plane[p]
  if (pl.phase = .hold ∨ pl.phase = .armed) ∧ pl.cause = 0 then
    let f := max pl.next (s.coordNow p / 65536 + 1).toNat
    let range : Int × Int := (pl.seam + 1, (f : Int) - 1 - s.offMin p)
    let s1 := (s.overRecord p).log 0x0021 0 p (lineBytes pl.seam)
    let s2 := s1.modPlane p fun x => { x with next := f, commit := f }
    let s3 := (s2.modLoop p fun l => { l with skipped := (range :: l.skipped).take 4 }).enterRun p
    s3.lineFollow p
  else s

/-- JOB_CLOSE on one plane (R262): RUN enters CLOSING, HOLD and ARMED keep it waiting, a plane already closing keeps its last line, IDLE has nothing to do (log entry 33). -/
def State.closePlane (s : State) (p : Fin 8) (last id : Nat) : State :=
  let s1 := s.overRecord p
  let pl := s1.fir.plane[p]
  let sealed := { s1 with qdc := { s1.qdc with sealed := s1.qdc.sealed.set p (max s1.qdc.sealed[p] (last + 1)) } }
  match pl.phase with
  | .idle => sealed
  | _ =>
    let c : Close := match pl.close with
      | some c => { c with flights := c.flights ++ [id] }
      | none => ⟨last, [id]⟩
    let s2 := (sealed.loopsOff p).modPlane p fun x => { x with close := some c, phase := if x.phase = .run then .closing else x.phase }
    s2.closeCheck p

end Sys2Proof.Machine
end

