-- ==== Sys2Proof/Machine/TideOps.lean ====
section
/-! DEFINITION. Tide words (R361 to R364): sourcing them, receiving them, choosing and changing over between sources. -/

namespace Sys2Proof.Machine

/-- The source in use, where it is live. -/
def State.liveSource (s : State) : Option TideSource :=
  s.urg.inUse.bind fun n => s.urg.sources.find? fun x => decide (x.node = n) && x.live

/-- ΔC of one more word of the other source (R364). -/
def State.noteDelta (s : State) (w : TideWord) : State :=
  match s.liveSource with
  | none => s
  | some x =>
    let d := diff48 w.count.toNat (x.word.countAt w.edgeTime s.urg.offset)
    let n : Nat := match s.urg.delta with
      | some (e, k) => if e = d then min 16 (k + 1) else 1
      | none => 1
    { s with urg := { s.urg with delta := some (d, n) } }

/-- ΔC where it is VALID (R364). -/
def State.validDelta (s : State) : Option Int :=
  match s.urg.delta with
  | some (d, n) => if n = 16 then some d else none
  | none => none

/-- The position follows the newest word of the source in use (R233, R237, R363). -/
def State.followTide (s : State) : State :=
  match s.tideNow with
  | none => s
  | some w =>
    if s.blkUp .pos then
      { s with fir := { s.fir with edge := some (tickOfTime w.edgeTime) } }.followPosition
    else s

/-- OVERSPEED ends when the direction in use leaves FWD or the main channel stands still (R253). -/
def State.tideEnds (s old : State) : State :=
  match s.tideNow, old.direction with
  | some w, some (_, false) => if w.rev || w.still then s.overEnds else s
  | some w, _ => if w.still then s.overEnds else s
  | none, _ => s

/-- Change over to a source, its counts less ΔC (R364). -/
def State.changeOver (s : State) (n : BitVec 10) (d : Int) : State :=
  { s with urg := { s.urg with inUse := some n, offset := d, delta := none } }

/-- A word is recorded under its source (R363). -/
def State.recordWord (s : State) (w : TideWord) : State :=
  let known := s.urg.sources.find? fun x => decide (x.node = w.source)
  let k : Nat := match known with | some x => if x.live then x.words + 1 else 1 | none => 1
  let others := s.urg.sources.filter fun x => decide (x.node ≠ w.source)
  { s with urg := { s.urg with sources := ⟨w.source, true, min 2 k, w⟩ :: others } }

/-- Which source is used after a word (R363, R364): the first heard; later a lower-numbered one once ΔC is VALID. -/
def State.chooseSource (s : State) (w : TideWord) : State :=
  match s.urg.inUse with
  | none => { s with urg := { s.urg with inUse := some w.source, offset := 0, delta := none } }
  | some n =>
    if n = w.source then s
    else
      let s1 := s.noteDelta w
      match s1.liveSource, s1.validDelta with
      | some _, some d => if w.source < n then s1.changeOver w.source d else s1
      | _, _ => s1

/-- The position in use after a change in the tide sources: cause POSITION, X_p, OVERSPEED (R233, R237, R253). -/
def State.tideFollows (s old : State) : State :=
  if !s.usesTide then s
  else
    let s1 := (s.followTide).tideEnds old
    (if s1.tideReady then s1.clearCause (List.finRange 8) 4 else s1).settle old

/-- A tide word is taken (R363, R364); one that does not count as arrived changes nothing. -/
def State.takeTide (s : State) (w : TideWord) : State :=
  if w.group = s.group ∧ w.timeOk ∧ s.timeOk then
    (((s.recordWord w).chooseSource w).countEvent 0x50 1 {}).tideFollows s
  else s

/-- Words the crossing of tide words to FIRE_CLK holds: a power of two of at least 8 (R74). -/
def tideDepth : Nat := 2 ^ (3 + Config.tideDepth)

/-- A tide word arrives: taken at once while FIRE_CLK runs; else it waits, the oldest one discarded and counted once the crossing is full (R80, R81). -/
def State.receiveTide (s : State) (w : TideWord) : State :=
  if s.clkRuns 0 then s.takeTide w
  else
    let q := s.urg.tideWait ++ [w]
    { s with urg := { s.urg with
        tideWait := q.drop (q.length - tideDepth), tideLost := s.urg.tideLost + (if tideDepth < q.length then 1 else 0) } }

/-- Tide words that have waited for FIRE_CLK are taken, oldest first, once it runs (R80). -/
def State.drainTide (s : State) : State :=
  if s.clkRuns 0 then s.urg.tideWait.foldl State.takeTide { s with urg := { s.urg with tideWait := [] } } else s

/-- No word of a source has arrived for 10 µs (R28, R253, R364). -/
def State.expireTide (s : State) (n : BitVec 10) : State :=
  let s1 := { s with urg := { s.urg with sources := s.urg.sources.map fun (x : TideSource) => if x.node = n then { x with live := false, words := 0 } else x } }
  if s.urg.inUse ≠ some n then { s1 with urg := { s1.urg with delta := none } }
  else
    let other := s1.urg.sources.find? fun (x : TideSource) => x.live
    match other, s.validDelta with
    | some x, some d => (s1.changeOver x.node d).tideFollows s
    | _, _ => if s1.usesTide then (s1.assertCause (List.finRange 8) 4).settle s else s1

/-- Device time of a FIRE_CLK cycle that has passed, 1/16 ns (R362). -/
def State.timeOfCycle (s : State) (c : Nat) : Nat :=
  (s.timeSixteenth - ((s.fireClk - c : Nat) : Int) * 40 * (2 ^ 40 + s.tim.rate) / 2 ^ 40).toNat

/-- Speed in 1/16 count per second as the register holds it: 0 while it is not VALID (R231, R241; rounded down, log entry 40). -/
def Channel.speedReg (c : Channel) : Int := if c.valid then clampInt (-2147483648) 2147483647 (16 * c.speed.1 / c.speed.2) else 0

/-- The tide word of this device's main channel (R362); where it has counted no edge the edge time is free. -/
def State.ownWord (s : State) : TideWord × State :=
  let c := s.pos.ch[s.mainChannel]
  let make := fun t : Nat => ({
    source := s.node, group := s.group, valid := c.valid, still := c.still, rev := s.pos.rev, timeOk := s.timeOk
    count := BitVec.ofNat 48 c.count, extreme := BitVec.ofNat 48 s.pos.extreme, edgeTime := t
    speed := BitVec.ofInt 32 c.speedReg } : TideWord)
  match c.lastEdge with
  | some t => (make (s.timeOfCycle t), s)
  | none => (make (Config.edgeTimeUnknown s.draws), s.draw.2)

/-- The payload of a TIDE frame (R362). -/
def TideWord.bytes (w : TideWord) : List Byte :=
  leBytes 2 w.source.toNat ++ [w.group, BitVec.ofNat 8 (w.valid.toNat + 2 * w.still.toNat + 4 * w.rev.toNat + 8 * w.timeOk.toNat)] ++
  leBytes 6 w.count.toNat ++ leBytes 6 w.extreme.toNat ++ leBytes 8 w.edgeTime ++ leBytes 4 w.speed.toNat ++ leBytes 4 0

/-- Live sources of the web group with a lower node number (R361). -/
def State.lowerSources (s : State) : Nat := (s.urg.sources.filter fun x => x.live && decide (x.node < s.node)).length

/-- After a speed update the device sends a tide word, where it sources them (R361); in a pair its own word arrives as it departs (R371). -/
def State.sendTide (s : State) : State :=
  if !s.blkUp .urg || !s.regBit 0x2A0004 0 || s.regBit 0x160000 16 || s.urg.dup then { s with urg := { s.urg with active := false } }
  else if 2 ≤ s.lowerSources then { s with urg := { s.urg with active := false, refused := true } }
  else
    let (w, s1) := s.ownWord
    let s2 := { s1 with urg := { s1.urg with active := true, refused := false } }.ringSend (.tide w.bytes)
    if s2.usesTide then s2.receiveTide w else s2

end Sys2Proof.Machine
end

