-- ==== Sys2Proof/Machine/Measure.lean ====
section
/-! DEFINITION. What the measurement engine makes of camera lines as the stream stage hands them over: web lines, band lines, mark captures and centroids (chapter 15, R311 to R319). -/

namespace Sys2Proof.Machine

/-- LOP_PLp_CFG.SAMPLE. -/
def State.sampleOf (s : State) (p : Fin 8) : Nat := s.regField (lopReg p 0) 0 2

/-- Sample of a camera pixel that is measured: SAMPLE, 0 for RAW types (R332). -/
def State.planeSample (s : State) (c : Fin 16) (sample : Nat) : Nat := if s.regField (ctxReg c 0) 2 6 = 0x24 then sample else 0

/-- The value measured at a pixel of a line of `per` samples a pixel (R304, R332). -/
def pixelValue (samples : List Nat) (per k i : Nat) : Nat :=
  if k < per then samples.getD (i * per + k) 0 else Config.fourthSample samples i

/-- X in 1/65536 line of plane p at a tag line in 1/65536 line (R312); none where a plane has no origin. -/
def State.tagX (s : State) (r : TrigRecord) (p : Fin 8) (tag : Int) : Option (PlaneFix × Int) :=
  match r.fix[r.plane], r.fix[p] with
  | some q, some f => some (f, tag + diff48 q.origin.toNat f.origin.toNat * s.ratio / 65536)
  | _, _ => none

/-- Web line m of plane p that a camera line shows (R312). -/
def State.webLine (s : State) (r : TrigRecord) (p : Fin 8) : Option Int :=
  (s.tagX r p (r.tag * 65536)).map fun x => coordAt x.1.xa x.1.phia x.1.stretch x.1.ofs x.2 / 65536

/-- A web line of a plane counts as printed (R311). -/
def State.linePrinted (s : State) (p : Fin 8) (m : Int) : Bool :=
  decide (m ≤ s.printedLine p) && !((s.lop.plane[p]).skipped.any fun g => decide (g.1 ≤ m ∧ m ≤ g.2))

/-- One camera line or S1 group goes to the recorded bands it falls in (R312, R315, R316, R319): `kind` 1 for S1 groups, 2 for camera lines, `samples` the pixels' samples in order, `per` samples a pixel. -/
def State.feedBands (s : State) (kind : Nat) (c : Fin 16) (r : TrigRecord) (clean : Bool) (first avg per : Nat) (samples : List Nat) : State :=
  let add := fun (b : Band) (p : Fin 8) =>
    match s.webLine r p with
    | none => b
    | some m =>
      if (b.first : Int) ≤ m ∧ m < b.first + b.count then
        let taken := clean && s.linePrinted p m
        let k := s.planeSample c b.sample[p]
        let values := (List.range (samples.length / per)).map (pixelValue samples per k)
        { b with lines := b.lines ++ [⟨p, c, m, taken, first, avg, if taken then values else []⟩] }
      else b
  if !s.blkUp .lop then s
  else
    let f := fun b : Band => if b.kind = kind ∧ (b.map[c]).2 ≠ 0 then (planesOf b.mask).foldl add b else b
    { s with lop := { s.lop with bands := s.lop.bands.map f } }

/-- START of mark window w (R306). -/
def State.winStart (s : State) (w : Fin 64) : Nat := (s.reg (winReg w 4)).toNat + s.regField (winReg w 8) 0 16 * 2 ^ 32

/-- The instance of window w that a tag line falls in, with its last tag line (R306). -/
def State.winInstance (s : State) (w : Fin 64) (tag : Int) : Option (Nat × Int) :=
  let d := tag - s.winStart w
  let period := s.regField (winReg w 12) 0 24
  let h := s.regField (winReg w 12) 24 8
  if d < 0 then none
  else
    let i := if period = 0 then 0 else d.toNat / period
    if d ≤ i * period + h then some (i, s.winStart w + i * period + h) else none

/-- The capture that window w makes of a line (R306), where it makes one that the engine takes for the mark's plane (R312, R318). -/
def State.captureAt (s : State) (c : Fin 16) (r : TrigRecord) (per : Nat) (samples : List Nat) (w : Fin 64) : Option Capture :=
  let o := winReg w 0
  let p := s.markPlane w
  if s.regBit o 0 && decide (s.regField o 1 4 = c.val) && s.regBit (markReg w 0) 0 then
    match s.winInstance w r.tag, s.webLine r p with
    | some (i, last), some m =>
      if s.linePrinted p m then
        let x := s.regField o 16 14
        let n := min (s.regField o 8 8 + 1) (min (s.camWidth c) (samples.length / per) - x)
        let k := s.planeSample c (s.sampleOf p)
        some ⟨w, c, i, last, r.tag, x, (List.range n).map fun j => pixelValue samples per k (x + j), r⟩
      else none
    | _, _ => none
  else none

/-- W of a capture (R318): the plane's WHITE once VALID, else the brightest sample of the capture. -/
def State.captureWhite (s : State) (p : Fin 8) (v : Capture) : Nat :=
  ((s.lop.plane[p]).white).getD (v.values.foldl max 0)

/-- Sums of the weights w = max(0, W − s), of w·x and of w·n over the captures of an instance (R318). -/
def State.centroidSums (s : State) (p : Fin 8) (vs : List Capture) : Nat × Int × Int :=
  vs.foldl (fun (a : Nat × Int × Int) v =>
    let white := s.captureWhite p v
    (v.values.zipIdx).foldl (fun (b : Nat × Int × Int) e =>
      let w := white - e.1
      (b.1 + w, b.2.1 + w * (v.first + e.2 : Nat), b.2.2 + w * v.tag)) a) (0, 0, 0)

/-- The centroid of an instance becomes a valid mark instance or is counted as weak (R318); an instance of a line fired before the loop's latest apply is discarded (R324). -/
def State.finishInstance (s : State) (m : Fin 64) (i : Nat) (vs : List Capture) : State :=
  let p := s.markPlane m
  match vs.getLast? with
  | none => s
  | some v =>
    let sums := s.centroidSums p vs
    if sums.1 < 256 * s.regField 0x240060 16 16 ∨ sums.1 = 0 then { s with lop := { s.lop with markWeak := satInc s.lop.markWeak } }
    else
      let x := 256 * sums.2.1 / sums.1
      let y := 256 * sums.2.2 / sums.1
      match s.tagX v.record p (256 * y) with
      | none => s
      | some (f, pos) =>
        let ex := (s.pixelU v.ctx 0 + x * s.pixelDu v.ctx / 256 - (s.regField (markReg m 4) 0 15 * 65536 + 32768 : Nat)) / 256
        let ey := (pos - placeOf f (s.markLine m i)) / 256
        if s.markLine m i < (s.lop.plane[p]).since then s
        else { s with lop := { s.lop with marks := s.lop.marks ++ [⟨p, s.markLine m i, ex, ey⟩] } }

/-- Instances of a context whose windows a tag line has passed are complete (R318): lines of the last tag line itself still belong to them. -/
def State.finishInstances (s : State) (c : Fin 16) (tag : Int) : State :=
  let due := s.lop.captures.filter fun v => decide (v.ctx = c ∧ v.last < tag)
  let rest := s.lop.captures.filter fun v => !decide (v.ctx = c ∧ v.last < tag)
  let keys := due.foldl (fun (ks : List (Fin 64 × Nat)) v => if ks.contains (v.mark, v.inst) then ks else ks ++ [(v.mark, v.inst)]) []
  keys.foldl (fun (t : State) k => t.finishInstance k.1 k.2 (due.filter fun v => decide (v.mark = k.1 ∧ v.inst = k.2)))
    { s with lop := { s.lop with captures := rest } }

/-- S2 of one line (R304, R306): every window of the context takes its capture, then complete instances are measured. -/
def State.feedMarks (s : State) (c : Fin 16) (r : TrigRecord) (clean : Bool) (per : Nat) (samples : List Nat) : State :=
  if !s.blkUp .lop || s.pixelDu c = 0 then s
  else
    let new := if clean then (List.finRange 64).filterMap (s.captureAt c r per samples) else []
    { s with lop := { s.lop with captures := s.lop.captures ++ new } }.finishInstances c r.tag

end Sys2Proof.Machine
end

