-- ==== Sys2Proof/Machine/Pins.lean ====
section
/-! DEFINITION. The balls (chapter 02): driving a digital output (R41, R42), and what every class of ball does as the state of the block stands (R37, R41). -/

namespace Sys2Proof.Machine

/-- The level a ball has at a time: the pull-up's while it is not driven, high through the first 1 µs of a handover (R42). -/
def PinLevel.isHigh (p : PinLevel) (now : Nat) : Bool :=
  match p with
  | .pulled | .high => true
  | .low => false
  | .handover since level => decide (now < since + 2000) || level

/-- A digital output drives a level: one taken over from the pull-up drives high for 1 µs first (R42). -/
def PinLevel.drive (p : PinLevel) (now : Nat) (level : Bool) : PinLevel :=
  match p with
  | .pulled => .handover now level
  | .handover since _ => if now < since + 2000 then .handover since level else if level then .high else .low
  | .low | .high => if level then .high else .low

/-- The next edge of a square wave (R43). -/
def PinLevel.toggle (p : PinLevel) (now : Nat) : PinLevel := p.drive now (!p.isHigh now)

/-- Drive CAM_TRIGt to a level. -/
def State.driveTrig (s : State) (t : Fin 4) (level : Bool) : State :=
  { s with pins := { s.pins with camTrig := s.pins.camTrig.set t ((s.pins.camTrig[t]).drive s.now level) } }

/-- Drive a GPIO ball. -/
def State.driveGpio (s : State) (g : Fin 16) (level : Bool) : State :=
  { s with pins := { s.pins with gpio := s.pins.gpio.set g ((s.pins.gpio[g]).drive s.now level) } }

/-- The balls of GPIO and CAM_TRIG return to their pull-ups (R41). -/
def State.pullBalls (s : State) : State :=
  { s with pins := { s.pins with gpio := Vector.replicate 16 .pulled, camTrig := Vector.replicate 4 .pulled } }

/-- Sleep leaves a GPIO as configured (R41): a ball that is driven stands at LEVEL, bit 2 of its TIM_GPIOg_CFG. -/
def State.restGpios (s : State) : State :=
  (List.finRange 16).foldl (fun (t : State) g =>
    if t.pins.gpio[g] = .pulled then t else t.driveGpio g (t.regBit (0x280400 + 4 * g.val) 2)) s

/-- A reset of TIM returns the GPIO balls to their pull-ups; sleep does not (R41). -/
def State.resetGpios (s : State) : State :=
  if s.rst.asleep then s.restGpios else { s with pins := { s.pins with gpio := Vector.replicate 16 .pulled } }

/-- Sleep leaves CAM_TRIG at its idle level (R41): a ball that is driven stands at IDLE, bit 2 of its CAM_TRGt_CFG. -/
def State.restTrigs (s : State) : State :=
  (List.finRange 4).foldl (fun (u : State) t =>
    if u.pins.camTrig[t] = .pulled then u else u.driveTrig t (u.regBit (0x200200 + 0x20 * t.val) 2)) s

/-- A reset of CAM returns the trigger balls to their pull-ups; sleep does not (R41). -/
def State.resetTrigs (s : State) : State :=
  if s.rst.asleep then s.restTrigs else { s with pins := { s.pins with camTrig := Vector.replicate 4 .pulled } }

/-- What a ball does electrically, in the words of R41. -/
inductive BallState
  /-- Input with weak pull-up. -/
  | input
  /-- High-impedance with weak pull-up. -/
  | pulledUp
  /-- High-impedance. -/
  | highZ
  /-- Driven, its level not followed here. -/
  | driven
  /-- Driven low. -/
  | low
  /-- Driven high. -/
  | high
  /-- Open drain off. -/
  | off
  /-- SerDes TX in electrical idle. -/
  | idle
  /-- SerDes TX transmitting. -/
  | transmitting
  /-- RX termination off. -/
  | unterminated
  /-- RX termination on. -/
  | terminated
  deriving DecidableEq, Repr

/-- A SerDes or D-PHY port. -/
inductive SerPort
  /-- The PCIe lanes (R33). -/
  | pcie
  /-- A Preaz Link. -/
  | link (n : Fin 32)
  /-- A Ulilis Ring port (R35). -/
  | ring (q : Fin 2)
  /-- An Ethernet port (R35). -/
  | eth (q : Fin 2)
  /-- A CSI-2 port, which only receives (R34). -/
  | csi (p : Fin 4)
  deriving DecidableEq, Repr

/-- The signal balls by class (R33 to R38, R41). -/
inductive Ball
  /-- ENC, FIRE_ENABLE, RESET_N, PCIE_PERST_N, TCK, TMS, TDI, TRST_N. -/
  | digitalIn
  /-- DRIVE_OK. -/
  | driveOk
  /-- HOLD_REQ. -/
  | holdReq
  /-- CAM_TRIGt. -/
  | camTrig (t : Fin 4)
  /-- GPIOg. -/
  | gpio (g : Fin 16)
  /-- BOOT_SCK and BOOT_CS_N. -/
  | bootClock
  /-- BOOT_IO0 to BOOT_IO3. -/
  | bootIo
  /-- TDO. -/
  | tdo
  /-- THERMTRIP_N. -/
  | thermtrip
  /-- PCIE_WAKE_N. -/
  | pcieWake
  /-- The transmit pairs of a port. -/
  | tx (p : SerPort)
  /-- The receive pairs of a port. -/
  | rx (p : SerPort)
  /-- DDRc_RESET_N. -/
  | ddrReset (c : Fin 2)
  /-- The other DDR5 balls of a channel. -/
  | ddr (c : Fin 2)
  deriving DecidableEq, Repr

/-- A digital output ball as R41 words it. -/
def PinLevel.ball (p : PinLevel) (now : Nat) : BallState :=
  match p with
  | .pulled => .pulledUp
  | .low | .high | .handover _ _ => if p.isHigh now then .high else .low

/-- The Ethernet port that sleep keeps: RST_SLEEP.KEEP_ETH (R68, R72). -/
def State.keptEth (s : State) : Fin 2 := if s.rst.sleepCfg.getLsbD 0 then 1 else 0

/-- Bring-up or sleep has not disabled a port: its bank has not failed calibration (R40), and in sleep only the ring and one Ethernet port run (R41, R68). -/
def State.portPowered (s : State) : SerPort → Bool
  | .pcie => !s.rst.pcieOff && !s.rst.asleep
  | .link n => !(if n.val < 16 then s.rst.serWOff else s.rst.serEOff) && !s.rst.asleep
  | .ring _ => !s.rst.netOff
  | .eth q => !s.rst.netOff && (!s.rst.asleep || decide (q = s.keptEth))
  | .csi _ => !s.rst.csiOff && !s.rst.asleep

/-- The bank of a port has been calibrated in this bring-up (R40, R41, R64). -/
def State.portCalibrated (s : State) : SerPort → Bool
  | .pcie => decide (3 ≤ s.rst.stage.toNat)
  | .link n => s.rst.calDone[(if n.val < 16 then 0 else 1 : Fin 4)]
  | .ring q => s.rst.calDone[(2 : Fin 4)] || decide ((s.urg.port[q]).state ≠ .down)
  | .eth q => s.rst.calDone[(2 : Fin 4)] || s.tim.ethLink[q]
  | .csi _ => s.rst.calDone[(3 : Fin 4)]

/-- A port has been trained and transmits (R41): the PCIe link is up, the Preaz Link is neither DISABLED nor in FAULT, the ring port or Ethernet port has lock. -/
def State.portTrained (s : State) : SerPort → Bool
  | .pcie => s.rst.pcieUp
  | .link n => s.linkUp n && decide ((s.plk.link[n]).st ≠ .disabled)
  | .ring q => decide ((s.urg.port[q]).state ≠ .down)
  | .eth q => s.tim.ethLink[q]
  | .csi _ => false

/-- The boot ROM runs: the supervisor core is out of reset and the device awake (R37, R41, R64). -/
def State.bootRomRuns (s : State) : Bool := decide (s.rst.aon = .up ∧ 3 ≤ s.rst.stage.toNat) && !s.rst.asleep

/-- Training of a DRAM channel has begun, and no reset or sleep has ended it since (R41). -/
def State.ddrDriven (s : State) (c : Fin 2) : Bool :=
  !s.rst.asleep && (s.rst.dramSr || s.dmc.chUp[c] || s.dmc.retained[c] || (decide (s.rst.stage = 5) && s.blkUp .dmc))

/-- What a ball does as the block stands (R41). -/
def State.ballState (s : State) : Ball → BallState
  | .digitalIn => .input
  | .driveOk => s.pins.driveOk.ball s.now
  | .holdReq => s.pins.holdReq.ball s.now
  | .camTrig t => (s.pins.camTrig[t]).ball s.now
  | .gpio g => if s.pins.gpio[g] = .pulled then .input else (s.pins.gpio[g]).ball s.now
  | .bootClock => if s.bootRomRuns then .driven else .pulledUp
  | .bootIo => if s.bootRomRuns then .driven else .pulledUp
  | .tdo => if s.rst.aon = .up ∧ s.rst.otp.debug ∧ s.rst.asleep = false then .driven else .pulledUp
  | .thermtrip => if s.pins.thermtrip then .low else .off
  | .pcieWake => if s.rst.wakeN then .low else .off
  | .tx p => if s.portPowered p && s.portTrained p then .transmitting else .idle
  | .rx p => if s.portPowered p && s.portCalibrated p then .terminated else .unterminated
  | .ddrReset c => if s.ddrDriven c then .high else .low
  | .ddr c => if s.ddrDriven c then .driven else .highZ

end Sys2Proof.Machine
end

