-- ==== Sys2Proof/Machine/Camera.lean ====
section
/-! DEFINITION. The inline camera interface (chapter 14): packets, frames, the input buffers, the stream stage, triggers and their records. -/

namespace Sys2Proof.Machine

/-- The state with one camera context changed. -/
def State.modCtx (s : State) (c : Fin 16) (f : CamCtx → CamCtx) : State :=
  { s with cam := { s.cam with ctx := modAt s.cam.ctx c f } }

/-- The state with one camera port changed. -/
def State.modPort (s : State) (p : Fin 4) (f : CamPort → CamPort) : State :=
  { s with cam := { s.cam with port := modAt s.cam.port p f } }

/-- The state with one camera trigger changed. -/
def State.modTrig (s : State) (t : Fin 4) (f : CamTrig → CamTrig) : State :=
  { s with cam := { s.cam with trig := modAt s.cam.trig t f } }

/-- Context of a virtual channel of a port (R295). -/
def ctxOf (p vc : Fin 4) : Fin 16 := Fin.ofNat 16 (4 * p.val + vc.val)

/-- Port of a context (R295). -/
def portOf (c : Fin 16) : Fin 4 := Fin.ofNat 4 (c.val / 4)

/-- Group bytes, group pixels and samples per pixel of a data type (R296); none for a type that is not accepted. -/
def dtGroup (dt : Nat) : Option (Nat × Nat × Nat) :=
  match dt with
  | 0x24 => some (3, 1, 3)
  | 0x2A => some (1, 1, 1)
  | 0x2B => some (5, 4, 1)
  | 0x2C => some (3, 2, 1)
  | 0x2D => some (7, 4, 1)
  | 0x2E => some (2, 1, 1)
  | _ => none

/-- DT of a context (R310). -/
def State.camDt (s : State) (c : Fin 16) : Nat := s.regField (ctxReg c 0) 2 6

/-- Group of a context's data type; RAW8's for a type that disables reception, where no line comes. -/
def State.camGroup (s : State) (c : Fin 16) : Nat × Nat × Nat := (dtGroup (s.camDt c)).getD (1, 1, 1)

/-- A context receives: enabled, with an accepted data type (R295, R310). -/
def State.ctxOn (s : State) (c : Fin 16) : Bool := s.regBit (ctxReg c 0) 0 && (dtGroup (s.camDt c)).isSome

/-- COMPAT of a context (R298). -/
def State.compat (s : State) (c : Fin 16) : Bool := s.regBit (ctxReg c 0) 1

/-- HEIGHT, 1 to 4096; 0 acts as 1 (R310). -/
def State.camHeight (s : State) (c : Fin 16) : Nat := max 1 (min 4096 (s.regField (ctxReg c 0) 16 13))

/-- 16-bit samples of RAW10 groups as CSI-2 packs them (R296). -/
def raw10 : List Byte → List Nat
  | a :: b :: c :: d :: e :: t =>
    let one := fun (x : Byte) (k : Nat) => x.toNat * 256 + bitsOf e.toNat (2 * k) 2 * 64
    one a 0 :: one b 1 :: one c 2 :: one d 3 :: raw10 t
  | _ => []

/-- 16-bit samples of RAW12 groups. -/
def raw12 : List Byte → List Nat
  | a :: b :: e :: t => (a.toNat * 256 + bitsOf e.toNat 0 4 * 16) :: (b.toNat * 256 + bitsOf e.toNat 4 4 * 16) :: raw12 t
  | _ => []

/-- 16-bit samples of RAW14 groups. -/
def raw14 : List Byte → List Nat
  | a :: b :: c :: d :: e :: f :: g :: t =>
    let low := e.toNat + f.toNat * 256 + g.toNat * 65536
    let one := fun (x : Byte) (k : Nat) => x.toNat * 256 + bitsOf low (6 * k) 6 * 4
    one a 0 :: one b 1 :: one c 2 :: one d 3 :: raw14 t
  | _ => []

/-- 16-bit samples of RAW16, the high byte first (PRESUMED from CSI-2, log entry 42). -/
def raw16 : List Byte → List Nat
  | a :: b :: t => (a.toNat * 256 + b.toNat) :: raw16 t
  | _ => []

/-- The samples of a payload, each a 16-bit value (R296). -/
def samplesOf (dt : Nat) (bs : List Byte) : List Nat :=
  match dt with
  | 0x2B => raw10 bs
  | 0x2C => raw12 bs
  | 0x2D => raw14 bs
  | 0x2E => raw16 bs
  | _ => bs.map fun b => b.toNat * 256

/-- One group of pixels that all hold a 16-bit sample, its top bits taken (R296, R297). -/
def padGroup (dt v : Nat) : List Byte :=
  let top := BitVec.ofNat 8 (v / 256)
  let l2 := bitsOf v 6 2
  let l4 := bitsOf v 4 4
  let l6 := bitsOf v 2 6
  match dt with
  | 0x24 => [top, top, top]
  | 0x2B => [top, top, top, top, BitVec.ofNat 8 (l2 * 85)]
  | 0x2C => [top, top, BitVec.ofNat 8 (l4 * 17)]
  | 0x2D => [top, top, top, top] ++ leBytes 3 (l6 * 0x41041)
  | 0x2E => [top, BitVec.ofNat 8 v]
  | _ => [top]

/-- A payload of a number of padded groups (R297). -/
def padBytes (dt v : Nat) : Nat → List Byte
  | 0 => []
  | n + 1 => padGroup dt v ++ padBytes dt v n

/-- Put a line at the end of its port's buffer (R299). -/
def State.pushLine (s : State) (l : CamLine) : State := s.modPort (portOf l.ctx) fun p => { p with lines := p.lines ++ [l] }

/-- Missing lines of a frame, each of which will take a trigger record (R297); `n` bounds their number. -/
def State.pushMissing (s : State) (c : Fin 16) (frame : BitVec 16) (from_ : Nat) : Nat → State
  | 0 => s
  | n + 1 => (s.pushLine ⟨c, .missing, [], false, false, frame, from_⟩).pushMissing c frame (from_ + 1) n

/-- The open frame of a context closes (R297, R298): by a Frame End, or with NO_FE at a timeout. In native mode the missing lines follow and make it SHORT. -/
def State.closeFrame (s : State) (c : Fin 16) (noFe : Bool) : State :=
  match (s.cam.ctx[c]).frame with
  | none => s
  | some f =>
    let missing := if s.compat c then 0 else s.camHeight c - f.lines
    let short := decide (missing ≠ 0)
    let flags := BitVec.ofNat 5 (short.toNat + 2 * f.long.toNat + 4 * noFe.toNat + 8 * f.marked.toNat + 16 * f.drop.toNat)
    (s.modCtx c fun x => { x with frame := none, number := f.number, flags := flags, short := if short then x.short + 1 else x.short }).pushMissing
      c f.number f.lines missing

/-- The header of a packet after its ECC check (R294, R295): true where handling goes on. -/
def State.takeHeader (s : State) (p vc : Fin 4) (ecc : EccOutcome) : Bool × State :=
  match ecc with
  | .clean => (true, s)
  | .corrected => (true, s.modPort p fun x => { x with eccCorr := satInc x.eccCorr })
  | .uncorrectable =>
    let c := ctxOf p vc
    let s1 := s.modPort p fun x => { x with eccBad := satInc x.eccBad }
    (false, if s.compat c then s1.modCtx c fun x => { x with frame := x.frame.map fun f => { f with marked := true } } else s1)

/-- A packet is discarded under orders 2 and 4 of R295. -/
def State.discardPacket (s : State) (p : Fin 4) : State := s.modPort p fun x => { x with discard := satInc x.discard }

/-- A port takes packets (R294, R310): CAM runs, the port is enabled and its clock lane runs. -/
def State.portTakes (s : State) (p : Fin 4) : Bool := s.blkUp .cam && s.regBit 0x200000 p.val && s.clk.csiRun[p]

/-- Orders 1 and 2 of R295 for a frame short packet, then its handling. -/
def State.framePacket (s : State) (p vc : Fin 4) (vcx : Bool) (ecc : EccOutcome) (f : Fin 16 → State → State) : State :=
  if !s.portTakes p then s
  else
    match s.takeHeader p vc ecc with
    | (false, t) => t
    | (true, t) => if vcx || !t.ctxOn (ctxOf p vc) then t.discardPacket p else f (ctxOf p vc) t

/-- A Frame Start packet (R295, R297); `vcx` where its extended virtual channel bits are not 0. -/
def execCsiFrameStart (port vc : Fin 4) (vcx : Bool) (ecc : EccOutcome) (number : BitVec 16) (s : State) : Host.Outcome State Fault Refusal :=
  .next (s.framePacket port vc vcx ecc fun c t =>
    (t.closeFrame c true).modCtx c fun x => { x with frame := some ⟨number, 0, false, false, false⟩, frames := x.frames + 1 })

/-- A Frame End packet (R295, R297): without an open frame it closes nothing. -/
def execCsiFrameEnd (port vc : Fin 4) (vcx : Bool) (ecc : EccOutcome) (s : State) : Host.Outcome State Fault Refusal :=
  .next (s.framePacket port vc vcx ecc fun c t => t.closeFrame c false)

/-- The frame of a dropped line shows it (R299, R310): the open frame, or the last closed one. -/
def State.markDropped (s : State) (c : Fin 16) (number : BitVec 16) : State :=
  let bits : BitVec 5 := if s.compat c then 0b11000 else 0b10000
  s.modCtx c fun x =>
    match x.frame with
    | some f =>
      if f.number = number then { x with frame := some { f with drop := true, marked := f.marked || s.compat c } }
      else if x.number = number then { x with flags := x.flags ||| bits } else x
    | none => if x.number = number then { x with flags := x.flags ||| bits } else x

/-- A line counts as dropped (R299, R404). -/
def State.countDrop (s : State) (c : Fin 16) (number : BitVec 16) : State :=
  (((s.modPort (portOf c) fun p => { p with dropped := satInc p.dropped }).modCtx c fun x =>
    { x with dropped := satInc x.dropped, unreported := x.unreported + 1 }).markDropped c number).countEvent 0x41 1 {}

/-- The earliest waiting line with bytes gives them up (R299); none where no line waits. -/
def dropFirst : List CamLine → Option (CamLine × List CamLine)
  | [] => none
  | l :: t =>
    if l.kind = .received then some (l, { l with kind := .dropped, bytes := [] } :: t)
    else (dropFirst t).map fun r => (r.1, l :: r.2)

/-- Bytes held in the input buffer of a port (R299). -/
def CamPort.used (p : CamPort) : Nat := p.lines.foldl (fun n l => n + l.bytes.length) 0

/-- Drop waiting lines of a port until `need` more bytes fit in 1 MiB (R299); false where none is left to drop; `fuel` bounds the drops. -/
def State.makeRoom (s : State) (p : Fin 4) (need : Nat) : Nat → Bool × State
  | 0 => (decide ((s.cam.port[p]).used + need ≤ 0x100000), s)
  | fuel + 1 =>
    if (s.cam.port[p]).used + need ≤ 0x100000 then (true, s)
    else match dropFirst (s.cam.port[p]).lines with
      | none => (false, s)
      | some (l, rest) => ((s.modPort p fun x => { x with lines := rest }).countDrop l.ctx l.frame).makeRoom p need fuel

/-- A received line enters the input buffer (R299). -/
def State.storeLine (s : State) (l : CamLine) : State :=
  let p := portOf l.ctx
  match s.makeRoom p l.bytes.length ((s.cam.port[p]).lines.length + 1) with
  | (true, t) => t.pushLine l
  | (false, t) => (t.countDrop l.ctx l.frame).pushLine { l with kind := .dropped, bytes := [] }

/-- A long packet in an open frame is one camera line (R295 to R299). -/
def State.camLine (s : State) (c : Fin 16) (f : CamFrame) (bytes : List Byte) (crcOk : Bool) : State :=
  let (gb, gp, _) := s.camGroup c
  let count := fun (g : CamFrame) (t : State) => t.modCtx c fun x => { x with frame := some { g with lines := g.lines + 1 } }
  let whole := bytes.take (bytes.length / gb * gb)
  if s.compat c then
    let g := { f with marked := f.marked || !crcOk }
    ((count g s).modCtx c fun x => { x with crc := if crcOk then x.crc else satInc x.crc }).storeLine
      ⟨c, .received, whole, !crcOk, g.marked, f.number, f.lines⟩
  else if s.camHeight c ≤ f.lines then
    ((count { f with long := true } s).modCtx c fun x => { x with cutLines := satInc x.cutLines }).pushLine ⟨c, .long, [], false, false, f.number, f.lines⟩
  else
    let odd := decide (whole.length / gb * gp ≠ s.camWidth c)
    ((count f s).modCtx c fun x => { x with
      crc := if crcOk then x.crc else satInc x.crc, padded := if odd then satInc x.padded else x.padded }).storeLine
      ⟨c, .received, whole, !crcOk, false, f.number, f.lines⟩

/-- A long packet (R295): its data type, payload and CRC check. -/
def execCsiLongPacket (port vc : Fin 4) (vcx : Bool) (ecc : EccOutcome) (dt : BitVec 6) (payload : List Byte) (crcOk : Bool) (s : State) :
    Host.Outcome State Fault Refusal :=
  .next (s.framePacket port vc vcx ecc fun c t =>
    if t.camDt c ≠ dt.toNat then t.discardPacket port
    else match (t.cam.ctx[c]).frame with
      | none => t.discardPacket port
      | some f => t.camLine c f payload crcOk)

/-- No packet of the open frame for FE_US (R297, R298). -/
def execFrameEndTimeout (ctx : Fin 16) (s : State) : Host.Outcome State Fault Refusal :=
  .next (if s.blkUp .cam then s.closeFrame ctx true else s)

/-- Age limit of a trigger record in half ns (R301, R310). -/
def State.maxAge (s : State) (c : Fin 16) : Nat := max 1 (s.regField (ctxReg c 8) 16 16) * 2000

/-- Records older than MAXAGE_US leave the queue of a context, counted as STALE (R301). -/
def State.expireRecords (s : State) (c : Fin 16) : State :=
  s.modCtx c fun x =>
    let keep := x.records.filter fun r => decide (s.now ≤ r.at_ + s.maxAge c)
    { x with records := keep, stale := (List.range (x.records.length - keep.length)).foldl (fun (n : BitVec 10) _ => satInc n) x.stale }

/-- A line takes the oldest record of its context; with none it counts as STALE (R301). -/
def State.takeRecord (s : State) (c : Fin 16) : Option TrigRecord × State :=
  let s1 := s.expireRecords c
  match (s1.cam.ctx[c]).records with
  | [] => (none, s1.modCtx c fun x => { x with stale := satInc x.stale })
  | r :: t => (some r, s1.modCtx c fun x => { x with records := t })

/-- The flags of an emitted line (R303), without VALID: PAD, CUT, MISSING, DROP, CRC, MARKED. -/
structure LineFlags where
  /-- PAD. -/
  pad : Bool
  /-- CUT. -/
  cut : Bool
  /-- MISSING. -/
  missing : Bool
  /-- DROP. -/
  drop : Bool
  /-- CRC. -/
  crc : Bool
  /-- MARKED. -/
  marked : Bool
  deriving DecidableEq, Repr

/-- No flag that R304 excludes from S1 and S2. -/
def LineFlags.clean (f : LineFlags) : Bool := !(f.pad || f.cut || f.missing || f.drop || f.crc || f.marked)

/-- The payload and the flags with which a waiting line is emitted (R297 to R299): PAD for a short line, MISSING or DROP alone for one that is all padding; exactly WIDTH pixels in native mode, as it came in compatibility mode. -/
def State.emitted (s : State) (l : CamLine) : List Byte × LineFlags :=
  let (gb, gp, _) := s.camGroup l.ctx
  let full := s.camWidth l.ctx / gp
  let pad := padBytes (s.camDt l.ctx) (s.regField (ctxReg l.ctx 4) 16 16)
  if s.compat l.ctx then (l.bytes, ⟨false, false, false, false, l.crc, l.marked⟩)
  else
    let have_ := l.bytes.length / gb
    (l.bytes.take (full * gb) ++ pad (full - have_),
      ⟨decide (l.kind = .received ∧ have_ < full), decide (full < have_), decide (l.kind = .missing), decide (l.kind = .dropped), l.crc, false⟩)

/-- The tag of a line that S0 or S3 writes (R303). -/
def lineTag (r : Option TrigRecord) (free : BitVec 112) (f : LineFlags) (l : CamLine) (pixels : Nat) : List Byte :=
  let valid := (r.map TrigRecord.valid).getD false
  let bits := valid.toNat + 2 * f.pad.toNat + 4 * f.cut.toNat + 8 * f.missing.toNat + 16 * f.drop.toNat + 32 * f.crc.toNat + 64 * f.marked.toNat
  (match r with
    | some r => leBytes 8 (unsigned 64 r.time) ++ leBytes 6 (unsigned 48 r.tag)
    | none => leBytes 14 free.toNat) ++
  leBytes 2 bits ++ leBytes 2 l.frame.toNat ++ leBytes 2 l.index ++ leBytes 2 pixels ++ [BitVec.ofNat 8 l.ctx.val, 0] ++
  leBytes 4 ((r.map fun x => x.seq.toNat).getD 0xFFFFFFFF) ++ [0, 0, 0, 0]

/-- Slots of a camera ring (R305, R310): 0 where it is off. -/
def ringSlotsOf (log2 : Nat) : Nat := if 6 ≤ log2 ∧ log2 ≤ 16 then 2 ^ log2 else 0

/-- Slot stride of a ring for lines of some bytes (R305). -/
def slotStride (bytes : Nat) : Nat := (32 + bytes + 63) / 64 * 64

/-- Bytes of the lines of ring S0 or S3 of a context (R304, R305): the crop as received; the decimated 8-bit samples. -/
def State.ringLine (s : State) (c : Fin 16) (base : Nat) : Nat :=
  let (gb, gp, per) := s.camGroup c
  if base = 0x24 then (s.cropOf c 0x20).2 / 8 * 8 / gp * gb
  else min 2048 ((s.cropOf c 0x3C).2 / max 1 (min 64 (s.regField (ctxReg c 0x40) 0 8))) * per

/-- STRIDE of a ring (R305, R310): its slot stride in 64 bytes; 0 while the ring is off (log entry 165). -/
def State.ringStride (s : State) (c : Fin 16) (base : Nat) : Nat :=
  if ringSlotsOf (s.regField (ctxReg c (base + 8)) 0 5) = 0 then 0 else slotStride (s.ringLine c base) / 64

/-- Write a tagged line into slot k of a ring of context c whose registers start at an offset (R305); nothing where the ring is off. -/
def State.putCamLine (s : State) (c : Fin 16) (base : Nat) (k : BitVec 32) (bytes : List Byte) : State :=
  let n := ringSlotsOf (s.regField (ctxReg c (base + 8)) 0 5)
  let a := (s.regField (ctxReg c base) 12 20 * 4096 + s.regField (ctxReg c (base + 4)) 0 4 * 2 ^ 32 + k.toNat % max 1 n * (64 * s.ringStride c base)) % 2 ^ 36
  if n = 0 then s else s.dramPut 5 a bytes

/-- A ring of a context is on (R305). -/
def State.camRingOn (s : State) (c : Fin 16) (base : Nat) : Bool := decide (ringSlotsOf (s.regField (ctxReg c (base + 8)) 0 5) ≠ 0)

/-- Stream S0 (R304, R305): the cropped payload as received, to the ring and to the measurement engine. -/
def State.streamS0 (s : State) (l : CamLine) (r : Option TrigRecord) (free : BitVec 112) (f : LineFlags) (bs : List Byte) : State :=
  let c := l.ctx
  let (gb, gp, per) := s.camGroup c
  let (first0, count) := s.cropOf c 0x20
  let first := first0 / 8 * 8
  let n := min (count / 8 * 8) (bs.length / gb * gp - first)
  let crop := (bs.drop (first / gp * gb)).take (n / gp * gb)
  if count = 0 then s
  else
    let s1 := if s.camRingOn c 0x24 then
        (s.putCamLine c 0x24 (s.cam.ctx[c]).s0 (lineTag r free f l n ++ crop)).modCtx c fun x =>
          { x with s0 := x.s0 + 1 }
      else s
    match r with
    | some r => if r.valid then s1.feedBands 2 c r f.clean first 1 per (samplesOf (s.camDt c) crop) else s1
    | none => s1

/-- Sums over whole groups of `avg` pixels of each sample: `per` samples a pixel, output pixel by output pixel (R304; a remainder of fewer pixels yields none, log entry 43). -/
def groupSums (per avg : Nat) (samples : List Nat) : List Nat :=
  (List.range (samples.length / (per * avg))).flatMap fun i =>
    (List.range per).map fun k => (List.range avg).foldl (fun n j => n + samples.getD ((i * avg + j) * per + k) 0) 0

/-- The S1 group in progress ends (R304): its means go to the engine, or a gap where it took no line. -/
def State.flushS1 (s : State) (c : Fin 16) (per avg : Nat) : State :=
  match (s.cam.ctx[c]).s1 with
  | none => s
  | some g =>
    (s.modCtx c fun x => { x with s1 := none }).feedBands 1 c g.first (decide (g.taken ≠ 0)) (s.cropOf c 0x34).1 avg per
      (g.sums.map fun x => x.1 / x.2)

/-- Sums of two lines of a group, sample by sample; the longer line's rest stands (R298, R304). -/
def addSums : List (Nat × Nat) → List (Nat × Nat) → List (Nat × Nat)
  | [], b => b
  | a, [] => a
  | x :: a, y :: b => (x.1 + y.1, x.2 + y.2) :: addSums a b

/-- Stream S1 (R304) of one line with a VALID tag. -/
def State.streamS1 (s : State) (c : Fin 16) (r : TrigRecord) (clean : Bool) (samples : List Nat) : State :=
  let (_, _, per) := s.camGroup c
  let (first, count) := s.cropOf c 0x34
  let avg := max 1 (min 64 (s.regField (ctxReg c 0x38) 0 8))
  let lines := max 1 (min 64 (s.regField (ctxReg c 0x38) 8 8))
  let k := r.seq.toNat / lines
  if count = 0 then s
  else
    let s1 := if ((s.cam.ctx[c]).s1.map S1Group.number) = some k then s else s.flushS1 c per avg
    let g := ((s1.cam.ctx[c]).s1).getD ⟨k, r, 0, []⟩
    let crop := (samples.drop (first * per)).take (count * per)
    let g1 := if clean then { g with taken := g.taken + 1, sums := addSums g.sums ((groupSums per avg crop).map fun n => (n, avg)) } else g
    let s2 := s1.modCtx c fun x => { x with s1 := some g1 }
    if r.seq.toNat % lines = lines - 1 then s2.flushS1 c per avg else s2

/-- Stream S3 (R304, R305, R307): one line in YDEC, held back under THROTTLE. -/
def State.streamS3 (s : State) (l : CamLine) (r : Option TrigRecord) (free : BitVec 112) (f : LineFlags) (samples : List Nat) : State :=
  let c := l.ctx
  let (_, _, per) := s.camGroup c
  let (first, count) := s.cropOf c 0x3C
  let dec := max 1 (min 64 (s.regField (ctxReg c 0x40) 0 8))
  let ydec := max 1 (s.regField (ctxReg c 0x40) 8 8)
  if count = 0 ∨ s.camRingOn c 0x44 = false then s
  else
    let k := (s.cam.ctx[c]).s3Lines
    let s1 := s.modCtx c fun x => { x with s3Lines := x.s3Lines + 1 }
    if k % ydec ≠ 0 then s1
    else if s.thm.level = .throttle then { s1 with cam := { s1.cam with previewSkip := s1.cam.previewSkip + 1 } }
    else
      let crop := (samples.drop (first * per)).take (count * per)
      let out := ((groupSums per dec crop).map fun n => BitVec.ofNat 8 (n / dec / 256)).take (2048 * per)
      (s1.putCamLine c 0x44 (s.cam.ctx[c]).s3 (lineTag r free f l (out.length / per) ++ out)).modCtx c fun x =>
        { x with s3 := x.s3 + 1 }

/-- A line with its record goes through the four streams (R303 to R307, R315). -/
def State.emitLine4 (s : State) (l : CamLine) (r : Option TrigRecord) : State :=
  let c := l.ctx
  let (bs, f) := s.emitted l
  let all := samplesOf (s.camDt c) bs
  let samples := all.take (s.camWidth c * (s.camGroup c).2.2)
  let (free, s0) := match r with
    | some _ => ((0 : BitVec 112), s)
    | none => (Config.untaggedLine s.draws, s.draw.2)
  let s1 := ((s0.countEvent 0x40 1 {}).streamS0 l r free f bs).streamS3 l r free f samples
  match r with
  | some r =>
    if r.valid then
      ((s1.streamS1 c r f.clean samples).feedMarks c r f.clean (s.camGroup c).2.2 samples).modCtx c fun x => { x with lastTag := some r }
    else s1
  | none => s1

/-- The stream stage takes a line (R297, R299, R301): a cut line, and a line dropped in compatibility mode, only consume their records. -/
def State.stageLine (s : State) (l : CamLine) : State :=
  let (r, s1) := s.takeRecord l.ctx
  if l.kind = .long ∨ (l.kind = .dropped ∧ s.compat l.ctx) then s1 else s1.emitLine4 l r

/-- The virtual channels of a port in the order they are served: after the one served last (R299). -/
def rotation (last : Fin 4) : List (Fin 4) := [last + 1, last + 2, last + 3, last]

/-- The line of a port that the stream stage takes next (R299): the oldest of the next channel with one. -/
def CamPort.next (p : CamPort) : Option CamLine :=
  ((rotation p.lastVc).find? fun v => p.lines.any fun l => decide (l.ctx.val % 4 = v.val)).bind fun v =>
    p.lines.find? fun l => decide (l.ctx.val % 4 = v.val)

/-- The stream stage takes the next line of the four ports in rotation (R299). -/
def State.stageTake (s : State) : State :=
  match (rotation s.cam.lastPort).find? fun p => !(s.cam.port[p]).lines.isEmpty with
  | none => s
  | some p =>
    match (s.cam.port[p]).next with
    | none => s
    | some l =>
      ({ s with cam := { s.cam with lastPort := p } }.modPort p fun x =>
        { x with lines := x.lines.erase l, lastVc := Fin.ofNat 4 l.ctx.val }).stageLine l

/-- The stream stage takes the next complete line at a time (R299), while CAM_CLK runs (R83). -/
def execStreamStageTake (at_ : Nat) (s : State) : Host.Outcome State Fault Refusal :=
  .next (let t := s.advance at_
    if t.blkUp .cam && t.clkRuns 5 then t.stageTake else t)

/-- Pulse width in half ns: WIDTH × 20 ns, 0 acts as 1 (R300, R310). -/
def State.trigWidth (s : State) (t : Fin 4) : Nat := max 1 (s.regField (trigReg t 0) 8 8) * 40

/-- A trigger record is VALID (R301): the plane has an origin, the direction is FWD and the speed VALID. -/
def State.recordValid (s : State) (q : Fin 8) : Bool :=
  (s.fir.plane[q]).origin.isSome && s.speedNow.isSome &&
  match s.direction with
  | some (_, rev) => !rev
  | none => false

/-- A context's own copy of a record, with its tag line from P_q and DIST (R301); a full queue discards it, counted as STALE. -/
def State.giveRecord (s : State) (c : Fin 16) (r : TrigRecord) (pq : Int) : State :=
  s.modCtx c fun x =>
    if 256 ≤ x.records.length then { x with stale := satInc x.stale }
    else { x with records := x.records ++ [{ r with tag := (pq - s.regSigned (ctxReg c 12)) / 65536 }] }

/-- The pulse of a trigger output, away from IDLE, and its record for each enabled context whose TRG names the output (R300, R301). -/
def State.pulseTrigger (s : State) (t : Fin 4) (pq : Int) : State :=
  let q := s.trigPlane t
  let r : TrigRecord := ⟨(s.cam.trig[t]).seq, s.timeNs, s.now, 0, s.recordValid q, q, s.planeFixes⟩
  let idle := s.regBit (trigReg t 0) 2
  let s1 := s.modTrig t fun x => { x with seq := x.seq + 1, last := some s.now, pulse := true }
  let s2 := s1.driveTrig t (!idle)
  (List.finRange 16).foldl (fun (u : State) c =>
    if u.regBit (ctxReg c 0) 0 ∧ u.regField (ctxReg c 0) 8 2 = t.val then u.giveRecord c r pq else u) s2

/-- A trigger of an output at a position P_q (R300): skipped too soon after the previous pulse. -/
def State.issueTrigger (s : State) (t : Fin 4) (pq : Int) : State :=
  let gap := max 2000 (2 * s.trigWidth t)
  match (s.cam.trig[t]).last with
  | some u => if s.now < u + gap then s.modTrig t fun x => { x with skip := satInc x.skip } else s.pulseTrigger t pq
  | none => s.pulseTrigger t pq

/-- X_q predicted at the model's time in 1/65536 line, as fire stamps are (R246, R300). -/
def State.predictX (s : State) (q : Fin 8) : Int :=
  let pl := s.fir.plane[q]
  match s.fir.edge, s.speedNow with
  | some e, some (v, w) => pl.x + diff48 s.fireTick e * (s.ratio * v * 65536) / (2 ^ 32 * w * 400000000)
  | _, _ => pl.x

/-- PERIOD of a trigger's grid; values below 0x1000 act as 0x1000 (R310). -/
def State.trigPeriod (s : State) (t : Fin 4) : Nat := max 0x1000 (s.reg (trigReg t 4)).toNat

/-- The grid position that P_q passes at a predicted instant: the nearest PHASE + k × PERIOD (R300). -/
def State.gridAt (s : State) (t : Fin 4) : Int :=
  let per : Int := s.trigPeriod t
  let phase : Int := (s.reg (trigReg t 8)).toNat
  phase + (2 * (max (s.fir.plane[s.trigPlane t]).print (s.predictX (s.trigPlane t)) - phase) + per) / (2 * per) * per

/-- A predicted instant of a position trigger (R300, R308): nothing while the plane has no origin, the speed is not VALID or the direction is REV, and no grid position twice. -/
def State.fireGrid (s : State) (t : Fin 4) : State :=
  let g := s.gridAt t
  let again : Bool := match (s.cam.trig[t]).grid with
    | some n => decide (g < n)
    | none => false
  if !s.recordValid (s.trigPlane t) || again then s
  else (s.modTrig t fun x => { x with grid := some (g + s.trigPeriod t) }).issueTrigger t g

/-- The predicted instant of a position trigger comes (R300); without TIME_CLK no trigger fires (R83). -/
def execTriggerFire (trigger : Fin 4) (at_ : Nat) (s : State) : Host.Outcome State Fault Refusal :=
  .next (let t := s.advance at_
    if t.blkUp .cam && t.clkRuns 1 && decide (t.trigMode trigger = 1) then t.fireGrid trigger else t)

/-- A TIM comparator match fires every output that is in time mode on it (R300): the record takes P_q as it stands. -/
def State.timeTriggers (s : State) (k : Fin 16) : State :=
  (List.finRange 4).foldl (fun (u : State) t =>
    if u.blkUp .cam ∧ u.trigMode t = 2 ∧ u.regField (trigReg t 0) 16 4 = k.val then
      u.issueTrigger t (u.fir.plane[u.trigPlane t]).print
    else u) s

/-- The pulse of a trigger output ends: the ball returns to IDLE (R300). -/
def execTriggerPulseEnd (trigger : Fin 4) (s : State) : Host.Outcome State Fault Refusal :=
  .next (if (s.cam.trig[trigger]).pulse then
    let s1 := s.modTrig trigger fun x => { x with pulse := false }
    s1.driveTrig trigger (s1.regBit (trigReg trigger 0) 2)
  else s)

/-- Records of a context have reached MAXAGE_US (R301). -/
def execTriggerRecordExpire (ctx : Fin 16) (at_ : Nat) (s : State) : Host.Outcome State Fault Refusal :=
  .next (let t := s.advance at_
    if t.blkUp .cam then t.expireRecords ctx else t)

/-- The CAMERA_DROP record of a context, at most one a millisecond (R104, R299). -/
def execCameraDropRecord (ctx : Fin 16) (at_ : Nat) (s : State) : Host.Outcome State Fault Refusal :=
  .next (let t := s.advance at_
    let x := t.cam.ctx[ctx]
    let due := match x.reported with
      | some u => decide (u + 2000000 ≤ t.now)
      | none => true
    if t.blkUp .cam && decide (x.unreported ≠ 0) && due then
      (t.log 0x00A0 1 (portOf ctx).val (leBytes 1 (ctx.val % 4) ++ leBytes 4 x.unreported)).modCtx ctx fun y =>
        { y with unreported := 0, reported := some t.now }
    else t)

/-- PORT_EN takes a value (R308 to R310): bits cannot be set under CSI_OFF; the frames of a port that is cleared close as at the timeout. -/
def State.writePortEn (s : State) (v : Word) : State :=
  let old := s.regField 0x200000 0 4
  let new := if s.rst.csiOff then bitsOf (v &&& BitVec.ofNat 32 old).toNat 0 4 else bitsOf v.toNat 0 4
  let s1 := s.setField 0x200000 0 4 new
  (List.finRange 16).foldl (fun (t : State) c =>
    if old.testBit (c.val / 4) && !new.testBit (c.val / 4) then t.closeFrame c true else t) s1

/-- A host write of CAM_CFG (R308, R310). -/
def execCamPortEnWrite (value : Word) (s : State) : Host.Outcome State Fault Refusal :=
  .next (s.onWrite 0x200000 value fun t => t.writePortEn value)

/-- CTXc_CFG takes a value (R310): clearing ENABLE closes an open frame as at the timeout, setting it starts the context's S1 group and preview count afresh. -/
def State.writeCtxCfg (s : State) (c : Fin 16) (v : Word) : State :=
  let was := s.regBit (ctxReg c 0) 0
  let s1 := if was && !v.getLsbD 0 then s.closeFrame c true else s
  let s2 := s1.hostWrite (ctxReg c 0) v
  if !was && v.getLsbD 0 then s2.modCtx c fun x => { x with s1 := none, s3Lines := 0 } else s2

/-- A host write of CAM_CTXc_CFG (R310). -/
def execCamContextEnableWrite (ctx : Fin 16) (value : Word) (s : State) : Host.Outcome State Fault Refusal :=
  .next (s.onWrite (ctxReg ctx 0) value fun t => t.writeCtxCfg ctx value)

/-- A ring's LOG2SLOTS takes a value (R305): its line count restarts as the ring goes on. -/
def State.writeCamRing (s : State) (c : Fin 16) (o : Nat) (v : Word) : State :=
  let was := s.camRingOn c (o - 8)
  let s1 := s.hostWrite (ctxReg c o) v
  if !was && s1.camRingOn c (o - 8) then s1.modCtx c fun x => if o = 0x2C then { x with s0 := 0 } else { x with s3 := 0 }
  else s1

/-- TRGt_CFG takes a value (R42, R300, R310): MODE applies from the next trigger, and position mode starts its grid afresh; a mode other than off drives the ball to IDLE. -/
def State.writeTrigCfg (s : State) (t : Fin 4) (v : Word) : State :=
  let was := s.trigMode t
  let s1 := s.hostWrite (trigReg t 0) v
  let s2 := if was = s1.trigMode t ∧ s.trigPlane t = s1.trigPlane t then s1 else s1.modTrig t fun x => { x with grid := none }
  let drives := decide (s2.trigMode t ≠ 0) || decide (s2.pins.camTrig[t] ≠ .pulled)
  if drives && !(s2.cam.trig[t]).pulse then s2.driveTrig t (s2.regBit (trigReg t 0) 2) else s2

end Sys2Proof.Machine
end

