-- ==== Sys2Proof/Machine/Deflater.lean ====
section
/-! DEFINITION. The streams that the compression engines make (R166): matching, tokens, and blocks of dynamic codes in the format of RFC 1951 (log entry 20). The hash function and the way codes are built from a block's symbols are not stated and stand free in Config. -/

namespace Sys2Proof.Machine

/-- What an engine emits for a place of its input (R166). -/
inductive Token
  /-- A byte as it is. -/
  | lit (b : Byte)
  /-- A match: length, distance. -/
  | copy (len dist : Nat)
  deriving DecidableEq, Repr

/-- The bucket of the 3 input bytes from a place, under a hash width (R166). -/
def bucketAt (inp : Array Byte) (h i : Nat) : Nat := Config.bucket h (inp.getD i 0) (inp.getD (i + 1) 0) (inp.getD (i + 2) 0) % 2 ^ h

/-- Distances from `dist` on whose place shares a bucket, nearest first, at most `d` of them (R166). -/
def chainFrom (same : Nat → Bool) : Nat → Nat → Nat → List Nat
  | 0, _, _ => []
  | _, _, 0 => []
  | n + 1, dist, d + 1 => if same dist then dist :: chainFrom same n (dist + 1) d else chainFrom same n (dist + 1) (d + 1)

/-- Bytes that match those `dist` back, up to a limit. -/
def matchLen (inp : Array Byte) (i dist : Nat) : Nat → Nat → Nat
  | 0, k => k
  | n + 1, k => if inp.getD (i + k) 0 = inp.getD (i - dist + k) 0 then matchLen inp i dist n (k + 1) else k

/-- The longest match at a place, the nearest of equals (R166): within the 32 KiB window, of length 3 to 258, not past the end of the block. -/
def findMatch (inp : Array Byte) (d h stop i : Nat) : Option (Nat × Nat) :=
  let room := min 258 (stop - i)
  if room < 3 then none
  else
    (chainFrom (fun k => decide (bucketAt inp h (i - k) = bucketAt inp h i)) (min i 32768) 1 d).foldl (fun best k =>
      let n := matchLen inp i k room 0
      if n < 3 then best
      else match best with
        | none => some (n, k)
        | some b => if b.1 < n then some (n, k) else best) none

/-- Tokens from a place to the end of its block (R166): a match is deferred by one place when the next place yields a longer one. -/
def tokensFrom (inp : Array Byte) (d h stop : Nat) : Nat → Nat → List Token
  | 0, _ => []
  | fuel + 1, i =>
    if stop ≤ i then []
    else
      let here := Token.lit (inp.getD i 0)
      match findMatch inp d h stop i with
      | none => here :: tokensFrom inp d h stop fuel (i + 1)
      | some (n, k) =>
        let longer := match findMatch inp d h stop (i + 1) with | some x => decide (n < x.1) | none => false
        if longer then here :: tokensFrom inp d h stop fuel (i + 1) else .copy n k :: tokensFrom inp d h stop fuel (i + n)

/-- The last of the first `n` symbols whose base does not exceed a value. -/
def symbolOf (base : Nat → Nat) (n v : Nat) : Nat := ((List.range n).reverse.find? fun i => decide (base i ≤ v)).getD 0

/-- Symbol of a match length, less 257. -/
def lengthSymbol (n : Nat) : Nat := symbolOf (fun i => (lengthTable.getD i (0, 0)).1) 29 n

/-- Symbol of a distance. -/
def distanceSymbol (n : Nat) : Nat := symbolOf (fun i => (distanceOf i).1) 30 n

/-- Literal and length symbol of a token. -/
def Token.litSymbol : Token → Nat
  | .lit b => b.toNat
  | .copy n _ => 257 + lengthSymbol n

/-- Distance symbol of a token. -/
def Token.distSymbol : Token → Option Nat
  | .lit _ => none
  | .copy _ k => some (distanceSymbol k)

/-- A number in `n` bits, least significant first. -/
def lowBits (n v : Nat) : List Bool := (List.range n).map v.testBit

/-- The code of a symbol, most significant bit first: codes of a length follow each other in symbol order. -/
def codeBits (lens : List Nat) (sym : Nat) : List Bool :=
  let n := lens.getD sym 0
  let first := (List.range n).foldl (fun c k => 2 * (c + if k = 0 then 0 else lenCount lens k)) 0
  let code := first + ((List.range sym).filter fun t => lens.getD t 0 = n).length
  (List.range n).map fun i => code.testBit (n - 1 - i)

/-- Bits of a token under a literal and a distance code. -/
def Token.bits (lit dist : Code) (t : Token) : List Bool :=
  codeBits lit.lens t.litSymbol ++
  match t with
  | .lit _ => []
  | .copy n k =>
    let l := lengthTable.getD (lengthSymbol n) (0, 0)
    let d := distanceOf (distanceSymbol k)
    lowBits l.2 (n - l.1) ++ codeBits dist.lens (distanceSymbol k) ++ lowBits d.2 (k - d.1)

/-- Code lengths that suit every symbol: used where the free code description does not describe a code for the block. -/
def flatLens : List Nat := List.replicate 226 8 ++ List.replicate 60 9 ++ List.replicate 2 4 ++ List.replicate 28 5

/-- The description of the flat codes: 286 and 30 symbols, with code length codes of 2 bits for the lengths 4, 5, 8 and 9. -/
def flatHeader : List Bool :=
  let cl := (List.range 19).map fun k => if k = 4 ∨ k = 5 ∨ k = 8 ∨ k = 9 then 2 else 0
  lowBits 5 29 ++ lowBits 5 29 ++ lowBits 4 9 ++ ((clOrder.take 13).flatMap fun k => lowBits 3 (cl.getD k 0)) ++ flatLens.flatMap (codeBits cl)

/-- A description of codes, read as the decoder reads it, serves the symbols of a block. -/
def servedBy (lits dists : List Nat) (bits : List Bool) : Option (Code × Code) :=
  match readDynamic bits with
  | .ok (lit, dist, []) =>
    if (lits.all fun k => decide (lit.lens.getD k 0 ≠ 0)) && dists.all fun k => decide (dist.lens.getD k 0 ≠ 0) then some (lit, dist) else none
  | _ => none

/-- One block (R166): its dynamic codes, its tokens and the end of block. -/
def blockBits (final : Bool) (ts : List Token) : List Bool :=
  let lits := ts.map Token.litSymbol ++ [256]
  let dists := ts.filterMap Token.distSymbol
  let wish := Config.blockCodes lits dists
  let (head, lit, dist) := match servedBy lits dists wish with
    | some c => (wish, c.1, c.2)
    | none => (flatHeader, Code.of (flatLens.take 286), Code.of (flatLens.drop 286))
  final :: (lowBits 2 2 ++ head ++ ts.flatMap (Token.bits lit dist) ++ codeBits lit.lens 256)

/-- Whole bytes of a bit string, least significant bit of each byte first; `pad` fills the last byte with zeros. -/
def packBits (pad : Bool) : Nat → List Bool → List Byte
  | 0, _ => []
  | fuel + 1, bs =>
    if bs.isEmpty || (!pad && decide (bs.length < 8)) then []
    else
      let b := (List.range 8).foldl (fun v i => v + if bs.getD i false then 2 ^ i else 0) 0
      BitVec.ofNat 8 b :: packBits pad fuel (bs.drop 8)

/-- The stream of an operation so far (R166), from the input it has taken of a whole length: every complete block of 65,536 input bytes, and with the end of the input the last block, padded with 0 bits. -/
def deflated (d h total : Nat) (input : List Byte) : List Byte :=
  let inp := input.toArray
  let whole := decide (total ≤ input.length)
  let n := if whole then (total + 65535) / 65536 else input.length / 65536
  let bits := (List.range n).flatMap fun b =>
    let stop := min total (65536 * b + 65536)
    blockBits (decide (stop = total)) (tokensFrom inp d h stop 65536 (65536 * b))
  packBits whole (bits.length + 1) bits

end Sys2Proof.Machine
end

