-- ==== Sys2Proof/Machine/Copier.lean ====
section
/-! DEFINITION. Views of tables as the mover and the copier reach them (R334), the copier's beats (R424), and what a chamber does to the copies aimed at it (R123 to R125, R336). -/

namespace Sys2Proof.Machine

/-- A TABLE_READ or a copy reads a staged byte, or the live one (R334). -/
def State.viewByte (s : State) (view : Nat) (key : Nat) : Byte :=
  if view = 0 then s.tableByte key else ((s.lck.ch[Fin.ofNat 4 (view - 1)]).stagedByte key).getD (s.tableByte key)

/-- Bytes at a number of 64-byte units of a live table have been written outside a chamber: gains take their targets with them (R326), and CSM_EMPTY is counted again (R212). -/
def State.liveWritten (s : State) (t off len : Nat) : State :=
  if t = 0x0011 then
    (List.range (len / 2)).foldl (fun (u : State) i => u.writeTable 0x0020 (off / 2 + i) [u.gainOf (off / 2 + i)]) s
  else if t = 0x0001 ∨ t = 0x0002 then s.countEmpty
  else s

/-- A write of the live channel table from outside a chamber has ended: links in RUN take new channel bytes (R282); `who` waits for those. -/
def State.banksChanged (s : State) (t : Nat) (who : BankFor) : State :=
  if t = 0x0002 then
    ((List.finRange 32).filter fun n => decide ((s.plk.link[n]).st = .run)).foldl (fun (u : State) n => u.queueUpload n who) s
  else s

/-- A load of a live table has ended (R212, R282, R326). -/
def State.liveChanged (s : State) (t off len : Nat) (who : BankFor) : State := (s.liveWritten t off len).banksChanged t who

/-- Writes into the live view of a staged table are allowed now (R63, R95, R121). -/
def State.liveOpen (s : State) (t : Nat) : Bool := !tableStaged t || !s.printing || s.restoreOpen t

/-- The chamber of a view 1 to 4. -/
def viewChamber (v : Nat) : Fin 4 := Fin.ofNat 4 (v - 1)

/-- The chamber of a view accepts data (R334). -/
def State.viewOpen (s : State) (v : Nat) : Bool := decide ((s.lck.ch[viewChamber v]).st = .open_)

/-- The chamber of a copy's destination view, if it is one (R121, R122). -/
def State.copyView (s : State) (r : CopyReq) : Option (Fin 4) :=
  match s.devRange r.dst r.len with
  | some (.table _ v _) => if v = 0 then none else some (viewChamber v)
  | _ => none

/-- The chamber an event target names (R123). -/
def targetChamber (t : BitVec 8) : Option (Fin 4) := if 1 ≤ t.toNat ∧ t.toNat ≤ 4 then some (viewChamber t.toNat) else none

/-- A copy is aimed at a chamber: at its view, or with it as event target (R125). -/
def State.copyAimed (s : State) (k : Fin 4) (r : CopyReq) : Bool :=
  decide (r.target.toNat = k.val + 1) ||
  match s.devRange r.dst r.len with
  | some (.table _ v _) => decide (v = k.val + 1)
  | _ => false

/-- Source bytes of a copy (R120). -/
def State.copySource (s : State) (a len : Nat) : List Byte :=
  match s.devRange a len with
  | some (.dram d) => s.dramGet d len
  | some (.table t v off) => readRange (s.viewByte v) (tableKey t off) len
  | none => []

/-- A TABLE_READ of a staged view reads the units of the chamber store that it takes in (R133, R334). -/
def State.readView (s : State) (v t off len : Nat) : State :=
  if v = 0 then s
  else (List.range ((off % 64 + len + 63) / 64)).foldl (fun (u : State) i => u.readStored 6 false (viewChamber v) (tableKey t off / 64 + i)) s

/-- The DRAM reads behind source bytes of a copy (R133): of device DRAM, or of a chamber's store. -/
def State.copyTouch (s : State) (r : CopyReq) (a len : Nat) : State :=
  match s.devRange a len with
  | some (.dram d) => s.dramTouch 7 d len (s.copyView r).isSome
  | some (.table t v off) =>
    if v = 0 then s
    else (List.range ((len + 63) / 64)).foldl (fun (u : State) i => u.readStored 7 (u.copyView r).isSome (viewChamber v) (tableKey t off / 64 + i)) s
  | none => s

/-- Write bytes at the destination of a copy (R120, R123, R333). -/
def State.copyDest (s : State) (a : Nat) (bs : List Byte) : State :=
  match s.devRange a bs.length with
  | some (.dram d) => s.dramPut 7 d bs
  | some (.table t v off) =>
    if v = 0 then (s.writeTable t off bs).liveWritten t off bs.length
    else if s.viewOpen v then s.stageUnits 7 (viewChamber v) t off bs
    else s
  | none => s

/-- Blocks a device address range lies in. -/
def State.rangeBlk (s : State) (a len : Nat) : List Blk :=
  match s.devRange a len with
  | some (.dram _) => [.dmc]
  | some (.table t v _) => if v = 0 then [tableBlk t] else [.lck, .dmc]
  | none => []

/-- Nothing makes a copy fail (R124): its blocks are up, its source reads without error, its destination chamber is OPEN. -/
def State.copyGood (s : State) (r : CopyReq) : Bool :=
  (s.rangeBlk r.src r.len ++ s.rangeBlk r.dst r.len).all s.blkUp &&
  (match s.devRange r.src r.len with | some (.dram d) => (s.badIn d r.len).isNone | _ => true) &&
  (match s.copyView r with | some k => decide ((s.lck.ch[k]).st = .open_) | none => true)

/-- A source beat of a copy reads without error (R124, R140): in DRAM, no unit of it is uncorrectable. -/
def State.beatReads (s : State) (a : Nat) : Bool :=
  match s.devRange a 64 with
  | some (.dram d) => (s.badIn d 64).isNone
  | _ => true

/-- The state with the running copy changed. -/
def State.putRun (s : State) (c : Option CopyRun) : State := { s with cpy := { s.cpy with run := c } }

/-- Offset of the first source byte a running copy has not read. -/
def CopyRun.readTo (c : CopyRun) : Nat := 64 * (c.moved + c.ahead.length)

/-- The copier reads its next source beat, at most 64 ahead of its writes (R424). -/
def State.copyRead (s : State) (c : CopyRun) : State :=
  let a := c.req.src + c.readTo
  if c.stuck || decide (64 ≤ c.ahead.length) || decide (c.req.len ≤ c.readTo) || !s.beatReads a then s
  else (s.putRun (some { c with ahead := c.ahead ++ [s.copySource a 64] })).copyTouch c.req a 64

/-- The destination of a copy takes its beats: a chamber only in OPEN (R124). -/
def State.copyTakes (s : State) (r : CopyReq) : Bool :=
  match s.copyView r with
  | some k => decide ((s.lck.ch[k]).st = .open_)
  | none => true

/-- The copier writes the oldest beat it has read (R424). -/
def State.copyWrite (s : State) (c : CopyRun) : State :=
  match c.ahead with
  | [] => s
  | b :: rest =>
    if c.stuck || !s.copyTakes c.req then s
    else (s.copyDest (c.req.dst + 64 * c.moved) b).putRun (some { c with moved := c.moved + 1, ahead := rest })

/-- A number of reads and writes of the copier, in an order that is free (R424). -/
def State.copySteps (s : State) (d : Nat) : Nat → State
  | 0 => s
  | k + 1 =>
    match s.cpy.run with
    | none => s
    | some c => (if Config.copyReads d k then s.copyRead c else s.copyWrite c).copySteps d k

/-- The running copy goes on for a while (R122, R424): how many beats it reads and writes in the time is free (log entry 52). -/
def State.copyBurst (s : State) : State :=
  match s.cpy.run with
  | none => s
  | some _ => if s.clkRuns 4 then s.draw.2.copySteps s.draw.1 (Config.copyTime s.draw.1) else s

/-- The running copy leaves the copier; where it has written the live channel table, links in RUN take new channel bytes (R282). -/
def State.endRun (s : State) (c : CopyRun) : State :=
  match s.devRange c.req.dst c.req.len with
  | some (.table t 0 _) => if c.moved = 0 then s.putRun none else (s.putRun none).banksChanged t .nobody
  | _ => s.putRun none

/-- A block of the running copy's source or destination goes into reset (R124): what the copier has moved by then stands, and it stops there. -/
def State.stickCopy (s : State) (b : Blk) : State :=
  match s.cpy.run with
  | none => s
  | some c =>
    if c.stuck = false ∧ (s.rangeBlk c.req.src c.req.len ++ s.rangeBlk c.req.dst c.req.len ++ [Blk.cpy]).contains b then
      let t := s.copyBurst
      { t with cpy := { t.cpy with run := t.cpy.run.map fun x => { x with stuck := true } } }
    else s

/-- Copies aimed at a chamber are cancelled, with no event (R125): queued ones go, the running one stops at a beat. -/
def State.cancelCopies (s : State) (k : Fin 4) : State :=
  let s1 := match s.cpy.run with
    | none => s
    | some c =>
      if s.copyAimed k c.req then
        let t := s.copyBurst
        match t.cpy.run with
        | some x => t.endRun x
        | none => t
      else s
  { s1 with cpy := { s1.cpy with queue := s.cpy.queue.filter fun r => !s.copyAimed k r } }.modChamber k fun d => { d with pending := 0 }

/-- LOCK DISCARD on a chamber that may be discarded (R336): contents emptied, copies cancelled, every waiting CHECK or ARM answered DISCARDED. -/
def State.discardChamber (s : State) (k : Fin 4) : State :=
  let ws := (s.lck.ch[k]).waiting
  let s1 := (s.cancelCopies k).modChamber k fun d => { d with waiting := [] }
  let s2 := ws.foldl (fun t a => t.lockAnswer k false a 0x13) (s1.rejectCore k 0x13)
  (s2.modChamber k fun d => { d with
    entries := [], count := 0, units := [], targets := [], used := false, checked := false, badReg := false, copyFailed := false }).admitLoops

/-- A chamber moves from OPEN to CHECKING for an asker (R336); beats of a copy that reach its view before then are staged (R124). -/
def State.leaveOpen (s : State) (k : Fin 4) (a : LockAsk) (rest : List LockAsk) : State :=
  let s1 := match s.cpy.run with
    | some c => if s.copyView c.req = some k then s.copyBurst else s
    | none => s
  s1.modChamber k fun d => { d with st := .checking, ask := some a, waiting := rest }

/-- The next waiting CHECK or ARM of a chamber: in OPEN, with no copy pending, it moves the chamber to CHECKING; in any state but OPEN and CHECKING it completes as LOCK_STATE (R123, R336). -/
def State.startCheck (s : State) (k : Fin 4) : State :=
  let c := s.lck.ch[k]
  match c.waiting.filter s.askLives with
  | [] => s.modChamber k fun d => { d with waiting := [] }
  | a :: rest =>
    match c.st with
    | .open_ =>
      if c.pending = 0 then s.leaveOpen k a rest
      else s
    | .checking => s
    | _ =>
      let s1 := s.modChamber k fun d => { d with waiting := rest }
      match a.who with
      | .entry id => s1.complete id stLockState 0
      | .ring node => s1.ringSend (.lockReply node k false)
      | .loop l planes => s1.loopRejected l planes 0

end Sys2Proof.Machine
end

