-- ==== Sys2Proof/Machine/HostRings.lean ====
section
/-! DEFINITION. The manifest, completion and log rings, their doorbells, MSI-X and the fetch of entries (chapter 05). -/

namespace Sys2Proof.Machine

/-- A host write of a manifest ring's CFG with ENABLE = 1 (R89): a ring that is off starts with HEAD 0, unless its size or its completion ring forbids it. -/
def State.mrEnable (s : State) (n : Fin 16) (v : Word) : State :=
  let s1 := s.hostWrite (mrCfg n) v
  if s.regBit (mrCfg n) 0 then s1
  else
    let lg := s1.regField (mrCfg n) 1 5
    if 6 ≤ lg ∧ lg ≤ 16 ∧ s1.regBit (crCfg (s1.ringCr n)) 0 then
      { s1 with hif := { s1.hif with mr := modAt s1.hif.mr n fun r => { r with head := 0, state := .running, error := 0 } } }
    else s1.setField (mrCfg n) 0 1 0

/-- A host write of 1 to a manifest ring's ENABLE (R89). -/
def execMrEnableWrite (ring : Fin 16) (value : Word) (s : State) : Host.Outcome State Fault Refusal :=
  .next (s.onWrite (mrCfg ring) (value ||| 1) fun t => t.mrEnable ring (value ||| 1))

/-- Entries that complete at once as ABORTED when their ring is disabled (R90): a LOCK ARM or a JOB_CLOSE that waits, and a halted entry. -/
def abortable (f : Flight) : Bool :=
  decide (f.phase = .faulted) ||
  (decide (f.phase = .waiting) && (decide (f.e.op = 0x61) || (decide (f.e.op = 0x50) && decide (bitsOf f.e.sub.toNat 4 4 = 3))))

/-- STATE of a disabled ring reads DISABLED once BUSY is 0 (R90). -/
def State.drainRing (s : State) (n : Fin 16) : State :=
  if s.regBit (mrCfg n) 0 || s.hif.flights.any fun f => decide (f.ring = n) then s
  else { s with hif := { s.hif with mr := modAt s.hif.mr n fun r => { r with state := .disabled } } }

/-- A JOB_CLOSE of a plane after entries that waited for it were aborted (R262): a holding or ARMED plane that no entry waits for has no close any more, a CLOSING plane keeps it. -/
def Plane.abandonClose (p : Plane) (ids : List Nat) : Plane :=
  match p.close with
  | none => p
  | some c =>
    let left := c.flights.filter fun i => !ids.contains i
    if left.length = c.flights.length then p
    else if left.isEmpty && decide (p.phase ≠ .closing) then { p with close := none }
    else { p with close := some { c with flights := left } }

/-- Complete every entry of a ring that the ring's disabling aborts (R90, R262); one that begins to wait, or faults, later is not aborted (log entry 171). -/
def State.abortRing (s : State) (n : Fin 16) : State :=
  let test := fun f : Flight => decide (f.ring = n) && abortable f
  let ids := (s.hif.flights.filter test).map Flight.id
  let s1 := s.completeAll test stAborted
  { s1 with fir := { s1.fir with plane := s1.fir.plane.map fun p => p.abandonClose ids } }

/-- A host write of 0 to a manifest ring's ENABLE (R90, R115): no further fetch, waiting entries complete as ABORTED, the fault slot is released. -/
def State.mrDisable (s : State) (n : Fin 16) (v : Word) : State :=
  let s1 := s.hostWrite (mrCfg n) v
  let s2 := { s1 with mmu := { s1.mmu with flt := modAt s1.mmu.flt (n.castLE (by decide)) fun f => { f with valid := false } } }
  (s2.abortRing n).drainRing n

/-- A host write of 0 to a manifest ring's ENABLE (R90). -/
def execMrDisableWrite (ring : Fin 16) (value : Word) (s : State) : Host.Outcome State Fault Refusal :=
  .next (s.onWrite (mrCfg ring) (value &&& ~~~1) fun t => t.mrDisable ring (value &&& ~~~1))

/-- The last fetched entry of a disabled ring has completed (R90). -/
def execMrDrained (ring : Fin 16) (s : State) : Host.Outcome State Fault Refusal := .next (s.drainRing ring)

/-- A manifest ring that names completion ring m is enabled (R89). -/
def State.crNamed (s : State) (m : Fin 8) : Bool :=
  (List.finRange 16).any fun n => s.regBit (mrCfg n) 0 && decide (s.ringCr n = m)

/-- A ring that the device writes starts with TAIL 0 and PHASE 1 (R89); its HEAD and its unsignalled count start at 0 too (log entry 170). -/
def freshRing : CRing := { tail := 0, phase := true, head := 0, unsig := 0 }

/-- LOG2SIZE of a completion or log ring is in range (R89). -/
def State.crSizeOk (s : State) (cfg : Nat) : Bool := decide (8 ≤ s.regField cfg 1 5) && decide (s.regField cfg 1 5 ≤ 16)

/-- A host write of a completion ring's CFG (R89). -/
def State.crWrite (s : State) (m : Fin 8) (v : Word) : State :=
  let was := s.regBit (crCfg m) 0
  let s1 := s.hostWrite (crCfg m) v
  if !was && v.getLsbD 0 then
    if s1.crSizeOk (crCfg m) then { s1 with hif := { s1.hif with cr := s1.hif.cr.set m freshRing } }
    else s1.setField (crCfg m) 0 1 0
  else if was && !v.getLsbD 0 && s.crNamed m then s1.setField (crCfg m) 0 1 1
  else s1

/-- A write of a completion ring's ENABLE (R89). -/
def execCrEnableWrite (ring : Fin 8) (value : Word) (s : State) : Host.Outcome State Fault Refusal :=
  .next (s.onWrite (crCfg ring) value fun t => t.crWrite ring value)

/-- A host write of HIF_LOG_CFG (R89). -/
def State.logWrite (s : State) (v : Word) : State :=
  let was := s.regBit logCfg 0
  let s1 := s.hostWrite logCfg v
  if !was && v.getLsbD 0 then
    if s1.crSizeOk logCfg then { s1 with hif := { s1.hif with log := freshRing } } else s1.setField logCfg 0 1 0
  else s1

/-- A write of HIF_LOG_CFG.ENABLE (R89). -/
def execLogEnableWrite (value : Word) (s : State) : Host.Outcome State Fault Refusal :=
  .next (s.onWrite logCfg value fun t => t.logWrite value)

/-- Doorbell page offset of ring n (R91). -/
def dblPage (n : Nat) : Nat := 0x300000 + 0x1000 * n

/-- RING_ERROR record (R92, R101, R104): kind 1 manifest read, 2 bad TAIL, 3 bad HEAD. -/
def State.ringError (s : State) (ring kind : Nat) : State := s.log 0x0090 2 ring [BitVec.ofNat 8 kind]

/-- A doorbell write of TAIL (R91, R92). -/
def State.writeTail (s : State) (n : Fin 16) (tail : BitVec 16) : State :=
  if tail.toNat < s.ringSize (mrCfg n) then
    { s with hif := { s.hif with mr := modAt s.hif.mr n fun r => { r with tail := tail } } }
  else s.ringError n 2

/-- A doorbell write of a manifest ring's TAIL (R92). -/
def execDblMtailWrite (ring : Fin 16) (tail : BitVec 16) (s : State) : Host.Outcome State Fault Refusal :=
  .next (s.onWrite (dblPage ring) (tail.setWidth 32) fun t => t.writeTail ring tail)

/-- The oldest faulted entry of a ring, by the order in which entries faulted. -/
def State.oldestFault (s : State) (n : Fin 16) : Option Flight :=
  (s.hif.flights.filter fun f => decide (f.ring = n ∧ f.phase = .faulted)).foldl
    (fun best f => match best with
      | none => some f
      | some b => if f.faultNo < b.faultNo then some f else some b) none

/-- Operand slots of an entry as a transfer: kind, device-side address, host address, length (R95, R118); none where the entry moves no host data. -/
def Entry.transfer (e : Entry) : Option (XferKind × Nat × Nat × Nat) :=
  match e.op.toNat with
  | 0x10 => some (.quire, e.num 1, e.num 0, e.num 2)
  | 0x20 => some (.table e.sub (Fin.ofNat 5 (e.num 3)), e.num 1, e.num 0, e.num 2)
  | 0x21 => some (.tableRead e.sub (if e.num 3 % 2 = 0 then 0 else Fin.ofNat 5 (e.num 3 / 2 + 1)), e.num 1, e.num 0, e.num 2)
  | 0x30 => some (.pte, e.num 1, e.num 0, e.num 2)
  | _ => none

/-- A transfer takes its place behind the active one of its class, in the order in which the entries started (R118); `behind` says that one of the class stands before. -/
def insertXfer (x : Xfer) : Bool → List Xfer → List Xfer
  | _, [] => [x]
  | behind, y :: t =>
    if behind && decide (y.cls = x.cls ∧ x.start < y.start) then x :: y :: t
    else y :: insertXfer x (behind || decide (y.cls = x.cls)) t

/-- The data mover takes a transfer in (R118). -/
def State.addXfer (s : State) (x : Xfer) : State := { s with hif := { s.hif with xfers := insertXfer x false s.hif.xfers } }

/-- Give an entry's transfer to the data mover, from the bytes it has done (R100, R118). -/
def State.startXfer (s : State) (f : Flight) : State :=
  match f.e.transfer with
  | none => s
  | some (k, dev, host, len) =>
    s.addXfer ⟨f.id, s.ringClass f.ring, k, dev + f.done, host + f.done, len - f.done, f.done, false, f.start⟩

/-- The compression request of a COMPRESS entry (R95, R169). -/
def Flight.compReq (f : Flight) : CompReq :=
  let sub := f.e.sub.toNat
  { flight := some f.id, src := f.e.num 0, dst := f.e.num 1, len := f.e.num 2 % 2 ^ 32, cap := f.e.num 2 / 2 ^ 32
    depth := sub % 128, hash := bitsOf sub 8 4
    srcAt := if sub.testBit 12 then .job else .host, dstAt := if sub.testBit 13 then .job else .host }

/-- The compression request of the firmware's camera archive (R169): device DRAM to device DRAM. -/
def archiveReq (a : Config.ArchiveReq) : CompReq :=
  ⟨none, a.src.toNat, a.dst.toNat, a.len.toNat, a.cap.toNat, a.depth.val + 1, a.hash.val + 10, .dram, .dram⟩

/-- The camera-archive requests that running firmware has made since the last draw join the compression requests that wait (R169; free, log entry 153). -/
def State.archiveArrives (s : State) : State :=
  if s.blkUp .cores then
    let t := s.draw.2
    { t with qdc := { t.qdc with compQueue := t.qdc.compQueue ++ (Config.archiveRequests s.draw.1).map archiveReq } }
  else s

/-- Put a COMPRESS entry behind the compression requests that wait (R169). -/
def State.queueCompress (s : State) (f : Flight) : State :=
  let t := s.archiveArrives
  { t with qdc := { t.qdc with compQueue := t.qdc.compQueue ++ [f.compReq] } }.waitFlight f.id

/-- Continue the faulted entries of a RUNNING ring in the order they faulted, each with a completion slot of its own (R26, R100); `fuel` bounds them. A COMPRESS waits again for an engine and continues from its first byte; an entry aimed at a block in reset completes as BLOCK_RESET (R108). -/
def State.resumeFaults (s : State) (n : Fin 16) : Nat → State
  | 0 => s
  | k + 1 =>
    match s.oldestFault n with
    | none => s
    | some f =>
      if s.slotFree (s.ringCr n) then
        let s1 := s.modFlight f.id fun g => { g with phase := .running }
        (if !f.e.blocks.all s1.blkUp then s1.complete f.id stBlockReset f.done
         else if f.e.op = 0x48 then s1.queueCompress f
         else s1.startXfer f).resumeFaults n k
      else s

/-- RESUME of a HALTED ring (R100, R115): the ring runs again, its fault slot is released and its faulted entries continue. -/
def State.resumeRing (s : State) (n : Fin 16) : State :=
  if s.hif.mr[n].state = .halted then
    let s1 := { s with hif := { s.hif with mr := modAt s.hif.mr n fun r => { r with state := .running } } }
    let s2 := { s1 with mmu := { s1.mmu with flt := modAt s1.mmu.flt (n.castLE (by decide)) fun f => { f with valid := false } } }
    s2.resumeFaults n s2.hif.flights.length
  else s

/-- A RESUME doorbell write (R100). -/
def execDblMctrlResume (ring : Fin 16) (s : State) : Host.Outcome State Fault Refusal :=
  .next (s.onWrite (dblPage ring + 4) 1 fun t => t.resumeRing ring)

/-- A doorbell write of a completion ring's HEAD (R91, R92, R98); entries that waited for a slot to continue take it (R100). -/
def State.writeHead (s : State) (m : Fin 8) (head : BitVec 16) : State :=
  if head.toNat < s.ringSize (crCfg m) then
    let s1 := { s with hif := { s.hif with cr := modAt s.hif.cr m fun c => { c with head := head } } }
    (List.finRange 16).foldl (fun t n =>
      if t.hif.mr[n].state = .running ∧ t.ringCr n = m then t.resumeFaults n t.hif.flights.length else t) s1
  else s.ringError m 3

/-- A doorbell write of a completion ring's HEAD (R98). -/
def execDblCheadWrite (ring : Fin 8) (head : BitVec 16) (s : State) : Host.Outcome State Fault Refusal :=
  .next (s.onWrite (dblPage ring + 8) (head.setWidth 32) fun t => t.writeHead ring head)

/-- UNIT of a RING_ERROR record about the log ring: the log ring has no number (log entry 14). -/
def logRingUnit : Nat := 0xFF

/-- A doorbell write of the log ring's HEAD (R91, R92, R105). -/
def State.writeLogHead (s : State) (head : BitVec 16) : State :=
  if head.toNat < s.ringSize logCfg then { s with hif := { s.hif with log := { s.hif.log with head := head } } }
  else s.ringError logRingUnit 3

/-- A doorbell write of the log ring's HEAD (R105). -/
def execDblLheadWrite (head : BitVec 16) (s : State) : Host.Outcome State Fault Refusal :=
  .next (s.onWrite (dblPage 0 + 0xC) (head.setWidth 32) fun t => t.writeLogHead head)

/-- HIF fetches at all: its block is up, bring-up has ended, and no sleep entry is under way (R69, R108). -/
def State.fetching (s : State) : Bool :=
  s.blkUp .hif && s.bootDone && !s.rst.asleep && decide (s.rst.sleep ≠ .draining ∧ s.rst.sleep ≠ .ready)

/-- Room in the on-chip queue of a class: 64 entries (R93). -/
def State.queueRoom (s : State) (c : Fin 4) : Bool :=
  decide ((s.hif.flights.filter fun f => decide (s.ringClass f.ring = c ∧ f.phase = .queued)).length < 64)

/-- An entry of a ring is fetchable (R93). -/
def State.fetchable (s : State) (n : Fin 16) : Bool :=
  decide (s.hif.mr[n].state = .running ∧ s.hif.mr[n].head ≠ s.hif.mr[n].tail) && s.regBit (mrCfg n) 0 &&
  s.slotFree (s.ringCr n) && s.queueRoom (s.ringClass n)

/-- The rings in turn order of a class: those after the one served last come first (R93). -/
def State.turnOrder (s : State) (c : Fin 4) : List (Fin 16) :=
  let l := s.hif.lastServed[c].val
  (List.range 16).map fun k => Fin.ofNat 16 (l + 1 + k)

/-- The ring HIF fetches from next (R93): the lowest-numbered class with a fetchable entry, round robin within it. -/
def State.nextFetch (s : State) : Option (Fin 16) :=
  if s.fetching then
    (List.finRange 4).findSome? fun c => (s.turnOrder c).find? fun n => decide (s.ringClass n = c) && s.fetchable n
  else none

/-- Copy the entry at HEAD on chip, advance HEAD, and check it (R92, R96). -/
def State.fetchEntry (s : State) (n : Fin 16) (w : BitVec 512) : State :=
  let r := s.hif.mr[n]
  let e := parseEntry w
  let f : Flight := { id := s.hif.nextId, ring := n, index := r.head, e := e, phase := .queued, done := 0, faultNo := 0 }
  let head := BitVec.ofNat 16 ((r.head.toNat + 1) % s.ringSize (mrCfg n))
  let s1 := { s with hif := { s.hif with
    mr := s.hif.mr.set n { r with head := head }
    lastServed := s.hif.lastServed.set (s.ringClass n) n
    flights := s.hif.flights ++ [f]
    nextId := s.hif.nextId + 1 } }
  let s2 := ((s1.emit (.hostRead (s.busAddr (mrCfg n - 8) + 64 * r.head.toNat) 64)).countEvent 0x10 64 {}).countEvent 0x12 1 {}
  match s2.entryCheck (s2.regBit (mrCfg n) 8) e with
  | none => s2
  | some st => s2.complete f.id st 0

/-- HIF fetches the next fetchable entry (R93); a fetch from a ring that is not next changes nothing (log entry 4). -/
def execManifestFetch (ring : Fin 16) (entry : BitVec 512) (s : State) : Host.Outcome State Fault Refusal :=
  .next (if s.nextFetch = some ring then s.fetchEntry ring entry else s)

/-- A read of a manifest ring fails (R101): STATE goes ERROR and a RING_ERROR record is written. -/
def execManifestReadFail (ring : Fin 16) (s : State) : Host.Outcome State Fault Refusal :=
  .next (if s.nextFetch = some ring then
    { s with hif := { s.hif with mr := modAt s.hif.mr ring fun r => { r with state := .error, error := 1 } } }.ringError ring 1
  else s)

/-- The coalescing timer of a completion ring, or of the log ring, runs out (R106). -/
def execCoalTimerExpiry (ring : Option (Fin 8)) (s : State) : Host.Outcome State Fault Refusal :=
  .next (match ring with
    | some m => if s.blkUp .hif ∧ s.hif.cr[m].unsig ≠ 0 ∧ s.regField (crCfg m) 24 8 ≠ 0 then s.signalCr m else s
    | none => if s.blkUp .hif ∧ s.hif.log.unsig ≠ 0 ∧ s.regField logCfg 24 8 ≠ 0 then s.signalLog else s)

/-- A vector is unmasked; a message held by its pending bit goes out (R106). -/
def State.unmask (s : State) (v : Fin 64) : State :=
  let bit := BitVec.twoPow 64 v
  let s1 := { s with hif := { s.hif with msixMask := s.hif.msixMask &&& ~~~bit, msixPend := s.hif.msixPend &&& ~~~bit } }
  if s.hif.msixPend.getLsbD v then (s1.emit (s1.msixMessage v)).countEvent 0x13 1 {} else s1

/-- A vector is masked (R106). -/
def State.mask (s : State) (v : Fin 64) : State :=
  { s with hif := { s.hif with msixMask := s.hif.msixMask ||| BitVec.twoPow 64 v } }

/-- A write of one dword of a vector's entry in the MSI-X table: message address, its upper half, message data, vector control (R19, R106; the layout is the base specification's, log entry 13). -/
def State.writeVector (s : State) (v : Fin 64) (dword : Nat) (x : Word) : State :=
  let h := s.hif
  match dword with
  | 0 => { s with hif := { h with msixAddr := modAt h.msixAddr v fun a => a.extractLsb' 32 32 ++ (x &&& 0xFFFFFFFC) } }
  | 1 => { s with hif := { h with msixAddr := modAt h.msixAddr v fun a => x ++ a.extractLsb' 0 32 } }
  | 2 => { s with hif := { h with msixData := h.msixData.set v x } }
  | _ => if x.getLsbD 0 then s.mask v else s.unmask v

/-- BAR4 answers: the link is up and bring-up has ended, and HIF is not in reset (R19, R65, R66). -/
def State.bar4Open (s : State) : Bool :=
  s.rst.pcieUp && !s.rst.asleep && !s.rst.d3hot && s.bootDone && s.blkUp .hif

/-- A host write of a dword of BAR4 (R19, R106): one of the MSI-X table takes effect, the pending bits behind it are read only; while BAR4 is closed the write is discarded as Unsupported Request (R65, R66). -/
def execMsixUnmask (write : TableWrite) (s : State) : Host.Outcome State Fault Refusal :=
  .next (let o := write.offset.toNat
    if s.rst.pcieUp = false then s
    else if s.bar4Open = false ∨ o % 4 ≠ 0 then s.discardWrite
    else if o < 1024 then s.writeVector (Fin.ofNat 64 (o / 16)) (o / 4 % 4) write.value
    else s)

/-- A log slot has freed after losses (R105). -/
def execLostRecordWrite (s : State) : Host.Outcome State Fault Refusal := .next s.putLost

/-- NOP completes at once; with FENCE it is a barrier, which `withEntry` keeps (R95, R97). -/
def execNop (ring : Fin 16) (s : State) : Host.Outcome State Fault Refusal :=
  .next (s.withEntry ring (fun e => decide (e.op = 0x00)) fun f t => t.complete f.id stOk 0)

end Sys2Proof.Machine
end

