-- ==== Sys2Proof/Machine/Sha.lean ====
section
/-! DEFINITION. HMAC-SHA-256, which R285 names for head authentication (FIPS 180-4 and FIPS 198-1, log entry 34). Its constants are computed from what they are: fraction bits of roots of primes. -/

namespace Sys2Proof.Machine

/-- The greatest number of `i` more bits from `r` on whose `k`th power does not exceed n. -/
def rootBits (k n : Nat) : Nat → Nat → Nat
  | 0, r => r
  | i + 1, r => rootBits k n i (if (r + 2 ^ i) ^ k ≤ n then r + 2 ^ i else r)

/-- The primes below 312, 64 of them. -/
def smallPrimes : List Nat :=
  (List.range 312).filter fun n => decide (2 ≤ n) && [2, 3, 5, 7, 11, 13, 17].all fun d => decide (n = d ∨ n % d ≠ 0)

/-- The first 32 fraction bits of the `k`th roots of some primes. -/
def rootWords (k : Nat) (ps : List Nat) : List (BitVec 32) := ps.map fun p => BitVec.ofNat 32 (rootBits k (p * 2 ^ (32 * k)) 35 0)

/-- The exclusive or of a word's rotations. -/
def turns (x : BitVec 32) (rs : List Nat) : BitVec 32 := rs.foldl (fun y r => y ^^^ x.rotateRight r) 0

/-- The hash under way: the words of the schedule still to come, next first, and the last four values of each of the two working chains, newest first. -/
structure ShaWork where
  /-- Sixteen words of the schedule. -/
  win : List (BitVec 32)
  /-- Chain a to d. -/
  as : List (BitVec 32)
  /-- Chain e to h. -/
  es : List (BitVec 32)
  deriving DecidableEq, Repr

/-- One round with its constant: either chain takes one value, the window one word. -/
def ShaWork.round (s : ShaWork) (k : BitVec 32) : ShaWork :=
  let w := fun i => s.win.getD i 0
  let a := fun i => s.as.getD i 0
  let e := fun i => s.es.getD i 0
  let choice := e 2 ^^^ (e 0 &&& (e 1 ^^^ e 2))
  let most := (a 0 &&& (a 1 ||| a 2)) ||| (a 1 &&& a 2)
  let t := w 0 + k + e 3 + turns (e 0) [6, 11, 25] + choice
  let fresh := w 0 + w 9 + (turns (w 1) [7, 18] ^^^ (w 1 >>> 3)) + (turns (w 14) [17, 19] ^^^ (w 14 >>> 10))
  { win := s.win.drop 1 ++ [fresh], as := (t + turns (a 0) [2, 13, 22] + most) :: s.as.take 3, es := (a 3 + t) :: s.es.take 3 }

/-- A number as bytes, most significant first. -/
def beBytes (n v : Nat) : List Byte := (List.range n).reverse.map fun i => BitVec.ofNat 8 (v / 256 ^ i)

/-- The words of a block of bytes, most significant byte first; the number counts them. -/
def beWords : Nat → List Byte → List (BitVec 32)
  | 0, _ => []
  | k + 1, bs => BitVec.ofNat 32 ((bs.take 4).foldl (fun v b => 256 * v + b.toNat) 0) :: beWords k (bs.drop 4)

/-- The two chains after the whole blocks of a byte string; the number counts the blocks. -/
def shaBlocks (ks : List (BitVec 32)) : Nat → List (BitVec 32) × List (BitVec 32) → List Byte → List (BitVec 32) × List (BitVec 32)
  | 0, h, _ => h
  | n + 1, h, bs =>
    let r := ks.foldl ShaWork.round ⟨beWords 16 bs, h.1, h.2⟩
    shaBlocks ks n (r.as.zipWith (· + ·) h.1, r.es.zipWith (· + ·) h.2) (bs.drop 64)

/-- SHA-256 of a byte string. -/
def sha256 (m : List Byte) : List Byte :=
  let blocks := (m.length + 72) / 64
  let fill := List.replicate (64 * blocks - m.length - 9) (0 : Byte)
  let init := rootWords 2 (smallPrimes.take 8)
  let h := shaBlocks (rootWords 3 smallPrimes) blocks (init.take 4, init.drop 4) (m ++ 0x80 :: fill ++ beBytes 8 (8 * m.length))
  (h.1 ++ h.2).flatMap fun w => beBytes 4 w.toNat

/-- HMAC-SHA-256: the message under the key's inner pad, that hash under its outer pad. -/
def hmac (key m : List Byte) : List Byte :=
  let k := if 64 < key.length then sha256 key else key
  let under := fun (mask : Byte) (x : List Byte) => sha256 ((k ++ List.replicate (64 - k.length) 0).map (· ^^^ mask) ++ x)
  under 0x5C (under 0x36 m)

end Sys2Proof.Machine
end

