-- ==== Sys2Proof/Machine/Links.lean ====
section
/-! DEFINITION. The Preaz Link (chapter 13) as shared operations: state changes, faults, bring-up, latency, alignment, head authentication and channel banks. -/

namespace Sys2Proof.Machine

/-- BAR0 offset of a register of link n (R20, R293). -/
def linkReg (n : Fin 32) (o : Nat) : Nat := 0x180000 + 0x1000 * n.val + o

/-- STATE as R287 numbers it. -/
def linkStateCode : LinkPhase → Nat
  | .disabled => 0x0 | .t0 => 0x1 | .rate => 0x2 | .lock => 0x3 | .prbs => 0x4 | .echo => 0x5 | .sync => 0x6
  | .auth => 0x7 | .load => 0x8 | .run => 0x9 | .test => 0xA | .fault => 0xF

/-- Fire ticks that a number of blocks takes on the lane, rounded up (R266): 5.12 ticks a block at R5, 2.56 at R10. -/
def blockTicks (r : LinkRate) (blocks : Nat) : Nat :=
  match r with
  | .t0 => 0
  | .r5 => (blocks * 128 + 24) / 25
  | .r10 => (blocks * 64 + 24) / 25

/-- Time that a number of blocks takes on the lane, in half ns (R266). -/
def blockTime (r : LinkRate) (blocks : Nat) : Nat :=
  match r with
  | .t0 => 0
  | .r5 => (blocks * 128 + 4) / 5
  | .r10 => (blocks * 64 + 4) / 5

/-- N_blk (R272). -/
def State.lineBlocks (s : State) : Nat := 10 + 128 * s.bits

/-- L_k for a board, a D_FWD in 1/16 tick and a rate (R279). -/
def State.linkLatency (s : State) (c : Caps) (r : LinkRate) (dfwd : Nat) : Nat :=
  64 + (dfwd + 15) / 16 + blockTicks r s.lineBlocks + c.proc.toNat

/-- T_link (R280). -/
def State.linkPeriod (s : State) (c : Caps) (r : LinkRate) (lat : Nat) : Nat :=
  max (max c.tmin.toNat (blockTicks r (s.lineBlocks + 16))) ((lat + s.guardTicks + (c.nbuf.toNat - 2) - 1) / (c.nbuf.toNat - 2))

/-- The gutter of a link goes SILENT: fetch stage and slots emptied (R215); the link counts as live again once it is RUNNING (R214). -/
def State.gutterSilent (s : State) (n : Fin 32) : State :=
  { s with csm := { s.csm with link := modAt s.csm.link n fun g => { away := true, sent := g.sent } } }

/-- A link that has left RUN holds no chamber back any more and has no bank of it (R282). -/
def State.forsakeChambers (s : State) (n : Fin 32) : State :=
  (List.finRange 4).foldl (fun (t : State) k =>
    let waits := (t.lck.ch[k]).banks.contains n
    let t1 := t.modChamber k fun d => { d with sent := d.sent.filter (· ≠ n) }
    if waits then t1.bankSettled k n else t1) s

/-- RUN has lasted 10 s (R287). -/
def Link.longRun (l : Link) (now : Nat) : Bool :=
  match l.runSince with
  | some t => decide (t + 20000000000 ≤ now)
  | none => false

/-- A link leaves RUN: its uploads and a repeated exchange end, and after 10 s in RUN the backoff is 1 ms again (R282, R287). -/
def Link.leaveRun (l : Link) (now : Nat) : Link :=
  { l with uploads := [], auth := none, runSince := none, sendUntil := 0, backoff := if l.longRun now then 1 else l.backoff }

/-- A line that stops in the middle does not count as sent (R320). -/
def cutSent : List (Nat × Nat) → List (Nat × Nat)
  | [] => []
  | (a, b) :: t => if a < b then (a, b - 1) :: t else t

/-- A line being sent when its link leaves RUN stops (R288, R291, R320). -/
def State.cutLine (s : State) (n : Fin 32) : State :=
  if s.now < (s.plk.link[n]).sendUntil then
    { s with csm := { s.csm with link := modAt s.csm.link n fun g => { g with sent := cutSent g.sent } } }.emit (.lineCut n)
  else s

/-- A link changes state (R287). On leaving RUN a line being sent stops, its gutter goes SILENT and its uploads end (R215, R282, R288). -/
def State.moveLink (s : State) (n : Fin 32) (to_ : LinkPhase) (f : Link → Link) : State :=
  if (s.plk.link[n]).st = .run ∧ to_ ≠ .run then
    (((s.cutLine n).modLink n fun l => f { l.leaveRun s.now with st := to_ }).gutterSilent n).forsakeChambers n
  else s.modLink n fun l => f { l with st := to_ }

/-- A control block: its type and the bytes after it (R271). -/
def controlBlock (type body : Nat) : BitVec 64 := BitVec.ofNat 64 (type + 256 * (body % 2 ^ 56))

/-- A control block of a type leaves on a link; `body` holds bytes 1 to 7 (R271). -/
def State.sendBlock (s : State) (n : Fin 32) (type body : Nat) : State := s.emit (.block n (controlBlock type body))

/-- A capability frame with its CRC-32C, sent once or back to back (R267, R426). -/
def State.sendCap (s : State) (n : Fin 32) (content : List Byte) (repeats : Bool) : State :=
  let c := (content ++ List.replicate 12 0).take 12
  s.emit (.capFrame n (c ++ leBytes 4 (crc32c c).toNat) repeats)

/-- The content of a received frame: none with a code or disparity error, or a wrong CRC-32C (R267). -/
def frameContent (frame : BitVec 128) (clean : Bool) : Option (BitVec 96) :=
  if clean ∧ crc32c ((leBytes 16 frame.toNat).take 12) = frame.extractLsb' 96 32 then some (frame.extractLsb' 0 96) else none

/-- Both lanes of a link take a rate; LINK_CLK[n] is gated while they switch (R266, R269). -/
def Link.setRate (l : Link) (r : LinkRate) (now : Nat) : Link :=
  { l with rate := r, gapUntil := if l.rate = r then l.gapUntil else now + 4000 }

/-- What a bring-up takes from PLK_LNn_CFG as it begins (R293). -/
def State.takeSetup (s : State) (n : Fin 32) (l : Link) : Link :=
  { l with maxRate := s.regField (linkReg n 0) 1 2, prbsMs := s.regField (linkReg n 0) 8 8, lockFails := 0, noR10 := false }

/-- Enter T0 (R267, R268, R287): both lanes in T0, CAP frames sent; an entry from RUN or FAULT counts as a retrain, and any but one from LOCK begins a bring-up. -/
def State.startT0 (s : State) (n : Fin 32) : State :=
  let l := s.plk.link[n]
  let counts := decide (l.st = .run ∨ l.st = .fault) || l.restart
  (s.moveLink n .t0 fun x =>
    let y := (if l.st = .lock then x else s.takeSetup n x).setRate .t0 s.now
    { y with
      lock := false, seen := none, caps := none, goRate := none, retrains := if counts then x.retrains + 1 else x.retrains
      echoes := [], rtts := [], uploads := [], auth := none, refused := false, restart := false }).sendCap n [0x01, 0x01, 0x03] true

/-- A link goes DISABLED (R287): both lanes in electrical idle. -/
def State.disableLink (s : State) (n : Fin 32) : State :=
  s.moveLink n .disabled fun x => { x.setRate .t0 s.now with
    lock := false, seen := none, goRate := none, echoes := [], uploads := [], auth := none, refused := false, restart := false }

/-- Bring-up starts on a link that is enabled and out of reset (R287). -/
def State.bringUp (s : State) (n : Fin 32) : State :=
  if s.linkUp n && s.regBit (linkReg n 0) 0 && decide ((s.plk.link[n]).st = .disabled) then s.startT0 n else s

/-- Errors of R377 on planes: the time is kept. -/
def State.twinError (s : State) (ps : List (Fin 8)) : State :=
  ps.foldl (fun (t : State) p => t.modTwin p fun x => { x with errAt := some t.now }) s

/-- A link goes FAULT without a LINK_FAULT record (R286, R287): an exchange or upload of bring-up ends, and the backoff doubles. -/
def State.enterFault (s : State) (n : Fin 32) (f : Link → Link) : State :=
  s.moveLink n .fault fun x => f { x with lock := false, uploads := [], auth := none, backoff := min 1000 (2 * x.backoff) }

/-- A link fault whose cause stops bring-up or leaves RUN (R287, R288): LINK_FAULT with the cause and the state left, then FAULT; in RUN it is an error of R377 on the link's plane. -/
def State.linkFault (s : State) (n : Fin 32) (cause : Nat) : State :=
  let l := s.plk.link[n]
  let s1 := s.log 0x0030 2 n [BitVec.ofNat 8 cause, BitVec.ofNat 8 (linkStateCode l.st)]
  let s2 := if l.st = .run then s1.twinError ((linkPlane s.liveView n).toList) else s1
  s2.enterFault n fun x => { x with cause := BitVec.ofNat 8 cause }

/-- A fault cause that does not leave RUN: logged at most once per millisecond (R288). -/
def State.linkNote (s : State) (n : Fin 32) (cause : Nat) : State :=
  let l := s.plk.link[n]
  let s1 := s.modLink n fun x => { x with cause := BitVec.ofNat 8 cause }
  match l.logged.find? fun e => decide (e.1 = cause ∧ s.now < e.2 + 2000000) with
  | some _ => s1
  | none =>
    (s1.modLink n fun x => { x with logged := (cause, s.now) :: x.logged.filter fun e => decide (e.1 ≠ cause) }).log 0x0030 2 n
      [BitVec.ofNat 8 cause, BitVec.ofNat 8 (linkStateCode l.st)]

/-- The capabilities in the 12 content bytes of a CAP frame (R268). -/
def parseCaps (w : BitVec 96) : Caps :=
  { pver := w.extractLsb' 8 8, rates := w.extractLsb' 16 2, dual := w.getLsbD 24, portB := w.getLsbD 25, auth := w.getLsbD 26
    tmin := w.extractLsb' 32 16, proc := w.extractLsb' 48 16, channels := w.extractLsb' 64 16
    maxBits := w.extractLsb' 80 8, nbuf := w.extractLsb' 88 8 }

/-- The highest rate that the board, the device and MAXRATE allow (R269); not R10 after three failures to lock at it (R287). -/
def Link.bestRate (l : Link) (c : Caps) : Option LinkRate :=
  if c.rates.getLsbD 1 && decide (l.maxRate ≠ 1) && !l.noR10 then some .r10
  else if c.rates.getLsbD 0 then some .r5
  else none

/-- RATE_GO naming a rate (R267, R269). -/
def State.sendRateGo (s : State) (n : Fin 32) (r : LinkRate) (repeats : Bool) : State :=
  s.sendCap n [0x02, if r = .r10 then 2 else 1] repeats

/-- Three identical CAP frames have arrived: the conditions of R269 decide. -/
def State.takeCaps (s : State) (n : Fin 32) (c : Caps) : State :=
  match (s.plk.link[n]).bestRate c with
  | none => s.linkFault n 2
  | some r =>
    if c.pver = 1 ∧ s.bits ≤ c.maxBits.toNat ∧ 3 ≤ c.nbuf.toNat then
      (s.moveLink n .rate fun x => { x with caps := some c, seen := none, goRate := some r }).sendRateGo n r true
    else s.linkFault n 2

/-- A valid CAP frame of the board (R267 to R269). -/
def State.capIn (s : State) (n : Fin 32) (w : BitVec 96) : State :=
  let l := s.plk.link[n]
  if l.st ≠ .t0 ∨ w.extractLsb' 0 8 ≠ 1 then s
  else
    let k := match l.seen with
      | some (v, m) => if v = w then m + 1 else 1
      | none => 1
    if 3 ≤ k then s.takeCaps n (parseCaps w) else s.modLink n fun x => { x with seen := some (w, k) }

/-- An ACK that names the rate of RATE_GO: four more RATE_GO frames, then both lanes switch (R269). -/
def State.ackIn (s : State) (n : Fin 32) (w : BitVec 96) : State :=
  match (s.plk.link[n]).goRate with
  | none => s
  | some r =>
    if (s.plk.link[n]).st = .rate ∧ w.extractLsb' 0 8 = 3 ∧ w.extractLsb' 8 8 = (if r = .r10 then 2 else 1) then
      ((((s.sendRateGo n r false).sendRateGo n r false).sendRateGo n r false).sendRateGo n r false).moveLink n .lock fun x =>
        { x.setRate r s.now with goRate := none }
    else s

/-- Enter ECHO (R287). -/
def State.enterEcho (s : State) (n : Fin 32) : State :=
  s.moveLink n .echo fun x => { x with rtts := [], echoes := [], streak := 0 }

/-- A PRBS phase starts (R284): the device's count from 0, PRBS31 on the lane. -/
def State.startPrbs (s : State) (n : Fin 32) (to_ : LinkPhase) : State :=
  (s.moveLink n to_ fun x => { x with prbsDev := 0, prbsOver := false }).emit (.prbs n)

/-- The device's count of a running PRBS phase after more errors (R284, R293). -/
def Link.countPrbs (l : Link) (errors : Nat) : Link := { l with prbsDev := min 0xFFFF (l.prbsDev + errors) }

/-- A sync header is valid (R270). -/
def headerValid (h : BitVec 2) : Bool := decide (h = 1 ∨ h = 2)

/-- Block lock is declared: 64 consecutive valid headers (R270). -/
def headersLock (hs : List (BitVec 2)) : Bool := decide (64 ≤ hs.length) && (hs.drop (hs.length - 64)).all headerValid

/-- Block lock is lost: 16 of 64 consecutive headers invalid (R270). -/
def headersLose (hs : List (BitVec 2)) : Bool :=
  decide (16 ≤ ((hs.drop (hs.length - 64)).filter fun h => !headerValid h).length)

/-- Block lock has been reached (R270, R287). -/
def State.lockIn (s : State) (n : Fin 32) : State :=
  if (s.plk.link[n]).st ≠ .lock then s
  else
    let s1 := s.modLink n fun x => { x with lock := true, lockFails := 0 }
    if (s.plk.link[n]).prbsMs = 0 then s1.enterEcho n else s1.startPrbs n .prbs

/-- No block lock within 1 ms (R287): T0 again; the third failure at R10 rules R10 out, the third at R5 is a fault. -/
def State.lockFail (s : State) (n : Fin 32) : State :=
  let l := s.plk.link[n]
  if l.st ≠ .lock then s
  else if l.lockFails < 2 then (s.modLink n fun x => { x with lockFails := x.lockFails + 1 }).startT0 n
  else if l.rate = .r10 then (s.modLink n fun x => { x with lockFails := 0, noR10 := true }).startT0 n
  else s.linkFault n 3

/-- D_FWD: the mean of RTT ÷ 2 in 1/16 tick, rounded to nearest (R279). -/
def meanHalf (rtts : List Int) : Nat :=
  let n : Int := rtts.length
  if n = 0 then 0 else ((rtts.foldl (· + ·) 0 + n) / (2 * n)).toNat

/-- RTT spread at most 4 ticks (R287). -/
def spreadOk (rtts : List Int) : Bool :=
  match maxInt rtts, minInt rtts with
  | some a, some b => decide (a - b ≤ 64)
  | _, _ => true

/-- Send an ECHO at a departure time in 1/16 tick (R278). -/
def State.sendEcho (s : State) (n : Fin 32) (dep : Nat) : State :=
  let id := (s.plk.link[n]).echoId
  (s.modLink n fun x => { x with echoId := id + 1, echoes := (id, dep) :: x.echoes.filter fun e => decide (e.1 ≠ id) }).sendBlock n 0x87 id.toNat

/-- Send a SYNC at a departure time in 1/16 tick: T_ARR is the departure plus D_FWD (R277). -/
def State.sendSync (s : State) (n : Fin 32) (dep : Nat) : State :=
  let l := s.plk.link[n]
  (if l.st = .sync then s.modLink n fun x => { x with syncs := x.syncs + 1 } else s).sendBlock n 0x2D ((dep + l.dfwd) % 2 ^ 52)

/-- 64 replies are in: the link goes on to SYNC or FAULT (R287). -/
def State.endEcho (s : State) (n : Fin 32) (c : Caps) : State :=
  let l := s.plk.link[n]
  let d := meanHalf l.rtts
  let lat := s.linkLatency c l.rate d
  if !spreadOk l.rtts then s.linkFault n 5
  else if 8000 < lat then s.linkFault n 6
  else s.moveLink n .sync fun x => { x with
    dfwd := d, lat := lat, tlink := s.linkPeriod c l.rate lat, streak := 0, syncs := 0, ready := false }

/-- POLICY in force: at least the OTP minimum, 3 acts as 2 (R286). -/
def State.authPolicy (s : State) (n : Fin 32) : Nat := min 2 (max (s.regField (linkReg n 0x40) 0 2) s.rst.otp.authMin.toNat)

/-- Send the challenge of an authentication exchange (R285): a fresh 128-bit number in three AUTH blocks; POLICY and KEYSLOT are those of now (R293). -/
def State.sendChallenge (s : State) (n : Fin 32) : State :=
  let c := Config.challenge s.draws
  let bs := leBytes 16 c.toNat
  let part := fun i : Nat => leNat (BitVec.ofNat 8 (16 + i) :: (bs.drop (6 * i)).take 6)
  ((((s.draw.2).modLink n fun x =>
    { x with auth := some ⟨c, s.authPolicy n, Fin.ofNat 4 (s.regField (linkReg n 0x40) 2 2), []⟩ }).sendBlock n 0x78 (part 0)).sendBlock n 0x78 (part 1)).sendBlock n 0x78 (part 2)

/-- Enter LOAD (R282, R287): the live bytes go to bank 0, and lines name bank 0. -/
def State.enterLoad (s : State) (n : Fin 32) : State :=
  s.moveLink n .load fun x => { x with
    vtab := false, auth := none, uploads := [⟨.load, [], none, false, none⟩] }

/-- A head fails, or its board carries no secure element (R286): reported and let through, or refused, by a policy. -/
def State.authFails (s : State) (n : Fin 32) (policy : Nat) : State :=
  if policy = 2 then
    ((s.modLink n fun x => { x with authResult := 2, auth := none }).log 0x0031 1 n [1]).enterFault n fun x => { x with refused := true }
  else
    let s1 := (s.modLink n fun x => { x with authResult := 3, auth := none }).log 0x0031 1 n [2]
    if (s1.plk.link[n]).st = .auth then s1.enterLoad n else s1

/-- Enter AUTH (R286, R287). -/
def State.enterAuth (s : State) (n : Fin 32) : State :=
  let s1 := s.moveLink n .auth id
  if s1.authPolicy n = 0 then s1.enterLoad n
  else match (s1.plk.link[n]).caps with
    | some c => if c.auth then s1.sendChallenge n else s1.authFails n (s1.authPolicy n)
    | none => s1.authFails n (s1.authPolicy n)

/-- SYNC ends once SYNCs have gone out, 16 consecutive replies were within 1 tick and READY has been reported (R287). -/
def State.syncCheck (s : State) (n : Fin 32) : State :=
  let l := s.plk.link[n]
  if l.st = .sync ∧ 16 ≤ l.streak ∧ l.ready then s.enterAuth n else s

/-- A reply in RUN (R279, R281): D_FWD over the last 16 replies, L_k and T_link follow; out of bounds, or misaligned twice in a row, the link leaves RUN. -/
def State.echoInRun (s : State) (n : Fin 32) (c : Caps) (e : Int) : State :=
  let l := s.plk.link[n]
  let d := meanHalf (l.rtts.take 16)
  let lat := s.linkLatency c l.rate d
  let tl := s.linkPeriod c l.rate lat
  let streak := if 64 < e.natAbs then l.streak + 1 else 0
  let s1 := s.modLink n fun x => { x with dfwd := d, streak := streak, maxErr := max x.maxErr (min 0xFFFF e.natAbs) }
  let short : Bool := match linkPlane s.liveView n with
    | some p => decide (s.tmin p < tl)
    | none => false
  if 8000 < lat ∨ short then s1.linkFault n 6
  else if 2 ≤ streak then (s1.modLink n fun x => { x with lat := lat, tlink := tl }).linkFault n 7
  else s1.modLink n fun x => { x with lat := lat, tlink := tl }

/-- A reply is discarded: counted, not used (R278, R281). -/
def State.discardReply (s : State) (n : Fin 32) : State := s.modLink n fun x => { x with discarded := x.discarded + 1 }

/-- An ECHO reply (R278, R279): times in 1/16 tick. One that comes later than 20 µs, or to no ECHO, is discarded. -/
def State.echoIn (s : State) (n : Fin 32) (id : BitVec 8) (turn r1 : BitVec 24) (arrival : BitVec 52) : State :=
  let l := s.plk.link[n]
  match l.echoes.find? fun e => decide (e.1 = id) with
  | none => s.discardReply n
  | some (_, dep) =>
    let s0 := s.modLink n fun x => { x with echoes := x.echoes.filter fun e => decide (e.1 ≠ id) }
    let gone : Nat := (arrival.toNat + 2 ^ 52 - dep % 2 ^ 52) % 2 ^ 52
    if 128000 < gone then s0.discardReply n
    else
      let e := signed 24 (unsigned 24 ((r1.toNat : Int) - (dep + l.dfwd : Nat)))
      let s1 := s0.modLink n fun x => { x with err := e, rtts := (((gone : Int) - turn.toNat) :: x.rtts).take 64 }
      match l.st, l.caps with
      | .echo, some c => if (s1.plk.link[n]).rtts.length = 64 then s1.endEcho n c else s1
      | .sync, some _ =>
        (s1.modLink n fun x => { x with streak := if 0 < x.syncs ∧ e.natAbs ≤ 16 then x.streak + 1 else 0 }).syncCheck n
      | .run, some c => s1.echoInRun n c e
      | _, _ => s1

/-- Bytes of a value from its 6-byte groups of a KIND; none while one is missing (R285). -/
def AuthRun.value (a : AuthRun) (kind len : Nat) : Option (List Byte) :=
  let parts := (List.range ((len + 5) / 6)).map fun i => (a.got.find? fun g => decide (g.1 = 16 * kind + i)).map (·.2)
  if parts.all Option.isSome then some ((parts.flatMap fun p => leBytes 6 ((p.getD 0).toNat)).take len) else none

/-- The head passes: MAC and usage count as R285 states. -/
def State.headPasses (s : State) (n : Fin 32) (a : AuthRun) (sb ub mac : List Byte) : Bool :=
  let kb := hmac s.rst.otp.keys[a.slot] sb
  decide (hmac kb (leBytes 16 a.challenge.toNat ++ sb ++ ub) = mac) &&
  match (s.plk.link[n]).seenUsage.find? fun x => decide (x.1 = BitVec.ofNat 64 (leNat sb)) with
  | some x => decide (x.2.toNat ≤ leNat ub)
  | none => true

/-- The board's answer is complete (R285, R286). -/
def State.endAuth (s : State) (n : Fin 32) (a : AuthRun) (sb ub mac : List Byte) : State :=
  let sn := BitVec.ofNat 64 (leNat sb)
  let us := BitVec.ofNat 48 (leNat ub)
  let ok := s.headPasses n a sb ub mac
  let s1 := s.modLink n fun x => { x with serial := sn, usage := us, auth := none }
  if ok then
    let s2 := s1.modLink n fun x => { x with
      authResult := 1, seenUsage := (sn, us) :: x.seenUsage.filter fun y => decide (y.1 ≠ sn) }
    if (s2.plk.link[n]).st = .auth then s2.enterLoad n else s2
  else s1.authFails n a.policy

/-- An AUTH block of the board (R285). -/
def State.authIn (s : State) (n : Fin 32) (kind index : BitVec 4) (bytes : BitVec 48) : State :=
  match (s.plk.link[n]).auth with
  | none => s
  | some a =>
    let key := 16 * kind.toNat + index.toNat
    let a1 := { a with got := (key, bytes) :: a.got.filter fun g => decide (g.1 ≠ key) }
    match a1.value 2 8, a1.value 3 6, a1.value 4 32 with
    | some sb, some ub, some mac => s.endAuth n a1 sb ub mac
    | _, _, _ => s.modLink n fun x => { x with auth := some a1 }

/-- The 8,192 bytes of a bank (R282). -/
def bankBytes (bs : List (Nat × Byte)) : List Byte := (List.range 8192).map fun i => sparseGet 0 bs i

/-- A CFG block (R282). -/
def cfgBlock (space address data : Nat) : BitVec 64 := controlBlock 0x66 (space + 2 ^ 8 * address + 2 ^ 24 * data)

/-- The CFG blocks that write a bank whole and commit it (R282). -/
def cfgBlocks (bank : Bool) (bs : List (Nat × Byte)) : List (BitVec 64) :=
  (List.range 2048).map (fun a => cfgBlock (if bank then 2 else 1) a (leNat ((List.range 4).map fun i => sparseGet 0 bs (4 * a + i)))) ++
    [cfgBlock 0x0F bank.toNat (crc32c (bankBytes bs)).toNat]

/-- The channel bytes an upload writes as it starts: the staged contents over the live ones for a chamber, else the live ones (R282). -/
def State.uploadBytes (s : State) (n : Fin 32) : BankFor → List (Nat × Byte)
  | .chamber k => channelBytes (s.stagedView s.lck.ch[k]) n
  | .load | .table _ | .nobody => channelBytes s.liveView n

/-- The oldest upload of a link starts, into bank 0 in LOAD, else into the bank not in force (R282). -/
def State.startUpload (s : State) (n : Fin 32) : State :=
  let l := s.plk.link[n]
  match l.uploads with
  | [] => s
  | u :: rest =>
    if u.bank.isSome ∨ (l.st ≠ .load ∧ l.st ≠ .run) then s
    else
      let b := if l.st = .load then false else !l.vtab
      let bs := s.uploadBytes n u.who
      (s.modLink n fun x => { x with uploads := { u with bank := some b, bytes := bs } :: rest }).emit (.cfg n (cfgBlocks b bs))

/-- RUN begins (R282, R287): live bytes that changed during LOAD are uploaded next. -/
def State.enterRunLink (s : State) (n : Fin 32) (loaded : List (Nat × Byte)) : State :=
  let s1 := s.moveLink n .run fun x => { x with uploads := [], maxErr := 0, streak := 0, runSince := some s.now }
  if channelBytes s.liveView n = loaded then s1 else s1.queueUpload n .nobody

/-- The board reports the bank of the running upload VALID (R282). -/
def State.bankValid (s : State) (n : Fin 32) : State :=
  match (s.plk.link[n]).uploads with
  | [] => s
  | u :: rest =>
    match u.who with
    | .load => if (s.plk.link[n]).st = .load then s.enterRunLink n u.bytes else s
    | .chamber k => (s.modLink n fun x => { x with uploads := { u with valid := true } :: rest }).bankSettled k n
    | .table _ | .nobody =>
      (s.modLink n fun x => { x with uploads := { u with valid := true, from_ := some (s.fireLine (s.planeOf n)) } :: rest }).settleBank n

/-- The VALID flag of a bank in a STATUS (R283). -/
def bankFlag (flags : BitVec 8) (bank : Bool) : Bool := flags.getLsbD (if bank then 2 else 1)

/-- A started upload whose bank the flags show VALID. -/
def State.checkBanks (s : State) (n : Fin 32) : State :=
  let l := s.plk.link[n]
  match l.uploads with
  | [] => s
  | u :: _ => match u.bank with
    | some b => if !u.valid && bankFlag l.flags b then s.bankValid n else s
    | none => s

/-- PLK_LNn_LOST accumulates the board's two counts (R283, R293). -/
def Link.addLost (l : Link) (late bad : BitVec 8) : Link :=
  match l.counts with
  | none => { l with counts := some (late, bad) }
  | some (a, b) => { l with
      counts := some (late, bad), lostLate := min 0xFFFF (l.lostLate + (late - a).toNat)
      lostBad := min 0xFFFF (l.lostBad + (bad - b).toNat) }

/-- What a STATUS means in RUN (R288): READY = 0 leaves RUN; lines discarded and power conditions are recorded. -/
def State.statusInRun (s : State) (n : Fin 32) (rose : Bool) : State :=
  let fl := (s.plk.link[n]).flags
  if !fl.getLsbD 0 then s.linkFault n 8
  else
    let s1 := if rose then s.linkNote n 12 else s
    if !fl.getLsbD 3 || fl.getLsbD 4 then s1.linkNote n 13 else s1

/-- The STATUS that a PRBS phase waited for (R284, R287): in PRBS the counts decide. -/
def State.prbsStatus (s : State) (n : Fin 32) (errors : Nat) : State :=
  let l := s.plk.link[n]
  let s1 := s.modLink n fun x => { x with prbsBrd := errors, prbsOver := false }
  let top := s.regField (linkReg n 0) 16 16
  if l.st ≠ .prbs then s1
  else if l.prbsDev ≤ top ∧ errors ≤ top then s1.enterEcho n
  else s1.linkFault n 4

/-- The types of R271. -/
def blockTypes : List (BitVec 8) := [0x1E, 0x2D, 0x33, 0x4B, 0x55, 0x66, 0x78, 0x87, 0x99]

/-- A STATUS block of the board (R283): its fields are mirrored, then each state takes what it waits for. -/
def State.statusIn (s : State) (n : Fin 32) (w : BitVec 56) : State :=
  let l := s.plk.link[n]
  let late := w.extractLsb' 8 8
  let bad := w.extractLsb' 16 8
  let rose := match l.counts with | some c => decide (c ≠ (late, bad)) | none => false
  let s1 := s.modLink n fun x => { x.addLost late bad with flags := w.extractLsb' 0 8, epoch := w.extractLsb' 24 16 }
  let s2 := if l.prbsOver then s1.prbsStatus n (w.extractLsb' 40 16).toNat else s1
  match (s2.plk.link[n]).st with
  | .sync => (s2.modLink n fun x => { x with ready := x.ready || w.getLsbD 0 }).syncCheck n
  | .load => s2.checkBanks n
  | .run => (if l.st = .run then s2.statusInRun n rose else s2).checkBanks n
  | _ => s2

/-- What a reset that reaches a link leaves of it (R292, R293): all at reset values; usage counts seen stay until PLK itself is reset (R285), and the gap in LINK_CLK goes on (R269). -/
def Link.afterReset (l : Link) : Link := { seenUsage := l.seenUsage, gapUntil := l.gapUntil }

/-- What the 100 µs link reset of link supervision leaves (R287, R293): as any reset; the backoff, the log limit of R288, and that a restart follows, are link supervision's own. -/
def Link.afterSupervision (l : Link) : Link :=
  { seenUsage := l.seenUsage, gapUntil := l.gapUntil, logged := l.logged, backoff := l.backoff, restart := true }

end Sys2Proof.Machine
end

