-- ==== Sys2Proof/Machine/Counters.lean ====
section
/-! DEFINITION. Performance counters (chapter 19): counting an event, snapshots, windows. -/

namespace Sys2Proof.Machine

/-- Copy every counter and OVF bit into the snapshot registers (R406). -/
def State.takeSnapshot (s : State) : State :=
  { s with pmc := { s.pmc with snap := Vector.ofFn fun k : Fin 64 => (BitVec.ofBool (s.pmc.ovf.getLsbD k)) ++ s.pmc.cnt[k] } }

/-- The bytes COUNTER_READ writes: 8 per selected counter, ascending (R95, R406). -/
def State.snapBytes (s : State) (mask : Nat) : List Byte :=
  (List.finRange 64).flatMap fun (k : Fin 64) => if mask.testBit k.val then leBytes 8 s.pmc.snap[k].toNat else []

/-- The standard assignment of R404: the EVENT code of each counter. -/
def standardCode (k : Nat) : Nat :=
  if k < 10 then 0x01
  else if k < 32 then
    [0x02, 0x03, 0x04, 0x05, 0x10, 0x11, 0x12, 0x13, 0x20, 0x21, 0x22, 0x23, 0x24, 0x30, 0x31, 0x32, 0x40, 0x41, 0x50, 0x51, 0x52, 0x53].getD (k - 10) 0
  else if k < 42 then 0x60
  else if k = 42 then 0x61
  else if k = 43 then 0x62
  else if k < 48 then 0
  else if k < 52 then 0x70
  else if k < 56 then 0x71
  else if k < 60 then 0x72
  else if k = 60 then 0x73
  else 0

/-- The EV word of the standard assignment: port filters on counters 0 to 9 and 32 to 41, all modes and classes, no range (R404, R410). A core counter names its core in CORE. -/
def standardEv (k : Fin 64) : BitVec 32 :=
  let port := if k.val < 10 then 2 ^ k.val else if 32 ≤ k.val ∧ k.val < 42 then 2 ^ (k.val - 32) else 0x3FF
  let core := if 48 ≤ k.val ∧ k.val < 60 then k.val % 4 else 0
  BitVec.ofNat 32 (standardCode k + 0x700 + core * 2 ^ 12 + port * 2 ^ 16 + 0xF * 2 ^ 26)

/-- Firmware loads the standard assignment at its start (R403, R404). -/
def State.loadStandard (s : State) : State := { s with pmc := { s.pmc with ev := Vector.ofFn standardEv, win := 1000000 } }

/-- An EV word names an event of the control cores (R404). -/
def coreCode (ev : BitVec 32) : Bool := decide (0x70 ≤ bitsOf ev.toNat 0 8 ∧ bitsOf ev.toNat 0 8 ≤ 0x73)

/-- A counter of a control-core event takes what its core has done since; how much is free (log entry 179). An empty PRIV mask passes nothing (R405). -/
def State.coreEvents (s : State) (k : Fin 64) : State :=
  if coreCode s.pmc.ev[k] && decide (bitsOf s.pmc.ev[k].toNat 8 3 ≠ 0) then
    let d := s.draw
    d.2.raiseCounter k (Config.coreEvents d.1 (bitsOf s.pmc.ev[k].toNat 0 8))
  else s

/-- The counts that cross to PMC as counters (R74, R402): CORE_CLK cycles with THROTTLE in force, and the events of the control cores. -/
def State.carryCounts (s : State) : State :=
  if !s.blkUp .pmc || s.pmc.freeze then s
  else
    let s1 := { s with pmc := { s.pmc with throttled := s.pmc.throttled % 2 } }.countEvent 0x53 (s.pmc.throttled / 2) {}
    (List.finRange 64).foldl State.coreEvents s1

/-- COUNTER_READ asks for a snapshot (R406). -/
def execCounterRead (ring : Fin 16) (s : State) : Host.Outcome State Fault Refusal :=
  .next (s.withEntryAt ring (fun e => decide (e.op = 0x78)) (fun _ => [.pmc]) fun f t =>
    { t with pmc := { t.pmc with requests := t.pmc.requests ++ [some f.id] } })

/-- A control core writes PMC_CTRL.FREEZE (R406). -/
def execPmcFreezeWrite (freeze : Bool) (s : State) : Host.Outcome State Fault Refusal :=
  .next (if s.blkUp .pmc then
    let t := s.carryCounts
    { t with pmc := { t.pmc with freeze := freeze } }
  else s)

/-- A control core writes 1 to PMC_CTRL.SNAP (R406). -/
def execPmcSnapWrite (s : State) : Host.Outcome State Fault Refusal :=
  .next (if s.blkUp .pmc then { s with pmc := { s.pmc with requests := s.pmc.requests ++ [none] } } else s)

/-- Serve the oldest snapshot request; for a COUNTER_READ write the selected counters to host memory, then complete it (R95, R102, R406). -/
def State.serveSnapshot (s : State) : State :=
  match s.pmc.requests with
  | [] => s
  | r :: rest =>
    let s1 := { s.carryCounts with pmc := { s.carryCounts.pmc with requests := rest } }.takeSnapshot
    match r with
    | none => s1
    | some id =>
      match s1.flight? id with
      | none => s1
      | some f =>
        let bs := s1.snapBytes (f.e.num 1)
        ((s1.emit (.hostWrite (f.e.num 0) bs s1.relaxed)).countEvent 0x11 bs.length {}).complete id stOk (bs.length / 8)

/-- PMC serves the next snapshot request (R406). -/
def execPmcSnapshot (s : State) : Host.Outcome State Fault Refusal := .next (if s.blkUp .pmc then s.serveSnapshot else s)

/-- PMC_WIN.NS in force: 1,000 to 10^9 (R410). -/
def State.winNs (s : State) : Nat := max 1000 (min 1000000000 s.pmc.win.toNat)

/-- One counter at a window close (R407): codes 0x60 and 0x61 take the window's figure, 0x62 rises by one. -/
def State.closeCounter (s : State) (k : Fin 64) : State :=
  match bitsOf s.pmc.ev[k].toNat 0 8 with
  | 0x60 => { s with pmc := { s.pmc with cnt := s.pmc.cnt.set k (BitVec.ofNat 48 s.pmc.winBytes[k]) } }
  | 0x61 => { s with pmc := { s.pmc with cnt := s.pmc.cnt.set k (BitVec.ofNat 48 s.winNs) } }
  | 0x62 => s.raiseCounter k 1
  | _ => s

/-- A bandwidth window closes (R407); while frozen every counter keeps its value (R406). -/
def State.closeWindow (s : State) : State :=
  let s1 := if s.pmc.freeze then s else (List.finRange 64).foldl (fun t k => t.closeCounter k) s
  { s1 with pmc := { s1.pmc with winBytes := Vector.replicate 64 0 } }

/-- Every PMC_WIN.NS ns the window closes (R407). -/
def execPmcWindowClose (s : State) : Host.Outcome State Fault Refusal := .next (if s.blkUp .pmc then s.closeWindow else s)

/-- A control core writes a counter: CNT_HI is held; CNT_LO stores the value with the held HI part, without raising OVF (R410). -/
def execPmcCounterWrite (k : Fin 64) (high : Bool) (value : Word) (s : State) : Host.Outcome State Fault Refusal :=
  .next (if s.blkUp .pmc then
    if high then { s with pmc := { s.pmc with hi := s.pmc.hi.set k (value.setWidth 16) } }
    else
      let t := s.carryCounts
      { t with pmc := { t.pmc with cnt := t.pmc.cnt.set k (t.pmc.hi[k] ++ value) } }
  else s)

/-- A control core writes PMC_WIN, which restarts the window (R407, R410). -/
def execPmcWinWrite (ns : BitVec 30) (s : State) : Host.Outcome State Fault Refusal :=
  .next (if s.blkUp .pmc then { s with pmc := { s.pmc with win := ns, winBytes := Vector.replicate 64 0 } } else s)

end Sys2Proof.Machine
end

