-- ==== Sys2Proof/Machine/ThermalOps.lean ====
section
/-! DEFINITION. Thermal management (chapter 19): readings, levels, history and rate of rise. Taking SHUTDOWN is in Thermal. -/

namespace Sys2Proof.Machine

/-- W in 1/16 degree: THM_CFG.WARN_C held within 60 and 100 (R395, R401). -/
def State.warnT (s : State) : Int := 16 * max 60 (min 100 (s.regField 0x30004 0 8))

/-- P in 1/16 degree: THM_CFG.THROTTLE_C, at most 108 and at least W (R401). -/
def State.throttleT (s : State) : Int := max s.warnT (16 * min 108 (s.regField 0x30004 8 8))

/-- h in 1/16 degree; 0 acts as 1 (R401). -/
def State.hystT (s : State) : Int := 16 * max 1 (s.regField 0x30004 16 4)

/-- Rate limit in 0.1 degree per second; values below 10 act as 10 (R401). -/
def State.rateLimit (s : State) : Int := max 10 (s.regField 0x30008 0 12)

/-- A THERMAL record: level in byte 16, temperature in bytes 17 and 18, sensor in UNIT (R104, R395). -/
def State.thermalRecord (s : State) (level : Nat) (sensor : Fin 12) : State :=
  s.log 0x0060 1 sensor (BitVec.ofNat 8 level :: leBytes 2 (unsigned 16 s.thm.max))

/-- A reading a sensor can give (R394): completed, and within −55 °C to 150 °C. -/
def goodReading : Option Int → Bool
  | none => false
  | some r => decide (-880 ≤ r) && decide (r ≤ 2400)

/-- One sensor after a conversion (R393, R394). -/
def Sensor.convert (x : Sensor) (r : Option Int) : Sensor :=
  { temp := r.getD x.temp, fault := !goodReading r, valid := x.valid || goodReading r }

/-- The highest reading among the non-faulty sensors and the lowest-numbered sensor that gave it (R394). -/
def hottest (v : Vector Sensor 12) : Option (Int × Fin 12) :=
  (List.finRange 12).foldl (fun best i =>
    if v[i].fault then best
    else match best with
      | none => some (v[i].temp, i)
      | some (t, j) => if t < v[i].temp then some (v[i].temp, i) else some (t, j)) none

/-- A conversion that takes SHUTDOWN (R394, R395): 118 °C on any non-faulty sensor, or every sensor faulty for the tenth time in a row. -/
def State.shutdownNow (s : State) (readings : Vector (Option Int) 12) : Bool :=
  (readings.toList.any fun r => goodReading r && decide (1888 ≤ r.getD 0)) ||
  (readings.toList.all fun r => !goodReading r) && decide (9 ≤ s.thm.allFaulty)

/-- Work that THROTTLE slows follows the level: the scrubber is held (R141, R396). -/
def State.followLevel (s : State) : State :=
  { s with dmc := { s.dmc with scrubHeld := decide (s.thm.level = .throttle) } }

/-- Enter a level and write its THERMAL record (R395). -/
def State.enterLevel (s : State) (l : ThermalLevel) : State :=
  let t := s.thm
  let t1 := match l with
    | .normal => { t with level := l }
    | .warn => { t with level := l, nWarn := satInc t.nWarn }
    | .throttle => { t with level := l, nThrottle := satInc t.nThrottle }
  let n := match l with | .normal => 0 | .warn => 1 | .throttle => 2
  ({ s with thm := t1 }.followLevel).thermalRecord n t.maxSensor

/-- The level moves of one conversion (R395); the WARN record precedes the THROTTLE record. -/
def State.moveLevel (s : State) : State :=
  let t := s.thm.max
  match s.thm.level with
  | .normal =>
    let s1 := if s.warnT ≤ t then s.enterLevel .warn else s
    if s.throttleT ≤ t then s1.enterLevel .throttle else s1
  | .warn => if s.throttleT ≤ t then s.enterLevel .throttle else if t ≤ s.warnT - s.hystT then s.enterLevel .normal else s
  | .throttle =>
    if s.thm.hold.isSome then s
    else if t ≤ s.warnT - s.hystT then s.enterLevel .normal
    else if t ≤ s.throttleT - s.hystT then s.enterLevel .warn
    else s

/-- The sensors enter FAULT one by one, each with a level-4 record (R394). -/
def State.recordFaults (s : State) (old : Vector Sensor 12) : State :=
  (List.finRange 12).foldl (fun t i =>
    if t.thm.sensor[i].fault && !old[i].fault then
      { t with thm := { t.thm with nFault := satInc t.thm.nFault } }.thermalRecord 4 i
    else t) s

/-- T, its sensor, the peak and the mean in progress after a conversion (R394, R398, R401). -/
def ThmState.takeMax (t : ThmState) : ThmState :=
  match hottest t.sensor with
  | none => { t with allFaulty := t.allFaulty + 1, sum := t.sum + t.max, samples := t.samples + 1 }
  | some (x, i) =>
    let newPeak := match t.peak with | none => true | some p => decide (p < x)
    { t with
      max := x, maxSensor := i, allFaulty := 0, sum := t.sum + x, samples := t.samples + 1
      peak := if newPeak then some x else t.peak
      peakSensor := if newPeak then i else t.peakSensor }

/-- The mean of the period in 1/16000 degree (R398). -/
def ThmState.mean (t : ThmState) : Int := if t.samples = 0 then t.max * 1000 else t.sum * 1000 / t.samples

/-- The rate of rise once 8 entries precede the newest, in 0.1 degree per second (R398): none before that. -/
def rateOf (h : List Int) : Option Int :=
  match h with
  | n :: rest => (rest[7]?).map fun o => (n - o) / 1600
  | [] => none

/-- The exact test of R398: the rate exceeds a limit given in 0.1 degree per second. -/
def rateExceeds (h : List Int) (limit : Int) : Bool :=
  match h with
  | n :: rest => match rest[7]? with
    | some o => decide (limit * 1600 < n - o)
    | none => false
  | [] => false

/-- Begin a rate hold: the level goes to THROTTLE (R395, R398). -/
def State.beginHold (s : State) : State :=
  if s.thm.hold.isSome then s
  else
    let s1 := { s with thm := { s.thm with hold := some 0 } }
    if s1.thm.level = .throttle then s1 else s1.enterLevel .throttle

/-- A history entry is appended and the rate evaluated (R398, R400). -/
def State.appendHistory (s : State) : State :=
  let h := (s.thm.mean :: s.thm.history).take 9
  let t := { s.thm with
    history := h, sum := 0, samples := 0
    hold := s.thm.hold.map (· + 1)
    rate := clampInt (-32768) 32767 ((rateOf h).getD 0) }
  let s1 := { s with thm := t }
  if h.length < 9 then s1
  else if rateExceeds h s.rateLimit then
    let s2 := { s1 with thm := { s1.thm with nRate := satInc s1.thm.nRate } }.thermalRecord 3 s1.thm.maxSensor
    if s.regBit 0x30004 20 then s2.beginHold else s2
  else
    { s1 with thm := { s1.thm with hold := match s1.thm.hold with
      | some n => if 8 ≤ n then none else some n
      | none => none } }

/-- The history is emptied (R399). -/
def ThmState.clearHistory (t : ThmState) : ThmState := { t with history := [], sum := 0, samples := 0, rate := 0 }

end Sys2Proof.Machine
end

