-- ==== Sys2Proof/Machine/Resets.lean ====
section
/-! DEFINITION. Resets (chapter 03): what each source covers, what a reset does to every block, the states of R57, the release of blocks, and the twin fault (R374) that a reset can raise. -/

namespace Sys2Proof.Machine

/-- The registers of a window go back to their reset values with what reads of them have captured, but those a test keeps (R10, R241, R265, R368). -/
def State.clearRegs (s : State) (lo hi : Nat) (keep : Nat → Bool) : State :=
  { s with
    regs := s.regs.filter fun r => decide (r.1 < lo ∨ hi ≤ r.1) || keep r.1
    latch := s.latch.filter fun r => decide (r.1 < lo ∨ hi ≤ r.1) || keep r.1 }

/-- The live tables without those a test names: every byte of them reads 0 (R193, R219). -/
def State.clearTables (s : State) (gone : Nat → Bool) : State :=
  s.eraseBytes fun a => gone (a / 0x1000000)

/-- Entries whose work a reset of a block cuts complete as BLOCK_RESET; their transfers end (R60, R108). -/
def State.cutEntries (s : State) (b : Blk) : State :=
  let test := fun f : Flight => decide (f.phase = .running ∨ f.phase = .waiting) && f.e.blocks.contains b
  let ids := (s.hif.flights.filter test).map Flight.id
  (s.completeAll test stBlockReset).dropXfers ids.contains

/-- A gate opens (R217). -/
def State.openGate (s : State) (n : Fin 32) : State :=
  { s with csm := { s.csm with gate := s.csm.gate &&& ~~~(BitVec.twoPow 32 n) } }

/-- The completion or failure event of a copy reaches its target (R123, R124). -/
def State.copyEvent (s : State) (r : CopyReq) (ok : Bool) : State :=
  let t := r.target.toNat
  if 1 ≤ t ∧ t ≤ 4 then
    s.modChamber (Fin.ofNat 4 (t - 1)) fun c => { c with pending := c.pending - 1, copyFailed := c.copyFailed || !ok }
  else if 0x20 ≤ t ∧ t ≤ 0x3F ∧ ok then s.openGate (Fin.ofNat 32 (t - 0x20))
  else s

/-- A staged unit or a register entry of a chamber belongs to a block (R343). -/
def Chamber.touches (c : Chamber) (b : Blk) : Bool :=
  (c.units.any fun u => decide (tableBlk (unitTable u.1) = b)) ||
  c.entries.any fun e => match stReg e.1 with
    | some (.scr _) => decide (b = .scr)
    | some (.csm _) => decide (b = .csm)
    | some (.fir _) => decide (b = .fir)
    | some .pos => decide (b = .pos)
    | none => false

/-- A reset of a block rejects the ARMED chambers that hold data of it (R343). -/
def State.rejectTouched (s : State) (b : Blk) : State :=
  (List.finRange 4).foldl (fun (t : State) k =>
    let c := t.lck.ch[k]
    if c.st = .armed ∧ c.touches b then t.rejectChamber k 0x12 else t) s

/-- A reset of a block takes the accesses that wait in its crossing (R59, R84): writes go, reads complete as Unsupported Request. -/
def State.dropHeld (s : State) (b : Blk) : State := s.cutAccesses fun o => decide (windowBlk o = some (some b))

/-- Planes in RUN or CLOSING. -/
def State.firingPlanes (s : State) : List (Fin 8) := (List.finRange 8).filter fun p => (s.fir.plane[p]).firing

/-- A reset empties tables of SCR or CSM (R62, R63): the planes they serve are data-late, those that hold already too, and where planes then hold at a seam the restore period opens for the tables (log entry 87). -/
def State.openRestore (s : State) (tables : List Nat) : State :=
  let s1 := s.assertCause (List.finRange 8) 0
  let holding := (List.finRange 8).filter fun p => decide ((s1.fir.plane[p]).phase = .hold ∨ (s1.fir.plane[p]).phase = .armed)
  if holding.isEmpty then s1
  else { s1 with fir := { s1.fir with
      restorePlanes := s1.fir.restorePlanes ||| maskOf holding
      restoreTables := s1.fir.restoreTables ++ tables.filter fun t => !s1.fir.restoreTables.contains t } }

/-- A reset that reaches one Preaz Link (R84, R292, R293): the accesses that wait for its LINK_CLK go with it. -/
def State.resetLink (s : State) (n : Fin 32) (f : Link → Link) : State :=
  ((s.cutAccesses fun o => decide (linkWindow o = some n)).disableLink n).modLink n f

/-- The CTRL part of a channel at its reset values (R240). -/
def Channel.resetCtrl (c : Channel) : Channel :=
  { c with edges := [], edgeRev := false, valid := false, still := false, speed := (0, 1), window := none, stretch := 0, strValid := false }

/-- TIM registers that lie in AON (R368): those from TIM_CFG to TIM_COUNT, and comparator 15. -/
def timAon (o : Nat) : Bool := decide (o < 0x280040 ∨ (0x2802E0 ≤ o ∧ o < 0x280300))

/-- Registers of POS and TIM that only L0 resets (R241, R368). -/
def aonReg (o : Nat) : Bool := posFront o || (timAon o && decide (0x280000 ≤ o ∧ o < 0x2A0000))

/-- PLK_LNn_CFG, TIMERS and AUTH, which only L1 and L0 reset (R293). -/
def plkKept (o : Nat) : Bool := decide (o % 0x1000 = 0 ∨ o % 0x1000 = 0x20 ∨ o % 0x1000 = 0x40)

/-- DMC after a reset that leaves MGMT up: its training results and the job store survive (R61), and a faulty channel stays so, which only a reset of reach L1 or L0 retrains (R132). -/
def DmcState.keepTraining (d : DmcState) : DmcState :=
  { nextSeq := d.nextSeq, geom := d.geom, trainTemp := d.trainTemp, mr4 := d.mr4, badUnits := d.badUnits
    retained := d.retained, chFault := d.chFault }

/-- HIF after a reset (R108): every ring off. Entry and fault numbers go on, so that no later entry takes the number of one that is gone. -/
def HifState.afterReset (h : HifState) : HifState := { nextId := h.nextId, nextStart := h.nextStart, nextFault := h.nextFault }

/-- A plane without the position that POS keeps for it (R240). -/
def Plane.losePosition (p : Plane) : Plane := { p with origin := none, x := 0, print := 0, reach := 0, behind := false }

/-- A plane that a reset of FIR makes IDLE (R264): POS keeps its position (R240), and lines already launched are sent (R248), unless the time base goes too. -/
def Plane.resetFir (p : Plane) (wide : Bool) : Plane :=
  { origin := p.origin, x := p.x, print := p.print, reach := p.reach, behind := p.behind, launched := if wide then [] else p.launched }

/-- What a reset that reaches a block does to it (R10, R62, R126, R170, R193, R219, R240, R264, R292, R309, R331, R343, R367, R391, R399, R409); `wide` for reach L1 or L0. -/
def State.resetBlk (s0 : State) (b : Blk) (wide : Bool) : State :=
  let s := (((s0.stickCopy b).cutEntries b).rejectTouched b).dropHeld b
  match b with
  | .clk => { s with clk := { s.clk with lock := s.clk.lock &&& 0xF, down := 0, linkDown := 0, meas := none, measCount := 0, measDone := false } }.clearRegs 0x20000 0x30000 fun _ => false
  | .glb => s.clearRegs 0 0x10000 fun _ => false
  | .thm => { s with thm := {} }.followLevel.clearRegs 0x30000 0x40000 fun _ => false
  | .tim =>
    { s.resetGpios with
      tim := { s.tim with
        ptpState := 0, ptp := {}, gpioPulse := Vector.replicate 16 none
        cmp := Vector.ofFn fun k : Fin 16 => if k.val = 15 then s.tim.cmp[k] else {} } }.clearRegs 0x280000 0x2A0000 timAon
  | .urg => { s with urg := { port := s.urg.port, seen := s.urg.seen, seq := s.urg.seq } }.clearRegs 0x2A0000 0x2C0000 fun _ => false
  | .hif =>
    let ids := s.hif.flights.map Flight.id
    { s with
      hif := s.hif.afterReset, rst := { s.rst with pcieUp := false }
      mmu := { s.mmu with flt := s.mmu.flt.mapIdx fun k (f : FaultSlot) => if k = 16 then f else { f with valid := false } }
      fir := { s.fir with plane := s.fir.plane.map fun (p : Plane) => p.abandonClose ids }
      pmc := { s.pmc with requests := s.pmc.requests.filter fun r => decide (r = none) }
      twn := { s.twn with swap := none } }.clearRegs 0x40000 0x50000 fun _ => false
  | .twn => { s with twn := {}, rst := { s.rst with twinFault := false } }.clearRegs 0x2C0000 0x2E0000 fun _ => false
  | .pmc => { s with pmc := {} }
  | .dmc =>
    (if wide then { s.loseDram with dmc := { nextSeq := s.dmc.nextSeq }, rst := { s.rst with dramSr := false } }
     else { s with dmc := s.dmc.keepTraining, rst := { s.rst with dramSr := true } }).followLevel.clearRegs 0x80000 0xA0000 fun _ => false
  | .mmu => { s with mmu := {} }.clearRegs 0x50000 0x60000 fun _ => false
  | .cpy =>
    let reqs := (s.cpy.run.map CopyRun.req).toList ++ s.cpy.queue
    (reqs.foldl (fun (t : State) r => t.copyEvent r false) { s with cpy := ({} : CpyState) }).clearRegs 0x60000 0x70000 fun _ => false
  | .qdc => { s with qdc := { nextId := s.qdc.nextId } }.clearRegs 0xA0000 0xC0000 fun _ => false
  | .scr =>
    ({ s.openRestore [0x0010, 0x0011, 0x0012, 0x0013, 0x0014, 0x0015] with scr := {} }.clearTables
      fun t => decide (0x0010 ≤ t ∧ t ≤ 0x0015)).clearRegs 0xC0000 0x100000 fun _ => false
  | .csm =>
    ({ s.openRestore [0x0001, 0x0002, 0x0003, 0x0004] with csm := {} }.clearTables
      fun t => decide (1 ≤ t ∧ t ≤ 4)).clearRegs 0x100000 0x140000 fun _ => false
  | .plk => ((List.finRange 32).foldl (fun (t : State) n => t.resetLink n fun l => { gapUntil := l.gapUntil }) s).clearRegs 0x180000 0x200000 fun o => plkKept o && !wide
  | .cores => { s with urg := { s.urg with active := false } }
  | .pos =>
    { s with
      pos := { s.pos with ch := s.pos.ch.map Channel.resetCtrl, rev := false, extreme := 0, revCount := 0 }
      fir := { s.fir with edge := none, plane := s.fir.plane.map Plane.losePosition } }.clearRegs 0x140000 0x160000 posFront
  | .fir => { s with urg := { s.urg with tideWait := [] }, fir := { now := s.fir.now, phase := s.fir.phase, edge := s.fir.edge, plane := s.fir.plane.map fun (p : Plane) => p.resetFir wide } }.clearRegs 0x160000 0x180000 fun _ => false
  | .lck => { s with lck := {} }.clearRegs 0x260000 0x280000 fun _ => false
  | .lop => ({ s with lop := {} }.clearTables fun t => decide (t = 0x0020)).clearRegs 0x240000 0x260000 fun _ => false
  | .cam =>
    { s.resetTrigs with cam := {} }.clearRegs 0x200000 0x240000 fun _ => false

/-- The blocks of a domain in the order of R58; AON has none that R58 releases. -/
def domainBlks : Domain → List Blk
  | .aon => []
  | .mgmt => [.clk, .glb, .thm, .tim, .urg, .hif, .twn, .pmc]
  | .data => [.dmc, .mmu, .cpy, .qdc, .scr, .csm, .plk]
  | .ctrl => [.cores, .pos, .fir, .lck, .lop, .cam]

/-- Number of blocks of a domain released one by one. -/
def domainCount (d : Domain) : Nat := (domainBlks d).length

/-- The power-on source, or RESET_N at L0 (R54, R55). -/
def State.reachL0 (s : State) : Bool := s.rst.por || (s.rst.resetN && decide (s.rst.otp.reachResetN ≠ 1))

/-- A source of reach L1 (R55). -/
def State.reachL1 (s : State) : Bool :=
  s.rst.rail || (s.rst.resetN && decide (s.rst.otp.reachResetN = 1)) || (s.rst.perst && decide (s.rst.otp.reachPerst ≠ 4)) ||
  s.rst.therm || (s.rst.wdog && decide (s.rst.otp.reachWdog = 1))

/-- A source of reach L2 (R55). -/
def State.reachL2 (s : State) : Bool :=
  (s.rst.wdog && decide (s.rst.otp.reachWdog ≠ 1)) || (s.rst.twinFault && decide (s.rst.otp.reachTwin ≠ 3))

/-- Some source, sleep, or a parent that is not UP covers a domain (R54, R57, R68). -/
def State.domainCovered (s : State) : Domain → Bool
  | .aon => s.reachL0
  | .mgmt => decide (s.rst.aon ≠ .up) || s.reachL1 || s.rst.asleep
  | .data => decide (s.rst.mgmt ≠ .up) || s.reachL2 || s.rst.dataHold || (s.rst.twinFault && decide (s.rst.otp.reachTwin = 3))
  | .ctrl => decide (s.rst.mgmt ≠ .up) || s.reachL2 || s.rst.ctrlHold

/-- Bring-up has not come to stage 4, or has stopped in stage 2, 3 or 4: MGMT, DATA and CTRL stay in reset (R57, R64, R66). -/
def State.bootHolds (s : State) (d : Domain) : Bool :=
  decide (d ≠ .aon) && (decide (s.rst.stage.toNat < 4) || decide (s.rst.stage = 0xF ∧ s.rst.error.toNat ≤ 4))

/-- The state that follows at once from coverage (R57): a covered unit that is UP starts to isolate, a release is withdrawn, or requested. -/
def nextUnit (covered held : Bool) : UnitState → UnitState
  | .up => if covered then .isolating else .up
  | .pending => if covered then .inReset else .pending
  | .inReset => if covered || held then .inReset else .pending
  | .isolating => .isolating

/-- The state of a domain replaced. -/
def State.setDomain (s : State) (d : Domain) (u : UnitState) : State :=
  match d with
  | .aon => { s with rst := { s.rst with aon := u } }
  | .mgmt => { s with rst := { s.rst with mgmt := u } }
  | .data => { s with rst := { s.rst with data := u } }
  | .ctrl => { s with rst := { s.rst with ctrl := u } }

/-- Blocks released so far in a domain replaced. -/
def State.setReleased (s : State) (d : Domain) (n : Nat) : State :=
  match d with
  | .aon => s
  | .mgmt => { s with rst := { s.rst with relMgmt := n } }
  | .data => { s with rst := { s.rst with relData := n } }
  | .ctrl => { s with rst := { s.rst with relCtrl := n } }

/-- A planned swap under way ends as BLOCK_RESET (R390). -/
def State.abandonSwap (s : State) : State :=
  match s.twn.swap with
  | some id => { s with twn := { s.twn with swap := none } }.complete id stBlockReset 0
  | none => s

/-- Enter FAILED (R374): FAILED goes to the peer and the twin fault source asserts; a swap under way ends (R390). The coverage that follows is settled by `settleResets`. -/
def State.failTwin (s0 : State) (cause : Nat) : State :=
  if s0.twn.role = .single ∨ s0.twn.role = .failed then s0
  else
    let s := s0.abandonSwap
    { s with
      twn := { s.twn with role := .failed, failCause := BitVec.ofNat 4 cause, yielded := false }
      rst := { s.rst with twinFault := true, cause := s.rst.cause ||| 0x40 } }.twinSend (.failed (BitVec.ofNat 4 cause))

/-- A reset source asserts: its bit of RST_CAUSE is set (R55, R72). -/
def State.noteCause (s : State) (bit : Nat) : State :=
  { s with rst := { s.rst with cause := s.rst.cause ||| BitVec.ofNat 9 (2 ^ bit) } }

/-- Outside sleep a low PCIE_PERST_N asserts its source (R55, R70): what ends sleep brings the level of the pin into force. -/
def State.followPerst (s : State) : State :=
  let s1 := if s.rst.perstLow && !s.rst.perst then s.noteCause 3 else s
  { s1 with rst := { s1.rst with perst := s.rst.perstLow } }

/-- The AON parts that only L0 resets (R56, R240, R367): the pins of AON, time, encoder front ends, ring ports; RST_CAUSE, the thermal latch and the pins outside stay. -/
def State.resetAon (s0 : State) : State :=
  let s := s0.followPerst
  { s with
    rst := { por := s.rst.por, rail := s.rst.rail, resetN := s.rst.resetN, perstLow := s.rst.perstLow, perst := s.rst.perst
             therm := s.rst.therm, cause := s.rst.cause, aon := s.rst.aon, mgmt := s.rst.mgmt, data := s.rst.data, ctrl := s.rst.ctrl
             relMgmt := s.rst.relMgmt, relData := s.rst.relData, relCtrl := s.rst.relCtrl
             osc := s.rst.osc, otp := { reachResetN := s.rst.otp.reachResetN } }
    pins := { gpioIn := s.pins.gpioIn, thermtrip := s.pins.thermtrip, fireLevel := s.pins.fireLevel }
    tim := { phase := s.tim.phase }, pos := {}, urg := {}, clk := {}
    regs := s.regs.filter fun r => !aonReg r.1, latch := s.latch.filter fun r => !aonReg r.1 }

/-- What the assertion of a reset does to a domain that was UP (R57, R62): its blocks are reset; a twin device whose DATA or CTRL is reset has failed (R374). -/
def State.loseDomain (s : State) (d : Domain) : State :=
  let wide := s.rst.asleep || s.reachL0 || s.reachL1
  let s1 := if (d = .data ∨ d = .ctrl) ∧ wide = false then s.failTwin 2 else s
  let s2 := (domainBlks d).foldl (fun (t : State) b => t.resetBlk b wide) s1
  let s3 := if d = .aon then s2.resetAon else s2
  s3.setReleased d 0

/-- One domain takes the state that follows from its coverage. -/
def State.settleDomain (s : State) (d : Domain) : State :=
  let old := s.domainState d
  let new := nextUnit (s.domainCovered d) (s.bootHolds d) old
  if old = new then s
  else if old = .up then (s.loseDomain d).setDomain d new
  else s.setDomain d new

/-- A source of R55 holds a block alone: its bit of BLOCK_HOLD, and PCIE_PERST_N at L4 for HIF. -/
def State.blockCovered (s : State) (k : Fin 13) : Bool :=
  if k.val = 12 then s.rst.perst && decide (s.rst.otp.reachPerst = 4) else s.rst.blockHold.getLsbD k.val

/-- The block a hold number names (R72). -/
def heldBlk (k : Fin 13) : Blk :=
  [Blk.mmu, .cpy, .dmc, .qdc, .scr, .csm, .plk, .pos, .fir, .cam, .lop, .lck, .hif].getD k.val .mmu

/-- One held block takes a reset state. -/
def State.putHeld (s : State) (k : Fin 13) (u : UnitState) : State := { s with rst := { s.rst with held := s.rst.held.set k u } }

/-- One Preaz Link takes a reset state. -/
def State.putLink (s : State) (n : Fin 32) (u : UnitState) : State := { s with rst := { s.rst with link := s.rst.link.set n u } }

/-- A block held alone takes the state that follows from its hold; under a reset of its domain it goes with the domain (R57). -/
def State.settleBlock (s : State) (k : Fin 13) : State :=
  let b := heldBlk k
  let old := s.rst.held[k]
  if s.domainState b.domain ≠ .up then
    let new := if s.blockCovered k then UnitState.inReset else .up
    if old = new then s else s.putHeld k new
  else
    let new := nextUnit (s.blockCovered k) false old
    if old = new then s
    else if old = .up then (s.resetBlk b false).putHeld k new
    else s.putHeld k new

/-- A hold of RST_LINK, or the 100 µs reset of link supervision (R55). -/
def State.linkCovered (s : State) (n : Fin 32) : Bool := s.rst.linkHold.getLsbD n || s.rst.linkAuto.getLsbD n

/-- A Preaz Link takes the state that follows from its hold (R57, R62): a link that was not DISABLED writes LINK_FAULT when a hold takes it; the reset of link supervision keeps the figures of R287. -/
def State.settleLink (s : State) (n : Fin 32) : State :=
  let old := s.rst.link[n]
  if s.rst.data ≠ .up then
    let new := if s.linkCovered n then UnitState.inReset else .up
    if old = new then s else s.putLink n new
  else
    let new := nextUnit (s.linkCovered n) false old
    if old = new then s
    else if old = .up then
      if s.rst.linkHold.getLsbD n then
        let st := (s.plk.link[n]).st
        let s1 := if st = .disabled then s
          else (s.draw.2).log 0x0030 2 n [Config.linkResetCause s.draws, BitVec.ofNat 8 (linkStateCode st)]
        (s1.resetLink n Link.afterReset).putLink n new
      else (s.resetLink n Link.afterSupervision).putLink n new
    else s.putLink n new

/-- What L1, L0 and sleep take from DATA beyond a lesser reset, where one already holds it (R61, R62, R68, R293): DRAM contents, training results, and the Preaz Link registers that lesser resets keep. -/
def State.loseWide (s : State) : State :=
  if s.rst.data = .up then s
  else { s.loseDram with dmc := { nextSeq := s.dmc.nextSeq }, rst := { s.rst with dramSr := false } }.clearRegs 0x180000 0x200000 fun _ => false

/-- Bring-up goes back to where a source of reach L0 or L1, or sleep, puts it (R64, R66, R70, R72): stage 1, or stage 3; a source of L1 also resets RST_BLOCK, RST_LINK and RST_SLEEP; one that asserts in sleep leaves the device asleep after its release (log entry 145). RST_BOOT.ERROR and the OFF bits of what bring-up trains again go to 0 (log entry 144); NET_OFF, whose bank runs through L1 and sleep, stays (R40, R54). L0 and L1 return the balls they cover (R41). -/
def State.restartBoot (s0 : State) : State :=
  if s0.reachL0 || s0.reachL1 || s0.rst.asleep then
    let s1 := s0.loseWide
    let s := if s1.reachL0 || s1.reachL1 then s1.pullBalls else s1
    let r := s.rst
    let r1 := { r with
      stage := if s.reachL0 then 1 else if r.stage.toNat < 3 then r.stage else 3
      error := 0, ddr1Off := false, serWOff := false, serEOff := false, csiOff := false
      calDone := Vector.replicate 4 false, trainDone := Vector.replicate 2 none, pcieUp := false, d3hot := false }
    let r2 := if s.reachL1 then { r1 with
        blockHold := 0, dataHold := false, ctrlHold := false, linkHold := 0, linkAuto := 0, enter := false, sleepCfg := 0, sleep := .awake, reason := 0 }
      else r1
    { s with rst := r2 }
  else s0

/-- One pass over every unit: AON, MGMT, then CTRL before DATA, then blocks and links. -/
def State.settlePass (s : State) : State :=
  let s1 := ((((s.settleDomain .aon).settleDomain .mgmt).settleDomain .ctrl).settleDomain .data)
  let s2 := (List.finRange 13).foldl State.settleBlock s1
  (List.finRange 32).foldl State.settleLink s2

/-- The reset sources have changed (R57): every unit follows. A twin fault that a reset raises, and a release that a parent's allows, need a second pass. -/
def State.settleResets (s : State) : State := ((s.restartBoot.settlePass).restartBoot.settlePass)

/-- Enter FAILED with all that follows (R374). -/
def State.twinFails (s : State) (cause : Nat) : State := (s.failTwin cause).settleResets

/-- SHUTDOWN latches (R55, R56, R397): THERMTRIP_N goes low and the device is reset at L1 until power-on. -/
def State.shutdown (s : State) : State :=
  ({ s with rst := { s.rst with therm := true }, pins := { s.pins with thermtrip := true } }.noteCause 4).settleResets

/-- Link supervision resets a link for 100 µs (R55, R287). -/
def State.superviseReset (s : State) (n : Fin 32) : State :=
  ({ s with rst := { s.rst with linkAuto := s.rst.linkAuto ||| BitVec.twoPow 32 n } }.noteCause 8).settleResets

/-- Targets equal the live gains when LOP leaves reset (R331). -/
def State.targetsFromGains (s : State) : State :=
  s.tables.foldl (fun (t : State) c =>
    if 0x11000000 ≤ c.1 ∧ c.1 < 0x11080000 ∧ c.1 % 2 = 1 then t.writeTable 0x0020 ((c.1 - 0x11000000) / 2) [c.2] else t) s

/-- What the release of a block sets (R10, R40, R193, R240, R264, R292, R331, R369, R396): beyond the reset values it already has. -/
def State.releaseBlk (s : State) (b : Blk) : State :=
  match b with
  | .urg => s.setField 0x2A0000 0 10 s.rst.otp.node.toNat
  | .thm => { s with thm := s.thm.clearHistory }
  | .scr => { s with scr := { s.scr with ready := Vector.ofFn fun p : Fin 8 =>
      if (s.fir.plane[p]).phase = .hold ∨ (s.fir.plane[p]).phase = .armed then (s.fir.plane[p]).seam.toNat else 0 } }
  | .plk => (List.finRange 32).foldl (fun (t : State) n =>
      (t.setField (linkReg n 0x40) 0 2 (max (t.regField (linkReg n 0x40) 0 2) t.rst.otp.authMin.toNat)).bringUp n) s
  | .pos => { s with pos := { s.pos with
      extreme := (s.pos.ch[s.mainChannel]).count
      ch := s.pos.ch.map fun (c : Channel) => { c.resetCtrl with quiet := (s.fireClk, max 1 (s.regField 0x140000 8 8)) } } }
  | .lop => s.targetsFromGains
  | .fir => s.realignFir
  | .clk | .glb | .tim | .hif | .twn | .pmc | .dmc | .mmu | .cpy | .qdc | .csm | .cores | .lck | .cam => s

/-- The PLLs whose lock a unit's clocks need, as CLK_LOCK numbers them (R57, R73, R82). -/
def State.unitPlls (s : State) : ResetUnit → List Nat
  | .domain .aon => [0, 1, 2, 3]
  | .domain .mgmt => [0, 2, 3, 4, 8]
  | .domain .data => [4, 6] ++ (if s.rst.ddr1Off then [] else [7]) ++ (if s.rst.serWOff then [] else [9]) ++ (if s.rst.serEOff then [] else [10])
  | .domain .ctrl => [1, 4, 5]
  | .link n => if n.val < 16 then (if s.rst.serWOff then [] else [9]) else if s.rst.serEOff then [] else [10]
  | .block b => match b with
    | .dmc => [4, 6] ++ (if s.rst.ddr1Off then [] else [7])
    | .plk => [4] ++ (if s.rst.serWOff then [] else [9]) ++ (if s.rst.serEOff then [] else [10])
    | .pos | .fir => [1, 4]
    | .cam => [4, 5]
    | .hif => [4, 8]
    | _ => [4]

/-- Every PLL of a unit is locked (R57). -/
def State.pllsLocked (s : State) (u : ResetUnit) : Bool := (s.unitPlls u).all fun k => s.clk.lock.getLsbD k

/-- State of a unit (R57). -/
def State.unitState (s : State) : ResetUnit → UnitState
  | .domain d => s.domainState d
  | .block b => match b.heldIndex with | some k => s.rst.held[k] | none => .up
  | .link n => s.rst.link[n]

/-- State of a unit replaced. -/
def State.setUnit (s : State) (u : ResetUnit) (v : UnitState) : State :=
  match u with
  | .domain d => s.setDomain d v
  | .block b => match b.heldIndex with
    | some k => { s with rst := { s.rst with held := s.rst.held.set k v } }
    | none => s
  | .link n => { s with rst := { s.rst with link := s.rst.link.set n v } }

/-- Bring-up fails (R66); RST_BOOT.ELAPSED stays as it is (log entry 169). -/
def State.bootFail (s : State) (code : Nat) : State :=
  { s with rst := { s.rst with stage := 0xF, error := BitVec.ofNat 8 code } }

/-- Stage 4 ends when every block of MGMT, DATA and CTRL has been released (R58, R64). -/
def State.stageFour (s : State) : State :=
  if s.rst.stage = 4 ∧ s.rst.relMgmt = domainCount .mgmt ∧ s.rst.relData = domainCount .data ∧ s.rst.relCtrl = domainCount .ctrl then
    { s with rst := { s.rst with stage := 5 } }
  else s

end Sys2Proof.Machine
end

