-- ==== Sys2Proof/Machine/DataMover.lean ====
section
/-! DEFINITION. The data mover, the MMU's commands and the copier (chapter 06, R95). -/

namespace Sys2Proof.Machine

/-- A transfer of no bytes ends at once; any other is given to the data mover. -/
def State.beginXfer (s : State) (f : Flight) : State := if f.e.num 2 = 0 then s.complete f.id stOk 0 else s.startXfer f

/-- QUIRE_LOAD entries under way that have reserved an index entry (R152). -/
def State.reservedQuires (s : State) : Nat :=
  (s.hif.flights.filter fun f => decide (f.e.op = 0x10 ∧ f.phase ≠ .queued) && !f.e.sub.getLsbD 0).length

/-- An index entry can be reserved: 65,536 in all (R152). -/
def State.indexRoom (s : State) : Bool := decide (s.qdc.quires.length + s.reservedQuires < 65536)

/-- QUIRE_LOAD starts (R95, R152); without REPLACE only when an index entry can be reserved. -/
def execQuireLoad (ring : Fin 16) (s : State) : Host.Outcome State Fault Refusal :=
  .next (s.withEntryAt ring (fun e => decide (e.op = 0x10) && (e.sub.getLsbD 0 || s.indexRoom)) Entry.blocks fun f t => t.startXfer f)

/-- TABLE_LOAD starts (R95, R334). -/
def execTableLoad (ring : Fin 16) (s : State) : Host.Outcome State Fault Refusal :=
  .next (s.withEntryAt ring (fun e => decide (e.op = 0x20)) Entry.blocks fun f t =>
    let v := f.e.num 3
    if v = 0 then
      if t.liveOpen f.e.sub.toNat then t.beginXfer f else t.complete f.id stStagedOnly 0
    else if t.viewOpen v then t.beginXfer f
    else t.complete f.id stBadEntry 0)

/-- TABLE_READ starts (R95, R334). -/
def execTableRead (ring : Fin 16) (s : State) : Host.Outcome State Fault Refusal :=
  .next (s.withEntryAt ring (fun e => decide (e.op = 0x21)) Entry.blocks fun f t => t.beginXfer f)

/-- MMU_WRITE starts (R113). -/
def execMmuWrite (ring : Fin 16) (s : State) : Host.Outcome State Fault Refusal :=
  .next (s.withEntryAt ring (fun e => decide (e.op = 0x30)) Entry.blocks fun f t => t.startXfer f)

/-- Bits of job address below one cached entry, and the range it covers (R110, R112). -/
def PteCache.overlaps (c : PteCache) (a len : Nat) : Bool :=
  let n := 2 ^ levelShift c.level
  decide (c.prefix_ * n < a + len) && decide (a < (c.prefix_ + 1) * n)

/-- An outstanding piece was translated in a range of job space; a length of 0 is all of it (R114). -/
def Piece.within (p : Piece) (a len : Nat) : Bool :=
  match p.job with
  | none => false
  | some j => decide (len = 0) || (decide (j < a + len) && decide (a < j + p.len))

/-- Remove the cached translations that overlap a range (R114), a length of 0 removing all; the entry waits for the pieces that used one. -/
def State.invalidate (s : State) (id a len : Nat) : State :=
  { s with
    mmu := { s.mmu with cache := if len = 0 then [] else s.mmu.cache.filter fun c => !c.overlaps a len }
    hif := { s.hif with pieces := s.hif.pieces.map fun p => if p.within a len then { p with holds := p.holds ++ [id] } else p } }

/-- MMU_INVALIDATE (R114). -/
def execMmuInvalidate (ring : Fin 16) (s : State) : Host.Outcome State Fault Refusal :=
  .next (s.withEntryAt ring (fun e => decide (e.op = 0x31)) Entry.blocks fun f t =>
    ((t.invalidate f.id (f.e.num 0) (f.e.num 1)).waitFlight f.id).invalidatesEnd)

/-- A host write of MMU_CFG.ENABLE (R110, R117): 1 is ignored while the 8 KiB root table does not lie wholly inside the page-table region, and 0 empties the translation cache. -/
def State.writeMmuCfg (s : State) (v : Word) : State :=
  if v.getLsbD 0 then (if s.inPt s.ptRoot 8192 then s.hostWrite 0x50000 v else s)
  else
    let s1 := s.hostWrite 0x50000 v
    { s1 with mmu := { s1.mmu with cache := [] } }

/-- A host write of MMU_CFG.ENABLE (R117). -/
def execMmuEnableWrite (enable : Bool) (s : State) : Host.Outcome State Fault Refusal :=
  .next (s.onWrite 0x50000 (if enable then 1 else 0) fun t => t.writeMmuCfg (if enable then 1 else 0))

/-- The active transfer of a class: the oldest (R118). -/
def State.activeXfer (s : State) (c : Fin 4) : Option Xfer := s.hif.xfers.find? fun x => decide (x.cls = c)

/-- The compression of an entry, on its engine (R169). -/
def State.compJob (s : State) (id : Nat) : Option (Fin 4 × CompJob) :=
  (List.finRange 4).findSome? fun k => match s.qdc.comp[k] with
    | some c => if c.req.flight = some id then some (k, c) else none
    | none => none

/-- Output that would reach this length ends an operation as NOT_SMALLER or NO_SPACE (R169). -/
def CompReq.limit (r : CompReq) : Nat := min r.len r.cap

/-- The output of an operation so far (R166). -/
def CompJob.output (c : CompJob) : List Byte := deflated c.req.depth c.req.hash c.req.len c.input

/-- The engine has stopped compressing and reads on for the CRC alone (R169). -/
def CompJob.given (c : CompJob) : Bool := decide (c.req.limit ≤ c.output.length)

/-- Output that is ready to go out. -/
def CompJob.due (c : CompJob) : List Byte := if c.given then [] else c.output.drop c.sent

/-- A transfer has a piece ready (R118). -/
def State.pieceReady (s : State) (x : Xfer) : Bool :=
  !x.faulted && match x.kind with
    | .compress => match s.compJob x.id with
      | some (_, c) => decide (0 < x.left) || !c.due.isEmpty
      | none => false
    | _ => decide (0 < x.left)

/-- The transfer whose piece the mover issues next: the lowest class with a piece ready (R118). -/
def State.nextXfer (s : State) : Option Xfer :=
  (List.finRange 4).findSome? fun c => match s.activeXfer c with
    | some x => if s.pieceReady x then some x else none
    | none => none

/-- The state with one transfer changed. -/
def State.modXfer (s : State) (id : Nat) (g : Xfer → Xfer) : State :=
  { s with hif := { s.hif with xfers := s.hif.xfers.map fun x => if x.id = id then g x else x } }

/-- The state with the compression of an engine changed. -/
def State.putComp (s : State) (k : Fin 4) (c : Option CompJob) : State := { s with qdc := { s.qdc with comp := s.qdc.comp.set k c } }

/-- The state without a transfer and its pieces. -/
def State.dropXfer (s : State) (id : Nat) : State := s.dropXfers fun i => decide (i = id)

/-- Pieces of a transfer are outstanding. -/
def State.piecesOf (s : State) (id : Nat) : Bool := s.hif.pieces.any fun p => decide (p.id = id)

/-- A faulted transfer whose pieces are all complete ends: its entry completes as MMU_FAULT (R115). -/
def State.faultEnds (s : State) (id : Nat) : State :=
  match s.hif.xfers.find? fun x => decide (x.id = id) with
  | none => s
  | some x => if x.faulted && !s.piecesOf id then (s.dropXfer id).completeFault id x.done else s

/-- Record a mover fault at a job address in the slot of its ring (R115). -/
def State.moverFault (s : State) (x : Xfer) (kind level job : Nat) (write : Bool) : State :=
  match s.flight? x.id with
  | none => s
  | some f =>
    ((s.recordFault (f.ring.castLE (by decide)) kind level write f.e.op job).modXfer x.id fun y => { y with faulted := true }).faultEnds x.id

/-- One piece goes out to PCIe (R118, R119). -/
def State.putPiece (s : State) (p : Piece) : State := { s with hif := { s.hif with pieces := s.hif.pieces ++ [p] } }

/-- A transfer has issued `n` bytes. -/
def State.issued (s : State) (x : Xfer) (n : Nat) : State :=
  s.modXfer x.id fun y => { y with dev := y.dev + n, host := y.host + n, left := y.left - n }

/-- Read requests for `len` bytes of host memory, each at most `most` bytes and none across a boundary of that size (R85; log entry 149). -/
def readRequests (most : Nat) : Nat → Nat → Nat → List Out
  | 0, _, _ => []
  | fuel + 1, a, len =>
    if len = 0 then []
    else
      let n := min len (most - a % most)
      .hostRead a n :: readRequests most fuel (a + n) (len - n)

/-- Ask the host for the bytes of a piece (R85, R119). -/
def State.askHost (s : State) (a len : Nat) : State := (readRequests s.maxRead (len + 1) a len).foldl State.emit s

/-- Input of a compression reaches its engine (R169). -/
def CompJob.take (c : CompJob) (bs : List Byte) : CompJob := { c with input := c.input ++ bs }

/-- Input that has come early follows once what precedes it has come. -/
def CompJob.absorb (c : CompJob) : Nat → CompJob
  | 0 => c
  | k + 1 =>
    match c.early.find? fun e => decide (e.1 = c.input.length) with
    | none => c
    | some e => ({ c.take e.2 with early := c.early.filter fun x => decide (x.1 ≠ e.1) }).absorb k

/-- The next input piece of a compression (R115, R118): from job space through port CX at once, from host memory through PCIe. -/
def State.compInPiece (s : State) (x : Xfer) (k : Fin 4) (c : CompJob) : State :=
  let n := min x.left (4096 - x.dev % 4096)
  let left := fun t : State => t.modXfer x.id fun y => { y with dev := y.dev + n, left := y.left - n }
  match c.req.srcAt with
  | .job =>
    match s.translate 6 x.dev false with
    | (.fault kd lv, t) => t.moverFault x kd lv x.dev false
    | (.ok ph, t) =>
      match t.dramRead 4 ph n with
      | (bs, _, u) => ((left u).modXfer x.id fun y => { y with done := y.done + n }).putComp k (some (c.take bs))
  | _ => ((left s).putPiece { id := x.id, dev := x.dev - c.req.src, host := x.dev, len := n }).askHost x.dev n

/-- The next output piece of a compression (R102, R115, R118); at a fault the input that the engine has consumed by then is free. -/
def State.compOutPiece (s : State) (x : Xfer) (k : Fin 4) (c : CompJob) : State :=
  let bs := c.due.take (4096 - x.host % 4096)
  let sent := fun t : State => (t.modXfer x.id fun y => { y with host := y.host + bs.length }).putComp k (some { c with sent := c.sent + bs.length })
  match c.req.dstAt with
  | .job =>
    match s.translate 6 x.host true with
    | (.fault kd lv, t) =>
      let d := t.draw
      (d.2.modXfer x.id fun y => { y with done := Config.compressConsumed d.1 }).moverFault { x with done := Config.compressConsumed d.1 } kd lv x.host true
    | (.ok ph, t) => sent (t.dramPut 4 ph bs)
  | _ =>
    (((sent s).putPiece { id := x.id, dev := c.sent, host := x.host, len := bs.length, out := true }).emit
      (.hostWrite x.host bs s.relaxed)).countEvent 0x11 bs.length {}

/-- Issue the next piece of a transfer (R115, R118): a read request to the host, for TABLE_READ the table's bytes, for COMPRESS input or output of its engine, output first. -/
def State.issuePiece (s : State) (x : Xfer) : State :=
  let n := min x.left (4096 - x.dev % 4096)
  match x.kind with
  | .quire =>
    match s.translate 6 x.dev true with
    | (.fault k l, t) => t.moverFault x k l x.dev true
    | (.ok ph, t) => ((t.issued x n).putPiece { id := x.id, dev := ph, host := x.host, len := n, job := some x.dev }).askHost x.host n
  | .table _ _ | .pte => ((s.issued x n).putPiece { id := x.id, dev := x.dev, host := x.host, len := n }).askHost x.host n
  | .tableRead t v =>
    let bs := readRange (s.viewByte v.val) (tableKey t.toNat x.dev) n
    (((s.readView v.val t.toNat x.dev n |>.issued x n).putPiece { id := x.id, dev := x.dev, host := x.host, len := n }).emit
      (.hostWrite x.host bs s.relaxed)).countEvent 0x11 n {}
  | .compress =>
    match s.compJob x.id with
    | none => s
    | some (k, c) => if c.due.isEmpty then s.compInPiece x k c else s.compOutPiece x k c

/-- The data mover issues its next piece while fewer than 8 are outstanding (R118, R119). -/
def execDataMoverPieceIssue (s : State) : Host.Outcome State Fault Refusal :=
  .next (if s.blkUp .hif && decide (s.hif.pieces.length < 8) then
    match s.nextXfer with
    | some x => s.issuePiece x
    | none => s
  else s)

/-- A quire that a REPLACE names (R151, check 4). -/
def State.replaced (s : State) (q : Quire) : Option Quire :=
  s.qdc.quires.find? fun x => decide (x.plane = q.plane ∧ x.overlay = q.overlay ∧ x.first = q.first ∧ x.count = q.count ∧
    x.colFirst = q.colFirst ∧ x.colCount = q.colCount)

/-- Two quires of a layer overlap in lines and columns (R151, check 7). -/
def Quire.overlaps (a b : Quire) : Bool :=
  decide (a.plane = b.plane ∧ a.overlay = b.overlay) && rangesMeet a.first a.count b.first b.count && rangesMeet a.colFirst a.colCount b.colFirst b.colCount

/-- The engines stop the decode of a quire. -/
def State.stopDecode (s : State) (j : EngineJob) : State :=
  { s with qdc := { s.qdc with dec := s.qdc.dec.map fun d => if d = some j then none else d } }

/-- A base or overlay quire is indexed (R152, R153, R163). -/
def State.indexQuire (s : State) (q : Quire) (seals : Bool) : State :=
  { s with qdc := { s.qdc with
      quires := s.qdc.quires ++ [q], nextId := s.qdc.nextId + 1
      sealed := if seals then s.qdc.sealed.set q.plane (max s.qdc.sealed[q.plane] (q.first + q.count)) else s.qdc.sealed } }

/-- A source of a line is an overlay quire. -/
def State.isOverlay (s : State) : LineSource → Bool
  | .quire id => s.qdc.quires.any fun q => decide (q.id = id) && q.overlay.isSome
  | .fill | .plate _ => false

/-- The lines that an overlay quire has written: the sources below it are to write them again, since the columns that its replacement keys out print their levels (R172; log entry 142). -/
def State.uncover (s : State) (old : Quire) : State :=
  if old.overlay.isNone then s
  else
    let f := fun w : LineWork => if w.done.contains (.quire old.id) then { w with done := w.done.filter s.isOverlay } else w
    { s with scr := { s.scr with lines := modAt s.scr.lines old.plane fun ls => ls.map f } }

/-- A quire replaces an indexed one (R151, R163): any decode of the old one stops, and the new one is to be decoded and written afresh. -/
def State.replaceQuire (s : State) (old q : Quire) : State :=
  let s1 := (s.stopDecode (.quire old.id)).uncover old
  { s1 with qdc := { s1.qdc with
      quires := s1.qdc.quires.map fun x => if x.id = old.id then q else x, nextId := s1.qdc.nextId + 1
      accepted := satInc s1.qdc.accepted } }

/-- The checks of R151 on a moved quire: its status, and the state that follows. -/
def State.checkQuire (s : State) (f : Flight) : BitVec 8 × State :=
  match s.jobRead 3 2 (f.e.num 1) 64 with
  | (_, false, t) => (stHeaderBad, t)
  | (bs, true, t) =>
    let h := parseHeader bs
    let q := h.quire t.qdc.nextId (f.e.num 1)
    if !h.good (some (f.e.num 2 - 64)) then (stHeaderBad, t)
    else if f.e.sub.getLsbD 0 then
      if h.role % 4 = 1 then (stReplaceNone, t)
      else match t.replaced q with
        | none => (stReplaceNone, t)
        | some old =>
          if rangesMeet old.job (64 + old.compLen) q.job (64 + q.compLen) then (stHeaderBad, t)
          else if t.deadlinePassed old then (stReplaceLate, { t with qdc := { t.qdc with late := satInc t.qdc.late } })
          else (stOk, t.replaceQuire old q)
    else if h.role % 4 = 1 then (stOk, t)
    else if q.first < t.qdc.sealed[q.plane] ∨ t.qdc.quires.any q.overlaps then (stHeaderBad, t)
    else (stOk, t.indexQuire q (h.role.testBit 2))

/-- Every byte of a transfer has moved: what the entry's command still does, and its completion (R95, R113, R151, R282). -/
def State.xferEnds (s : State) (x : Xfer) : State :=
  let s0 := s.dropXfer x.id
  match s0.flight? x.id with
  | none => s0
  | some f =>
    match x.kind with
    | .quire =>
      let r := s0.checkQuire f
      (r.2.complete x.id r.1 x.done).settle s
    | .table t v =>
      if v.val ≠ 0 then s0.complete x.id (if s0.viewOpen v.val then stOk else stBadEntry) x.done
      else
        let s1 := s0.liveChanged t.toNat (f.e.num 1) (f.e.num 2) (.table x.id)
        if t = 0x0002 ∧ (s1.plk.link.toList.any fun l => l.uploads.any fun u => decide (u.who = .table x.id)) then
          (s1.modFlight x.id fun g => { g with phase := .waiting, done := x.done }).settle s
        else (s1.complete x.id stOk x.done).settle s
    | .tableRead _ _ | .pte => s0.complete x.id stOk x.done
    | .compress => s0

/-- The bytes of a piece reach the device side (R113, R138, R333): job store, page tables, a live table, or an OPEN chamber. -/
def State.landPiece (s : State) (x : Xfer) (p : Piece) (bs : List Byte) : State :=
  match x.kind with
  | .quire | .pte => (s.dramPut 6 p.dev bs).countEvent 0x10 p.len {}
  | .table t v =>
    (if v.val = 0 then s.writeTable t.toNat p.dev bs
     else if s.viewOpen v.val then s.stageUnits 6 (viewChamber v.val) t.toNat p.dev bs
     else s).countEvent 0x10 p.len {}
  | .tableRead _ _ => s
  | .compress =>
    match s.compJob x.id with
    | some (k, c) =>
      if p.out then s
      else (s.putComp k (some ({ c with early := c.early ++ [(p.dev, bs)] }.absorb (c.early.length + 1)))).countEvent 0x10 p.len {}
    | none => s

/-- A piece completes (R118): its transfer advances, and ends with its last piece. -/
def State.pieceDone (s : State) (k : Nat) (p : Piece) (bs : List Byte) : State :=
  match s.hif.xfers.find? fun x => decide (x.id = p.id) with
  | none => { s with hif := { s.hif with pieces := s.hif.pieces.eraseIdx k } }
  | some x =>
    let s1 := { s with hif := { s.hif with pieces := s.hif.pieces.eraseIdx k } }
    let n := if p.out then 0 else p.len
    let s2 := (s1.landPiece x p bs).modXfer x.id fun y => { y with done := y.done + n }
    let x' := { x with done := x.done + n }
    if x'.faulted then s2.faultEnds x.id
    else if x'.left = 0 ∧ s2.piecesOf x.id = false ∧ x.kind ≠ .compress then s2.xferEnds x'
    else s2

/-- A host read or write of a piece completes (R118); `piece` counts the outstanding ones from the oldest, `bytes` are what a read returned. -/
def execDataMoverPieceDone (piece : Nat) (bytes : List Byte) (s : State) : Host.Outcome State Fault Refusal :=
  .next (match s.hif.pieces[piece]? with
    | none => s
    | some p => (s.pieceDone piece p ((bytes ++ List.replicate p.len 0).take p.len)).invalidatesEnd)

/-- A read of host memory fails (R99): the entry completes as HOST_READ_ERR with the bytes done. -/
def execHostReadError (piece : Nat) (s : State) : Host.Outcome State Fault Refusal :=
  .next (match s.hif.pieces[piece]? with
    | none => s
    | some p =>
      match s.hif.xfers.find? fun x => decide (x.id = p.id) with
      | none => s
      | some x => match x.kind with
        | .tableRead _ _ => s
        | _ => if p.out then s else (s.dropXfer p.id).complete p.id stHostReadErr x.done)

/-- A direct load of the channel table has had every bank of R282 reported VALID, or its link has left RUN. -/
def execTableLoadChannelDone (s : State) : Host.Outcome State Fault Refusal :=
  .next ((s.hif.flights.filter fun f => decide (f.e.op = 0x20 ∧ f.phase = .waiting) &&
      !s.plk.link.toList.any fun l => l.uploads.any fun u => decide (u.who = .table f.id) && !u.valid).foldl
    (fun (t : State) f => t.complete f.id stOk f.done) s)

/-- The copier request of a COPY entry. -/
def Entry.copyReq (e : Entry) : CopyReq := ⟨e.num 0, e.num 1, e.num 2, BitVec.ofNat 8 (e.num 3)⟩

/-- The state-dependent tests of R121, in the order of R96: BAD_ENTRY before ALIGN. -/
def State.copyCheck (s : State) (r : CopyReq) : Option (BitVec 8) :=
  let closed := fun k : Option (Fin 4) => match k with | some c => decide ((s.lck.ch[c]).st ≠ .open_) | none => false
  let live := match s.devRange r.dst r.len with
    | some (.table t 0 _) => !s.liveOpen t
    | _ => false
  if live || closed (s.copyView r) || closed (targetChamber r.target) then some stBadEntry
  else if r.src % 64 ≠ 0 ∨ r.dst % 64 ≠ 0 ∨ r.len % 64 ≠ 0 then some stAlign
  else none

/-- The copier accepts a COPY entry into its queue, which completes it (R121 to R123). -/
def State.acceptCopy (s : State) (f : Flight) : State :=
  let r := f.e.copyReq
  match s.copyCheck r with
  | some st => s.complete f.id st 0
  | none =>
    let s1 := { s with cpy := { s.cpy with queue := s.cpy.queue ++ [r] } }
    let s2 := match targetChamber r.target with
      | some k => s1.modChamber k fun d => { d with pending := d.pending + 1 }
      | none => s1
    s2.complete f.id stOk 0

/-- COPY is accepted, or waits while the queue is full (R121, R122). -/
def execCopy (ring : Fin 16) (s : State) : Host.Outcome State Fault Refusal :=
  .next (s.withEntryAt ring (fun e => decide (e.op = 0x40)) Entry.blocks fun f t =>
    if t.cpy.queue.length < 16 then t.acceptCopy f else t.waitFlight f.id)

/-- The oldest waiting COPY is accepted once the queue has room (R122). -/
def execCopyQueueAdmit (s : State) : Host.Outcome State Fault Refusal :=
  .next (if s.cpy.queue.length < 16 then
    match s.hif.flights.find? fun f => decide (f.e.op = 0x40 ∧ f.phase = .waiting) with
    | some f => s.acceptCopy f
    | none => s
  else s)

/-- The idle copier takes its oldest request (R122). -/
def execCopyStart (s : State) : Host.Outcome State Fault Refusal :=
  .next (match s.cpy.run, s.cpy.queue with
    | none, r :: rest =>
      if s.blkUp .cpy && s.clkRuns 4 then
        { s with cpy := { s.cpy with
            run := some ⟨r, 0, [], !(s.rangeBlk r.src r.len ++ s.rangeBlk r.dst r.len).all s.blkUp⟩, queue := rest } }
      else s
    | _, _ => s)

/-- BAR0 offsets of CPY_DONE, CPY_ERR and CPY_ERR_ADDR, kept beside the host-written registers. -/
def cpyDoneReg : Nat := 0x60004
def cpyErrReg : Nat := 0x60008
def cpyErrAddr : Nat := 0x60010

/-- The last write of the running copy is accepted (R123, R424): the beats it had still to read and to write move, and the event goes to its target. -/
def State.copyDone (s : State) (c : CopyRun) : State :=
  let r := c.req
  let bs := c.ahead.flatten ++ s.copySource (r.src + c.readTo) (r.len - c.readTo)
  let s1 := (if bs.isEmpty then s else s.copyDest (r.dst + 64 * c.moved) bs).copyTouch r (r.src + c.readTo) (r.len - c.readTo)
  let s2 := s1.endRun { c with moved := r.len / 64 }
  (((s2.setReg cpyDoneReg (s2.reg cpyDoneReg + 1)).countEvent 0x52 r.len {}).copyEvent r true).settle s

/-- The running copy completes (R123). A copy that must fail does not (log entry 4). -/
def execCopyDone (s : State) : Host.Outcome State Fault Refusal :=
  .next (match s.cpy.run with
    | some c => if !c.stuck && s.copyGood c.req then s.copyDone c else s
    | none => s)

/-- CPY_ERR.CAUSE of a failure. -/
def faultCode : CopyFault → Nat
  | .sourceEcc => 1 | .readWrapper => 2 | .writeWrapper => 3 | .chamberClosed => 4

/-- What may make the running copy fail with a cause (R124): a source that DRAM holds reads with an ECC error (a chamber's staged units stand in DRAM, R333), a block of the source or of the destination is in reset and its wrapper answers (R59), or the destination is the view of a chamber that is no longer OPEN. -/
def State.copyFails (s : State) (r : CopyReq) : CopyFault → Bool
  | .sourceEcc => (s.rangeBlk r.src r.len).contains .dmc
  | .readWrapper => (s.rangeBlk r.src r.len).any fun b => !s.blkUp b
  | .writeWrapper => (s.rangeBlk r.dst r.len).any fun b => !s.blkUp b
  | .chamberClosed => match s.copyView r with | some k => decide ((s.lck.ch[k]).st ≠ .open_) | none => false

/-- The DRAM address of a source byte of a copy: itself, or where the chamber store keeps the staged unit (R334). -/
def State.sourceUnit (s : State) (a : Nat) : Nat :=
  match s.devRange a 1 with
  | some (.dram d) => d
  | some (.table t v off) => s.storeAddr (viewChamber v) (tableKey t off / 64)
  | none => 0

/-- The beat at which the running copy fails (R124): the first whose read, or whose write, a wrapper or a closed chamber answers with an error; a source error comes at a beat not yet read, which the command names. -/
def CopyRun.failsAt (c : CopyRun) (cause : CopyFault) (beat : Nat) : Nat :=
  match cause with
  | .sourceEcc => max beat (c.moved + c.ahead.length)
  | .readWrapper => c.moved + c.ahead.length
  | .writeWrapper | .chamberClosed => c.moved

/-- The running copy fails at a 64-byte beat (R124), an error of R377 on every plane: earlier beats stand; from the beat on the destination is undefined, but for a chamber that left OPEN, whose contents stay. -/
def State.copyFail (s : State) (c : CopyRun) (cause : CopyFault) (at_ : Nat) : State :=
  let r := c.req
  let k := min (64 * at_) r.len
  let s2 := if cause = .chamberClosed then s
    else
      let d := s.draw
      let tail := (List.range (r.len - k)).map fun i => Config.copyTail d.1 (r.dst + k + i)
      let good := (c.ahead.flatten ++ s.copySource (r.src + c.readTo) (k - c.readTo)).take (k - 64 * c.moved)
      d.2.copyDest (r.dst + 64 * c.moved) (good ++ tail)
  let s3 := if cause = .sourceEcc then s2.recordUe 7 (s.sourceUnit (r.src + k)) else s2
  let old := (s3.reg cpyErrReg).toNat
  let n := min 255 (bitsOf old 8 8 + 1)
  let s4 := (((s3.endRun { c with moved := if cause = .chamberClosed then c.moved else r.len / 64 }).setReg cpyErrReg
    (BitVec.ofNat 32 (1 + 2 * faultCode cause + 256 * n))).setReg cpyErrAddr
    (BitVec.ofNat 32 (r.src + k))).setReg (cpyErrAddr + 4) (BitVec.ofNat 32 ((r.src + k) / 2 ^ 32))
  ((s4.twinError (List.finRange 8)).copyEvent r false).settle s

/-- The running copy fails (R124); a cause that the state rules out changes nothing (log entry 4). -/
def execCopyFail (cause : CopyFault) (beat : Nat) (s : State) : Host.Outcome State Fault Refusal :=
  .next (match s.cpy.run with
    | some c =>
      if 64 * c.failsAt cause beat < c.req.len ∧ s.copyFails c.req cause = true then s.copyFail c cause (c.failsAt cause beat) else s
    | none => s)

end Sys2Proof.Machine
end

