-- ==== Sys2Proof/Machine/Codec.lean ====
section
/-! DEFINITION. The quire codec's commands (chapter 08): decoding of quires and plate repeats, deadlines, retiring, compression. -/

namespace Sys2Proof.Machine

/-- A decode an engine may take (R159), with the keys its choice compares. -/
structure DecodeCand where
  /-- Lines still to go to the deadline. -/
  togo : Int
  /-- Plane. -/
  plane : Fin 8
  /-- 0 base or plate, 1 overlay. -/
  layer : Nat
  /-- Overlay number. -/
  overlay : Nat
  /-- COL_FIRST. -/
  col : Nat
  /-- The quire by number, or a repeat not yet started with its quire. -/
  job : Nat ⊕ (Repeat × Quire)
  deriving DecidableEq, Repr

/-- Order of R159: earlier deadline, then lower plane, base before overlay, overlay number, lower column. -/
def DecodeCand.before (a b : DecodeCand) : Bool :=
  if a.togo ≠ b.togo then decide (a.togo < b.togo)
  else if a.plane ≠ b.plane then decide (a.plane < b.plane)
  else if a.layer ≠ b.layer then decide (a.layer < b.layer)
  else if a.overlay ≠ b.overlay then decide (a.overlay < b.overlay)
  else decide (a.col < b.col)

/-- The first of a list of candidates; among equals the earlier in the list. -/
def firstCand : List DecodeCand → Option DecodeCand
  | [] => none
  | c :: t => match firstCand t with
    | none => some c
    | some d => some (if d.before c then d else c)

/-- Every plate repeat that covers a line of a quire has started or finished (R178); the repeats of released lines have, and their records are gone. -/
def State.platesBegun (s : State) (q : Quire) : Bool :=
  (List.range q.count).all fun k =>
    s.lineReleased q.plane (q.first + k) || (s.repeatsAt q.plane (q.first + k)).all fun r => (s.plateRun r.1).isSome

/-- The sources beneath a quire let its decode start (R178): for an overlay, its last line is sealed and every base quire under it has started too. -/
def State.sourcesBegun (s : State) (q : Quire) : Bool :=
  s.platesBegun q && (q.overlay.isNone ||
    (decide (q.first + q.count ≤ s.qdc.sealed[q.plane]) &&
      s.qdc.quires.all fun b => decide (b.plane ≠ q.plane ∨ b.overlay.isSome ∨ b.state ≠ .indexed) || !rangesMeet b.first b.count q.first q.count))

/-- Base and overlay quires an engine may take (R159, R178). -/
def State.quireCands (s : State) : List DecodeCand :=
  s.qdc.quires.filterMap fun q =>
    if q.state = .indexed ∧ q.first + q.count ≤ s.slotLimit q.plane ∧ s.sourcesBegun q then
      some ⟨s.deadlineLine q.plane q.first - s.fireLine q.plane, q.plane, if q.overlay.isSome then 1 else 0, (q.overlay.map Fin.val).getD 0, q.colFirst, .inl q.id⟩
    else none

/-- Plate repeats an engine may take: due on a line of the ring and not started (R159, R164). -/
def State.plateCands (s : State) : List DecodeCand :=
  (List.finRange 8).flatMap fun p =>
    (List.range (s.slotLimit p - s.releaseLine p)).flatMap fun k =>
      (s.repeatsAt p (s.releaseLine p + k)).filterMap fun r =>
        if (s.plateRun r.1).isNone ∧ r.1.origin + r.2.first + r.2.count ≤ (s.slotLimit p : Int) then
          some ⟨s.deadlineLine p (r.1.origin + r.2.first) - s.fireLine p, p, 0, 0, r.2.colFirst, .inr r⟩
        else none

/-- The state with one indexed quire changed. -/
def State.modQuire (s : State) (id : Nat) (f : Quire → Quire) : State :=
  { s with qdc := { s.qdc with quires := s.qdc.quires.map fun q => if q.id = id then f q else q } }

/-- The state with the quire of one plate repeat changed. -/
def State.modPlate (s : State) (id : Nat) (f : Quire → Quire) : State :=
  { s with qdc := { s.qdc with plates := s.qdc.plates.map fun x => if x.quire.id = id then { x with quire := f x.quire } else x } }

/-- The state with the quire an engine holds changed. -/
def State.modJob (s : State) (j : EngineJob) (f : Quire → Quire) : State :=
  match j with
  | .quire id => s.modQuire id f
  | .plate id => s.modPlate id f

/-- The quire an engine holds. -/
def State.jobQuire (s : State) : EngineJob → Option Quire
  | .quire id => s.qdc.quires.find? fun q => decide (q.id = id)
  | .plate id => (s.qdc.plates.find? fun x => decide (x.quire.id = id)).map PlateRun.quire

/-- The quire of a plate repeat as its header reads now (R158, R164, R173): one that cannot be read, or fails checks 1 to 3 of R151, gives the decoder no input. -/
def State.readPlate (s : State) (r : Repeat) (q : Quire) : Quire × State :=
  match s.jobRead 3 2 q.job 64 with
  | (bs, ok, t) =>
    let h := parseHeader bs
    let id := s.qdc.nextId
    let new : Quire :=
      if ok && h.good none then { h.quire id q.job with plane := q.plane, overlay := none, state := .decoding }
      else { q with id := id, state := .decoding, read := [], cut := true }
    (new, { t with qdc := { t.qdc with nextId := id + 1, plates := t.qdc.plates ++ [⟨r.d, r.entry, r.origin, new⟩] } })

/-- An engine takes a decode (R159, R163, R164); of a plate it reads the header again (R158). -/
def State.takeDecode (s : State) (e : Fin 16) (c : DecodeCand) : State :=
  match c.job with
  | .inl id =>
    let t := s.modQuire id fun q => { q with state := .decoding }
    { t with qdc := { t.qdc with dec := t.qdc.dec.set e (some (.quire id)) } }
  | .inr (r, q) =>
    let (new, t) := s.readPlate r q
    { t with qdc := { t.qdc with dec := t.qdc.dec.set e (some (.plate new.id)) } }

/-- QDC and CORE_CLK run. -/
def State.qdcRuns (s : State) : Bool := s.blkUp .qdc && s.clkRuns 4

/-- DRAM answers a read of job space, whose pages lie on every channel in use: its clocks run and it serves, or its wrapper answers with an error (R59, R83, R129). -/
def State.jobAnswers (s : State) : Bool :=
  !s.blkUp .dmc || (s.dmc.ready && s.clkRuns 6 && (s.rst.ddr1Off || s.clkRuns 7))

/-- An idle, enabled engine takes the eligible decode whose deadline comes first (R159). -/
def execDecodeDispatch (engine : Fin 16) (s : State) : Host.Outcome State Fault Refusal :=
  .next (if s.qdcRuns && s.jobAnswers && s.regBit 0xA0004 engine.val && (s.qdc.dec[engine]).isNone then
    match firstCand (s.quireCands ++ s.plateCands) with
    | some c => s.takeDecode engine c
    | none => s
  else s)

/-- Web line on which line 0 of a decode falls: 0 for quires at web lines, the repeat's origin for a plate. -/
def State.jobOrigin (s : State) : EngineJob → Int
  | .quire _ => 0
  | .plate id => ((s.qdc.plates.find? fun x => decide (x.quire.id = id)).map PlateRun.origin).getD 0

/-- The number by which screening knows a decode. -/
def EngineJob.source : EngineJob → LineSource
  | .quire id => .quire id
  | .plate id => .plate id

/-- A decode writes web line n: an overlay inside its window, a plate where its descriptor still puts that repeat (R174, R176). -/
def State.jobWrites (s : State) (j : EngineJob) (q : Quire) (n : Nat) : Bool :=
  match j with
  | .quire _ => s.overlayWrites q n
  | .plate id => match s.qdc.plates.find? fun x => decide (x.quire.id = id) with
    | none => false
    | some x => match plateAt (s.viewAt n) x.desc with
      | none => false
      | some pl => decide (pl.plane = q.plane) && pl.covers n && decide ((n : Int) - pl.lineAt n = x.origin) &&
        decide (pl.listFirst ≤ x.entry ∧ x.entry < pl.listFirst + pl.listCount)

/-- Screening has taken line i of a decode out of the output buffer (R159): written it, or discarded it, since it is released (R191) or writes nothing. -/
def State.lineTaken (s : State) (j : EngineJob) (q : Quire) (i : Nat) : Bool :=
  let n := s.jobOrigin j + q.first + i
  decide (n < s.releaseLine q.plane) || !s.jobWrites j q n.toNat || s.hasWritten q.plane n.toNat j.source

/-- The first line of a decode, from line i on, that screening has not taken; the number bounds the lines. -/
def State.takenFrom (s : State) (j : EngineJob) (q : Quire) : Nat → Nat → Nat
  | 0, i => i
  | k + 1, i => if s.lineTaken j q i then s.takenFrom j q k (i + 1) else i

/-- Lines of a decode that screening has taken, in order (R159). -/
def State.linesTaken (s : State) (j : EngineJob) (q : Quire) : Nat := s.takenFrom j q q.count 0

/-- Bytes an engine can have produced: what screening has taken, and a full output buffer of 64 KiB (R159). -/
def State.outputRoom (s : State) (j : EngineJob) (q : Quire) : Nat := s.linesTaken j q * strideOf q.kind q.colCount + 65536

/-- The whole stream has been read, or a read of it has failed (R116, R158). -/
def Quire.readOut (q : Quire) : Bool := q.cut || decide (q.compLen ≤ q.read.length)

/-- The engine reads its stream on, to the end of the job-space page (R425): through port CD, and a read that fails ends its input (R116, R140). How far it reads at a time is the model's (log entry 164). -/
def State.readChunk (s : State) (j : EngineJob) (q : Quire) : State :=
  let a := q.job + 64 + q.read.length
  match s.jobRead 3 2 a (min (q.compLen - q.read.length) (4096 - a % 4096)) with
  | (bs, ok, t) => t.modJob j fun x => { x with read := x.read ++ bs, cut := !ok }

/-- The decode goes on until it has produced some bytes, has ended, or its output buffer is full (R159, R425); the last number bounds the pages. -/
def State.readUntil (s : State) (j : EngineJob) (need : Nat) : Nat → State
  | 0 => s
  | k + 1 =>
    match s.jobQuire j with
    | none => s
    | some q =>
      let r := inflate q.rawLen q.read
      if decide (q.state ≠ .decoding) || q.readOut || decide (need ≤ r.size) || decide (r.stop ≠ .starved) || decide (s.outputRoom j q < r.size) || !s.jobAnswers then s
      else (s.readChunk j q).readUntil j need k

/-- The decode of a quire goes on until it has produced some bytes (R425). -/
def State.decodeTo (s : State) (j : EngineJob) (need : Nat) : State :=
  match s.jobQuire j with
  | none => s
  | some q => s.readUntil j need (q.compLen / 4096 + 2)

/-- Every decode that an engine holds reads one more page (R425): what an idle step lets them do (log entry 46). -/
def State.decodeOn (s : State) : State :=
  if s.qdcRuns then
    (List.finRange 16).foldl (fun (t : State) e => match t.qdc.dec[e] with
      | some j => match t.jobQuire j with
        | some q => t.readUntil j (q.rawLen + 1) 1
        | none => t
      | none => t) s
  else s

/-- What goes on in the block while no command comes: the copier moves beats and the decoders read (log entry 46). -/
def State.idle (s : State) : State := s.copyBurst.decodeOn.settle s

/-- A QUIRE_BAD record and QDC_BAD (R104, R163); an error of R377 on the plane. -/
def State.quireBad (s : State) (q : Quire) (origin : Int) (cause : Nat) : State :=
  { s.twinError [q.plane] with qdc := { s.qdc with badCount := satInc s.qdc.badCount, badCause := BitVec.ofNat 3 cause, badPlane := q.plane } }.log 0x0010 2 q.plane
    (lineBytes (origin + q.first) ++ leBytes 2 q.count ++ [BitVec.ofNat 8 cause])

/-- A quire is BLANKED (R163, R164): its columns are to be written at level 0, also where decoded lines were written. -/
def State.blank (s : State) (src : LineSource) (plane : Fin 8) : State :=
  { s with scr := { s.scr with lines := modAt s.scr.lines plane fun ls => ls.map fun (w : LineWork) => { w with done := w.done.filter fun x => decide (x ≠ src) } } }

/-- LOP hears that a quire of a plane has been BLANKED (R315): the bands on its lines are spoilt; `origin` is the web line of its line 0. -/
def State.blankBands (s : State) (q : Quire) (origin : Int) : State :=
  let f := fun b : Band => if b.mask.getLsbD q.plane && decide (origin + q.first < b.first + b.count ∧ (b.first : Int) < origin + q.first + q.count) then
    { b with spoilt := true } else b
  { s with lop := { s.lop with bands := s.lop.bands.map f } }

/-- A decode ends (R158, R163, R164): VERIFIED, or BAD with its record; a bad plate repeat is BLANKED at once. -/
def State.decodeEnds (s : State) (e : Fin 16) (j : EngineJob) (q : Quire) : State :=
  let s1 := { s with qdc := { s.qdc with dec := s.qdc.dec.set e none } }
  match decodeCause q.rawLen q.crc q.read (decide (q.read.length = q.compLen)) with
  | none => (((s1.modJob j fun x => { x with state := .verified }).countEvent 0x20 q.rawLen {}).countEvent 0x22 1 {}).settle s
  | some cause =>
    let s2 := s1.quireBad q (s1.jobOrigin j) cause
    match j with
    | .quire id => s2.modQuire id fun x => { x with state := .bad }
    | .plate id => (((s2.modPlate id fun x => { x with state := .blanked }).blank (.plate id) q.plane).blankBands q (s1.jobOrigin j)).settle s

/-- A decode has come to its end: its final block has ended, a check has failed, or its input is out; and its output is in the buffer or taken (R158, R159). -/
def State.decodeOver (s : State) (j : EngineJob) (q : Quire) : Bool :=
  let r := inflate q.rawLen q.read
  (q.readOut || decide (r.stop ≠ .starved)) && decide (r.size ≤ s.outputRoom j q)

/-- A decode of an engine ends (R158); one that its output buffer stalls does not (R159). -/
def execDecodeEnd (engine : Fin 16) (s : State) : Host.Outcome State Fault Refusal :=
  .next (if s.qdcRuns then
    match s.qdc.dec[engine] with
    | none => s
    | some j => match s.jobQuire j with
      | none => { s with qdc := { s.qdc with dec := s.qdc.dec.set engine none } }
      | some q0 =>
        let t := s.decodeTo j (q0.rawLen + 1)
        match t.jobQuire j with
        | some q => if t.decodeOver j q then t.decodeEnds engine j q else t
        | none => t
  else s)

/-- Every BAD quire whose replace deadline has come is BLANKED (R161, R163), which LOP hears of (R315). -/
def State.blankDue (s : State) : State :=
  (s.qdc.quires.filter fun q => decide (q.state = .bad) && s.deadlinePassed q).foldl (fun (t : State) q =>
    ((t.modQuire q.id fun x => { x with state := .blanked }).blank (.quire q.id) q.plane).blankBands q 0) s

/-- The fire line reaches a replace deadline (R161). -/
def execReplaceDeadline (s : State) : Host.Outcome State Fault Refusal := .next (s.blankDue.settle s)

/-- Quires whose last line RETIRED has passed are freed (R107, R152, R163), and repeats of plates that no line needs any more (R164). -/
def State.retireQuires (s : State) : State :=
  let gone := s.qdc.quires.filter fun q => decide (q.first + q.count ≤ (s.fir.plane[q.plane]).retired)
  let goneP := s.qdc.plates.filter fun x => decide (x.origin + x.quire.first + x.quire.count ≤ (s.releaseLine x.quire.plane : Int))
  let s1 := gone.foldl (fun (t : State) q => t.stopDecode (.quire q.id)) s
  let s2 := goneP.foldl (fun (t : State) x => t.stopDecode (.plate x.quire.id)) s1
  { s2 with qdc := { s2.qdc with
      quires := s2.qdc.quires.filter fun q => !gone.any fun x => decide (x.id = q.id)
      plates := s2.qdc.plates.filter fun p => !goneP.any fun x => decide (x.quire.id = p.quire.id) } }

/-- RETIRED passes the last line of quires (R152). -/
def execQuireRetire (s : State) : Host.Outcome State Fault Refusal := .next (if s.blkUp .qdc then s.retireQuires else s)

/-- COMPRESS waits for an engine in order of arrival (R95, R169). -/
def execCompress (ring : Fin 16) (s : State) : Host.Outcome State Fault Refusal :=
  .next (s.withEntryAt ring (fun e => decide (e.op = 0x48)) Entry.blocks fun f t => t.queueCompress f)

/-- The lowest-numbered enabled compression engine that is free (R169). -/
def State.freeComp (s : State) : Option (Fin 4) :=
  (List.finRange 4).find? fun k => s.regBit 0xA0004 (16 + k.val) && (s.qdc.comp[k]).isNone

/-- A free engine takes the oldest compression request whose entry is still there (R169); the data mover takes its transfer in (R118). -/
def State.startCompress (s : State) : State :=
  let live := s.qdc.compQueue.filter fun r => match r.flight with | some id => (s.flight? id).isSome | none => true
  match live, s.freeComp with
  | r :: rest, some k =>
    let s1 := { s with qdc := { s.qdc with compQueue := rest, comp := s.qdc.comp.set k (some ⟨r, [], [], 0⟩) } }
    match r.flight.bind s.flight? with
    | some f => (s1.modFlight f.id fun g => { g with phase := .running }).addXfer ⟨f.id, s.ringClass f.ring, .compress, r.src, r.dst, r.len, 0, false, f.start⟩
    | none => s1
  | _, _ => { s with qdc := { s.qdc with compQueue := live } }

/-- A compression engine starts (R169); the camera-archive requests that the firmware has made by now wait behind the others. -/
def execCompressEngineStart (s : State) : Host.Outcome State Fault Refusal :=
  .next (if s.blkUp .qdc && s.clkRuns 4 then s.archiveArrives.startCompress else s)

/-- Status and output length of a compression that has taken its whole input (R99, R169). -/
def CompJob.status (c : CompJob) : BitVec 8 × Nat :=
  if c.given then (if c.req.cap < c.req.len then stNoSpace else stNotSmaller, 0) else (stOk, c.output.length)

/-- The destination of an operation that ends as NOT_SMALLER or NO_SPACE is undefined (R169): in job space each page of it that the MMU lets be written, in device DRAM all of it. -/
def State.blurOutput (s : State) (r : CompReq) (d : Nat) : Nat → Nat → Nat → State
  | 0, _, _ => s
  | fuel + 1, a, len =>
    if len = 0 then s
    else
      let n := min len (4096 - a % 4096)
      let bs := (List.range n).map fun i => Config.compressTail d (a + i)
      let s1 := match r.dstAt with
        | .host => s
        | .dram => s.dramPut 4 a bs
        | .job => match s.translate 6 a true with
          | (.ok ph, _) => s.dramPut 4 ph bs
          | (.fault _ _, _) => s
      s1.blurOutput r d fuel (a + n) (len - n)

/-- A compression that has taken its whole input and given out its output ends: events, and what an unfinished output leaves undefined (R169, R406). -/
def State.compSettles (s : State) (k : Fin 4) (c : CompJob) : State :=
  let s1 := (s.putComp k none).countEvent 0x21 c.req.len {}
  if c.given then s1.draw.2.blurOutput c.req s1.draw.1 (c.req.limit / 4096 + 2) c.req.dst c.req.limit else s1

/-- The compression of an entry ends (R95, R99, R169). -/
def State.compEnds (s : State) (k : Fin 4) (c : CompJob) (id : Nat) : State :=
  ((s.compSettles k c).dropXfer id).complete id c.status.1 ((crc32c c.input).toNat + c.status.2 * 2 ^ 32)

/-- A camera-archive operation ends (R169): the engine has read its input and written its output in device DRAM. -/
def State.archiveEnds (s : State) (k : Fin 4) (r : CompReq) : State :=
  match s.dramRead 4 r.src r.len with
  | (bs, _, t) =>
    let c : CompJob := ⟨r, bs, [], 0⟩
    let u := t.compSettles k c
    if c.given then u else u.dramPut 4 r.dst c.output

/-- The compression of an engine ends (R169): once its input has all come and its output has all gone out; one whose entry is gone frees its engine. Before then nothing ends (log entry 4). -/
def execCompressEnd (engine : Fin 4) (s : State) : Host.Outcome State Fault Refusal :=
  .next (match s.qdc.comp[engine] with
    | none => s
    | some c => match c.req.flight with
      | none => s.archiveEnds engine c.req
      | some id => match s.hif.xfers.find? fun x => decide (x.id = id) with
        | none => s.putComp engine none
        | some x => if x.left = 0 ∧ x.faulted = false ∧ s.piecesOf id = false ∧ c.due = [] then s.compEnds engine c id else s)

end Sys2Proof.Machine
end

