-- ==== Sys2Proof/Machine/Dram.lean ====
section
/-! DEFINITION. The DRAM controller (chapter 07): requests, what the schedulers do next, refresh, retraining, error correction, scrub and fill. A write takes effect, and a read takes its data, as DMC accepts it (R137, R138); the queues hold what is still to be issued. -/

namespace Sys2Proof.Machine

/-- The request of an access that reaches a port of DMC, its bytes cut at the end of their unit. -/
def State.dramReq (s : State) (port : Fin 10) (a : DramAccess) : DramReq :=
  s.reqAt port (portClass port a.chamber) a.write a.addr.toNat (if a.write then a.bytes.length else a.len)

/-- Data of a read that DMC returns to its requester (R140): zeros on RF and GR where the unit is uncorrectable. -/
def State.returnData (s : State) (r : DramReq) : State :=
  let bs := if r.bad ∧ r.port.val ≤ 1 then List.replicate r.len 0 else r.data
  (if r.bad then s.recordUe r.port r.unit else s).emit (.dramData r.port r.seq bs r.bad)

/-- A read is accepted (R132, R137, R140): answered at once beyond the capacity, on a faulty channel and where it takes its data from the write queue, else queued. -/
def State.acceptRead (s : State) (r0 : DramReq) : State :=
  let k := s.subOf r0.addr
  let r := { r0 with data := s.dramGet r0.addr r0.len, bad := s.unitBad r0.addr }
  if s.unserved r.addr || (s.dmc.sub[k]).forwards r then (s.accepted r).returnData r
  else (s.modSub k fun q => q.hold r).accepted r

/-- A request reaches DMC on a port (R24, R133, R134, R137, R138, R140, R144). -/
def execDramRequestArrive (port : Fin 10) (access : DramAccess) (at_ : Nat) (s : State) : Host.Outcome State Fault Refusal :=
  let s1 := s.advance at_
  let r := s1.dramReq port access
  .next (if s1.dmcServes = false ∨ portDirects port access.write = false ∨ r.len = 0 then s1
    else if access.write then s1.putWrite r (access.bytes.take r.len)
    else s1.acceptRead r)

/-- The subchannel may issue: its channel runs, and no refresh or retraining step closes it (R131, R132). -/
def State.subOpen (s : State) (k : Fin 4) : Bool :=
  s.dmcServes && s.clkRuns (if k.val < 2 then 6 else 7) && decide ((s.dmc.sub[k]).closedUntil ≤ s.now)

/-- A subchannel's scheduler issues its next request (R134). -/
def execDramSchedulePick (sub : Fin 4) (at_ : Nat) (s : State) : Host.Outcome State Fault Refusal :=
  let s1 := s.advance at_
  .next (if s1.subOpen sub then s1.pickIssue sub else s1)

/-- A request has waited longer than the age limit of its class (R135). -/
def DramReq.aged (r : DramReq) (now : Nat) : Bool := !r.promoted && decide (0 < r.limit ∧ r.at_ + 200 * r.limit < now)

/-- The queues after the requests that have waited too long have been promoted (R135); a write that a promoted read waits for moves to its tier too (R137). -/
def Subchannel.promote (q : Subchannel) (now : Nat) : Subchannel :=
  let up := fun r : DramReq => if r.aged now then { r with promoted := true } else r
  let waited := (q.reads.filter fun r => r.aged now).flatMap DramReq.waits
  { q with
    reads := q.reads.map up
    writes := q.writes.map fun w => if waited.contains w.seq then { up w with lift := 0 } else up w }

/-- Requests that have waited longer than their class's age limit move to tier 0 (R135). -/
def execDramAgePromotion (sub : Fin 4) (at_ : Nat) (s : State) : Host.Outcome State Fault Refusal :=
  let s1 := s.advance at_
  let q := s1.dmc.sub[sub]
  .next (((q.reads ++ q.writes).filter fun r => r.aged s1.now).foldl (fun (t : State) r => t.countEvent 0x02 1 r.info)
    (s1.modSub sub fun x => x.promote s1.now))

/-- Data of an issued read comes back from the DRAM (R132, R140): a corrected error is counted; an uncorrectable one stays with the unit until it is written whole, as it may have been since. -/
def State.readBack (s : State) (k : Fin 4) (r : DramReq) (ecc : EccOutcome) : State :=
  let s1 := s.modSub k fun q => { q with issued := q.issued.filter fun x => decide (x.seq ≠ r.seq) }
  if s1.unserved r.addr then s1.returnData { r with bad := true }
  else match ecc with
    | .clean => s1.returnData r
    | .corrected => { s1 with dmc := { s1.dmc with ce := true, ceCount := satInc s1.dmc.ceCount } }.returnData r
    | .uncorrectable => (if r.covered then s1 else s1.spoilUnit r.unit).returnData { r with bad := true }

/-- An issued read returns with the outcome of its SECDED check (R140). -/
def execDramReadReturn (sub : Fin 4) (seq : Nat) (ecc : EccOutcome) (s : State) : Host.Outcome State Fault Refusal :=
  .next (match (s.dmc.sub[sub]).issued.find? fun r => decide (r.seq = seq) with
    | none => s
    | some r => s.readBack sub r ecc)

/-- A refresh command closes the subchannel for its refresh time (R132). -/
def execRefreshDue (sub : Fin 4) (at_ : Nat) (refreshTime : Nat) (s : State) : Host.Outcome State Fault Refusal :=
  let s1 := s.advance at_
  .next (if s1.dmcServes && s1.dmc.chUp[channelOf sub] then
    (s1.modSub sub fun q => { q with closedUntil := max q.closedUntil (s1.now + refreshTime) }).emit (.refresh sub)
  else s1)

/-- DMC reads MR4 of a rank (R132): its multiplier applies before the next refresh. -/
def execMr4Poll (channel : Fin 2) (rank : Fin 2) (value : BitVec 3) (s : State) : Host.Outcome State Fault Refusal :=
  .next (if s.dmcServes && s.dmc.chUp[channel] then
    { s with dmc := { s.dmc with mr4 := s.dmc.mr4.set (2 * channel.val + rank.val) value } }
  else s)

/-- Start a full retrain of the channels of a list that are up (R131); one start counts once, whatever channels it takes (log entry 159). -/
def State.startRetrain (s : State) (chs : List (Fin 2)) : State :=
  let go := chs.filter fun c => s.dmc.chUp[c] && !s.dmc.chFault[c] && !s.dmc.retrain[c]
  if go.isEmpty then s
  else { s with dmc := { s.dmc with
    retrain := go.foldl (fun (v : Vector Bool 2) (c : Fin 2) => v.set c true) s.dmc.retrain
    retrainAt := go.foldl (fun (v : Vector Nat 2) (c : Fin 2) => v.set c 0) s.dmc.retrainAt
    retrainCount := satInc s.dmc.retrainCount } }

/-- DMC_RETRAIN.NOW is written with 1 (R131, R147): ignored while a retrain runs, and with ENABLE at 0, where only the DQS tracking runs (log entry 160). -/
def State.retrainNow (s : State) : State :=
  if s.dmc.retrain.toList.any id || !s.dmcServes || !s.regBit 0x80018 0 then s else s.startRetrain [0, 1]

/-- A host write of 1 to DMC_RETRAIN.NOW (R131). -/
def execDmcRetrainNow (s : State) : Host.Outcome State Fault Refusal :=
  .next (s.onWrite 0x80018 (s.reg 0x80018 ||| 0x100) State.retrainNow)

/-- The THM sensors at the PHYs have moved from their readings at the last training (R131, R393). -/
def State.driftRetrain (s : State) : State :=
  let drift : Int := 16 * max 5 (s.regField 0x80018 1 6)
  let far := fun c : Fin 2 =>
    let x := s.thm.sensor[(⟨4 + c.val, by omega⟩ : Fin 12)]
    x.valid && !x.fault && decide (drift ≤ (x.temp - s.dmc.trainTemp[c]).natAbs)
  if s.regBit 0x80018 0 && s.dmcServes then s.startRetrain ((List.finRange 2).filter far) else s

/-- The subchannel whose ranks the running retrain of a channel is at (R131): one rank and subchannel at a time. -/
def State.retrainSub (s : State) (c : Fin 2) : Fin 4 := Fin.ofNat 4 (2 * c.val + s.dmc.retrainAt[c] / s.ranks)

/-- A rank of a subchannel has been retrained (R131): the channel's retrain goes on with the next, and ends with the last. -/
def State.rankDone (s : State) (c : Fin 2) : State :=
  let n := s.dmc.retrainAt[c] + 1
  if n < 2 * s.ranks then { s with dmc := { s.dmc with retrainAt := s.dmc.retrainAt.set c n } }
  else
    let x := s.thm.sensor[(⟨4 + c.val, by omega⟩ : Fin 12)]
    { s with dmc := { s.dmc with retrain := s.dmc.retrain.set c false, trainTemp := s.dmc.trainTemp.set c x.temp } }

/-- A retraining step closes a subchannel for 500 ns, at most once per 50 µs (R131); `last` with the last step of a rank. -/
def State.retrainStep (s : State) (k : Fin 4) (last : Bool) : State :=
  let c := channelOf k
  let early := match (s.dmc.sub[k]).lastStep with | some t => decide (s.now < t + 100000) | none => false
  if !s.dmc.retrain[c] || early || decide (k ≠ s.retrainSub c) then s
  else
    let s1 := s.modSub k fun q => { q with closedUntil := max q.closedUntil (s.now + 1000), lastStep := some s.now }
    if last then s1.rankDone c else s1

/-- A step of a full retrain (R131). -/
def execRetrainStep (sub : Fin 4) (at_ : Nat) (last : Bool) (s : State) : Host.Outcome State Fault Refusal :=
  let s1 := s.advance at_
  .next (if s1.dmcServes then s1.retrainStep sub last else s1)

/-- ALERT_N after three replays: the channel is faulty (R132). -/
def execCaParityAlert (channel : Fin 2) (s : State) : Host.Outcome State Fault Refusal :=
  .next (if s.dmcServes && s.dmc.chUp[channel] then { s with dmc := { s.dmc with chFault := s.dmc.chFault.set channel true } } else s)

/-- The first unit of a channel in a scrubbed region, from an address on (R129, R141, R147). -/
def State.scrubIn (s : State) (c : Fin 2) (from_ n : Nat) : Option Nat :=
  if s.regBit (0x80108 + 0x10 * n) 0 then
    let a := max from_ (s.rgnBase n)
    (List.range 4).findSome? fun k =>
      let u := a + 64 * k
      if channelOf (s.subOf u) = c ∧ u < s.rgnBase n + s.rgnSize n then some u else none
  else none

/-- The next unit the scrubber reads on a channel, in ascending order (R141). -/
def State.nextScrub (s : State) (c : Fin 2) : Option Nat :=
  ((List.range 16).filterMap (s.scrubIn c s.dmc.scrubAt[c])).foldl (fun m u => match m with | none => some u | some x => some (min x u)) none

/-- A pass ends once neither channel has a unit left (R141). -/
def State.scrubPassEnds (s : State) : State :=
  if (s.nextScrub 0).isNone ∧ (s.nextScrub 1).isNone ∧ s.dmc.scrubAt ≠ Vector.replicate 2 0 then
    { s with dmc := { s.dmc with scrubAt := Vector.replicate 2 0, scrubPass := s.dmc.scrubPass + 1 } }
  else s

/-- The scrubber reads one unit (R140, R141): an uncorrectable unit is left and counted, a corrected one written back. -/
def State.scrubUnit (s : State) (c : Fin 2) (u : Nat) (ecc : EccOutcome) : State :=
  let s1 := { s with dmc := { s.dmc with scrubAt := s.dmc.scrubAt.set c (u + 64) } }
  let t := s1.dramReadUnit 9 u 64
  let s2 := if s1.unitBad u then t
    else match ecc with
      | .clean => t
      | .corrected => { t with dmc := { t.dmc with ce := true, ceCount := satInc t.dmc.ceCount } }.dramPutUnit 9 u (t.dramGet u 64)
      | .uncorrectable => (t.spoilUnit u).recordUe 9 u
  s2.scrubPassEnds

/-- INTERVAL × 100 ns have passed on a channel (R141). The scrubber goes on from where it stopped, also after ENABLE has been 0 (log entry 161); where a change of regions leaves it nothing above that point, the pass ends and it starts again. -/
def execScrubUnitRead (channel : Fin 2) (ecc : EccOutcome) (s : State) : Host.Outcome State Fault Refusal :=
  .next (if s.dmcServes && s.regBit 0x80020 0 && !s.dmc.scrubHeld then
    let t := s.scrubPassEnds
    match t.nextScrub channel with
    | some u => t.scrubUnit channel u ecc
    | none => t
  else s)

/-- DMC_FILL_CTRL is written with START (R143, R147): ignored while BUSY, and a SIZE of 0 fills nothing. -/
def State.startFill (s : State) : State :=
  let n := s.regField 0x80044 0 20 * 65536
  if s.dmc.fill.isSome ∨ n = 0 ∨ s.dmcServes = false then s
  else { s with dmc := { s.dmc with fill := some (s.regField 0x80040 0 20 * 65536, n) } }

/-- A host write of 1 to DMC_FILL_CTRL.START (R143). -/
def execFillStart (s : State) : Host.Outcome State Fault Refusal := .next (s.onWrite 0x80048 1 State.startFill)

/-- The fill's next zero write goes to its subchannel (R143). -/
def State.fillUnit (s : State) (k : Fin 4) : State :=
  match s.dmc.fill with
  | some (a, left + 1) =>
    if s.subOf a = k then
      ({ s with dmc := { s.dmc with fill := some (a + 64, left + 1 - 64) } }.putWrite
        { s.reqAt 9 3 true a 64 with fill := true } (List.replicate 64 0)).fillEnds
    else s
  | _ => s

/-- 8 ns after the fill's last write to a subchannel (R143). -/
def execFillUnitIssue (sub : Fin 4) (s : State) : Host.Outcome State Fault Refusal :=
  .next (if s.dmcServes then s.fillUnit sub else s)

end Sys2Proof.Machine
end

