-- ==== Sys2Proof/Machine/Encoders.lean ====
section
/-! DEFINITION. The encoder channels and the position of the main one (chapter 11). -/

namespace Sys2Proof.Machine

/-- BAR0 offset of a register of encoder channel k (R241). -/
def posReg (k : Fin 8) (o : Nat) : Nat := 0x140400 + 0x40 * k.val + o

/-- The state with one encoder channel changed. -/
def State.modChannel (s : State) (k : Fin 8) (f : Channel → Channel) : State :=
  { s with pos := { s.pos with ch := modAt s.pos.ch k f } }

/-- Quadrant of an (A, B) pair in the forward order 00, 10, 11, 01 (R222); A is bit 1. -/
def quadrant (p : BitVec 2) : Nat :=
  match p.toNat with
  | 0 => 0
  | 2 => 1
  | 3 => 2
  | _ => 3

/-- Step between two pairs (R222): none for an illegal transition. -/
def pairStep (old new : BitVec 2) : Option Int :=
  match (quadrant new + 4 - quadrant old) % 4 with
  | 0 => some 0
  | 1 => some 1
  | 3 => some (-1)
  | _ => none

/-- The edges of a run after one more, as far back as the widest window needs, and at least the one before it (R231). -/
def keepEdges (t : Nat) : List Nat → List Nat
  | [] => [t]
  | p :: rest => t :: p :: rest.filter fun x => decide (t ≤ x + 2 ^ 20)

/-- A counted edge of a channel (R222, R224, R226, R232): a change of direction clears the speed and the index reference; standstill is timed from it, by STILL_MS as it stands (R241). -/
def Channel.edge (c : Channel) (d : Int) (t still : Nat) : Channel :=
  let turned := decide (c.step ≠ 0 ∧ c.step ≠ d)
  { c with
    count := unsigned 48 ((c.count : Int) + d), step := d, lastEdge := some t, edgeRev := decide (d < 0), still := false, quiet := (t, still)
    edges := if turned then [t] else keepEdges t c.edges
    ref := if turned then none else c.ref
    valid := c.valid && !turned
    speed := if turned then (0, 1) else c.speed }

/-- The stretch windows of every channel are discarded (R238). -/
def State.dropWindows (s : State) : State :=
  { s with pos := { s.pos with ch := s.pos.ch.map fun (c : Channel) => { c with window := none } } }

/-- The direction state takes the main count (R234); a reversal discards the stretch windows (R238). -/
def State.moveDirection (s : State) : State :=
  let c := (s.pos.ch[s.mainChannel]).count
  let d := diff48 c s.pos.extreme
  if s.pos.rev then
    if d < 0 then { s with pos := { s.pos with extreme := c } }
    else if 2 ≤ d then { s with pos := { s.pos with extreme := c, rev := false } }.dropWindows
    else s
  else if 0 < d then { s with pos := { s.pos with extreme := c } }
  else if d ≤ -2 then { s with pos := { s.pos with extreme := c, rev := true, revCount := s.pos.revCount + 1 } }.dropWindows
  else s

/-- LOG2STR, 12 to 24 (R241). -/
def State.log2str (s : State) : Nat := min 24 (max 12 (s.regField 0x140000 24 5))

/-- Stretch windows open at a forward edge of the main channel (R238). -/
def State.openWindows (s : State) : State :=
  let m := (s.pos.ch[s.mainChannel]).count
  (List.finRange 8).foldl (fun (t : State) k =>
    if k ≠ t.mainChannel ∧ t.regBit (posReg k 0) 0 ∧ (t.pos.ch[k]).window = none then
      t.modChannel k fun c => { c with window := some (m, c.count, t.log2str) }
    else t) s

/-- The position follows the main channel's newest edge (R233, R246), where it comes from this device's own encoder. -/
def State.followMain (s : State) : State :=
  if s.usesTide then s else { s with fir := { s.fir with edge := some s.fireTick } }.followPosition

/-- OVERSPEED ends with the direction state's leaving FWD (R253). -/
def State.leftForward (s old : State) : State := if !s.usesTide && s.pos.rev && !old.pos.rev then s.overEnds else s

/-- What an edge of the main channel means for the CTRL part of POS (R233, R234, R238). -/
def State.mainEdge (s : State) (d : Int) : State :=
  if !s.blkUp .pos then s
  else
    let s1 := s.moveDirection
    let s2 := if 0 < d then s1.openWindows else s1
    (s2.followMain.leftForward s).settle s

/-- STILL_MS (R241). -/
def State.stillMs (s : State) : Nat := max 1 (s.regField 0x140000 8 8)

/-- An input has shown a level on enough consecutive samples for the filter: FILT + 1 (R221). -/
def State.filterPasses (s : State) (k : Fin 8) (shown : Nat) : Bool := decide (s.regField (posReg k 0) 8 6 < shown)

/-- The filtered pair after A and B have shown their levels on some consecutive samples each (R221); none before both have passed the filter once. -/
def State.filterPair (s : State) (k : Fin 8) (pins : EncoderPins) : Option (BitVec 2) :=
  let levels := pins.levels
  let a := s.filterPasses k pins.shownA
  let b := s.filterPasses k pins.shownB
  match (s.pos.ch[k]).pair with
  | some old => some (BitVec.ofNat 2 ((if a then levels.getLsbD 1 else old.getLsbD 1).toNat * 2 + (if b then levels.getLsbD 0 else old.getLsbD 0).toNat))
  | none => if a && b then some levels else none

/-- One sample of an enabled channel with a filtered pair (R222). -/
def State.encoderStep (s : State) (k : Fin 8) (pair : BitVec 2) : State :=
  let c := s.pos.ch[k]
  match c.pair with
  | none => s.modChannel k fun x => { x with pair := some pair }
  | some old =>
    let s1 := s.modChannel k fun x => { x with pair := some pair }
    match pairStep old pair with
    | none => s1.modChannel k fun x => { x with illegal := true, illCount := satInc x.illCount }
    | some n =>
      let d := if s.regBit (posReg k 0) 1 then -n else n
      if d = 0 then s1
      else
        let s2 := s1.modChannel k fun x => x.edge d s.fireClk s.stillMs
        if k = s.mainChannel then s2.mainEdge d else s2

/-- The front end runs: AON and FIRE_CLK, and the channel enabled (R224). -/
def State.channelRuns (s : State) (k : Fin 8) : Bool := decide (s.rst.aon = .up) && s.clkRuns 0 && s.regBit (posReg k 0) 0

/-- The synchronised (A, B) inputs of a channel, A in bit 1, have each shown a level on some consecutive FIRE_CLK samples (R221, R222). -/
def execEncoderStep (k : Fin 8) (pins : EncoderPins) (at_ : Nat) (s : State) : Host.Outcome State Fault Refusal :=
  .next (let t := s.advance at_
    if t.channelRuns k then
      match t.filterPair k pins with
      | some pair => t.encoderStep k pair
      | none => t
    else t)

/-- Encoder lines per revolution, in counts (R226). -/
def State.revCounts (s : State) (k : Fin 8) : Int := 4 * s.regField (posReg k 4) 0 24

/-- POS_CHk_CFG.TOL. -/
def State.tol (s : State) (k : Fin 8) : Int := s.regField (posReg k 0) 16 8

/-- FAULT is set on a channel with its ENCODER_FAULT record (R227); on the main channel with FAULT_HOLD it is a stop cause (R230). -/
def State.encoderFault (s : State) (k : Fin 8) (dev : Int) : State :=
  let s1 := (s.modChannel k fun c => { c with fault := true, run := 0 }).log 0x0040 2 k.val (leBytes 4 (unsigned 32 dev))
  if k = s.mainChannel ∧ s.regBit 0x140000 3 then (s1.assertCause (List.finRange 8) 3).settle s else s1

/-- A deviation is treated (R227). -/
def State.takeDev (s : State) (k : Fin 8) (dev : Int) : State :=
  let s1 := if dev = 0 then s else s.modChannel k fun c => { c with mismatch := true, dev := dev }
  if dev.natAbs ≤ (s.tol k).toNat then s1.modChannel k fun c => { c with run := 0 }
  else if 1 ≤ (s.pos.ch[k]).run then s1.encoderFault k dev
  else s1.modChannel k fun c => { c with run := 1 }

/-- A count correction (R229): the main channel's extreme count moves with it (R234). -/
def State.correctCount (s : State) (k : Fin 8) (by_ : Int) : State :=
  let s1 := s.modChannel k fun c => { c with count := unsigned 48 ((c.count : Int) + by_) }
  if k = s.mainChannel ∧ s.blkUp .pos then
    let s2 := { s1 with pos := { s1.pos with extreme := unsigned 48 ((s1.pos.extreme : Int) + by_) } }
    if s2.usesTide then s2 else s2.followPosition.settle s
  else s1

/-- An index event against a reference (R226, R227, R229). -/
def State.indexAt (s : State) (k : Fin 8) (ref : Nat) (dir : Int) : State :=
  let c := (s.pos.ch[k]).count
  let dev := dir * diff48 c ref - s.revCounts k
  let fix := s.regBit (posReg k 0) 4 && decide (dev ≠ 0) && decide (dev.natAbs ≤ (s.tol k).toNat)
  let s1 := if fix then s.correctCount k (-(dir * dev)) else s
  (s1.modChannel k fun x => { x with ref := some (x.count, dir) }).takeDev k dev

/-- An index event is taken: the reference, or a deviation (R226). -/
def State.indexEvent (s : State) (k : Fin 8) : State :=
  let c := s.pos.ch[k]
  match c.ref with
  | none => s.modChannel k fun x => { x with ref := some (x.count, x.step), run := 0 }
  | some (r, d) => s.indexAt k r d

/-- The synchronised Z input of a channel has risen or fallen and shown its level on some consecutive samples (R221, R225): an index event where the filter passes it and the edge fits the direction of the last step. -/
def execIndexEvent (k : Fin 8) (pin : IndexPin) (at_ : Nat) (s : State) : Host.Outcome State Fault Refusal :=
  .next (let t := s.advance at_
    let up := pin.rising != t.regBit (posReg k 0) 3
    let fits := (up && decide ((t.pos.ch[k]).step = 1)) || (!up && decide ((t.pos.ch[k]).step = -1))
    if t.channelRuns k && t.regBit (posReg k 0) 2 && decide (t.revCounts k ≠ 0) && t.filterPasses k pin.shown && fits then t.indexEvent k else t)

/-- The count passes a revolution from the reference by more than the tolerance without an index event (R228). -/
def execMissingIndex (k : Fin 8) (s : State) : Host.Outcome State Fault Refusal :=
  .next (match (s.pos.ch[k]).ref with
    | none => s
    | some (r, d) =>
      let past := decide (s.revCounts k + s.tol k + 1 ≤ d * diff48 (s.pos.ch[k]).count r)
      if s.channelRuns k && s.regBit (posReg k 0) 2 && decide (s.revCounts k ≠ 0) && past then
        (s.modChannel k fun c => { c with missing := true, ref := some (unsigned 48 ((r : Int) + d * s.revCounts k), d) }).takeDev k (s.tol k + 1)
      else s)

/-- Speed window W in FIRE_CLK cycles (R231). -/
def State.speedWindow (s : State) : Nat := 2 ^ min 20 (max 8 (s.regField 0x140000 16 5))

/-- Speed of a run at a cycle (R231), as a fraction of counts per second; none with fewer than two edges. -/
def runSpeed (edges : List Nat) (dir : Int) (w now : Nat) : Option (Int × Nat) :=
  match edges with
  | last :: prev :: _ =>
    let win := edges.filter fun t => decide (last ≤ t + w)
    let n := if 2 ≤ win.length then win.length - 1 else 1
    let first := if 2 ≤ win.length then win.getLastD last else prev
    let span := last - first
    if span < (now - last) * n then some (dir * 400000000, now - last) else some (dir * 400000000 * n, max 1 span)
  | _ => none

/-- The speed of one enabled channel is updated (R231, R232). -/
def State.updateSpeed (s : State) (k : Fin 8) : State :=
  if s.regBit (posReg k 0) 0 then
    match runSpeed (s.pos.ch[k]).edges (s.pos.ch[k]).step s.speedWindow s.fireClk with
    | some v => s.modChannel k fun c => { c with valid := true, speed := v }
    | none => s
  else s

/-- Every 1 µs each enabled channel updates its speed (R231), and a tide source sends its word (R361). -/
def execSpeedUpdate (at_ : Nat) (s : State) : Host.Outcome State Fault Refusal :=
  .next (let t := s.advance at_
    if t.blkUp .pos && t.clkRuns 0 then (((List.finRange 8).foldl State.updateSpeed t).sendTide).settle t else t)

/-- Standstill of a channel is declared (R226, R232, R238). -/
def State.standStill (s : State) (k : Fin 8) : State :=
  let s1 := s.modChannel k fun c => { c with still := true, valid := false, speed := (0, 1), edges := [], ref := none, window := none }
  if k = s.mainChannel then (if s1.usesTide then s1.dropWindows else (s1.dropWindows.overEnds).settle s) else s1

/-- No edge of a channel has come for its STILL_MS. -/
def Channel.quietLong (c : Channel) (now : Nat) : Bool := decide (c.quiet.1 + 400000 * c.quiet.2 ≤ now)

/-- STILL_MS may have run out on a channel (R232). -/
def execStandstill (instant : ChannelInstant) (s : State) : Host.Outcome State Fault Refusal :=
  .next (let t := s.advance instant.at_
    let k := instant.channel
    if t.channelRuns k && t.blkUp .pos && (t.pos.ch[k]).quietLong t.fireClk then t.standStill k else t)

/-- Ratio of a roller in 2^-32 lines per count (R238). -/
def State.rollerRatio (s : State) (k : Fin 8) : Nat := (s.reg (posReg k 0x20)).toNat + s.regField (posReg k 0x24) 0 5 * 2 ^ 32

/-- Stretch in 0.01 ppm from the count changes of a window, rounded to nearest (R238). -/
def stretchOf (da ra dm rm : Int) : Int :=
  let den := dm * rm
  clampInt (-2147483647) 2147483647 ((200000000 * (da * ra - den) + den) / (2 * den))

/-- The stretch window of a channel closes once the main position has advanced far enough (R238). -/
def State.closeStretch (s : State) (k : Fin 8) : State :=
  match (s.pos.ch[k]).window with
  | none => s
  | some (m, a, l) =>
    let dm := diff48 (s.pos.ch[s.mainChannel]).count m
    if ((2 ^ (l + 32) : Nat) : Int) ≤ dm * s.ratio then
      s.modChannel k fun c => { c with window := none, strValid := true, stretch := stretchOf (diff48 c.count a) (s.rollerRatio k) dm s.ratio }
    else s

/-- The main position has advanced 2^LOG2STR lines (R238): every window that is complete closes. -/
def execStretchWindowClose (s : State) : Host.Outcome State Fault Refusal :=
  .next (if s.blkUp .pos && s.clkRuns 0 then (List.finRange 8).foldl State.closeStretch s else s)

/-- A host write of POS_CHk_ISTAT (R230, R241): a cleared FAULT of the main channel removes its stop cause. -/
def State.writeIstat (s : State) (k : Fin 8) (v : Word) : State :=
  let s1 := s.modChannel k fun c => { c with
    mismatch := c.mismatch && !v.getLsbD 0, fault := c.fault && !v.getLsbD 1
    missing := c.missing && !v.getLsbD 2, illegal := c.illegal && !v.getLsbD 3 }
  if k = s.mainChannel ∧ v.getLsbD 1 then (s1.clearCause (List.finRange 8) 3).settle s else s1

/-- A W1C of POS_CHk_ISTAT.FAULT (R230). -/
def execPosFaultClear (k : Fin 8) (s : State) : Host.Outcome State Fault Refusal :=
  .next (s.onWrite (posReg k 0x14) 2 fun t => t.writeIstat k 2)

/-- Fire tick of a FIRE_CLK cycle that has passed. -/
def State.tickOfCycle (s : State) (c : Nat) : Nat := unsigned 48 ((s.fireTick : Int) - (s.fireClk - c : Nat))

/-- A host write of POS_CFG (R234, R241): a change of MAIN starts the direction state afresh at the new main count, and the new main channel's STRETCH is 0. -/
def State.writePosCfg (s : State) (v : Word) : State :=
  let s1 := s.hostWrite 0x140000 v
  if s1.mainChannel = s.mainChannel then s1
  else
    let c := s1.pos.ch[s1.mainChannel]
    let s2 := ({ s1 with pos := { s1.pos with extreme := c.count, rev := false } }.dropWindows).modChannel s1.mainChannel fun x => { x with stretch := 0 }
    if s2.usesTide then s2
    else ({ s2 with fir := { s2.fir with edge := c.lastEdge.map s2.tickOfCycle } }.followPosition).settle s

/-- A write of POS_CFG with its MAIN (R234). -/
def execPosMainWrite (value : Word) (s : State) : Host.Outcome State Fault Refusal :=
  .next (s.onWrite 0x140000 value fun t => t.writePosCfg value)

/-- A host write of POS_CHk_CFG (R224, R226): a channel that is enabled decodes from its first sampled pair; Z_EN = 1 starts a new reference. -/
def State.writeChCfg (s : State) (k : Fin 8) (v : Word) : State :=
  let on := v.getLsbD 0 && !s.regBit (posReg k 0) 0
  (s.hostWrite (posReg k 0) v).modChannel k fun c => { c with
    pair := if on then none else c.pair, ref := if v.getLsbD 2 then none else c.ref }

/-- A write of POS_CHk_CFG with its ENABLE (R224). -/
def execPosChannelEnable (k : Fin 8) (value : Word) (s : State) : Host.Outcome State Fault Refusal :=
  .next (s.onWrite (posReg k 0) value fun t => t.writeChCfg k value)

/-- A write of POS_CHk_CFG with its Z_EN (R226). -/
def execPosZEnWrite (k : Fin 8) (value : Word) (s : State) : Host.Outcome State Fault Refusal :=
  .next (s.onWrite (posReg k 0) value fun t => t.writeChCfg k value)

/-- A host write of POS_CHk_LPR (R226). -/
def State.writeLpr (s : State) (k : Fin 8) (v : Word) : State :=
  (s.hostWrite (posReg k 4) v).modChannel k fun c => { c with ref := none }

/-- A write of POS_CHk_LPR (R226). -/
def execPosLprWrite (k : Fin 8) (value : Word) (s : State) : Host.Outcome State Fault Refusal :=
  .next (s.onWrite (posReg k 4) value fun t => t.writeLpr k value)

end Sys2Proof.Machine
end

