-- ==== Sys2Proof/Machine/LinkCommands.lean ====
section
/-! DEFINITION. The commands of the Preaz Link (chapter 13): frames and blocks of the head driver board, its timers, LINK_CTRL, and the enable bit. -/

namespace Sys2Proof.Machine

/-- A CAP frame of a board arrives, its 16 data bytes, clean where no character had a code or disparity error (R267 to R269). -/
def execCapFrameRx (link : Fin 32) (frame : LinkFrame) (s : State) : Host.Outcome State Fault Refusal :=
  .next (match frameContent frame.bytes frame.clean with
    | some w => s.capIn link w
    | none => s)

/-- An ACK frame of a board arrives (R267, R269). -/
def execAckFrameRx (link : Fin 32) (frame : LinkFrame) (s : State) : Host.Outcome State Fault Refusal :=
  .next (match frameContent frame.bytes frame.clean with
    | some w => s.ackIn link w
    | none => s)

/-- No accepted CAP within 10 ms, or no ACK within 1 ms (R287). -/
def execT0Timeout (link : Fin 32) (s : State) : Host.Outcome State Fault Refusal :=
  .next (if (s.plk.link[link]).st = .t0 ∨ (s.plk.link[link]).st = .rate then s.linkFault link 1 else s)

/-- The receiver of a link declares block lock on the sync headers that have come (R270, R287). -/
def execBlockLockAcquire (taken : LinkHeaders) (s : State) : Host.Outcome State Fault Refusal :=
  .next (if headersLock taken.headers then s.lockIn taken.link else s)

/-- A state in which a link runs 64b/66b blocks with block lock. -/
def LinkPhase.locked : LinkPhase → Bool
  | .prbs | .echo | .sync | .auth | .load | .run | .test => true
  | .disabled | .t0 | .rate | .lock | .fault => false

/-- The receiver of a link loses block lock on the sync headers that have come (R270, R288). -/
def execBlockLockLoss (taken : LinkHeaders) (s : State) : Host.Outcome State Fault Refusal :=
  .next (let link := taken.link
    if (s.plk.link[link]).st.locked && headersLose taken.headers then (s.modLink link fun l => { l with lock := false }).linkFault link 3 else s)

/-- No block lock within 1 ms (R287). -/
def execLockTimeout (link : Fin 32) (s : State) : Host.Outcome State Fault Refusal := .next (s.lockFail link)

/-- The role shows ACTIVE in IDLE (R276). -/
def State.idleActive (s : State) : Bool := decide (s.twn.role = .single ∨ s.twn.role = .active)

/-- Send an IDLE with the epoch and ACTIVE (R276). -/
def State.sendIdle (s : State) (n : Fin 32) : State :=
  s.sendBlock n 0x1E (s.twn.epoch.toNat + if s.idleActive then 65536 else 0)

/-- PRBS_MS has elapsed in state PRBS (R284, R287): the device ends its phase with IDLE and waits for the board's STATUS; `errors` is what its receiver has counted beyond PRBS.DEV. -/
def execPrbsPhaseEnd (link : Fin 32) (errors : Nat) (s : State) : Host.Outcome State Fault Refusal :=
  .next (if (s.plk.link[link]).st = .prbs ∧ (s.plk.link[link]).prbsOver = false then
    (s.modLink link fun l => { l.countPrbs errors with prbsOver := true }).sendIdle link
  else s)

/-- A state in which the device sends ECHOs (R281, R426). -/
def LinkPhase.echoes : LinkPhase → Bool
  | .echo | .sync | .run => true
  | .disabled | .t0 | .rate | .lock | .prbs | .auth | .load | .test | .fault => false

/-- A state in which the device sends SYNCs (R271). -/
def LinkPhase.syncs : LinkPhase → Bool
  | .sync | .auth | .load | .run => true
  | .disabled | .t0 | .rate | .lock | .prbs | .echo | .test | .fault => false

/-- In bring-up the next ECHO leaves once the one before it has its reply, or 20 µs after it left (R426); in RUN the period of R281 decides. -/
def Link.echoDue (l : Link) (departure : BitVec 52) : Bool :=
  l.st.echoes && (decide (l.st = .run) || l.echoes.all fun e => decide (128000 ≤ (departure - BitVec.ofNat 52 e.2).toNat))

/-- An ECHO leaves at a departure time in 1/16 tick (R278, R426). -/
def execEchoSend (link : Fin 32) (departure : BitVec 52) (s : State) : Host.Outcome State Fault Refusal :=
  .next (if (s.plk.link[link]).echoDue departure then s.sendEcho link departure.toNat else s)

/-- The board's ECHO reply arrives (R278, R279, R281, R287). -/
def execEchoReplyRx (link : Fin 32) (id : BitVec 8) (turn r1 : BitVec 24) (arrival : BitVec 52) (s : State) : Host.Outcome State Fault Refusal :=
  .next (s.echoIn link id turn r1 arrival)

/-- 20 µs have passed since an ECHO left: a reply to it would be discarded (R278, R281). -/
def execEchoReplyTimeout (link : Fin 32) (id : BitVec 8) (s : State) : Host.Outcome State Fault Refusal :=
  .next (s.modLink link fun l => { l with echoes := l.echoes.filter fun e => decide (e.1 ≠ id) })

/-- 1 ms has passed in ECHO without 64 replies, or in SYNC without alignment (R287). -/
def execEchoPhaseTimeout (link : Fin 32) (s : State) : Host.Outcome State Fault Refusal :=
  .next (match (s.plk.link[link]).st with
    | .echo => s.linkFault link 5
    | .sync => s.linkFault link 7
    | _ => s)

/-- A SYNC leaves at a departure time in 1/16 tick (R277). -/
def execSyncSend (link : Fin 32) (departure : BitVec 52) (s : State) : Host.Outcome State Fault Refusal :=
  .next (if (s.plk.link[link]).st.syncs then s.sendSync link departure.toNat else s)

/-- An epoch is newer than another: 1 to 32,767 ahead modulo 2^16 (R290). -/
def epochNewer (a b : BitVec 16) : Bool := decide (1 ≤ (a - b).toNat ∧ (a - b).toNat ≤ 32767)

/-- A STATUS arrives (R283, R287, R288); an active device that sees a board report a newer epoch has failed (R374). -/
def State.takeStatus (s : State) (n : Fin 32) (status : BitVec 56) : State :=
  let s1 := s.statusIn n status
  if s1.twn.role = .active ∧ epochNewer (status.extractLsb' 24 16) s1.twn.epoch then s1.twinFails 4 else s1

/-- A control block of the board arrives, its payload (R271): a STATUS is taken, a type that R271 does not list is counted and ignored. IDLE changes nothing; ECHO and AUTH have commands of their own. -/
def execStatusRx (link : Fin 32) (block : BitVec 64) (s : State) : Host.Outcome State Fault Refusal :=
  .next (if (s.plk.link[link]).st.locked then
    if block.extractLsb' 0 8 = 0x99 then s.takeStatus link (block.extractLsb' 8 56)
    else if blockTypes.contains (block.extractLsb' 0 8) then s
    else s.modLink link fun l => { l with unknown := l.unknown + 1 }
  else s)

/-- No STATUS for 1 ms: after a PRBS phase, or in RUN (R287, R288). -/
def execStatusTimeout (link : Fin 32) (s : State) : Host.Outcome State Fault Refusal :=
  .next (match (s.plk.link[link]).st with
    | .prbs => if (s.plk.link[link]).prbsOver then s.linkFault link 4 else s
    | .run => s.linkFault link 8
    | _ => s)

/-- An AUTH block of the board arrives (R285). -/
def execAuthResponseRx (link : Fin 32) (kind index : BitVec 4) (bytes : BitVec 48) (s : State) : Host.Outcome State Fault Refusal :=
  .next (s.authIn link kind index bytes)

/-- The exchange has not completed within 50 ms (R286, R288). -/
def execAuthTimeout (link : Fin 32) (s : State) : Host.Outcome State Fault Refusal :=
  .next (if (s.plk.link[link]).auth.isSome then
    (s.modLink link fun l => { l with authResult := 4, auth := none }).linkFault link 11
  else s)

/-- PLK sends the CFG blocks of the link's oldest upload (R282). -/
def execCfgBankUpload (link : Fin 32) (s : State) : Host.Outcome State Fault Refusal := .next (s.startUpload link)

/-- 10 ms have passed since the running upload started, and its bank is not VALID (R282, R287, R288). -/
def execCfgConfirmTimeout (link : Fin 32) (s : State) : Host.Outcome State Fault Refusal :=
  .next (match (s.plk.link[link]).uploads with
    | [] => s
    | u :: _ => if u.bank.isSome && !u.valid then s.linkFault link 10 else s)

/-- The backoff of a link in FAULT has elapsed with AUTO set (R287): the 100 µs link reset comes first. -/
def execLinkBackoffExpiry (link : Fin 32) (s : State) : Host.Outcome State Fault Refusal :=
  .next (if (s.plk.link[link]).st = .fault ∧ (s.plk.link[link]).refused = false ∧ s.regBit (linkReg link 0) 3 ∧ s.regBit (linkReg link 0) 0 then
    s.superviseReset link
  else s)

/-- The 100 µs link reset ends (R55, R287): unless a hold keeps it, the link restarts at T0. -/
def execLinkResetExpiry (link : Fin 32) (s : State) : Host.Outcome State Fault Refusal :=
  .next (if s.rst.linkAuto.getLsbD link then
    let s1 := { s with rst := { s.rst with linkAuto := s.rst.linkAuto &&& ~~~(BitVec.twoPow 32 link.val) } }
    if s1.linkCovered link || decide (s1.rst.data ≠ .up) then s1
    else { s1 with rst := { s1.rst with link := s1.rst.link.set link .up } }.bringUp link
  else s)

/-- PLK_LNn_AUTH takes a value: a POLICY below the OTP minimum acts as the minimum (R286). -/
def State.writePlkAuth (s : State) (n : Fin 32) (v : Word) : State :=
  s.hostWrite (linkReg n 0x40) (if (v.extractLsb' 0 2).toNat < s.rst.otp.authMin.toNat then
    (v &&& ~~~3) ||| BitVec.ofNat 32 s.rst.otp.authMin.toNat else v)

/-- A host write of PLK_LNn_CFG (R287, R293): ENABLE from 0 to 1 starts bring-up, ENABLE 0 takes the link to DISABLED at once. -/
def State.writePlkCfg (s : State) (n : Fin 32) (v : Word) : State :=
  let s1 := s.hostWrite (linkReg n 0) v
  if v.getLsbD 0 then s1.bringUp n else s1.disableLink n

/-- A write of PLK_LNn_CFG with its ENABLE (R287, R291). -/
def execPlkEnableWrite (link : Fin 32) (value : Word) (s : State) : Host.Outcome State Fault Refusal :=
  .next (s.onWrite (linkReg link 0) value fun t => t.writePlkCfg link value)

/-- The bank of a link is disabled (R64). -/
def State.bankOff (s : State) (n : Fin 32) : Bool := if n.val < 16 then s.rst.serWOff else s.rst.serEOff

/-- A hold of RST_LINK or RST_BLOCK keeps a link in reset (R427). -/
def State.linkHeld (s : State) (n : Fin 32) : Bool := s.rst.linkHold.getLsbD n || s.rst.blockHold.getLsbD 6 || s.rst.dataHold

/-- Why R427 refuses a LINK_CTRL other than disable before its own conditions. -/
def State.linkRefusal (s : State) (n : Fin 32) : Option Nat :=
  if s.linkHeld n then some 0x10 else if s.bankOff n then some 0x12 else none

/-- The next entry of a ring is LINK_CTRL with an action. -/
def isLinkCtrl (action : Nat) (e : Entry) : Bool := decide (e.op = 0x71 ∧ e.num 0 = action)

/-- LINK_CTRL (R427): refused with a reason, or carried out and completed OK. -/
def State.linkCtrl (s : State) (ring : Fin 16) (action : Nat) (refuse : Link → Option Nat) (act : Fin 32 → State → State) : State :=
  s.withEntry ring (isLinkCtrl action) fun f t =>
    let n : Fin 32 := Fin.ofNat 32 f.e.sub.toNat
    match t.linkRefusal n with
    | some r => t.complete f.id stFwRefused r
    | none =>
      if !t.blkUp .plk then t.complete f.id stBlockReset 0
      else match refuse (t.plk.link[n]) with
        | some r => t.complete f.id stFwRefused r
        | none => (act n t).complete f.id stOk 0

/-- Reason 0x11 outside some states (R427). -/
def onlyIn (ok : LinkPhase → Bool) (l : Link) : Option Nat := if ok l.st then none else some 0x11

/-- LINK_CTRL train (R427): from DISABLED at once, from FAULT after the 100 µs link reset. -/
def execLinkCtrlTrain (ring : Fin 16) (s : State) : Host.Outcome State Fault Refusal :=
  .next (s.linkCtrl ring 0 (onlyIn fun p => decide (p = .disabled ∨ p = .fault)) fun n t =>
    let t1 := t.setField (linkReg n 0) 0 1 1
    if (t.plk.link[n]).st = .fault then t1.superviseReset n else t1.bringUp n)

/-- LINK_CTRL retrain (R427): from FAULT after the 100 µs link reset, from any other state at once. -/
def execLinkCtrlRetrain (ring : Fin 16) (s : State) : Host.Outcome State Fault Refusal :=
  .next (s.linkCtrl ring 1 (onlyIn fun p => decide (p ≠ .disabled)) fun n t =>
    if (t.plk.link[n]).st = .fault then t.superviseReset n else t.startT0 n)

/-- LINK_CTRL PRBS start (R284, R427): TEST, the device's count from 0. -/
def execLinkCtrlPrbsStart (ring : Fin 16) (s : State) : Host.Outcome State Fault Refusal :=
  .next (s.linkCtrl ring 2 (onlyIn fun p => decide (p = .run)) fun n t =>
    t.startPrbs n .test)

/-- LINK_CTRL PRBS stop (R284, R427): IDLE ends the phase; what the device has counted beyond PRBS.DEV is its receiver's figure, a free value. -/
def execLinkCtrlPrbsStop (ring : Fin 16) (s : State) : Host.Outcome State Fault Refusal :=
  .next (s.linkCtrl ring 3 (onlyIn fun p => decide (p = .test)) fun n t =>
    let d := t.draw
    ((d.2.modLink n fun l => { l.countPrbs (Config.prbsErrors d.1) with prbsOver := true }).sendIdle n).enterEcho n)

/-- LINK_CTRL authenticate (R286, R427): the exchange of R285 again, none under policy 0. -/
def execLinkCtrlAuthenticate (ring : Fin 16) (s : State) : Host.Outcome State Fault Refusal :=
  .next (s.linkCtrl ring 4 (fun l => if l.st ≠ .run then some 0x11 else match l.caps with
      | some c => if c.auth then none else some 0x13
      | none => some 0x13)
    fun n t => if t.authPolicy n = 0 then t else t.sendChallenge n)

/-- LINK_CTRL disable (R427): always OK. -/
def execLinkCtrlDisable (ring : Fin 16) (s : State) : Host.Outcome State Fault Refusal :=
  .next (s.withEntry ring (isLinkCtrl 5) fun f t =>
    let n : Fin 32 := Fin.ofNat 32 f.e.sub.toNat
    ((t.setField (linkReg n 0) 0 1 0).disableLink n).complete f.id stOk 0)

end Sys2Proof.Machine
end

