-- ==== Sys2Proof/Machine/TwinOps.lean ====
section
/-! DEFINITION. The twin pair (chapter 18) as shared operations: signatures and their comparison, takeover. -/

namespace Sys2Proof.Machine

/-- SIG payload (R376). -/
def sigBytes (g : Sig) : List Byte :=
  [BitVec.ofNat 8 (g.plane.val + if g.err then 8 else 0)] ++ leBytes 6 g.line ++ [0] ++
  leBytes 4 (g.sums.foldl (fun m x => m + 2 ^ x.1.val) 0) ++ g.sums.flatMap fun x => leBytes 4 x.2.toNat

/-- The CRCs of a SIG payload, for the links of its mask in ascending order. -/
def sigSums (bs : List Byte) (mask : Nat) : List (Fin 32 × BitVec 32) :=
  let ks := (List.finRange 32).filter fun k => mask.testBit k.val
  (List.range ks.length).map fun i => (ks.getD i 0, BitVec.ofNat 32 (numAt bs (12 + 4 * i) 4))

/-- A signature from its payload (R376). -/
def parseSig (bs : List Byte) : Sig :=
  { plane := Fin.ofNat 8 (numAt bs 0 1), line := numAt bs 1 6, err := (numAt bs 0 1).testBit 3, sums := sigSums bs (numAt bs 8 4) }

/-- A link's signature joins those of its line (R376). -/
def State.signLine (s : State) (p : Fin 8) (n : Nat) (k : Fin 32) (crc : BitVec 32) : State :=
  { s with twn := { s.twn with forming := s.twn.forming.map fun g =>
      if g.plane = p ∧ g.line = n then { g with sums := (g.sums.filter fun x => decide (x.1 < k)) ++ (k, crc) :: g.sums.filter fun x => decide (k < x.1) } else g } }

/-- A line is compared: at or above e_p + M_p, and after the takeover window (R387, R390). -/
def State.compares (s : State) (p : Fin 8) (n : Nat) : Bool :=
  (s.twn.plane[p]).valid && decide (((s.twn.plane[p]).epoch : Int) + s.depth p ≤ n) && decide (s.twn.after[p] ≤ n)

/-- Links on which two signatures of a line differ (R376). -/
def mismatches (a b : Sig) : List (Fin 32) :=
  a.sums.filterMap fun x => match b.sums.find? fun y => decide (y.1 = x.1) with
    | some y => if y.2 = x.2 then none else some x.1
    | none => none

/-- TWIN_DISAGREE for a link, at most once per millisecond (R378): web line f − H_p. -/
def State.twinDisagree (s : State) (p : Fin 8) (n : Nat) (k : Fin 32) : State :=
  if s.twn.logged.any fun e => decide (e.1 = k.val ∧ s.now < e.2 + 2000000) then s
  else { s with twn := { s.twn with logged := (k.val, s.now) :: s.twn.logged.filter fun e => decide (e.1 ≠ k.val) } }.log 0x0080 2 k.val
    (lineBytes ((n : Int) - s.span p))

/-- Each pair epoch is followed by the next modulo 2^16, skipping 0 (R374, R380). -/
def nextEpoch (e : BitVec 16) : BitVec 16 := if e + 1 = 0 then 1 else e + 1

/-- IDLE with the present epoch and ACTIVE on every link that runs blocks (R276, R380). -/
def State.idleAll (s : State) : State :=
  (List.finRange 32).foldl (fun (t : State) n => if (t.plk.link[n]).st.locked then t.sendIdle n else t) s

/-- Causes that a standby only recorded become stop causes (R380, R383). -/
def State.unblock (s : State) : State :=
  let hit := fun b : Nat => (List.finRange 8).filter fun p => (s.twn.block[p]).getLsbD b
  let s1 := { s with twn := { s.twn with block := Vector.replicate 8 0 } }
  (((s1.stopPlanes (hit 0) 2).stopPlanes (hit 1) 4).stopPlanes (hit 2) 5).stopPlanes (hit 3) 0

/-- Takeover (R380, R390): `first` holds the first line of each plane that this device transmits after a planned swap, 0 otherwise. -/
def State.takeOver (s : State) (first : Vector Nat 8) : State :=
  let e := nextEpoch s.twn.epoch
  let plane : Vector Plane 8 := Vector.ofFn fun p : Fin 8 => { s.fir.plane[p] with swapAt := none, sendFrom := first[p] }
  let s1 := { s with
    twn := { s.twn with
      role := .active, epoch := e, takeovers := s.twn.takeovers + 1, yielded := false, swap := none, swapLeft := 0
      after := Vector.ofFn fun p : Fin 8 => max first[p] (s.fireLine p) + 1
      plane := s.twn.plane.map fun (x : TwinPlane) => { x with late := none } }
    fir := { s.fir with plane := plane }
    urg := { s.urg with stops := [] } }
  let s2 := ((s1.twinSend (.takeover e)).idleAll.clearCause (List.finRange 8) 7).unblock
  ((List.finRange 8).foldl State.loopsOff s2).settle s

/-- A JOINING device becomes STANDBY when every printing plane has had 4,096 matching lines (R387). -/
def State.joinCheck (s : State) : State :=
  let ps := (List.finRange 8).filter s.planePrints
  if s.twn.role = .joining ∧ ps ≠ [] ∧ ps.all fun p => decide ((s.twn.plane[p]).match_ = 4096) then
    { s with twn := { s.twn with role := .standby } }
  else s

/-- A mismatch on compared links between ACTIVE and STANDBY (R378). -/
def State.judge (s : State) (own : Sig) (peer : Sig) (ks : List (Fin 32)) : State :=
  let active := decide (s.twn.role = .active)
  match if active then own.err else peer.err, if active then peer.err else own.err with
  | true, false => if active then s.twinFails 1 else s.takeOver (Vector.replicate 8 0)
  | _, true => if active then s else s.twinFails 1
  | false, false =>
    ks.foldl (fun (t : State) k => t.twinDisagree own.plane own.line k) { s with twn := { s.twn with disagree := satInc s.twn.disagree } }

/-- Both signatures of a line are there (R376, R378, R387). -/
def State.compareSig (s : State) (own peer : Sig) : State :=
  let p := own.plane
  if !s.compares p own.line then s
  else match mismatches own peer with
    | [] => (s.modTwin p fun x => { x with match_ := min 4096 (x.match_ + 1) }).joinCheck
    | ks =>
      let s1 := s.modTwin p fun x => { x with match_ := 0 }
      if s1.twn.role = .joining ∨ s1.twn.peerRole = some .joining then s1 else s1.judge own peer ks

/-- Signatures are of one line. -/
def sameLine (a b : Sig) : Bool := decide (a.plane = b.plane ∧ a.line = b.line)

/-- The last link deadline of a line has passed (R376): SIG goes to the peer, and the line is compared when the peer's SIG is there. -/
def State.closeSig (s : State) (p : Fin 8) (n : Nat) : State :=
  match s.twn.forming.find? fun g => decide (g.plane = p ∧ g.line = n) with
  | none => s
  | some g =>
    let s1 := { s with twn := { s.twn with forming := s.twn.forming.filter fun x => !sameLine x g } }.twinSend (.sig (sigBytes g))
    match s1.twn.peer.find? fun x => sameLine x g with
    | some x => { s1 with twn := { s1.twn with peer := s1.twn.peer.filter fun y => !sameLine y g } }.compareSig g x
    | none => { s1 with twn := { s1.twn with own := g :: s1.twn.own } }

/-- A planned swap ends on the device that gave it (R388, R389): STANDBY once it has launched its last line of every plane that fires; the entry completes OK once the twin has transmitted n_s of each. -/
def State.swapCheck (s : State) : State :=
  match s.twn.swap with
  | none => s
  | some id =>
    let open_ := fun p : Fin 8 => (s.fir.plane[p]).firing
    let given := (List.finRange 8).all fun p => !open_ p || (match (s.fir.plane[p]).swapAt with | some n => decide (n ≤ s.fireLine p) | none => true)
    let s1 := if s.twn.role = .active ∧ given then { s with twn := { s.twn with role := .standby } }.idleAll else s
    if s1.twn.role = .standby ∧ (List.finRange 8).all fun p => !(open_ p && s1.twn.swapLeft.getLsbD p.val) then
      { s1 with twn := { s1.twn with swap := none, swapLeft := 0 } }.complete id stOk 0
    else s1

end Sys2Proof.Machine
end

