-- ==== Sys2Proof/Machine/FireCommands.lean ====
section
/-! DEFINITION. The fire scheduler's commands (chapter 12): commit, launch, host stop and forward resume, FIR_NOW, JOB_OPEN and JOB_CLOSE. -/

namespace Sys2Proof.Machine

/-- The due line of a plane is committed, or OVERSPEED stops it (R247, R251). -/
def execLineCommit (plane : Fin 8) (at_ : Nat) (s : State) : Host.Outcome State Fault Refusal :=
  .next (let t := s.advance at_
    (t.commitDue plane).settle t)

/-- The plane launch deadline of a committed line comes (R248). -/
def execLineLaunch (plane : Fin 8) (at_ : Nat) (s : State) : Host.Outcome State Fault Refusal :=
  .next (let t := s.advance at_
    ((t.launchDue plane).settle t).swapCheck)

/-- A host write of FIR_CTRL (R253, R259, R265): cause HOST on the planes of STOP, then the forward resumes. -/
def State.writeFirCtrl (s : State) (v : Word) : State :=
  let stop := v.extractLsb' 0 8
  let s1 := { s with fir := { s.fir with stop := stop } }
  let s2 := (s1.assertCause (planesOf (stop &&& ~~~s.fir.stop)) 5).clearCause (planesOf (s.fir.stop &&& ~~~stop)) 5
  ((planesOf (v.extractLsb' 8 8)).foldl State.resumeForward s2).settle s

/-- A write of FIR_CTRL.STOP (R253). -/
def execFirCtrlStopWrite (value : Word) (s : State) : Host.Outcome State Fault Refusal :=
  .next (s.onWrite 0x160010 value fun t => t.writeFirCtrl value)

/-- A write of FIR_CTRL.RESUME_FWD (R259). -/
def execFirCtrlResumeFwd (value : Word) (s : State) : Host.Outcome State Fault Refusal :=
  .next (s.onWrite 0x160010 value fun t => t.writeFirCtrl value)

/-- FIR compares FIR_NOW with device time (R347): at most one tick of correction, but for a step of t, which it follows. -/
def execFirNowDiscipline (at_ : Nat) (s : State) : Host.Outcome State Fault Refusal :=
  .next (let t := s.advance at_
    if t.blkUp .fir && t.clkRuns 0 then (if t.fir.realign then t.realignFir else t.disciplineFir) else t)

/-- Planes an entry's mask in slot 1 names. -/
def Entry.planes (e : Entry) : List (Fin 8) := planesOf (e.a[1].extractLsb' 0 8)

/-- JOB_OPEN (R95, R245, R256). -/
def execJobOpen (ring : Fin 16) (s : State) : Host.Outcome State Fault Refusal :=
  .next (s.withEntryAt ring (fun e => decide (e.op = 0x60)) Entry.blocks fun f t =>
    (t.openPlanes f.e.planes (f.e.a[0].extractLsb' 0 48)).complete f.id stOk 0)

/-- JOB_CLOSE (R95, R262): it completes once every plane it names is IDLE or has had its close aborted. -/
def execJobClose (ring : Fin 16) (s : State) : Host.Outcome State Fault Refusal :=
  .next (s.withEntryAt ring (fun e => decide (e.op = 0x61)) Entry.blocks fun f t =>
    let t1 := f.e.planes.foldl (fun (u : State) p => u.closePlane p (f.e.num 0) f.id) (t.waitFlight f.id)
    (t1.closeDone [f.id]).settle t)

end Sys2Proof.Machine
end

