-- ==== Sys2Proof/Machine/Screening.lean ====
section
/-! DEFINITION. Screening (chapter 09): correction, screens, remaps, overlays, and the writes of plane lines into the raster rings. -/

namespace Sys2Proof.Machine

/-- Entry x of tone curve c of plane p (R180). -/
def curveAt (v : TableView) (p : Fin 8) (c x : Nat) : Nat :=
  bitsOf (viewNum v 0x0010 ((256 * p.val + c) * 384 + 3 * (x / 2)) 3) (12 * (x % 2)) 12

/-- Corrected tone of a curve value under a live gain (R182). -/
def correctedTone (curve : Nat) (gain : Int) : Nat := min 4095 (((curve : Int) * (512 + gain) + 256) / 512).toNat

/-- Threshold T_k of a cell of a screen set (R183). -/
def threshold (v : TableView) (set x y k : Nat) : Nat := viewNum v 0x0012 (set * 1048576 + (256 * y + x) * 16 + k - 1) 1

/-- Level of a tone in a cell: the boundaries it reaches (R184). -/
def screenLevel (v : TableView) (bits set x y t : Nat) : Nat :=
  ((List.range (2 ^ bits - 1)).filter fun k => decide (16 * threshold v set x y (k + 1) + 8 ≤ t)).length

/-- The low or high nibble of a table byte (R185). -/
def nibble (b i : Nat) : Nat := bitsOf b (4 * (i % 2)) 4

/-- Output level of a screened input value of a column id (R185). -/
def remapLevel (v : TableView) (bits : Nat) (p : Fin 8) (id x : Nat) : Nat :=
  let r := nibble (viewNum v 0x0013 (512 + id / 2) 1) id % 8
  min (2 ^ bits - 1) (nibble (viewNum v 0x0013 (64 * p.val + 8 * r + x / 2) 1) x)

/-- Column id of column c of plane p (R4). -/
def columnId (p : Fin 8) (c : Nat) : Nat := 32768 * p.val + c

/-- Level that an input value of a quire of a KIND gives in column c of web line n (R171, R182 to R185). -/
def State.levelOf (s : State) (p : Fin 8) (n kind c x : Nat) : Nat :=
  let v := s.viewAt n
  if kind = 0 then
    let id := columnId p c
    let cfg := (s.regAt n (0xC0100 + 0x40 * p.val)).toNat
    let g := signed 8 (viewNum v 0x0011 (2 * id + 1) 1)
    screenLevel v s.bits (bitsOf cfg 0 3) ((c + bitsOf cfg 8 8) % 256) ((n + bitsOf cfg 16 8) % 256)
      (correctedTone (curveAt v p (viewNum v 0x0011 (2 * id) 1) x) g)
  else remapLevel v s.bits p (columnId p c) x

/-- Input value of column COL_FIRST + k in the bytes of a line (R149). -/
def inputValue (kind : Nat) (line : List Byte) (k : Nat) : Nat :=
  bitsOf (numAt line (k * kindBits kind / 8) 2) (k * kindBits kind % 8) (kindBits kind)

/-- The line of a quire, at its own line i, as far as its decode has produced it; none before (R158, R425). -/
def Quire.line (q : Quire) (i : Nat) : Option (List Byte) :=
  let st := strideOf q.kind q.colCount
  let r := inflate q.rawLen q.read
  if (i + 1) * st ≤ r.size then some ((r.rev.reverse.drop (i * st)).take st) else none

/-- The overlay window of a source, for an overlay that is VALID. -/
def State.sourceOverlay (s : State) (p : Fin 8) (n : Nat) (q : Quire) : Option Overlay :=
  q.overlay.bind fun o => overlayAt (s.viewAt n) p o

/-- Columns of a quire after clipping to its overlay's window (R176). -/
def State.clippedColumns (s : State) (p : Fin 8) (n : Nat) (q : Quire) : List Nat :=
  let cols := (List.range q.colCount).map fun k => q.colFirst + k
  match s.sourceOverlay p n q with
  | none => cols
  | some o => cols.filter fun c => decide (o.colFirst ≤ c ∧ c < o.colFirst + o.colCount)

/-- What a quire writes in web line n, its own line i: columns and levels, keyed columns left out; level 0 in every clipped column once BLANKED (R172, R176). None while its decode has not produced the line. -/
def State.quireWrites (s : State) (p : Fin 8) (n i : Nat) (q : Quire) : Option (List (Nat × Nat)) :=
  let cols := s.clippedColumns p n q
  if q.state = .blanked then some (cols.map fun c => (c, 0))
  else if q.state = .decoding ∨ q.state = .verified then
    let key := (s.sourceOverlay p n q).bind Overlay.key
    (q.line i).map fun bs => cols.filterMap fun c =>
      let x := inputValue q.kind bs (c - q.colFirst)
      if key = some x then none else some (c, s.levelOf p n q.kind c x)
  else none

/-- Columns no plate and no base quire covers in line n: what the fill writes (R172). -/
def State.fillColumns (s : State) (p : Fin 8) (n : Nat) : List Nat :=
  let qs := (s.sourcesAt p n).filterMap fun x => if x.rank ≤ 1 then x.quire else none
  (List.range 32768).filter fun c => !qs.any fun q => decide (q.colFirst ≤ c ∧ c < q.colFirst + q.colCount)

/-- What a source writes in web line n; none while it cannot (R172, R178). -/
def State.sourceWrites (s : State) (p : Fin 8) (n : Nat) (x : Source) : Option (List (Nat × Nat)) :=
  match x.quire with
  | none => if s.lineComplete p n then some ((s.fillColumns p n).map fun c => (c, 0)) else none
  | some q => s.quireWrites p n ((n : Int) - x.origin - q.first).toNat q

/-- Columns of line n that a source of higher rank has written already: a rewrite under it leaves them (R172). -/
def State.writtenAbove (s : State) (p : Fin 8) (n rank : Nat) : List Nat :=
  (s.sourcesAt p n).flatMap fun y =>
    if rank < y.rank && s.hasWritten p n y.src then ((s.sourceWrites p n y).getD []).map (·.1) else []

/-- Every source of lower rank that covers line n has written it (R177). -/
def State.lowerWritten (s : State) (p : Fin 8) (n rank : Nat) : Bool :=
  (s.sourcesAt p n).all fun y => decide (rank ≤ y.rank) || s.hasWritten p n y.src

/-- Bit j of a slot after a write of levels at b bits a column (R149, R189). -/
def slotBit (b : Nat) (lv : Nat → Option Nat) (old : Bool) (j : Nat) : Bool :=
  match lv (j / b) with
  | some l => l.testBit (j % b)
  | none => old

/-- Columns with a bit in unit u of a slot at b bits a column. -/
def unitColumns (b u : Nat) : List Nat := (List.range ((512 * u + 511) / b + 1 - 512 * u / b)).map fun k => 512 * u / b + k

/-- Write the levels of one 64-byte unit of a slot (R177): whole, or masked, where an uncorrectable unit stays so. -/
def State.writeSlotUnit (s : State) (b a u : Nat) (lv : Nat → Option Nat) : State :=
  let cols := unitColumns b u
  if cols.all fun c => (lv c).isNone then s
  else
    let masked := cols.any fun c => (lv c).isNone
    let at_ := a + 64 * u
    let bytes : List Byte := (List.range 64).map fun k =>
      let old := s.dramByte (at_ + k)
      BitVec.ofNat 8 ((List.range 8).foldl (fun n i => n + (slotBit b lv (old.getLsbD i) (512 * u + 8 * k + i)).toNat * 2 ^ i) 0)
    let stored := s.blkUp .dmc && s.writeLands (s.reqAt 2 2 true at_ 64)
    let s1 := s.dramPutUnit 2 at_ bytes
    let s2 := if masked then { s1 with scr := { s1.scr with masked := s1.scr.masked + 1 } } else s1
    if masked && stored && s.unitBad at_ then (s2.recordUe 2 at_).spoilUnit at_
    else s2

/-- Write levels into the slot of web line n (R149, R189). -/
def State.writeSlot (s : State) (p : Fin 8) (n : Nat) (ws : List (Nat × Nat)) : State :=
  let lv := fun c => (ws.find? fun w => decide (w.1 = c)).map (·.2)
  (List.range (64 * s.bits)).foldl (fun (t : State) u => t.writeSlotUnit s.bits (s.slotAddr p n) u lv) s

/-- Chambers whose staged contents govern a line that SCR starts cannot be discarded any more (R187). -/
def State.useChambers (s : State) (p : Fin 8) (n : Nat) : State :=
  (List.finRange 4).foldl (fun (t : State) k =>
    let c := t.lck.ch[k]
    match c.byLine with
    | some l => if l ≤ n ∧ p ∈ t.scrTouched c then t.modChamber k fun d => { d with used := true } else t
    | none => t) s

/-- A source has written line n of a plane (R191); SCR has started the line where the source issued a ring write (R187). -/
def State.markWritten (s : State) (p : Fin 8) (n : Nat) (src : LineSource) (issued : Bool) : State :=
  let ls := s.scr.lines[p]
  let new : List LineWork := if ls.any fun w => decide (w.line = n) then ls.map fun w => if w.line = n then { w with done := src :: w.done } else w
    else ls ++ [⟨n, [src]⟩]
  { s with scr := { s.scr with
      lines := s.scr.lines.set p new
      started := if issued then s.scr.started.set p (max s.scr.started[p] (n + 1)) else s.scr.started } }

/-- SCR may write line n of a plane: a ring slot stands for it, its former line is released, n itself is not, and no apply copy holds it up (R190 to R192, R338). -/
def State.slotOpen (s : State) (p : Fin 8) (n : Nat) : Bool :=
  decide (s.ringLog p ≠ 0) && decide (n < s.slotLimit p) && !s.lineReleased p n && !s.scrWaits p n

/-- SCR, DMC and CORE_CLK run. -/
def State.scrRuns (s : State) : Bool := s.blkUp .scr && s.blkUp .dmc && s.dmc.ready && s.clkRuns 4

/-- The decode that a source of lines is. -/
def LineSource.job : LineSource → Option EngineJob
  | .fill => none
  | .quire id => some (.quire id)
  | .plate id => some (.plate id)

/-- Line of a decode's own numbering that falls on web line n; none where none does. -/
def State.jobLine (s : State) (j : EngineJob) (q : Quire) (n : Nat) : Option Nat :=
  let i := (n : Int) - s.jobOrigin j - q.first
  if 0 ≤ i ∧ i < q.count then some i.toNat else none

/-- Screening takes the lines of a decode in order, out of its output buffer (R159); those of a BLANKED quire come from none. -/
def State.lineNext (s : State) (j : EngineJob) (n : Nat) : Bool :=
  match s.jobQuire j with
  | none => false
  | some q => decide (q.state = .blanked) || s.jobLine j q n == some (s.linesTaken j q)

/-- The engine that decodes a source goes on until it has produced web line n, if that is the next it hands to screening (R159, R425). -/
def State.readSource (s : State) (src : LineSource) (n : Nat) : State :=
  match src.job with
  | none => s
  | some j => match s.jobQuire j with
    | some q => match s.jobLine j q n with
      | some i => if s.qdcRuns && s.lineNext j n then s.decodeTo j ((i + 1) * strideOf q.kind q.colCount) else s
      | none => s
    | none => s

/-- A source may hand web line n to screening now. -/
def State.sourceReady (s : State) (src : LineSource) (n : Nat) : Bool :=
  match src.job with
  | none => true
  | some j => s.lineNext j n

/-- Column passes a write takes (R186): none for the fill. -/
def State.passesOf (s : State) (p : Fin 8) (n : Nat) (x : Source) : Nat :=
  match x.quire with
  | none => 0
  | some q => (s.clippedColumns p n q).length

/-- A source writes line n of a plane (R172, R177, R187, R191). -/
def State.writeLine (s : State) (p : Fin 8) (n : Nat) (x : Source) (ws : List (Nat × Nat)) : State :=
  let above := s.writtenAbove p n x.rank
  let k := s.passesOf p n x
  let mine := ws.filter fun w => !above.contains w.1
  let s1 := if mine.isEmpty then s else (s.writeSlot p n mine).useChambers p n
  let s2 := { s1 with scr := { s1.scr with passes := noteWork s1.now k s1.scr.passes } }.countEvent 0x23 k {}
  ((s2.markWritten p n x.src !mine.isEmpty).advanceReady p).settle s

/-- Screening writes a source's columns of web line `line` of a plane (R177, R191); nothing where the line or the source is not due (log entry 4). -/
def execScreenLineWrite (plane : Fin 8) (line : Nat) (source : LineSource) (s : State) : Host.Outcome State Fault Refusal :=
  .next (if s.scrRuns && s.slotOpen plane line then
    let t := s.readSource source line
    match (t.sourcesAt plane line).find? fun x => decide (x.src = source) with
    | none => s
    | some x =>
      if t.hasWritten plane line source || !t.lowerWritten plane line x.rank || !t.sourceReady source line then s
      else match t.sourceWrites plane line x with
        | some ws => t.writeLine plane line x ws
        | none => t
  else s)

/-- Links that are up at a rate and whose board cannot take b bits (R288, cause CAP). -/
def State.shortLinks (s : State) (b : Nat) : List (Fin 32) :=
  (List.finRange 32).filter fun n =>
    let l := s.plk.link[n]
    match l.st with
    | .disabled | .t0 | .fault => false
    | .rate | .lock | .prbs | .echo | .sync | .auth | .load | .run | .test => match l.caps with
      | some c => decide (c.maxBits.toNat < b)
      | none => false

/-- A host write of SCR_CFG.BITS (R171, R194, R288): links whose board cannot take the depth fault with cause CAP. -/
def State.writeScrCfg (s : State) (v : Word) : State :=
  let s1 := s.hostWrite 0xC0000 v
  if s1.bits = s.bits then s1 else (s1.shortLinks s1.bits).foldl (fun (t : State) n => t.linkFault n 2) s1

/-- A write of SCR_CFG.BITS (R194, R288). -/
def execScrCfgBitsWrite (value : Word) (s : State) : Host.Outcome State Fault Refusal :=
  .next (s.onWrite 0xC0000 value fun t => t.writeScrCfg value)

end Sys2Proof.Machine
end

