-- ==== Sys2Proof/Machine/Gutter.lean ====
section
/-! DEFINITION. Column sets, the fetch stage, the gutter and refill (chapter 10), and the line that leaves on a Preaz Link (chapter 13, R272 to R275). -/

namespace Sys2Proof.Machine

/-- Member slot k of a column under a view: its 24-bit word (R199). -/
def slotWord (v : TableView) (col k : Nat) : Nat := viewNum v 0x0001 (16 * col + 3 * k) 3

/-- A VALID local member slot that names a channel id (R199). -/
def namesChannel (w ch : Nat) : Bool := w.testBit 18 && !w.testBit 20 && decide (w % 2 ^ 18 = ch)

/-- The column set that a channel id belongs to: the highest column id that names it (R211). -/
def ownerColumn (v : TableView) (ch : Nat) : Option Nat :=
  (List.range 262144).reverse.find? fun c => (List.range 4).any fun k => namesChannel (slotWord v c k) ch

/-- A member slot is live (R200), by the link sample of a fetch. -/
def slotLive (v : TableView) (collapse : Bool) (live : BitVec 32) (w : Nat) : Bool :=
  w.testBit 18 && w.testBit 19 &&
  (w.testBit 20 || ((viewNum v 0x0002 (w % 2 ^ 18) 1).testBit 0 && (!collapse || live.getLsbD (w % 2 ^ 18 / 8192))))

/-- Select of cell (x, y) of an assignment pattern (R201). -/
def patternSelect (v : TableView) (k x y : Nat) : Nat := bitsOf (viewNum v 0x0003 (1024 * k + 16 * y + x / 4) 1) (2 * (x % 4)) 2

/-- The member slot that prints a column whose cell is (x, y) (R202). -/
def chosenSlot (v : TableView) (collapse : Bool) (live : BitVec 32) (col x y : Nat) : Option Nat :=
  let a := (List.range 4).filter fun k => slotLive v collapse live (slotWord v col k)
  let sel := patternSelect v (viewNum v 0x0001 (16 * col + 12) 1) x y
  if a.contains sel then some sel else if a.isEmpty then none else a[(x + y) % a.length]?

/-- BAR0 offset of CSM_PLp_CFG (R206). -/
def planeCfg (p : Fin 8) : Nat := 0x100100 + 0x10 * p.val

/-- SHIFT of a value of CSM_PLp_CFG, within ±64 (R206, R211). -/
def shiftOf (cfg : Word) : Int := clampInt (-64) 64 (signed 8 cfg.toNat)

/-- A bit of a ring slot as raster fetch reads it: 0 in an uncorrectable unit (R140). -/
def State.rasterBit (s : State) (a j : Nat) : Bool := !s.unitBad (a + j / 8) && (s.dramByte (a + j / 8)).getLsbD (j % 8)

/-- Level of raster column c of web line m: 0 outside the line (R189, R206). -/
def State.rasterLevel (s : State) (p : Fin 8) (m : Nat) (c : Int) : Nat :=
  if c < 0 ∨ 32768 ≤ c then 0
  else (List.range s.bits).foldl (fun n i => n + (s.rasterBit (s.slotAddr p m) (c.toNat * s.bits + i)).toNat * 2 ^ i) 0

/-- CSM_CFG.LINK_COLLAPSE. -/
def State.collapse (s : State) : Bool := s.regBit 0x100000 4

/-- Level of a channel of a link for web line m, through the segment that owns it, under a value of CSM_PLp_CFG (R202, R206, R211). -/
def State.channelLevel (s : State) (v : TableView) (cfg : Word) (live : BitVec 32) (p : Fin 8) (g : Seg) (ch m : Nat) : Nat :=
  match ownerColumn v ch with
  | none => 0
  | some id =>
    let c := id % 32768
    if id / 32768 = p.val ∧ g.colFirst ≤ c ∧ c < g.colFirst + g.colCount then
      match chosenSlot v s.collapse live id ((c + bitsOf cfg.toNat 8 6) % 64) ((m + bitsOf cfg.toNat 16 6) % 64) with
      | some k => if namesChannel (slotWord v id k) ch then s.rasterLevel p m ((c : Int) - shiftOf cfg) else 0
      | none => 0
    else 0

/-- Levels above 0 of a segment's channels for web line m (R202, R211). -/
def State.segLevels (s : State) (v : TableView) (cfg : Word) (live : BitVec 32) (p : Fin 8) (n : Fin 32) (j : Fin 16) (g : Seg) (m : Nat) : List (Nat × Nat) :=
  (List.range g.chCount).filterMap fun k =>
    let i := g.chFirst + k
    if (segOf s.liveView n i).map (·.1) = some j then
      let l := s.channelLevel v cfg live p g (8192 * n.val + i) m
      if l = 0 then none else some (i, l)
    else none

/-- 64-byte units of a ring slot that a segment's fetch of web line m reads (R218). -/
def State.fetchUnits (s : State) (cfg : Word) (p : Fin 8) (g : Seg) (m : Nat) : List Nat :=
  let lo := clampInt 0 32768 ((g.colFirst : Int) - shiftOf cfg)
  let hi := clampInt 0 32768 (((g.colFirst + g.colCount : Nat) : Int) - shiftOf cfg)
  if lo < hi then
    let a := s.slotAddr p m
    unitsOf (a + lo.toNat * s.bits / 8) ((hi.toNat * s.bits - 1) / 8 + 1 - lo.toNat * s.bits / 8)
  else []

/-- The reads of a fetch through a port (R133, R140). -/
def State.readUnits (s : State) (port : Fin 10) (us : List Nat) : State := us.foldl (fun (t : State) u => t.dramReadUnit port u 64) s

/-- CSM, DMC and CORE_CLK run. -/
def State.csmRuns (s : State) : Bool := s.blkUp .csm && s.blkUp .dmc && s.clkRuns 4

/-- The MEM_CLK of the channels that hold some units runs (R73, R83). -/
def State.unitsServed (s : State) (us : List Nat) : Bool :=
  us.all fun u => s.clkRuns (if channelOf (s.subOf u) = 0 then 6 else 7)

/-- A link's refill gate is open (R217). -/
def State.gateOpen (s : State) (n : Fin 32) : Bool := !s.csm.gate.getLsbD n.val

/-- Links that a fetch counts as live: in RUN with their gate open (R200), and RUNNING again where they carry a segment and had left (R214; log entry 37). -/
def State.linkSample (s : State) : BitVec 32 :=
  (List.finRange 32).foldl (fun m n =>
    if (s.plk.link[n]).st = .run ∧ s.gateOpen n ∧ ((s.csm.link[n]).away = false ∨ linkPlane s.liveView n = none) then m ||| BitVec.twoPow 32 n.val else m) 0

/-- Web line above the last one a closing plane prints (R262). -/
def State.pastClose (s : State) (p : Fin 8) (m : Int) : Bool :=
  match s.closeLine p with
  | some l => decide ((l : Int) < m)
  | none => false

/-- The state with the gutter of one link changed. -/
def State.modGutter (s : State) (n : Fin 32) (f : LinkGutter → LinkGutter) : State :=
  { s with csm := { s.csm with link := modAt s.csm.link n f } }

/-- The sample of links at a plane's fire line is kept where it differs from the one before (R320). -/
def State.noteSample (s : State) (p : Fin 8) (f : Nat) (live : BitVec 32) : State :=
  match s.csm.samples[p] with
  | x :: _ => if x.2 = live then s else { s with csm := { s.csm with samples := s.csm.samples.set p ((f, live) :: s.csm.samples[p]) } }
  | [] => { s with csm := { s.csm with samples := s.csm.samples.set p [(f, live)] } }

/-- The buffer of a fire line in the fetch stage of a link. -/
def State.fetchBuf (s : State) (n : Fin 32) (f : Nat) : Option FetchBuf := (s.csm.link[n]).fetch.find? fun b => decide (b.line = f)

/-- The buffer of a fire line exists; the links are sampled as it is made (R200). -/
def State.openBuf (s : State) (n : Fin 32) (p : Fin 8) (f : Nat) : State :=
  if (s.fetchBuf n f).isSome then s
  else (s.modGutter n fun g => { g with fetch := g.fetch ++ [⟨f, s.linkSample, [], [], []⟩] }).noteSample p f s.linkSample

/-- The state with the buffer of one fire line changed. -/
def State.modBuf (s : State) (n : Fin 32) (f : Nat) (g : FetchBuf → FetchBuf) : State :=
  s.modGutter n fun x => { x with fetch := x.fetch.map fun b => if b.line = f then g b else b }

/-- Levels merged into a sparse list by channel index. -/
def mergeLevels (a b : List (Nat × Nat)) : List (Nat × Nat) := b.foldl (fun m x => sparseSet 0 m x.1 x.2) a

/-- The fire line whose fetch a segment starts next: the lowest one not started among those whose line f − K has launched (R207). -/
def State.nextFireFetch (s : State) (n : Fin 32) (p : Fin 8) (j : Fin 16) : Option Nat :=
  let lo := max (s.fireLine p) (s.csm.link[n]).f0
  ((List.range (s.fireLine p + s.lead - lo)).map fun k => lo + k).find? fun f => match s.fetchBuf n f with
    | some b => !b.started.contains j
    | none => true

/-- Segment j of a link reads nothing for fire line f: its web line lies below 0, or past the end of a close (R197, R262). -/
def State.readsNothing (s : State) (p : Fin 8) (g : Seg) (f : Nat) : Bool :=
  decide ((f : Int) - g.offset < 0) || s.pastClose p ((f : Int) - g.offset)

/-- The web line a segment maps for fire line f. -/
def Seg.webLine (g : Seg) (f : Nat) : Nat := ((f : Int) - g.offset).toNat

/-- Raster fetch can start a segment's fetch of fire line f: it reads nothing, or the ring has the web line, its MEM_CLK runs and no apply copy holds it up (R83, R207, R338). -/
def State.canFetch (s : State) (p : Fin 8) (g : Seg) (f : Nat) : Bool :=
  s.readsNothing p g f ||
  (!s.csmWaits p (g.webLine f) && s.lineReadable p (g.webLine f) && s.unitsServed (s.fetchUnits (s.regAt (g.webLine f) (planeCfg p)) p g (g.webLine f)))

/-- A segment's fetch of fire line f starts: the links sampled, the web line read and mapped with the contents in force (R200, R207, R213). -/
def State.startFetch (s : State) (n : Fin 32) (p : Fin 8) (j : Fin 16) (g : Seg) (f : Nat) : State :=
  if s.readsNothing p g f then
    (s.openBuf n p f).modBuf n f fun b => { b with started := j :: b.started, done := j :: b.done }
  else
    let m := g.webLine f
    let cfg := s.regAt m (planeCfg p)
    let s1 := s.openBuf n p f
    let live := ((s1.fetchBuf n f).map FetchBuf.live).getD 0
    let ls := s1.segLevels (s1.viewAt m) cfg live p n j g m
    (s1.modBuf n f fun b => { b with started := j :: b.started, levels := mergeLevels b.levels ls }).readUnits 0 (s1.fetchUnits cfg p g m)

/-- The segment of a link that counts under a number, with the link's plane. -/
def State.segNow (s : State) (n : Fin 32) (j : Fin 16) : Option (Fin 8 × Seg) :=
  match linkPlane s.liveView n, (linkSegs s.liveView n).find? fun g => decide (g.1 = j) with
  | some p, some g => some (p, g.2)
  | _, _ => none

/-- Plane launch deadline of a fire line relative to now (R218): as fixed, else as predicted; none without a prediction (log entry 155). -/
def State.fetchDeadline (s : State) (p : Fin 8) (f : Nat) : Option Int :=
  match (s.fir.plane[p]).committed.find? fun l => decide (l.line = f) with
  | some l => some (diff48 l.deadline s.fireTick)
  | none => match s.forwardSpeed with
    | none => none
    | some v => (s.predict p f v).map fun r => r - s.planeLat p - s.guardTicks

/-- Place of a fetch in the order of R218: deadline, then link. -/
structure FetchPlace where
  /-- Deadline relative to now; none after every known one. -/
  at_ : Option Int
  /-- Link. -/
  link : Nat
  deriving DecidableEq, Repr

/-- One fetch is served before another (R218). -/
def FetchPlace.before (a b : FetchPlace) : Bool :=
  match a.at_, b.at_ with
  | some x, some y => decide (x < y) || (decide (x = y) && decide (a.link < b.link))
  | some _, none => true
  | none, some _ => false
  | none, none => decide (a.link < b.link)

/-- The segment fetches of a link that raster fetch can start: the next fire line of each segment (R207). -/
def State.fetchCands (s : State) (n : Fin 32) : List FetchPlace :=
  if (s.csm.link[n]).state = .silent then []
  else match linkPlane s.liveView n with
    | none => []
    | some p => if !s.planePrints p then [] else
      (linkSegs s.liveView n).filterMap fun g => match s.nextFireFetch n p g.1 with
        | some f => if s.canFetch p g.2 f then some ⟨s.fetchDeadline p f, n.val⟩ else none
        | none => none

/-- The segment fetches of a link under way (R218). -/
def State.fetchesRunning (s : State) (n : Fin 32) : List FetchPlace :=
  match linkPlane s.liveView n with
  | none => []
  | some p => ((s.csm.link[n]).fetch.filter fun b => b.started.any fun j => !b.done.contains j).map fun b => ⟨s.fetchDeadline p b.line, n.val⟩

/-- No fetch of a list has its place before another (R218). -/
def firstServed (x : FetchPlace) (others : List FetchPlace) : Bool := others.all fun y => !y.before x

/-- Raster fetch starts the fetch of the next fire line of a segment (R207), where no fetch that R218 serves before it can start. -/
def execRasterFetchStart (link : Fin 32) (seg : Fin 16) (s : State) : Host.Outcome State Fault Refusal :=
  .next (match s.segNow link seg with
    | some (p, g) =>
      if s.csmRuns && decide ((s.csm.link[link]).state ≠ .silent) && s.planePrints p then
        match s.nextFireFetch link p seg with
        | some f =>
          if s.canFetch p g f && firstServed ⟨s.fetchDeadline p f, link.val⟩ ((List.finRange 32).flatMap s.fetchCands) then
            s.startFetch link p seg g f
          else s
        | none => s
      else s
    | none => s)

/-- The oldest fetch of a segment under way is mapped and complete (R218): the mapper works on one segment fetch at a time, in the order of R218. -/
def execFetchComplete (link : Fin 32) (seg : Fin 16) (s : State) : Host.Outcome State Fault Refusal :=
  .next (match s.segNow link seg, (s.csm.link[link]).fetch.find? fun b => b.started.contains seg && !b.done.contains seg with
    | some (p, g), some b =>
      if s.csmRuns && firstServed ⟨s.fetchDeadline p b.line, link.val⟩ ((List.finRange 32).flatMap s.fetchesRunning) then
        let s1 := s.modBuf link b.line fun x => { x with done := seg :: x.done }
        { s1 with csm := { s1.csm with visits := noteWork s1.now g.colCount s1.csm.visits } }.countEvent 0x24 g.colCount {}
      else s
    | _, _ => s)

/-- The payload of a line at b bits a channel (R272). -/
def linePayload (b : Nat) (level : Nat → Nat) : List Byte :=
  (List.range (1024 * b)).map fun k =>
    BitVec.ofNat 8 ((List.range 8).foldl (fun n i => n + (((level ((8 * k + i) / b)).testBit ((8 * k + i) % b))).toNat * 2 ^ i) 0)

/-- DELAY of row group g for a line (R210, R274). -/
def phaseDelay (v : TableView) (n : Fin 32) (g tf : Nat) : Nat := min 0xFFFFFF (rowPhase v n g * tf / 256)

/-- LINE_PHASE block i (R274). -/
def phaseBlock (v : TableView) (n : Fin 32) (tf i : Nat) : BitVec 64 :=
  controlBlock 0x4B (2 * i + 2 ^ 8 * phaseDelay v n (2 * i) tf + 2 ^ 32 * phaseDelay v n (2 * i + 1) tf)

/-- LINE_START (R273). -/
def startBlock (bits : Nat) (vtab : Bool) (l : FireLine) : BitVec 64 :=
  controlBlock 0x33 (l.stamp % 2 ^ 48 + 2 ^ 48 * ((bits - 1) % 4 + 4 * vtab.toNat + 8 * (l.line % 32)))

/-- LINE_END (R275). -/
def endBlock (payload : List Byte) (epoch : BitVec 16) (line : Nat) : BitVec 64 :=
  controlBlock 0x55 ((crc32c payload).toNat + 2 ^ 32 * epoch.toNat + 2 ^ 48 * (line % 32))

/-- The bytes a signature covers (R376). -/
def signedBytes (stamp : Nat) (phases : List (BitVec 64)) (payload : List Byte) : List Byte :=
  leBytes 6 stamp ++ phases.flatMap (fun b => leBytes 7 (b.toNat / 256)) ++ payload

/-- The channel bank a line names: an upload whose first line has come switches it (R282). -/
def Link.nameBank (l : Link) (f : Nat) : Link :=
  match l.uploads with
  | u :: rest => match u.bank, u.from_ with
    | some b, some g => if u.valid ∧ g ≤ f then { l with vtab := b, uploads := rest } else l
    | _, _ => l
  | [] => l

/-- The gutter takes a fetched line into its slot, and its buffer leaves the fetch stage (R208). -/
def State.takeIn (s : State) (n : Fin 32) (f : Nat) (buf : List (Nat × Nat)) : State :=
  s.modGutter n fun g => { g with
    fetch := g.fetch.filter fun b => decide (f < b.line)
    slots := sparseSet [] g.slots (f % s.gutterDepth) buf, taken := f + 1 }

/-- A line of a link is discarded (R215). -/
def State.discardLine (s : State) : State :=
  { s with csm := { s.csm with discard := s.csm.discard + 1 } }.countEvent 0x31 1 {}

/-- A line as a gutter has built it leaves on its link where this device transmits it, and is signed in a twin pair (R208, R272, R374, R376). The link is taken until its last bit has left (log entry 156). -/
def State.sendLine (s : State) (n : Fin 32) (p : Fin 8) (l : FireLine) (level : Nat → Nat) : State :=
  let b := s.bits
  let s1 := s.modLink n fun x => x.nameBank l.line
  let payload := linePayload b level
  let phases := (List.range 8).map (phaseBlock s.liveView n l.tf)
  let s2 := s1.signLine p l.line n (crc32c (signedBytes l.stamp phases payload))
  if l.sends then
    ((s2.modLink n fun x => { x with lines := x.lines + 1, sendUntil := s.now + blockTime x.rate s.lineBlocks }).emit
      (.line n (startBlock b (s1.plk.link[n]).vtab l) phases payload (endBlock payload s.twn.epoch l.line))).countEvent 0x30 1 {}
  else s2

/-- A link has sent a fire line of the job (R320). -/
def noteSent (f : Nat) : List (Nat × Nat) → List (Nat × Nat)
  | [] => [(f, f)]
  | (a, b) :: t => if f = b + 1 then (a, f) :: t else (f, f) :: (a, b) :: t

/-- A launched line reaches the launch deadline of a link (R81, R208, R215): sent where the gutter transmitted at its launch, discarded where LINK_CLK has stopped or the gutter does not run. A line fetched for a gutter that does not transmit yet still goes into its slot (log entry 38). -/
def State.gutterLine (s : State) (n : Fin 32) (p : Fin 8) (l : FireLine) : State :=
  let g := s.csm.link[n]
  let buf := s.fetchLevels n l.line
  match g.state with
  | .silent => s.discardLine
  | .refilling => (s.takeIn n l.line buf).discardLine
  | .running =>
    let sends := l.on.getLsbD n.val && decide ((s.plk.link[n]).st = .run)
    match g.owed.find? fun o => decide (o.1 = l.stamp) with
    | some o =>
      let s1 := s.modGutter n fun x => { x with owed := x.owed.filter fun y => decide (y.1 ≠ l.stamp) }
      if !sends then s1 else if s.linkClkRuns n then s1.sendLine n p l (sparseGet 0 o.2) else s1.discardLine
    | none =>
      if !sends then s.takeIn n l.line buf
      else if s.linkClkRuns n then
        ((s.sendLine n p l (s.gutterLevel n l.line g.slots buf)).takeIn n l.line buf).modGutter n fun x => { x with sent := noteSent l.line x.sent }
      else (s.takeIn n l.line buf).discardLine

/-- The oldest launched line of a plane that a link is to emit by now. -/
def State.lineDue (s : State) (n : Fin 32) : Option (Fin 8 × FireLine) :=
  (List.finRange 8).findSome? fun p => ((s.fir.plane[p]).launched.find? fun l =>
    l.links.any fun k => decide (k.1 = n ∧ diff48 k.2 s.fireTick ≤ 0)).map fun l => (p, l)

/-- A link has done with a launched line; with the last link the line is done (R248, R376). -/
def State.linkDone (s : State) (n : Fin 32) (p : Fin 8) (l : FireLine) : State :=
  let rest := l.links.filter fun k => decide (k.1 ≠ n)
  let s1 := s.modPlane p fun x => { x with launched := (x.launched.map fun y => if y.line = l.line then { y with links := rest } else y).filter fun y => !y.links.isEmpty }
  if rest.isEmpty then s1.closeSig p l.line else s1

/-- The launch deadline of a link comes (R22, R208): its gutter emits the line, or discards it. -/
def execGutterEmit (link : Fin 32) (at_ : Nat) (s : State) : Host.Outcome State Fault Refusal :=
  .next (let t := s.advance at_
    match t.lineDue link with
    | some (p, l) => if t.blkUp .csm && t.clkRuns 0 && t.clkRuns 4 then ((t.gutterLine link p l).linkDone link p l).settleBank link else t
    | none => t)

/-- A link may refill (R215): in RUN with its gate open, its plane printing. -/
def State.refillPlane (s : State) (n : Fin 32) : Option (Fin 8) :=
  if (s.plk.link[n]).st = .run ∧ s.gateOpen n then
    match linkPlane s.liveView n with
    | some p => if s.planePrints p then some p else none
    | none => none
  else none

/-- Refill starts on a SILENT link (R215). -/
def execRefillStart (link : Fin 32) (s : State) : Host.Outcome State Fault Refusal :=
  .next (match s.refillPlane link with
    | some p => if s.csmRuns && decide ((s.csm.link[link]).state = .silent) then
        s.modGutter link fun g => { state := .refilling, f0 := s.fireLine p, taken := s.fireLine p, away := g.away }
      else s
    | none => s)

/-- Web lines that refill of a fire line maps, with their segments, on a link: those at or above 0 and not past a close. -/
def State.refillLines (s : State) (n : Fin 32) (p : Fin 8) (f : Nat) : List (Fin 16 × Seg × Nat) :=
  (linkSegs s.liveView n).filterMap fun g =>
    let m := (f : Int) - g.2.offset
    if m < 0 ∨ s.pastClose p m then none else some (g.1, g.2, m.toNat)

/-- Refill does not read a web line: released, or at or below the seam of a plane that holds (R216). -/
def State.refillBlocked (s : State) (p : Fin 8) (m : Nat) : Bool :=
  s.lineReleased p m || (decide ((s.fir.plane[p]).phase = .hold ∨ (s.fir.plane[p]).phase = .armed) && decide ((m : Int) ≤ (s.fir.plane[p]).seam))

/-- Bands that a blank web line of a plane falls in are missed (R315). -/
def State.spoilBands (s : State) (p : Fin 8) (m : Nat) : State :=
  let f := fun b : Band => if b.mask.getLsbD p && decide (b.first ≤ m ∧ m < b.first + b.count) then { b with spoilt := true } else b
  { s with lop := { s.lop with bands := s.lop.bands.map f } }

/-- Refill fills a slot of a link, unless the gutter has taken a later line into it (R208, R216). -/
def State.fillSlot (s : State) (n : Fin 32) (f : Nat) (ls : List (Nat × Nat)) : State :=
  s.modGutter n fun g => if f + s.gutterDepth < g.taken then g else { g with slots := sparseSet [] g.slots (f % s.gutterDepth) ls }

/-- Refill of one slot (R216): mapped with the live contents, or, where a segment's line cannot be read, marked blank whole and counted (log entry 39). -/
def State.refillSlot (s : State) (n : Fin 32) (p : Fin 8) (f : Nat) : State :=
  let ms := s.refillLines n p f
  if ms.any fun x => s.refillBlocked p x.2.2 then
    let s1 := ms.foldl (fun (t : State) x => t.spoilBands p x.2.2) s
    { s1 with csm := { s1.csm with refillBlank := s1.csm.refillBlank + 1 } }.fillSlot n f []
  else
    let live := s.linkSample ||| BitVec.twoPow 32 n.val
    let cfg := s.reg (planeCfg p)
    let ls := ms.foldl (fun acc x => mergeLevels acc (s.segLevels s.liveView cfg live p n x.1 x.2.1 x.2.2)) []
    (ms.foldl (fun (t : State) x => t.readUnits 1 (t.fetchUnits cfg p x.2.1 x.2.2)) s).fillSlot n f ls

/-- Fire lines below f0 whose slots the delayed row groups of a link need (R215). -/
def State.refillNeeds (s : State) (n : Fin 32) : List Nat :=
  let d := (List.range 16).foldl (fun m r => max m (s.rowDelay s.liveView n r)) 0
  let f0 := (s.csm.link[n]).f0
  (List.range (min d f0)).map fun k => f0 - min d f0 + k

/-- Refill ends: every slot needed is mapped or blank, and the gutter runs (R215, R216). It waits for lines that cannot be read yet. -/
def execRefillDone (link : Fin 32) (s : State) : Host.Outcome State Fault Refusal :=
  .next (match s.refillPlane link with
    | some p =>
      let fs := s.refillNeeds link
      let ready := fs.all fun f => (s.refillLines link p f).all fun x => s.refillBlocked p x.2.2 ||
        (s.lineReadable p x.2.2 && s.unitsServed (s.fetchUnits (s.reg (planeCfg p)) p x.2.1 x.2.2))
      if s.csmRuns && decide ((s.csm.link[link]).state = .refilling) && ready then
        (fs.foldl (fun (t : State) f => t.refillSlot link p f) s).modGutter link fun g =>
          { g with state := .running, joined := false, away := false }
      else s
    | none => s)

/-- Refill gates close (R217): an open one that closes empties its gutter (R215). -/
def State.closeGates (s : State) (v : BitVec 32) : State :=
  let s1 := { s with csm := { s.csm with gate := s.csm.gate ||| v } }
  (List.finRange 32).foldl (fun (t : State) n => if v.getLsbD n.val && s.gateOpen n then t.gutterSilent n else t) s1

/-- A write of CSM_GATE_CLOSE (R217). -/
def execCsmGateCloseWrite (value : Word) (s : State) : Host.Outcome State Fault Refusal :=
  .next (s.onWrite 0x100014 value fun t => t.closeGates value)

/-- Refill gates open (R217). -/
def State.openGates (s : State) (v : BitVec 32) : State := { s with csm := { s.csm with gate := s.csm.gate &&& ~~~v } }

/-- A write of CSM_GATE_OPEN (R217). -/
def execCsmGateOpenWrite (value : Word) (s : State) : Host.Outcome State Fault Refusal :=
  .next (s.onWrite 0x100018 value fun t => t.openGates value)

end Sys2Proof.Machine
end

