-- ==== Sys2Proof/Machine/LockCommands.lean ====
section
/-! DEFINITION. The commands of the lock chambers (chapter 16): LOCK entries, register entries, the check, the apply, and ring locks. -/

namespace Sys2Proof.Machine

/-- The next entry of a ring is LOCK with an action (R95): 1 OPEN, 2 CHECK, 3 ARM, 4 DISCARD. -/
def isLock (action : Nat) (e : Entry) : Bool := decide (e.op = 0x50 ∧ bitsOf e.sub.toNat 4 4 = action)

/-- Chamber that a LOCK entry names. -/
def Entry.chamber (e : Entry) : Fin 4 := Fin.ofNat 4 e.sub.toNat

/-- LOCK OPEN (R336). -/
def execLockOpen (ring : Fin 16) (s : State) : Host.Outcome State Fault Refusal :=
  .next (s.withEntryAt ring (isLock 1) Entry.blocks fun f t =>
    if (t.lck.ch[f.e.chamber]).free then (t.openChamber f.e.chamber).complete f.id stOk 0
    else t.complete f.id stLockState 0)

/-- A CHECK or ARM of an OPEN chamber waits for the pending copies (R336); in another state it completes as LOCK_STATE. -/
def State.askLock (s : State) (f : Flight) (a : LockAsk) : State :=
  let k := f.e.chamber
  if (s.lck.ch[k]).st = .open_ then (s.modChamber k fun d => { d with waiting := d.waiting ++ [a] }).waitFlight f.id
  else s.complete f.id stLockState 0

/-- LOCK CHECK (R336). -/
def execLockCheck (ring : Fin 16) (s : State) : Host.Outcome State Fault Refusal :=
  .next (s.withEntryAt ring (isLock 2) Entry.blocks fun f t => t.askLock f ⟨.entry f.id, false, 0, 0, 0, false⟩)

/-- What a LOCK ARM entry asks for (R338, R342): A0 the kind and the plane, A1 the instant, A2 bit 0 a ring lock. -/
def Entry.armAsk (e : Entry) (id : Nat) : LockAsk :=
  ⟨.entry id, true, e.num 0 % 16, Fin.ofNat 8 (bitsOf (e.num 0) 4 3), e.num 1, (e.a[2]).getLsbD 0⟩

/-- LOCK ARM (R336, R338, R342). -/
def execLockArm (ring : Fin 16) (s : State) : Host.Outcome State Fault Refusal :=
  .next (s.withEntryAt ring (isLock 3) Entry.blocks fun f t => t.askLock f (f.e.armAsk f.id))

/-- LOCK DISCARD (R187, R336). -/
def execLockDiscard (ring : Fin 16) (s : State) : Host.Outcome State Fault Refusal :=
  .next (s.withEntryAt ring (isLock 4) Entry.blocks fun f t =>
    let c := t.lck.ch[f.e.chamber]
    if c.free then t.complete f.id stOk 0
    else if c.used then t.complete f.id stLockState 0
    else (t.discardChamber f.e.chamber).complete f.id stOk 0)

/-- A host write of LCK_CHc_SDATA (R333, R335): it appends the offset last written to SADDR with the value. -/
def State.appendEntry (s : State) (k : Fin 4) (v : Word) : State :=
  s.modChamber k fun d => d.append (s.regField (0x260104 + 0x20 * k.val) 2 22 * 4) v

/-- A host write of LCK_CHc_SDATA (R335). -/
def execLckSdataWrite (chamber : Fin 4) (value : Word) (s : State) : Host.Outcome State Fault Refusal :=
  .next (s.onWrite (0x260108 + 0x20 * chamber.val) value fun t => t.appendEntry chamber value)

/-- The next waiting CHECK or ARM of a chamber starts once no copy is pending (R123, R336). -/
def execChamberCheckStart (chamber : Fin 4) (s : State) : Host.Outcome State Fault Refusal :=
  .next (if s.blkUp .lck then s.startCheck chamber else s)

/-- The check of a chamber ends (R337). -/
def execChamberCheckEnd (chamber : Fin 4) (s : State) : Host.Outcome State Fault Refusal :=
  .next (if s.blkUp .lck then ((s.readStore chamber false).endCheck chamber).settle s else s)

/-- A next-line or time instant has come (R338): the plane launch deadline of the plane's next line at ARM has passed, or the plane is in neither RUN nor CLOSING; the device time has reached A1. -/
def State.instantReached (s : State) (a : LockAsk) : Bool :=
  if a.kind = 2 then decide (s.ticksAhead a.at_ ≤ 0)
  else
    let pl := s.fir.plane[a.plane]
    a.kind == 0 && (!pl.firing || decide (a.at_ < pl.next) ||
      pl.committed.any fun l => decide (l.line = a.at_) && decide (diff48 l.deadline s.fireTick ≤ 0))

/-- The instant of a kind 0 or kind 2 apply comes (R338). -/
def execChamberApplyInstant (chamber : Fin 4) (at_ : Nat) (s : State) : Host.Outcome State Fault Refusal :=
  .next (let t := s.advance at_
    match (t.lck.ch[chamber]).ask with
    | some a => if t.blkUp .lck && t.instantReached a then (t.instantCome chamber).settle t else t
    | none => t)

/-- The apply copy of a chamber's units into the live tables completes (R338). -/
def execChamberApplyCopyDone (chamber : Fin 4) (s : State) : Host.Outcome State Fault Refusal :=
  .next (let c := s.lck.ch[chamber]
    if s.blkUp .lck && decide (c.st = .armed) && c.copying && !c.copied then ((s.readStore chamber true).copyEnded chamber).settle s else s)

/-- A ring lock arrives at a participant (R342): its chamber must be OPEN, else it replies refused. -/
def execLockArmRx (node : BitVec 10) (group : BitVec 8) (chamber : Fin 4) (kind : Fin 4) (plane : Fin 8) (instant : BitVec 64) (s : State) :
    Host.Outcome State Fault Refusal :=
  .next (if s.blkUp .urg && s.blkUp .lck && decide (group = s.group ∧ node ≠ s.node) && s.regBit 0x260000 0 then
    if (s.lck.ch[chamber]).st = .open_ then
      s.modChamber chamber fun d => { d with waiting := d.waiting ++ [⟨.ring node, true, kind.val, plane, instant.toNat, false⟩] }
    else s.ringSend (.lockReply node chamber false)
  else s)

/-- A participant's reply reaches the initiator (R342). -/
def State.lockReplyIn (s : State) (node : BitVec 10) (k : Fin 4) (armed : Bool) : State :=
  match (s.lck.ch[k]).ring with
  | none => s
  | some r =>
    if r.committed || !r.waiting.contains node then s
    else if !armed then s.rejectChamber k 0x11
    else
      let left := r.waiting.filter fun n => decide (n ≠ node)
      let s1 := s.modChamber k fun d => { d with ring := some { r with waiting := left } }
      if left.isEmpty then s1.ringCommit k else s1

/-- A participant's reply reaches the initiator (R342). -/
def execLockReplyRx (node : BitVec 10) (chamber : Fin 4) (armed : Bool) (s : State) : Host.Outcome State Fault Refusal :=
  .next (if s.blkUp .urg && s.blkUp .lck then (s.lockReplyIn node chamber armed).settle s else s)

/-- RING_WAIT ms have passed since a ring lock was sent and a reply is missing (R342). -/
def execRingLockWaitTimeout (chamber : Fin 4) (s : State) : Host.Outcome State Fault Refusal :=
  .next (match (s.lck.ch[chamber]).ring with
    | some r => if !r.committed && s.blkUp .lck then s.rejectChamber chamber 0x11 else s
    | none => s)

/-- The ask of a chamber is a ring lock of a node. -/
def Chamber.isFor (c : Chamber) (node : BitVec 10) : Bool := c.ask.any fun a => decide (a.who = .ring node)

/-- COMMIT at an armed participant (R342): the apply starts, or REJECTED with code PASSED. -/
def State.commitIn (s : State) (k : Fin 4) : State :=
  let s1 := s.modChamber k fun d => { d with held := false }
  match (s.lck.ch[k]).ask with
  | none => s
  | some a => if s.instantPassed (s.lck.ch[k]) a false then s1.rejectChamber k 0x0D else s1.beginApply k

/-- COMMIT reaches a participant (R342). -/
def execLockCommitRx (node : BitVec 10) (chamber : Fin 4) (s : State) : Host.Outcome State Fault Refusal :=
  .next (let c := s.lck.ch[chamber]
    if s.blkUp .urg && s.blkUp .lck && decide (c.st = .armed) && c.held && c.isFor node then (s.commitIn chamber).settle s else s)

/-- ABORT reaches a participant (R342): its armed chamber goes REJECTED with code PEER; a check under way for the lock ends so too, and one that waits is dropped. -/
def execLockAbortRx (node : BitVec 10) (chamber : Fin 4) (s : State) : Host.Outcome State Fault Refusal :=
  .next (let c := s.lck.ch[chamber]
    if !(s.blkUp .urg && s.blkUp .lck) then s
    else if c.isFor node && (decide (c.st = .checking) || c.held) then
      (s.modChamber chamber fun d => { d with ask := none }).rejectChamber chamber 0x11
    else s.modChamber chamber fun d => { d with waiting := d.waiting.filter fun a => decide (a.who ≠ .ring node) })

/-- A ring lock with one participant's outcome taken. -/
def RingLock.outcome (r : RingLock) (node : BitVec 10) (applied : Bool) : RingLock :=
  { r with outcomes := r.outcomes.filter fun n => decide (n ≠ node), failed := r.failed || !applied }

/-- The first lock of a list that waits for a node's outcome takes it. -/
def takeOutcome (node : BitVec 10) (applied : Bool) : List RingLock → List RingLock
  | [] => []
  | r :: t => if r.outcomes.contains node then r.outcome node applied :: t else r :: takeOutcome node applied t

/-- A participant's outcome reaches the initiator (R342). -/
def execLockOutcomeRx (node : BitVec 10) (chamber : Fin 4) (applied : Bool) (s : State) : Host.Outcome State Fault Refusal :=
  .next (let c := s.lck.ch[chamber]
    if !(s.blkUp .urg && s.blkUp .lck) then s
    else if c.ended.any fun r => r.outcomes.contains node then
      ((s.modChamber chamber fun d => { d with ended := takeOutcome node applied d.ended }).ringDone chamber).settle s
    else s.modChamber chamber fun d => { d with ring := d.ring.map fun r => if r.committed then r.outcome node applied else r })

end Sys2Proof.Machine
end

