-- ==== Sys2Proof/Machine/Loops.lean ====
section
/-! DEFINITION. Service bands and the three correction loops (chapter 15, R314 to R330). -/

namespace Sys2Proof.Machine

/-- An exact fraction, not reduced; the denominator is above 0. -/
structure Frac where
  /-- Numerator. -/
  num : Int
  /-- Denominator. -/
  den : Nat
  deriving DecidableEq, Repr

/-- An integer as a fraction. -/
def Frac.ofInt (n : Int) : Frac := ⟨n, 1⟩

/-- Sum. -/
def Frac.add (a b : Frac) : Frac := ⟨a.num * b.den + b.num * a.den, a.den * b.den⟩

/-- Difference. -/
def Frac.sub (a b : Frac) : Frac := ⟨a.num * b.den - b.num * a.den, a.den * b.den⟩

/-- Product with an integer, divided by a number above 0. -/
def Frac.scale (a : Frac) (n : Int) (d : Nat) : Frac := ⟨a.num * n, a.den * d⟩

/-- Sum of a list. -/
def Frac.sum (l : List Frac) : Frac := l.foldl Frac.add (Frac.ofInt 0)

/-- Mean of a list, none of an empty one. -/
def Frac.mean (l : List Frac) : Option Frac := if l.isEmpty then none else some ((Frac.sum l).scale 1 l.length)

/-- The nearest integer, halves up. -/
def Frac.round (a : Frac) : Int := (2 * a.num + a.den) / (2 * a.den)

/-- LOP_DENS_CFG.STEPS, 1 to 8 (R332). -/
def State.densSteps (s : State) : Nat := max 1 (min 8 (s.regField 0x240010 0 4))

/-- PITCH, 4 to 64 (R332). -/
def State.nzPitch (s : State) : Nat := max 4 (min 64 (s.regField 0x240040 0 7))

/-- The band that a SERVICE_BAND entry describes, with LOP's set-up as it stands (R314). -/
def State.bandOf (s : State) (e : Entry) : Band :=
  { kind := e.sub.toNat, first := e.num 0, count := e.num 1 % 2 ^ 32, mask := e.a[1].extractLsb' 32 8
    steps := s.densSteps, margin := 8 * s.regField 0x240010 4 4, stepLines := max 16 (s.regField 0x240010 8 12)
    paper := max 16 (s.regField 0x240010 20 12), pitch := s.nzPitch
    dash := max 4 (s.regField 0x240040 8 8), gap := max 4 (s.regField 0x240040 16 8)
    map := s.mapping, sample := Vector.ofFn s.sampleOf, lines := [], spoilt := false, passedAt := none }

/-- Minimum N of a band (R314). -/
def Band.least (b : Band) : Nat :=
  let p := (planesOf b.mask).length
  if b.kind = 1 then b.paper + p * b.steps * b.stepLines else p * b.pitch * (b.dash + b.gap)

/-- A band that R314 records; any other completes as BAD_ENTRY. -/
def State.bandGood (s : State) (b : Band) : Bool :=
  decide (b.kind = 1 ∨ b.kind = 2) && decide (b.count ≠ 0) && decide (b.mask ≠ 0) &&
  ((planesOf b.mask).all fun p => s.planePrints p && decide (s.printedLine p < b.first)) &&
  (s.lop.bands.all fun x => decide (x.mask &&& b.mask = 0) || !rangesMeet b.first b.count x.first x.count) &&
  decide (b.least ≤ b.count)

/-- A SERVICE_BAND entry that has started is recorded, completes as BAD_ENTRY, or waits while 64 bands are held (R314). -/
def State.admitBand (s : State) (f : Flight) : State :=
  let b := s.bandOf f.e
  if s.bandGood b = false then s.complete f.id stBadEntry 0
  else if 64 ≤ s.lop.bands.length then s.waitFlight f.id
  else { s with lop := { s.lop with bands := s.lop.bands ++ [b] } }.complete f.id stOk 0

/-- SERVICE_BAND (R314). -/
def execServiceBand (ring : Fin 16) (s : State) : Host.Outcome State Fault Refusal :=
  .next (s.withEntryAt ring (fun e => decide (e.op = 0x62)) Entry.blocks fun f t => t.admitBand f)

/-- A SERVICE_BAND of a ring that waits records its band once a slot is free (R314). -/
def execServiceBandAdmit (ring : Fin 16) (s : State) : Host.Outcome State Fault Refusal :=
  .next (match s.hif.flights.find? fun f => decide (f.ring = ring ∧ f.e.op = 0x62 ∧ f.phase = .waiting) with
    | some f => if s.lop.bands.length < 64 then s.admitBand f else s
    | none => s)

/-- The state of one loop on a plane: 0 density, 1 collation, 2 nozzle health (R321). -/
def LoopPlane.phase (l : LoopPlane) (loop : Nat) : LoopPhase :=
  if loop = 0 then l.dens else if loop = 1 then l.coll else l.noz

/-- The same with a new state. -/
def LoopPlane.setPhase (l : LoopPlane) (loop : Nat) (x : LoopPhase) : LoopPlane :=
  if loop = 0 then { l with dens := x } else if loop = 1 then { l with coll := x } else { l with noz := x }

/-- Live gains of a plane's columns that differ from 0 (R321, R326). -/
def State.gainsOf (s : State) (p : Fin 8) : List (Nat × BitVec 8) :=
  s.tables.filterMap fun c =>
    let i := (c.1 - tableKey 0x0011 0) / 2
    if tableKey 0x0011 0 ≤ c.1 ∧ c.1 < tableKey 0x0011 0x80000 ∧ c.1 % 2 = 1 ∧ i / 32768 = p.val then some (i % 32768, c.2) else none

/-- SHIFT of a plane as it stands (R206). -/
def State.shiftNow (s : State) (p : Fin 8) : Int := signed 8 (s.regField (0x100100 + 0x10 * p.val) 0 8)

/-- The baseline of a loop on a plane is taken from the live values and its integrals are 0 (R321). -/
def State.takeBaseline (s : State) (loop : Nat) (p : Fin 8) : State :=
  let gains := s.gainsOf p
  let coll : Int × Int × Int := (s.offset p, s.sigma p, s.shiftNow p)
  s.modLoop p fun l =>
    if loop = 0 then { l with base := gains, integral := [] }
    else if loop = 1 then { l with collBase := coll, wide := none }
    else { l with fails := [] }

/-- Targets of a plane's columns take the live gains (R321). -/
def State.targetsToGains (s : State) (p : Fin 8) : State :=
  let t := tableKey 0x0020 (32768 * p.val)
  let cleared := s.eraseBytes fun a => decide (t ≤ a ∧ a < t + 32768)
  (s.gainsOf p).foldl (fun (u : State) g => u.writeTable 0x0020 (32768 * p.val + g.1) [g.2]) cleared

/-- Action 0 on one plane (R321). -/
def State.runLoop (s : State) (loop : Nat) (p : Fin 8) : State :=
  let go := fun (t : State) => t.modLoop p fun l => l.setPhase loop .run
  let s1 := match (s.lop.plane[p]).phase loop with
    | .off => ((go s).takeBaseline loop p).loopEvent loop p.val 0x01 0
    | .frozen => (go s).modLoop p fun l => { l with selfFrozen := l.selfFrozen &&& ~~~BitVec.twoPow 3 loop }
    | .run => s
  if loop = 1 then s1.placeWindows [p] else s1

/-- Action 1 on one plane (R321). -/
def State.freezeLoop (s : State) (loop : Nat) (p : Fin 8) : State :=
  if (s.lop.plane[p]).phase loop = .run then
    ((s.dropChanges p fun k => decide (k = loop)).modLoop p fun l => l.setPhase loop .frozen).loopEvent loop p.val 0x02 0
  else s

/-- Action 2 on one plane (R321): the state of the loop stays. -/
def State.zeroLoop (s : State) (loop : Nat) (p : Fin 8) : State :=
  let s1 := (s.dropChanges p fun k => decide (k = loop)).takeBaseline loop p
  (if loop = 0 then s1.targetsToGains p else s1).loopEvent loop p.val 0x03 0

/-- A mark of a plane is VALID (R332). -/
def State.hasMark (s : State) (p : Fin 8) : Bool :=
  (List.finRange 64).any fun m => s.regBit (markReg m 0) 0 && decide (s.markPlane m = p)

/-- REF of LOP_CFG (R324). -/
def State.refPlane (s : State) : Fin 8 := Fin.ofNat 8 (s.regField 0x240000 4 3)

/-- A step enters e_c (R323, R332). -/
def State.stepUsed (s : State) (k : Nat) : Bool := s.regBit (0x240014 + 4 * k) 8

/-- Set-up of a loop on a plane is missing (R321). -/
def State.setupMissing (s : State) (loop : Nat) (p : Fin 8) : Bool :=
  if loop = 0 then (s.measuring s.mapping).isEmpty || !(List.range s.densSteps).any s.stepUsed
  else if loop = 1 then !s.hasMark p || !s.hasMark s.refPlane
  else false

/-- Why the firmware declines a LOOP_CTRL (R321). -/
def State.loopRefusal (s : State) (loop : Nat) (ps : List (Fin 8)) : Option Nat :=
  if ps.any fun p => !s.planePrints p then some 0x01
  else if s.standsBy then some 0x02
  else if ps.any (s.setupMissing loop) then some 0x03
  else none

/-- LOOP_CTRL with one action (R95, R321). -/
def State.loopCtrl (s : State) (ring : Fin 16) (action : Nat) (act : Nat → Fin 8 → State → State) : State :=
  s.withEntryAt ring (fun e => decide (e.op = 0x70 ∧ e.num 0 % 256 = action)) Entry.blocks fun f t =>
    let loop := f.e.sub.toNat
    let ps := planesOf (f.e.a[0].extractLsb' 8 8)
    match t.loopRefusal loop ps with
    | some r => t.complete f.id stFwRefused r
    | none => (ps.foldl (fun (u : State) p => act loop p u) t).complete f.id stOk 0

/-- LOOP_CTRL run (R321). -/
def execLoopCtrlRun (ring : Fin 16) (s : State) : Host.Outcome State Fault Refusal :=
  .next (s.loopCtrl ring 0 fun loop p t => t.runLoop loop p)

/-- LOOP_CTRL freeze (R321). -/
def execLoopCtrlFreeze (ring : Fin 16) (s : State) : Host.Outcome State Fault Refusal :=
  .next (s.loopCtrl ring 1 fun loop p t => t.freezeLoop loop p)

/-- LOOP_CTRL zero (R321). -/
def execLoopCtrlZero (ring : Fin 16) (s : State) : Host.Outcome State Fault Refusal :=
  .next (s.loopCtrl ring 2 fun loop p t => t.zeroLoop loop p)

/-- A loop hands over a change: it waits for the loop chamber behind those that wait, and takes it at once where it is free (R322; log entry 166). -/
def State.submitLoop (s : State) (a : LoopApply) : State :=
  { s with lop := { s.lop with waiting := s.lop.waiting ++ [a] } }.admitLoops

/-- A loop acts on a plane: it is in RUN there, on a device that is not a twin standby (R321). -/
def State.loopActs (s : State) (loop : Nat) (p : Fin 8) : Bool := decide ((s.lop.plane[p]).phase loop = .run) && !s.standsBy

/-- One bin of a density band (R316): twice the centre's u in 1/65536 column, paper sum and count, and the sum and count of each step. -/
structure Bin where
  /-- Twice u of the centre, 1/65536 column. -/
  u2 : Int
  /-- Context. -/
  ctx : Fin 16
  /-- Sum and number of the paper values. -/
  paper : Nat × Nat
  /-- Sum and number of each step's values. -/
  steps : List (Nat × Nat)
  deriving DecidableEq, Repr

/-- Sum and number of bin `i`'s values over the taken lines that satisfy a test. -/
def binSum (ls : List BandLine) (i : Nat) (test : Int → Bool) : Nat × Nat :=
  ls.foldl (fun (a : Nat × Nat) l =>
    match l.values[i]? with
    | some v => if test l.line then (a.1 + v, a.2 + 1) else a
    | none => a) (0, 0)

/-- A web line lies in the paper lines of a band (R314, R316). -/
def Band.inPaper (b : Band) (m : Int) : Bool := decide ((b.first : Int) ≤ m) && decide (m < b.first + b.paper)

/-- A web line lies in step k of the plane that is `i`th in the mask, with at least MARGIN lines between it and either edge, as in the worked example of chapter 15 (R314, R316). -/
def Band.inStep (b : Band) (i k : Nat) (m : Int) : Bool :=
  let a : Int := b.first + b.paper + (i * b.steps + k) * b.stepLines
  decide (a + b.margin ≤ m) && decide (m + b.margin < a + b.stepLines)

/-- The bins of a plane in a density band, context by context (R316). -/
def Band.bins (b : Band) (p : Fin 8) (i : Nat) : List Bin :=
  (List.finRange 16).flatMap fun c =>
    let ls := b.lines.filter fun l => decide (l.plane = p ∧ l.ctx = c) && l.taken
    match ls with
    | [] => []
    | l :: _ =>
      let n := ls.foldl (fun k x => max k x.values.length) 0
      (List.range n).map fun j =>
        { u2 := 2 * (b.map[c]).1 + (2 * (l.first + j * l.avg) + l.avg - 1 : Nat) * (b.map[c]).2
          ctx := c, paper := binSum ls j b.inPaper, steps := (List.range b.steps).map fun k => binSum ls j (b.inStep i k) }

/-- D = −log10(r) in 1/1024, rounded to the nearest, for r = a / d with 0 < a ≤ d (R316): the largest D with r^2048 ≤ 10^(1 − 2D). -/
def densityOf (a d : Nat) : Nat :=
  (List.range 14).reverse.foldl (fun x i => if 10 ^ (2 * (x + 2 ^ i) - 1) * a ^ 2048 ≤ d ^ 2048 then x + 2 ^ i else x) 0

/-- Density of a bin for step k: none where the bin is invalid for the step or has no value in it (R316); a step mean of 0 gives a free value. -/
def Bin.density (x : Bin) (draw col k : Nat) : Option Int :=
  let (a, n) := x.steps.getD k (0, 0)
  let (w, m) := x.paper
  if m = 0 ∨ w = 0 ∨ n = 0 ∨ w * n < a * m then none
  else if a = 0 then some (Config.zeroDensity draw col k)
  else some (densityOf (a * m) (w * n))

/-- The bin whose centre is nearest to twice a u, the first of equals. -/
def nearestBin (u2 : Int) : List (Int × Int) → Option (Int × Int)
  | [] => none
  | x :: t => match nearestBin u2 t with
    | none => some x
    | some y => some (if (y.1 - u2).natAbs < (x.1 - u2).natAbs then y else x)

/-- D_c,k (R323): linear between the two valid bins of the column's context whose centres are nearest to c + 0.5; a free value where they do not lie on both sides. -/
def columnDensity (bins : List Bin) (draw c k : Nat) : Option Frac :=
  let u2 : Int := 2 * (c * 65536 + 32768)
  let vs := bins.filterMap fun x => (x.density draw c k).map fun d => (x.u2, d)
  match nearestBin u2 vs with
  | none => none
  | some x =>
    match nearestBin u2 (vs.filter fun y => decide (y.1 ≠ x.1)) with
    | none => some (if x.1 = u2 then Frac.ofInt x.2 else Frac.ofInt (Config.endDensity draw c k))
    | some y =>
      if x.1 = u2 then some (Frac.ofInt x.2)
      else if (x.1 < u2) = (y.1 < u2) then some (Frac.ofInt (Config.endDensity draw c k))
      else
        let lo := if x.1 < y.1 then x else y
        let hi := if x.1 < y.1 then y else x
        some ((Frac.ofInt lo.2).add ⟨(hi.2 - lo.2) * (u2 - lo.1), (hi.1 - lo.1).toNat⟩)

/-- TARGET of density step k; 0 acts as 1 (R332). -/
def State.stepTarget (s : State) (k : Nat) : Nat := max 1 (s.regField (0x240014 + 4 * k) 16 12)

/-- e_c before smoothing (R323): the mean, over the steps with USE that have a density, of (TARGET − D) ÷ TARGET. -/
def State.columnError (s : State) (b : Band) (bins : List Bin) (draw c : Nat) : Option Frac :=
  Frac.mean ((List.range b.steps).filterMap fun k =>
    if s.stepUsed k then (columnDensity bins draw c k).map fun d => ((Frac.ofInt (s.stepTarget k)).sub d).scale 1 (s.stepTarget k) else none)

/-- A column set has a live member (R200), by the links as they stand. -/
def State.columnLive (s : State) (id : Nat) : Bool :=
  (List.range 4).any fun k => slotLive s.liveView s.collapse s.linkSample (slotWord s.liveView id k)

/-- The integral of a column (R323). -/
def LoopPlane.integralOf (l : LoopPlane) (c : Nat) : Int := sparseGet 0 l.integral c

/-- The new target of a column, its integral, and whether STEP or LIMIT held it (R323). -/
def State.nextTarget (s : State) (p : Fin 8) (c : Nat) (e : Frac) : Int × Int × Bool × Bool :=
  let l := s.lop.plane[p]
  let base := (sparseGet (0 : Byte) l.base c).toInt
  let i := (Frac.ofInt (l.integralOf c)).add (e.scale (2 * s.regField 0x240050 0 8) 1)
  let want := base + i.round
  let prev := (s.targetOf (32768 * p.val + c)).toInt
  let step : Int := max 1 (s.regField 0x240050 8 4)
  let lim : Int := max 1 (s.regField 0x240050 16 7)
  let a := clampInt (prev - step) (prev + step) want
  let t := clampInt (-lim) lim a
  (t, t - base, decide (a ≠ want), decide (t ≠ a))

/-- One column of a density update (R323): its integral and limiting counts; the target is written by the caller. A column held at LIMIT writes CLAMPED. -/
def State.densColumn (s : State) (p : Fin 8) (c : Nat) (e : Frac) : (Nat × BitVec 8) × State :=
  let (t, i, stepped, clamped) := s.nextTarget p c e
  let s1 := s.modLoop p fun l => { l with integral := sparseSet 0 l.integral c i }
  let s2 := if stepped then { s1 with lop := { s1.lop with stepLimited := satInc s1.lop.stepLimited } } else s1
  let s3 := if clamped then { s2 with lop := { s2.lop with clamped := satInc s2.lop.clamped } }.loopEvent 0 p.val 0x10 c else s2
  ((32768 * p.val + c, BitVec.ofInt 8 t), s3)

/-- The density loop on one plane of a measured band (R323); in a twin pair its targets go through a ring lock (R386). -/
def State.densPlane (s : State) (b : Band) (p : Fin 8) (bins : List Bin) (draw : Nat) : State :=
  let raw := (List.range 32768).filterMap fun c =>
    match s.columnCtx b.map c with
    | none => none
    | some x =>
      let mine := bins.filter fun y => decide (y.ctx = x)
      if mine.isEmpty || !s.columnLive (32768 * p.val + c) then none else (s.columnError b mine draw c).map fun e => (c, e)
  let smooth := s.regField 0x240050 24 8
  let errs := if smooth = 0 then raw else raw.filterMap fun x =>
    (Frac.mean ((raw.filter fun y => decide (x.1 ≤ y.1 + smooth ∧ y.1 ≤ x.1 + smooth)).map Prod.snd)).map fun e => (x.1, e)
  let (ts, s1) := errs.foldl (fun (a : List (Nat × BitVec 8) × State) x =>
    let r := a.2.densColumn p x.1 x.2
    (a.1 ++ [r.1], r.2)) ([], s)
  if ts.isEmpty then s1
  else if s1.twn.role = .single then s1.targetsLive ts
  else s1.submitLoop ⟨0, BitVec.ofNat 8 (2 ^ p.val), [], [], ts⟩

/-- LOP_PLp_WHITE takes the mean paper value over the plane's bins (R316). -/
def State.takeWhite (s : State) (p : Fin 8) (bins : List Bin) : State :=
  match Frac.mean (bins.filterMap fun x => if x.paper.2 = 0 then none else some ⟨x.paper.1, x.paper.2⟩) with
  | none => s
  | some w => s.modLoop p fun l => { l with white := some (w.num / w.den).toNat }

/-- A DENSITY band is measured (R316, R323). -/
def State.measureDensity (s : State) (b : Band) : State :=
  let d := s.draw
  ((planesOf b.mask).zipIdx).foldl (fun (t : State) (x : Fin 8 × Nat) =>
    let bins := b.bins x.1 x.2
    let t1 := t.takeWhite x.1 bins
    if t1.loopActs 0 x.1 then t1.densPlane b x.1 bins d.1 else t1) d.2

/-- Class of a dash (R319). -/
inductive DashClass | ok | deviated | weak | missing
  deriving DecidableEq, Repr

/-- The free class of a dash whose quotients are not stated. -/
def unknownDash (draw id : Nat) : DashClass :=
  match (Config.dashUnknown draw id).val with
  | 0 => .ok
  | 1 => .deviated
  | 2 => .weak
  | _ => .missing

/-- First line of the dashes of row r of the plane that is `i`th in the mask (R314). -/
def Band.rowStart (b : Band) (i r : Nat) : Nat := b.first + (i * b.pitch + r) * (b.dash + b.gap)

/-- Pixels of a line whose centres lie within PITCH ÷ 2 columns of a column's centre: camera pixel and sample (R319). -/
def Band.dashPixels (b : Band) (l : BandLine) (c : Nat) : List (Nat × Nat) :=
  (l.values.zipIdx).filterMap fun x =>
    let k := l.first + x.2
    let d := (b.map[l.ctx]).1 + k * (b.map[l.ctx]).2 - (c * 65536 + 32768 : Nat)
    if 2 * d.natAbs ≤ b.pitch * 65536 then some (k, x.1) else none

/-- Put a camera line into a list in order of the web line, behind those of the same one. -/
def insertLine (l : BandLine) : List BandLine → List BandLine
  | [] => [l]
  | x :: t => if l.line < x.line then l :: x :: t else x :: insertLine l t

/-- The camera lines of a context that cover some web lines, in order of the web line. -/
def Band.linesIn (b : Band) (p : Fin 8) (x : Fin 16) (from_ n : Nat) : List BandLine :=
  (b.lines.filter fun l => decide (l.plane = p ∧ l.ctx = x ∧ (from_ : Int) ≤ l.line ∧ l.line < (from_ : Int) + (n : Int)) && l.taken).foldl
    (fun (o : List BandLine) l => insertLine l o) []

/-- The class of the dash of plane p, row r, column c (R319); none where no line or no gap line shows it. A paper reference of 0, and a darkness of 0 where WEAK is 0, leave the class free. -/
def State.dashClass (s : State) (b : Band) (p : Fin 8) (i r c : Nat) (x : Fin 16) (draw : Nat) : Option DashClass :=
  let start := b.rowStart i r
  let ls := ((b.linesIn p x start b.dash).drop 1).dropLast
  let gs := b.linesIn p x (start + b.dash) b.gap
  let px := ls.flatMap fun l => b.dashPixels l c
  let gp := gs.flatMap fun l => b.dashPixels l c
  let g : Int := gp.foldl (fun n y => n + (y.2 : Int)) 0
  let ng : Int := gp.length
  let du : Int := (b.map[x]).2
  if px.isEmpty || gp.isEmpty then none
  else
    let dark : Int := px.foldl (fun n y => n + (g - ng * y.2)) 0
    let moment : Int := px.foldl (fun n y => n + (g - ng * y.2) * y.1) 0
    let weak := s.regField 0x240044 0 8
    let missing := min weak (s.regField 0x240044 8 8)
    let dev := s.regField 0x240044 16 8
    let d : Int := dark * du * 256
    let unit : Int := ls.length * g * 65536
    if g = 0 then some (unknownDash draw (32768 * p.val + c))
    else if (weak : Int) * unit ≤ d then
      if dark = 0 then some (unknownDash draw (32768 * p.val + c))
      else
        let off := ((b.map[x]).1 - (c * 65536 + 32768 : Nat)) * dark + du * moment
        some (if off.natAbs ≤ dev * 4096 * dark.natAbs then .ok else .deviated)
    else some (if (missing : Int) * unit ≤ d then .weak else .missing)

/-- The links that the mapper sampled for a fire line of a plane (R200, R320). -/
def State.sampleAt (s : State) (p : Fin 8) (f : Int) : BitVec 32 :=
  ((s.csm.samples[p].find? fun x => decide ((x.1 : Int) ≤ f)).map Prod.snd).getD 0

/-- A link sent a fire line of the job (R320). -/
def State.linkSent (s : State) (n : Fin 32) (f : Int) : Bool :=
  (s.csm.link[n]).sent.any fun r => decide ((r.1 : Int) ≤ f ∧ f ≤ (r.2 : Int))

/-- Slot k of a column printed web line m locally (R202, R320): chosen with the sample of its segment's fetch, its link in that sample, and in RUN as the line's row group fired it. -/
def State.slotPrinted (s : State) (p : Fin 8) (c k m : Nat) : Bool :=
  let id := 32768 * p.val + c
  let w := slotWord s.liveView id k
  let n : Fin 32 := Fin.ofNat 32 (w % 2 ^ 18 / 8192)
  let cfg := (s.reg (0x100100 + 0x10 * p.val)).toNat
  match segOf s.liveView n (w % 8192) with
  | none => false
  | some g =>
    let live := s.sampleAt p ((m : Int) + g.2.offset)
    w.testBit 18 && !w.testBit 20 && live.getLsbD n.val &&
    s.linkSent n ((m : Int) + g.2.offset + s.rowDelay s.liveView n (rowGroup s.liveView n (w % 8192))) &&
    decide (chosenSlot s.liveView s.collapse live id ((c + bitsOf cfg 8 6) % 64) ((m + bitsOf cfg 16 6) % 64) = some k)

/-- The slot that printed every line of a dash, with its channel (R320); none for a MIXED dash. -/
def State.dashChannel (s : State) (b : Band) (p : Fin 8) (i r c : Nat) : Option (Nat × Nat) :=
  ((List.range 4).find? fun k => (List.range b.dash).all fun j => s.slotPrinted p c k (b.rowStart i r + j)).map fun k =>
    (k, slotWord s.liveView (32768 * p.val + c) k % 2 ^ 18)

/-- The classed dashes of a plane: column, slot and channel where attributed, class (R319, R320). Columns with no VALID slot print none. -/
def State.dashes (s : State) (b : Band) (p : Fin 8) (i draw : Nat) : List (Nat × Option (Nat × Nat) × DashClass) :=
  (List.range 32768).filterMap fun c =>
    if (List.range 4).any fun k => (slotWord s.liveView (32768 * p.val + c) k).testBit 18 then
      (s.columnCtx b.map c).bind fun x =>
        (s.dashClass b p i (c % b.pitch) c x draw).map fun d => (c, s.dashChannel b p i (c % b.pitch) c, d)
    else none

/-- Fail counts after the attributed dashes of a band (R325). -/
def failCounts (fails : List (Nat × Nat)) (ds : List (Nat × DashClass)) : List (Nat × Nat) :=
  ds.foldl (fun m x => sparseSet 0 m x.1 (match x.2 with
    | .missing | .deviated => sparseGet 0 m x.1 + 1
    | .ok | .weak => 0)) fails

/-- Column-set slots that hold a channel locally with ACTIVE set, outside those staged already (R325, R330). -/
def State.slotsOf (s : State) (ch : Nat) (staged : List (Nat × Nat)) : List (Nat × Nat) :=
  (List.range 262144).flatMap fun id => (List.range 4).filterMap fun k =>
    let w := slotWord s.liveView id k
    if namesChannel w ch && w.testBit 19 && !staged.contains (id, k) then some (id, k) else none

/-- Slots that a removal apply of the nozzle-health loop has staged and that are not live yet (R330). -/
def State.stagedClears (s : State) : List (Nat × Nat) :=
  let c := s.lck.ch[s.loopChamber]
  let ours := (match c.ask with | some a => (match a.who with | .loop 2 _ => true | _ => false) | none => false) ||
    c.waiting.any fun a => match a.who with | .loop 2 _ => true | _ => false
  (s.lop.waiting.flatMap LoopApply.clears) ++
  (if ours && !c.free then
    (List.range 262144).flatMap fun id => (List.range 4).filterMap fun k =>
      if (slotWord s.liveView id k).testBit 19 && !(slotWord (s.stagedView c) id k).testBit 19 then some (id, k) else none
  else [])

/-- The slots to clear, LAST_MEMBER for those kept as the last live member of their columns (R325); `left` bounds the slots of the apply. -/
def State.pickClears (s : State) (staged : List (Nat × Nat)) : List (Nat × Nat) → Nat → List (Nat × Nat) → List (Nat × Nat) × State
  | [], _, out => (out, s)
  | x :: t, left, out =>
    let gone := staged ++ out
    let others := (List.range 4).any fun k =>
      decide (k ≠ x.2) && !gone.contains (x.1, k) && slotLive s.liveView s.collapse s.linkSample (slotWord s.liveView x.1 k)
    if !others && slotLive s.liveView s.collapse s.linkSample (slotWord s.liveView x.1 x.2) then
      (s.loopEvent 2 (x.1 / 32768) 0x24 (x.1 % 32768)).pickClears staged t left out
    else match left with
      | 0 => s.pickClears staged t 0 out
      | n + 1 => s.pickClears staged t n (out ++ [x])

/-- The nozzle-health loop on one plane of a measured band (R325). -/
def State.nozPlane (s : State) (p : Fin 8) (ds : List (Nat × Option (Nat × Nat) × DashClass)) : State :=
  let known := ds.filterMap fun x => x.2.1.map fun y => (y.2, x.2.2)
  let missing := ((known.filter fun x => decide (x.2 = .missing)).map Prod.fst).eraseDups
  let implaus := max 1 (s.regField 0x24005C 16 16)
  match (List.finRange 32).find? fun n => decide (implaus ≤ (missing.filter fun ch => decide (ch / 8192 = n.val)).length) with
  | some n => s.selfFreeze 2 p n.val
  | none =>
    let weak := (known.filter fun x => decide (x.2 = .weak)).length
    let fails := failCounts (s.lop.plane[p]).fails known
    let s1 := { s with lop := { s.lop with weak := (List.range weak).foldl (fun (c : BitVec 32) _ => satInc c) s.lop.weak } }.modLoop p
      fun l => { l with fails := fails }
    let staged := s1.stagedClears
    let bad := (fails.filter fun x => decide (max 1 (s.regField 0x24005C 0 4) ≤ x.2)).flatMap fun x => s1.slotsOf x.1 staged
    let (out, s2) := s1.pickClears staged bad (max 1 (s.regField 0x24005C 8 8)) []
    if out.isEmpty then s2 else s2.submitLoop ⟨2, BitVec.ofNat 8 (2 ^ p.val), [], out, []⟩

/-- A NOZZLE band is measured (R319, R320, R325): MIXED dashes are counted for every plane, the loop acts on the planes in RUN. -/
def State.measureNozzle (s : State) (b : Band) : State :=
  let d := s.draw
  ((planesOf b.mask).zipIdx).foldl (fun (t : State) (x : Fin 8 × Nat) =>
    let ds := t.dashes b x.1 x.2 d.1
    let mixed := (ds.filter fun y => y.2.1.isNone).length
    let t1 : State := { t with lop := { t.lop with mixed := (List.range mixed).foldl (fun (c : BitVec 32) _ => satInc c) t.lop.mixed } }
    if t1.loopActs 2 x.1 then t1.nozPlane x.1 ds else t1) d.2

/-- The tag lines of the contexts that cover a band's planes have passed its last line (R315). -/
def State.bandPassed (s : State) (b : Band) : Bool :=
  let cs := s.measuring b.map
  !cs.isEmpty && cs.all fun c => match (s.cam.ctx[c]).lastTag with
    | none => false
    | some r => (planesOf b.mask).all fun p => match s.webLine r p with
      | none => false
      | some m => decide ((b.first + b.count : Nat) ≤ m)

/-- Why a band that has been passed is discarded, in the order of R315; none where it is measured. -/
def State.bandReason (s : State) (b : Band) : Option Nat :=
  let taken := (b.lines.filter BandLine.taken).length
  if taken = 0 ∨ 10 * taken < 9 * b.lines.length then some 1
  else if b.spoilt then some 2
  else if (planesOf b.mask).any fun p => ((s.lop.plane[p]).skipped).any fun g =>
      decide (g.1 < b.first + b.count) && decide ((b.first : Int) ≤ g.2) then some 3
  else none

/-- A band leaves LOP (R314). -/
def State.dropBand (s : State) (b : Band) : State := { s with lop := { s.lop with bands := s.lop.bands.erase b } }

/-- A band is measured or discarded (R315). -/
def State.measureBand (s : State) (b : Band) : State :=
  let s1 := s.dropBand b
  match s.bandReason b with
  | some r => s1.missBand b r
  | none =>
    let s2 := { s1 with lop := { s1.lop with done := s1.lop.done + 1 } }
    if b.kind = 1 then s2.measureDensity b else s2.measureNozzle b

/-- The oldest band that its cameras have passed is measured or discarded (R315). -/
def execBandMeasure (s : State) : Host.Outcome State Fault Refusal :=
  .next (match s.lop.bands.find? s.bandPassed with
    | some b => if s.blkUp .lop then s.measureBand b else s
    | none => s)

/-- 10 s after W_p has passed the end of the oldest such band it is discarded with reason 4 (R315). -/
def execBandMissedTimeout (at_ : Nat) (s : State) : Host.Outcome State Fault Refusal :=
  .next (let t := s.advance at_
    match t.lop.bands.find? fun b => match b.passedAt with | some u => decide (u + 20000000000 ≤ t.now) | none => false with
    | some b => (t.dropBand b).missBand b 4
    | none => t)

/-- Mean of a mark error over the instances of a plane in this cycle (R324). -/
def meanOf (ms : List Mark) (p : Fin 8) (f : Mark → Int) : Option Frac :=
  Frac.mean ((ms.filter fun m => decide (m.plane = p)).map fun m => Frac.ofInt (f m))

/-- A limited change of a value about its baseline (R324): the new value, whether the step was limited, whether the total was. -/
def limited (old base change step total : Int) : Int × Bool × Bool :=
  let a := old + clampInt (-step) step change
  let b := clampInt (base - total) (base + total) a
  (b, decide (change.natAbs > step.natAbs), decide (b ≠ a))

/-- What the collation loop does for one plane in a cycle (R324): register entries, the plane's new residues and cross-web history, limiting, and a new SHIFT. -/
structure CollStep where
  /-- Register entries. -/
  entries : List (Nat × BitVec 32)
  /-- E_y and E_x in 1/256, where the cycle gives them. -/
  err : Option (Int × Int)
  /-- |E_x| reached 0.75 column, its sign positive. -/
  wide : Option Bool
  /-- A change was limited per apply. -/
  stepped : Bool
  /-- A change was limited in total. -/
  clamped : Bool
  /-- The new SHIFT. -/
  shift : Option Int
  deriving DecidableEq, Repr

/-- Along-web part for one plane: o_p changes by −KY ÷ 256 × E_y (R324). -/
def State.collAlong (s : State) (p : Fin 8) (ey : Frac) : Int × Bool × Bool :=
  let base := (s.lop.plane[p]).collBase.1
  limited (s.offset p) base (ey.scale (-(s.regField 0x240054 0 8 : Int)) 1).round (256 * max 1 (min 64 (s.regField 0x240054 16 8)) : Nat)
    (65536 * s.regField 0x240058 0 8 : Nat)

/-- Roller of a plane for the stretch correction (R324). -/
def State.roller (s : State) (p : Fin 8) : Option (Fin 8) :=
  if s.regBit (lopReg p 0) 7 then some (Fin.ofNat 8 (s.regField (lopReg p 0) 4 3)) else none

/-- Stretch part for one plane: σ_p changes by KS ÷ 256 × E_s (R324). -/
def State.collStretch (s : State) (p : Fin 8) : Option (Int × Bool × Bool) :=
  match s.roller p, s.roller s.refPlane with
  | some a, some b =>
    let es := (s.pos.ch[a]).stretch - (s.pos.ch[b]).stretch - (s.sigma p - s.sigma s.refPlane)
    some (limited (s.sigma p) (s.lop.plane[p]).collBase.2.1 (Frac.round ⟨es * s.regField 0x240054 8 8, 256⟩)
      (100 * max 1 (s.regField 0x240054 24 8) : Nat) (100 * min 5000 (s.regField 0x240058 8 12) : Nat))
  | _, _ => none

/-- Cross-web part for one plane: SHIFT moves by a column against the sign of E_x after two wide cycles (R324), within R206's ±64. -/
def State.collCross (s : State) (p : Fin 8) (ex : Frac) : Option Bool × Option (Int × Bool) :=
  let positive := decide (0 < ex.num)
  if 3 * (ex.den : Int) * 256 ≤ 4 * ex.num.natAbs then
    match (s.lop.plane[p]).wide with
    | none => (some positive, none)
    | some _ =>
      let base := (s.lop.plane[p]).collBase.2.2
      let lim : Int := s.regField 0x240058 20 4
      let want := s.shiftNow p + (if positive then -1 else 1)
      let x := clampInt (-64) 64 (clampInt (base - lim) (base + lim) want)
      (none, some (x, decide (x ≠ want)))
  else (none, none)

/-- The register entries of a CollStep, for values that change. -/
def State.collEntries (s : State) (p : Fin 8) (o : Option Int) (st : Option Int) (sh : Option Int) : List (Nat × BitVec 32) :=
  let ofs := 0x160104 + 0x40 * p.val
  let str := 0x160108 + 0x40 * p.val
  let csm := 0x100100 + 0x10 * p.val
  (match o with | some x => if x = s.offset p then [] else [(ofs, BitVec.ofInt 32 x)] | none => []) ++
  (match st with | some x => if x = s.sigma p then [] else [(str, BitVec.ofInt 32 x)] | none => []) ++
  (match sh with | some x => if x = s.shiftNow p then [] else [(csm, putBits (s.reg csm) 0 8 (unsigned 8 x))] | none => [])

/-- One plane's part of a collation cycle (R324). -/
def State.collPlane (s : State) (ms : List Mark) (p : Fin 8) : CollStep :=
  let diff := fun f : Mark → Int => match meanOf ms p f, meanOf ms s.refPlane f with
    | some a, some b => some (a.sub b)
    | _, _ => none
  let along := (diff Mark.ey).map (s.collAlong p)
  let cross := (diff Mark.ex).map (s.collCross p)
  let stretch := s.collStretch p
  let flags := fun (o : Option (Int × Bool × Bool)) => (o.map Prod.snd).getD (false, false)
  let shift := cross.bind Prod.snd
  { entries := s.collEntries p (along.map Prod.fst) (stretch.map Prod.fst) (shift.map Prod.fst)
    err := match diff Mark.ey, diff Mark.ex with
      | some y, some x => some (y.round, x.round)
      | _, _ => none
    wide := (cross.map Prod.fst).getD none
    stepped := (flags along).1 || (flags stretch).1
    clamped := (flags along).2 || (flags stretch).2 || (shift.map Prod.snd).getD false
    shift := (shift.map Prod.fst).bind fun x => if x = s.shiftNow p then none else some x }

/-- The records, counts and residues of one plane's part of a cycle (R324, R329). -/
def State.collNote (s : State) (p : Fin 8) (c : CollStep) : State :=
  let s1 := s.modLoop p fun l => { l with
    wide := c.wide, errY := (c.err.map Prod.fst).getD l.errY, errX := (c.err.map Prod.snd).getD l.errX }
  let s2 := if c.stepped then { s1 with lop := { s1.lop with stepLimited := satInc s1.lop.stepLimited } }.loopEvent 1 p.val 0x11 0 else s1
  let s3 := if c.clamped then { s2 with lop := { s2.lop with clamped := satInc s2.lop.clamped } }.loopEvent 1 p.val 0x10 0 else s2
  match c.shift with
  | some x => s3.loopEvent 1 p.val 0x18 (unsigned 16 x)
  | none => s3

/-- Host writes of mark registers that waited for the next cycle of their loops apply (R332), and the windows follow (R317). -/
def State.applyMarks (s : State) : State :=
  let s1 := s.lop.later.foldl (fun (t : State) w => t.hostWrite w.1 w.2) { s with lop := { s.lop with later := [] } }
  if s.lop.later.isEmpty then s1 else s1.placeWindows ((List.finRange 8).filter fun p => decide ((s1.lop.plane[p]).coll = .run))

/-- A cycle of the collation loop (R324): every plane in RUN but REF, one change through the chamber for all of them. -/
def State.collCycle (s : State) : State :=
  let ms := s.lop.marks
  let s0 := { s with lop := { s.lop with marks := [] } }
  if ms.isEmpty then s0
  else
    let ps := (List.finRange 8).filter fun p => s.loopActs 1 p && decide (p ≠ s.refPlane)
    let steps := ps.map fun p => (p, s0.collPlane ms p)
    let s1 := steps.foldl (fun (t : State) x => t.collNote x.1 x.2) s0
    let hit := steps.filter fun x => !x.2.entries.isEmpty
    if hit.isEmpty then s1 else s1.submitLoop ⟨1, maskOf (hit.map Prod.fst), hit.flatMap fun x => x.2.entries, [], []⟩

/-- CYCLE × 10 ms have passed (R324). -/
def execCollationCycle (s : State) : Host.Outcome State Fault Refusal :=
  .next (if s.blkUp .lop then s.applyMarks.collCycle else s)

/-- A change of a loop has waited 1 s for its chamber: CHAMBER_BUSY, and it is dropped (R322). -/
def execChamberBusyTimeout (loop : Fin 3) (s : State) : Host.Outcome State Fault Refusal :=
  .next (match s.lop.waiting.find? fun a => decide (a.loop = loop.val) with
    | none => s
    | some a =>
      (planesOf a.planes).foldl (fun (t : State) p => t.loopEvent loop.val p.val 0x32 0)
        { s with lop := { s.lop with waiting := s.lop.waiting.erase a } })

end Sys2Proof.Machine
end

