-- ==== Sys2Proof/Machine/PowerCommands.lean ====
section
/-! DEFINITION. The commands of reset, bring-up and sleep (chapter 03), of the configuration space and the BARs (chapters 01, 05), of the interlock pins (02) and of the clocks (04). -/

namespace Sys2Proof.Machine

/-- The rails of AON fall below their thresholds (R53, R56): the power-on source asserts and clears what only it clears. -/
def execPowerOnAssert (s : State) : Host.Outcome State Fault Refusal :=
  .next { s with
    rst := { s.rst with por := true, cause := 1, therm := false, osc := false, otp := {} }
    pins := { s.pins with thermtrip := false }
    clk := { s.clk with lock := 0 } }.settleResets

/-- 10 ms after the AON rails have passed their thresholds and the oscillator has started (R53). -/
def execPowerOnRelease (s : State) : Host.Outcome State Fault Refusal :=
  .next (if s.rst.osc then { s with rst := { s.rst with por := false } }.settleResets else s)

/-- A monitored rail has dipped (R53, R55). -/
def execRailDipDetect (s : State) : Host.Outcome State Fault Refusal :=
  .next ({ s with rst := { s.rst with rail := true } }.noteCause 1).settleResets

/-- Every monitored rail has been good for 1 ms (R53). -/
def execRailRecoverRelease (s : State) : Host.Outcome State Fault Refusal :=
  .next { s with rst := { s.rst with rail := false } }.settleResets

/-- RESET_N has been low for 1 µs (R55). -/
def execResetNAssert (s : State) : Host.Outcome State Fault Refusal :=
  .next ({ s with rst := { s.rst with resetN := true } }.noteCause 2).settleResets

/-- The device wakes (R70, R71): `bit` is its bit of RST_WAKE, none for RESET_N at L1. PCIE_WAKE_N goes low on a wake other than PCIE_PERST_N; the balls that sleep held as configured return to their pull-ups (log entry 146). -/
def State.wakeUp (s0 : State) (bit : Option Nat) : State :=
  let s := s0.followPerst.pullBalls
  { s with rst := { s.rst with
      asleep := false, enter := false, sleep := .awake
      wakeN := s.rst.wakeN || decide (bit ≠ some 0)
      wake := match bit with | some b => s.rst.wake ||| BitVec.ofNat 4 (2 ^ b) | none => s.rst.wake } }.settleResets

/-- A wake event (R70, R71): it wakes a sleeping device, and abandons a sleep entry under way. -/
def State.wakeEvent (s : State) (bit : Nat) : State :=
  if s.rst.asleep then s.wakeUp (some bit)
  else if s.rst.sleep = .draining ∨ s.rst.sleep = .ready then { s with rst := { s.rst with enter := false, sleep := .awake } }
  else s

/-- RESET_N returns high (R55); asserted in sleep at L1, the device wakes on its release (R71). -/
def execResetNRelease (s : State) : Host.Outcome State Fault Refusal :=
  let s1 := { s with rst := { s.rst with resetN := false } }
  .next (if s1.rst.asleep && decide (s1.rst.otp.reachResetN = 1) && s.rst.resetN then s1.wakeUp none else s1.settleResets)

/-- The device enters sleep (R68, R70): HELLO with SLEEP on both ring ports, which go to the low rate (R354); time locked to PTP becomes unlocked; the Ethernet port that KEEP_ETH does not name loses its link. -/
def State.enterSleep (s : State) : State :=
  let s1 := (s.hopSend 0 (.hello s.node true)).hopSend 1 (.hello s.node true)
  { s1 with
    rst := { s1.rst with asleep := true, perst := false, d3hot := false, pcieUp := false }
    urg := { s1.urg with port := s1.urg.port.map fun (p : RingPort) => { p with low := true } }
    tim := { s1.tim with
      state := if s1.regField 0x280000 0 2 = 1 then .free else s1.tim.state
      ethLink := s1.tim.ethLink.set (1 - s1.keptEth) false } }.settleResets

/-- PCIE_PERST_N goes low (R55, R70): ignored in sleep; in READY it starts sleep. -/
def execPciePerstAssert (s : State) : Host.Outcome State Fault Refusal :=
  let s1 := { s with rst := { s.rst with perstLow := true } }
  .next (if s.rst.asleep then s1
    else if s.rst.sleep = .ready then s1.enterSleep
    else ({ s1 with rst := { s1.rst with perst := true } }.noteCause 3).settleResets)

/-- PCIE_PERST_N goes high (R55, R64, R71). -/
def execPciePerstDeassert (s : State) : Host.Outcome State Fault Refusal :=
  let s1 := { s with rst := { s.rst with perstLow := false, perst := false } }
  let s2 := if s.rst.asleep then s1.wakeUp (some 0) else (s1.wakeEvent 0).settleResets
  .next { s2 with rst := { s2.rst with wakeN := false } }

/-- The control cores have not served their watchdog for 100 ms (R44, R55). -/
def execWatchdogExpiry (s : State) : Host.Outcome State Fault Refusal :=
  .next (if s.blkUp .cores then
    ({ s with rst := { s.rst with wdog := true, wdogMissed := true } }.noteCause 5).settleResets
  else s)

/-- 100 µs later the watchdog source lets go (R55). -/
def execWatchdogSourceRelease (s : State) : Host.Outcome State Fault Refusal :=
  .next { s with rst := { s.rst with wdog := false, wdogMissed := false } }.settleResets

/-- BAR0 offset of RST_BLOCK. -/
def rstBlockReg : Nat := 0x10010

/-- BLOCK_HOLD takes a value (R72); new holds set RST_CAUSE.SOFT. -/
def State.holdBlocks (s : State) (hold : BitVec 12) : State :=
  let s1 := { s with rst := { s.rst with blockHold := hold } }
  (if hold &&& ~~~s.rst.blockHold = 0 then s1 else s1.noteCause 7).settleResets

/-- DATA_HOLD takes a value (R72). -/
def State.holdData (s : State) (hold : Bool) : State :=
  let s1 := { s with rst := { s.rst with dataHold := hold } }
  (if hold && !s.rst.dataHold then s1.noteCause 7 else s1).settleResets

/-- CTRL_HOLD takes a value (R72). -/
def State.holdCtrl (s : State) (hold : Bool) : State :=
  let s1 := { s with rst := { s.rst with ctrlHold := hold } }
  (if hold && !s.rst.ctrlHold then s1.noteCause 7 else s1).settleResets

/-- LINK_HOLD takes a value (R72); new holds set RST_CAUSE.LINK. -/
def State.holdLinks (s : State) (hold : BitVec 32) : State :=
  let s1 := { s with rst := { s.rst with linkHold := hold } }
  (if hold &&& ~~~s.rst.linkHold = 0 then s1 else s1.noteCause 8).settleResets

/-- RST_BLOCK as it would be written with its three fields. -/
def rstBlockWord (b : BitVec 12) (d c : Bool) : Word := b.setWidth 32 ||| BitVec.ofNat 32 (65536 * d.toNat + 131072 * c.toNat)

/-- A host write of RST_BLOCK.BLOCK_HOLD (R72). -/
def execRstBlockHoldWrite (hold : BitVec 12) (s : State) : Host.Outcome State Fault Refusal :=
  .next (s.onWrite rstBlockReg (rstBlockWord hold s.rst.dataHold s.rst.ctrlHold) fun t => t.holdBlocks hold)

/-- A host write of RST_BLOCK.DATA_HOLD (R72). -/
def execRstDataHoldWrite (hold : Bool) (s : State) : Host.Outcome State Fault Refusal :=
  .next (s.onWrite rstBlockReg (rstBlockWord s.rst.blockHold hold s.rst.ctrlHold) fun t => t.holdData hold)

/-- A host write of RST_BLOCK.CTRL_HOLD (R72). -/
def execRstCtrlHoldWrite (hold : Bool) (s : State) : Host.Outcome State Fault Refusal :=
  .next (s.onWrite rstBlockReg (rstBlockWord s.rst.blockHold s.rst.dataHold hold) fun t => t.holdCtrl hold)

/-- A host write of RST_LINK (R72). -/
def execRstLinkWrite (hold : BitVec 32) (s : State) : Host.Outcome State Fault Refusal :=
  .next (s.onWrite 0x10014 hold fun t => t.holdLinks hold)

/-- The wrapper of an isolating unit is empty (R57). -/
def execIsolationDrained (unit : ResetUnit) (s : State) : Host.Outcome State Fault Refusal :=
  .next (if s.unitState unit = .isolating then (s.setUnit unit .inReset).settleResets else s)

/-- What a unit's release sets going (R57, R58, R287): a domain releases its blocks one by one, a block or link held alone is released whole; AON's release ends stage 1 (R64). -/
def State.releaseUnit (s : State) (unit : ResetUnit) : State :=
  match unit with
  | .domain .aon => { s with rst := { s.rst with stage := if s.rst.stage = 1 then 2 else s.rst.stage } }
  | .domain d => s.setReleased d 0
  | .block b => s.releaseBlk b
  | .link n => s.bringUp n

/-- Bring-up keeps a unit in reset: a domain that it has not come to, or at which it has stopped (R57, R64, R66). -/
def State.unitHeld (s : State) : ResetUnit → Bool
  | .domain d => s.bootHolds d
  | .block _ | .link _ => false

/-- 64 cycles after every clock of a PENDING unit is stable (R57). -/
def execDomainClocksStable (unit : ResetUnit) (s : State) : Host.Outcome State Fault Refusal :=
  .next (if s.unitState unit = .pending ∧ s.pllsLocked unit ∧ (unit = .domain .aon → s.rst.osc) ∧ s.unitHeld unit = false then
    ((s.setUnit unit .up).releaseUnit unit).settleResets
  else s)

/-- A clock of a PENDING unit is not stable after 10 ms (R57, R64): error 0x04 during bring-up, which fails in stage 4. -/
def execPendingClockTimeout (unit : ResetUnit) (s : State) : Host.Outcome State Fault Refusal :=
  .next (if s.unitState unit = .pending ∧ s.pllsLocked unit = false then
    if s.rst.stage = 4 then s.bootFail 4
    else if s.bootDone ∨ s.rst.stage = 0xF then s
    else { s with rst := { s.rst with error := 4 } }
  else s)

/-- The next block of a domain leaves reset (R58); one that a hold of its own keeps stays. -/
def State.releaseNext (s : State) (d : Domain) : State :=
  let k := s.released d
  match (domainBlks d)[k]? with
  | none => s
  | some b =>
    let s1 := s.setReleased d (k + 1)
    (if s1.blkUp b then s1.releaseBlk b else s1).stageFour

/-- 16 AON_CLK cycles after the block before it (R58). -/
def execBlockRelease (domain : Domain) (s : State) : Host.Outcome State Fault Refusal :=
  .next (if s.domainState domain = .up then s.releaseNext domain else s)

/-- DMC has left self-refresh and calibrated: its channels serve on the results in the retention store (R61, R130). -/
def execDmcZqCalDone (s : State) : Host.Outcome State Fault Refusal :=
  .next (if s.blkUp .dmc && s.rst.dramSr then
    { s with rst := { s.rst with dramSr := false }, dmc := { s.dmc with ready := true, chUp := s.dmc.retained } }
  else s)

/-- The 25 MHz oscillator starts (R64). -/
def execOscillatorStart (s : State) : Host.Outcome State Fault Refusal := .next { s with rst := { s.rst with osc := true } }

/-- The OTP read of stage 2 ends (R64): its record, or none for an uncorrectable error. -/
def execOtpReadDone (record : Option Otp) (s : State) : Host.Outcome State Fault Refusal :=
  .next (if s.rst.stage = 2 ∧ s.rst.aon = .up then
    match record with
    | none => s.bootFail 1
    | some o => { s with rst := { s.rst with otp := o, stage := 3 } }.settleResets
  else s)

/-- A slot passes the three checks of R67. -/
def State.slotGood (s : State) (c : SlotCheck) : Bool := c.signature && c.digest && decide (s.rst.otp.rollback ≤ c.rollback)

/-- A slot fails only on its rollback value (R67). -/
def State.slotOld (s : State) (c : SlotCheck) : Bool := c.signature && c.digest && decide (c.rollback < s.rst.otp.rollback)

/-- The boot ROM has checked both slots (R67). -/
def State.bootSlots (s : State) (a b : SlotCheck) : State :=
  let go := fun slot : Bool => { s with rst := { s.rst with slot := slot, stage := 4 } }.settleResets
  match s.slotGood a, s.slotGood b with
  | true, true => go (decide (a.version < b.version))
  | true, false => go false
  | false, true => go true
  | false, false => s.bootFail (if s.slotOld a || s.slotOld b then 3 else 2)

/-- The boot ROM ends its check of slots A and B in stage 3, with every source of L1 and L0 released and the device awake (R64, R67). -/
def execSecureBootDone (slotA slotB : SlotCheck) (s : State) : Host.Outcome State Fault Refusal :=
  .next (if s.rst.stage = 3 ∧ s.reachL0 = false ∧ s.reachL1 = false ∧ s.rst.asleep = false then s.bootSlots slotA slotB else s)

/-- Stage 5 ends once both channels are done with training and every bank with calibration (R64). -/
def State.stageFive (s : State) : State :=
  if s.rst.stage = 5 ∧ s.rst.calDone.toList.all id ∧ s.rst.trainDone.toList.all Option.isSome then
    { s with rst := { s.rst with stage := 6 } }
  else s

/-- Capacity of a channel in GiB (R127): WIDTH, DENSITY and RANKS as DMC_GEOM codes them (R147); none for a configuration that is not supported. -/
def channelGib (width density ranks : Nat) : Option Nat :=
  match width, density, ranks with
  | 2, 0, 1 => some 8
  | 2, 0, 2 => some 16
  | 2, 1, 1 => some 16
  | 2, 1, 2 => some 32
  | 2, 2, 1 => some 24
  | 2, 3, 1 => some 32
  | 1, 0, 1 => some 16
  | 1, 0, 2 => some 32
  | 1, 1, 1 => some 32
  | _, _, _ => none

/-- What training of a channel comes to (R127): a configuration or data rate that is not supported fails (log entry 162). -/
def trainOutcome : TrainResult → TrainResult
  | .trained w d r k drfm t => if (channelGib w.toNat d.toNat r.toNat).isSome ∧ k.toNat ≤ 2 then .trained w d r k drfm t else .failed
  | .failed => .failed
  | .unpopulated => .unpopulated

/-- Both channels have been trained: channel 1 is used where it has the configuration and rate of channel 0 (R128, R147). -/
def State.takeTraining (s : State) : State :=
  match s.rst.trainDone[(0 : Fin 2)], s.rst.trainDone[(1 : Fin 2)] with
  | some (.trained w d r k drfm t0), some other =>
    let same := match other with
      | .trained w1 d1 r1 k1 _ _ => decide (w1 = w ∧ d1 = d ∧ r1 = r ∧ k1 = k)
      | .failed | .unpopulated => false
    let t1 := match other with | .trained _ _ _ _ _ t => t | .failed | .unpopulated => 0
    let g := (channelGib w.toNat d.toNat r.toNat).getD 0
    let cap := if same then 2 * g else g
    { s with
      rst := { s.rst with ddr1Off := !same }
      dmc := { s.dmc with
        geom := BitVec.ofNat 32 (w.toNat + 4 * d.toNat + 16 * r.toNat + 64 * k.toNat + 256 * (cap % 256) + 65536 * drfm.toNat)
        chUp := #v[true, same], retained := #v[true, same], trainTemp := #v[t0, t1], ready := true } }
  | _, _ => s

/-- Training of a DRAM channel ends in stage 5 (R64, R128, R130); a failure of channel 0 fails bring-up. -/
def execDramTrainingDone (channel : Fin 2) (result : TrainResult) (s : State) : Host.Outcome State Fault Refusal :=
  .next (if s.rst.stage = 5 ∧ s.blkUp .dmc then
    let r := trainOutcome result
    let s1 := { s with rst := { s.rst with trainDone := s.rst.trainDone.set channel (some r) } }
    if channel = 0 ∧ (r = .failed ∨ r = .unpopulated) then s1.bootFail 5
    else s1.takeTraining.stageFive
  else s)

/-- A ring port is down, its HELLO count gone (R354). -/
def RingPort.down (p : RingPort) : RingPort :=
  { p with state := .down, hellos := 0, downs := if p.state = .down then p.downs else p.downs + 1 }

/-- The ring and Ethernet ports are down (R40, R83). -/
def State.netDown (s : State) : State :=
  { s with urg := { s.urg with port := s.urg.port.map RingPort.down }, tim := { s.tim with ethLink := Vector.replicate 2 false } }

/-- Calibration of a bank ends (R40, R64): the PCIe PHY in stage 2, the others in stage 5. A bank that fails is disabled. -/
def execSerdesCalibrationDone (bank : Bank) (ok : Bool) (s : State) : Host.Outcome State Fault Refusal :=
  let r := s.rst
  .next (match bank with
    | .pcie => if r.stage = 2 then { s with rst := { r with pcieOff := !ok } } else s
    | .serW => if r.stage = 5 then { s with rst := { r with serWOff := !ok, calDone := r.calDone.set 0 true } }.stageFive else s
    | .serE => if r.stage = 5 then { s with rst := { r with serEOff := !ok, calDone := r.calDone.set 1 true } }.stageFive else s
    | .net =>
      if r.stage = 5 then
        let s1 := { s with rst := { r with netOff := !ok, calDone := r.calDone.set 2 true } }.stageFive
        if ok then s1 else s1.netDown
      else s
    | .csi => if r.stage = 5 then { s with rst := { r with csiOff := !ok, calDone := r.calDone.set 3 true } }.stageFive else s)

/-- DRIVE_OK and HOLD_REQ are driven from the end of bring-up on (R41, R42; log entry 147). -/
def State.driveHearts (s : State) : State :=
  let take := fun p : PinLevel => if p = .pulled then p.drive s.now true else p
  { s with pins := { s.pins with driveOk := take s.pins.driveOk, holdReq := take s.pins.holdReq } }

/-- Firmware start and self-test end (R64, R65, R404): bring-up is done, or fails with code 0x06. -/
def execFirmwareSelfTestDone (ok : Bool) (elapsedMs : Nat) (s : State) : Host.Outcome State Fault Refusal :=
  .next (if s.rst.stage = 6 then
    if ok then
      ({ s with rst := { s.rst with stage := 7, elapsed := BitVec.ofNat 10 (min 1023 elapsedMs) } }.loadStandard).driveHearts
    else s.bootFail 6
  else s)

/-- The PCIe link reaches L0 (R60, R64): not before stage 2 has ended, with the PHY calibrated, PCIE_PERST_N high and no source of reach L0 or L1 asserted. -/
def execPcieLinkUp (s : State) : Host.Outcome State Fault Refusal :=
  .next (if 3 ≤ s.rst.stage.toNat ∧ s.rst.pcieOff = false ∧ s.rst.perst = false ∧ s.rst.perstLow = false ∧ s.rst.asleep = false ∧
      s.reachL0 = false ∧ s.reachL1 = false then
    { s with rst := { s.rst with pcieUp := true } }
  else s)

/-- Size in bytes and type bits of the base address register that a dword of the header begins (R19); none where it begins none. -/
def State.barAt (s : State) (n : Nat) : Option (Nat × Word) :=
  match n with
  | 4 => some (2 ^ 25, 0x4)
  | 6 => if s.rst.otp.bar2 then some (2 ^ 28, 0xC) else none
  | 8 => some (2 ^ 12, 0x4)
  | _ => none

/-- A dword of the base address registers (R19): the address bits it holds and its type bits; the second dword of each is all address. -/
def State.barWord (s : State) (n : Nat) : Word :=
  match s.barAt n with
  | some b => s.hif.bar.toList.getD (n - 4) 0 ||| b.2
  | none => if (s.barAt (n - 1)).isSome then s.hif.bar.toList.getD (n - 4) 0 else 0

/-- A write of a dword of the base address registers keeps the bits above the size (R19). -/
def State.writeBar (s : State) (n : Fin 6) (v : Word) : State :=
  let x := match s.barAt (n + 4) with
    | some b => v &&& ~~~(BitVec.ofNat 32 (b.1 - 1))
    | none => if (s.barAt (n + 3)).isSome then v else 0
  { s with hif := { s.hif with bar := s.hif.bar.set n x } }

/-- What a configuration read returns where R19, R85 and R86 state it: identity, revision and class, Header Type 0x00, base address registers, subsystem, Interrupt Pin 0, Device Control, serial number. The other bytes of the dwords 0x0C and 0x3C are 0 (log entry 149). -/
def State.configWord (s : State) (r : ConfigReg) : Option Word :=
  match r with
  | .header n =>
    if 4 ≤ n.val ∧ n.val ≤ 9 then some (s.barWord n)
    else match n.val with
      | 0 => some 0x82621E3C
      | 2 => some 0x04800010
      | 3 | 15 => some 0
      | 11 => some s.rst.otp.subsystem
      | _ => none
  | .deviceControl => some (s.hif.devCtl.setWidth 32)
  | .serial h => some (s.rst.otp.serial.extractLsb' (if h then 32 else 0) 32)
  | .other => none

/-- A configuration write (R19, R85): base address registers, and of Device Control the read request size and the enable of Relaxed Ordering. -/
def State.configWrite (s : State) (r : ConfigReg) (v : Word) : State :=
  match r with
  | .header n => if 4 ≤ n.val ∧ n.val ≤ 9 then s.writeBar (Fin.ofNat 6 (n.val - 4)) v else s
  | .deviceControl => { s with hif := { s.hif with devCtl := v.extractLsb' 0 16 &&& 0x7010 } }
  | .serial _ | .other => s

/-- A configuration request (R65, R66, R85, R86). -/
def execConfigRequest (access : ConfigAccess) (s : State) : Host.Outcome State Fault Refusal :=
  .next (if s.rst.pcieUp then
    if s.bootDone ∨ s.rst.stage = 0xF then
      match access.write with
      | none => s.emit (.config (s.configWord access.reg))
      | some v => (s.configWrite access.reg v).emit (.config none)
    else s.emit .configRetry
  else s)

/-- The accesses with the oldest waiting write of a register abandoned (R79); none where it is the first of its crossing, which the crossing holds presented (R75). `behind` says that an earlier access to the crossing waits. -/
def dropWrite (o : Nat) : Bool → List HostAccess → Option (List HostAccess)
  | _, [] => none
  | behind, a :: t =>
    if a.waits && sameCrossing a.off o then
      if behind && a.write.isSome && decide (a.off = o) then some t else (dropWrite o true t).map (a :: ·)
    else (dropWrite o behind t).map (a :: ·)

/-- The oldest waiting read of a register gets Unsupported Request (R79). -/
def failRead (o : Nat) : List HostAccess → List HostAccess
  | [] => []
  | a :: t => if a.waits && a.write.isNone && decide (a.off = o) then { a with result := some none } :: t else a :: failRead o t

/-- A register access that its block has not taken within 50 µs is abandoned (R79, R104); a write that the crossing holds presented stays. -/
def execRegAccessAbandoned (write : Bool) (offset : BitVec 25) (s : State) : Host.Outcome State Fault Refusal :=
  let o := offset.toNat
  let note := fun t : State => t.log 0x0071 2 (bitsOf o 16 8) (leBytes 4 o)
  .next (if write then
    match dropWrite o false s.hif.accesses with
    | some l => note { s with hif := { s.hif with accesses := l } }.discardWrite
    | none => s
  else if s.hif.accesses.any fun a => a.waits && a.write.isNone && decide (a.off = o) then
    note { s with hif := { s.hif with accesses := failRead o s.hif.accesses } }.completeReads
  else s)

/-- BAR2 answers: present, the link and bring-up done, DMC accepting (R19, R65, R140). -/
def State.bar2Open (s : State) : Bool :=
  s.rst.pcieUp && !s.rst.asleep && !s.rst.d3hot && s.bootDone && s.blkUp .hif && s.rst.otp.bar2 && s.blkUp .dmc && s.dmc.ready

/-- A host access to BAR2 (R21): `bytes` are those of a write, or as many as a read asks for. -/
def execBar2Access (write : Bool) (offset : BitVec 28) (bytes : List Byte) (s : State) : Host.Outcome State Fault Refusal :=
  let a := s.regField 0x20 0 8 * 2 ^ 28 + offset.toNat
  .next (if s.rst.pcieUp = false then s
    else if s.bar2Open = false ∨ s.capacity < a + bytes.length then
      if write then s.discardWrite else s.emit (.unsupported offset.toNat)
    else if write then s.dramPut 6 a bytes
    else match s.dramRead 6 a bytes.length with
      | (bs, ok, t) => t.emit (.bar2Data bs !ok))

/-- The first reason of R69 that refuses sleep; 0 for none. -/
def State.sleepReason (s : State) : Nat :=
  if !s.firingPlanes.isEmpty then 1
  else if s.lck.ch.toList.any fun c => decide (c.st = .armed) then 2
  else if s.urg.active then 3
  else if s.isMaster then 4
  else if s.twn.role ≠ .single then 5
  else 0

/-- A host write of RST_SLEEP (R69, R72): ENTER = 1 is refused with a reason or starts DRAINING; while a sleep entry is under way bits 9:1 are kept and ENTER takes the value (log entry 148). -/
def State.writeSleep (s : State) (v : Word) : State :=
  if s.rst.sleep = .draining ∨ s.rst.sleep = .ready then { s with rst := { s.rst with enter := v.getLsbD 0 } }
  else
    let s1 := { s with rst := { s.rst with sleepCfg := v.extractLsb' 1 9 } }
    if v.getLsbD 0 then
      let r := s.sleepReason
      if r = 0 then { s1 with rst := { s1.rst with enter := true, sleep := .draining, reason := 0 } }
      else { s1 with rst := { s1.rst with enter := false, sleep := .refused, reason := BitVec.ofNat 4 r } }
    else s1

/-- A host write of RST_SLEEP (R69). -/
def execSleepEnterWrite (value : Word) (s : State) : Host.Outcome State Fault Refusal :=
  .next (s.onWrite 0x10030 value fun t => t.writeSleep value)

/-- HIF has completed the entries in progress (R69). -/
def execSleepDrainDone (s : State) : Host.Outcome State Fault Refusal :=
  .next (if s.rst.sleep = .draining ∧ (s.hif.flights.all fun f => decide (f.phase = .faulted)) then
    { s with rst := { s.rst with sleep := .ready } }
  else s)

/-- The host places the function in D3hot (R70). -/
def execD3hotEntry (s : State) : Host.Outcome State Fault Refusal :=
  .next (if s.rst.pcieUp && s.bootDone then { s with rst := { s.rst with d3hot := true } } else s)

/-- 100 ms after the function entered D3hot (R70). -/
def execSleepEntryTimeout (s : State) : Host.Outcome State Fault Refusal :=
  .next (if s.rst.d3hot && !s.rst.asleep && decide (s.rst.sleep = .ready) then s.enterSleep else s)

/-- An edge of a GPIO that the wake enables select (R71, R72). -/
def execGpioWakeEdge (gpio : Fin 16) (rising : Bool) (s : State) : Host.Outcome State Fault Refusal :=
  let c := s.rst.sleepCfg
  .next (if c.getLsbD 1 ∧ c.getLsbD 2 = rising ∧ c.extractLsb' 3 4 = BitVec.ofNat 4 gpio.val then s.wakeEvent 1 else s)

/-- DRIVE_OK reports good (R44). -/
def State.driveGood (s : State) : Bool :=
  s.bootDone && decide (s.rst.mgmt = .up ∧ s.rst.data = .up ∧ s.rst.ctrl = .up) && decide (s.twn.role ≠ .failed) &&
  !s.rst.therm && !s.rst.wdogMissed && !s.rst.asleep

/-- HOLD_REQ reports good (R45): DRIVE_OK does and no plane stands at a seam. -/
def State.holdGood (s : State) : Bool :=
  s.driveGood && s.fir.plane.toList.all fun p => decide (p.phase ≠ .hold)

/-- 25,000 AON_CLK cycles have passed (R43 to R45); without AON_CLK both outputs stand still (R82). -/
def execHeartbeatHalfPeriod (s : State) : Host.Outcome State Fault Refusal :=
  .next (if s.rst.aon = .up ∧ s.aonClkRuns then
    { s with pins := { s.pins with
        driveOk := if s.driveGood then s.pins.driveOk.toggle s.now else s.pins.driveOk
        holdReq := if s.holdGood then s.pins.holdReq.toggle s.now else s.pins.holdReq } }
  else s)

/-- FIRE_ENABLE becomes asserted or deasserted (R47, R48): every printing plane loses or takes the cause. -/
def State.setFire (s : State) (on : Bool) : State :=
  if s.pins.fireEnable = on then s
  else
    let s1 := { s with pins := { s.pins with fireEnable := on } }
    (if on then s1.clearCause (List.finRange 8) 2 else s1.assertCause (List.finRange 8) 2).settle s

/-- Good intervals after an edge at the present time: none after a first edge or an interval out of bounds (R47). -/
def State.fireCount (s : State) : Nat :=
  match s.pins.fireLast with
  | none => 0
  | some t => if 400000 ≤ s.now - t ∧ s.now - t ≤ 4000000 then min 4 (s.pins.fireGood + 1) else 0

/-- A filtered edge of FIRE_ENABLE (R47). -/
def State.fireEdge (s : State) : State :=
  let n := s.fireCount
  let s1 := { s with pins := { s.pins with fireGood := n, fireLast := some s.now, fireLevel := !s.pins.fireLevel } }
  if n = 4 then s1.setFire true else if n = 0 then s1.setFire false else s1

/-- A filtered edge of FIRE_ENABLE at a time (R47). -/
def execFireEnableEdge (at_ : Nat) (s : State) : Host.Outcome State Fault Refusal :=
  let s1 := s.advance at_
  .next (if s1.rst.aon = .up then s1.fireEdge else s1)

/-- No edge of FIRE_ENABLE for 2,000 µs (R47). -/
def execFireEnableTimeout (at_ : Nat) (s : State) : Host.Outcome State Fault Refusal :=
  let s1 := s.advance at_
  .next (match s1.pins.fireLast with
    | some t => if t + 4000000 ≤ s1.now then { s1 with pins := { s1.pins with fireGood := 0, fireLast := none } }.setFire false else s1
    | none => s1)

/-- A host write of CLK_MEAS_SEL (R82). -/
def State.measStart (s : State) (v : Word) : State :=
  let s1 := s.hostWrite 0x20010 v
  if v.getLsbD 31 then
    { s1 with clk := { s1.clk with
        meas := some (BitVec.ofNat 6 (s1.regField 0x20010 0 6), BitVec.ofNat 4 (max 6 (s1.regField 0x20010 8 4))), measDone := false } }
  else s1

/-- A host write of CLK_MEAS_SEL.START (R82). -/
def execClkMeasStart (value : Word) (s : State) : Host.Outcome State Fault Refusal :=
  .next (s.onWrite 0x20010 value fun t => t.measStart value)

/-- The measurement window closes with a count (R82): a number that names no clock measures nothing, and CLK_MEAS.COUNT reads 0. -/
def execClkMeasDone (count : BitVec 31) (s : State) : Host.Outcome State Fault Refusal :=
  .next (match s.clk.meas with
    | none => s
    | some (k, _) =>
      let n := k.toNat
      { s with clk := { s.clk with
          meas := none, measDone := true
          measCount := if (13 ≤ n ∧ n ≤ 15) ∨ 48 ≤ n then 0 else count } })

/-- A sensor starts or stops the clock lane of a CSI-2 port (R84). -/
def execCsiClockLaneChange (port : Fin 4) (running : Bool) (s : State) : Host.Outcome State Fault Refusal :=
  .next { s with clk := { s.clk with csiRun := s.clk.csiRun.set port running } }

/-- A PLL loses lock or its reference (R83): its clocks stop, CLK_LOCK falls; PLL_NET takes the ring and Ethernet ports down, PLL_PCIE the PCIe link. -/
def State.losePll (s : State) (pll : Fin 11) : State :=
  let s1 := { s with clk := { s.clk with lock := s.clk.lock &&& ~~~(BitVec.twoPow 11 pll.val) } }
  if pll.val = 3 then s1.netDown
  else if pll.val = 8 then { s1 with rst := { s1.rst with pcieUp := false } }
  else s1

/-- A PLL loses lock (R83). -/
def execPllLosesLock (pll : Fin 11) (s : State) : Host.Outcome State Fault Refusal := .next (s.losePll pll)

end Sys2Proof.Machine
end

