-- ==== Sys2Proof/Machine/Time.lean ====
section
/-! DEFINITION. The timebase, its comparators, the GPIOs and PTP (chapter 17, R345 to R352, R420). -/

namespace Sys2Proof.Machine

/-- The RATE change that R348 allows in any 1 ms while a plane prints: 1 ppm. -/
def rateStep : Int := 1099512

/-- The rates that bind a change under R348: the present one, and those that changes made while printing have left within the last 1 ms. -/
def State.recentRates (s : State) : List Int :=
  s.tim.rate :: (s.tim.rateHist.filter fun x => decide (s.now < x.1 + 2000000)).map Prod.snd

/-- A requested RATE within its 32 bits, and within R348 while a plane prints. -/
def State.allowedRate (s : State) (r : Int) : Int :=
  let r0 := clampInt (-2147483648) 2147483647 r
  if s.printing then
    let rs := s.recentRates
    clampInt (rs.foldl max s.tim.rate - rateStep) (rs.foldl min s.tim.rate + rateStep) r0
  else r0

/-- RATE takes a value: C0 and T0 take the COUNT and t of the cycle, so t does not step (R345); a rate left while a plane prints is kept for R348. -/
def State.setRate (s : State) (r : Int) : State :=
  { s with tim := { s.tim with
    t0 := s.timeFrac, c0 := s.tim.count, rate := s.allowedRate r
    rateHist := if s.printing then (s.now, s.tim.rate) :: s.tim.rateHist.filter fun x => decide (s.now < x.1 + 2000000) else [] } }

/-- t is stepped by a signed time in 2^-16 ns; FIR follows at its next comparison (R345, R347). -/
def State.stepTime (s : State) (d : Int) : State :=
  { s with tim := { s.tim with t0 := s.tim.t0 + d }, fir := { s.fir with realign := true } }

/-- A host write of TIM_RATE (R345, R348, R368): ignored while a source is selected. -/
def execTimRateWrite (value : Word) (at_ : Nat) (s : State) : Host.Outcome State Fault Refusal :=
  .next ((s.advance at_).onWrite 0x280008 value fun t => if t.timeSrc = 0 then t.setRate value.toInt else t)

/-- TIM_STEP_HI takes a value: the step, or its refusal (R348, R368). -/
def State.writeStep (s : State) (hi : Word) : State :=
  if s.timeSrc ≠ 0 ∨ s.printing then { s with tim := { s.tim with stepRefused := true } }
  else s.stepTime ((hi ++ s.tim.stepLo : BitVec 64).toInt * 65536)

/-- A host write of TIM_STEP_HI (R348, R368). -/
def execTimStepWrite (hi : Word) (at_ : Nat) (s : State) : Host.Outcome State Fault Refusal :=
  .next ((s.advance at_).onWrite 0x280014 hi fun t => t.writeStep hi)

/-- TIM_CFG takes a value: SRC is written, so the timebase goes FREE with its RATE kept (R349). -/
def State.writeTimCfg (s : State) (v : Word) : State :=
  let s1 := s.hostWrite 0x280000 v
  { s1 with tim := { s1.tim with state := .free, good := 0, bad := 0 } }

/-- A host write of TIM_CFG (R349, R368). -/
def execTimSrcWrite (value : Word) (s : State) : Host.Outcome State Fault Refusal :=
  .next (s.onWrite 0x280000 value fun t => t.writeTimCfg value)

/-- The servo acts on an error in 1/16 ns (R349): in LOCKING beyond 1 µs, with no plane printing, it steps t onto its source; otherwise it slews by a rate whose gains are not stated. -/
def State.servo (s : State) (e : Int) : State :=
  if s.tim.state = .locking ∧ 16000 < e.natAbs ∧ s.printing = false then s.stepTime (e * 4096)
  else
    let d := s.draw
    d.2.setRate (Config.servoRate d.1 e s.tim.rate)

/-- TIM_STATUS.ERR of an error in 1/16 ns (R368). -/
def errReg (e : Int) : BitVec 16 := BitVec.ofInt 16 (clampInt (-32767) 32767 (e / 16))

/-- One update with an error in 1/16 ns (R349). -/
def State.timeUpdate (s : State) (e : Int) : State :=
  let s1 := { s with tim := { s.tim with err := errReg e } }
  match s.tim.state with
  | .free => { s1 with tim := { s1.tim with state := .locking, good := 0, bad := 0 } }.servo e
  | .locking =>
    let n := if e.natAbs ≤ 1600 then s.tim.good + 1 else 0
    if 16 ≤ n then { s1 with tim := { s1.tim with state := .locked, good := 0, bad := 0 } }.servo e
    else { s1 with tim := { s1.tim with good := n } }.servo e
  | .locked =>
    let n := if 16000 < e.natAbs then s.tim.bad + 1 else 0
    if 4 ≤ n then { s1 with tim := { s1.tim with state := .locking, good := 0, bad := 0 } }.servo e
    else { s1 with tim := { s1.tim with bad := n } }.servo e
  | .holdover =>
    if e.natAbs ≤ 16000 then { s1 with tim := { s1.tim with state := .locked, good := 0, bad := 0 } }.servo e
    else { s1 with tim := { s1.tim with state := .free } }

/-- No update for 3 intervals (R349). -/
def execHoldoverEntry (s : State) : Host.Outcome State Fault Refusal :=
  .next (if s.tim.state = .locked then { s with tim := { s.tim with state := .holdover, bad := 0 } } else s)

/-- HOLD_S seconds without an update (R349). -/
def execHoldoverExpiry (s : State) : Host.Outcome State Fault Refusal :=
  .next (if s.tim.state = .holdover then { s with tim := { s.tim with state := .free } } else s)

/-- BAR0 offset of a register of comparator k (R368). -/
def cmpReg (k : Fin 16) (o : Nat) : Nat := 0x280100 + 0x20 * k.val + o

/-- The state with one comparator changed. -/
def State.modCmp (s : State) (k : Fin 16) (f : Comparator → Comparator) : State :=
  { s with tim := { s.tim with cmp := modAt s.tim.cmp k f } }

/-- Device time past a target in 1/16 tick, as a signed 52-bit value (R346, R351). -/
def State.pastTarget (s : State) (target : Nat) : Int := signed 52 (unsigned 52 (s.tick * 16 - target))

/-- A comparator's block runs: comparator 15 lies in AON, the others in MGMT (R351). -/
def State.cmpRuns (s : State) (k : Fin 16) : Bool := if k.val = 15 then decide (s.rst.aon = .up) else s.blkUp .tim

/-- BAR0 offset of TIM_GPIOg_CFG (R368). -/
def gpioReg (g : Fin 16) : Nat := 0x280400 + 4 * g.val

/-- MODE of a GPIO; 3 acts as 0 (R352). -/
def State.gpioMode (s : State) (g : Fin 16) : Nat := s.regField (gpioReg g) 0 2 % 3

/-- The GPIOs in pulse mode that name a comparator drive away from LEVEL; a running pulse is extended (R352). -/
def State.pulseGpios (s : State) (k : Fin 16) : State :=
  (List.finRange 16).foldl (fun (t : State) g =>
    if t.gpioMode g = 2 ∧ t.regField (gpioReg g) 4 4 = k.val then
      let t1 := { t with tim := { t.tim with gpioPulse := t.tim.gpioPulse.set g (some (t.now + 40 * max 1 (t.regField (gpioReg g) 8 8))) } }
      t1.driveGpio g (!t.regBit (gpioReg g) 2)
    else t) s

/-- What a match drives (R351): camera triggers, GPIO pulses, an interrupt, and for comparator 15 a wake. -/
def State.driveMatch (s : State) (k : Fin 16) : State :=
  let s1 := s.timeTriggers k
  let s2 := if s1.blkUp .tim then s1.pulseGpios k else s1
  let s3 := if s2.regBit (cmpReg k 0) 1 then s2.emit (.comparatorInterrupt k) else s2
  if k.val = 15 ∧ s3.regBit (cmpReg k 0) 2 ∧ s3.rst.sleepCfg.getLsbD 8 then s3.wakeEvent 3 else s3

/-- A comparator matches (R351, R366): a periodic one goes on to its first target that lies ahead, counting the further periods as SKIPPED. -/
def Comparator.hit (c : Comparator) (past : Int) : Comparator :=
  if c.period = 0 then { c with armed := false, matches_ := c.matches_ + 1 }
  else
    let late := past - c.period
    let extra := if late < 0 then 0 else late.toNat / c.period + 1
    { c with
      target := (c.target + (extra + 1) * c.period) % 2 ^ 52
      matches_ := c.matches_ + 1, skipped := BitVec.ofNat 15 (min 32767 (c.skipped.toNat + extra)) }

/-- A comparator whose target has come matches (R351), while TIME_CLK runs (R83). -/
def State.matchCmp (s : State) (k : Fin 16) : State :=
  let c := s.tim.cmp[k]
  let past := s.pastTarget c.target
  if c.armed && s.cmpRuns k && s.clkRuns 1 && decide (0 ≤ past) then (s.modCmp k fun x => x.hit past).driveMatch k else s

/-- A comparator reaches its target (R351). -/
def execComparatorMatch (k : Fin 16) (at_ : Nat) (s : State) : Host.Outcome State Fault Refusal :=
  .next ((s.advance at_).matchCmp k)

/-- CMPk_CFG takes a value (R351, R366): ENABLE arms the comparator at its target, a target already past matching at once with LATE; 0 disarms. -/
def State.writeCmpCfg (s : State) (k : Fin 16) (v : Word) : State :=
  let s1 := s.hostWrite (cmpReg k 0) v
  if v.getLsbD 0 then
    let target := ((s.reg (cmpReg k 4)).toNat + s.regField (cmpReg k 8) 0 16 * 2 ^ 32) * 16
    let late := decide (0 < s.pastTarget target)
    (s1.modCmp k fun c => { c with armed := true, target := target, period := (s.reg (cmpReg k 12)).toNat, late := c.late || late }).matchCmp k
  else s1.modCmp k fun c => { c with armed := false }

/-- A host write of TIM_CMPk_CFG (R351). -/
def execComparatorEnableWrite (k : Fin 16) (value : Word) (at_ : Nat) (s : State) : Host.Outcome State Fault Refusal :=
  .next ((s.advance at_).onWrite (cmpReg k 0) value fun t => t.writeCmpCfg k value)

/-- GPIOg_CFG takes a value (R42, R352): an input is released to its pull-up, an output stands at LEVEL; a running pulse of a GPIO still in pulse mode goes on. -/
def State.writeGpioCfg (s : State) (g : Fin 16) (v : Word) : State :=
  let s1 := s.hostWrite (gpioReg g) v
  match s1.gpioMode g with
  | 0 => { s1 with
      pins := { s1.pins with gpio := s1.pins.gpio.set g .pulled }, tim := { s1.tim with gpioPulse := s1.tim.gpioPulse.set g none } }
  | 1 => { s1 with tim := { s1.tim with gpioPulse := s1.tim.gpioPulse.set g none } }.driveGpio g (s1.regBit (gpioReg g) 2)
  | _ => s1.driveGpio g ((s1.tim.gpioPulse[g]).isSome != s1.regBit (gpioReg g) 2)

/-- A host write of TIM_GPIOg_CFG (R352). -/
def execGpioModeWrite (g : Fin 16) (value : Word) (s : State) : Host.Outcome State Fault Refusal :=
  .next (s.onWrite (gpioReg g) value fun t => t.writeGpioCfg g value)

/-- A GPIO pulse has run its width (R352): the ball returns to LEVEL, unless a later match has extended the pulse. -/
def execGpioPulseEnd (g : Fin 16) (at_ : Nat) (s : State) : Host.Outcome State Fault Refusal :=
  .next (let t := s.advance at_
    match t.tim.gpioPulse[g] with
    | some e =>
      if e ≤ t.now then { t with tim := { t.tim with gpioPulse := t.tim.gpioPulse.set g none } }.driveGpio g (t.regBit (gpioReg g) 2)
      else t
    | none => t)

/-- The Ethernet port that runs PTP (R350). -/
def State.ptpPort (s : State) : Fin 2 := if s.regBit 0x280040 1 then 1 else 0

/-- The ordinary clock runs: TIM is out of reset, ENABLE is set and the port has link (R350, R367). -/
def State.ptpRuns (s : State) : Bool := s.blkUp .tim && s.regBit 0x280040 0 && s.tim.ethLink[s.ptpPort]

/-- The ordinary clock is a slave: portState SLAVE or UNCALIBRATED (R350). -/
def State.ptpSlave (s : State) : Bool := decide (s.tim.ptpState = 9 ∨ s.tim.ptpState = 8)

/-- PTP_CFG.TRANSPORT is UDP over IPv4 (R368). -/
def State.ptpUdp (s : State) : Bool := !s.regBit 0x280040 2

/-- PTP_CFG.DOMAIN (R368). -/
def State.ptpDomain (s : State) : BitVec 8 := BitVec.ofNat 8 (s.regField 0x280040 8 7)

/-- A message as the PTP port sends it (R350). -/
def State.ptpOut (s : State) (k : PtpKind) : Out := .ptp s.ptpPort s.ptpUdp s.ptpDomain k

/-- A frame is one that the ordinary clock takes (R350): untagged; a PTP message on its transport and in its domain, a Sync with a logSyncInterval from -7 to 1; ARP for its address over IPv4. -/
def State.ptpTakes (s : State) (m : PtpFrame) : Bool :=
  !m.tagged && (match m.body with
    | .arp a => s.ptpUdp && decide (a = s.reg 0x280044)
    | .other => false
    | .sync .. => decide (m.udp = s.ptpUdp ∧ m.domain = s.ptpDomain ∧ -7 ≤ m.interval ∧ m.interval ≤ 1)
    | .followUp .. | .delayResp .. | .pdelayResp .. | .delayReq | .pdelayReq | .announce _ => decide (m.udp = s.ptpUdp ∧ m.domain = s.ptpDomain))

/-- Peer-to-peer delay mechanism (R368). -/
def State.peerDelay (s : State) : Bool := s.regBit 0x280040 3

/-- The state with the PTP exchange changed. -/
def State.modPtp (s : State) (f : PtpExchange → PtpExchange) : State := { s with tim := { s.tim with ptp := f s.tim.ptp } }

/-- A Sync result (R349, R350): master time and arrival time; the servo of the control cores takes the error while PTP is the source. -/
def State.syncResult (s : State) (master arrival : Int) : State :=
  let s1 := s.modPtp fun x => { x with sync := some (master, arrival), syncRx := none }
  if s.timeSrc = 1 ∧ s.blkUp .cores then s1.timeUpdate (master + s.tim.ptp.delay - arrival) else s1

/-- A PTP message or ARP request that the ordinary clock takes (R350). -/
def State.ptpIn (s : State) (m : PtpRx) : State :=
  let now := s.timeSixteenth
  match m with
  | .sync o c two => if !s.ptpSlave then s else if two then s.modPtp fun x => { x with syncRx := some (now - c) } else s.syncResult (o + c) now
  | .followUp o c => match s.tim.ptp.syncRx with
    | some a => if s.ptpSlave then s.syncResult (o + c) a else s
    | none => s
  | .delayResp r c => match s.tim.ptp.req, s.tim.ptp.sync with
    | some q, some (m, a) => if s.ptpSlave && !s.peerDelay then s.modPtp fun x => { x with req := none, delay := (a - m + (r - c - q)) / 2 } else s
    | _, _ => s
  | .pdelayResp r o c => match s.tim.ptp.req with
    | some q => if s.peerDelay then s.modPtp fun x => { x with req := none, delay := (now - q - (o - r) - c) / 2 } else s
    | none => s
  | .delayReq => if s.tim.ptpState = 6 ∧ s.peerDelay = false then s.emit (s.ptpOut .delayResp) else s
  | .pdelayReq => if s.peerDelay then s.emit (s.ptpOut .pdelayResp) else s
  | .announce st => { s with tim := { s.tim with ptpState := if s.regBit 0x280040 4 && decide (st = 6) then 4 else st } }
  | .arp _ => s.emit (s.ptpOut .arpReply)
  | .other => s

/-- A PTP message or ARP request arrives on the PTP port (R350); every other frame is discarded. -/
def execPtpMessageRx (msg : PtpFrame) (at_ : Nat) (s : State) : Host.Outcome State Fault Refusal :=
  .next (let t := s.advance at_
    if t.ptpRuns && t.ptpTakes msg then t.ptpIn msg.body else t)

/-- The ordinary clock may send a message of a kind (R350): requests by its delay mechanism, Announce, Sync and Follow_Up as master. -/
def State.ptpSends (s : State) : PtpKind → Bool
  | .delayReq => s.ptpSlave && !s.peerDelay
  | .pdelayReq => s.peerDelay
  | .announce | .sync | .followUp => decide (s.tim.ptpState = 6)
  | .pdelayResp | .delayResp | .arpReply => false

/-- The ordinary clock transmits one of its timed messages (R350); the departure of a request is kept. -/
def execPtpMessageSend (kind : PtpKind) (at_ : Nat) (s : State) : Host.Outcome State Fault Refusal :=
  .next (let t := s.advance at_
    if t.ptpRuns && t.ptpSends kind then
      (if kind = .delayReq ∨ kind = .pdelayReq then t.modPtp fun x => { x with req := some t.timeSixteenth } else t).emit (t.ptpOut kind)
    else t)

/-- PTP_CFG takes a value (R350, R368): portState LISTENING as the clock is enabled, and INITIALIZING's 0 as it stops. -/
def State.writePtpCfg (s : State) (v : Word) : State :=
  let was := s.regBit 0x280040 0
  let s1 := s.hostWrite 0x280040 v
  if !was && v.getLsbD 0 then { s1 with tim := { s1.tim with ptpState := 4, ptp := {} } }
  else if was && !v.getLsbD 0 then { s1 with tim := { s1.tim with ptpState := 0, ptp := {} } }
  else s1

/-- An Ethernet port gains or loses link (R420): it gains none on a bank that has failed calibration (R40), without ETH_CLK (R83), or in sleep where KEEP_ETH names the other port (R68). -/
def execEthernetLinkChange (port : Fin 2) (up : Bool) (s : State) : Host.Outcome State Fault Refusal :=
  .next { s with tim := { s.tim with
      ethLink := s.tim.ethLink.set port (up && s.portPowered (.eth port) && s.clkRuns 3 && decide (s.rst.aon = .up)) } }

end Sys2Proof.Machine
end

