-- ==== Sys2Proof/Machine/Ring.lean ====
section
/-! DEFINITION. The Ulilis Ring (chapter 17, R353 to R369): ports, frames, node liveness, ring time, tide, STOP and STATE, wake. -/

namespace Sys2Proof.Machine

/-- The AON part of URG and RING_CLK run, on a bank that has not failed calibration (R40, R73, R367). -/
def State.ringRuns (s : State) : Bool := decide (s.rst.aon = .up) && s.clkRuns 2 && !s.rst.netOff

/-- Send a frame on one port from the AON part, which runs through a reset of MGMT and through sleep (R367). -/
def State.hopAon (s : State) (port : Fin 2) (m : RingMsg) : State :=
  if s.ringRuns && decide ((s.urg.port[port]).state ≠ .down) then (s.nextSeq.2).emit (.hop port m.type s.nextSeq.1 m) else s

/-- The state with one ring port changed. -/
def State.modRing (s : State) (p : Fin 2) (f : RingPort → RingPort) : State :=
  { s with urg := { s.urg with port := modAt s.urg.port p f } }

/-- A ring port gains block lock or character synchronisation (R354). -/
def execRingPortLock (port : Fin 2) (s : State) : Host.Outcome State Fault Refusal :=
  .next (if s.ringRuns && decide ((s.urg.port[port]).state = .down) then s.modRing port fun p => { p with state := .locking, hellos := 0 } else s)

/-- A ring port loses block lock or character synchronisation (R354). -/
def execRingPortLockLoss (port : Fin 2) (s : State) : Host.Outcome State Fault Refusal :=
  .next (if (s.urg.port[port]).state = .down then s else s.modRing port RingPort.down)

/-- 2 ms have passed without lock: the port tries the other rate (R354). -/
def execRingPortRateAlternate (port : Fin 2) (s : State) : Host.Outcome State Fault Refusal :=
  .next (if (s.urg.port[port]).state = .down then s.modRing port fun p => { p with low := !p.low } else s)

/-- A port sends HELLO (R356). -/
def execHelloSend (port : Fin 2) (s : State) : Host.Outcome State Fault Refusal :=
  .next (s.hopAon port (.hello s.node s.rst.asleep))

/-- A HELLO arrives (R354, R358): the third since lock brings the port UP; its SLEEP flag, or this device's own sleep, sets the rate of the hop. -/
def execHelloRx (port : Fin 2) (node : BitVec 10) (sleep : Bool) (s : State) : Host.Outcome State Fault Refusal :=
  .next (if s.ringRuns && decide ((s.urg.port[port]).state ≠ .down) then
    s.modRing port fun p => { p with
      peer := node, peerSleep := sleep, hellos := min 3 (p.hellos + 1)
      low := if sleep = p.peerSleep then p.low else sleep || s.rst.asleep
      state := if 2 ≤ p.hellos then .up else p.state }
  else s)

/-- No HELLO for 300 µs (R354). -/
def execHelloTimeout (port : Fin 2) (s : State) : Host.Outcome State Fault Refusal :=
  .next (if (s.urg.port[port]).state = .down then s else s.modRing port RingPort.down)

/-- The duplicate window of one node after a SEQ, and whether the SEQ had been received (R357): 64 values below the highest seen. -/
def windowAfter (w : Option (BitVec 16 × List (BitVec 16))) (seq : BitVec 16) : Bool × (BitVec 16 × List (BitVec 16)) :=
  match w with
  | none => (false, (seq, []))
  | some (top, recent) =>
    let ahead := signed 16 (seq - top).toNat
    if 0 < ahead then (false, (seq, (top :: recent).filter fun x => decide ((seq - x).toNat ≤ 64)))
    else if ahead = 0 then (true, (top, recent))
    else if ahead < -64 then (false, (top, recent))
    else (recent.contains seq, (top, if recent.contains seq then recent else seq :: recent))

/-- A (SRC, SEQ) is noted: whether it had already been received (R357). -/
def State.noteSeq (s : State) (src : BitVec 10) (seq : BitVec 16) : Bool × State :=
  let r := windowAfter ((s.urg.seen.find? fun x => decide (x.1 = src)).map Prod.snd) seq
  (r.1, { s with urg := { s.urg with seen := (src, r.2) :: s.urg.seen.filter fun x => decide (x.1 ≠ src) } })

/-- The other ring port. -/
def otherPort (p : Fin 2) : Fin 2 := if p = 0 then 1 else 0

/-- A frame type that stays on its hop: HELLO, DELAY_REQ and DELAY_RESP (R356). -/
def hopOnly (t : Nat) : Bool := decide (t = 0x01 ∨ t = 0x03 ∨ t = 0x04)

/-- START bytes 1 to 5 of a frame: TYPE, SRC, DST and ALL (R355). -/
def RingFrame.head (f : RingFrame) : List Byte :=
  f.type_ :: leBytes 2 f.src.toNat ++ leBytes 2 (f.dst.toNat + 1024 * f.all.toNat)

/-- CRC-32C of a frame: START bytes 1 to 5, then the payload (R355); HOPS takes no part. -/
def RingFrame.crc (f : RingFrame) : BitVec 32 := crc32c (f.head ++ f.payload)

/-- A block from its 8 bytes. -/
def ringBlock (control : Bool) (bs : List Byte) : RingBlock := ⟨control, BitVec.ofNat 64 (leNat bs)⟩

/-- A frame in blocks (R355): START, the payload, END; with an inverted CRC where it is not good (R357). -/
def RingFrame.blocks (f : RingFrame) (good : Bool) : List RingBlock :=
  let n := f.payload.length / 8
  ringBlock true (0x3C :: f.head ++ leBytes 2 f.hops.toNat) ::
  ((List.range n).map fun i => ringBlock false ((f.payload.drop (8 * i)).take 8)) ++
  [ringBlock true (0x5A :: leBytes 4 (if good then f.crc else ~~~f.crc).toNat ++ leBytes 2 f.seq.toNat ++ [BitVec.ofNat 8 n])]

/-- The type of a control block; 0 for a data block. -/
def RingBlock.type (b : RingBlock) : Nat := if b.control then bitsOf b.bits.toNat 0 8 else 0

/-- A control block of a type that R355 does not list: counted and ignored. -/
def RingBlock.strange (b : RingBlock) : Bool := b.control && !([0x1E, 0x3C, 0x5A] : List Nat).contains b.type

/-- The frame that a run of blocks makes, IDLE and ignored blocks apart, and whether its END check holds (R355): its CRC and its count of payload blocks. -/
def frameIn (blocks : List RingBlock) : Option (RingFrame × Bool) :=
  match blocks.filter fun b => !b.strange && decide (b.type ≠ 0x1E) with
  | [] => none
  | a :: rest => match rest.reverse with
    | [] => none
    | e :: back =>
      if a.type = 0x3C ∧ e.type = 0x5A ∧ back.length ≤ 32 ∧ back.all fun b => !b.control then
        let h := a.bits
        let f : RingFrame := {
          type_ := h.extractLsb' 8 8, src := h.extractLsb' 16 10, dst := h.extractLsb' 32 10, all := h.getLsbD 42, hops := h.extractLsb' 48 10
          seq := e.bits.extractLsb' 40 16, payload := back.reverse.flatMap fun b => leBytes 8 b.bits.toNat }
        some (f, decide (e.bits.extractLsb' 8 32 = f.crc) && decide (bitsOf e.bits.toNat 56 6 = back.length))
      else none

/-- Blocks of a type R355 does not list are counted at their port, saturating (R355, R369). -/
def State.countStrange (s : State) (port : Fin 2) (blocks : List RingBlock) : State :=
  s.modRing port fun p => { p with crc := (blocks.filter RingBlock.strange).foldl (fun n _ => satInc n) p.crc }

/-- A frame goes on at the other port (R357, R358): a low-rate hop carries only the TIDE frames with even SEQ. -/
def State.forwardFrame (s : State) (port : Fin 2) (f : RingFrame) (good : Bool) : State :=
  let o := otherPort port
  if (s.urg.port[o]).low && decide (f.type_ = 0x10) && f.seq.getLsbD 0 then s
  else (s.emit (.forward o ({ f with hops := f.hops + 1 }.blocks good))).countEvent 0x51 1 {}

/-- A received frame (R357): discarded as its own, as a duplicate or beyond 1,023 hops; otherwise forwarded unless it names this device alone. One whose END check fails is counted and sent on with an inverted CRC. TIME is forwarded by TIME_RX. -/
def State.takeFrame (s : State) (port : Fin 2) (f : RingFrame) (good : Bool) : State :=
  if hopOnly f.type_.toNat || decide (f.type_ = 0x05 ∨ f.src = s.node ∨ f.hops = 1023) then s
  else
    let alone := !f.all && decide (f.dst = s.node)
    if !good then
      let s1 := s.modRing port fun p => { p with crc := satInc p.crc }
      if alone then s1 else s1.forwardFrame port f false
    else match s.noteSeq f.src f.seq with
      | (true, t) => t
      | (false, t) => if alone then t else t.forwardFrame port f true

/-- The blocks of a frame arrive on a port (R355, R357), with whatever stands between them. -/
def execRingFrameForward (port : Fin 2) (first : RingBlock) (rest : List RingBlock) (s : State) : Host.Outcome State Fault Refusal :=
  .next (if !s.ringRuns then s
  else
    let s1 := s.countStrange port (first :: rest)
    match frameIn (first :: rest) with
    | some (f, good) => s1.takeFrame port f good
    | none => s1)

/-- Whether one candidate for ring time master goes before another (R359). -/
def masterBefore (a b : BitVec 8 × BitVec 10) : Bool := decide (a.1 < b.1 ∨ (a.1 = b.1 ∧ a.2 < b.2))

/-- Candidates for ring time master (R359, R366): this device unless its node is announced twice, and every live node, with a TM_PRIO from 1. -/
def State.candidates (s : State) : List (BitVec 8 × BitVec 10) :=
  let own := BitVec.ofNat 8 (s.regField 0x2A0000 24 8)
  ((if s.urg.dup then [] else [(own, s.node)]) ++ s.urg.nodes.map fun n => (n.prio, n.node)).filter fun x => decide (x.1 ≠ 0)

/-- Elect the ring time master (R359): a change during LOCKING restarts the count of 16 updates (R366). -/
def State.elect (s : State) : State :=
  let m := s.candidates.foldl (fun (b : Option (BitVec 8 × BitVec 10)) x =>
    match b with
    | none => some x
    | some y => some (if masterBefore x y then x else y)) none
  let new := m.map Prod.snd
  { s with
    urg := { s.urg with master := new }
    tim := if new = s.urg.master then s.tim else { s.tim with good := 0 } }

/-- The device sends ANNOUNCE, with its role in ring locks (R342, R356); its own NODE and TM_PRIO count from here (R369). -/
def execAnnounceSend (s : State) : Host.Outcome State Fault Refusal :=
  .next (if s.blkUp .urg then
    (s.elect).ringSend (.announce s.node s.group (BitVec.ofNat 8 (s.regField 0x2A0000 24 8)) (s.regBit 0x260000 0))
  else s)

/-- An ANNOUNCE arrives (R359, R366): the node is live; the device's own number from elsewhere sets DUP. -/
def execAnnounceRx (node : BitVec 10) (group prio : BitVec 8) (accepts : Bool) (s : State) : Host.Outcome State Fault Refusal :=
  .next (if !s.blkUp .urg then s
  else if node = s.node then { s with urg := { s.urg with dup := true } }.elect
  else { s with urg := { s.urg with nodes := ⟨node, group, prio, accepts⟩ :: s.urg.nodes.filter fun x => decide (x.node ≠ node) } }.elect)

/-- No ANNOUNCE of a node for 30 ms (R359). -/
def execNodeLivenessExpiry (node : BitVec 10) (s : State) : Host.Outcome State Fault Refusal :=
  .next (if s.blkUp .urg then { s with urg := { s.urg with nodes := s.urg.nodes.filter fun x => decide (x.node ≠ node) } }.elect else s)

/-- A port sends DELAY_REQ (R356, R360). -/
def execDelayReqSend (port : Fin 2) (at_ : Nat) (s : State) : Host.Outcome State Fault Refusal :=
  .next (let t := s.advance at_
    t.hopAon port (.delayReq t.timeSixteenth))

/-- A DELAY_REQ is answered with its departure time and the turnaround here, in 1/16 ns (R360). -/
def execDelayReqRx (port : Fin 2) (departure turnaround : Int) (s : State) : Host.Outcome State Fault Refusal :=
  .next (s.hopAon port (.delayResp departure turnaround))

/-- A DELAY_RESP gives one more exchange of a port: RTT less turnaround, the last 16 kept (R360). -/
def execDelayRespRx (port : Fin 2) (rtt turnaround : Nat) (s : State) : Host.Outcome State Fault Refusal :=
  .next (if s.ringRuns && decide ((s.urg.port[port]).state ≠ .down) then s.modRing port fun p => { p with delays := ((rtt - turnaround) :: p.delays).take 16 } else s)

/-- Link delay of a port in 1/16 ns (R360): half the mean over the exchanges kept. -/
def RingPort.delay (p : RingPort) : Nat := if p.delays.isEmpty then 0 else p.delays.foldl (· + ·) 0 / (2 * p.delays.length)

/-- The ring time master sends TIME (R359). -/
def execTimeSend (at_ : Nat) (s : State) : Host.Outcome State Fault Refusal :=
  .next (let t := s.advance at_
    if t.isMaster && !t.urg.dup then t.ringSend (.time t.timeSixteenth 0) else t)

/-- What a TIME message means for the timebase (R349, R359): the hardware servo takes the error of ring time, unless this device is the master. -/
def State.ringTime (s : State) (port : Fin 2) (src : BitVec 10) (hops : BitVec 10) (origin correction : Int) : State :=
  let follows : Bool := match s.urg.master with
    | some m => decide (m = src)
    | none => true
  if s.timeSrc == 2 && !s.isMaster && follows then
    { s with tim := { s.tim with hops := hops } }.timeUpdate (origin + correction + (s.urg.port[port]).delay - s.timeSixteenth)
  else s

/-- A TIME message (R357, R359): forwarded once with the delay of its link and its residence here added to CORRECTION, in 1/16 ns, and taken by the servo. -/
def execTimeRx (port : Fin 2) (src : BitVec 10) (seq : BitVec 16) (hops : BitVec 10) (origin correction : Int) (residence : Nat) (at_ : Nat) (s : State) :
    Host.Outcome State Fault Refusal :=
  .next (let t := s.advance at_
    if !t.ringRuns || decide (src = t.node ∨ hops = 1023) then t
    else match t.noteSeq src seq with
      | (true, u) => u
      | (false, u) =>
        let corr := correction + (u.urg.port[port]).delay + residence
        ((u.emit (.timeForward (otherPort port) src seq (hops.toNat + 1) origin corr)).countEvent 0x51 1 {}).ringTime port src hops origin correction)

/-- A tide word arrives (R363, R364). -/
def execTideRx (word : TideWord) (at_ : Nat) (s : State) : Host.Outcome State Fault Refusal :=
  .next (let t := s.advance at_
    if t.blkUp .urg then t.receiveTide word else t)

/-- 10 µs have passed without a word of a source (R364). -/
def execTideSourceExpiry (node : BitVec 10) (s : State) : Host.Outcome State Fault Refusal :=
  .next (if s.blkUp .urg then s.expireTide node else s)

/-- A standby sets F_p back to the line above the last one the active has launched, for each plane that passed it (R384). -/
def State.backToActive (s : State) : State :=
  if !s.standsBy then s
  else (List.finRange 8).foldl (fun (t : State) p =>
    match (t.twn.plane[p]).stamped with
    | some f => if f + 1 < (t.fir.plane[p]).next then
        t.modPlane p fun x => { x with next := f + 1, commit := f + 1, committed := [] }
      else t
    | none => t) s

/-- A STOP of another device of the web group (R365): every plane in RUN or CLOSING takes cause RING, one in HOLD or ARMED adds it (R366); the sender's plane mask selects none. -/
def execStopRx (node : BitVec 10) (group _mask : BitVec 8) (s : State) : Host.Outcome State Fault Refusal :=
  .next (if s.blkUp .urg && s.regBit 0x160000 18 && decide (group = s.group ∧ node ≠ s.node) then
    let s1 := { s with urg := { s.urg with stops := if s.urg.stops.contains node then s.urg.stops else s.urg.stops ++ [node] } }
    (s1.backToActive.assertCause (List.finRange 8) 7).settle s
  else s)

/-- The device sends STATE to its web group (R365, R384). -/
def execStateSend (s : State) : Host.Outcome State Fault Refusal :=
  .next (if s.tellsRing then s.ringSend (.state s.group (s.fir.plane.map (·.phase))) else s)

/-- Cause RING clears once no STOP holds it (R253, R365). -/
def State.dropStop (s : State) (node : BitVec 10) : State :=
  let left := s.urg.stops.filter fun n => decide (n ≠ node)
  let s1 := { s with urg := { s.urg with stops := left } }
  if left.isEmpty && !s.urg.stops.isEmpty then (s1.clearCause (List.finRange 8) 7).settle s else s1

/-- A STATE message (R365): it lifts the sender's STOP once every plane of its that prints is ARMED or in RUN. -/
def execStateRx (node : BitVec 10) (group : BitVec 8) (planes : Vector PlanePhase 8) (s : State) : Host.Outcome State Fault Refusal :=
  .next (if s.blkUp .urg && decide (group = s.group) && planes.toList.all fun p => decide (p = .idle ∨ p = .armed ∨ p = .run) then s.dropStop node else s)

/-- CLR_RING clears cause RING on every plane (R365). -/
def State.clearRing (s : State) : State :=
  ({ s with urg := { s.urg with stops := [] } }.clearCause (List.finRange 8) 7).settle s

/-- URG_CTRL takes a value (R365, R369). -/
def State.writeUrgCtrl (s : State) (v : Word) : State :=
  let s1 := if v.getLsbD 30 then s.clearRing else s
  if v.getLsbD 31 then s1.ringSend (.wake (v.extractLsb' 0 10)) else s1

/-- A host write of URG_CTRL.SEND_WAKE (R365). -/
def execUrgSendWake (value : Word) (s : State) : Host.Outcome State Fault Refusal :=
  .next (s.onWrite 0x2A000C value fun t => t.writeUrgCtrl value)

/-- A host write of URG_CTRL.CLR_RING (R365). -/
def execUrgClrRing (value : Word) (s : State) : Host.Outcome State Fault Refusal :=
  .next (s.onWrite 0x2A000C value fun t => t.writeUrgCtrl value)

/-- A WAKE message for this device (R70, R71, R365): with WAKE_RING_EN set it wakes a sleeping device and abandons a sleep entry under way; one in state AWAKE ignores it. -/
def execWakeRx (s : State) : Host.Outcome State Fault Refusal :=
  .next (if s.rst.sleepCfg.getLsbD 7 then s.wakeEvent 2 else s)

/-- URG_CFG takes a value (R369): the rewritten NODE ends DUP (R366). -/
def State.writeUrgCfg (s : State) (v : Word) : State :=
  let s1 := s.hostWrite 0x2A0000 v
  { s1 with urg := { s1.urg with dup := false } }

end Sys2Proof.Machine
end

