-- ==== Sys2Proof/Machine/Twin.lean ====
section
/-! DEFINITION. The commands of the twin pair (chapter 18): heartbeats and pairing, stamps, signatures, takeover, joining, failure and the planned swap. -/

namespace Sys2Proof.Machine

/-- A plane's links are not all in RUN (R383): those of a plane that prints. -/
def State.linksOut (s : State) : Bool :=
  (List.finRange 8).any fun p => s.planePrints p && (planeLinks s.liveView p).any fun k => decide ((s.plk.link[k]).st ≠ .run)

/-- TWN_STATUS.TAKE_BLOCK, 5 bits (R383, R392): bits 0 to 3 the recorded causes, bit 4 a link not in RUN. -/
def State.takeBlock (s : State) : BitVec 5 :=
  (s.twn.block.toList.foldl (fun m b => m ||| b.setWidth 5) 0) ||| (if s.standsBy && s.linksOut then 16 else 0)

/-- The timebase is LOCKED to ring time, or the device is its master (R349, R370). -/
def State.ringLocked (s : State) : Bool := s.isMaster || (decide (s.timeSrc = 2) && decide (s.tim.state = .locked))

/-- The settings that both twins must hold equal (R370): BITS, LEAD, GUARD, CHAMBER. -/
def State.twinSettings (s : State) : List Nat :=
  [s.regField 0xC0000 0 3, s.regField 0x100000 0 3, s.regField 0x160000 0 16, s.regField 0x240000 0 2]

/-- RING_ACCEPT and RING_STOP are both set (R370). -/
def State.groupStops (s : State) : Bool := s.regBit 0x260000 0 && s.regBit 0x160000 18

/-- The largest L_k among a plane's own links (R375). -/
def State.ownLat (s : State) (p : Fin 8) : Nat := (planeLinks s.liveView p).foldl (fun m n => max m (s.plk.link[n]).lat) 0

/-- TWN_CFG.ENABLE. -/
def State.twinOn (s : State) : Bool := s.blkUp .twn && s.regBit 0x2C0000 0

/-- Every 20 µs a twin sends HEARTBEAT (R373). -/
def execTwinHeartbeatSend (s : State) : Host.Outcome State Fault Refusal :=
  .next (if s.twinOn then
    s.twinSend (.heartbeat s.twn.role s.twn.epoch (s.regBit 0x2C0000 1) s.peerNode (s.group, s.groupStops, s.ringLocked, s.twinSettings)
      (Vector.ofFn s.ownLat) (decide (s.takeBlock ≠ 0)))
  else s)

/-- A frame of the twin peer has come (R379, R392). -/
def State.fromPeer (s : State) (node : BitVec 10) (run : State → State) : State :=
  if s.blkUp .twn && decide (node = s.peerNode ∧ node ≠ s.node) then run { s with twn := { s.twn with peerLive := true } } else s

/-- The role a device takes at pairing (R374): STANDBY beside an ACTIVE peer, else by PREFER, else the lower node is ACTIVE. -/
def pairRole (own peer : Bool) (ownNode peerNode : BitVec 10) (peerRole : TwinRole) : TwinRole :=
  if peerRole = .active then .standby
  else if own = peer then (if ownNode < peerNode then .active else .standby)
  else if own then .active else .standby

/-- The pair forms (R371, R374): IDLE tells the boards which device is ACTIVE, and the position comes from tide words from here on. -/
def State.formPair (s : State) (r : TwinRole) : State :=
  let s1 := ({ s with twn := { s.twn with role := r } }.idleAll).followPosition
  (if s1.tideReady then s1 else s1.assertCause (List.finRange 8) 4).settle s

/-- What a peer HEARTBEAT carries (R373). -/
def State.heartbeatIn (s : State) (role : TwinRole) (epoch : BitVec 16) (lats : Vector Nat 8) (blocked : Bool) : State :=
  let t := s.twn
  { s with twn := { t with
      peerRole := some role, peerBlock := blocked
      epoch := if role = .active ∧ (t.role = .standby ∨ t.role = .joining) then epoch else t.epoch
      plane := Vector.ofFn fun p : Fin 8 => { t.plane[p] with peerLat := lats[p] } } }

/-- A peer HEARTBEAT arrives (R370, R374, R375): it may form the pair from SINGLE. -/
def execTwinHeartbeatRx (node : BitVec 10) (role : TwinRole) (epoch : BitVec 16) (prefer : Bool) (peer : BitVec 10) (group : BitVec 8)
    (stops locked : Bool) (settings : List Nat) (lats : Vector (BitVec 24) 8) (blocked : Bool) (s : State) : Host.Outcome State Fault Refusal :=
  .next (s.fromPeer node fun t =>
    let u := t.heartbeatIn role epoch (lats.map (·.toNat)) blocked
    let met := decide (peer = u.node ∧ group = u.group ∧ settings = u.twinSettings) && stops && u.groupStops && locked && u.ringLocked
    if u.twinOn && decide (u.twn.role = .single) && met then u.formPair (pairRole (u.regBit 0x2C0000 1) prefer u.node node role) else u)

/-- A received STAMP is kept for its line; a line already committed takes the stamp at once (R375). -/
def State.stampIn (s : State) (p : Fin 8) (n stamp tf : Nat) : State :=
  let s1 := s.modTwin p fun x => { x with
    stamped := some n
    stamps := if n < s.fireLine p then x.stamps else (x.stamps.filter fun y => decide (y.1 ≠ n)) ++ [(n, stamp, tf)] }
  s1.modPlane p fun x => { x with
    committed := x.committed.map fun (l : FireLine) => if l.line = n then s.fixLine p n (diff48 stamp s.fireTick) tf else l }

/-- The standby receives the stamp and T_f of a line (R375). -/
def execStampRx (node : BitVec 10) (plane : Fin 8) (line stamp : BitVec 48) (tf : BitVec 24) (s : State) : Host.Outcome State Fault Refusal :=
  .next (s.fromPeer node fun t => if t.standsBy then t.stampIn plane line.toNat stamp.toNat tf.toNat else t)

/-- STAMP_LATE counts (R375, R376). -/
def State.countLate (s : State) : State := { s with twn := { s.twn with stampLate := satInc s.twn.stampLate } }

/-- A standby that was data-late on a line learns that the active has launched it: it goes back to JOINING (R374, R390). -/
def State.lateKnown (s : State) (g : Sig) : State :=
  if s.twn.role = .standby ∧ (s.twn.plane[g.plane]).late = some g.line then
    { s with twn := { s.twn with role := .joining, plane := s.twn.plane.map fun (x : TwinPlane) => { x with match_ := 0, late := none } } }
  else s

/-- The new active has transmitted n_s of a plane, as its SIG shows (R389). -/
def State.swapSeen (s : State) (g : Sig) : State :=
  match (s.fir.plane[g.plane]).swapAt with
  | some n => if n ≤ g.line then { s with twn := { s.twn with swapLeft := s.twn.swapLeft &&& ~~~(BitVec.twoPow 8 g.plane) } }.swapCheck else s
  | none => s

/-- A peer SIG meets the device's own signatures of its line (R376, R378): more than 4 lines late it counts as STAMP_LATE; before the own SIG is there it waits. -/
def State.peerSig (s : State) (g : Sig) : State :=
  let f := s.fireLine g.plane
  let keep := s.twn.peer.filter fun x => !sameLine x g && !(decide (x.plane = g.plane) && decide (x.line + 8 < f))
  match s.twn.own.find? fun x => sameLine x g with
  | some own =>
    let s1 := { s with twn := { s.twn with own := s.twn.own.filter fun x => !sameLine x g, peer := keep } }
    if g.line + 5 < f then s1.countLate else s1.compareSig own g
  | none =>
    if decide (f ≤ g.line) || s.twn.forming.any fun x => sameLine x g then { s with twn := { s.twn with peer := g :: keep } } else s

/-- A peer SIG arrives, its payload (R376, R378). -/
def execSigRx (node : BitVec 10) (bytes : List Byte) (s : State) : Host.Outcome State Fault Refusal :=
  .next (s.fromPeer node fun t =>
    let g := parseSig bytes
    if t.paired then ((((t.lateKnown g).swapSeen g).peerSig g)).settle t else t)

/-- Committed lines not yet launched are withdrawn (R254, R381). -/
def State.withdrawAll (s : State) : State :=
  { s with fir := { s.fir with plane := s.fir.plane.map fun (x : Plane) => { x with committed := [], commit := x.next } } }

/-- TAKEOVER arrives (R381, R388): in a planned swap the old active goes on below n_s; else it commits no more lines and withdraws the unlaunched ones. A device that is not ACTIVE takes the pair epoch. -/
def execTakeoverRx (node : BitVec 10) (epoch : BitVec 16) (s : State) : Host.Outcome State Fault Refusal :=
  .next (s.fromPeer node fun t =>
    let u := { t with twn := { t.twn with peerRole := some .active } }
    if u.twn.role = .single then t
    else if u.twn.role = .active ∧ u.twn.swap = none then { u with twn := { u.twn with yielded := true } }.withdrawAll
    else { u with twn := { u.twn with epoch := epoch } }.swapCheck.settle t)

/-- No planned swap gives lines to the twin any more (R390). -/
def State.takeAll (s : State) : State :=
  { s with fir := { s.fir with plane := s.fir.plane.map fun (x : Plane) => { x with sendFrom := 0 } } }

/-- A FAILED frame of the peer arrives (R379, R390). -/
def execFailedRx (node : BitVec 10) (_cause : BitVec 4) (s : State) : Host.Outcome State Fault Refusal :=
  .next (s.fromPeer node fun t =>
    let u := { t with twn := { t.twn with peerRole := some .failed } }
    if u.twn.role = .standby then u.takeOver (Vector.replicate 8 0) else u.takeAll)

/-- SWAP arrives with n_s of each plane (R379, R388). -/
def execSwapRx (node : BitVec 10) (first : Vector (BitVec 48) 8) (s : State) : Host.Outcome State Fault Refusal :=
  .next (s.fromPeer node fun t => if t.twn.role = .standby then t.takeOver (first.map (·.toNat)) else t)

/-- A device takes the active's anchor, offset, stretch and print position of a plane; F_p is e_p (R387). -/
def State.adoptPlane (s : State) (p : Fin 8) (xa phia print : Int) (ofs stretch : Word) (epoch : Nat) : State :=
  let s1 := (s.setReg (0x160104 + 0x40 * p) ofs).setReg (0x160108 + 0x40 * p) stretch
  let s2 := s1.modPlane p fun x => { x with xa := xa, phia := phia, print := print, next := epoch, commit := epoch, committed := [] }
  let s3 := s2.modTwin p fun x => { x with
    epoch := epoch, valid := true, match_ := 0, late := none
    stamps := x.stamps.filter fun y => decide (epoch ≤ y.1) }
  s3.lineFollow p

/-- PLANE_STATE of one plane arrives (R387). -/
def execPlaneStateRx (node : BitVec 10) (plane : Fin 8) (xa phia print : Int) (ofs stretch : Word) (epoch : BitVec 48) (s : State) :
    Host.Outcome State Fault Refusal :=
  .next (s.fromPeer node fun t => if t.standsBy then (t.adoptPlane plane xa phia print ofs stretch epoch.toNat).settle t else t)

/-- STAGE arrives (R386): the units, register entries and density targets go into the chamber of the same number, if it is OPEN. -/
def execStageRx (node : BitVec 10) (chamber : Fin 4) (units : List (Nat × BitVec 512)) (entries : List (Nat × Word)) (targets : List (Nat × BitVec 8))
    (s : State) : Host.Outcome State Fault Refusal :=
  .next (s.fromPeer node fun t =>
    if t.standsBy && t.blkUp .lck && decide ((t.lck.ch[chamber]).st = .open_) then
      (units.foldl (fun (x : State) u => x.dramPutUnit 7 (x.storeAddr chamber u.1) (unitBytes u.2) true) t).modChamber chamber fun d =>
        let d1 := entries.foldl (fun (c : Chamber) e => c.append e.1 e.2) d
        { d1 with checked := false, targets := targets, units := units.foldl (fun m u => sparseInsert m u.1 u.2) d1.units }
    else t)

/-- TWN_TIMING.JOIN_LEAD; values below 64 act as 64 (R392). -/
def State.joinLead (s : State) : Nat := max 64 (s.regField 0x2C0004 20 12)

/-- JOIN arrives: the active answers for each printing plane (R387). -/
def execJoinRx (node : BitVec 10) (s : State) : Host.Outcome State Fault Refusal :=
  .next (s.fromPeer node fun t =>
    if t.twn.role = .active then
      ((List.finRange 8).filter t.planePrints).foldl (fun (u : State) p => u.sendPlaneState p (u.fireLine p + t.joinLead)) t
    else t)

/-- LOSS_US µs have passed without a twin frame of the peer (R379): with LOSS_TAKE the standby takes over, unless a SIG with ERR still waits to be judged (R390). -/
def execPeerLossTimeout (s : State) : Host.Outcome State Fault Refusal :=
  .next (if !s.blkUp .twn then s
  else
    let s1 := { s with twn := { s.twn with peerLive := false } }
    if s.regBit 0x2C0000 2 && decide (s.twn.role = .standby) && !(s.twn.peer.any fun g => g.err) then s1.takeOver (Vector.replicate 8 0) else s1)

/-- TWN_CTRL takes a value (R374). -/
def State.writeTwnCtrl (s : State) (v : Word) : State := if v.getLsbD 0 then s.twinFails 3 else s

/-- A host write of TWN_CTRL.FAIL (R374). -/
def execTwnCtrlFailWrite (value : Word) (s : State) : Host.Outcome State Fault Refusal :=
  .next (s.onWrite 0x2C0010 value fun t => t.writeTwnCtrl value)

/-- The device leaves its pair for SINGLE (R374): the epoch rises, IDLE carries it with ACTIVE = 1, and a failed role is cleared with its twin fault (R55). -/
def State.toSingle (s : State) : State :=
  let s1 := s.abandonSwap
  let s2 := { s1 with
    twn := { s1.twn with role := .single, epoch := nextEpoch s1.twn.epoch, yielded := false, swapLeft := 0, forming := [], own := [], peer := [] }
    rst := { s1.rst with twinFault := false } }
  ((s2.idleAll.settleResets).followPosition).settle s

/-- TWN_CFG takes a value (R374, R392): a write of ENABLE = 0 while any plane prints is ignored; otherwise it ends the pair. -/
def State.writeTwnCfg (s : State) (v : Word) : State :=
  let on := s.regBit 0x2C0000 0
  let s1 := s.hostWrite 0x2C0000 (if on && s.printing then v ||| 1 else v)
  if on && !s1.regBit 0x2C0000 0 then s1.toSingle else s1

/-- A host write of TWN_CFG (R374). -/
def execTwnEnableWrite (value : Word) (s : State) : Host.Outcome State Fault Refusal :=
  .next (s.onWrite 0x2C0000 value fun t => t.writeTwnCfg value)

/-- TWN_EPOCH takes a value (R391, R392): ignored while any plane prints; 0 acts as 1. -/
def State.writeTwnEpoch (s : State) (v : Word) : State :=
  if s.printing then s
  else
    let e := v.setWidth 16
    { s with twn := { s.twn with epoch := if e = 0 then 1 else e } }.idleAll

/-- A host write of TWN_EPOCH.EPOCH (R391). -/
def execTwnEpochWrite (value : Word) (s : State) : Host.Outcome State Fault Refusal :=
  .next (s.onWrite 0x2C000C value fun t => t.writeTwnEpoch value)

/-- The next entry of a ring is TWIN_CTRL with an action (R95). -/
def isTwin (action : Nat) (e : Entry) : Bool := decide (e.op = 0x72 ∧ bitsOf (e.num 0) 0 4 = action)

/-- A FAILED device enters JOINING: its twin fault is released and it asks for PLANE_STATE (R374, R387). -/
def State.clearFailed (s : State) : State :=
  ({ s with
    twn := { s.twn with role := .joining, plane := s.twn.plane.map fun (x : TwinPlane) => { x with match_ := 0 } }
    rst := { s.rst with twinFault := false } }.settleResets).twinSend .join

/-- TWIN_CTRL clear failed (R389). -/
def execTwinCtrlClearFailed (ring : Fin 16) (s : State) : Host.Outcome State Fault Refusal :=
  .next (s.withEntryAt ring (isTwin 0) Entry.blocks fun f t =>
    if t.twn.role = .failed then (t.clearFailed.complete f.id stOk 0).settle t else t.complete f.id stFwRefused 0x01)

/-- n_s of a plane (R388). -/
def State.swapLine (s : State) (p : Fin 8) : Nat := s.fireLine p + (if (s.fir.plane[p]).phase = .run then 32 else 0)

/-- The active starts a planned swap (R388). -/
def State.startSwap (s : State) (id : Nat) : State :=
  let plane : Vector Plane 8 := Vector.ofFn fun p : Fin 8 => { s.fir.plane[p] with swapAt := some (s.swapLine p) }
  let runs := maskOf ((List.finRange 8).filter fun p => decide ((s.fir.plane[p]).phase = .run))
  (({ s with
    twn := { s.twn with swap := some id, swapLeft := runs }
    fir := { s.fir with plane := plane } }.waitFlight id).twinSend (.swap (Vector.ofFn s.swapLine))).swapCheck

/-- TWIN_CTRL planned swap (R388, R389). -/
def execTwinCtrlPlannedSwap (ring : Fin 16) (s : State) : Host.Outcome State Fault Refusal :=
  .next (s.withEntryAt ring (isTwin 1) Entry.blocks fun f t =>
    if t.twn.role ≠ .active then t.complete f.id stFwRefused 0x02
    else if t.twn.peerRole ≠ some .standby then t.complete f.id stFwRefused 0x03
    else if t.twn.peerBlock then t.complete f.id stFwRefused 0x04
    else t.startSwap f.id)

end Sys2Proof.Machine
end

