-- ==== Sys2Proof/Machine/RegisterRead.lean ====
section
/-! DEFINITION. What a read of a register returns (R7 to R9): the fields a host writes as they are held, read-only fields as the block stands, write-only and reserved fields and empty offsets as 0; and the halves that a read of a LO register captures (R241, R265, R368). -/

namespace Sys2Proof.Machine

/-- Fields of a word as numbers, each with its lowest bit; a caller gives values that fit. -/
def wordOf (fields : List (Nat × Nat)) : Word := fields.foldl (fun w x => w ||| BitVec.ofNat 32 (x.2 <<< x.1)) 0

/-- A flag as a number. -/
def flag (b : Bool) : Nat := b.toNat

/-- Flags as a number, the first in bit 0. -/
def flagBits (bs : List Bool) : Nat := (bs.mapIdx fun i b => b.toNat * 2 ^ i).sum

/-- The low `w` bits of a signed number. -/
def fieldOf (w : Nat) (x : Int) : Nat := unsigned w x

/-- Word `k` of a number, the lowest as word 0. -/
def halfOf (x k : Nat) : Word := BitVec.ofNat 32 (x / 2 ^ (32 * k))

/-- RST_DOMAIN's code of a state (R72). -/
def unitCode : UnitState → Nat
  | .up => 0 | .isolating => 1 | .inReset => 2 | .pending => 3

/-- GLB_STATUS.TWIN_ROLE and TWN_STATUS.ROLE (R374, R392). -/
def roleCodes : TwinRole → Nat × Nat
  | .single => (0, 0) | .active => (1, 1) | .standby => (2, 2) | .joining => (2, 3) | .failed => (3, 4)

/-- LEVEL (R395). -/
def levelCode : ThermalLevel → Nat
  | .normal => 0 | .warn => 1 | .throttle => 2

/-- GLB_STATUS (R20, R44, R256, R349, R374, R395). -/
def State.glbStatus (s : State) : Word :=
  wordOf [(0, flag (s.bootDone && [Blk.clk, .glb, .thm, .tim, .urg, .hif, .twn, .pmc].all s.blkUp)),
    (1, flag (decide (s.rst.data = .up))), (2, flag (decide (s.rst.ctrl = .up))),
    (3, flagBits (s.fir.plane.toList.map Plane.firing)), (11, flag (s.fir.plane.toList.any fun p => decide (p.phase = .hold))),
    (12, levelCode s.thm.level), (14, (roleCodes s.twn.role).1),
    (16, flag (decide (s.tim.state = .free ∨ s.tim.state = .locking)))]

/-- GLB (R20). -/
def State.readGlb (s : State) (o : Nat) : Word :=
  match o with
  | 0x00 => 0x1E3C8262
  | 0x04 => 0x00000100
  | 0x10 => s.glbStatus
  | _ => s.reg o

/-- RST_SLEEP.STATE (R69). -/
def sleepCode : SleepState → Nat
  | .awake => 0 | .draining => 1 | .ready => 2 | .refused => 3

/-- RST (R72). -/
def State.readRst (s : State) (o : Nat) : Word :=
  let r := s.rst
  match o with
  | 0x10000 => r.cause.setWidth 32
  | 0x10004 => wordOf [(0, r.otp.reachResetN.toNat), (3, r.otp.reachPerst.toNat), (6, r.otp.reachWdog.toNat), (9, r.otp.reachTwin.toNat)]
  | 0x10008 => wordOf [(0, unitCode r.data), (2, unitCode r.ctrl), (4, flag r.dramSr)]
  | 0x10010 => wordOf [(0, r.blockHold.toNat), (16, flag r.dataHold), (17, flag r.ctrlHold)]
  | 0x10014 => r.linkHold
  | 0x10020 => wordOf [(0, r.stage.toNat), (8, r.error.toNat),
      (16, flagBits [r.ddr1Off, r.serWOff, r.serEOff, r.netOff, r.csiOff, r.slot]), (22, r.elapsed.toNat)]
  | 0x10030 => wordOf [(0, flag r.enter), (1, r.sleepCfg.toNat), (16, sleepCode r.sleep), (20, r.reason.toNat)]
  | 0x10034 => r.wake.setWidth 32
  | _ => 0

/-- CLK (R82). -/
def State.readClk (s : State) (o : Nat) : Word :=
  match o with
  | 0x20000 => s.clk.lock.setWidth 32
  | 0x20014 => wordOf [(0, s.clk.measCount.toNat), (31, flag s.clk.measDone)]
  | _ => s.reg o

/-- THM (R401). -/
def State.readThm (s : State) (o : Nat) : Word :=
  let t := s.thm
  match o with
  | 0x30000 => wordOf [(0, levelCode t.level), (2, flag t.hold.isSome), (4, t.maxSensor.val), (8, t.history.length - 1), (16, fieldOf 16 t.max)]
  | 0x30008 => s.reg o ||| wordOf [(16, fieldOf 16 t.rate)]
  | 0x3000C => wordOf [(0, t.nWarn.toNat), (8, t.nThrottle.toNat), (16, t.nRate.toNat), (24, t.nFault.toNat)]
  | 0x30010 => wordOf [(0, fieldOf 16 (t.peak.getD 0)), (16, t.peakSensor.val)]
  | _ => match arrayAt o 0x30100 4 12 with
    | some n =>
      let x := t.sensor[Fin.ofNat 12 n]
      wordOf [(0, fieldOf 16 x.temp), (16, flag x.fault), (17, flag x.valid)]
    | none => s.reg o

/-- HIF_MRn_STATUS.STATE (R89). -/
def ringCode : RingState → Nat
  | .disabled => 0 | .running => 1 | .halted => 2 | .error => 3

/-- STATUS of a completion ring or of the log ring (R89). -/
def CRing.status (c : CRing) : Word := wordOf [(0, c.tail.toNat), (16, flag c.phase)]

/-- HIF (R89, R105). -/
def State.readHif (s : State) (o : Nat) : Word :=
  if o = 0x4001C then s.hif.log.status
  else match arrayAt o 0x4010C 0x10 16 with
    | some n =>
      let r := s.hif.mr[Fin.ofNat 16 n]
      wordOf [(0, r.head.toNat), (16, ringCode r.state), (18, flag (s.hif.flights.any fun f => decide (f.ring.val = n))), (24, r.error.toNat)]
    | none => match arrayAt o 0x4020C 0x10 8 with
      | some m => (s.hif.cr[Fin.ofNat 8 m]).status
      | none => s.reg o

/-- A doorbell page (R91). -/
def State.readDoorbell (s : State) (o : Nat) : Word :=
  let n := (o - 0x300000) / 0x1000
  let r := s.hif.mr[Fin.ofNat 16 n]
  match (o - 0x300000) % 0x1000 with
  | 0 => r.tail.setWidth 32
  | 8 => if n < 8 then (s.hif.cr[Fin.ofNat 8 n]).head.setWidth 32 else 0
  | 12 => if n = 0 then s.hif.log.head.setWidth 32 else 0
  | 16 => r.head.setWidth 32
  | _ => 0

/-- A fault slot's word (R115 to R117). -/
def FaultSlot.word (f : FaultSlot) : Nat → Word
  | 0 => halfOf (f.page * 4096) 0
  | 1 => halfOf (f.page * 4096) 1
  | 2 => wordOf [(0, flag f.valid), (1, f.kind.toNat), (4, f.level.toNat), (6, flag f.write), (8, f.opcode.toNat)]
  | _ => 0

/-- MMU (R117). -/
def State.readMmu (s : State) (o : Nat) : Word :=
  if o = 0x50020 then wordOf [(0, flagBits (s.mmu.flt.toList.map FaultSlot.valid))]
  else if 0x50100 ≤ o ∧ o < 0x50210 then (s.mmu.flt[Fin.ofNat 17 ((o - 0x50100) / 0x10)]).word (o % 0x10 / 4)
  else s.reg o

/-- CPY (R124). -/
def State.readCpy (s : State) (o : Nat) : Word :=
  if o = 0x60000 then wordOf [(0, s.cpy.queue.length), (8, flag s.cpy.run.isSome)] else s.reg o

/-- DMC (R147). -/
def State.readDmc (s : State) (o : Nat) : Word :=
  let d := s.dmc
  match o with
  | 0x80000 => wordOf [(0, flagBits [d.chUp[(0 : Fin 2)], d.chUp[(1 : Fin 2)], d.chFault[(0 : Fin 2)], d.chFault[(1 : Fin 2)], d.retrain[(0 : Fin 2)],
      d.retrain[(1 : Fin 2)], d.scrubHeld])]
  | 0x80004 => d.geom
  | 0x80018 => s.reg o ||| wordOf [(16, d.retrainCount.toNat)]
  | 0x80024 => d.scrubPass
  | 0x80030 => wordOf [(0, flagBits [d.ue, d.ce]), (8, d.ueCount.toNat), (16, d.ceCount.toNat)]
  | 0x80034 => halfOf (d.eccAddr / 64 * 64) 0
  | 0x80038 => halfOf d.eccAddr 1 ||| wordOf [(8, d.eccPort.toNat)]
  | 0x80048 => wordOf [(1, flag d.fill.isSome), (2, flag d.fillDone)]
  | 0x80050 => wordOf [(0, flag d.regv), (8, d.regvPort.toNat), (16, d.regvCount.toNat)]
  | 0x80054 => halfOf (d.regvAddr / 64 * 64) 0
  | 0x80058 => halfOf d.regvAddr 1 ||| wordOf [(8, d.regvLast.toNat)]
  | _ => s.reg o

/-- QDC (R170). -/
def State.readQdc (s : State) (o : Nat) : Word :=
  let q := s.qdc
  match o with
  | 0xA0008 => wordOf [(0, (q.dec.toList.filter Option.isSome).length), (8, (q.comp.toList.filter Option.isSome).length),
      (16, flag (decide (s.thm.level = .throttle)))]
  | 0xA0010 => wordOf [(0, q.badCount.toNat), (16, q.badCause.toNat), (20, q.badPlane.val)]
  | 0xA0014 => wordOf [(0, q.accepted.toNat), (16, q.late.toNat)]
  | 0xA0018 => wordOf [(0, q.quires.length + s.reservedQuires)]
  | _ => match arrayAt o 0xA0100 4 16 with
    | some k => halfOf q.sealed[Fin.ofNat 8 (k / 2)] (k % 2)
    | none => s.reg o

/-- SCR (R194). -/
def State.readScr (s : State) (o : Nat) : Word :=
  match o with
  | 0xC0004 => BitVec.ofNat 32 (loadOf s.now s.scr.passes)
  | 0xC0008 => s.scr.masked
  | _ => if 0xC0100 ≤ o ∧ o < 0xC0300 then
      let p : Fin 8 := Fin.ofNat 8 ((o - 0xC0100) / 0x40)
      match o % 0x40 with
      | 0x18 => halfOf s.scr.ready[p] 0
      | 0x1C => halfOf s.scr.ready[p] 1
      | 0x20 => BitVec.ofNat 32 (s.ahead p)
      | _ => s.reg o
    else s.reg o

/-- CSM_LNn_STATE (R215). -/
def gutterCode : GutterState → Nat
  | .silent => 0 | .refilling => 1 | .running => 2

/-- CSM (chapter 10). -/
def State.readCsm (s : State) (o : Nat) : Word :=
  let c := s.csm
  match o with
  | 0x100004 => BitVec.ofNat 32 (loadOf s.now c.visits)
  | 0x100008 => BitVec.ofNat 32 c.empty
  | 0x10000C => c.refillBlank
  | 0x100010 => c.gate
  | 0x100020 => c.discard
  | _ => match arrayAt o 0x100104 0x10 8 with
    | some p => BitVec.ofNat 32 (s.fetchAdvance (Fin.ofNat 8 p))
    | none => match arrayAt o 0x100108 0x10 8 with
      | some p => BitVec.ofNat 32 (s.span (Fin.ofNat 8 p))
      | none => match arrayAt o 0x100200 4 32 with
        | some n => BitVec.ofNat 32 (gutterCode (c.link[Fin.ofNat 32 n]).state)
        | none => s.reg o

/-- A channel's registers of the front end and of the speed (R241); `main` for the main channel, whose STRETCH is 0. -/
def Channel.read (c : Channel) (main : Bool) (held : Word) : Nat → Word
  | 0x08 => halfOf c.count 0
  | 0x0C => halfOf c.count 1
  | 0x10 => BitVec.ofInt 32 c.dev
  | 0x14 => wordOf [(0, flagBits [c.mismatch, c.fault, c.missing, c.illegal, c.ref.isSome]), (5, c.run), (16, c.illCount.toNat)]
  | 0x18 => BitVec.ofInt 32 c.speedReg
  | 0x1C => wordOf [(0, flagBits [c.valid, c.still, c.edgeRev, c.strValid])]
  | 0x28 => if main then 0 else BitVec.ofInt 32 c.stretch
  | _ => held

/-- A plane's position registers (R241). -/
def State.readPosition (s : State) (p : Fin 8) : Nat → Word
  | 0x00 => ((s.fir.plane[p].origin).getD 0).setWidth 32
  | 0x04 => wordOf [(0, ((s.fir.plane[p].origin).getD 0).toNat / 2 ^ 32), (31, flag s.fir.plane[p].origin.isSome)]
  | 0x08 => halfOf (fieldOf 64 (s.positionNow p)) 0
  | 0x0C => halfOf (fieldOf 64 (s.positionNow p)) 1
  | 0x10 => halfOf (fieldOf 64 s.fir.plane[p].print) 0
  | 0x14 => halfOf (fieldOf 64 s.fir.plane[p].print) 1
  | _ => 0

/-- POS (R241). -/
def State.readPos (s : State) (o : Nat) : Word :=
  if o = 0x140004 then wordOf [(0, flag s.pos.rev), (8, flagBits (s.pos.ch.toList.map Channel.fault)), (16, s.pos.revCount.toNat)]
  else if 0x140100 ≤ o ∧ o < 0x140200 then s.readPosition (Fin.ofNat 8 ((o - 0x140100) / 0x20)) (o % 0x20)
  else if 0x140400 ≤ o ∧ o < 0x140600 then
    let k := Fin.ofNat 8 ((o - 0x140400) / 0x40)
    (s.pos.ch[k]).read (decide (k = s.mainChannel)) (s.reg o) (o % 0x40)
  else s.reg o

/-- FIR_PLp_STATUS.STATE (R256). -/
def phaseCode : PlanePhase → Nat
  | .idle => 0 | .run => 1 | .hold => 2 | .armed => 3 | .closing => 4

/-- A plane's registers of FIR (R265). -/
def Plane.read (p : Plane) (held : Word) : Nat → Word
  | 0x00 => wordOf [(0, phaseCode p.phase), (8, p.cause.toNat)]
  | 0x10 => halfOf p.next 0
  | 0x14 => halfOf p.next 1
  | 0x18 => halfOf (fieldOf 48 p.seam) 0
  | 0x1C => halfOf (fieldOf 48 p.seam) 1 ||| wordOf [(31, flag p.seamValid)]
  | 0x20 => wordOf [(0, p.lag), (16, p.maxLag)]
  | 0x24 => wordOf [(0, p.stops.toNat), (16, p.resumes.toNat)]
  | _ => held

/-- FIR (R265). -/
def State.readFir (s : State) (o : Nat) : Word :=
  match o with
  | 0x160010 => s.fir.stop.setWidth 32
  | 0x160018 => halfOf s.fireTick 0
  | 0x16001C => halfOf s.fireTick 1
  | _ => if 0x160100 ≤ o ∧ o < 0x160300 then (s.fir.plane[Fin.ofNat 8 ((o - 0x160100) / 0x40)]).read (s.reg o) (o % 0x40) else s.reg o

/-- STATE.RATE (R293). -/
def rateCode : LinkRate → Nat
  | .t0 => 0 | .r5 => 1 | .r10 => 2

/-- CAP0, CAP1 and CAP2 (R293). -/
def Caps.word (c : Caps) : Nat → Word
  | 0 => wordOf [(0, c.rates.toNat), (2, flagBits [c.dual, c.portB, c.auth]), (8, c.maxBits.toNat % 8), (16, c.nbuf.toNat), (24, c.pver.toNat)]
  | 1 => wordOf [(0, c.tmin.toNat), (16, c.proc.toNat)]
  | _ => BitVec.ofNat 32 (c.channels.toNat % 2 ^ 14)

/-- A link's registers (R293). -/
def Link.read (l : Link) (held : Word) : Nat → Word
  | 0x04 => wordOf [(0, linkStateCode l.st), (4, rateCode l.rate), (6, flag l.lock), (8, l.cause.toNat), (16, l.retrains.toNat)]
  | 0x08 => (l.caps.map (Caps.word · 0)).getD 0
  | 0x0C => (l.caps.map (Caps.word · 1)).getD 0
  | 0x10 => (l.caps.map (Caps.word · 2)).getD 0
  | 0x14 => wordOf [(0, l.lat % 2 ^ 14), (16, l.tlink % 2 ^ 16)]
  | 0x18 => BitVec.ofNat 32 (l.dfwd % 2 ^ 20)
  | 0x1C => wordOf [(0, fieldOf 16 l.err), (16, l.maxErr)]
  | 0x24 => wordOf [(0, l.prbsDev), (16, l.prbsBrd)]
  | 0x28 => wordOf [(0, l.flags.toNat), (16, l.epoch.toNat)]
  | 0x2C => wordOf [(0, l.lostLate), (16, l.lostBad)]
  | 0x30 => l.lines
  | 0x40 => held ||| wordOf [(4, l.authResult.toNat)]
  | 0x44 => halfOf l.serial.toNat 0
  | 0x48 => halfOf l.serial.toNat 1
  | 0x4C => halfOf l.usage.toNat 0
  | 0x50 => halfOf l.usage.toNat 1
  | _ => held

/-- PLK (R293). -/
def State.readPlk (s : State) (o : Nat) : Word :=
  match linkWindow o with
  | some n => (s.plk.link[n]).read (s.reg o) (o % 0x1000)
  | none => 0

/-- A context's registers (R310). -/
def State.readCtx (s : State) (c : Fin 16) (o : Nat) : Word :=
  let x := s.cam.ctx[c]
  match o % 0x80 with
  | 0x10 => wordOf [(0, x.number.toNat), (16, x.flags.toNat)]
  | 0x14 => wordOf [(0, x.frames.toNat), (16, x.short.toNat)]
  | 0x18 => wordOf [(0, x.crc.toNat), (16, x.padded.toNat)]
  | 0x1C => wordOf [(0, x.dropped.toNat), (11, x.cutLines.toNat), (22, x.stale.toNat)]
  | 0x2C => s.reg o ||| wordOf [(16, s.ringStride c 0x24)]
  | 0x30 => x.s0
  | 0x4C => s.reg o ||| wordOf [(16, s.ringStride c 0x44)]
  | 0x50 => x.s3
  | _ => s.reg o

/-- CAM (R310). -/
def State.readCam (s : State) (o : Nat) : Word :=
  if o = 0x200004 then wordOf [(0, flagBits s.clk.csiRun.toList), (8, flag (decide (s.thm.level = .throttle)))]
  else if o = 0x200008 then s.cam.previewSkip
  else if 0x200400 ≤ o ∧ o < 0x200C00 then s.readCtx (Fin.ofNat 16 ((o - 0x200400) / 0x80)) o
  else match arrayAt o 0x200104 0x20 4 with
    | some p => let x := s.cam.port[Fin.ofNat 4 p]; wordOf [(0, x.eccCorr.toNat), (16, x.eccBad.toNat)]
    | none => match arrayAt o 0x200108 0x20 4 with
      | some p => let x := s.cam.port[Fin.ofNat 4 p]; wordOf [(0, x.discard.toNat), (16, x.dropped.toNat)]
      | none => match arrayAt o 0x20020C 0x20 4 with
        | some t => let x := s.cam.trig[Fin.ofNat 4 t]; wordOf [(0, x.seq.toNat % 2 ^ 16), (16, x.skip.toNat)]
        | none => s.reg o

/-- LOP_PLp registers (R332). -/
def State.readLopPlane (s : State) (p : Fin 8) (o : Nat) : Word :=
  let x := s.lop.plane[p]
  match o % 0x20 with
  | 0x04 => halfOf (fieldOf 48 (s.printedLine p)) 0
  | 0x08 => halfOf (fieldOf 48 (s.printedLine p)) 1
  | 0x0C => wordOf [(0, x.white.getD 0), (16, flag x.white.isSome)]
  | 0x10 => wordOf [(0, fieldOf 16 x.errY), (16, fieldOf 16 x.errX)]
  | _ => s.reg o

/-- LOP (R332). -/
def State.readLop (s : State) (o : Nat) : Word :=
  let l := s.lop
  let ps := l.plane.toList
  match o with
  | 0x240004 => wordOf [(0, flagBits (ps.map fun x => decide (x.dens = .run))), (8, flagBits (ps.map fun x => decide (x.coll = .run))),
      (16, flagBits (ps.map fun x => decide (x.noz = .run))), (24, flagBits (ps.map fun x => decide (x.selfFrozen ≠ 0)))]
  | 0x240008 => wordOf [(0, l.done.toNat), (16, l.missed.toNat)]
  | 0x24000C => wordOf [(0, l.stepLimited.toNat), (16, l.clamped.toNat)]
  | 0x240070 => l.markWeak
  | 0x240074 => l.mixed
  | 0x240078 => l.weak
  | _ => if 0x240100 ≤ o ∧ o < 0x240200 then s.readLopPlane (Fin.ofNat 8 ((o - 0x240100) / 0x20)) o else s.reg o

/-- LCK_CHc_STATE.STATE (R336). -/
def chamberCode : ChamberPhase → Nat
  | .open_ => 0 | .checking => 1 | .armed => 2 | .applied => 3 | .rejected => 4

/-- A chamber's registers (R344). -/
def Chamber.read (c : Chamber) (held : Word) : Nat → Word
  | 0x00 => wordOf [(0, chamberCode c.st), (3, flagBits [c.checked, c.badReg]), (8, c.code.toNat), (16, c.count), (23, c.pending)]
  | 0x0C => BitVec.ofNat 32 c.units.length
  | _ => held

/-- LCK (R344). -/
def State.readLck (s : State) (o : Nat) : Word :=
  if o = 0x260010 then BitVec.ofNat 32 s.bufUsed
  else if 0x260100 ≤ o ∧ o < 0x260180 then (s.lck.ch[Fin.ofNat 4 ((o - 0x260100) / 0x20)]).read (s.reg o) (o % 0x20)
  else s.reg o

/-- TIM_STATUS.STATE (R349). -/
def timeCode : TimeState → Nat
  | .free => 0 | .locking => 1 | .locked => 2 | .holdover => 3

/-- TIM (R368). -/
def State.readTim (s : State) (o : Nat) : Word :=
  let t := s.tim
  match o with
  | 0x280004 => wordOf [(0, timeCode t.state), (2, flagBits [s.isMaster, t.stepRefused]), (4, t.hops.toNat), (16, t.err.toNat)]
  | 0x280008 => BitVec.ofInt 32 t.rate
  | 0x280018 => BitVec.ofNat 32 (fieldOf 16 s.timeFrac)
  | 0x28001C => halfOf (fieldOf 64 s.timeNs) 0
  | 0x280020 => halfOf (fieldOf 64 s.timeNs) 1
  | 0x280028 => halfOf t.count 0
  | 0x28002C => halfOf t.count 1
  | 0x280048 => wordOf [(0, t.ptpState.toNat), (4, flag t.ethLink[s.ptpPort])]
  | 0x280440 => s.pins.gpioIn.setWidth 32
  | _ => match arrayAt o 0x280110 0x20 16 with
    | some k => let c := t.cmp[Fin.ofNat 16 k]; wordOf [(0, c.matches_.toNat), (16, c.skipped.toNat), (31, flag c.late)]
    | none => s.reg o

/-- URG_PORTk_STAT.STATE (R354). -/
def portCode : PortState → Nat
  | .down => 0 | .locking => 1 | .up => 2

/-- A ring port's registers (R369). -/
def RingPort.read (p : RingPort) : Nat → Word
  | 0x0 => wordOf [(0, portCode p.state), (2, flag p.peerSleep), (16, p.peer.toNat)]
  | 0x4 => BitVec.ofNat 32 (p.delay % 2 ^ 24)
  | 0x8 => wordOf [(0, p.crc.toNat), (16, p.downs.toNat)]
  | _ => 0

/-- URG (R369). -/
def State.readUrg (s : State) (o : Nat) : Word :=
  let u := s.urg
  match o with
  | 0x2A0004 => s.reg o ||| wordOf [(1, flagBits [u.active, u.refused]), (4, (u.inUse.getD 0).toNat),
      (14, flagBits [s.liveSource.isSome, s.validDelta.isSome])]
  | 0x2A0008 => wordOf [(0, flagBits (u.port.toList.map fun p => decide (p.state = .up))), (2, flagBits (u.port.toList.map RingPort.low)),
      (4, flag u.dup), (16, (u.master.getD 0).toNat), (26, flag u.master.isSome)]
  | 0x2A000C => 0
  | 0x2A0010 => BitVec.ofNat 32 (1 + u.nodes.length)
  | _ => if 0x2A0100 ≤ o ∧ o < 0x2A0120 then (u.port[Fin.ofNat 2 ((o - 0x2A0100) / 0x10)]).read (o % 0x10) else s.reg o

/-- TWN (R392). -/
def State.readTwn (s : State) (o : Nat) : Word :=
  let t := s.twn
  match o with
  | 0x2C0008 => wordOf [(0, (roleCodes t.role).2), (3, flagBits [t.peerLive, s.directPort.isSome]), (8, t.failCause.toNat), (16, s.takeBlock.toNat)]
  | 0x2C000C => wordOf [(0, t.epoch.toNat), (16, t.takeovers.toNat)]
  | 0x2C0014 => wordOf [(0, t.disagree.toNat), (16, t.stampLate.toNat)]
  | _ => if 0x2C0100 ≤ o ∧ o < 0x2C0180 then
      let p := t.plane[Fin.ofNat 8 ((o - 0x2C0100) / 0x10)]
      match o % 0x10 with
      | 0x0 => halfOf p.epoch 0
      | 0x4 => halfOf p.epoch 1 ||| wordOf [(31, flag p.valid)]
      | 0x8 => BitVec.ofNat 32 p.match_
      | _ => 0
    else s.reg o

/-- The register word at an offset as its block stands (R8, R9, R20). -/
def State.wordNow (s : State) (o : Nat) : Word :=
  match windowBlk o with
  | none => 0
  | some none => if o < 0x20000 then s.readRst o else s.readPos o
  | some (some b) => match b with
    | .glb => s.readGlb o
    | .clk => s.readClk o
    | .thm => s.readThm o
    | .hif => if o < 0x50000 then s.readHif o else s.readDoorbell o
    | .mmu => s.readMmu o
    | .cpy => s.readCpy o
    | .dmc => s.readDmc o
    | .qdc => s.readQdc o
    | .scr => s.readScr o
    | .csm => s.readCsm o
    | .pos => s.readPos o
    | .fir => s.readFir o
    | .plk => s.readPlk o
    | .cam => s.readCam o
    | .lop => s.readLop o
    | .lck => s.readLck o
    | .tim => s.readTim o
    | .urg => s.readUrg o
    | .twn => s.readTwn o
    | .pmc | .cores => 0

/-- The registers that a read of a register captures (R241, R265, R368): the HI half of a LO register of POS or FIR, of TIM_COUNT, and both other parts of TIM_NOW. -/
def capturedBy (o : Nat) : List Nat :=
  if o = 0x140008 ∨ (0x140100 ≤ o ∧ o < 0x140200 ∧ o % 8 = 0 ∧ o % 0x20 ≠ 0x18) ∨
      (0x140400 ≤ o ∧ o < 0x140600 ∧ (o % 0x40 = 0x08 ∨ o % 0x40 = 0x20)) then [o + 4]
  else if o = 0x160018 ∨ (0x160100 ≤ o ∧ o < 0x160300 ∧ (o % 0x40 = 0x10 ∨ o % 0x40 = 0x18)) then [o + 4]
  else if o = 0x28001C then [0x280018, 0x280020]
  else if o = 0x280028 then [0x28002C]
  else []

/-- A register that returns what was captured (R241, R265, R368). -/
def latched (o : Nat) : Bool := decide (o = 0x280018 ∨ (4 ≤ o ∧ o ∈ capturedBy (o - 4)))

/-- Capture one register as it stands. -/
def State.capture (s : State) (o : Nat) : State := { s with latch := sparseSet (regReset o) s.latch o (s.wordNow o) }

/-- A running PRBS phase has counted some more errors by the time its count is read (R284): how many is free (log entry 168). -/
def State.prbsRead (s : State) (o : Nat) : State :=
  match linkWindow o with
  | none => s
  | some n =>
    if o % 0x1000 = 0x24 ∧ ((s.plk.link[n]).st = .prbs ∨ (s.plk.link[n]).st = .test) then
      let d := s.draw
      d.2.modLink n fun l => l.countPrbs (Config.prbsErrors d.1)
    else s

/-- A read of the register at an offset (R8, R9): its word, and the state with what the read captures. -/
def State.readWord (s : State) (o : Nat) : Word × State :=
  if latched o then (sparseGet (regReset o) s.latch o, s)
  else
    let t := s.prbsRead o
    (t.wordNow o, (capturedBy o).foldl State.capture t)

/-- The bytes of a read within one register (R7). -/
def State.readBytes (s : State) (o len : Nat) : List Byte × State :=
  let r := s.readWord (o / 4 * 4)
  ((List.range len).map fun i => r.1.extractLsb' (8 * (o % 4 + i)) 8, r.2)

end Sys2Proof.Machine
end

