-- ==== Sys2Proof/Machine/Thermal.lean ====
section
/-! DEFINITION. The commands of thermal management (chapter 19): conversions, history, thresholds, the peak, and the sensor read in sleep. -/

namespace Sys2Proof.Machine

/-- One conversion that does not take SHUTDOWN (R131, R393 to R395): readings, T, FAULT records, the level, and drift retraining. -/
def State.convert (s : State) (readings : Vector (Option Int) 12) : State :=
  let sensor : Vector Sensor 12 := Vector.ofFn fun i : Fin 12 => (s.thm.sensor[i]).convert readings[i]
  let s1 := { s with thm := { s.thm with sensor := sensor }.takeMax }
  ((s1.recordFaults s.thm.sensor).moveLevel).driftRetrain

/-- All 12 sensors convert (R393 to R395); none gives a reading whose conversion does not complete. -/
def execSensorConversion (readings : Vector (Option Int) 12) (s : State) : Host.Outcome State Fault Refusal :=
  .next (if !s.blkUp .thm then s else if s.shutdownNow readings then s.shutdown else s.convert readings)

/-- 125 ms have passed: THM appends a history entry and evaluates the rate (R398). -/
def execThermalHistoryEntry (s : State) : Host.Outcome State Fault Refusal :=
  .next (if s.blkUp .thm then s.appendHistory else s)

/-- THM_CFG or THM_RATE takes a value, and the history is emptied (R399, R401). -/
def State.writeThm (s : State) (o : Nat) (v : Word) : State :=
  let s1 := s.hostWrite o v
  { s1 with thm := s1.thm.clearHistory }

/-- A host write of THM_CFG, or of THM_RATE (R399, R401). -/
def execThmCfgWrite (rate : Bool) (value : Word) (s : State) : Host.Outcome State Fault Refusal :=
  .next (let o := if rate then 0x30008 else 0x30004
    s.onWrite o value fun t => t.writeThm o value)

/-- THM_PEAK takes a value (R401): CLEAR sets PEAK to the present T. -/
def State.writePeak (s : State) (v : Word) : State :=
  if v.getLsbD 31 then { s with thm := { s.thm with peak := some s.thm.max, peakSensor := s.thm.maxSensor } } else s

/-- A host write of THM_PEAK.CLEAR (R401). -/
def execThmPeakClear (s : State) : Host.Outcome State Fault Refusal :=
  .next (s.onWrite 0x30010 0x80000000 fun t => t.writePeak 0x80000000)

/-- In sleep the supervisor reads sensor 3 (R68, R399): only 118 °C acts. -/
def execSleepSensorSample (reading : Option Int) (s : State) : Host.Outcome State Fault Refusal :=
  .next (if s.rst.asleep && s.aonClkRuns && goodReading reading && decide (1888 ≤ reading.getD 0) then s.shutdown else s)

/-- The 16 bytes of a plane in the progress block (R107). -/
def Plane.progress (p : Plane) : List Byte :=
  leBytes 8 (p.retired % 2 ^ 48) ++
  leBytes 8 (p.fired % 2 ^ 48 + (if p.phase = .run ∨ p.phase = .closing then 2 ^ 48 else 0) + (if p.phase = .hold then 2 ^ 49 else 0))

/-- A host write of HIF_PROG_CFG: ENABLE starts the progress block or stops its writes (R107). -/
def execProgEnableWrite (value : Word) (s : State) : Host.Outcome State Fault Refusal :=
  .next (s.onWrite 0x40008 value fun t => t.hostWrite 0x40008 value)

/-- The device writes the progress block in one Memory Write request (R107). -/
def execProgressBlockWrite (s : State) : Host.Outcome State Fault Refusal :=
  .next (if s.blkUp .hif && s.regBit 0x40008 0 then
    (s.emit (.hostWrite (s.busAddr 0x40000) (s.fir.plane.toList.flatMap Plane.progress) false)).countEvent 0x11 128 {}
  else s)

end Sys2Proof.Machine
end

