-- ==== Sys2Proof/Machine/RegisterWrite.lean ====
section
/-! DEFINITION. The effect of a host write of any register (R8, R9, R78), writes that wait while a clock stands (R79, R80), PLL lock (R64) and the clock monitor (R82, R83). -/

namespace Sys2Proof.Machine

/-- RST_BLOCK takes a value (R72): all its holds change together. -/
def State.writeRstBlock (s : State) (v : Word) : State :=
  let r := s.rst
  let b := v.extractLsb' 0 12
  let s1 := { s with rst := { r with blockHold := b, dataHold := v.getLsbD 16, ctrlHold := v.getLsbD 17 } }
  let fresh := decide (b &&& ~~~r.blockHold ≠ 0) || (v.getLsbD 16 && !r.dataHold) || (v.getLsbD 17 && !r.ctrlHold)
  (if fresh then s1.noteCause 7 else s1).settleResets

/-- A write of a register of RST (R72). -/
def State.writeRst (s : State) (o : Nat) (v : Word) : State :=
  if o = 0x10000 then { s with rst := { s.rst with cause := s.rst.cause &&& ~~~(v.extractLsb' 0 9) } }
  else if o = 0x10010 then s.writeRstBlock v
  else if o = 0x10014 then s.holdLinks v
  else if o = 0x10030 then s.writeSleep v
  else if o = 0x10034 then { s with rst := { s.rst with wake := s.rst.wake &&& ~~~(v.extractLsb' 0 4) } }
  else s

/-- A write of a ring's CFG (R89, R90): a manifest ring is enabled or disabled by its bit 0. -/
def State.writeMrCfg (s : State) (n : Fin 16) (v : Word) : State := if v.getLsbD 0 then s.mrEnable n v else s.mrDisable n v

/-- A write of a register of HIF (R89, R107). -/
def State.writeHif (s : State) (o : Nat) (v : Word) : State :=
  if o = logCfg then s.logWrite v
  else match arrayAt o 0x40108 0x10 16 with
    | some n => s.writeMrCfg (Fin.ofNat 16 n) v
    | none => match arrayAt o 0x40208 0x10 8 with
      | some m => s.crWrite (Fin.ofNat 8 m) v
      | none => s.hostWrite o v

/-- A write of a doorbell page (R91, R100, R105): page n, offset within it. -/
def State.writeDoorbell (s : State) (o : Nat) (v : Word) : State :=
  let n := (o - 0x300000) / 0x1000
  match (o - 0x300000) % 0x1000 with
  | 0 => s.writeTail (Fin.ofNat 16 n) (v.setWidth 16)
  | 4 => if v.getLsbD 0 then s.resumeRing (Fin.ofNat 16 n) else s
  | 8 => if n < 8 then s.writeHead (Fin.ofNat 8 n) (v.setWidth 16) else s
  | 12 => if n = 0 then s.writeLogHead (v.setWidth 16) else s
  | _ => s

/-- A write of a register of MMU (R115 to R117): INFO.VALID of slot 16 is cleared by a 1. -/
def State.writeMmu (s : State) (o : Nat) (v : Word) : State :=
  if o = 0x50000 then s.writeMmuCfg v
  else if o = 0x50208 ∧ v.getLsbD 0 then { s with mmu := { s.mmu with flt := modAt s.mmu.flt (16 : Fin 17) fun f => { f with valid := false } } }
  else s.hostWrite o v

/-- A write of a register of DMC (R131, R140, R143, R144, R147). -/
def State.writeDmc (s : State) (o : Nat) (v : Word) : State :=
  let d := s.dmc
  if o = 0x80018 then
    let s1 := s.hostWrite o v
    if v.getLsbD 8 then s1.retrainNow else s1
  else if o = 0x80030 then { s with dmc := { d with ue := d.ue && !v.getLsbD 0, ce := d.ce && !v.getLsbD 1 } }
  else if o = 0x80048 then
    let s1 := { s with dmc := { d with fillDone := d.fillDone && !v.getLsbD 2 } }
    if v.getLsbD 0 then s1.startFill else s1
  else if o = 0x80050 then { s with dmc := { d with regv := d.regv && !v.getLsbD 0 } }
  else s.hostWrite o v

/-- A write of a register of CSM (R217). -/
def State.writeCsm (s : State) (o : Nat) (v : Word) : State :=
  if o = 0x100014 then s.closeGates v else if o = 0x100018 then s.openGates v else s.hostWrite o v

/-- A write of a register of POS (R226, R230, R233, R241): X_p follows a new ratio or offset at once. -/
def State.writePos (s : State) (o : Nat) (v : Word) : State :=
  if o = 0x140000 then s.writePosCfg v
  else match arrayAt o 0x140400 0x40 8 with
    | some k => s.writeChCfg (Fin.ofNat 8 k) v
    | none => match arrayAt o 0x140404 0x40 8 with
      | some k => s.writeLpr (Fin.ofNat 8 k) v
      | none => match arrayAt o 0x140414 0x40 8 with
        | some k => s.writeIstat (Fin.ofNat 8 k) v
        | none => ((s.hostWrite o v).followPosition).settle s

/-- A write of a register of FIR (R243, R253, R257, R265): a change of σ_p anchors the plane first. -/
def State.writeFir (s : State) (o : Nat) (v : Word) : State :=
  if o = 0x160010 then s.writeFirCtrl v
  else match arrayAt o 0x160108 0x40 8 with
    | some p => if s.printing then s else ((s.anchor (Fin.ofNat 8 p)).hostWrite o v).settle s
    | none => (s.hostWrite o v).settle s

/-- A write of a register of CAM (R300, R305, R308, R310). -/
def State.writeCam (s : State) (o : Nat) (v : Word) : State :=
  if o = 0x200000 then s.writePortEn v
  else match arrayAt o 0x200200 0x20 4 with
    | some t => s.writeTrigCfg (Fin.ofNat 4 t) v
    | none => match arrayAt o 0x200400 0x80 16 with
      | some c => s.writeCtxCfg (Fin.ofNat 16 c) v
      | none => match arrayAt o 0x20042C 0x80 16 with
        | some c => s.writeCamRing (Fin.ofNat 16 c) 0x2C v
        | none => match arrayAt o 0x20044C 0x80 16 with
          | some c => s.writeCamRing (Fin.ofNat 16 c) 0x4C v
          | none => s.hostWrite o v

/-- The plane whose mark register stands at an offset (R332). -/
def State.markOwner (s : State) (o : Nat) : Option (Fin 8) :=
  if 0x240800 ≤ o ∧ o < 0x241000 then some (Fin.ofNat 8 (s.regField (0x240800 + (o - 0x240800) / 0x20 * 0x20) 1 3)) else none

/-- A write of a register of LOP (R332): a mark register of a plane whose collation loop is in RUN takes it from the loop's next cycle. -/
def State.writeLop (s : State) (o : Nat) (v : Word) : State :=
  match s.markOwner o with
  | some p => if (s.lop.plane[p]).coll = .run then { s with lop := { s.lop with later := s.lop.later ++ [(o, v)] } } else s.hostWrite o v
  | none => s.hostWrite o v

/-- A write of a register of LCK (R333, R335). -/
def State.writeLck (s : State) (o : Nat) (v : Word) : State :=
  match arrayAt o 0x260108 0x20 4 with
  | some k => s.appendEntry (Fin.ofNat 4 k) v
  | none => s.hostWrite o v

/-- A write of a register of TIM (R345, R348 to R352, R368). -/
def State.writeTim (s : State) (o : Nat) (v : Word) : State :=
  if o = 0x280000 then s.writeTimCfg v
  else if o = 0x280004 then { s with tim := { s.tim with stepRefused := s.tim.stepRefused && !v.getLsbD 3 } }
  else if o = 0x280008 then (if s.timeSrc = 0 then s.setRate v.toInt else s)
  else if o = 0x280010 then { s with tim := { s.tim with stepLo := v } }
  else if o = 0x280014 then s.writeStep v
  else if o = 0x280040 then s.writePtpCfg v
  else match arrayAt o 0x280100 0x20 16 with
    | some k => s.writeCmpCfg (Fin.ofNat 16 k) v
    | none => match arrayAt o 0x280110 0x20 16 with
      | some k => s.modCmp (Fin.ofNat 16 k) fun c => { c with late := c.late && !v.getLsbD 31 }
      | none => match arrayAt o 0x280400 4 16 with
        | some g => s.writeGpioCfg (Fin.ofNat 16 g) v
        | none => s.hostWrite o v

/-- A write of a register of URG (R365, R366, R369). -/
def State.writeUrg (s : State) (o : Nat) (v : Word) : State :=
  if o = 0x2A0000 then s.writeUrgCfg v else if o = 0x2A000C then s.writeUrgCtrl v else s.hostWrite o v

/-- A write of a register of TWN (R374, R391, R392). -/
def State.writeTwn (s : State) (o : Nat) (v : Word) : State :=
  if o = 0x2C0000 then s.writeTwnCfg v
  else if o = 0x2C000C then s.writeTwnEpoch v
  else if o = 0x2C0010 then s.writeTwnCtrl v
  else s.hostWrite o v

/-- A write of a register of THM (R399, R401). -/
def State.writeThmReg (s : State) (o : Nat) (v : Word) : State :=
  if o = 0x30004 ∨ o = 0x30008 then s.writeThm o v else if o = 0x30010 then s.writePeak v else s.hostWrite o v

/-- What a write that its block has taken does, by its BAR0 offset (R8, R9, R20, R78): registers with behaviour of their own, then every other by its access codes. -/
def State.routeWrite (s : State) (o : Nat) (v : Word) : State :=
  if 0x10000 ≤ o ∧ o < 0x20000 then s.writeRst o v
  else if o = 0x20010 then s.measStart v
  else if 0x30000 ≤ o ∧ o < 0x40000 then s.writeThmReg o v
  else if 0x40000 ≤ o ∧ o < 0x50000 then s.writeHif o v
  else if 0x50000 ≤ o ∧ o < 0x60000 then s.writeMmu o v
  else if 0x80000 ≤ o ∧ o < 0xA0000 then s.writeDmc o v
  else if o = 0xC0000 then s.writeScrCfg v
  else if 0x100000 ≤ o ∧ o < 0x140000 then s.writeCsm o v
  else if 0x140000 ≤ o ∧ o < 0x160000 then s.writePos o v
  else if 0x160000 ≤ o ∧ o < 0x180000 then s.writeFir o v
  else match arrayAt o 0x180000 0x1000 32 with
    | some n => s.writePlkCfg (Fin.ofNat 32 n) v
    | none => match arrayAt o 0x180040 0x1000 32 with
    | some n => s.writePlkAuth (Fin.ofNat 32 n) v
    | none =>
      if 0x200000 ≤ o ∧ o < 0x240000 then s.writeCam o v
      else if 0x240000 ≤ o ∧ o < 0x260000 then s.writeLop o v
      else if 0x260000 ≤ o ∧ o < 0x280000 then s.writeLck o v
      else if 0x280000 ≤ o ∧ o < 0x2A0000 then s.writeTim o v
      else if 0x2A0000 ≤ o ∧ o < 0x2C0000 then s.writeUrg o v
      else if 0x2C0000 ≤ o ∧ o < 0x300000 then s.writeTwn o v
      else if 0x300000 ≤ o ∧ o < 0x310000 then s.writeDoorbell o v
      else s.hostWrite o v

/-- A host write of a register (R7, R78): one not aligned to a register is discarded. -/
def execRegisterWrite (offset : BitVec 25) (value : Word) (s : State) : Host.Outcome State Fault Refusal :=
  .next (if offset.toNat % 4 = 0 then s.onWrite offset.toNat value fun t => t.routeWrite offset.toNat value else s.discardWrite)

/-- A read is taken in its block's domain (R78): it gets the register's bytes as they stand, and completes in its turn. -/
def State.takeRead (s : State) (o len : Nat) : State :=
  let r := s.readBytes o len
  (r.2.addAccess ⟨o, len, none, some (some r.1)⟩).completeReads

/-- The oldest waiting access whose clock runs, with what stands before and after it. -/
def State.nextAccess (s : State) : List HostAccess → Option (List HostAccess × HostAccess × List HostAccess)
  | [] => none
  | a :: t =>
    if a.waits && !s.clockStopped a.off then some ([], a, t)
    else (s.nextAccess t).map fun r => (a :: r.1, r.2)

/-- One access that waited is taken (R78, R80). -/
def State.releaseOne (s : State) : State :=
  match s.nextAccess s.hif.accesses with
  | none => s
  | some (before, a, after) =>
    match a.write with
    | some v => { s with hif := { s.hif with accesses := before ++ after } }.routeWrite a.off v
    | none =>
      let r := s.readBytes a.off a.len
      { r.2 with hif := { r.2.hif with accesses := before ++ { a with result := some (some r.1) } :: after } }.completeReads

/-- Accesses whose clock runs again are taken, oldest first (R79, R80). -/
def State.releaseHeld (s : State) : State := s.hif.accesses.foldl (fun (t : State) _ => t.releaseOne) s

/-- A BAR0 request of some bytes (R7, R9, R59, R65, R66, R78). A read within one register of an open block returns its bytes, once its block's clock runs; a partial write there is discarded. Any other read completes as Unsupported Request, any other write is discarded with a record. -/
def execBarAccessUnsupported (write : Bool) (offset : BitVec 25) (length : Nat) (s : State) : Host.Outcome State Fault Refusal :=
  let o := offset.toNat
  .next (if s.rst.pcieUp = false then s
    else if o % 4 + length ≤ 4 ∧ s.barOpen o then
      if write then s
      else if s.clockStopped o then s.addAccess ⟨o, length, none, none⟩
      else s.takeRead o length
    else if write then s.discardWrite
    else s.readUnsupported o length)

/-- A PLL achieves lock (R64, R82): CLK_LOCK follows, and its clocks return. -/
def execPllLock (pll : Fin 11) (s : State) : Host.Outcome State Fault Refusal :=
  .next { s with clk := { s.clk with lock := s.clk.lock ||| BitVec.twoPow 11 pll.val } }.drainTide.releaseHeld

/-- The window that closes now overlaps the gap of a rate change of a link (R82). -/
def State.inGap (s : State) (n : Fin 32) : Bool := decide (s.now < (s.plk.link[n]).gapUntil + 2560)

/-- Cycles of a clock in 64 AON_CLK cycles (R73, R82), by clock number; none for a clock that is not monitored or not meant to run. A link that is not up runs at the rate of T0 (log entry 157). -/
def State.expectedCount (s : State) (k : Fin 48) : Option Nat :=
  let ring := if s.rst.asleep then 160 else 200
  if 16 ≤ k.val then
    let n := Fin.ofNat 32 (k.val - 16)
    if (if n.val < 16 then s.rst.serWOff else s.rst.serEOff) || s.inGap n then none
    else some (match (s.plk.link[n]).rate with | .t0 => 160 | .r5 => 100 | .r10 => 200)
  else match k.val with
    | 0 => some 512
    | 1 => some 320
    | 2 | 3 => some ring
    | 4 => some 1280
    | 5 => some 384
    | 6 => some (768 + 128 * bitsOf s.dmc.geom.toNat 6 2)
    | 7 => if s.rst.ddr1Off then none else some (768 + 128 * bitsOf s.dmc.geom.toNat 6 2)
    | 8 => some 640
    | _ => none

/-- A count of 0, or more than 2 % away from the expected one (R82). -/
def offFrequency (expected count : Nat) : Bool :=
  decide (count = 0) || decide (expected < 50 * (max count expected - min count expected))

/-- A non-link clock has been found stopped (R82, R83). -/
def State.stopClock (s : State) (k : Fin 9) : State :=
  let s1 := s.setReg 0x20004 (s.reg 0x20004 ||| BitVec.ofNat 32 (2 ^ k.val))
  if s1.clk.down.getLsbD k then s1
  else
    let s2 := { s1 with clk := { s1.clk with down := s1.clk.down ||| BitVec.twoPow 9 k.val } }.log 0x0070 2 k.val []
    if k = 2 then { s2 with urg := { s2.urg with port := s2.urg.port.map RingPort.down } }
    else if k = 3 then { s2 with tim := { s2.tim with ethLink := Vector.replicate 2 false } }
    else if k = 8 then { s2 with rst := { s2.rst with pcieUp := false } }
    else s2

/-- LINK_CLK of a link has been found stopped (R82, R83): the link faults. -/
def State.stopLinkClock (s : State) (n : Fin 32) : State :=
  let s1 := s.setReg 0x20008 (s.reg 0x20008 ||| BitVec.twoPow 32 n.val)
  if s1.clk.linkDown.getLsbD n then s1
  else
    let s2 := { s1 with clk := { s1.clk with linkDown := s1.clk.linkDown ||| BitVec.twoPow 32 n.val } }.log 0x0070 2 (16 + n.val) []
    match (s2.plk.link[n]).st with
    | .disabled | .fault => s2
    | _ => s2.linkFault n 9

/-- One clock's count at the end of a monitor window (R82): a good count ends a stop, the sticky record stays. -/
def State.monitorClock (s : State) (k : Fin 48) (count : Nat) : State :=
  match s.expectedCount k with
  | none => s
  | some e =>
    if 16 ≤ k.val then
      let n : Fin 32 := Fin.ofNat 32 (k.val - 16)
      if offFrequency e count then s.stopLinkClock n
      else { s with clk := { s.clk with linkDown := s.clk.linkDown &&& ~~~(BitVec.twoPow 32 n.val) } }
    else if offFrequency e count then s.stopClock (Fin.ofNat 9 k.val)
    else { s with clk := { s.clk with down := s.clk.down &&& ~~~(BitVec.twoPow 9 k.val) } }

/-- A monitor window of 64 AON_CLK cycles closes with the counts of the clocks it monitored (R82); accesses to blocks whose clock has come back are taken (R80). -/
def execClockMonitorWindow (window : ClockWindow) (s : State) : Host.Outcome State Fault Refusal :=
  .next (let u := s.advance window.at_
    if u.blkUp .clk && u.aonClkRuns then (window.counts.foldl (fun (t : State) x => t.monitorClock x.1 x.2) u).drainTide.releaseHeld else u)

end Sys2Proof.Machine
end

