-- ==== Sys2Proof/Machine/Dispatch.lean ====
section
/-! DEFINITION. One arm per command of the opcode table; each arm is one direct call of that command's meaning. -/

namespace Sys2Proof.Machine

/-- The effect of a command on everything but the queue (R78, R93, R95 and the rule each row names). -/
def exec (i : Instr) (s : State) : Host.Outcome State Fault Refusal :=
  match i with
  | .powerOnAssert => Sys2Proof.Machine.execPowerOnAssert s
  | .powerOnRelease => Sys2Proof.Machine.execPowerOnRelease s
  | .railDipDetect => Sys2Proof.Machine.execRailDipDetect s
  | .railRecoverRelease => Sys2Proof.Machine.execRailRecoverRelease s
  | .resetNAssert => Sys2Proof.Machine.execResetNAssert s
  | .resetNRelease => Sys2Proof.Machine.execResetNRelease s
  | .pciePerstAssert => Sys2Proof.Machine.execPciePerstAssert s
  | .pciePerstDeassert => Sys2Proof.Machine.execPciePerstDeassert s
  | .watchdogExpiry => Sys2Proof.Machine.execWatchdogExpiry s
  | .watchdogSourceRelease => Sys2Proof.Machine.execWatchdogSourceRelease s
  | .linkResetExpiry link => Sys2Proof.Machine.execLinkResetExpiry link s
  | .rstBlockHoldWrite hold => Sys2Proof.Machine.execRstBlockHoldWrite hold s
  | .rstDataHoldWrite hold => Sys2Proof.Machine.execRstDataHoldWrite hold s
  | .rstCtrlHoldWrite hold => Sys2Proof.Machine.execRstCtrlHoldWrite hold s
  | .rstLinkWrite hold => Sys2Proof.Machine.execRstLinkWrite hold s
  | .isolationDrained unit => Sys2Proof.Machine.execIsolationDrained unit s
  | .domainClocksStable unit => Sys2Proof.Machine.execDomainClocksStable unit s
  | .pendingClockTimeout unit => Sys2Proof.Machine.execPendingClockTimeout unit s
  | .blockRelease domain => Sys2Proof.Machine.execBlockRelease domain s
  | .dmcZqCalDone => Sys2Proof.Machine.execDmcZqCalDone s
  | .pllLock pll => Sys2Proof.Machine.execPllLock pll s
  | .oscillatorStart => Sys2Proof.Machine.execOscillatorStart s
  | .otpReadDone record => Sys2Proof.Machine.execOtpReadDone record s
  | .secureBootDone slotA slotB => Sys2Proof.Machine.execSecureBootDone slotA slotB s
  | .dramTrainingDone channel result => Sys2Proof.Machine.execDramTrainingDone channel result s
  | .serdesCalibrationDone bank ok => Sys2Proof.Machine.execSerdesCalibrationDone bank ok s
  | .firmwareSelfTestDone ok elapsedMs => Sys2Proof.Machine.execFirmwareSelfTestDone ok elapsedMs s
  | .pcieLinkUp => Sys2Proof.Machine.execPcieLinkUp s
  | .configRequest access => Sys2Proof.Machine.execConfigRequest access s
  | .barAccessUnsupported write offset length => Sys2Proof.Machine.execBarAccessUnsupported write offset length s
  | .registerWrite offset value => Sys2Proof.Machine.execRegisterWrite offset value s
  | .regAccessAbandoned write offset => Sys2Proof.Machine.execRegAccessAbandoned write offset s
  | .bar2Access write offset bytes => Sys2Proof.Machine.execBar2Access write offset bytes s
  | .sleepEnterWrite value => Sys2Proof.Machine.execSleepEnterWrite value s
  | .sleepDrainDone => Sys2Proof.Machine.execSleepDrainDone s
  | .d3hotEntry => Sys2Proof.Machine.execD3hotEntry s
  | .sleepEntryTimeout => Sys2Proof.Machine.execSleepEntryTimeout s
  | .gpioWakeEdge gpio rising => Sys2Proof.Machine.execGpioWakeEdge gpio rising s
  | .heartbeatHalfPeriod => Sys2Proof.Machine.execHeartbeatHalfPeriod s
  | .fireEnableEdge at_ => Sys2Proof.Machine.execFireEnableEdge at_ s
  | .fireEnableTimeout at_ => Sys2Proof.Machine.execFireEnableTimeout at_ s
  | .clockMonitorWindow window => Sys2Proof.Machine.execClockMonitorWindow window s
  | .clkMeasStart value => Sys2Proof.Machine.execClkMeasStart value s
  | .clkMeasDone count => Sys2Proof.Machine.execClkMeasDone count s
  | .mrEnableWrite ring value => Sys2Proof.Machine.execMrEnableWrite ring value s
  | .mrDisableWrite ring value => Sys2Proof.Machine.execMrDisableWrite ring value s
  | .mrDrained ring => Sys2Proof.Machine.execMrDrained ring s
  | .crEnableWrite ring value => Sys2Proof.Machine.execCrEnableWrite ring value s
  | .logEnableWrite value => Sys2Proof.Machine.execLogEnableWrite value s
  | .progEnableWrite value => Sys2Proof.Machine.execProgEnableWrite value s
  | .progressBlockWrite => Sys2Proof.Machine.execProgressBlockWrite s
  | .dblMtailWrite ring tail => Sys2Proof.Machine.execDblMtailWrite ring tail s
  | .dblMctrlResume ring => Sys2Proof.Machine.execDblMctrlResume ring s
  | .dblCheadWrite ring head => Sys2Proof.Machine.execDblCheadWrite ring head s
  | .dblLheadWrite head => Sys2Proof.Machine.execDblLheadWrite head s
  | .manifestFetch ring entry => Sys2Proof.Machine.execManifestFetch ring entry s
  | .manifestReadFail ring => Sys2Proof.Machine.execManifestReadFail ring s
  | .coalTimerExpiry ring => Sys2Proof.Machine.execCoalTimerExpiry ring s
  | .msixUnmask write => Sys2Proof.Machine.execMsixUnmask write s
  | .lostRecordWrite => Sys2Proof.Machine.execLostRecordWrite s
  | .dataMoverPieceIssue => Sys2Proof.Machine.execDataMoverPieceIssue s
  | .dataMoverPieceDone piece bytes => Sys2Proof.Machine.execDataMoverPieceDone piece bytes s
  | .hostReadError piece => Sys2Proof.Machine.execHostReadError piece s
  | .nop ring => Sys2Proof.Machine.execNop ring s
  | .quireLoad ring => Sys2Proof.Machine.execQuireLoad ring s
  | .tableLoad ring => Sys2Proof.Machine.execTableLoad ring s
  | .tableLoadChannelDone => Sys2Proof.Machine.execTableLoadChannelDone s
  | .tableRead ring => Sys2Proof.Machine.execTableRead ring s
  | .mmuWrite ring => Sys2Proof.Machine.execMmuWrite ring s
  | .mmuInvalidate ring => Sys2Proof.Machine.execMmuInvalidate ring s
  | .copy ring => Sys2Proof.Machine.execCopy ring s
  | .copyQueueAdmit => Sys2Proof.Machine.execCopyQueueAdmit s
  | .compress ring => Sys2Proof.Machine.execCompress ring s
  | .lockOpen ring => Sys2Proof.Machine.execLockOpen ring s
  | .lockCheck ring => Sys2Proof.Machine.execLockCheck ring s
  | .lockArm ring => Sys2Proof.Machine.execLockArm ring s
  | .lockDiscard ring => Sys2Proof.Machine.execLockDiscard ring s
  | .jobOpen ring => Sys2Proof.Machine.execJobOpen ring s
  | .jobClose ring => Sys2Proof.Machine.execJobClose ring s
  | .serviceBand ring => Sys2Proof.Machine.execServiceBand ring s
  | .serviceBandAdmit ring => Sys2Proof.Machine.execServiceBandAdmit ring s
  | .loopCtrlRun ring => Sys2Proof.Machine.execLoopCtrlRun ring s
  | .loopCtrlFreeze ring => Sys2Proof.Machine.execLoopCtrlFreeze ring s
  | .loopCtrlZero ring => Sys2Proof.Machine.execLoopCtrlZero ring s
  | .linkCtrlTrain ring => Sys2Proof.Machine.execLinkCtrlTrain ring s
  | .linkCtrlRetrain ring => Sys2Proof.Machine.execLinkCtrlRetrain ring s
  | .linkCtrlPrbsStart ring => Sys2Proof.Machine.execLinkCtrlPrbsStart ring s
  | .linkCtrlPrbsStop ring => Sys2Proof.Machine.execLinkCtrlPrbsStop ring s
  | .linkCtrlAuthenticate ring => Sys2Proof.Machine.execLinkCtrlAuthenticate ring s
  | .linkCtrlDisable ring => Sys2Proof.Machine.execLinkCtrlDisable ring s
  | .twinCtrlClearFailed ring => Sys2Proof.Machine.execTwinCtrlClearFailed ring s
  | .twinCtrlPlannedSwap ring => Sys2Proof.Machine.execTwinCtrlPlannedSwap ring s
  | .counterRead ring => Sys2Proof.Machine.execCounterRead ring s
  | .mmuEnableWrite enable => Sys2Proof.Machine.execMmuEnableWrite enable s
  | .copyStart => Sys2Proof.Machine.execCopyStart s
  | .copyDone => Sys2Proof.Machine.execCopyDone s
  | .copyFail cause beat => Sys2Proof.Machine.execCopyFail cause beat s
  | .dramRequestArrive port access at_ => Sys2Proof.Machine.execDramRequestArrive port access at_ s
  | .dramSchedulePick sub at_ => Sys2Proof.Machine.execDramSchedulePick sub at_ s
  | .dramAgePromotion sub at_ => Sys2Proof.Machine.execDramAgePromotion sub at_ s
  | .dramReadReturn sub seq ecc => Sys2Proof.Machine.execDramReadReturn sub seq ecc s
  | .refreshDue sub at_ refreshTime => Sys2Proof.Machine.execRefreshDue sub at_ refreshTime s
  | .mr4Poll channel rank value => Sys2Proof.Machine.execMr4Poll channel rank value s
  | .dmcRetrainNow => Sys2Proof.Machine.execDmcRetrainNow s
  | .retrainStep sub at_ last => Sys2Proof.Machine.execRetrainStep sub at_ last s
  | .caParityAlert channel => Sys2Proof.Machine.execCaParityAlert channel s
  | .scrubUnitRead channel ecc => Sys2Proof.Machine.execScrubUnitRead channel ecc s
  | .fillStart => Sys2Proof.Machine.execFillStart s
  | .fillUnitIssue sub => Sys2Proof.Machine.execFillUnitIssue sub s
  | .decodeDispatch engine => Sys2Proof.Machine.execDecodeDispatch engine s
  | .decodeEnd engine => Sys2Proof.Machine.execDecodeEnd engine s
  | .replaceDeadline => Sys2Proof.Machine.execReplaceDeadline s
  | .quireRetire => Sys2Proof.Machine.execQuireRetire s
  | .compressEngineStart => Sys2Proof.Machine.execCompressEngineStart s
  | .compressEnd engine => Sys2Proof.Machine.execCompressEnd engine s
  | .screenLineWrite plane line source => Sys2Proof.Machine.execScreenLineWrite plane line source s
  | .rasterFetchStart link seg => Sys2Proof.Machine.execRasterFetchStart link seg s
  | .fetchComplete link seg => Sys2Proof.Machine.execFetchComplete link seg s
  | .gutterEmit link at_ => Sys2Proof.Machine.execGutterEmit link at_ s
  | .refillStart link => Sys2Proof.Machine.execRefillStart link s
  | .refillDone link => Sys2Proof.Machine.execRefillDone link s
  | .csmGateCloseWrite value => Sys2Proof.Machine.execCsmGateCloseWrite value s
  | .csmGateOpenWrite value => Sys2Proof.Machine.execCsmGateOpenWrite value s
  | .encoderStep k pins at_ => Sys2Proof.Machine.execEncoderStep k pins at_ s
  | .indexEvent k pin at_ => Sys2Proof.Machine.execIndexEvent k pin at_ s
  | .missingIndex k => Sys2Proof.Machine.execMissingIndex k s
  | .speedUpdate at_ => Sys2Proof.Machine.execSpeedUpdate at_ s
  | .standstill instant => Sys2Proof.Machine.execStandstill instant s
  | .stretchWindowClose => Sys2Proof.Machine.execStretchWindowClose s
  | .posFaultClear k => Sys2Proof.Machine.execPosFaultClear k s
  | .posMainWrite value => Sys2Proof.Machine.execPosMainWrite value s
  | .posChannelEnable k value => Sys2Proof.Machine.execPosChannelEnable k value s
  | .posZEnWrite k value => Sys2Proof.Machine.execPosZEnWrite k value s
  | .posLprWrite k value => Sys2Proof.Machine.execPosLprWrite k value s
  | .lineCommit plane at_ => Sys2Proof.Machine.execLineCommit plane at_ s
  | .lineLaunch plane at_ => Sys2Proof.Machine.execLineLaunch plane at_ s
  | .firCtrlStopWrite value => Sys2Proof.Machine.execFirCtrlStopWrite value s
  | .firCtrlResumeFwd value => Sys2Proof.Machine.execFirCtrlResumeFwd value s
  | .firNowDiscipline at_ => Sys2Proof.Machine.execFirNowDiscipline at_ s
  | .capFrameRx link frame => Sys2Proof.Machine.execCapFrameRx link frame s
  | .ackFrameRx link frame => Sys2Proof.Machine.execAckFrameRx link frame s
  | .t0Timeout link => Sys2Proof.Machine.execT0Timeout link s
  | .blockLockAcquire taken => Sys2Proof.Machine.execBlockLockAcquire taken s
  | .blockLockLoss taken => Sys2Proof.Machine.execBlockLockLoss taken s
  | .lockTimeout link => Sys2Proof.Machine.execLockTimeout link s
  | .prbsPhaseEnd link errors => Sys2Proof.Machine.execPrbsPhaseEnd link errors s
  | .echoSend link departure => Sys2Proof.Machine.execEchoSend link departure s
  | .echoReplyRx link id turn r1 arrival => Sys2Proof.Machine.execEchoReplyRx link id turn r1 arrival s
  | .echoReplyTimeout link id => Sys2Proof.Machine.execEchoReplyTimeout link id s
  | .echoPhaseTimeout link => Sys2Proof.Machine.execEchoPhaseTimeout link s
  | .syncSend link departure => Sys2Proof.Machine.execSyncSend link departure s
  | .statusRx link block => Sys2Proof.Machine.execStatusRx link block s
  | .statusTimeout link => Sys2Proof.Machine.execStatusTimeout link s
  | .authResponseRx link kind index bytes => Sys2Proof.Machine.execAuthResponseRx link kind index bytes s
  | .authTimeout link => Sys2Proof.Machine.execAuthTimeout link s
  | .cfgBankUpload link => Sys2Proof.Machine.execCfgBankUpload link s
  | .cfgConfirmTimeout link => Sys2Proof.Machine.execCfgConfirmTimeout link s
  | .linkBackoffExpiry link => Sys2Proof.Machine.execLinkBackoffExpiry link s
  | .plkEnableWrite link value => Sys2Proof.Machine.execPlkEnableWrite link value s
  | .csiFrameStart port vc vcx ecc number => Sys2Proof.Machine.execCsiFrameStart port vc vcx ecc number s
  | .csiFrameEnd port vc vcx ecc => Sys2Proof.Machine.execCsiFrameEnd port vc vcx ecc s
  | .csiLongPacket port vc vcx ecc dt payload crcOk => Sys2Proof.Machine.execCsiLongPacket port vc vcx ecc dt payload crcOk s
  | .frameEndTimeout ctx => Sys2Proof.Machine.execFrameEndTimeout ctx s
  | .streamStageTake at_ => Sys2Proof.Machine.execStreamStageTake at_ s
  | .triggerFire trigger at_ => Sys2Proof.Machine.execTriggerFire trigger at_ s
  | .triggerRecordExpire ctx at_ => Sys2Proof.Machine.execTriggerRecordExpire ctx at_ s
  | .cameraDropRecord ctx at_ => Sys2Proof.Machine.execCameraDropRecord ctx at_ s
  | .camPortEnWrite value => Sys2Proof.Machine.execCamPortEnWrite value s
  | .camContextEnableWrite ctx value => Sys2Proof.Machine.execCamContextEnableWrite ctx value s
  | .bandMeasure => Sys2Proof.Machine.execBandMeasure s
  | .bandMissedTimeout at_ => Sys2Proof.Machine.execBandMissedTimeout at_ s
  | .collationCycle => Sys2Proof.Machine.execCollationCycle s
  | .chamberBusyTimeout loop => Sys2Proof.Machine.execChamberBusyTimeout loop s
  | .lckSdataWrite chamber value => Sys2Proof.Machine.execLckSdataWrite chamber value s
  | .chamberCheckStart chamber => Sys2Proof.Machine.execChamberCheckStart chamber s
  | .chamberCheckEnd chamber => Sys2Proof.Machine.execChamberCheckEnd chamber s
  | .chamberApplyInstant chamber at_ => Sys2Proof.Machine.execChamberApplyInstant chamber at_ s
  | .chamberApplyCopyDone chamber => Sys2Proof.Machine.execChamberApplyCopyDone chamber s
  | .lockArmRx node group chamber kind plane instant => Sys2Proof.Machine.execLockArmRx node group chamber kind plane instant s
  | .lockReplyRx node chamber armed => Sys2Proof.Machine.execLockReplyRx node chamber armed s
  | .ringLockWaitTimeout chamber => Sys2Proof.Machine.execRingLockWaitTimeout chamber s
  | .lockCommitRx node chamber => Sys2Proof.Machine.execLockCommitRx node chamber s
  | .lockAbortRx node chamber => Sys2Proof.Machine.execLockAbortRx node chamber s
  | .lockOutcomeRx node chamber applied => Sys2Proof.Machine.execLockOutcomeRx node chamber applied s
  | .timRateWrite value at_ => Sys2Proof.Machine.execTimRateWrite value at_ s
  | .timStepWrite hi at_ => Sys2Proof.Machine.execTimStepWrite hi at_ s
  | .timSrcWrite value => Sys2Proof.Machine.execTimSrcWrite value s
  | .comparatorMatch k at_ => Sys2Proof.Machine.execComparatorMatch k at_ s
  | .comparatorEnableWrite k value at_ => Sys2Proof.Machine.execComparatorEnableWrite k value at_ s
  | .gpioModeWrite g value => Sys2Proof.Machine.execGpioModeWrite g value s
  | .ptpMessageRx msg at_ => Sys2Proof.Machine.execPtpMessageRx msg at_ s
  | .holdoverEntry => Sys2Proof.Machine.execHoldoverEntry s
  | .holdoverExpiry => Sys2Proof.Machine.execHoldoverExpiry s
  | .ringPortLock port => Sys2Proof.Machine.execRingPortLock port s
  | .ringPortRateAlternate port => Sys2Proof.Machine.execRingPortRateAlternate port s
  | .helloSend port => Sys2Proof.Machine.execHelloSend port s
  | .helloRx port node sleep => Sys2Proof.Machine.execHelloRx port node sleep s
  | .helloTimeout port => Sys2Proof.Machine.execHelloTimeout port s
  | .ringFrameForward port first rest => Sys2Proof.Machine.execRingFrameForward port first rest s
  | .announceSend => Sys2Proof.Machine.execAnnounceSend s
  | .announceRx node group prio accepts => Sys2Proof.Machine.execAnnounceRx node group prio accepts s
  | .nodeLivenessExpiry node => Sys2Proof.Machine.execNodeLivenessExpiry node s
  | .delayReqSend port at_ => Sys2Proof.Machine.execDelayReqSend port at_ s
  | .delayReqRx port departure turnaround => Sys2Proof.Machine.execDelayReqRx port departure turnaround s
  | .delayRespRx port rtt turnaround => Sys2Proof.Machine.execDelayRespRx port rtt turnaround s
  | .timeSend at_ => Sys2Proof.Machine.execTimeSend at_ s
  | .timeRx port src seq hops origin correction residence at_ => Sys2Proof.Machine.execTimeRx port src seq hops origin correction residence at_ s
  | .tideRx word at_ => Sys2Proof.Machine.execTideRx word at_ s
  | .tideSourceExpiry node => Sys2Proof.Machine.execTideSourceExpiry node s
  | .stopRx node group mask => Sys2Proof.Machine.execStopRx node group mask s
  | .stateSend => Sys2Proof.Machine.execStateSend s
  | .stateRx node group planes => Sys2Proof.Machine.execStateRx node group planes s
  | .urgSendWake value => Sys2Proof.Machine.execUrgSendWake value s
  | .wakeRx => Sys2Proof.Machine.execWakeRx s
  | .urgClrRing value => Sys2Proof.Machine.execUrgClrRing value s
  | .twinHeartbeatSend => Sys2Proof.Machine.execTwinHeartbeatSend s
  | .twinHeartbeatRx node role epoch prefer peer group stops locked settings lats blocked => Sys2Proof.Machine.execTwinHeartbeatRx node role epoch prefer peer group stops locked settings lats blocked s
  | .stampRx node plane line stamp tf => Sys2Proof.Machine.execStampRx node plane line stamp tf s
  | .sigRx node bytes => Sys2Proof.Machine.execSigRx node bytes s
  | .takeoverRx node epoch => Sys2Proof.Machine.execTakeoverRx node epoch s
  | .failedRx node cause => Sys2Proof.Machine.execFailedRx node cause s
  | .swapRx node first => Sys2Proof.Machine.execSwapRx node first s
  | .planeStateRx node plane xa phia print ofs stretch epoch => Sys2Proof.Machine.execPlaneStateRx node plane xa phia print ofs stretch epoch s
  | .stageRx node chamber units entries targets => Sys2Proof.Machine.execStageRx node chamber units entries targets s
  | .joinRx node => Sys2Proof.Machine.execJoinRx node s
  | .peerLossTimeout => Sys2Proof.Machine.execPeerLossTimeout s
  | .twnCtrlFailWrite value => Sys2Proof.Machine.execTwnCtrlFailWrite value s
  | .twnEnableWrite value => Sys2Proof.Machine.execTwnEnableWrite value s
  | .twnEpochWrite value => Sys2Proof.Machine.execTwnEpochWrite value s
  | .sensorConversion readings => Sys2Proof.Machine.execSensorConversion readings s
  | .thermalHistoryEntry => Sys2Proof.Machine.execThermalHistoryEntry s
  | .thmCfgWrite rate value => Sys2Proof.Machine.execThmCfgWrite rate value s
  | .thmPeakClear => Sys2Proof.Machine.execThmPeakClear s
  | .sleepSensorSample reading => Sys2Proof.Machine.execSleepSensorSample reading s
  | .pmcFreezeWrite freeze => Sys2Proof.Machine.execPmcFreezeWrite freeze s
  | .pmcSnapWrite => Sys2Proof.Machine.execPmcSnapWrite s
  | .pmcSnapshot => Sys2Proof.Machine.execPmcSnapshot s
  | .pmcWindowClose => Sys2Proof.Machine.execPmcWindowClose s
  | .pmcCounterWrite k high value => Sys2Proof.Machine.execPmcCounterWrite k high value s
  | .pmcWinWrite ns => Sys2Proof.Machine.execPmcWinWrite ns s
  | .ringPortLockLoss port => Sys2Proof.Machine.execRingPortLockLoss port s
  | .pllLosesLock pll => Sys2Proof.Machine.execPllLosesLock pll s
  | .csiClockLaneChange port running => Sys2Proof.Machine.execCsiClockLaneChange port running s
  | .triggerPulseEnd trigger => Sys2Proof.Machine.execTriggerPulseEnd trigger s
  | .gpioPulseEnd g at_ => Sys2Proof.Machine.execGpioPulseEnd g at_ s
  | .ptpMessageSend kind at_ => Sys2Proof.Machine.execPtpMessageSend kind at_ s
  | .ethernetLinkChange port up => Sys2Proof.Machine.execEthernetLinkChange port up s
  | .scrCfgBitsWrite value => Sys2Proof.Machine.execScrCfgBitsWrite value s

end Sys2Proof.Machine
end

