-- ==== Sys2Proof/Safety.lean ====
section
/-! DEFINITION. What is kept by every command: the canonical form of the sparse memories, what one command does to the queue, the clock and the output, and which pieces of State two states agree on. -/

namespace Sys2Proof.Machine

/-- The register file, the DRAM, the on-chip tables and the captured register halves are in canonical form: strictly rising keys, no entry equal to what an unlisted key reads as. -/
def State.wf (s : State) : Prop := s.regs.wf = true ∧ Mem.wf none s.dram = true ∧ Mem.wf (some 0) s.tables = true ∧ s.latch.wf = true

/-- Entries on chip in the order of their fetch: numbers strictly rising, each below `n`. -/
abbrev numberedTo (l : List Flight) (n : Nat) : Prop := l.Pairwise (fun f g => f.id < g.id) ∧ ∀ f ∈ l, f.id < n

/-- The entries on chip stand in the order of their fetch (R92), each with a number of its own below that of the next fetch. -/
abbrev State.numbered (s : State) : Prop := numberedTo s.hif.flights s.hif.nextId

/-- What every command keeps from a state to the next: the waiting commands are the same, time and the count of draws do not run back, what left the device stays at the front of `out`, the memories stay canonical, and the entries on chip stay numbered in the order of their fetch. -/
structure Keeps (s t : State) : Prop where
  /-- The queue is untouched. -/
  pending : t.pending = s.pending
  /-- Time does not run back. -/
  now : s.now ≤ t.now
  /-- The count of draws does not run back. -/
  draws : s.draws ≤ t.draws
  /-- What has left the device is not taken back. -/
  out : s.out <+: t.out
  /-- Canonical memories stay canonical. -/
  wf : s.wf → t.wf
  /-- Entries on chip stay in order. -/
  ids : s.numbered → t.numbered

/-- `Keeps` for the next state of an outcome. -/
def OKeeps (s : State) (o : Host.Outcome State Fault Refusal) : Prop := ∀ t, o = .next t → Keeps s t

/-- A piece of State. -/
inductive Part
  | regs | rst | pins | clk | hif | mmu | cpy | dmc | qdc | scr | csm | pos | fir | plk | cam | lop | lck | tim | urg | twn | thm | pmc
  | latch | dram | tables | now | draws | out
  deriving DecidableEq, Repr

/-- Place of a piece in a set of pieces. -/
def Part.idx : Part → Nat
  | .regs => 0 | .rst => 1 | .pins => 2 | .clk => 3 | .hif => 4 | .mmu => 5 | .cpy => 6 | .dmc => 7 | .qdc => 8 | .scr => 9 | .csm => 10
  | .pos => 11 | .fir => 12 | .plk => 13 | .cam => 14 | .lop => 15 | .lck => 16 | .tim => 17 | .urg => 18 | .twn => 19 | .thm => 20
  | .pmc => 21 | .latch => 22 | .dram => 23 | .tables => 24 | .now => 25 | .draws => 26 | .out => 27

/-- A set of pieces, one bit each. -/
abbrev Touch := Nat

/-- The set of the listed pieces. -/
def Touch.of : List Part → Touch
  | [] => 0
  | p :: l => 2 ^ p.idx ||| Touch.of l

/-- One set lies in another. -/
def Touch.le (a b : Touch) : Prop := a &&& b = a

/-- Two states agree outside a set of pieces. -/
structure Same (M : Touch) (s t : State) : Prop where
  regs : Touch.le (.of [.regs]) M ∨ t.regs = s.regs
  rst : Touch.le (.of [.rst]) M ∨ t.rst = s.rst
  pins : Touch.le (.of [.pins]) M ∨ t.pins = s.pins
  clk : Touch.le (.of [.clk]) M ∨ t.clk = s.clk
  hif : Touch.le (.of [.hif]) M ∨ t.hif = s.hif
  mmu : Touch.le (.of [.mmu]) M ∨ t.mmu = s.mmu
  cpy : Touch.le (.of [.cpy]) M ∨ t.cpy = s.cpy
  dmc : Touch.le (.of [.dmc]) M ∨ t.dmc = s.dmc
  qdc : Touch.le (.of [.qdc]) M ∨ t.qdc = s.qdc
  scr : Touch.le (.of [.scr]) M ∨ t.scr = s.scr
  csm : Touch.le (.of [.csm]) M ∨ t.csm = s.csm
  pos : Touch.le (.of [.pos]) M ∨ t.pos = s.pos
  fir : Touch.le (.of [.fir]) M ∨ t.fir = s.fir
  plk : Touch.le (.of [.plk]) M ∨ t.plk = s.plk
  cam : Touch.le (.of [.cam]) M ∨ t.cam = s.cam
  lop : Touch.le (.of [.lop]) M ∨ t.lop = s.lop
  lck : Touch.le (.of [.lck]) M ∨ t.lck = s.lck
  tim : Touch.le (.of [.tim]) M ∨ t.tim = s.tim
  urg : Touch.le (.of [.urg]) M ∨ t.urg = s.urg
  twn : Touch.le (.of [.twn]) M ∨ t.twn = s.twn
  thm : Touch.le (.of [.thm]) M ∨ t.thm = s.thm
  pmc : Touch.le (.of [.pmc]) M ∨ t.pmc = s.pmc
  latch : Touch.le (.of [.latch]) M ∨ t.latch = s.latch
  dram : Touch.le (.of [.dram]) M ∨ t.dram = s.dram
  tables : Touch.le (.of [.tables]) M ∨ t.tables = s.tables
  now : Touch.le (.of [.now]) M ∨ t.now = s.now
  draws : Touch.le (.of [.draws]) M ∨ t.draws = s.draws
  out : Touch.le (.of [.out]) M ∨ t.out = s.out

/-- `Same` for the next state of an outcome. -/
def OSame (M : Touch) (s : State) (o : Host.Outcome State Fault Refusal) : Prop := ∀ t, o = .next t → Same M s t

/-- No reset source of reach L1 or L0 asserted, and the device awake (R54, R55, R68). -/
abbrev State.calm (s : State) : Prop := s.reachL0 = false ∧ s.reachL1 = false ∧ s.rst.asleep = false

/-- A host write reaches the register at a BAR0 offset: the offset is open and the clock of its block runs (R59, R79). -/
abbrev State.takesWrite (s : State) (o : Nat) : Prop := s.barOpen o = true ∧ s.clockStopped o = false

/-- A message has left the device between two states. -/
def Sent (s t : State) (o : Out) : Prop := o ∈ t.out.drop s.out.length

/-- The entry that a ring starts next is `f`. -/
abbrev State.starts (s : State) (ring : Fin 16) (f : Flight) : Prop := s.startable ring = some f ∧ s.numbered

/-- The completion entry that a state writes for an on-chip entry (R98). -/
def State.completionOf (s : State) (f : Flight) (status : BitVec 8) (result : Nat) : Out :=
  let m := s.ringCr f.ring
  let c := s.hif.cr[m]
  .hostWrite (s.busAddr (crCfg m - 8) + 16 * c.tail.toNat)
    (leBytes 4 f.e.tag.toNat ++ leBytes 2 f.index.toNat ++ [status, BitVec.ofNat 8 (f.ring.val + if c.phase then 128 else 0)] ++
      leBytes 8 result) false

/-- An on-chip entry has completed: it has left the chip, and unless it is QUIET and OK its completion entry has been written (R94, R98). -/
def Completes (s t : State) (f : Flight) (status : BitVec 8) (result : Nat) : Prop :=
  (∀ g ∈ t.hif.flights, g.id ≠ f.id) ∧
  (f.e.flags.getLsbD 2 = false ∨ status ≠ stOk → Sent s t (s.completionOf f status result))

/-- An on-chip entry stands in a phase. -/
def Stands (t : State) (f : Flight) (ph : FlightPhase) : Prop := ∃ g ∈ t.hif.flights, g.id = f.id ∧ g.e = f.e ∧ g.phase = ph

/-- A command answers a next state with a property. -/
def Next (c : Instr) (s : State) (P : State → Prop) : Prop := ∃ t, exec c s = .next t ∧ P t

/-- A message for the twin peer or the web group has left the device, on both ports or on the direct hop (R373). -/
def Told (s t : State) (m : RingMsg) : Prop := ∃ q : BitVec 16, Sent s t (.ring m.type q m) ∨ ∃ k : Fin 2, Sent s t (.hop k m.type q m)

/-- The pieces of State that a reset may reach (R54, R57). -/
def Touch.reset : Touch := .of [.regs, .rst, .pins, .clk, .hif, .mmu, .cpy, .dmc, .qdc, .scr, .csm, .pos, .fir, .plk, .cam, .lop, .lck, .tim, .urg, .twn, .thm, .pmc, .latch, .dram, .tables, .draws, .out]

/-- The pieces of State a command may change; every other piece it leaves as it is. -/
def touched : Instr → Touch
  | .powerOnAssert => .reset
  | .powerOnRelease => .reset
  | .railDipDetect => .reset
  | .railRecoverRelease => .reset
  | .resetNAssert => .reset
  | .resetNRelease => .reset
  | .pciePerstAssert => .reset
  | .pciePerstDeassert => .reset
  | .watchdogExpiry => .reset
  | .watchdogSourceRelease => .reset
  | .linkResetExpiry .. => .of [.regs, .rst, .hif, .dmc, .csm, .fir, .plk, .lop, .lck, .urg, .twn, .pmc, .dram, .tables, .draws, .out]
  | .rstBlockHoldWrite .. => .reset
  | .rstDataHoldWrite .. => .reset
  | .rstCtrlHoldWrite .. => .reset
  | .rstLinkWrite .. => .reset
  | .isolationDrained .. => .reset
  | .domainClocksStable .. => .reset
  | .pendingClockTimeout .. => .of [.rst]
  | .blockRelease .. => .of [.regs, .rst, .hif, .dmc, .scr, .csm, .pos, .fir, .plk, .lop, .lck, .urg, .twn, .thm, .pmc, .dram, .tables, .draws, .out]
  | .dmcZqCalDone => .of [.rst, .dmc]
  | .pllLock .. => .reset
  | .oscillatorStart => .of [.rst]
  | .otpReadDone .. => .reset
  | .secureBootDone .. => .reset
  | .dramTrainingDone .. => .of [.rst, .dmc]
  | .serdesCalibrationDone .. => .of [.rst, .tim, .urg]
  | .firmwareSelfTestDone .. => .of [.rst, .pins, .pmc]
  | .pcieLinkUp => .of [.rst]
  | .configRequest .. => .of [.hif, .out]
  | .barAccessUnsupported .. => .of [.hif, .plk, .latch, .draws, .out]
  | .registerWrite .. => .reset
  | .regAccessAbandoned .. => .of [.regs, .hif, .pmc, .out]
  | .bar2Access .. => .of [.hif, .dmc, .twn, .pmc, .dram, .draws, .out]
  | .sleepEnterWrite .. => .of [.rst, .hif]
  | .sleepDrainDone => .of [.rst]
  | .d3hotEntry => .of [.rst]
  | .sleepEntryTimeout => .reset
  | .gpioWakeEdge .. => .reset
  | .heartbeatHalfPeriod => .of [.pins]
  | .fireEnableEdge .. => .of [.regs, .pins, .hif, .dmc, .scr, .csm, .fir, .plk, .lop, .lck, .tim, .urg, .twn, .pmc, .dram, .tables, .now, .draws, .out]
  | .fireEnableTimeout .. => .of [.regs, .pins, .hif, .dmc, .scr, .csm, .fir, .plk, .lop, .lck, .tim, .urg, .twn, .pmc, .dram, .tables, .now, .draws, .out]
  | .clockMonitorWindow .. => .of [.now, .regs, .rst, .pins, .clk, .hif, .mmu, .cpy, .dmc, .qdc, .scr, .csm, .pos, .fir, .plk, .cam, .lop, .lck, .tim, .urg, .twn, .thm, .pmc, .latch, .dram, .tables, .draws, .out]
  | .clkMeasStart .. => .of [.regs, .clk, .hif]
  | .clkMeasDone .. => .of [.clk]
  | .mrEnableWrite .. => .of [.regs, .hif]
  | .mrDisableWrite .. => .of [.regs, .hif, .mmu, .fir, .pmc, .out]
  | .mrDrained .. => .of [.hif]
  | .crEnableWrite .. => .of [.regs, .hif]
  | .logEnableWrite .. => .of [.regs, .hif]
  | .progEnableWrite .. => .of [.regs, .hif]
  | .progressBlockWrite => .of [.pmc, .out]
  | .dblMtailWrite .. => .of [.regs, .hif, .pmc, .out]
  | .dblMctrlResume .. => .of [.hif, .mmu, .qdc, .pmc, .draws, .out]
  | .dblCheadWrite .. => .of [.regs, .hif, .qdc, .pmc, .draws, .out]
  | .dblLheadWrite .. => .of [.regs, .hif, .pmc, .out]
  | .manifestFetch .. => .of [.hif, .pmc, .out]
  | .manifestReadFail .. => .of [.regs, .hif, .pmc, .out]
  | .coalTimerExpiry .. => .of [.hif, .pmc, .out]
  | .msixUnmask .. => .of [.hif, .pmc, .out]
  | .lostRecordWrite => .of [.hif, .pmc, .out]
  | .dataMoverPieceIssue => .of [.hif, .mmu, .dmc, .qdc, .twn, .pmc, .dram, .draws, .out]
  | .dataMoverPieceDone .. => .of [.hif, .mmu, .dmc, .qdc, .scr, .csm, .fir, .plk, .lck, .urg, .twn, .pmc, .dram, .tables, .draws, .out]
  | .hostReadError .. => .of [.hif, .qdc, .pmc, .out]
  | .nop .. => .of [.hif, .pmc, .out]
  | .quireLoad .. => .of [.hif, .pmc, .out]
  | .tableLoad .. => .of [.hif, .pmc, .out]
  | .tableLoadChannelDone => .of [.hif, .pmc, .out]
  | .tableRead .. => .of [.hif, .pmc, .out]
  | .mmuWrite .. => .of [.hif, .pmc, .out]
  | .mmuInvalidate .. => .of [.hif, .mmu, .pmc, .out]
  | .copy .. => .of [.hif, .cpy, .lck, .pmc, .out]
  | .copyQueueAdmit => .of [.hif, .cpy, .lck, .pmc, .out]
  | .compress .. => .of [.hif, .qdc, .pmc, .draws, .out]
  | .lockOpen .. => .of [.hif, .lck, .pmc, .out]
  | .lockCheck .. => .of [.hif, .lck, .pmc, .out]
  | .lockArm .. => .of [.hif, .lck, .pmc, .out]
  | .lockDiscard .. => .of [.regs, .hif, .cpy, .dmc, .csm, .plk, .lop, .lck, .urg, .twn, .pmc, .dram, .tables, .draws, .out]
  | .jobOpen .. => .of [.regs, .hif, .dmc, .qdc, .scr, .csm, .fir, .plk, .cam, .lop, .lck, .urg, .twn, .pmc, .dram, .tables, .draws, .out]
  | .jobClose .. => .of [.regs, .hif, .dmc, .qdc, .csm, .fir, .plk, .lop, .lck, .urg, .twn, .pmc, .dram, .tables, .draws, .out]
  | .serviceBand .. => .of [.hif, .lop, .pmc, .out]
  | .serviceBandAdmit .. => .of [.hif, .lop, .pmc, .out]
  | .loopCtrlRun .. => .of [.regs, .hif, .lop, .pmc, .out]
  | .loopCtrlFreeze .. => .of [.regs, .hif, .lop, .pmc, .out]
  | .loopCtrlZero .. => .of [.regs, .hif, .lop, .pmc, .tables, .out]
  | .linkCtrlTrain .. => .reset
  | .linkCtrlRetrain .. => .reset
  | .linkCtrlPrbsStart .. => .of [.regs, .hif, .dmc, .csm, .fir, .plk, .lop, .lck, .urg, .twn, .pmc, .dram, .tables, .draws, .out]
  | .linkCtrlPrbsStop .. => .of [.regs, .hif, .dmc, .csm, .fir, .plk, .lop, .lck, .urg, .twn, .pmc, .dram, .tables, .draws, .out]
  | .linkCtrlAuthenticate .. => .of [.hif, .plk, .pmc, .draws, .out]
  | .linkCtrlDisable .. => .of [.regs, .hif, .dmc, .csm, .fir, .plk, .lop, .lck, .urg, .twn, .pmc, .dram, .tables, .draws, .out]
  | .twinCtrlClearFailed .. => .reset
  | .twinCtrlPlannedSwap .. => .of [.hif, .fir, .urg, .twn, .pmc, .out]
  | .counterRead .. => .of [.hif, .pmc, .out]
  | .mmuEnableWrite .. => .of [.regs, .hif, .mmu]
  | .copyStart => .of [.cpy]
  | .copyDone => .of [.regs, .cpy, .dmc, .csm, .fir, .plk, .lck, .urg, .twn, .pmc, .dram, .tables, .draws, .out]
  | .copyFail .. => .of [.regs, .cpy, .dmc, .csm, .fir, .plk, .lck, .urg, .twn, .pmc, .dram, .tables, .draws, .out]
  | .dramRequestArrive .. => .of [.dmc, .fir, .tim, .twn, .pmc, .dram, .now, .draws, .out]
  | .dramSchedulePick .. => .of [.dmc, .fir, .tim, .pmc, .now, .draws, .out]
  | .dramAgePromotion .. => .of [.dmc, .fir, .tim, .pmc, .now, .out]
  | .dramReadReturn .. => .of [.dmc, .twn, .out]
  | .refreshDue .. => .of [.dmc, .fir, .tim, .pmc, .now, .out]
  | .mr4Poll .. => .of [.dmc]
  | .dmcRetrainNow => .of [.hif, .dmc]
  | .retrainStep .. => .of [.dmc, .fir, .tim, .pmc, .now]
  | .caParityAlert .. => .of [.dmc]
  | .scrubUnitRead .. => .of [.dmc, .twn, .pmc, .dram, .draws, .out]
  | .fillStart => .of [.hif, .dmc]
  | .fillUnitIssue .. => .of [.dmc, .twn, .pmc, .dram, .draws, .out]
  | .decodeDispatch .. => .of [.mmu, .dmc, .qdc, .twn, .pmc, .draws, .out]
  | .decodeEnd .. => .of [.regs, .hif, .mmu, .dmc, .qdc, .scr, .fir, .lop, .urg, .twn, .pmc, .draws, .out]
  | .replaceDeadline => .of [.qdc, .scr, .fir, .lop, .urg, .twn, .out]
  | .quireRetire => .of [.qdc]
  | .compressEngineStart => .of [.hif, .qdc, .draws]
  | .compressEnd .. => .of [.hif, .mmu, .dmc, .qdc, .twn, .pmc, .dram, .draws, .out]
  | .screenLineWrite .. => .of [.mmu, .dmc, .qdc, .scr, .fir, .lck, .urg, .twn, .pmc, .dram, .draws, .out]
  | .rasterFetchStart .. => .of [.dmc, .csm, .twn, .pmc, .draws, .out]
  | .fetchComplete .. => .of [.csm, .pmc, .out]
  | .gutterEmit .. => .of [.now, .regs, .rst, .pins, .clk, .hif, .mmu, .cpy, .dmc, .qdc, .scr, .csm, .pos, .fir, .plk, .cam, .lop, .lck, .tim, .urg, .twn, .thm, .pmc, .latch, .dram, .tables, .draws, .out]
  | .refillStart .. => .of [.csm]
  | .refillDone .. => .of [.dmc, .csm, .lop, .twn, .pmc, .draws, .out]
  | .csmGateCloseWrite .. => .of [.hif, .csm]
  | .csmGateOpenWrite .. => .of [.hif, .csm]
  | .encoderStep .. => .of [.regs, .hif, .pos, .fir, .tim, .urg, .twn, .pmc, .now, .out]
  | .indexEvent .. => .of [.regs, .hif, .dmc, .scr, .csm, .pos, .fir, .plk, .lop, .lck, .tim, .urg, .twn, .pmc, .dram, .tables, .now, .draws, .out]
  | .missingIndex .. => .of [.regs, .hif, .dmc, .scr, .csm, .pos, .fir, .plk, .lop, .lck, .urg, .twn, .pmc, .dram, .tables, .draws, .out]
  | .speedUpdate .. => .of [.regs, .hif, .pos, .fir, .tim, .urg, .twn, .pmc, .now, .draws, .out]
  | .standstill .. => .of [.regs, .hif, .pos, .fir, .tim, .urg, .twn, .pmc, .now, .out]
  | .stretchWindowClose => .of [.pos]
  | .posFaultClear .. => .of [.hif, .pos, .fir, .urg, .twn, .out]
  | .posMainWrite .. => .of [.regs, .hif, .pos, .fir, .urg, .twn, .out]
  | .posChannelEnable .. => .of [.regs, .hif, .pos]
  | .posZEnWrite .. => .of [.regs, .hif, .pos]
  | .posLprWrite .. => .of [.regs, .hif, .pos]
  | .lineCommit .. => .of [.regs, .hif, .dmc, .scr, .csm, .fir, .plk, .lop, .lck, .tim, .urg, .twn, .pmc, .dram, .tables, .now, .draws, .out]
  | .lineLaunch .. => .of [.regs, .hif, .dmc, .scr, .csm, .fir, .plk, .lop, .lck, .tim, .urg, .twn, .pmc, .dram, .tables, .now, .draws, .out]
  | .firCtrlStopWrite .. => .of [.regs, .hif, .dmc, .scr, .csm, .fir, .plk, .lop, .lck, .urg, .twn, .pmc, .dram, .tables, .draws, .out]
  | .firCtrlResumeFwd .. => .of [.regs, .hif, .dmc, .scr, .csm, .fir, .plk, .lop, .lck, .urg, .twn, .pmc, .dram, .tables, .draws, .out]
  | .firNowDiscipline .. => .of [.fir, .tim, .pmc, .now]
  | .capFrameRx .. => .of [.regs, .hif, .dmc, .csm, .fir, .plk, .lop, .lck, .urg, .twn, .pmc, .dram, .tables, .draws, .out]
  | .ackFrameRx .. => .of [.regs, .hif, .dmc, .csm, .fir, .plk, .lop, .lck, .urg, .twn, .pmc, .dram, .tables, .draws, .out]
  | .t0Timeout .. => .of [.regs, .hif, .dmc, .csm, .fir, .plk, .lop, .lck, .urg, .twn, .pmc, .dram, .tables, .draws, .out]
  | .blockLockAcquire .. => .of [.regs, .hif, .dmc, .csm, .fir, .plk, .lop, .lck, .urg, .twn, .pmc, .dram, .tables, .draws, .out]
  | .blockLockLoss .. => .of [.regs, .hif, .dmc, .csm, .fir, .plk, .lop, .lck, .urg, .twn, .pmc, .dram, .tables, .draws, .out]
  | .lockTimeout .. => .of [.regs, .hif, .dmc, .csm, .fir, .plk, .lop, .lck, .urg, .twn, .pmc, .dram, .tables, .draws, .out]
  | .prbsPhaseEnd .. => .of [.plk, .out]
  | .echoSend .. => .of [.plk, .out]
  | .echoReplyRx .. => .of [.regs, .hif, .dmc, .csm, .fir, .plk, .lop, .lck, .urg, .twn, .pmc, .dram, .tables, .draws, .out]
  | .echoReplyTimeout .. => .of [.plk]
  | .echoPhaseTimeout .. => .of [.regs, .hif, .dmc, .csm, .fir, .plk, .lop, .lck, .urg, .twn, .pmc, .dram, .tables, .draws, .out]
  | .syncSend .. => .of [.plk, .out]
  | .statusRx .. => .reset
  | .statusTimeout .. => .of [.regs, .hif, .dmc, .csm, .fir, .plk, .lop, .lck, .urg, .twn, .pmc, .dram, .tables, .draws, .out]
  | .authResponseRx .. => .of [.regs, .hif, .dmc, .csm, .fir, .plk, .lop, .lck, .urg, .twn, .pmc, .dram, .tables, .draws, .out]
  | .authTimeout .. => .of [.regs, .hif, .dmc, .csm, .fir, .plk, .lop, .lck, .urg, .twn, .pmc, .dram, .tables, .draws, .out]
  | .cfgBankUpload .. => .of [.plk, .out]
  | .cfgConfirmTimeout .. => .of [.regs, .hif, .dmc, .csm, .fir, .plk, .lop, .lck, .urg, .twn, .pmc, .dram, .tables, .draws, .out]
  | .linkBackoffExpiry .. => .reset
  | .plkEnableWrite .. => .of [.regs, .hif, .dmc, .csm, .fir, .plk, .lop, .lck, .urg, .twn, .pmc, .dram, .tables, .draws, .out]
  | .csiFrameStart .. => .of [.cam]
  | .csiFrameEnd .. => .of [.cam]
  | .csiLongPacket .. => .of [.cam, .pmc, .out]
  | .frameEndTimeout .. => .of [.cam]
  | .streamStageTake .. => .of [.dmc, .fir, .cam, .lop, .tim, .twn, .pmc, .dram, .now, .draws, .out]
  | .triggerFire .. => .of [.pins, .fir, .cam, .tim, .pmc, .now]
  | .triggerRecordExpire .. => .of [.fir, .cam, .tim, .pmc, .now]
  | .cameraDropRecord .. => .of [.regs, .hif, .fir, .cam, .tim, .pmc, .now, .out]
  | .camPortEnWrite .. => .of [.regs, .hif, .cam]
  | .camContextEnableWrite .. => .of [.regs, .hif, .cam]
  | .bandMeasure => .of [.regs, .hif, .dmc, .lop, .lck, .urg, .twn, .pmc, .dram, .tables, .draws, .out]
  | .bandMissedTimeout .. => .of [.regs, .hif, .fir, .lop, .tim, .pmc, .now, .out]
  | .collationCycle => .of [.regs, .hif, .dmc, .lop, .lck, .urg, .twn, .pmc, .dram, .draws, .out]
  | .chamberBusyTimeout .. => .of [.regs, .hif, .lop, .pmc, .out]
  | .lckSdataWrite .. => .of [.hif, .lck]
  | .chamberCheckStart .. => .of [.regs, .hif, .cpy, .dmc, .csm, .lop, .lck, .urg, .twn, .pmc, .dram, .tables, .draws, .out]
  | .chamberCheckEnd .. => .of [.regs, .hif, .dmc, .csm, .fir, .plk, .lop, .lck, .urg, .twn, .pmc, .dram, .tables, .draws, .out]
  | .chamberApplyInstant .. => .of [.regs, .hif, .dmc, .csm, .fir, .plk, .lop, .lck, .tim, .urg, .twn, .pmc, .dram, .tables, .now, .draws, .out]
  | .chamberApplyCopyDone .. => .of [.regs, .hif, .dmc, .csm, .fir, .plk, .lop, .lck, .urg, .twn, .pmc, .dram, .tables, .draws, .out]
  | .lockArmRx .. => .of [.lck, .urg, .out]
  | .lockReplyRx .. => .of [.regs, .hif, .dmc, .csm, .fir, .plk, .lop, .lck, .urg, .twn, .pmc, .dram, .tables, .draws, .out]
  | .ringLockWaitTimeout .. => .of [.regs, .hif, .dmc, .plk, .lop, .lck, .urg, .twn, .pmc, .dram, .draws, .out]
  | .lockCommitRx .. => .of [.regs, .hif, .dmc, .csm, .fir, .plk, .lop, .lck, .urg, .twn, .pmc, .dram, .tables, .draws, .out]
  | .lockAbortRx .. => .of [.regs, .hif, .dmc, .plk, .lop, .lck, .urg, .twn, .pmc, .dram, .draws, .out]
  | .lockOutcomeRx .. => .of [.regs, .hif, .fir, .lop, .lck, .urg, .twn, .pmc, .out]
  | .timRateWrite .. => .of [.hif, .fir, .tim, .pmc, .now]
  | .timStepWrite .. => .of [.hif, .fir, .tim, .pmc, .now]
  | .timSrcWrite .. => .of [.regs, .hif, .tim]
  | .comparatorMatch .. => .of [.now, .regs, .rst, .pins, .clk, .hif, .mmu, .cpy, .dmc, .qdc, .scr, .csm, .pos, .fir, .plk, .cam, .lop, .lck, .tim, .urg, .twn, .thm, .pmc, .latch, .dram, .tables, .draws, .out]
  | .comparatorEnableWrite .. => .of [.now, .regs, .rst, .pins, .clk, .hif, .mmu, .cpy, .dmc, .qdc, .scr, .csm, .pos, .fir, .plk, .cam, .lop, .lck, .tim, .urg, .twn, .thm, .pmc, .latch, .dram, .tables, .draws, .out]
  | .gpioModeWrite .. => .of [.regs, .pins, .hif, .tim]
  | .ptpMessageRx .. => .of [.fir, .tim, .pmc, .now, .draws, .out]
  | .holdoverEntry => .of [.tim]
  | .holdoverExpiry => .of [.tim]
  | .ringPortLock .. => .of [.urg]
  | .ringPortRateAlternate .. => .of [.urg]
  | .helloSend .. => .of [.urg, .out]
  | .helloRx .. => .of [.urg]
  | .helloTimeout .. => .of [.urg]
  | .ringFrameForward .. => .of [.urg, .pmc, .out]
  | .announceSend => .of [.tim, .urg, .out]
  | .announceRx .. => .of [.tim, .urg]
  | .nodeLivenessExpiry .. => .of [.tim, .urg]
  | .delayReqSend .. => .of [.fir, .tim, .urg, .pmc, .now, .out]
  | .delayReqRx .. => .of [.urg, .out]
  | .delayRespRx .. => .of [.urg]
  | .timeSend .. => .of [.fir, .tim, .urg, .pmc, .now, .out]
  | .timeRx .. => .of [.fir, .tim, .urg, .pmc, .now, .draws, .out]
  | .tideRx .. => .of [.regs, .hif, .fir, .tim, .urg, .twn, .pmc, .now, .out]
  | .tideSourceExpiry .. => .of [.regs, .hif, .dmc, .scr, .csm, .fir, .plk, .lop, .lck, .urg, .twn, .pmc, .dram, .tables, .draws, .out]
  | .stopRx .. => .of [.regs, .hif, .dmc, .scr, .csm, .fir, .plk, .lop, .lck, .urg, .twn, .pmc, .dram, .tables, .draws, .out]
  | .stateSend => .of [.urg, .out]
  | .stateRx .. => .of [.fir, .urg, .twn, .out]
  | .urgSendWake .. => .of [.hif, .fir, .urg, .twn, .out]
  | .wakeRx => .reset
  | .urgClrRing .. => .of [.hif, .fir, .urg, .twn, .out]
  | .twinHeartbeatSend => .of [.urg, .out]
  | .twinHeartbeatRx .. => .of [.regs, .hif, .dmc, .scr, .csm, .fir, .plk, .lop, .lck, .urg, .twn, .pmc, .dram, .tables, .draws, .out]
  | .stampRx .. => .of [.fir, .twn]
  | .sigRx .. => .reset
  | .takeoverRx .. => .of [.hif, .fir, .urg, .twn, .pmc, .out]
  | .failedRx .. => .of [.regs, .hif, .dmc, .scr, .csm, .fir, .plk, .lop, .lck, .urg, .twn, .pmc, .dram, .tables, .draws, .out]
  | .swapRx .. => .of [.regs, .hif, .dmc, .scr, .csm, .fir, .plk, .lop, .lck, .urg, .twn, .pmc, .dram, .tables, .draws, .out]
  | .planeStateRx .. => .of [.regs, .hif, .dmc, .scr, .csm, .fir, .plk, .lop, .lck, .urg, .twn, .pmc, .dram, .tables, .draws, .out]
  | .stageRx .. => .of [.dmc, .lck, .twn, .pmc, .dram, .draws, .out]
  | .joinRx .. => .of [.urg, .twn, .out]
  | .peerLossTimeout => .of [.regs, .hif, .dmc, .scr, .csm, .fir, .plk, .lop, .lck, .urg, .twn, .pmc, .dram, .tables, .draws, .out]
  | .twnCtrlFailWrite .. => .reset
  | .twnEnableWrite .. => .reset
  | .twnEpochWrite .. => .of [.hif, .twn, .out]
  | .sensorConversion .. => .reset
  | .thermalHistoryEntry => .of [.regs, .hif, .dmc, .thm, .pmc, .out]
  | .thmCfgWrite .. => .of [.regs, .hif, .thm]
  | .thmPeakClear => .of [.hif, .thm]
  | .sleepSensorSample .. => .reset
  | .pmcFreezeWrite .. => .of [.pmc, .draws, .out]
  | .pmcSnapWrite => .of [.pmc]
  | .pmcSnapshot => .of [.hif, .pmc, .draws, .out]
  | .pmcWindowClose => .of [.pmc, .out]
  | .pmcCounterWrite .. => .of [.pmc, .draws, .out]
  | .pmcWinWrite .. => .of [.pmc]
  | .ringPortLockLoss .. => .of [.urg]
  | .pllLosesLock .. => .of [.rst, .clk, .tim, .urg]
  | .csiClockLaneChange .. => .of [.clk]
  | .triggerPulseEnd .. => .of [.pins, .cam]
  | .gpioPulseEnd .. => .of [.pins, .fir, .tim, .pmc, .now]
  | .ptpMessageSend .. => .of [.fir, .tim, .pmc, .now, .out]
  | .ethernetLinkChange .. => .of [.tim]
  | .scrCfgBitsWrite .. => .of [.regs, .hif, .dmc, .csm, .fir, .plk, .lop, .lck, .urg, .twn, .pmc, .dram, .tables, .draws, .out]

/-- The BAR0 register a command writes for the host, the value, and the state in which the write reaches it (R59, R75, R79); none for a command that is no register write of its own. -/
def registerWritten (s : State) : Instr → Option (State × Nat × Word)
  | .camPortEnWrite v => some (s, 0x200000, v)
  | .camContextEnableWrite c v => some (s, ctxReg c 0, v)
  | .mmuEnableWrite e => some (s, 0x50000, if e then 1 else 0)
  | .dmcRetrainNow => some (s, 0x80018, s.reg 0x80018 ||| 0x100)
  | .fillStart => some (s, 0x80048, 1)
  | .posFaultClear k => some (s, posReg k 0x14, 2)
  | .posMainWrite v => some (s, 0x140000, v)
  | .posChannelEnable k v => some (s, posReg k 0, v)
  | .posZEnWrite k v => some (s, posReg k 0, v)
  | .posLprWrite k v => some (s, posReg k 4, v)
  | .firCtrlStopWrite v => some (s, 0x160010, v)
  | .firCtrlResumeFwd v => some (s, 0x160010, v)
  | .csmGateCloseWrite v => some (s, 0x100014, v)
  | .csmGateOpenWrite v => some (s, 0x100018, v)
  | .mrEnableWrite n v => some (s, mrCfg n, v ||| 1)
  | .mrDisableWrite n v => some (s, mrCfg n, v &&& ~~~1)
  | .crEnableWrite m v => some (s, crCfg m, v)
  | .logEnableWrite v => some (s, logCfg, v)
  | .dblMtailWrite n v => some (s, dblPage n, v.setWidth 32)
  | .dblMctrlResume n => some (s, dblPage n + 4, 1)
  | .dblCheadWrite m v => some (s, dblPage m + 8, v.setWidth 32)
  | .dblLheadWrite v => some (s, dblPage 0 + 0xC, v.setWidth 32)
  | .plkEnableWrite n v => some (s, linkReg n 0, v)
  | .lckSdataWrite c v => some (s, 0x260108 + 0x20 * c.val, v)
  | .rstBlockHoldWrite h => some (s, 0x10010, rstBlockWord h s.rst.dataHold s.rst.ctrlHold)
  | .rstDataHoldWrite h => some (s, 0x10010, rstBlockWord s.rst.blockHold h s.rst.ctrlHold)
  | .rstCtrlHoldWrite h => some (s, 0x10010, rstBlockWord s.rst.blockHold s.rst.dataHold h)
  | .rstLinkWrite h => some (s, 0x10014, h)
  | .sleepEnterWrite v => some (s, 0x10030, v)
  | .clkMeasStart v => some (s, 0x20010, v)
  | .registerWrite o v => if o.toNat % 4 = 0 then some (s, o.toNat, v) else none
  | .urgSendWake v => some (s, 0x2A000C, v)
  | .urgClrRing v => some (s, 0x2A000C, v)
  | .scrCfgBitsWrite v => some (s, 0xC0000, v)
  | .thmCfgWrite r v => some (s, if r then 0x30008 else 0x30004, v)
  | .thmPeakClear => some (s, 0x30010, 0x80000000)
  | .progEnableWrite v => some (s, 0x40008, v)
  | .timRateWrite v a => some (s.advance a, 0x280008, v)
  | .timStepWrite v a => some (s.advance a, 0x280014, v)
  | .timSrcWrite v => some (s, 0x280000, v)
  | .comparatorEnableWrite k v a => some (s.advance a, cmpReg k 0, v)
  | .gpioModeWrite g v => some (s, gpioReg g, v)
  | .twnCtrlFailWrite v => some (s, 0x2C0010, v)
  | .twnEnableWrite v => some (s, 0x2C0000, v)
  | .twnEpochWrite v => some (s, 0x2C000C, v)
  | _ => none

end Sys2Proof.Machine
end

