-- ==== Sys2Proof/Certificates/Slice0/Obligations.lean ====
section
/-! DEFINITION. The statements for the provers: what the rules of the spec say each command does. `Next c s P` says that command c answers a next state with P. -/

open Sys2Proof Sys2Proof.Machine

/-- For every command c and state s whose queue is c followed by rest, step s is exec c on s with the queue rest. (The queue is the model's own frame: first in, first out.) -/
def Obligations.StepRunsTheFrontCommand : Prop :=
  ∀ (c : Instr) (rest : List Instr) (s : State), s.pending = c :: rest → step s = exec c { s with pending := rest }

/-- For every state with an empty queue, step answers a next state, that of an idle step; where no copy is running, no decode is under way and no plane holds, has a cause or waits for a peer, it is the same state. (DESIGN CHOICE of log entry 46.) -/
def Obligations.StepIdlesOnEmptyQueue : Prop :=
  ∀ s : State, s.pending = [] → step s = .next s.idle ∧
    (s.cpy.run = none → (∀ e : Fin 16, s.qdc.dec[e] = none) →
      (∀ p : Fin 8, (s.fir.plane[p]).cause = 0 ∧ (s.fir.plane[p]).peerOf = none ∧ (s.fir.plane[p]).phase ≠ .hold ∧ s.twn.block[p] = 0) →
      step s = .next s)

/-- State.reset meets the invariant of StepKeepsCanonicalMemories (strictly rising keys, no entry equal to what an unlisted key reads as) and that of EntriesStayInOrderOfFetch. -/
def Obligations.ResetStateIsCanonical : Prop := State.reset.wf ∧ State.reset.numbered

/-- For every state s whose register file, DRAM, live tables and captured halves of read registers are in canonical form, if step s answers next t, then those of t are in canonical form. Where a clause rests on a reading of the model's own, log entry 48 says so. -/
def Obligations.StepKeepsCanonicalMemories : Prop :=
  ∀ s t : State, s.wf → step s = .next t → t.wf

/-- For every command c and state s, if exec c s answers next t, then t has the queue of s, its time and its count of free draws are not smaller, and what had left the device is the beginning of what has left it in t. Where a clause rests on a reading of the model's own, log entries 1, 2 say so. -/
def Obligations.CommandsLeaveQueueClockAndOutput : Prop :=
  ∀ (c : Instr) (s t : State), exec c s = .next t → t.pending = s.pending ∧ s.now ≤ t.now ∧ s.draws ≤ t.draws ∧ s.out <+: t.out

/-- POWER_ON_ASSERT, RAIL_DIP_DETECT, RESET_N_ASSERT, PCIE_PERST_ASSERT (awake, no sleep entry READY) and WATCHDOG_EXPIRY (control cores running, no source of L1 or L0) answer a next state in which the source is asserted, its bit of RST_CAUSE is set, and no domain it covers is UP: every domain for the power-on source and for RESET_N at reach L0, MGMT, DATA and CTRL for a source of L1, DATA and CTRL for the watchdog. The power-on source clears the thermal latch. Where a clause rests on a reading of the model's own, log entries 9, 144, 145 say so. -/
def Obligations.AssertedResetSourceTakesItsDomains : Prop :=
  (∀ s : State, Next .powerOnAssert s fun t => t.rst.por = true ∧ t.rst.cause.getLsbD 0 = true ∧ t.rst.therm = false ∧
    t.rst.aon ≠ .up ∧ t.rst.mgmt ≠ .up ∧ t.rst.data ≠ .up ∧ t.rst.ctrl ≠ .up) ∧
  (∀ s : State, Next .railDipDetect s fun t => t.rst.rail = true ∧ t.rst.cause.getLsbD 1 = true ∧
    t.rst.mgmt ≠ .up ∧ t.rst.data ≠ .up ∧ t.rst.ctrl ≠ .up) ∧
  (∀ s : State, Next .resetNAssert s fun t => t.rst.resetN = true ∧ t.rst.cause.getLsbD 2 = true ∧
    (s.rst.otp.reachResetN ≠ 1 → t.rst.aon ≠ .up) ∧ t.rst.mgmt ≠ .up ∧ t.rst.data ≠ .up ∧ t.rst.ctrl ≠ .up) ∧
  (∀ s : State, s.rst.asleep = false → s.rst.sleep ≠ .ready → Next .pciePerstAssert s fun t =>
    t.rst.perstLow = true ∧ t.rst.perst = true ∧ t.rst.cause.getLsbD 3 = true ∧
    (s.rst.otp.reachPerst ≠ 4 → t.rst.mgmt ≠ .up ∧ t.rst.data ≠ .up ∧ t.rst.ctrl ≠ .up)) ∧
  (∀ s : State, s.calm → s.rst.otp.reachWdog ≠ 1 → s.blkUp .cores = true → Next .watchdogExpiry s fun t =>
    t.rst.wdog = true ∧ t.rst.cause.getLsbD 5 = true ∧ t.rst.data ≠ .up ∧ t.rst.ctrl ≠ .up)

/-- POWER_ON_RELEASE (the oscillator started), RAIL_RECOVER_RELEASE, RESET_N_RELEASE, PCIE_PERST_DEASSERT and WATCHDOG_SOURCE_RELEASE answer a next state in which the source is deasserted and every bit that RST_CAUSE held is still set; PCIE_PERST_DEASSERT also releases PCIE_WAKE_N. Where a clause rests on a reading of the model's own, log entries 9, 145 say so. -/
def Obligations.ReleasedResetSourceLetsGo : Prop :=
  (∀ s : State, s.rst.osc = true → Next .powerOnRelease s fun t => t.rst.por = false ∧ s.rst.cause &&& t.rst.cause = s.rst.cause) ∧
  (∀ s : State, Next .railRecoverRelease s fun t => t.rst.rail = false ∧ s.rst.cause &&& t.rst.cause = s.rst.cause) ∧
  (∀ s : State, Next .resetNRelease s fun t => t.rst.resetN = false ∧ s.rst.cause &&& t.rst.cause = s.rst.cause) ∧
  (∀ s : State, Next .pciePerstDeassert s fun t => t.rst.perstLow = false ∧ t.rst.perst = false ∧ t.rst.wakeN = false ∧
    s.rst.cause &&& t.rst.cause = s.rst.cause) ∧
  (∀ s : State, Next .watchdogSourceRelease s fun t => t.rst.wdog = false ∧ t.rst.wdogMissed = false ∧
    s.rst.cause &&& t.rst.cause = s.rst.cause)

/-- With the register open, and no source of L1 or L0 asserted, a write of BLOCK_HOLD, DATA_HOLD, CTRL_HOLD or LINK_HOLD leaves the field with the written value; a hold that was not there sets RST_CAUSE.SOFT (bit 7), or RST_CAUSE.LINK (bit 8) for a link; and a domain that is held is not UP. Where a clause rests on a reading of the model's own, log entry 95 says so. -/
def Obligations.HeldUnitsStayUnderReset : Prop :=
  (∀ (s : State) (hold : BitVec 12), s.calm → s.takesWrite 0x10010 → Next (.rstBlockHoldWrite hold) s fun t =>
    t.rst.blockHold = hold ∧ (hold &&& ~~~s.rst.blockHold ≠ 0 → t.rst.cause.getLsbD 7 = true)) ∧
  (∀ (s : State) (hold : Bool), s.calm → s.takesWrite 0x10010 → Next (.rstDataHoldWrite hold) s fun t =>
    t.rst.dataHold = hold ∧ (hold = true → t.rst.data ≠ .up) ∧ (hold = true → s.rst.dataHold = false → t.rst.cause.getLsbD 7 = true)) ∧
  (∀ (s : State) (hold : Bool), s.calm → s.takesWrite 0x10010 → Next (.rstCtrlHoldWrite hold) s fun t =>
    t.rst.ctrlHold = hold ∧ (hold = true → t.rst.ctrl ≠ .up) ∧ (hold = true → s.rst.ctrlHold = false → t.rst.cause.getLsbD 7 = true)) ∧
  (∀ (s : State) (hold : BitVec 32), s.calm → s.takesWrite 0x10014 → Next (.rstLinkWrite hold) s fun t =>
    t.rst.linkHold = hold ∧ (hold &&& ~~~s.rst.linkHold ≠ 0 → t.rst.cause.getLsbD 8 = true))

/-- ISOLATION_DRAINED takes an isolating domain to IN_RESET or on to PENDING, and an isolating block or link out of ISOLATING. DOMAIN_CLOCKS_STABLE takes a PENDING unit, its PLLs locked and no source, hold or stage of bring-up keeping it, to UP: AON (whose release ends stage 1), MGMT, DATA or CTRL, a block held alone and a link. PENDING_CLOCK_TIMEOUT with a PLL of a PENDING unit unlocked fails bring-up with code 4 in stage 4, notes error 4 in another stage before the end, and changes nothing after it. BLOCK_RELEASE counts the next block of an UP domain as released; the block is then up unless a hold of its own keeps it. DMC_ZQ_CAL_DONE ends self-refresh and makes DMC ready on the retained training. Where a clause rests on a reading of the model's own, log entry 15 says so. -/
def Obligations.ResetUnitsAndBlocksAreReleased : Prop :=
  (∀ (s : State) (d : Domain), s.domainState d = .isolating → Next (.isolationDrained (.domain d)) s fun t =>
    t.domainState d = .inReset ∨ t.domainState d = .pending) ∧
  (∀ (s : State) (b : Blk) (k : Fin 13), b.heldIndex = some k → s.rst.held[k] = .isolating → Next (.isolationDrained (.block b)) s fun t =>
    t.rst.held[k] ≠ .isolating) ∧
  (∀ (s : State) (n : Fin 32), s.rst.link[n] = .isolating → Next (.isolationDrained (.link n)) s fun t => t.rst.link[n] ≠ .isolating) ∧
  (∀ s : State, s.calm → s.rst.aon = .pending → s.pllsLocked (.domain .aon) = true → s.rst.osc = true →
    Next (.domainClocksStable (.domain .aon)) s fun t => t.rst.aon = .up ∧ t.rst.stage = if s.rst.stage = 1 then 2 else s.rst.stage) ∧
  (∀ s : State, s.calm → s.rst.aon = .up → s.rst.mgmt = .pending → s.bootHolds .mgmt = false → s.pllsLocked (.domain .mgmt) = true →
    Next (.domainClocksStable (.domain .mgmt)) s fun t => t.rst.mgmt = .up) ∧
  (∀ (s : State) (d : Domain), d = .data ∨ d = .ctrl → (∀ e, s.domainCovered e = false) → s.domainState d = .pending → s.bootHolds d = false →
    s.pllsLocked (.domain d) = true → Next (.domainClocksStable (.domain d)) s fun t => t.domainState d = .up) ∧
  (∀ (s : State) (b : Blk) (k : Fin 13), b.heldIndex = some k → (∀ e, s.domainCovered e = false) → s.domainState b.domain = .up →
    s.rst.held[k] = .pending → s.blockCovered k = false → s.pllsLocked (.block b) = true →
    Next (.domainClocksStable (.block b)) s fun t => t.rst.held[k] = .up) ∧
  (∀ (s : State) (n : Fin 32), (∀ e, s.domainCovered e = false) → s.rst.data = .up → s.rst.link[n] = .pending → s.linkCovered n = false →
    s.pllsLocked (.link n) = true → Next (.domainClocksStable (.link n)) s fun t => t.rst.link[n] = .up) ∧
  (∀ (s : State) (u : ResetUnit), s.unitState u = .pending → s.pllsLocked u = false → s.rst.stage = 4 →
    Next (.pendingClockTimeout u) s fun t => t.rst.stage = 0xF ∧ t.rst.error = 4) ∧
  (∀ (s : State) (u : ResetUnit), s.unitState u = .pending → s.pllsLocked u = false → s.rst.stage ≠ 4 → s.rst.stage ≠ 7 → s.rst.stage ≠ 0xF →
    Next (.pendingClockTimeout u) s fun t => t.rst.stage = s.rst.stage ∧ t.rst.error = 4) ∧
  (∀ (s : State) (u : ResetUnit), s.rst.stage = 7 ∨ s.rst.stage = 0xF → Next (.pendingClockTimeout u) s fun t => t = s) ∧
  (∀ (s : State) (d : Domain) (b : Blk), s.domainState d = .up → (domainBlks d)[s.released d]? = some b →
    Next (.blockRelease d) s fun t => t.released d = s.released d + 1 ∧
      ((∀ k, b.heldIndex = some k → s.rst.held[k] = .up) → t.blkUp b = true)) ∧
  (∀ s : State, s.blkUp .dmc = true → s.rst.dramSr = true → Next .dmcZqCalDone s fun t =>
    t.rst.dramSr = false ∧ t.dmc.ready = true ∧ t.dmc.chUp = s.dmc.retained)

/-- OSCILLATOR_START starts the oscillator. In stage 2 an OTP record is taken and stage 3 begins, while an uncorrectable OTP error stops bring-up with code 1. In stage 3 the boot ROM runs the acceptable slot with the higher version, slot A when they are equal, and stage 4 begins; with no slot acceptable bring-up stops with code 3 if one failed only on its rollback value, else 2. In stage 5 a channel's training result is taken (a configuration that R127 does not list counts as failed), a failure of channel 0 stops bring-up with code 5, and a bank that fails calibration is disabled. In stage 6 the end of the self-test ends bring-up and gives ELAPSED, or stops it with code 6. PCIE_LINK_UP brings up a calibrated link after stage 2 with no source of L1 or L0 asserted. Where a clause rests on a reading of the model's own, log entries 8, 93, 144, 147, 162, 169 say so. -/
def Obligations.BringUpStagesFollowInOrder : Prop :=
  (∀ s : State, Next .oscillatorStart s fun t => t.rst.osc = true ∧ t.rst.stage = s.rst.stage) ∧
  (∀ (s : State) (o : Otp), s.rst.stage = 2 → s.rst.aon = .up → State.calm { s with rst := { s.rst with otp := o } } →
    Next (.otpReadDone (some o)) s fun t => t.rst.otp = o ∧ t.rst.stage = 3) ∧
  (∀ s : State, s.rst.stage = 2 → s.rst.aon = .up → Next (.otpReadDone none) s fun t => t.rst.stage = 0xF ∧ t.rst.error = 1) ∧
  (∀ (s : State) (a b : SlotCheck), s.rst.stage = 3 → s.calm → Next (.secureBootDone a b) s fun t =>
    let good := fun c : SlotCheck => c.signature = true ∧ c.digest = true ∧ s.rst.otp.rollback ≤ c.rollback
    let old := fun c : SlotCheck => c.signature = true ∧ c.digest = true ∧ c.rollback < s.rst.otp.rollback
    (good a → (good b → b.version ≤ a.version) → t.rst.stage = 4 ∧ t.rst.slot = false) ∧
    (good b → (good a → a.version < b.version) → t.rst.stage = 4 ∧ t.rst.slot = true) ∧
    (¬ good a → ¬ good b → t.rst.stage = 0xF ∧ (old a ∨ old b → t.rst.error = 3) ∧ (¬ old a → ¬ old b → t.rst.error = 2))) ∧
  (∀ (s : State) (c : Fin 2) (r : TrainResult), s.rst.stage = 5 → s.blkUp .dmc = true → Next (.dramTrainingDone c r) s fun t =>
    t.rst.trainDone[c] = some (trainOutcome r) ∧
    (c = 0 → trainOutcome r = .failed ∨ trainOutcome r = .unpopulated → t.rst.stage = 0xF ∧ t.rst.error = 5)) ∧
  (∀ (s : State) (ok : Bool), s.rst.stage = 5 → Next (.serdesCalibrationDone .serW ok) s fun t => t.rst.serWOff = !ok ∧ t.rst.calDone[0] = true) ∧
  (∀ (s : State) (ok : Bool), s.rst.stage = 5 → Next (.serdesCalibrationDone .serE ok) s fun t => t.rst.serEOff = !ok ∧ t.rst.calDone[1] = true) ∧
  (∀ (s : State) (ok : Bool), s.rst.stage = 5 → Next (.serdesCalibrationDone .net ok) s fun t => t.rst.netOff = !ok ∧ t.rst.calDone[2] = true) ∧
  (∀ (s : State) (ok : Bool), s.rst.stage = 5 → Next (.serdesCalibrationDone .csi ok) s fun t => t.rst.csiOff = !ok ∧ t.rst.calDone[3] = true) ∧
  (∀ (s : State) (ms : Nat), s.rst.stage = 6 → Next (.firmwareSelfTestDone true ms) s fun t =>
    t.bootDone = true ∧ t.rst.elapsed.toNat = min 1023 ms) ∧
  (∀ (s : State) (ms : Nat), s.rst.stage = 6 → Next (.firmwareSelfTestDone false ms) s fun t => t.rst.stage = 0xF ∧ t.rst.error = 6) ∧
  (∀ s : State, s.calm → 3 ≤ s.rst.stage.toNat → s.rst.pcieOff = false → s.rst.perst = false → s.rst.perstLow = false →
    Next .pcieLinkUp s fun t => t.rst.pcieUp = true)

/-- A write of RST_SLEEP that reaches the register outside a sleep entry takes bits 9 to 1; with ENTER it starts DRAINING, or is REFUSED with the first reason that holds (a plane in RUN or CLOSING gives reason 1). SLEEP_DRAIN_DONE makes a drained device READY. D3HOT_ENTRY places the function in D3hot, and 100 ms later, or at PCIE_PERST_N, a READY device is in sleep with MGMT not UP. A GPIO edge that the wake enables select wakes a sleeping device, sets bit 1 of RST_WAKE and drives PCIE_WAKE_N low. Where a clause rests on a reading of the model's own, log entries 59, 69, 146, 148 say so. -/
def Obligations.SleepIsEnteredAndLeft : Prop :=
  (∀ (s : State) (v : Word), s.takesWrite 0x10030 → s.rst.sleep ≠ .draining → s.rst.sleep ≠ .ready → Next (.sleepEnterWrite v) s fun t =>
    t.rst.sleepCfg = v.extractLsb' 1 9 ∧
    (v.getLsbD 0 = true → s.sleepReason = 0 → t.rst.sleep = .draining ∧ t.rst.enter = true) ∧
    (v.getLsbD 0 = true → s.sleepReason ≠ 0 → t.rst.sleep = .refused ∧ t.rst.enter = false ∧ t.rst.reason.toNat = s.sleepReason) ∧
    (v.getLsbD 0 = true → s.firingPlanes ≠ [] → t.rst.reason = 1)) ∧
  (∀ s : State, s.rst.sleep = .draining → (∀ f ∈ s.hif.flights, f.phase = .faulted) → Next .sleepDrainDone s fun t => t.rst.sleep = .ready) ∧
  (∀ s : State, s.rst.pcieUp = true → s.bootDone = true → Next .d3hotEntry s fun t => t.rst.d3hot = true) ∧
  (∀ s : State, s.rst.d3hot = true → s.rst.asleep = false → s.rst.sleep = .ready → s.reachL0 = false → Next .sleepEntryTimeout s fun t =>
    t.rst.asleep = true ∧ t.rst.mgmt ≠ .up) ∧
  (∀ s : State, s.rst.asleep = false → s.rst.sleep = .ready → s.reachL0 = false → Next .pciePerstAssert s fun t =>
    t.rst.asleep = true ∧ t.rst.mgmt ≠ .up) ∧
  (∀ (s : State) (g : Fin 16) (rising : Bool), s.rst.asleep = true → s.reachL0 = false → s.rst.sleepCfg.getLsbD 1 = true →
    s.rst.sleepCfg.getLsbD 2 = rising → s.rst.sleepCfg.extractLsb' 3 4 = BitVec.ofNat 4 g.val → Next (.gpioWakeEdge g rising) s fun t =>
    t.rst.asleep = false ∧ t.rst.wake.getLsbD 1 = true ∧ t.rst.wakeN = true)

/-- With the PCIe link up, a configuration read before the end of bring-up gets retry status, and after it the header's word. A BAR0 read within one register of an open block whose clock runs returns its bytes (zeros where RST's window holds no register), and a read of a LO register captures its HI half, which a later read returns. A request outside one open register gets Unsupported Request: a read its completion, a write its record. A REGISTER_WRITE that is not aligned is discarded and recorded; one that reaches a plain register of CPY or QDC gives each field the value its access code says and leaves every other host-written register alone; one that names no register changes nothing. A read, or a write behind an earlier one of its crossing, is abandoned where its clock has stopped. A BAR2 write within the capacity, on channels without a fault and admitted by the regions, puts its bytes into DRAM and changes no other byte; a BAR2 read of readable units answers with the bytes of DRAM. Where a clause rests on a reading of the model's own, log entries 10, 11, 131, 149 say so. -/
def Obligations.HostAccessesReachOpenRegistersAlone : Prop :=
  (∀ (s : State) (r : ConfigReg) (w : Option Word), s.rst.pcieUp = true → s.rst.stage ≠ 7 → s.rst.stage ≠ 0xF →
    Next (.configRequest ⟨r, w⟩) s fun t => t.out = s.out ++ [.configRetry]) ∧
  (∀ s : State, s.rst.pcieUp = true → s.bootDone = true → Next (.configRequest ⟨.header 0, none⟩) s fun t => t.out = s.out ++ [.config (some 0x82621E3C)]) ∧
  (∀ (s : State) (o : BitVec 25) (n : Nat), s.barOpen o.toNat = true → s.clockStopped o.toNat = false → o.toNat % 4 + n ≤ 4 → s.hif.accesses = [] →
    Next (.barAccessUnsupported false o n) s fun t => t.regs = s.regs ∧
      (s.out ++ [.barData o.toNat ((List.range n).map fun i => (s.readWord (o.toNat / 4 * 4)).1.extractLsb' (8 * (o.toNat % 4 + i)) 8)]) <+: t.out) ∧
  (∀ (s : State) (o : BitVec 25), s.barOpen o.toNat = true → s.hif.accesses = [] → 0x10040 ≤ o.toNat → o.toNat < 0x20000 → o.toNat % 4 = 0 →
    Next (.barAccessUnsupported false o 4) s fun t => (s.out ++ [.barData o.toNat [0, 0, 0, 0]]) <+: t.out) ∧
  (∀ (s : State) (o : BitVec 25) (a : Nat), s.barOpen o.toNat = true → s.clockStopped o.toNat = false → s.hif.accesses = [] → a ∈ capturedBy o.toNat →
    Next (.barAccessUnsupported false o 4) s fun t => (t.readWord a).1 = s.wordNow a) ∧
  (∀ (s : State) (o : BitVec 25) (n : Nat), s.rst.pcieUp = true → (4 < o.toNat % 4 + n ∨ s.barOpen o.toNat = false) → s.hif.accesses = [] →
    Next (.barAccessUnsupported false o n) s fun t => t.out = s.out ++ [.unsupported o.toNat] ∧ t.regs = s.regs) ∧
  (∀ (s : State) (o : BitVec 25) (n : Nat), s.rst.pcieUp = true → (4 < o.toNat % 4 + n ∨ s.barOpen o.toNat = false) →
    Next (.barAccessUnsupported true o n) s fun t => t.hif.aerUr = true ∧ t.regs = s.regs) ∧
  (∀ (s : State) (o : BitVec 25) (v : Word), o.toNat % 4 ≠ 0 → Next (.registerWrite o v) s fun t => t.hif.aerUr = true ∧ t.regs = s.regs) ∧
  (∀ (s : State) (o : BitVec 25) (v : Word) (d : RegDef), o.toNat % 4 = 0 → (0x60000 ≤ o.toNat ∧ o.toNat < 0x70000 ∨ 0xA0000 ≤ o.toNat ∧ o.toNat < 0xC0000) →
    s.takesWrite o.toNat → regDefAt o.toNat = some d → Next (.registerWrite o v) s fun t =>
      t.reg o.toNat = d.fields.foldl (writeField s o.toNat v) (s.reg o.toNat) ∧ ∀ a, a ≠ o.toNat → t.reg a = s.reg a) ∧
  (∀ (s : State) (o : BitVec 25) (v : Word), o.toNat % 4 = 0 → (0x60000 ≤ o.toNat ∧ o.toNat < 0x70000 ∨ 0xA0000 ≤ o.toNat ∧ o.toNat < 0xC0000) →
    s.takesWrite o.toNat → regDefAt o.toNat = none → Next (.registerWrite o v) s fun t => t = s) ∧
  (∀ (s : State) (o : BitVec 25) (n : Nat), s.hif.accesses = [⟨o.toNat, n, none, none⟩] → Next (.regAccessAbandoned false o) s fun t =>
    Sent s t (.unsupported o.toNat) ∧ t.hif.accesses = []) ∧
  (∀ (s : State) (o : BitVec 25) (u v : Word), s.hif.accesses = [⟨o.toNat, 4, some u, none⟩, ⟨o.toNat, 4, some v, none⟩] → Next (.regAccessAbandoned true o) s fun t =>
    t.hif.aerUr = true ∧ t.hif.accesses = [⟨o.toNat, 4, some u, none⟩]) ∧
  (∀ (s : State) (o : BitVec 28) (bs : List Byte), s.bar2Open = true → s.regField 0x20 0 8 * 2 ^ 28 + o.toNat + bs.length ≤ s.capacity →
    (∀ c : Fin 2, s.dmc.chFault[c] = false) →
    (∀ i < bs.length, s.rgnAdmits 6 (s.regField 0x20 0 8 * 2 ^ 28 + o.toNat + i) = true) → Next (.bar2Access true o bs) s fun t =>
      t.dramGet (s.regField 0x20 0 8 * 2 ^ 28 + o.toNat) bs.length = bs ∧
      ∀ a, (a < s.regField 0x20 0 8 * 2 ^ 28 + o.toNat ∨ s.regField 0x20 0 8 * 2 ^ 28 + o.toNat + bs.length ≤ a) → t.dramByte a = s.dramByte a) ∧
  (∀ (s : State) (o : BitVec 28) (bs : List Byte), s.bar2Open = true → s.regField 0x20 0 8 * 2 ^ 28 + o.toNat + bs.length ≤ s.capacity →
    s.badIn (s.regField 0x20 0 8 * 2 ^ 28 + o.toNat) bs.length = none → Next (.bar2Access false o bs) s fun t =>
      Sent s t (.bar2Data (s.dramGet (s.regField 0x20 0 8 * 2 ^ 28 + o.toNat) bs.length) false) ∧ t.dram = s.dram)

/-- While AON_CLK runs, a half period toggles DRIVE_OK while the drive is good, and HOLD_REQ too where no plane stands at a seam, and leaves both static otherwise. A FIRE_ENABLE edge 200 to 2,000 µs after the one before counts up to four good intervals, the fourth of which asserts FIRE_ENABLE; an interval out of bounds, and 2,000 µs without an edge, deassert it. PLL_LOCK sets and PLL_LOSES_LOCK clears the PLL's bit of CLK_LOCK; PLL_PCIE's loss takes the PCIe link down. A clock measurement starts with the register's selection and ends with the count and DONE. A monitor window with a good count of FIRE_CLK ends its stop, one with a bad count starts it. A CSI-2 clock lane is recorded as running or not. Where a clause rests on a reading of the model's own, log entries 60, 91, 92, 157 say so. -/
def Obligations.PinsAndClocksFollowTheirEvents : Prop :=
  (∀ s : State, s.rst.aon = .up → s.aonClkRuns = true → s.driveGood = true →
    Next .heartbeatHalfPeriod s fun t => t.pins.driveOk = s.pins.driveOk.toggle s.now ∧ (s.holdGood = true → t.pins.holdReq = s.pins.holdReq.toggle s.now)) ∧
  (∀ s : State, s.rst.aon = .up → s.driveGood = false → Next .heartbeatHalfPeriod s fun t => t.pins.driveOk = s.pins.driveOk ∧ t.pins.holdReq = s.pins.holdReq) ∧
  (∀ (s : State) (a e : Nat), s.now ≤ a → s.rst.aon = .up → s.pins.fireLast = some e → e + 400000 ≤ a → a ≤ e + 4000000 → s.pins.fireGood < 4 →
    Next (.fireEnableEdge a) s fun t => t.pins.fireGood = s.pins.fireGood + 1 ∧ t.pins.fireLast = some a ∧
      (s.pins.fireGood = 3 → t.pins.fireEnable = true)) ∧
  (∀ (s : State) (a e : Nat), s.now ≤ a → s.rst.aon = .up → s.pins.fireLast = some e → (a < e + 400000 ∨ e + 4000000 < a) →
    Next (.fireEnableEdge a) s fun t => t.pins.fireGood = 0 ∧ t.pins.fireEnable = false) ∧
  (∀ (s : State) (a e : Nat), s.now ≤ a → s.pins.fireLast = some e → e + 4000000 ≤ a →
    Next (.fireEnableTimeout a) s fun t => t.pins.fireGood = 0 ∧ t.pins.fireEnable = false) ∧
  (∀ (s : State) (k : Fin 11), s.hif.accesses = [] → s.urg.tideWait = [] → Next (.pllLock k) s fun t => t.clk.lock.getLsbD k = true ∧ ∀ j : Fin 11, j ≠ k → t.clk.lock.getLsbD j = s.clk.lock.getLsbD j) ∧
  (∀ (s : State) (k : Fin 11), Next (.pllLosesLock k) s fun t => t.clk.lock.getLsbD k = false ∧ (∀ j : Fin 11, j ≠ k → t.clk.lock.getLsbD j = s.clk.lock.getLsbD j) ∧
    (k = 8 → t.rst.pcieUp = false)) ∧
  (∀ (s : State) (v : Word), s.takesWrite 0x20010 → v.getLsbD 31 = true → Next (.clkMeasStart v) s fun t =>
    t.clk.meas = some (v.extractLsb' 0 6, BitVec.ofNat 4 (max 6 (v.extractLsb' 8 4).toNat)) ∧ t.clk.measDone = false) ∧
  (∀ (s : State) (k : BitVec 6) (l : BitVec 4) (n : BitVec 31), s.clk.meas = some (k, l) → (k.toNat < 13 ∨ 16 ≤ k.toNat ∧ k.toNat < 48) →
    Next (.clkMeasDone n) s fun t => t.clk.measCount = n ∧ t.clk.measDone = true ∧ t.clk.meas = none) ∧
  (∀ (s : State) (n a : Nat), s.blkUp .clk = true → s.aonClkRuns = true → s.hif.accesses = [] → s.urg.tideWait = [] → 502 ≤ n → n ≤ 522 →
    Next (.clockMonitorWindow ⟨[(0, n)], a⟩) s fun t => t.clk.down.getLsbD 0 = false) ∧
  (∀ (s : State) (a : Nat), s.blkUp .clk = true → s.aonClkRuns = true → s.hif.accesses = [] → s.urg.tideWait = [] →
    Next (.clockMonitorWindow ⟨[(0, 0)], a⟩) s fun t => t.clk.down.getLsbD 0 = true ∧ (t.reg 0x20004).getLsbD 0 = true) ∧
  (∀ (s : State) (p : Fin 4) (on : Bool), Next (.csiClockLaneChange p on) s fun t => t.clk.csiRun[p] = on)

/-- A write of ENABLE = 1 to a disabled manifest ring with LOG2SIZE 6 to 16 and an enabled completion ring leaves it enabled, RUNNING, with HEAD 0 and ERROR 0; with LOG2SIZE outside 6 to 16 or a disabled completion ring it stays disabled. A disabled completion ring or log ring enabled with LOG2SIZE 8 to 16 starts with TAIL 0 and PHASE 1. A completion ring that an enabled manifest ring names stays enabled. HIF_PROG_CFG takes the written ENABLE and PERIOD. Where a clause rests on a reading of the model's own, log entries 50, 170 say so. -/
def Obligations.RingsAreEnabled : Prop :=
  (∀ (s : State) (n : Fin 16) (v : Word), s.takesWrite (mrCfg n) → s.regBit (mrCfg n) 0 = false →
    6 ≤ bitsOf v.toNat 1 5 → bitsOf v.toNat 1 5 ≤ 16 → s.regBit (crCfg (Fin.ofNat 8 (bitsOf v.toNat 9 3))) 0 = true →
    Next (.mrEnableWrite n v) s fun t => t.regBit (mrCfg n) 0 = true ∧ t.ringSize (mrCfg n) = 2 ^ bitsOf v.toNat 1 5 ∧
      t.hif.mr[n].state = .running ∧ t.hif.mr[n].head = 0 ∧ t.hif.mr[n].error = 0 ∧ t.hif.mr[n].tail = s.hif.mr[n].tail) ∧
  (∀ (s : State) (n : Fin 16) (v : Word), s.takesWrite (mrCfg n) → s.regBit (mrCfg n) 0 = false →
    (bitsOf v.toNat 1 5 < 6 ∨ 16 < bitsOf v.toNat 1 5 ∨ s.regBit (crCfg (Fin.ofNat 8 (bitsOf v.toNat 9 3))) 0 = false) →
    Next (.mrEnableWrite n v) s fun t => t.regBit (mrCfg n) 0 = false ∧ t.hif.mr = s.hif.mr) ∧
  (∀ (s : State) (m : Fin 8) (v : Word), s.takesWrite (crCfg m) → s.regBit (crCfg m) 0 = false → v.getLsbD 0 = true →
    8 ≤ bitsOf v.toNat 1 5 → bitsOf v.toNat 1 5 ≤ 16 → Next (.crEnableWrite m v) s fun t =>
      t.regBit (crCfg m) 0 = true ∧ t.hif.cr[m].tail = 0 ∧ t.hif.cr[m].phase = true) ∧
  (∀ (s : State) (m : Fin 8) (v : Word), s.takesWrite (crCfg m) → s.regBit (crCfg m) 0 = true → s.crNamed m = true →
    Next (.crEnableWrite m v) s fun t => t.regBit (crCfg m) 0 = true ∧ t.hif.cr = s.hif.cr) ∧
  (∀ (s : State) (v : Word), s.takesWrite logCfg → s.regBit logCfg 0 = false → v.getLsbD 0 = true →
    8 ≤ bitsOf v.toNat 1 5 → bitsOf v.toNat 1 5 ≤ 16 → Next (.logEnableWrite v) s fun t =>
      t.regBit logCfg 0 = true ∧ t.hif.log.tail = 0 ∧ t.hif.log.phase = true) ∧
  (∀ (s : State) (v : Word), s.takesWrite 0x40008 → Next (.progEnableWrite v) s fun t =>
    t.regBit 0x40008 0 = v.getLsbD 0 ∧ t.regField 0x40008 1 14 = bitsOf v.toNat 1 14 ∧ t.hif = s.hif)

/-- A write of ENABLE = 0 to a manifest ring leaves ENABLE 0 and the ring's fault slot invalid; no halted entry of the ring, no LOCK ARM and no JOB_CLOSE of it that waits is still on chip; where nothing of the ring is left on chip its STATE reads DISABLED. MR_DRAINED gives DISABLED to a ring with ENABLE 0 and nothing on chip. Where a clause rests on a reading of the model's own, log entries 51, 150, 171 say so. -/
def Obligations.RingsAreDisabledAndDrain : Prop :=
  (∀ (s : State) (n : Fin 16) (v : Word), s.takesWrite (mrCfg n) → Next (.mrDisableWrite n v) s fun t =>
    t.regBit (mrCfg n) 0 = false ∧ t.mmu.flt[n.castLE (by decide : 16 ≤ 17)].valid = false ∧
    (∀ f ∈ t.hif.flights, f.ring = n → abortable f = false) ∧
    ((∀ f ∈ t.hif.flights, f.ring ≠ n) → t.hif.mr[n].state = .disabled)) ∧
  (∀ (s : State) (n : Fin 16), s.regBit (mrCfg n) 0 = false → (∀ f ∈ s.hif.flights, f.ring ≠ n) →
    Next (.mrDrained n) s fun t => t.hif.mr[n].state = .disabled ∧ t.hif.flights = s.hif.flights ∧ t.regs = s.regs)

/-- A TAIL or HEAD doorbell below the size of its ring is held as written (manifest TAIL, completion HEAD, log HEAD); at or above the size the old value stays. A RESUME doorbell to a HALTED ring makes it RUNNING and its fault slot invalid; to a ring in another state it changes nothing. Where a clause rests on a reading of the model's own, log entry 14 says so. -/
def Obligations.DoorbellsMoveTheRings : Prop :=
  (∀ (s : State) (n : Fin 16) (v : BitVec 16), s.takesWrite (dblPage n) → v.toNat < s.ringSize (mrCfg n) →
    Next (.dblMtailWrite n v) s fun t => t.hif.mr[n] = { s.hif.mr[n] with tail := v } ∧ t.hif.flights = s.hif.flights ∧ t.out = s.out) ∧
  (∀ (s : State) (n : Fin 16) (v : BitVec 16), s.takesWrite (dblPage n) → s.ringSize (mrCfg n) ≤ v.toNat →
    Next (.dblMtailWrite n v) s fun t => t.hif.mr = s.hif.mr) ∧
  (∀ (s : State) (n : Fin 16), s.takesWrite (dblPage n + 4) → s.hif.mr[n].state = .halted → Next (.dblMctrlResume n) s fun t =>
    t.hif.mr[n].state = .running ∧ t.mmu.flt[n.castLE (by decide : 16 ≤ 17)].valid = false) ∧
  (∀ (s : State) (n : Fin 16), s.takesWrite (dblPage n + 4) → s.hif.mr[n].state ≠ .halted → exec (.dblMctrlResume n) s = .next s) ∧
  (∀ (s : State) (m : Fin 8) (v : BitVec 16), s.takesWrite (dblPage m + 8) → v.toNat < s.ringSize (crCfg m) →
    Next (.dblCheadWrite m v) s fun t => t.hif.cr[m] = { s.hif.cr[m] with head := v } ∧ t.out = s.out) ∧
  (∀ (s : State) (m : Fin 8) (v : BitVec 16), s.takesWrite (dblPage m + 8) → s.ringSize (crCfg m) ≤ v.toNat →
    Next (.dblCheadWrite m v) s fun t => t.hif.cr = s.hif.cr) ∧
  (∀ (s : State) (v : BitVec 16), s.takesWrite (dblPage 0 + 0xC) → v.toNat < s.ringSize logCfg →
    Next (.dblLheadWrite v) s fun t => t.hif.log = { s.hif.log with head := v } ∧ t.out = s.out)

/-- A fetch from the ring that is next reads 64 bytes at BASE + 64 HEAD and moves HEAD to the next index of the ring. An entry that passes the checks of R96 stands on chip as the youngest, queued; one that fails them completes at once with the status of the first failing check and result 0. A failed ring read puts the ring in ERROR with ERROR 1. NOP completes as OK. Where a clause rests on a reading of the model's own, log entries 12, 49, 151 say so. -/
def Obligations.EntriesAreFetchedAndChecked : Prop :=
  (∀ (s : State) (n : Fin 16) (w : BitVec 512), s.nextFetch = some n → Next (.manifestFetch n w) s fun t =>
    t.hif.mr[n].head = BitVec.ofNat 16 ((s.hif.mr[n].head.toNat + 1) % s.ringSize (mrCfg n)) ∧
    Sent s t (.hostRead (s.busAddr (mrCfg n - 8) + 64 * s.hif.mr[n].head.toNat) 64)) ∧
  (∀ (s : State) (n : Fin 16) (w : BitVec 512), s.nextFetch = some n → s.entryCheck (s.regBit (mrCfg n) 8) (parseEntry w) = none →
    Next (.manifestFetch n w) s fun t => t.hif.flights = s.hif.flights ++
      [{ id := s.hif.nextId, ring := n, index := s.hif.mr[n].head, e := parseEntry w, phase := .queued, done := 0, faultNo := 0 }]) ∧
  (∀ (s : State) (n : Fin 16) (w : BitVec 512) (st : BitVec 8), s.numbered → s.nextFetch = some n →
    s.entryCheck (s.regBit (mrCfg n) 8) (parseEntry w) = some st → Next (.manifestFetch n w) s fun t =>
      t.hif.flights = s.hif.flights ∧
      Completes s t { id := s.hif.nextId, ring := n, index := s.hif.mr[n].head, e := parseEntry w, phase := .queued, done := 0, faultNo := 0 } st 0) ∧
  (∀ (s : State) (n : Fin 16), s.nextFetch = some n → Next (.manifestReadFail n) s fun t =>
    t.hif.mr[n].state = .error ∧ t.hif.mr[n].error = 1 ∧ t.hif.flights = s.hif.flights) ∧
  (∀ (s : State) (n : Fin 16) (f : Flight), s.starts n f → f.e.op = 0x00 → Next (.nop n) s fun t => Completes s t f stOk 0)

/-- When the timer of a ring with COAL_TIME not 0 and unsignalled entries runs out, its vector is signalled: the message is sent, or the vector's pending bit set while it is masked. A write of a vector's control word in the MSI-X table masks it, or clears its mask and pending bits and sends the message that was pending; a write of its data is held, and with BAR4 closed a write is discarded and recorded. With losses pending and a free slot, the log ring's next slot is written and no loss stays pending. With HIF_PROG_CFG.ENABLE 1 the progress block goes to HIF_PROG_BASE. Where a clause rests on a reading of the model's own, log entries 13, 65 say so. -/
def Obligations.InterruptsAndLostRecordsGoOut : Prop :=
  (∀ (s : State) (m : Fin 8), s.blkUp .hif = true → s.hif.cr[m].unsig ≠ 0 → s.regField (crCfg m) 24 8 ≠ 0 →
    Next (.coalTimerExpiry (some m)) s fun t => t.hif.cr[m].unsig = 0 ∧
      if s.hif.msixMask.getLsbD (s.ringVector (crCfg m)) then t.hif.msixPend.getLsbD (s.ringVector (crCfg m)) = true
      else Sent s t (s.msixMessage (s.ringVector (crCfg m)))) ∧
  (∀ s : State, s.blkUp .hif = true → s.hif.log.unsig ≠ 0 → s.regField logCfg 24 8 ≠ 0 →
    Next (.coalTimerExpiry none) s fun t => t.hif.log.unsig = 0 ∧
      if s.hif.msixMask.getLsbD (s.ringVector logCfg) then t.hif.msixPend.getLsbD (s.ringVector logCfg) = true
      else Sent s t (s.msixMessage (s.ringVector logCfg))) ∧
  (∀ (s : State) (v : Fin 64) (x : Word), s.bar4Open = true → x.getLsbD 0 = false → Next (.msixUnmask ⟨BitVec.ofNat 12 (16 * v.val + 12), x⟩) s fun t =>
    t.hif.msixMask.getLsbD v = false ∧ t.hif.msixPend.getLsbD v = false ∧
    (s.hif.msixPend.getLsbD v = true → Sent s t (s.msixMessage v))) ∧
  (∀ (s : State) (v : Fin 64) (x : Word), s.bar4Open = true → x.getLsbD 0 = true → Next (.msixUnmask ⟨BitVec.ofNat 12 (16 * v.val + 12), x⟩) s fun t =>
    t.hif.msixMask.getLsbD v = true ∧ t.hif.msixPend = s.hif.msixPend ∧ t.out = s.out) ∧
  (∀ (s : State) (v : Fin 64) (x : Word), s.bar4Open = true → Next (.msixUnmask ⟨BitVec.ofNat 12 (16 * v.val + 8), x⟩) s fun t =>
    t.hif.msixData[v] = x ∧ t.hif.msixMask = s.hif.msixMask ∧ t.out = s.out) ∧
  (∀ (s : State) (o : BitVec 12) (x : Word), s.rst.pcieUp = true → s.bar4Open = false → Next (.msixUnmask ⟨o, x⟩) s fun t =>
    t.hif.aerUr = true ∧ t.hif.msixMask = s.hif.msixMask ∧ t.out = s.out) ∧
  (∀ s : State, s.hif.lostPending ≠ 0 → s.logRoom = true → Next .lostRecordWrite s fun t =>
    t.hif.lostPending = 0 ∧ t.hif.seq = s.hif.seq + 1 ∧
    ∃ bs : List Byte, bs.length = 32 ∧ (bs.drop 8).take 8 = leBytes 2 0x0001 ++ [1, 0xFF] ++ leBytes 4 s.hif.seq.toNat ∧
      (bs.drop 16).take 4 = leBytes 4 s.hif.lostPending ∧ Sent s t (.hostWrite (s.busAddr 0x40010 + 32 * s.hif.log.tail.toNat) bs false)) ∧
  (∀ s : State, s.blkUp .hif = true → s.regBit 0x40008 0 = true → Next .progressBlockWrite s fun t =>
    Sent s t (.hostWrite (s.busAddr 0x40000) (s.fir.plane.toList.flatMap Plane.progress) false) ∧ t.hif = s.hif)

/-- An entry of a ring that may start, whose blocks are out of reset and whose length is not 0, is running afterwards, and the data mover has one more transfer, in the place of its class that the order in which the entries started gives it (insertXfer), from its first byte: QUIRE_LOAD (with REPLACE, or with index room) job address A1 from host address A0, A2 bytes; TABLE_LOAD offset A1 of its table, live where A3 is 0 and the live view may be written, else of chamber A3 while it is OPEN; TABLE_READ and MMU_WRITE alike. A TABLE_LOAD that may not write the live view completes as STAGED_ONLY, one into a chamber that is not OPEN as BAD_ENTRY. -/
def Obligations.TransfersStartFromTheirEntries : Prop :=
  (∀ (s : State) (n : Fin 16) (f : Flight), s.starts n f → f.e.op = 0x10 → f.done = 0 → (f.e.sub.getLsbD 0 = true ∨ s.indexRoom = true) →
    (∀ b ∈ f.e.blocks, s.blkUp b = true) → Next (.quireLoad n) s fun t => Stands t f .running ∧
      t.hif.xfers = insertXfer ⟨f.id, s.ringClass n, .quire, f.e.num 1, f.e.num 0, f.e.num 2, 0, false, s.hif.nextStart⟩ false s.hif.xfers) ∧
  (∀ (s : State) (n : Fin 16) (f : Flight), s.starts n f → f.e.op = 0x20 → f.done = 0 → f.e.num 2 ≠ 0 →
    (∀ b ∈ f.e.blocks, s.blkUp b = true) →
    (if f.e.num 3 = 0 then s.liveOpen f.e.sub.toNat = true else s.viewOpen (f.e.num 3) = true) → Next (.tableLoad n) s fun t =>
      Stands t f .running ∧
      t.hif.xfers = insertXfer ⟨f.id, s.ringClass n, .table f.e.sub (Fin.ofNat 5 (f.e.num 3)), f.e.num 1, f.e.num 0, f.e.num 2, 0, false,
        s.hif.nextStart⟩ false s.hif.xfers) ∧
  (∀ (s : State) (n : Fin 16) (f : Flight), s.starts n f → f.e.op = 0x20 → (∀ b ∈ f.e.blocks, s.blkUp b = true) →
    (if f.e.num 3 = 0 then s.liveOpen f.e.sub.toNat = false else s.viewOpen (f.e.num 3) = false) → Next (.tableLoad n) s fun t =>
      Completes s t f (if f.e.num 3 = 0 then stStagedOnly else stBadEntry) 0) ∧
  (∀ (s : State) (n : Fin 16) (f : Flight), s.starts n f → f.e.op = 0x21 → f.done = 0 → f.e.num 2 ≠ 0 →
    (∀ b ∈ f.e.blocks, s.blkUp b = true) → Next (.tableRead n) s fun t => Stands t f .running ∧
      t.hif.xfers = insertXfer ⟨f.id, s.ringClass n,
        .tableRead f.e.sub (if f.e.num 3 % 2 = 0 then 0 else Fin.ofNat 5 (f.e.num 3 / 2 + 1)), f.e.num 1, f.e.num 0, f.e.num 2, 0, false,
        s.hif.nextStart⟩ false s.hif.xfers) ∧
  (∀ (s : State) (n : Fin 16) (f : Flight), s.starts n f → f.e.op = 0x30 → f.done = 0 →
    (∀ b ∈ f.e.blocks, s.blkUp b = true) → Next (.mmuWrite n) s fun t => Stands t f .running ∧
      t.hif.xfers = insertXfer ⟨f.id, s.ringClass n, .pte, f.e.num 1, f.e.num 0, f.e.num 2, 0, false, s.hif.nextStart⟩ false s.hif.xfers)

/-- For each of QUIRE_LOAD with REPLACE, TABLE_LOAD, TABLE_READ, MMU_WRITE, MMU_INVALIDATE, COPY, COMPRESS and COUNTER_READ: when the next entry of the ring carries the command and a block it is aimed at is in reset, the entry completes as BLOCK_RESET with result 0, and DRAM, tables, translations, copier, codec and chambers are as before. Where a clause rests on a reading of the model's own, log entry 89 says so. -/
def Obligations.EntriesIntoResetAreRefused : Prop :=
  ∀ (s : State) (n : Fin 16) (f : Flight) (c : Instr), s.starts n f → (f.e.blocks.any fun b => !s.blkUp b) = true →
    (c = .quireLoad n ∧ f.e.op = 0x10 ∧ f.e.sub.getLsbD 0 = true ∨ c = .tableLoad n ∧ f.e.op = 0x20 ∨ c = .tableRead n ∧ f.e.op = 0x21 ∨
      c = .mmuWrite n ∧ f.e.op = 0x30 ∨ c = .mmuInvalidate n ∧ f.e.op = 0x31 ∨ c = .copy n ∧ f.e.op = 0x40 ∨
      c = .compress n ∧ f.e.op = 0x48 ∨ c = .counterRead n ∧ f.e.op = 0x78) →
    Next c s fun t => Completes s t f stBlockReset 0 ∧ t.dram = s.dram ∧ t.tables = s.tables ∧ t.mmu = s.mmu ∧ t.cpy = s.cpy ∧
      t.qdc = s.qdc ∧ t.lck = s.lck

/-- The piece ends at the next 4096-byte boundary of the device side (of a COMPRESS input: of the host side) or with the transfer. For MMU_WRITE and TABLE_LOAD it carries the device-side address, for QUIRE_LOAD the translated address, and the host is asked for its bytes in requests of at most Max_Read_Request_Size that lie within them; for TABLE_READ the bytes of the table's view go to the host, with Relaxed Ordering as Device Control enables. Of COMPRESS, output that is ready goes to the host first; with none ready, input is asked for from the host or read from job space into the engine. A page of a QUIRE_LOAD that does not translate fills the fault slot of the ring with VALID, KIND, LEVEL, WRITE, opcode and page; while MMU_CFG.ENABLE is 0 that is KIND 6, LEVEL 0. Where a clause rests on a reading of the model's own, log entry 149 says so. -/
def Obligations.MoverIssuesPieces : Prop :=
  (∀ (s : State) (x : Xfer), s.blkUp .hif = true → s.hif.pieces.length < 8 → s.nextXfer = some x →
    (x.kind = .pte ∨ ∃ tb v, x.kind = .table tb v) → Next .dataMoverPieceIssue s fun t =>
      t.hif.pieces = s.hif.pieces ++ [{ id := x.id, dev := x.dev, host := x.host, len := min x.left (4096 - x.dev % 4096) }] ∧
      ∀ o ∈ readRequests s.maxRead (min x.left (4096 - x.dev % 4096) + 1) x.host (min x.left (4096 - x.dev % 4096)), Sent s t o) ∧
  (∀ (most fuel a len : Nat) (o : Out), o ∈ readRequests most fuel a len → ∃ b n, o = .hostRead b n ∧ n ≤ most ∧ a ≤ b ∧ b + n ≤ a + len) ∧
  (∀ (s : State) (x : Xfer) (tb : BitVec 16) (v : Fin 5), s.blkUp .hif = true → s.hif.pieces.length < 8 → s.nextXfer = some x →
    x.kind = .tableRead tb v → Next .dataMoverPieceIssue s fun t =>
      t.hif.pieces = s.hif.pieces ++ [{ id := x.id, dev := x.dev, host := x.host, len := min x.left (4096 - x.dev % 4096) }] ∧
      Sent s t (.hostWrite x.host (readRange (s.viewByte v.val) (tableKey tb.toNat x.dev) (min x.left (4096 - x.dev % 4096))) s.relaxed)) ∧
  (∀ (s u : State) (x : Xfer) (ph : Nat), s.blkUp .hif = true → s.hif.pieces.length < 8 → s.nextXfer = some x →
    x.kind = .quire → s.translate 6 x.dev true = (.ok ph, u) → Next .dataMoverPieceIssue s fun t =>
      t.hif.pieces = s.hif.pieces ++ [{ id := x.id, dev := ph, host := x.host, len := min x.left (4096 - x.dev % 4096), job := some x.dev }] ∧
      ∀ o ∈ readRequests s.maxRead (min x.left (4096 - x.dev % 4096) + 1) x.host (min x.left (4096 - x.dev % 4096)), Sent s t o) ∧
  (∀ (s u : State) (x : Xfer) (f : Flight) (k l : Nat), s.blkUp .hif = true → s.hif.pieces.length < 8 → s.nextXfer = some x →
    x.kind = .quire → s.flight? x.id = some f → s.translate 6 x.dev true = (.fault k l, u) → Next .dataMoverPieceIssue s fun t =>
      t.mmu.flt[f.ring.castLE (by decide : 16 ≤ 17)] =
        { valid := true, kind := BitVec.ofNat 3 k, level := BitVec.ofNat 2 l, write := true, opcode := f.e.op, page := x.dev / 4096 }) ∧
  (∀ (s : State) (x : Xfer) (k : Fin 4) (c : CompJob), s.blkUp .hif = true → s.hif.pieces.length < 8 → s.nextXfer = some x →
    x.kind = .compress → s.compJob x.id = some (k, c) → c.req.srcAt = .host → c.req.dstAt = .host → Next .dataMoverPieceIssue s fun t =>
      if c.due ≠ [] then
        t.qdc.comp[k] = some { c with sent := c.sent + min c.due.length (4096 - x.host % 4096) } ∧
        Sent s t (.hostWrite x.host (c.due.take (4096 - x.host % 4096)) s.relaxed)
      else
        t.hif.pieces = s.hif.pieces ++ [{ id := x.id, dev := x.dev - c.req.src, host := x.dev, len := min x.left (4096 - x.dev % 4096) }] ∧
        ∀ o ∈ readRequests s.maxRead (min x.left (4096 - x.dev % 4096) + 1) x.dev (min x.left (4096 - x.dev % 4096)), Sent s t o) ∧
  (∀ (s u : State) (x : Xfer) (k : Fin 4) (c : CompJob) (ph : Nat), s.blkUp .hif = true → s.hif.pieces.length < 8 → s.nextXfer = some x →
    x.kind = .compress → s.compJob x.id = some (k, c) → c.due = [] → c.req.srcAt = .job → s.translate 6 x.dev false = (.ok ph, u) →
    Next .dataMoverPieceIssue s fun t =>
      t.qdc.comp[k] = some { c with input := c.input ++ s.dramGet ph (min x.left (4096 - x.dev % 4096)) } ∧ t.hif.pieces = s.hif.pieces) ∧
  (∀ (s : State) (job : Nat) (w : Bool), s.regBit 0x50000 0 = false → s.translate 6 job w = (.fault 6 0, s))

/-- With more of the transfer to come, a piece leaves the outstanding ones, the transfer's bytes done grow by its length, and its bytes stand in DRAM through port HF (job store, page tables) or in the live table. The last piece of an MMU_WRITE or TABLE_READ completes the entry as OK with the bytes done. A failed host read of an input piece completes the entry as HOST_READ_ERR with the bytes done before it, and nothing of the transfer is left. (No MMU_INVALIDATE waits in these two.) A waiting direct load of the channel table completes once every upload that it waits for is VALID. Where a clause rests on a reading of the model's own, log entries 25, 53, 163 say so. -/
def Obligations.PiecesLandAndTransfersEnd : Prop :=
  (∀ (s : State) (k : Nat) (p : Piece) (x : Xfer) (bs : List Byte), s.hif.pieces[k]? = some p → p.out = false → bs.length = p.len →
    s.hif.xfers.find? (fun y => decide (y.id = p.id)) = some x → x.faulted = false → x.left ≠ 0 →
    Next (.dataMoverPieceDone k bs) s fun t =>
      t.hif.pieces = s.hif.pieces.eraseIdx k ∧
      t.hif.xfers = s.hif.xfers.map (fun y => if y.id = p.id then { y with done := y.done + p.len } else y) ∧
      (x.kind = .quire ∨ x.kind = .pte → t.dram = (s.dramPut 6 p.dev bs).dram) ∧
      (∀ tb, x.kind = .table tb 0 → t.tables = writeRange (some 0) s.tables (tableKey tb.toNat p.dev) bs ∧ t.dram = s.dram)) ∧
  (∀ (s : State) (k : Nat) (p : Piece) (x : Xfer) (f : Flight) (bs : List Byte), s.numbered → s.hif.pieces[k]? = some p → p.out = false →
    bs.length = p.len → s.hif.xfers.find? (fun y => decide (y.id = p.id)) = some x → x.faulted = false → x.left = 0 →
    (∀ q ∈ s.hif.pieces.eraseIdx k, q.id ≠ p.id) → s.flight? p.id = some f → (x.kind = .pte ∨ ∃ tb v, x.kind = .tableRead tb v) →
    (∀ g ∈ s.hif.flights, g.e.op = 0x31 → g.phase ≠ .waiting) →
    Next (.dataMoverPieceDone k bs) s fun t => Completes s t f stOk (x.done + p.len) ∧ (∀ y ∈ t.hif.xfers, y.id ≠ f.id)) ∧
  (∀ (s : State) (k : Nat) (p : Piece) (x : Xfer) (f : Flight), s.numbered → s.hif.pieces[k]? = some p → p.out = false →
    s.hif.xfers.find? (fun y => decide (y.id = p.id)) = some x → (∀ tb v, x.kind ≠ .tableRead tb v) → s.flight? p.id = some f →
    (∀ g ∈ s.hif.flights, g.e.op = 0x31 → g.phase ≠ .waiting) →
    Next (.hostReadError k) s fun t => Completes s t f stHostReadErr x.done ∧ (∀ y ∈ t.hif.xfers, y.id ≠ f.id) ∧
      (∀ q ∈ t.hif.pieces, q.id ≠ f.id)) ∧
  (∀ (s : State) (f : Flight), s.numbered → f ∈ s.hif.flights → f.e.op = 0x20 → f.phase = .waiting →
    (∀ g ∈ s.hif.flights, g.e.op = 0x20 → g.phase = .waiting → g = f) →
    (∀ l ∈ s.plk.link.toList, ∀ u ∈ l.uploads, u.who = .table f.id → u.valid = true) →
    Next .tableLoadChannelDone s fun t => Completes s t f stOk f.done)

/-- When MMU_INVALIDATE starts, no cached entry that overlaps the range from A0, A1 bytes, is left (none at all for A1 = 0), and every other cached entry stays. While a piece that was translated in the range is outstanding it waits; with none, it completes as OK. A write of MMU_CFG.ENABLE that reaches the register is held, and ENABLE = 0 empties the translation cache; a write of ENABLE = 1 is ignored while the root page does not lie in the page-table region. Where a clause rests on a reading of the model's own, log entries 54, 55, 152 say so. -/
def Obligations.TranslationsAreInvalidated : Prop :=
  (∀ (s : State) (n : Fin 16) (f : Flight), s.starts n f → f.e.op = 0x31 → s.blkUp .mmu = true → Next (.mmuInvalidate n) s fun t =>
    (∀ c : PteCache, c ∈ t.mmu.cache ↔ c ∈ s.mmu.cache ∧ f.e.num 1 ≠ 0 ∧ c.overlaps (f.e.num 0) (f.e.num 1) = false) ∧
    ((∃ p ∈ s.hif.pieces, p.within (f.e.num 0) (f.e.num 1) = true) → Stands t f .waiting) ∧
    ((∀ p ∈ s.hif.pieces, p.within (f.e.num 0) (f.e.num 1) = false ∧ f.id ∉ p.holds) →
      (∀ g ∈ s.hif.flights, g.e.op = 0x31 → g.phase ≠ .waiting) → Completes s t f stOk 0)) ∧
  (∀ (s : State) (on : Bool), s.takesWrite 0x50000 → (on = true → s.inPt s.ptRoot 8192 = true) → Next (.mmuEnableWrite on) s fun t =>
    t.regBit 0x50000 0 = on ∧ t.mmu.cache = if on then s.mmu.cache else []) ∧
  (∀ s : State, s.takesWrite 0x50000 → s.inPt s.ptRoot 8192 = false → exec (.mmuEnableWrite true) s = .next s)

/-- With fewer than 16 requests queued a COPY that passes the tests of R121 joins the queue and completes as OK, one that fails them completes with the failing test's status; with 16 queued it waits and is admitted later, oldest first. The idle copier takes the oldest request. A copy that ends well has stored the beats it had still to write, those read ahead and the source bytes behind them, at their place in DRAM, and CPY_DONE counts one more. One that fails, at the first beat that its cause allows, has the beats before it in DRAM (the rest of the destination is free), or leaves DRAM, tables and staged units as they were where a chamber left OPEN, and sets CPY_ERR with its cause and the beat's source address. Where a clause rests on a reading of the model's own, log entries 52, 138, 139, 163 say so. -/
def Obligations.CopierTakesRunsAndEnds : Prop :=
  (∀ (s : State) (n : Fin 16) (f : Flight), s.starts n f → f.e.op = 0x40 → s.blkUp .cpy = true → s.cpy.queue.length < 16 →
    Next (.copy n) s fun t => match s.copyCheck f.e.copyReq with
      | none => t.cpy.queue = s.cpy.queue ++ [f.e.copyReq] ∧ Completes s t f stOk 0
      | some st => t.cpy = s.cpy ∧ Completes s t f st 0) ∧
  (∀ (s : State) (n : Fin 16) (f : Flight), s.starts n f → f.e.op = 0x40 → s.blkUp .cpy = true → 16 ≤ s.cpy.queue.length →
    Next (.copy n) s fun t => t.cpy = s.cpy ∧ Stands t f .waiting) ∧
  (∀ (s : State) (f : Flight), s.numbered → s.cpy.queue.length < 16 →
    s.hif.flights.find? (fun g => decide (g.e.op = 0x40 ∧ g.phase = .waiting)) = some f → s.copyCheck f.e.copyReq = none →
    Next .copyQueueAdmit s fun t => t.cpy.queue = s.cpy.queue ++ [f.e.copyReq] ∧ Completes s t f stOk 0) ∧
  (∀ (s : State) (r : CopyReq) (rest : List CopyReq), s.cpy.run = none → s.cpy.queue = r :: rest → s.blkUp .cpy = true → s.clkRuns 4 = true →
    (∀ b ∈ s.rangeBlk r.src r.len ++ s.rangeBlk r.dst r.len, s.blkUp b = true) →
    exec .copyStart s = .next { s with cpy := { s.cpy with run := some ⟨r, 0, [], false⟩, queue := rest } }) ∧
  (∀ (s : State) (c : CopyRun) (b : Nat) (bs : List Byte), s.cpy.run = some c → c.stuck = false → s.copyGood c.req = true →
    bs = c.ahead.flatten ++ s.copySource (c.req.src + c.readTo) (c.req.len - c.readTo) → bs ≠ [] →
    s.devRange (c.req.dst + 64 * c.moved) bs.length = some (.dram b) → Next .copyDone s fun t => t.cpy.run = none ∧ t.cpy.queue = s.cpy.queue ∧
      t.dram = (s.dramPut 7 b bs).dram ∧ t.reg cpyDoneReg = s.reg cpyDoneReg + 1) ∧
  (∀ (s : State) (c : CopyRun) (cause : CopyFault) (beat k : Nat) (good : List Byte), s.cpy.run = some c → k = c.failsAt cause beat →
    64 * k < c.req.len → s.copyFails c.req cause = true →
    good = (c.ahead.flatten ++ s.copySource (c.req.src + c.readTo) (64 * k - c.readTo)).take (64 * k - 64 * c.moved) →
    Next (.copyFail cause beat) s fun t =>
      t.cpy.run = none ∧ t.regBit cpyErrReg 0 = true ∧ t.regField cpyErrReg 1 3 = faultCode cause ∧
      t.reg cpyErrAddr = BitVec.ofNat 32 (c.req.src + 64 * k) ∧
      (cause = .chamberClosed → t.dram = s.dram ∧ t.tables = s.tables ∧ ∀ j : Fin 4, (t.lck.ch[j]).units = (s.lck.ch[j]).units) ∧
      (∀ b : Nat, cause ≠ .chamberClosed → s.devRange (c.req.dst + 64 * c.moved) (good.length + (c.req.len - 64 * k)) = some (.dram b) →
        ∃ tail : List Byte, tail.length = c.req.len - 64 * k ∧ t.dram = (s.dramPut 7 b (good ++ tail)).dram))

/-- An idle, enabled engine with its clocks running takes the first candidate of R159; of a plate repeat it begins a decode of its own. A decode whose stream is read out and whose output is taken or fits the output buffer ends with the engine idle and the quire VERIFIED, or BAD (a plate repeat BLANKED) with QDC_BAD counting one more, as the checks of R158 find; one whose output buffer is full goes on. At the replace deadline every BAD quire whose deadline has come is BLANKED, and no line counts as written from it. A quire whose last line is below RETIRED leaves the index. Where a clause rests on a reading of the model's own, log entries 21, 26, 61, 164, 178 say so. -/
def Obligations.QuiresAreDecodedReplacedAndRetired : Prop :=
  (∀ (s : State) (e : Fin 16) (c : DecodeCand) (id : Nat), s.qdcRuns = true → s.jobAnswers = true → s.regBit 0xA0004 e.val = true →
    s.qdc.dec[e] = none → firstCand (s.quireCands ++ s.plateCands) = some c → c.job = .inl id → Next (.decodeDispatch e) s fun t =>
      t.qdc.dec[e] = some (.quire id) ∧ ∀ q ∈ t.qdc.quires, q.id = id → q.state = .decoding) ∧
  (∀ (s : State) (e : Fin 16) (c : DecodeCand) (r : Repeat) (q : Quire), s.qdcRuns = true → s.jobAnswers = true →
    s.regBit 0xA0004 e.val = true → s.qdc.dec[e] = none → firstCand (s.quireCands ++ s.plateCands) = some c → c.job = .inr (r, q) →
    Next (.decodeDispatch e) s fun t => t.qdc.dec[e] = some (.plate s.qdc.nextId) ∧
      ∃ x : Quire, t.qdc.plates = s.qdc.plates ++ [⟨r.d, r.entry, r.origin, x⟩] ∧ x.id = s.qdc.nextId ∧ x.plane = q.plane ∧ x.state = .decoding) ∧
  (∀ (s : State) (e : Fin 16) (id : Nat) (q : Quire), s.qdcRuns = true → s.qdc.dec[e] = some (.quire id) → s.jobQuire (.quire id) = some q →
    q.readOut = true → s.decodeOver (.quire id) q = true → Next (.decodeEnd e) s fun t =>
      t.qdc.dec[e] = none ∧
      match decodeCause q.rawLen q.crc q.read (decide (q.read.length = q.compLen)) with
      | none => ∀ x ∈ t.qdc.quires, x.id = id → x.state = .verified
      | some cause => (∀ x ∈ t.qdc.quires, x.id = id → x.state = .bad) ∧ t.qdc.badCount = satInc s.qdc.badCount ∧
          t.qdc.badCause = BitVec.ofNat 3 cause ∧ t.qdc.badPlane = q.plane) ∧
  (∀ (s : State) (e : Fin 16) (id : Nat) (q : Quire), s.qdcRuns = true → s.qdc.dec[e] = some (.plate id) → s.jobQuire (.plate id) = some q →
    q.readOut = true → s.decodeOver (.plate id) q = true → Next (.decodeEnd e) s fun t =>
      t.qdc.dec[e] = none ∧
      match decodeCause q.rawLen q.crc q.read (decide (q.read.length = q.compLen)) with
      | none => ∀ x ∈ t.qdc.plates, x.quire.id = id → x.quire.state = .verified
      | some cause => (∀ x ∈ t.qdc.plates, x.quire.id = id → x.quire.state = .blanked) ∧ t.qdc.badCount = satInc s.qdc.badCount ∧
          t.qdc.badCause = BitVec.ofNat 3 cause ∧ t.qdc.badPlane = q.plane) ∧
  (∀ (s : State) (e : Fin 16) (j : EngineJob) (q : Quire), s.qdc.dec[e] = some j → s.jobQuire j = some q →
    q.readOut = true → s.decodeOver j q = false → exec (.decodeEnd e) s = .next s) ∧
  (∀ (s : State) (q : Quire), q ∈ s.qdc.quires → q.state = .bad → s.deadlinePassed q = true → Next .replaceDeadline s fun t =>
    (∀ x ∈ t.qdc.quires, x.id = q.id → x.state = .blanked) ∧ ∀ w ∈ t.scr.lines[q.plane], .quire q.id ∉ w.done) ∧
  (∀ s : State, s.blkUp .qdc = true → Next .quireRetire s fun t => ∀ q ∈ s.qdc.quires,
    (q.first + q.count ≤ s.fir.plane[q.plane].retired → ∀ x ∈ t.qdc.quires, x.id ≠ q.id) ∧
    ((∀ x ∈ s.qdc.quires, x.id = q.id → s.fir.plane[x.plane].retired < x.first + x.count) → q ∈ t.qdc.quires))

/-- A COMPRESS entry that starts waits behind the earlier requests. A free enabled engine takes the oldest request; its entry then runs, and its transfer joins the data mover's. Requests that running firmware has made for the camera archive wait behind them and are taken in their turn. A compression whose input has all come and whose output has all gone completes its entry as OK with the CRC-32C of the input and the output length, or, where the output is not shorter than the input or than the capacity, as NO_SPACE (capacity below the input's length) or NOT_SMALLER with length 0. A camera-archive compression that stays below both stores its output, as R166 makes it of the input, in device DRAM. Where a clause rests on a reading of the model's own, log entries 22, 153, 167 say so. -/
def Obligations.CompressionRunsInOrder : Prop :=
  (∀ (s : State) (n : Fin 16) (f : Flight), s.starts n f → f.e.op = 0x48 → (∀ b ∈ f.e.blocks, s.blkUp b = true) →
    Next (.compress n) s fun t => Stands t f .waiting ∧
      ∃ early : List CompReq, t.qdc.compQueue = s.qdc.compQueue ++ early ++ [f.compReq] ∧ (∀ x ∈ early, x.flight = none) ∧
        (s.blkUp .cores = false → early = [])) ∧
  (∀ (s : State) (r : CompReq) (rest : List CompReq) (f : Flight) (k : Fin 4), s.numbered → s.blkUp .qdc = true → s.clkRuns 4 = true →
    s.qdc.compQueue = r :: rest → r.flight = some f.id → s.flight? f.id = some f → s.freeComp = some k →
    Next .compressEngineStart s fun t => t.qdc.comp[k] = some ⟨r, [], [], 0⟩ ∧ (∀ x ∈ t.qdc.compQueue, x ∈ rest ∨ x.flight = none) ∧ Stands t f .running ∧
      t.hif.xfers = insertXfer ⟨f.id, s.ringClass f.ring, .compress, r.src, r.dst, r.len, 0, false, f.start⟩ false s.hif.xfers) ∧
  (∀ (s : State) (r : CompReq) (rest : List CompReq) (k : Fin 4), s.blkUp .qdc = true → s.clkRuns 4 = true →
    s.qdc.compQueue = r :: rest → r.flight = none → s.freeComp = some k →
    Next .compressEngineStart s fun t => t.qdc.comp[k] = some ⟨r, [], [], 0⟩ ∧ (∀ x ∈ t.qdc.compQueue, x ∈ rest ∨ x.flight = none) ∧ t.hif = s.hif) ∧
  (∀ s : State, s.blkUp .qdc = true → s.clkRuns 4 = true → s.blkUp .cores = true → s.freeComp = none →
    Next .compressEngineStart s fun t => t.qdc.comp = s.qdc.comp ∧ t.hif = s.hif ∧ (∀ x ∈ s.qdc.compQueue, x.flight = none → x ∈ t.qdc.compQueue) ∧
      ∀ a ∈ Config.archiveRequests s.draws, archiveReq a ∈ t.qdc.compQueue) ∧
  (∀ (s : State) (k : Fin 4) (c : CompJob) (f : Flight) (x : Xfer), s.numbered → s.qdc.comp[k] = some c → c.req.flight = some f.id →
    s.flight? f.id = some f → s.hif.xfers.find? (fun y => decide (y.id = f.id)) = some x → x.left = 0 → x.faulted = false →
    s.piecesOf f.id = false → c.due = [] → (∀ g ∈ s.hif.flights, g.e.op = 0x31 → g.phase ≠ .waiting) → Next (.compressEnd k) s fun t =>
      t.qdc.comp[k] = none ∧
      (c.output.length < c.req.len → c.output.length < c.req.cap →
        Completes s t f stOk ((crc32c c.input).toNat + c.output.length * 2 ^ 32) ∧ t.dram = s.dram) ∧
      (c.req.len ≤ c.output.length ∨ c.req.cap ≤ c.output.length →
        Completes s t f (if c.req.cap < c.req.len then stNoSpace else stNotSmaller) (crc32c c.input).toNat)) ∧
  (∀ (s : State) (k : Fin 4) (c : CompJob) (out : List Byte), s.qdc.comp[k] = some c → c.req.flight = none →
    out = deflated c.req.depth c.req.hash c.req.len (s.dramGet c.req.src c.req.len) →
    Next (.compressEnd k) s fun t => t.qdc.comp[k] = none ∧
      (out.length < c.req.len → out.length < c.req.cap → t.dram = (s.dramPut 4 c.req.dst out).dram))

/-- A write on a port that writes, within the capacity and on a channel without a fault: its bytes up to the end of the 64-byte unit stand in DRAM and no other byte changes; with fewer than 64 writes queued at its subchannel its number joins them. Where a protecting region does not admit the port, DRAM keeps every byte and the violation counts one more; on a faulty channel DRAM keeps every byte and an uncorrectable error counts one more. A read that DRAM serves, on a port without forwarding, takes the unit's bytes and waits for every queued write of the unit; one beyond the capacity or on a faulty channel gets its error at once. FILL writes 64 zeros at its next address and moves on. Where a clause rests on a reading of the model's own, log entries 7, 48 say so. -/
def Obligations.DramRequestsAreAccepted : Prop :=
  (∀ (s : State) (port : Fin 10) (a : DramAccess) (at_ : Nat), s.dmcServes = true → portDirects port true = true → a.write = true →
    a.bytes ≠ [] → s.unserved a.addr.toNat = false → s.rgnAdmits port a.addr.toNat = true → Next (.dramRequestArrive port a at_) s fun t =>
      t.dram = writeRange none s.dram a.addr.toNat (a.bytes.take (64 - a.addr.toNat % 64)) ∧
      ((s.dmc.sub[s.subOf a.addr.toNat]).writes.length < 64 → ((t.dmc.sub[s.subOf a.addr.toNat]).writes.map DramReq.seq) =
        (s.dmc.sub[s.subOf a.addr.toNat]).writes.map DramReq.seq ++ [s.dmc.nextSeq])) ∧
  (∀ (s : State) (port : Fin 10) (a : DramAccess) (at_ : Nat), s.dmcServes = true → portDirects port true = true → a.write = true →
    a.bytes ≠ [] → a.addr.toNat < s.capacity → s.rgnAdmits port a.addr.toNat = false → Next (.dramRequestArrive port a at_) s fun t =>
      t.dram = s.dram ∧ t.dmc.regv = true ∧ t.dmc.regvCount = satInc s.dmc.regvCount ∧ t.dmc.regvAddr = a.addr.toNat / 64 * 64) ∧
  (∀ (s : State) (port : Fin 10) (a : DramAccess) (at_ : Nat), s.dmcServes = true → portDirects port true = true → a.write = true →
    a.bytes ≠ [] → a.addr.toNat < s.capacity → s.unserved a.addr.toNat = true → s.rgnAdmits port a.addr.toNat = true →
    Next (.dramRequestArrive port a at_) s fun t =>
      t.dram = s.dram ∧ t.dmc.ue = true ∧ t.dmc.ueCount = satInc s.dmc.ueCount ∧ t.dmc.eccAddr = a.addr.toNat / 64 * 64) ∧
  (∀ (s : State) (port : Fin 10) (a : DramAccess) (at_ : Nat), s.dmcServes = true → portDirects port false = true → a.write = false →
    a.len ≠ 0 → portForwards port = false → s.unserved a.addr.toNat = false → Next (.dramRequestArrive port a at_) s fun t => t.dram = s.dram ∧
      ∃ r ∈ (t.dmc.sub[s.subOf a.addr.toNat]).reads, r.seq = s.dmc.nextSeq ∧ r.port = port ∧
        r.data = s.dramGet a.addr.toNat (min (64 - a.addr.toNat % 64) a.len) ∧ r.bad = s.unitBad a.addr.toNat ∧
        ∀ w ∈ (s.dmc.sub[s.subOf a.addr.toNat]).writes, w.unit = a.addr.toNat / 64 * 64 → w.seq ∈ r.waits) ∧
  (∀ (s : State) (port : Fin 10) (a : DramAccess) (at_ : Nat), s.dmcServes = true → portDirects port false = true → a.write = false →
    a.len ≠ 0 → s.unserved a.addr.toNat = true → Next (.dramRequestArrive port a at_) s fun t => t.dram = s.dram ∧
      t.dmc.ueCount = satInc s.dmc.ueCount ∧ ∃ bs, Sent s t (.dramData port s.dmc.nextSeq bs true)) ∧
  (∀ (s : State), s.takesWrite 0x80048 → s.dmcServes = true → s.dmc.fill = none → s.regField 0x80044 0 20 ≠ 0 → Next .fillStart s fun t =>
    t.dmc.fill = some (s.regField 0x80040 0 20 * 65536, s.regField 0x80044 0 20 * 65536)) ∧
  (∀ (s : State) (k : Fin 4) (a n : Nat), s.dmcServes = true → s.dmc.fill = some (a, n + 64) → a % 64 = 0 → s.unserved a = false →
    s.subOf a = k → (s.dmc.sub[k]).writes.length < 64 → Next (.fillUnitIssue k) s fun t =>
      t.dram = writeRange none s.dram a (List.replicate 64 0) ∧ t.dmc.fill = some (a + 64, n))

/-- Whatever the queues hold, the request that the scheduler picks is one of its candidates, no candidate has a lower tier, and it is a row hit or the oldest candidate of its tier; a picked write is the oldest write of its unit, and a picked read waits for no queued write. The pick of an open subchannel takes the request out of its queue (a read then awaits its data). A request that has waited longer than the age limit of its class on arrival is promoted, and the writes that a promoted read waits for move to tier 0 with it. Where a clause rests on a reading of the model's own, log entries 7, 158 say so. -/
def Obligations.SchedulerTakesTheLowestTier : Prop :=
  (∀ (q : Subchannel) (cap : Nat) (r : DramReq), q.pick cap = some r → r ∈ q.candidates ∧ (∀ x ∈ q.candidates, r.tier ≤ x.tier) ∧
    (q.rowHit r = true ∨ ∀ x ∈ q.candidates, x.tier = r.tier → r.seq ≤ x.seq)) ∧
  (∀ (q : Subchannel) (r : DramReq), r ∈ q.candidates → (r ∈ q.reads ∧ q.readFree r = true) ∨ (r ∈ q.writes ∧ q.oldestOfUnit r = true)) ∧
  (∀ (s : State) (k : Fin 4) (at_ : Nat) (r : DramReq), (s.advance at_).subOpen k = true →
    (s.dmc.sub[k]).pick (max 1 (s.regField 0x80010 24 5)) = some r → Next (.dramSchedulePick k at_) s fun t =>
      t.dram = s.dram ∧
      if r.write = true then ∀ w ∈ (t.dmc.sub[k]).writes, w.seq ≠ r.seq
      else (∀ x ∈ (t.dmc.sub[k]).reads, x.seq ≠ r.seq) ∧ r ∈ (t.dmc.sub[k]).issued) ∧
  (∀ (s : State) (k : Fin 4) (at_ : Nat) (r : DramReq), s.now ≤ at_ → r ∈ (s.dmc.sub[k]).reads → r.promoted = false → 0 < r.limit →
    r.at_ + 200 * r.limit < at_ → Next (.dramAgePromotion k at_) s fun t => { r with promoted := true } ∈ (t.dmc.sub[k]).reads ∧
      ∀ w ∈ (s.dmc.sub[k]).writes, w.seq ∈ r.waits → ∃ x ∈ (t.dmc.sub[k]).writes, x.seq = w.seq ∧ x.tier = 0) ∧
  (∀ (s : State) (k : Fin 4) (at_ : Nat) (r : DramReq), s.now ≤ at_ → r ∈ (s.dmc.sub[k]).writes → r.promoted = false → 0 < r.limit →
    r.at_ + 200 * r.limit < at_ → Next (.dramAgePromotion k at_) s fun t => ∃ x ∈ (t.dmc.sub[k]).writes, x.seq = r.seq ∧ x.tier = 0)

/-- The data of an issued read goes to its port. A corrected error counts one more. An uncorrectable one counts one more, its unit stays bad (unless a write accepted since has covered the whole unit), and ports RF and GR get zeros. The scrubber's read of the next unit does the same, and changes no byte. A unit written whole is readable again unless its channel is faulty. After three replays ALERT_N makes the channel faulty, and each of its units unreadable. Where a clause rests on a reading of the model's own, log entry 18 says so. -/
def Obligations.ReadsReturnWithTheirCheck : Prop :=
  (∀ (s : State) (k : Fin 4) (n : Nat) (r : DramReq), (s.dmc.sub[k]).issued.find? (fun x => decide (x.seq = n)) = some r → r.bad = false → s.unserved r.addr = false →
    Next (.dramReadReturn k n .clean) s fun t => Sent s t (.dramData r.port r.seq r.data false) ∧ t.dmc.ueCount = s.dmc.ueCount ∧
      t.dmc.ceCount = s.dmc.ceCount ∧ ∀ x ∈ (t.dmc.sub[k]).issued, x.seq ≠ r.seq) ∧
  (∀ (s : State) (k : Fin 4) (n : Nat) (r : DramReq), (s.dmc.sub[k]).issued.find? (fun x => decide (x.seq = n)) = some r → r.bad = false → s.unserved r.addr = false →
    Next (.dramReadReturn k n .corrected) s fun t => Sent s t (.dramData r.port r.seq r.data false) ∧ t.dmc.ce = true ∧
      t.dmc.ceCount = satInc s.dmc.ceCount) ∧
  (∀ (s : State) (k : Fin 4) (n : Nat) (r : DramReq), (s.dmc.sub[k]).issued.find? (fun x => decide (x.seq = n)) = some r → s.unserved r.addr = false →
    Next (.dramReadReturn k n .uncorrectable) s fun t => (r.covered = false → r.unit ∈ t.dmc.badUnits) ∧
      (r.covered = true → t.dmc.badUnits = s.dmc.badUnits) ∧ t.dmc.ue = true ∧ t.dmc.ueCount = satInc s.dmc.ueCount ∧
      Sent s t (.dramData r.port r.seq (if r.port.val ≤ 1 then List.replicate r.len 0 else r.data) true)) ∧
  (∀ (s : State) (c : Fin 2) (u : Nat), s.dmcServes = true → s.regBit 0x80020 0 = true → s.dmc.scrubHeld = false → s.nextScrub c = some u →
    Next (.scrubUnitRead c .uncorrectable) s fun t => (s.unitBad u = false → u ∈ t.dmc.badUnits) ∧ t.dmc.ueCount = satInc s.dmc.ueCount ∧ t.dram = s.dram) ∧
  (∀ (s : State) (c : Fin 2) (u : Nat), s.dmcServes = true → s.regBit 0x80020 0 = true → s.dmc.scrubHeld = false → s.nextScrub c = some u →
    s.unitBad u = false → Next (.scrubUnitRead c .corrected) s fun t => t.dmc.ceCount = satInc s.dmc.ceCount ∧ t.dmc.ueCount = s.dmc.ueCount ∧ ∀ a, t.dramByte a = s.dramByte a) ∧
  (∀ (s : State) (port : Fin 10) (u : Nat) (bs : List Byte), u % 64 = 0 → bs.length = 64 → s.blkUp .dmc = true →
    s.rgnAdmits port u = true → s.unserved u = false → (s.dramPutUnit port u bs).unitBad u = false) ∧
  (∀ (s : State) (c : Fin 2), s.dmcServes = true → s.dmc.chUp[c] = true → Next (.caParityAlert c) s fun t =>
    t.dmc.chFault[c] = true ∧ ∀ a, channelOf (t.subOf a) = c → t.unitBad a = true)

/-- A refresh goes out and closes the subchannel for its refresh time. The MR4 value read from a rank is held for it. DMC_RETRAIN.NOW with ENABLE 1 starts a retrain of a channel that is up and not faulty, and counts one more, where none runs. A step of a running retrain at the subchannel whose rank it is at, at least 50 µs after the one before, closes the subchannel for 500 ns; the last step of a rank goes on to the next rank, and that of the last rank ends the channel's retrain. Where a clause rests on a reading of the model's own, log entries 16, 57, 58, 159, 160, 161, 177 say so. -/
def Obligations.DramIsRefreshedAndRetrained : Prop :=
  (∀ (s : State) (k : Fin 4) (at_ d : Nat), s.now ≤ at_ → s.dmcServes = true → s.dmc.chUp[channelOf k] = true →
    Next (.refreshDue k at_ d) s fun t => Sent s t (.refresh k) ∧ at_ + d ≤ (t.dmc.sub[k]).closedUntil ∧ (d ≠ 0 → t.subOpen k = false)) ∧
  (∀ (s : State) (c r : Fin 2) (v : BitVec 3), s.dmcServes = true → s.dmc.chUp[c] = true → Next (.mr4Poll c r v) s fun t =>
    t.dmc.mr4[(⟨2 * c.val + r.val, by omega⟩ : Fin 4)] = v) ∧
  (∀ (s : State) (c : Fin 2), s.takesWrite 0x80018 → s.regBit 0x80018 0 = true → s.dmcServes = true → s.dmc.retrain = Vector.replicate 2 false → s.dmc.chUp[c] = true →
    s.dmc.chFault[c] = false → Next .dmcRetrainNow s fun t => t.dmc.retrain[c] = true ∧ t.dmc.retrainCount = satInc s.dmc.retrainCount) ∧
  (∀ (s : State) (k : Fin 4) (at_ : Nat) (last : Bool), s.now ≤ at_ → s.dmcServes = true → s.dmc.retrain[channelOf k] = true → k = s.retrainSub (channelOf k) →
    (∀ x ∈ (s.dmc.sub[k]).lastStep, x + 100000 ≤ at_) → Next (.retrainStep k at_ last) s fun t =>
      at_ + 1000 ≤ (t.dmc.sub[k]).closedUntil ∧ (t.dmc.sub[k]).lastStep = some at_ ∧ t.dmc.retrain[channelOf k] = (!last || decide (s.dmc.retrainAt[channelOf k] + 1 < 2 * s.ranks)))

/-- With PMC out of reset: FREEZE is held, and a frozen counter counts nothing; before a freeze, a snapshot or a counter write, counters of code 0x53 take the CORE_CLK cycles (1 ns) for which THROTTLE has been in force and those of codes 0x70 to 0x73 a free number, others nothing; a SNAP request and a COUNTER_READ wait in order; the next request served copies every counter with its OVF bit to the snapshot, and for a COUNTER_READ writes the selected ones to host memory and completes it as OK with their number; a window close gives counters of code 0x60 the window's bytes and those of code 0x61 its length, and leaves counters of other codes than 0x62 alone; a counter write holds the high half or stores the counter; a PMC_WIN write restarts the window. Where a clause rests on a reading of the model's own, log entries 24, 97, 128, 179 say so. -/
def Obligations.CountersSnapshotAndWindow : Prop :=
  (∀ (s : State) (n : Fin 16) (f : Flight), s.starts n f → f.e.op = 0x78 → s.blkUp .pmc = true → Next (.counterRead n) s fun t =>
    t.pmc.requests = s.pmc.requests ++ [some f.id] ∧ Stands t f .running) ∧
  (∀ (s : State) (on : Bool), s.blkUp .pmc = true → Next (.pmcFreezeWrite on) s fun t => t = { s.carryCounts with pmc := { s.carryCounts.pmc with freeze := on } } ∧
    (on = true → ∀ code n i, t.countEvent code n i = t)) ∧
  (∀ s : State, s.blkUp .pmc = true → exec .pmcSnapWrite s = .next { s with pmc := { s.pmc with requests := s.pmc.requests ++ [none] } }) ∧
  (∀ (s : State) (rest : List (Option Nat)), s.blkUp .pmc = true → s.pmc.requests = none :: rest → Next .pmcSnapshot s fun t =>
    t.pmc.requests = rest ∧ ∀ k : Fin 64, t.pmc.snap[k].toNat = s.carryCounts.pmc.cnt[k].toNat + if s.carryCounts.pmc.ovf.getLsbD k then 2 ^ 48 else 0) ∧
  (∀ (s : State) (f : Flight) (rest : List (Option Nat)), s.numbered → s.blkUp .pmc = true → s.pmc.requests = some f.id :: rest →
    f ∈ s.hif.flights → Next .pmcSnapshot s fun t => t.pmc.requests = rest ∧ t.pmc.snap = s.carryCounts.takeSnapshot.pmc.snap ∧
      Sent s t (.hostWrite (f.e.num 0) (s.carryCounts.takeSnapshot.snapBytes (f.e.num 1)) s.relaxed) ∧
      Completes s t f stOk ((s.carryCounts.takeSnapshot.snapBytes (f.e.num 1)).length / 8)) ∧
  (∀ (s : State) (k : Fin 64), s.blkUp .pmc = true → s.pmc.freeze = false → Next .pmcWindowClose s fun t =>
    t.pmc.winBytes = Vector.replicate 64 0 ∧
    (bitsOf s.pmc.ev[k].toNat 0 8 = 0x60 → t.pmc.cnt[k] = BitVec.ofNat 48 s.pmc.winBytes[k]) ∧
    (bitsOf s.pmc.ev[k].toNat 0 8 = 0x61 → t.pmc.cnt[k] = BitVec.ofNat 48 s.winNs) ∧
    (bitsOf s.pmc.ev[k].toNat 0 8 < 0x60 ∨ 0x62 < bitsOf s.pmc.ev[k].toNat 0 8 → t.pmc.cnt[k] = s.pmc.cnt[k])) ∧
  (∀ (s : State) (k : Fin 64) (v : Word), s.blkUp .pmc = true → exec (.pmcCounterWrite k true v) s = .next { s with pmc := { s.pmc with hi := s.pmc.hi.set k (v.setWidth 16) } }) ∧
  (∀ (s : State) (k : Fin 64) (v : Word), s.blkUp .pmc = true → Next (.pmcCounterWrite k false v) s fun t =>
    t.pmc.cnt[k] = s.pmc.hi[k] ++ v ∧ t.pmc.ovf = s.carryCounts.pmc.ovf ∧ ∀ j, j ≠ k → t.pmc.cnt[j] = s.carryCounts.pmc.cnt[j]) ∧
  (∀ (s : State) (k : Fin 64), s.blkUp .pmc = true → let c := bitsOf s.pmc.ev[k].toNat 0 8
    (s.pmc.freeze = true → s.carryCounts = s) ∧
    (c ≠ 0x53 → (c < 0x70 ∨ 0x73 < c) → s.carryCounts.pmc.cnt[k] = s.pmc.cnt[k] ∧ s.carryCounts.pmc.ovf.getLsbD k = s.pmc.ovf.getLsbD k) ∧
    (s.pmc.freeze = false → c = 0x53 → s.carryCounts.pmc.cnt[k] = s.pmc.cnt[k] + BitVec.ofNat 48 (s.pmc.throttled / 2))) ∧
  (∀ (s : State) (d : Nat), s.thm.level = .throttle → s.clkRuns 4 = true → s.blkUp .pmc = true → s.pmc.freeze = false →
    (s.advance (s.now + d)).pmc.throttled = s.pmc.throttled + d) ∧
  (∀ (s : State) (ns : BitVec 30), s.blkUp .pmc = true → exec (.pmcWinWrite ns) s = .next { s with pmc := { s.pmc with win := ns, winBytes := Vector.replicate 64 0 } })

/-- With THM out of reset, a conversion short of SHUTDOWN updates the sensors, T is the highest reading of the sensors not in FAULT, and the level leaves NORMAL for WARN or THROTTLE where T reaches W or P, and leaves WARN and THROTTLE (without a rate hold) as far as W - h and P - h say. One good reading of 118 degrees or more, or the tenth conversion in a row with every sensor in FAULT, latches the thermal shutdown source, as does sensor 3 in sleep. A history entry keeps the newest 9 means, and a rate above the limit counts one more and starts a hold in THROTTLE where RATE_EN is 1. A threshold write empties the history; PEAK clears to T. Where a clause rests on a reading of the model's own, log entries 66, 67 say so. -/
def Obligations.ThermalLevelsFollowTheSensors : Prop :=
  (∀ (s : State) (v : Vector (Option Int) 12) (x : Int) (i : Fin 12), s.blkUp .thm = true → s.shutdownNow v = false →
    hottest (Vector.ofFn fun j : Fin 12 => (s.thm.sensor[j]).convert v[j]) = some (x, i) → Next (.sensorConversion v) s fun t =>
      t.thm.sensor = (Vector.ofFn fun j : Fin 12 => (s.thm.sensor[j]).convert v[j]) ∧ t.thm.max = x ∧ t.thm.maxSensor = i ∧
      (s.thm.level = .normal → t.thm.level = if s.throttleT ≤ x then .throttle else if s.warnT ≤ x then .warn else .normal) ∧
      (s.thm.level = .warn → t.thm.level = if s.throttleT ≤ x then .throttle else if x ≤ s.warnT - s.hystT then .normal else .warn) ∧
      (s.thm.level = .throttle → s.thm.hold = none → t.thm.level =
        if x ≤ s.warnT - s.hystT then .normal else if x ≤ s.throttleT - s.hystT then .warn else .throttle) ∧
      (s.thm.level = .throttle → s.thm.hold ≠ none → t.thm.level = .throttle) ∧
      t.dmc.scrubHeld = (if t.thm.level = s.thm.level then s.dmc.scrubHeld else decide (t.thm.level = .throttle))) ∧
  (∀ (s : State) (v : Vector (Option Int) 12), s.blkUp .thm = true → s.shutdownNow v = true → Next (.sensorConversion v) s fun t =>
    t.rst.therm = true ∧ t.rst.cause.getLsbD 4 = true ∧ t.rst.mgmt ≠ .up ∧ t.rst.data ≠ .up ∧ t.rst.ctrl ≠ .up) ∧
  (∀ (s : State) (x : Int), s.rst.asleep = true → 1888 ≤ x → x ≤ 2400 → Next (.sleepSensorSample (some x)) s fun t =>
    t.rst.therm = true ∧ t.rst.cause.getLsbD 4 = true) ∧
  (∀ s : State, s.blkUp .thm = true → Next .thermalHistoryEntry s fun t =>
    t.thm.history = (s.thm.mean :: s.thm.history).take 9 ∧ t.thm.sum = 0 ∧ t.thm.samples = 0 ∧
    (rateExceeds ((s.thm.mean :: s.thm.history).take 9) s.rateLimit = true → t.thm.nRate = satInc s.thm.nRate ∧
      (s.regBit 0x30004 20 = true → t.thm.hold ≠ none ∧ (s.thm.hold = none → t.thm.level = .throttle)))) ∧
  (∀ (s : State) (rate : Bool) (v : Word), s.takesWrite (if rate then 0x30008 else 0x30004) → Next (.thmCfgWrite rate v) s fun t =>
    t.thm.history = [] ∧ (rate = true → t.regField 0x30008 0 12 = bitsOf v.toNat 0 12) ∧
    (rate = false → t.regField 0x30004 0 8 = bitsOf v.toNat 0 8 ∧ t.regField 0x30004 8 8 = bitsOf v.toNat 8 8 ∧
      t.regField 0x30004 16 4 = bitsOf v.toNat 16 4 ∧ t.regBit 0x30004 20 = v.getLsbD 20)) ∧
  (∀ s : State, s.takesWrite 0x30010 → Next .thmPeakClear s fun t => t.thm.peak = some s.thm.max ∧ t.thm.peakSensor = s.thm.maxSensor)

/-- The CRC of no bytes is 0; appending a byte takes the inverted CRC through the byte's eight bits, least significant first, each a shift right with 0x82F63B78 where a 1 is shifted out, and inverts; the CRC of the nine ASCII bytes 123456789 is 0xE3069283; PAYLOAD_CRC and HDR_CRC are read from their four bytes little-endian. -/
def Obligations.CrcIsTheReflectedCastagnoli : Prop :=
  crc32c [] = 0 ∧
  (∀ (bs : List Byte) (b : Byte), crc32c (bs ++ [b]) =
    ~~~((List.range 8).foldl (fun (c : BitVec 32) _ => (c >>> 1) ^^^ (if c.getLsbD 0 then 0x82F63B78 else 0)) (~~~(crc32c bs) ^^^ b.setWidth 32))) ∧
  crc32c [0x31, 0x32, 0x33, 0x34, 0x35, 0x36, 0x37, 0x38, 0x39] = 0xE3069283 ∧
  (∀ (bs : List Byte) (c d : BitVec 32), ((bs.drop 28).take 4 = leBytes 4 c.toNat → (parseHeader bs).crc = c) ∧
    ((bs.drop 60).take 4 = leBytes 4 d.toNat → ((parseHeader bs).crcOk = true ↔ crc32c (bs.take 60) = d)))

/-- The corrected tone is min(4,095, floor((curve x (512 + g) + 256) / 512)) for a signed gain of 8 bits. A contone value of column c on line n prints the number of k from 1 to L - 1 with t >= 16 T_k + 8, T_k from cell ((c + X_OFFSET) mod 256, (n + Y_OFFSET) mod 256) of the plane's screen set. A tone of 0 prints level 0, a tone of 4,095 level L - 1. The level of screened input is the same in any two states that agree on the remap table 0x0013 and on BITS. -/
def Obligations.ContoneTonesBecomeLevels : Prop :=
  (∀ (curve : Nat) (g : Int), -128 ≤ g → g ≤ 127 → (correctedTone curve g : Int) = min 4095 (((curve : Int) * (512 + g) + 256) / 512)) ∧
  (∀ (s : State) (p : Fin 8) (n c x : Nat), s.levelOf p n 0 c x =
    let v := s.viewAt n
    let cfg := (s.regAt n (0xC0100 + 0x40 * p.val)).toNat
    let id := 32768 * p.val + c
    let t := correctedTone (curveAt v p (viewNum v 0x0011 (2 * id) 1) x) (signed 8 (viewNum v 0x0011 (2 * id + 1) 1))
    ((List.range (2 ^ s.bits - 1)).filter fun k => decide
      (16 * threshold v (bitsOf cfg 0 3) ((c + bitsOf cfg 8 8) % 256) ((n + bitsOf cfg 16 8) % 256) (k + 1) + 8 ≤ t)).length) ∧
  (∀ (v : TableView) (b set x y : Nat), screenLevel v b set x y 0 = 0 ∧ screenLevel v b set x y 4095 = 2 ^ b - 1) ∧
  (∀ (s u : State) (p : Fin 8) (n kind c x : Nat), kind ≠ 0 → s.bits = u.bits →
    (∀ o, o < 131584 → s.viewAt n (tableKey 0x0013 o) = u.viewAt n (tableKey 0x0013 o)) → c < 32768 → x < 16 →
    s.levelOf p n kind c x = u.levelOf p n kind c x)

/-- With SCR running, a slot standing for the line, and the engine's bytes at hand (its decode has been read as far as the line), a source of the line that has not written it, whose turn in its decode it is, with every source of lower rank written, writes what it gives: afterwards it counts as having written the line, the column passes of its pass are noted, and no byte of DRAM outside the line's slot (4,096 bytes per bit of depth) has changed. A source one of whose lower ranks has not written, that has written already, or whose decode has another line next, changes nothing. Where a clause rests on a reading of the model's own, log entries 36, 181 say so. -/
def Obligations.LinesAreScreenedInRankOrder : Prop :=
  (∀ (s u : State) (p : Fin 8) (n : Nat) (x : Source) (ws : List (Nat × Nat)), s.scrRuns = true → s.slotOpen p n = true →
    u = s.readSource x.src n → (u.sourcesAt p n).find? (fun y => decide (y.src = x.src)) = some x →
    u.hasWritten p n x.src = false → u.lowerWritten p n x.rank = true → u.sourceReady x.src n = true →
    u.sourceWrites p n x = some ws → Next (.screenLineWrite p n x.src) s fun t =>
      t.hasWritten p n x.src = true ∧ t.scr.passes = noteWork s.now (u.passesOf p n x) s.scr.passes ∧
      ∀ a, a < s.slotAddr p n ∨ s.slotAddr p n + 4096 * s.bits ≤ a → t.dramByte a = s.dramByte a) ∧
  (∀ (s u : State) (p : Fin 8) (n : Nat) (x : Source), u = s.readSource x.src n →
    (u.sourcesAt p n).find? (fun y => decide (y.src = x.src)) = some x →
    (u.hasWritten p n x.src = true ∨ u.lowerWritten p n x.rank = false ∨ u.sourceReady x.src n = false) →
    exec (.screenLineWrite p n x.src) s = .next s)

/-- While no plane prints a write of BITS from 1 to 4 is held; while one prints, or with another value, BITS stays. Each link that is up at a rate and short of RUN whose board takes fewer bits than the new depth goes to FAULT (stated where no such link is in RUN). Where a clause rests on a reading of the model's own, log entry 80 says so. -/
def Obligations.BitDepthIsWrittenBetweenJobs : Prop :=
  (∀ (s : State) (v : Word), s.takesWrite 0xC0000 → s.printing = false → 1 ≤ bitsOf v.toNat 0 3 → bitsOf v.toNat 0 3 ≤ 4 →
    (∀ n ∈ s.shortLinks (bitsOf v.toNat 0 3), (s.plk.link[n]).st ≠ .run) → Next (.scrCfgBitsWrite v) s fun t =>
      t.bits = bitsOf v.toNat 0 3 ∧
      (bitsOf v.toNat 0 3 ≠ s.bits → ∀ n ∈ s.shortLinks (bitsOf v.toNat 0 3), (t.plk.link[n]).st = .fault)) ∧
  (∀ (s : State) (v : Word), s.takesWrite 0xC0000 → (s.printing = true ∨ bitsOf v.toNat 0 3 = 0 ∨ 4 < bitsOf v.toNat 0 3) →
    Next (.scrCfgBitsWrite v) s fun t => t.bits = s.bits ∧ t.plk = s.plk)

/-- For every table contents and link sample: a slot is live only where VALID and ACTIVE are set and it is REMOTE or its channel has EN and, with LINK_COLLAPSE, its link is in the sample. The chosen slot of a column is always one of its live slots 0 to 3, it is the slot that the pattern cell selects whenever that one is live, and none is chosen exactly where no slot is live. The choice depends on the cell, not on anything else of the line. -/
def Obligations.ColumnsPrintThroughALiveSlot : Prop :=
  (∀ (v : TableView) (coll : Bool) (live : BitVec 32) (w : Nat), slotLive v coll live w = true ↔
    w.testBit 18 = true ∧ w.testBit 19 = true ∧ (w.testBit 20 = true ∨
      (viewNum v 0x0002 (w % 2 ^ 18) 1).testBit 0 = true ∧ (coll = true → live.getLsbD (w % 2 ^ 18 / 8192) = true))) ∧
  (∀ (v : TableView) (coll : Bool) (live : BitVec 32) (col x y k : Nat), chosenSlot v coll live col x y = some k →
    k < 4 ∧ slotLive v coll live (slotWord v col k) = true) ∧
  (∀ (v : TableView) (coll : Bool) (live : BitVec 32) (col x y : Nat),
    slotLive v coll live (slotWord v col (patternSelect v (viewNum v 0x0001 (16 * col + 12) 1) x y)) = true →
    chosenSlot v coll live col x y = some (patternSelect v (viewNum v 0x0001 (16 * col + 12) 1) x y)) ∧
  (∀ (v : TableView) (coll : Bool) (live : BitVec 32) (col x y : Nat), chosenSlot v coll live col x y = none ↔
    ∀ k < 4, slotLive v coll live (slotWord v col k) = false)

/-- With CSM running, the link not SILENT, its plane printing, and no fetch that is served before it able to start, the next fire line of a segment gets a buffer in which the segment counts as started. Where its web line is not below 0 nor past a close and can be read, a new buffer holds the link sample and the mapped levels; where it is below 0 or past a close the segment counts as mapped too. The completion of the fetch under way that is served first notes the columns it visited and marks the segment as mapped; another one changes nothing. Where a clause rests on a reading of the model's own, log entries 37, 141, 155, 181 say so. -/
def Obligations.LinesAreFetchedForTheGutter : Prop :=
  (∀ (s : State) (n : Fin 32) (j : Fin 16) (p : Fin 8) (g : Seg) (f : Nat), s.segNow n j = some (p, g) → s.csmRuns = true →
    (s.csm.link[n]).state ≠ .silent → s.planePrints p = true → s.nextFireFetch n p j = some f → s.readsNothing p g f = false →
    s.canFetch p g f = true → firstServed ⟨s.fetchDeadline p f, n.val⟩ ((List.finRange 32).flatMap s.fetchCands) = true →
    Next (.rasterFetchStart n j) s fun t => (∃ b ∈ (t.csm.link[n]).fetch, b.line = f ∧ j ∈ b.started) ∧
      (s.fetchBuf n f = none → ∃ b ∈ (t.csm.link[n]).fetch, b.line = f ∧ b.live = s.linkSample ∧
        b.levels = mergeLevels [] (s.segLevels (s.viewAt (g.webLine f)) (s.regAt (g.webLine f) (planeCfg p)) s.linkSample p n j g (g.webLine f)))) ∧
  (∀ (s : State) (n : Fin 32) (j : Fin 16) (p : Fin 8) (g : Seg) (f : Nat), s.segNow n j = some (p, g) → s.csmRuns = true →
    (s.csm.link[n]).state ≠ .silent → s.planePrints p = true → s.nextFireFetch n p j = some f →
    ((f : Int) - g.offset < 0 ∨ s.pastClose p ((f : Int) - g.offset) = true) →
    firstServed ⟨s.fetchDeadline p f, n.val⟩ ((List.finRange 32).flatMap s.fetchCands) = true → Next (.rasterFetchStart n j) s fun t =>
      (∃ b ∈ (t.csm.link[n]).fetch, b.line = f ∧ j ∈ b.started ∧ j ∈ b.done) ∧ t.dmc = s.dmc) ∧
  (∀ (s : State) (n : Fin 32) (j : Fin 16) (p : Fin 8) (g : Seg) (b : FetchBuf), s.segNow n j = some (p, g) → s.csmRuns = true →
    (s.csm.link[n]).fetch.find? (fun b => b.started.contains j && !b.done.contains j) = some b →
    firstServed ⟨s.fetchDeadline p b.line, n.val⟩ ((List.finRange 32).flatMap s.fetchesRunning) = true → Next (.fetchComplete n j) s fun t =>
      t.csm.visits = noteWork s.now g.colCount s.csm.visits ∧ ∀ x ∈ (t.csm.link[n]).fetch, x.line = b.line → j ∈ x.done) ∧
  (∀ (s : State) (n : Fin 32) (j : Fin 16) (p : Fin 8) (g : Seg) (b : FetchBuf), s.segNow n j = some (p, g) →
    (s.csm.link[n]).fetch.find? (fun b => b.started.contains j && !b.done.contains j) = some b →
    firstServed ⟨s.fetchDeadline p b.line, n.val⟩ ((List.finRange 32).flatMap s.fetchesRunning) = false → exec (.fetchComplete n j) s = .next s)

/-- When a launched line is due on a link, a RUNNING gutter that transmitted at the line's launch, on a link in RUN whose clock runs and of a device that sends, transmits LINE_START, the LINE_PHASE blocks, the payload of the delayed levels and LINE_END; a SILENT or REFILLING gutter discards it, CSM_DISCARD counting one more where other links have yet to take the line. Refill starts on a SILENT link that may refill, from the plane's fire line, and ends in RUNNING once every line it needs is there. A write of CSM_GATE_CLOSE closes its gates and silences the gutters of those that were open; CSM_GATE_OPEN opens its gates. Where a clause rests on a reading of the model's own, log entries 38, 39, 140, 156 say so. -/
def Obligations.GuttersEmitRefillAndGate : Prop :=
  (∀ (s u : State) (n : Fin 32) (at_ : Nat) (p : Fin 8) (l : FireLine), u = s.advance at_ → u.lineDue n = some (p, l) → u.blkUp .csm = true →
    u.clkRuns 0 = true → u.clkRuns 4 = true → (u.csm.link[n]).state = .running → l.on.getLsbD n.val = true → (u.plk.link[n]).st = .run →
    u.linkClkRuns n = true → (u.csm.link[n]).owed = [] → l.sends = true →
    Next (.gutterEmit n at_) s fun t => ∃ vt : Bool,
      let payload := linePayload u.bits (u.gutterLevel n l.line (u.csm.link[n]).slots (u.fetchLevels n l.line))
      Sent s t (.line n (startBlock u.bits vt l) ((List.range 8).map (phaseBlock u.liveView n l.tf)) payload
        (endBlock payload u.twn.epoch l.line))) ∧
  (∀ (s u : State) (n : Fin 32) (at_ : Nat) (p : Fin 8) (l : FireLine), u = s.advance at_ → u.lineDue n = some (p, l) → u.blkUp .csm = true →
    u.clkRuns 0 = true → u.clkRuns 4 = true → ((u.csm.link[n]).state = .silent ∨ (u.csm.link[n]).state = .refilling) → (∃ k ∈ l.links, k.1 ≠ n) →
    Next (.gutterEmit n at_) s fun t => t.csm.discard = s.csm.discard + 1 ∧
      ∀ y ∈ (t.fir.plane[p]).launched, y.line = l.line → ∀ k ∈ y.links, k.1 ≠ n) ∧
  (∀ (s : State) (n : Fin 32) (p : Fin 8), s.refillPlane n = some p → s.csmRuns = true → (s.csm.link[n]).state = .silent →
    Next (.refillStart n) s fun t => t.csm.link[n] =
      { state := .refilling, f0 := s.fireLine p, taken := s.fireLine p, away := (s.csm.link[n]).away }) ∧
  (∀ (s : State) (n : Fin 32) (p : Fin 8), s.refillPlane n = some p → s.csmRuns = true → (s.csm.link[n]).state = .refilling →
    (∀ f ∈ s.refillNeeds n, ∀ x ∈ s.refillLines n p f, s.refillBlocked p x.2.2 = true ∨
      s.lineReadable p x.2.2 = true ∧ s.unitsServed (s.fetchUnits (s.reg (planeCfg p)) p x.2.1 x.2.2) = true) →
    Next (.refillDone n) s fun t => (t.csm.link[n]).state = .running ∧ (t.csm.link[n]).joined = false ∧ (t.csm.link[n]).away = false) ∧
  (∀ (s : State) (v : Word), s.takesWrite 0x100014 → Next (.csmGateCloseWrite v) s fun t => t.csm.gate = s.csm.gate ||| v ∧
    ∀ n : Fin 32, v.getLsbD n = true → s.gateOpen n = true → (t.csm.link[n]).state = .silent) ∧
  (∀ (s : State) (v : Word), s.takesWrite 0x100018 → Next (.csmGateOpenWrite v) s fun t => t.csm.gate = s.csm.gate &&& ~~~v ∧ t.csm.link = s.csm.link)

/-- Inputs that have shown their levels on more than FILT samples pass the filter; those that have not leave the filtered pair as it is. A filtered sample steps the count by the table of R222 (INVERT negates), an illegal transition counts in ILL_COUNT and moves no count; a channel that does not run ignores its inputs. A counted edge of the main channel moves the extreme count and FWD or REV with its two counts of hysteresis, and a forward one leaves every other enabled channel with a stretch window. A filtered index edge that fits the last step becomes the reference, or gives dev = s (C - C_ref) - 4 LPR: out of tolerance twice in a row it is FAULT, within tolerance with REREF the count takes the correction. A missing index records TOL + 1. Writes of CHk_CFG and LPR restart decoding and reference; a W1C of FAULT clears it, on the main channel with its stop cause; a new MAIN starts FWD at its own count, its STRETCH 0. Where a clause rests on a reading of the model's own, log entries 136, 175 say so. -/
def Obligations.EncodersCountAndCheckTheIndex : Prop :=
  (pairStep 0 2 = some 1 ∧ pairStep 2 3 = some 1 ∧ pairStep 3 1 = some 1 ∧ pairStep 1 0 = some 1 ∧
    ∀ a b : BitVec 2, (pairStep a b = some 1 ↔ pairStep b a = some (-1)) ∧ (pairStep a b = none ↔ b = ~~~a) ∧ (pairStep a b = some 0 ↔ a = b)) ∧
  (∀ (s : State) (k : Fin 8) (x : EncoderPins),
    (s.regField (posReg k 0) 8 6 < x.shownA → s.regField (posReg k 0) 8 6 < x.shownB → s.filterPair k x = some x.levels) ∧
    (x.shownA ≤ s.regField (posReg k 0) 8 6 → x.shownB ≤ s.regField (posReg k 0) 8 6 → s.filterPair k x = (s.pos.ch[k]).pair)) ∧
  (∀ (s u : State) (k : Fin 8) (x : EncoderPins) (pair old : BitVec 2) (at_ : Nat) (n d : Int), u = s.advance at_ → u.channelRuns k = true →
    (u.pos.ch[k]).pair = some old → u.filterPair k x = some pair → pairStep old pair = some n → d = (if u.regBit (posReg k 0) 1 then -n else n) → d ≠ 0 →
    Next (.encoderStep k x at_) s fun t =>
      (t.pos.ch[k]).pair = some pair ∧ (t.pos.ch[k]).count = unsigned 48 ((u.pos.ch[k]).count + d) ∧ (t.pos.ch[k]).step = d ∧
      (t.pos.ch[k]).lastEdge = some u.fireClk ∧
      ((u.pos.ch[k]).step = -d → (t.pos.ch[k]).valid = false ∧ (t.pos.ch[k]).ref = none ∧ (t.pos.ch[k]).edges = [u.fireClk]) ∧
      (k ≠ u.mainChannel → t.pos.extreme = u.pos.extreme ∧ t.pos.rev = u.pos.rev) ∧
      (k = u.mainChannel → u.blkUp .pos = true →
        let c := unsigned 48 ((u.pos.ch[k]).count + d)
        let e := diff48 c u.pos.extreme
        (t.pos.extreme = if u.pos.rev then (if e < 0 ∨ 2 ≤ e then c else u.pos.extreme) else if 0 < e ∨ e ≤ -2 then c else u.pos.extreme) ∧
        t.pos.rev = (if u.pos.rev then decide (e < 2) else decide (e ≤ -2)) ∧
        (0 < d → ∀ j : Fin 8, j ≠ k → u.regBit (posReg j 0) 0 = true → (t.pos.ch[j]).window.isSome = true))) ∧
  (∀ (s u : State) (k : Fin 8) (x : EncoderPins) (pair old : BitVec 2) (at_ : Nat), u = s.advance at_ → u.channelRuns k = true →
    (u.pos.ch[k]).pair = some old → u.filterPair k x = some pair → pairStep old pair = none → Next (.encoderStep k x at_) s fun t =>
      t.pos.ch[k] = { u.pos.ch[k] with pair := some pair, illegal := true, illCount := satInc (u.pos.ch[k]).illCount }) ∧
  (∀ (s u : State) (k : Fin 8) (x : EncoderPins) (at_ : Nat), u = s.advance at_ →
    u.channelRuns k = false ∨ u.filterPair k x = none → exec (.encoderStep k x at_) s = .next u) ∧
  (∀ (s u : State) (k : Fin 8) (z : IndexPin) (at_ : Nat), u = s.advance at_ → u.channelRuns k = true → u.regField (posReg k 0) 8 6 < z.shown → u.regBit (posReg k 0) 2 = true →
    u.revCounts k ≠ 0 → (u.pos.ch[k]).step = (if z.rising != u.regBit (posReg k 0) 3 then 1 else -1) → Next (.indexEvent k z at_) s fun t =>
      ((u.pos.ch[k]).ref = none → t.pos.ch[k] = { u.pos.ch[k] with ref := some ((u.pos.ch[k]).count, (u.pos.ch[k]).step), run := 0 }) ∧
      ∀ (r : Nat) (d dev : Int), (u.pos.ch[k]).ref = some (r, d) → dev = d * diff48 (u.pos.ch[k]).count r - u.revCounts k →
        (dev ≠ 0 → (t.pos.ch[k]).mismatch = true ∧ (t.pos.ch[k]).dev = dev) ∧
        (t.pos.ch[k]).ref = some ((t.pos.ch[k]).count, d) ∧
        ((t.pos.ch[k]).count = if u.regBit (posReg k 0) 4 = true ∧ dev ≠ 0 ∧ dev.natAbs ≤ (u.tol k).toNat then
          unsigned 48 ((u.pos.ch[k]).count - d * dev) else (u.pos.ch[k]).count) ∧
        (dev.natAbs ≤ (u.tol k).toNat → (t.pos.ch[k]).run = 0) ∧
        ((u.tol k).toNat < dev.natAbs → (u.pos.ch[k]).run = 0 → (t.pos.ch[k]).run = 1 ∧ (t.pos.ch[k]).fault = (u.pos.ch[k]).fault) ∧
        ((u.tol k).toNat < dev.natAbs → 1 ≤ (u.pos.ch[k]).run → (t.pos.ch[k]).run = 0 ∧ (t.pos.ch[k]).fault = true)) ∧
  (∀ (s : State) (k : Fin 8) (r : Nat) (d : Int), s.channelRuns k = true → s.regBit (posReg k 0) 2 = true → s.revCounts k ≠ 0 →
    (s.pos.ch[k]).ref = some (r, d) → s.revCounts k + s.tol k + 1 ≤ d * diff48 (s.pos.ch[k]).count r → Next (.missingIndex k) s fun t =>
      (t.pos.ch[k]).missing = true ∧ (t.pos.ch[k]).mismatch = true ∧ (t.pos.ch[k]).dev = s.tol k + 1 ∧
      (t.pos.ch[k]).ref = some (unsigned 48 (r + d * s.revCounts k), d) ∧ (t.pos.ch[k]).count = (s.pos.ch[k]).count) ∧
  (∀ (s : State) (k : Fin 8) (v : Word) (c : Instr), c = .posChannelEnable k v ∨ c = .posZEnWrite k v → s.takesWrite (posReg k 0) →
    Next c s fun t => t.regBit (posReg k 0) 0 = v.getLsbD 0 ∧ t.regBit (posReg k 0) 2 = v.getLsbD 2 ∧
      (t.pos.ch[k]).count = (s.pos.ch[k]).count ∧
      (v.getLsbD 0 = true → s.regBit (posReg k 0) 0 = false → (t.pos.ch[k]).pair = none) ∧
      (v.getLsbD 2 = true → (t.pos.ch[k]).ref = none)) ∧
  (∀ (s : State) (k : Fin 8) (v : Word), s.takesWrite (posReg k 4) → Next (.posLprWrite k v) s fun t =>
    t.regField (posReg k 4) 0 24 = bitsOf v.toNat 0 24 ∧ t.pos.ch[k] = { s.pos.ch[k] with ref := none }) ∧
  (∀ (s : State) (k : Fin 8), s.takesWrite (posReg k 0x14) → Next (.posFaultClear k) s fun t =>
    t.pos.ch[k] = { s.pos.ch[k] with fault := false } ∧
    (k = s.mainChannel → ∀ p : Fin 8, ((t.fir.plane[p]).cause).getLsbD 3 = false)) ∧
  (∀ (s : State) (v : Word), s.takesWrite 0x140000 → s.printing = false → Next (.posMainWrite v) s fun t =>
    t.mainChannel.val = bitsOf v.toNat 0 3 ∧
    (t.mainChannel ≠ s.mainChannel → t.pos.extreme = (s.pos.ch[t.mainChannel]).count ∧ t.pos.rev = false ∧ (t.pos.ch[t.mainChannel]).stretch = 0))

/-- For edges e cycles apart and no more than e cycles after the newest, the speed is 4 x 10^8 / e counts per second whatever the window; at any time its size is at most 4 x 10^8 over the time since the newest edge. An update gives each enabled channel with two edges of one run that speed and VALID, and leaves the others as they are. Standstill, once no edge has come for the channel's STILL_MS, clears VALID, speed, edges, reference and window, sets STILL (before that nothing happens), and on the main channel of a device on its own encoder clears OVERSPEED. A window that has advanced 2^LOG2STR main lines stores the stretch in 0.01 ppm; the rule's example gives 9,631. Where a clause rests on a reading of the model's own, log entries 40, 74 say so. -/
def Obligations.SpeedAndStretchAreMeasured : Prop :=
  (∀ (e m w : Nat) (dir : Int) (now : Nat), 1 ≤ e → (m + 1) * e ≤ now → now ≤ (m + 2) * e →
    ∃ v d, runSpeed ((List.range (m + 2)).map fun i => (m + 1 - i) * e) dir w now = some (v, d) ∧ v * e = dir * 400000000 * d ∧ 0 < d) ∧
  (∀ (edges : List Nat) (w now d : Nat) (dir v : Int), dir = 1 ∨ dir = -1 → runSpeed edges dir w now = some (v, d) →
    v.natAbs * (now - edges.headD 0) ≤ 400000000 * d) ∧
  (∀ (s u : State) (at_ : Nat), u = s.advance at_ → u.blkUp .pos = true → u.clkRuns 0 = true → Next (.speedUpdate at_) s fun t => ∀ k : Fin 8,
    let c := u.pos.ch[k]
    t.pos.ch[k] = if u.regBit (posReg k 0) 0 = true then
        match runSpeed c.edges c.step u.speedWindow u.fireClk with
        | some v => { c with valid := true, speed := v }
        | none => c
      else c) ∧
  (∀ (s u : State) (k : Fin 8) (at_ : Nat), u = s.advance at_ → u.channelRuns k = true → u.blkUp .pos = true →
    ((u.pos.ch[k]).quiet.1 + 400000 * (u.pos.ch[k]).quiet.2 ≤ u.fireClk → Next (.standstill ⟨k, at_⟩) s fun t =>
      t.pos.ch[k] = { u.pos.ch[k] with still := true, valid := false, speed := (0, 1), edges := [], ref := none, window := none } ∧
      (k = u.mainChannel → (∀ j : Fin 8, (t.pos.ch[j]).window = none) ∧
        (u.usesTide = false → ∀ p : Fin 8, ((t.fir.plane[p]).cause).getLsbD 1 = false))) ∧
    (u.fireClk < (u.pos.ch[k]).quiet.1 + 400000 * (u.pos.ch[k]).quiet.2 → exec (.standstill ⟨k, at_⟩) s = .next u)) ∧
  (∀ (s : State) (k : Fin 8) (m a l : Nat) (dm : Int), s.blkUp .pos = true → s.clkRuns 0 = true → (s.pos.ch[k]).window = some (m, a, l) →
    dm = diff48 (s.pos.ch[s.mainChannel]).count m → Next .stretchWindowClose s fun t =>
      (((2 ^ (l + 32) : Nat) : Int) ≤ dm * s.ratio → t.pos.ch[k] = { s.pos.ch[k] with
        window := none, strValid := true, stretch := stretchOf (diff48 (s.pos.ch[k]).count a) (s.rollerRatio k) dm s.ratio }) ∧
      (dm * s.ratio < ((2 ^ (l + 32) : Nat) : Int) → t.pos.ch[k] = s.pos.ch[k])) ∧
  (∀ r : Nat, 0 < r → stretchOf 1775760 r 1775589 r = 9631)

/-- On a SINGLE device, with FIR running, a plane that may commit (it has an X_p, and is ARMED, or in RUN or CLOSING and after a reversal past its print position again; another commits nothing), the direction FWD and the speed VALID: once the prediction of line C_p is within the launch lead, with a lag of at most half a line it is committed with the stamp max(t*, now + lead, last stamp + T_min), and C_p rises by one; an ARMED plane with no close waiting enters RUN and counts a resume. With a greater lag a firing plane holds with cause OVERSPEED at seam F_p - 1 - H_p, its commits withdrawn (stated where no line's deadline has come unmet). When the plane launch deadline of its oldest committed line has come, the line is launched, F_p becoming the line after it; but where a link that transmits lacks the line, or CORE_CLK is stopped, a firing plane holds with F_p unchanged and the seam F_p - 1 - H_p. Each comparison moves FIR_NOW by at most one tick toward device time, or by all of it after a step of t. Where a clause rests on a reading of the model's own, log entries 75, 120, 140, 154, 172 say so. -/
def Obligations.LinesAreCommittedLaunchedOrStopThePlane : Prop :=
  (∀ (s u : State) (p : Fin 8) (at_ : Nat) (v : Int × Nat) (rel : Int), u = s.advance at_ → u.blkUp .fir = true → u.clkRuns 0 = true →
    u.twn.yielded = false → u.twn.role = .single → u.forwardSpeed = some v → u.predict p (u.fir.plane[p]).commit v = some rel →
    rel ≤ u.launchLead p → (u.fir.plane[p]).mayCommit = true →
    let pl := u.fir.plane[p]
    let stamp := u.dueStamp p rel
    let lag := u.predictCoord p stamp v - (pl.commit * 65536 : Nat)
    (lag ≤ 32768 → (pl.phase = .run ∨ pl.phase = .closing) → Next (.lineCommit p at_) s fun t =>
      (t.fir.plane[p]).commit = pl.commit + 1 ∧ (t.fir.plane[p]).next = pl.next ∧ (t.fir.plane[p]).lag = lagReg lag ∧
      ∃ l, (t.fir.plane[p]).committed = pl.committed ++ [l] ∧ l.line = pl.commit ∧ l.stamp = unsigned 48 (u.fireTick + stamp)) ∧
    (lag ≤ 32768 → pl.phase = .armed → pl.close = none → Next (.lineCommit p at_) s fun t =>
      (t.fir.plane[p]).phase = .run ∧ (t.fir.plane[p]).resumes = pl.resumes + 1 ∧ (t.fir.plane[p]).seamValid = false) ∧
    (32768 < lag → (pl.phase = .run ∨ pl.phase = .closing) → pl.cause.getLsbD 1 = false → (∀ q : Fin 8, u.lineDueNow q = none) → Next (.lineCommit p at_) s fun t =>
      (t.fir.plane[p]).phase = .hold ∧ ((t.fir.plane[p]).cause).getLsbD 1 = true ∧ (t.fir.plane[p]).committed = [] ∧
      (t.fir.plane[p]).seam = (pl.next : Int) - 1 - u.span p ∧ (t.fir.plane[p]).next = pl.next)) ∧
  (∀ (s u : State) (p : Fin 8) (at_ : Nat), u = s.advance at_ →
    ((u.fir.plane[p]).mayCommit = false ↔ (u.fir.plane[p]).origin = none ∨ ((u.fir.plane[p]).phase ≠ .armed ∧
      ((u.fir.plane[p]).behind = true ∨ ((u.fir.plane[p]).phase ≠ .run ∧ (u.fir.plane[p]).phase ≠ .closing)))) ∧
    ((u.fir.plane[p]).mayCommit = false → Next (.lineCommit p at_) s fun t =>
      (t.fir.plane[p]).commit = (u.fir.plane[p]).commit ∧ (t.fir.plane[p]).committed = (u.fir.plane[p]).committed)) ∧
  (∀ (s : State) (p : Fin 8) (rel : Int), rel ≤ s.dueStamp p rel ∧ (s.launchLead p : Int) ≤ s.dueStamp p rel ∧
    ∀ l, (s.fir.plane[p]).committed.getLast? = some l → diff48 l.stamp s.fireTick + s.tmin p ≤ s.dueStamp p rel) ∧
  (∀ (s u : State) (p : Fin 8) (at_ : Nat) (l : FireLine) (ls : List FireLine), u = s.advance at_ → u.blkUp .fir = true →
    u.clkRuns 0 = true → u.twn.role = .single → (u.fir.plane[p]).committed = l :: ls → diff48 l.deadline u.fireTick ≤ 0 →
    ((∀ k ∈ l.links, u.linkLate p k.1 l.line = false) → u.clkRuns 4 = true → Next (.lineLaunch p at_) s fun t =>
      (t.fir.plane[p]).next = l.line + 1 ∧ (t.fir.plane[p]).lastStamp = some l.stamp ∧
      (l.links ≠ [] → ∃ y ∈ (t.fir.plane[p]).launched, y.line = l.line ∧ y.stamp = l.stamp ∧ y.links = l.links ∧ y.sends = true)) ∧
    (((∃ k ∈ l.links, u.linkLate p k.1 l.line = true) ∨ u.clkRuns 4 = false) → (∀ q : Fin 8, q ≠ p → u.lineDueNow q = none) → ((u.fir.plane[p]).phase = .run ∨ (u.fir.plane[p]).phase = .closing) →
      ((u.fir.plane[p]).cause).getLsbD 0 = false → Next (.lineLaunch p at_) s fun t =>
        ((t.fir.plane[p]).phase = .hold ∨ (t.fir.plane[p]).phase = .armed) ∧ (t.fir.plane[p]).next = (u.fir.plane[p]).next ∧
        (t.fir.plane[p]).committed = [] ∧ (t.fir.plane[p]).launched = (u.fir.plane[p]).launched ∧
        (t.fir.plane[p]).seam = ((u.fir.plane[p]).next : Int) - 1 - u.span p)) ∧
  (∀ (s u : State) (at_ : Nat), u = s.advance at_ → u.blkUp .fir = true → u.clkRuns 0 = true → Next (.firNowDiscipline at_) s fun t =>
    (u.fir.realign = true → t.fir.now = u.firTarget ∧ t.fir.realign = false) ∧
    (u.fir.realign = false → ∃ d : Int, -(2 ^ 40) ≤ d ∧ d ≤ 2 ^ 40 ∧ t.fir.now = unsigned 88 (u.fir.now + d)) ∧
    (u.fir.realign = false → (signed 88 (u.firTarget + 2 ^ 88 - u.fir.now % 2 ^ 88)).natAbs ≤ 2 ^ 40 → t.fir.now = u.firTarget))

/-- While no committed line's deadline has come unmet: JOB_OPEN completes; each plane it names prints, with the entry's origin, no close and no lag, P_p the position at that instant and F_p = max(0, floor(Phi_p) + 1), its quires gone; while FIRE_ENABLE is deasserted a SINGLE device holds it with that cause. A write of FIR_CTRL keeps STOP; a printing plane whose bit rises holds with cause HOST (SINGLE device), one whose bit falls loses the cause. RESUME_FWD on one plane in HOLD or ARMED with no cause and no close puts it in RUN with F_p = max(F_p, floor(Phi_p) + 1). JOB_CLOSE puts a RUN plane into CLOSING, or IDLE where it has launched all already; a plane in HOLD or ARMED keeps its seam and the close waits; with every plane named IDLE and no close waiting it completes OK. Where a clause rests on a reading of the model's own, log entries 31, 32, 33, 44 say so. -/
def Obligations.PlanesOpenStopResumeAndClose : Prop :=
  (∀ (s : State) (n : Fin 16) (f : Flight), s.starts n f → f.e.op = 0x60 → (∀ b ∈ f.e.blocks, s.blkUp b = true) →
    (∀ q : Fin 8, s.lineDueNow q = none) → Next (.jobOpen n) s fun t => (∀ g ∈ t.hif.flights, g.id ≠ f.id) ∧ ∀ p ∈ f.e.planes,
      (t.fir.plane[p]).origin = some (f.e.a[0].extractLsb' 0 48) ∧ (t.fir.plane[p]).phase ≠ .idle ∧ (t.fir.plane[p]).close = none ∧
      (t.fir.plane[p]).committed = [] ∧ (t.fir.plane[p]).lag = 0 ∧
      (∀ (d : Nat) (rev : Bool), s.direction.isSome = true → s.directionNow = some (d, rev) →
        (t.fir.plane[p]).print = s.lineOf (f.e.a[0].extractLsb' 0 48) d rev ∧ (t.fir.plane[p]).next =
        (max (0 : Int) ((s.lineOf (f.e.a[0].extractLsb' 0 48) d rev - s.offset p) / 65536 + 1)).toNat) ∧
      (∀ q ∈ t.qdc.quires, q.plane ≠ p) ∧
      (s.pins.fireEnable = false → s.twn.role = .single → (t.fir.plane[p]).phase = .hold ∧ ((t.fir.plane[p]).cause).getLsbD 2 = true)) ∧
  (∀ (s : State) (v : Word) (c : Instr), c = .firCtrlStopWrite v ∨ c = .firCtrlResumeFwd v → s.takesWrite 0x160010 →
    (∀ q : Fin 8, s.lineDueNow q = none) → Next c s fun t =>
    t.fir.stop = v.extractLsb' 0 8 ∧
    (s.twn.role = .single → ∀ p : Fin 8, v.getLsbD p.val = true → s.fir.stop.getLsbD p.val = false → s.planePrints p = true →
      ((s.fir.plane[p]).cause).getLsbD 5 = false → (t.fir.plane[p]).phase = .hold ∧ ((t.fir.plane[p]).cause).getLsbD 5 = true) ∧
    (∀ p : Fin 8, v.getLsbD p.val = false → s.fir.stop.getLsbD p.val = true → ((t.fir.plane[p]).cause).getLsbD 5 = false) ∧
    (∀ p : Fin 8, v.extractLsb' 0 8 = s.fir.stop → v.extractLsb' 8 8 = BitVec.twoPow 8 p.val →
      ((s.fir.plane[p]).phase = .hold ∨ (s.fir.plane[p]).phase = .armed) → (s.fir.plane[p]).cause = 0 → (s.fir.plane[p]).close = none →
      (t.fir.plane[p]).phase = .run ∧ (t.fir.plane[p]).seamValid = false ∧
      (t.fir.plane[p]).next = max (s.fir.plane[p]).next (s.coordNow p / 65536 + 1).toNat)) ∧
  (∀ (s : State) (n : Fin 16) (f : Flight), s.starts n f → f.e.op = 0x61 → (∀ b ∈ f.e.blocks, s.blkUp b = true) →
    Next (.jobClose n) s fun t =>
      (∀ p ∈ f.e.planes, (s.fir.plane[p]).phase = .run → (t.fir.plane[p]).phase = .closing ∨ (t.fir.plane[p]).phase = .idle) ∧
      (∀ p ∈ f.e.planes, (s.fir.plane[p]).phase = .hold ∨ (s.fir.plane[p]).phase = .armed → (s.fir.plane[p]).close = none →
        ((t.fir.plane[p]).phase = .hold ∨ (t.fir.plane[p]).phase = .armed) ∧ (t.fir.plane[p]).close = some ⟨f.e.num 0, [f.id]⟩ ∧
        (t.fir.plane[p]).seam = (s.fir.plane[p]).seam) ∧
      ((∀ p ∈ f.e.planes, (s.fir.plane[p]).phase = .idle) → (∀ p : Fin 8, (s.fir.plane[p]).close = none) → f.superseded = false →
        Completes s t f stOk 0))

/-- A frame with a code or disparity error or a wrong CRC-32C changes nothing. The third identical CAP frame is accepted, RATE_GO naming the rate back to back, or fails with cause 2. An ACK of that rate gives four more RATE_GO and LOCK, any other nothing; silence in T0 or RATE is cause 1. 64 consecutive valid sync headers give block lock: ECHO, or PRBS where PRBS_MS is not 0; two failures go back to T0, the third rules R10 out or at R5 is cause 3. The end of PRBS sends IDLE; the STATUS after it gives ECHO or cause 4, its absence cause 4. A control block of an unlisted type is counted and ignored. ECHO and SYNC blocks leave with identifier and T_ARR, an ECHO of bring-up only once those before it are 20 us old or answered; late or unexpected replies are counted and dropped. The 64th reply gives SYNC with D_FWD and L_k, or cause 5 or 6; a missing phase end is cause 5 or 7. A reply of the 16th aligned run with READY leaves SYNC as POLICY says: LOAD at 0, AUTH with a challenge for a board with AUTH, else reported (LOAD) or refused (FAULT). Where a clause rests on a reading of the model's own, log entries 79, 85, 156, 174 say so. -/
def Obligations.LinksTrainStepByStep : Prop :=
  (∀ (s : State) (n : Fin 32) (x : LinkFrame),
    (x.clean = false ∨ crc32c ((leBytes 16 x.bytes.toNat).take 12) ≠ x.bytes.extractLsb' 96 32 →
      exec (.capFrameRx n x) s = .next s ∧ exec (.ackFrameRx n x) s = .next s) ∧
    (x.clean = true → crc32c ((leBytes 16 x.bytes.toNat).take 12) = x.bytes.extractLsb' 96 32 → frameContent x.bytes x.clean = some (x.bytes.extractLsb' 0 96))) ∧
  (∀ (s : State) (n : Fin 32) (x : LinkFrame) (w : BitVec 96), frameContent x.bytes x.clean = some w →
    (s.plk.link[n]).st = .t0 → w.extractLsb' 0 8 = 1 → Next (.capFrameRx n x) s fun t =>
    ((s.plk.link[n]).seen = none → (t.plk.link[n]).seen = some (w, 1)) ∧
    ((s.plk.link[n]).seen = some (w, 1) → (t.plk.link[n]).seen = some (w, 2)) ∧
    ((s.plk.link[n]).seen = some (w, 2) →
      (∀ r, (s.plk.link[n]).bestRate (parseCaps w) = some r → (parseCaps w).pver = 1 → s.bits ≤ (parseCaps w).maxBits.toNat →
        3 ≤ (parseCaps w).nbuf.toNat →
        let c : List Byte := [0x02, if r = .r10 then 2 else 1] ++ List.replicate 10 0
        (t.plk.link[n]).st = .rate ∧ (t.plk.link[n]).caps = some (parseCaps w) ∧ (t.plk.link[n]).goRate = some r ∧
          Sent s t (.capFrame n (c ++ leBytes 4 (crc32c c).toNat) true)) ∧
      ((s.plk.link[n]).bestRate (parseCaps w) = none ∨ (parseCaps w).pver ≠ 1 ∨ (parseCaps w).maxBits.toNat < s.bits ∨ (parseCaps w).nbuf.toNat < 3 →
        (t.plk.link[n]).st = .fault ∧ (t.plk.link[n]).cause = 2))) ∧
  (∀ (s : State) (n : Fin 32) (x : LinkFrame) (w : BitVec 96) (r : LinkRate), frameContent x.bytes x.clean = some w →
    (s.plk.link[n]).st = .rate → (s.plk.link[n]).goRate = some r →
    (w.extractLsb' 0 8 = 3 → w.extractLsb' 8 8 = (if r = .r10 then 2 else 1) → Next (.ackFrameRx n x) s fun t =>
      (t.plk.link[n]).st = .lock ∧ (t.plk.link[n]).rate = r ∧ t.out.length = s.out.length + 4) ∧
    (w.extractLsb' 0 8 ≠ 3 ∨ w.extractLsb' 8 8 ≠ (if r = .r10 then 2 else 1) → exec (.ackFrameRx n x) s = .next s)) ∧
  (∀ (s : State) (n : Fin 32), (s.plk.link[n]).st = .t0 ∨ (s.plk.link[n]).st = .rate → Next (.t0Timeout n) s fun t =>
    (t.plk.link[n]).st = .fault ∧ (t.plk.link[n]).cause = 1) ∧
  (∀ (s : State) (n : Fin 32) (before last : List (BitVec 2)), last.length = 64 → (s.plk.link[n]).st = .lock →
    ((∀ h ∈ last, h = 1 ∨ h = 2) → Next (.blockLockAcquire ⟨n, before ++ last⟩) s fun t => (t.plk.link[n]).lock = true ∧
      (t.plk.link[n]).st = if (s.plk.link[n]).prbsMs = 0 then .echo else .prbs) ∧
    ((∃ h ∈ last, h ≠ 1 ∧ h ≠ 2) → exec (.blockLockAcquire ⟨n, before ++ last⟩) s = .next s)) ∧
  (∀ (s : State) (n : Fin 32), (s.plk.link[n]).st = .lock → Next (.lockTimeout n) s fun t =>
    if (s.plk.link[n]).lockFails < 2 then (t.plk.link[n]).st = .t0 ∧ (t.plk.link[n]).lockFails = (s.plk.link[n]).lockFails + 1
    else if (s.plk.link[n]).rate = .r10 then (t.plk.link[n]).st = .t0 ∧ (t.plk.link[n]).noR10 = true
    else (t.plk.link[n]).st = .fault ∧ (t.plk.link[n]).cause = 3) ∧
  (∀ (s : State) (n : Fin 32) (e : Nat), (s.plk.link[n]).st = .prbs → (s.plk.link[n]).prbsOver = false → Next (.prbsPhaseEnd n e) s fun t =>
    (t.plk.link[n]).prbsOver = true ∧ (t.plk.link[n]).prbsDev = min 0xFFFF ((s.plk.link[n]).prbsDev + e) ∧
    ∃ x : BitVec 64, Sent s t (.block n x) ∧ x.extractLsb' 0 8 = 0x1E ∧ x.extractLsb' 8 16 = s.twn.epoch) ∧
  (∀ (s : State) (n : Fin 32) (w : BitVec 56), s.twn.role = .single → (s.plk.link[n]).st = .prbs → (s.plk.link[n]).prbsOver = true →
    let top := s.regField (linkReg n 0) 16 16
    Next (.statusRx n (w ++ (0x99 : BitVec 8))) s fun t => (t.plk.link[n]).flags = w.extractLsb' 0 8 ∧ (t.plk.link[n]).prbsBrd = (w.extractLsb' 40 16).toNat ∧
      if (s.plk.link[n]).prbsDev ≤ top ∧ (w.extractLsb' 40 16).toNat ≤ top then (t.plk.link[n]).st = .echo
      else (t.plk.link[n]).st = .fault ∧ (t.plk.link[n]).cause = 4) ∧
  (∀ (s : State) (n : Fin 32), (s.plk.link[n]).st = .prbs → (s.plk.link[n]).prbsOver = true → Next (.statusTimeout n) s fun t =>
    (t.plk.link[n]).st = .fault ∧ (t.plk.link[n]).cause = 4) ∧
  (∀ (s : State) (n : Fin 32) (b : BitVec 64), (s.plk.link[n]).st.locked = true → (∀ x ∈ blockTypes, b.extractLsb' 0 8 ≠ x) →
    exec (.statusRx n b) s = .next (s.modLink n fun l => { l with unknown := l.unknown + 1 })) ∧
  (∀ (s : State) (n : Fin 32) (d : BitVec 52), (s.plk.link[n]).st.echoes = true → (s.plk.link[n]).st ≠ .run →
    (∃ e ∈ (s.plk.link[n]).echoes, (d - BitVec.ofNat 52 e.2).toNat < 128000) → exec (.echoSend n d) s = .next s) ∧
  (∀ (s : State) (n : Fin 32) (d : BitVec 52), (s.plk.link[n]).st.echoes = true →
    ((s.plk.link[n]).st = .run ∨ ∀ e ∈ (s.plk.link[n]).echoes, 128000 ≤ (d - BitVec.ofNat 52 e.2).toNat) → Next (.echoSend n d) s fun t =>
    ((s.plk.link[n]).echoId, d.toNat) ∈ (t.plk.link[n]).echoes ∧ (t.plk.link[n]).echoId = (s.plk.link[n]).echoId + 1 ∧
    Sent s t (.block n (BitVec.ofNat 64 (0x87 + 256 * (s.plk.link[n]).echoId.toNat)))) ∧
  (∀ (s : State) (n : Fin 32) (d : BitVec 52), (s.plk.link[n]).st.syncs = true → Next (.syncSend n d) s fun t =>
    Sent s t (.block n (BitVec.ofNat 64 (0x2D + 256 * ((d.toNat + (s.plk.link[n]).dfwd) % 2 ^ 52))))) ∧
  (∀ (s : State) (n : Fin 32) (id : BitVec 8) (turn r1 : BitVec 24) (at_ : BitVec 52), (∀ e ∈ (s.plk.link[n]).echoes, e.1 ≠ id) →
    exec (.echoReplyRx n id turn r1 at_) s = .next (s.modLink n fun l => { l with discarded := l.discarded + 1 })) ∧
  (∀ (s : State) (n : Fin 32) (id : BitVec 8), Next (.echoReplyTimeout n id) s fun t =>
    (∀ e ∈ (t.plk.link[n]).echoes, e.1 ≠ id) ∧ (t.plk.link[n]).st = (s.plk.link[n]).st) ∧
  (∀ (s : State) (n : Fin 32) (id : BitVec 8) (turn r1 : BitVec 24) (at_ : BitVec 52) (dep gone : Nat) (c : Caps) (e : Int) (rt : List Int),
    (s.plk.link[n]).echoes.find? (fun e => decide (e.1 = id)) = some (id, dep) → gone = (at_.toNat + 2 ^ 52 - dep % 2 ^ 52) % 2 ^ 52 →
    (s.plk.link[n]).caps = some c → e = signed 24 (unsigned 24 ((r1.toNat : Int) - (dep + (s.plk.link[n]).dfwd : Nat))) →
    rt = (((gone : Int) - turn.toNat) :: (s.plk.link[n]).rtts).take 64 → Next (.echoReplyRx n id turn r1 at_) s fun t =>
      (128000 < gone → t.plk.link[n] = { s.plk.link[n] with
        echoes := (s.plk.link[n]).echoes.filter fun x => decide (x.1 ≠ id), discarded := (s.plk.link[n]).discarded + 1 }) ∧
      (gone ≤ 128000 → (s.plk.link[n]).st = .echo →
        let d := meanHalf rt
        let lat := s.linkLatency c (s.plk.link[n]).rate d
        (rt.length < 64 → (t.plk.link[n]).st = .echo ∧ (t.plk.link[n]).rtts = rt) ∧
        (rt.length = 64 → spreadOk rt = false → (t.plk.link[n]).st = .fault ∧ (t.plk.link[n]).cause = 5) ∧
        (rt.length = 64 → spreadOk rt = true → 8000 < lat → (t.plk.link[n]).st = .fault ∧ (t.plk.link[n]).cause = 6) ∧
        (rt.length = 64 → spreadOk rt = true → lat ≤ 8000 → (t.plk.link[n]).st = .sync ∧ (t.plk.link[n]).dfwd = d ∧ (t.plk.link[n]).lat = lat)) ∧
      (gone ≤ 128000 → (s.plk.link[n]).st = .sync → 0 < (s.plk.link[n]).syncs → e.natAbs ≤ 16 →
        ((s.plk.link[n]).streak < 15 → (t.plk.link[n]).st = .sync ∧ (t.plk.link[n]).streak = (s.plk.link[n]).streak + 1) ∧
        (15 ≤ (s.plk.link[n]).streak → (s.plk.link[n]).ready = true →
          (s.authPolicy n = 0 → (t.plk.link[n]).st = .load) ∧
          (s.authPolicy n ≠ 0 → c.auth = true → (t.plk.link[n]).st = .auth ∧ (t.plk.link[n]).auth.isSome = true) ∧
          (s.authPolicy n = 1 → c.auth = false → (t.plk.link[n]).st = .load ∧ (t.plk.link[n]).authResult = 3) ∧
          (s.authPolicy n = 2 → c.auth = false → (t.plk.link[n]).st = .fault ∧ (t.plk.link[n]).refused = true ∧ (t.plk.link[n]).authResult = 2)))) ∧
  (∀ (s : State) (n : Fin 32), Next (.echoPhaseTimeout n) s fun t =>
    ((s.plk.link[n]).st = .echo → (t.plk.link[n]).st = .fault ∧ (t.plk.link[n]).cause = 5) ∧
    ((s.plk.link[n]).st = .sync → (t.plk.link[n]).st = .fault ∧ (t.plk.link[n]).cause = 7))

/-- The board's complete answer passes where its MAC and usage count are right, else counts as the policy says; no answer is cause 11. An upload leaves as its 2,048 CFG blocks and their commit, for bank 0 in LOAD, else for the bank not in force; its VALID report in LOAD gives RUN, its absence cause 10. In RUN a reply gives new D_FWD, L_k and T_link, or cause 6 with the old L_k, or cause 7 at the second misaligned reply; READY = 0 or no STATUS is cause 8, 16 of 64 invalid sync headers cause 3. After the backoff a link in FAULT with AUTO is reset for 100 microseconds and restarts at T0. ENABLE starts or ends bring-up. LINK_CTRL acts as its table (from FAULT by the 100 microsecond reset), refused with 0x10, 0x12, 0x11 or 0x13 changing no link. Where a clause rests on a reading of the model's own, log entries 34, 79, 81, 82, 86, 134, 143, 156, 168 say so. -/
def Obligations.LinksAuthenticateLoadRunAndRecover : Prop :=
  (∀ (s : State) (n : Fin 32) (kind index : BitVec 4) (bytes : BitVec 48) (a b : AuthRun), (s.plk.link[n]).auth = some a →
    b = { a with got := (16 * kind.toNat + index.toNat, bytes) :: a.got.filter fun g => decide (g.1 ≠ 16 * kind.toNat + index.toNat) } →
    Next (.authResponseRx n kind index bytes) s fun t =>
      (b.value 2 8 = none ∨ b.value 3 6 = none ∨ b.value 4 32 = none → (t.plk.link[n]).auth = some b ∧ (t.plk.link[n]).st = (s.plk.link[n]).st) ∧
      ∀ sb ub mac, b.value 2 8 = some sb → b.value 3 6 = some ub → b.value 4 32 = some mac →
        (t.plk.link[n]).serial = BitVec.ofNat 64 (leNat sb) ∧ (t.plk.link[n]).usage = BitVec.ofNat 48 (leNat ub) ∧
        (s.headPasses n b sb ub mac = true → (t.plk.link[n]).authResult = 1 ∧ ((s.plk.link[n]).st = .auth → (t.plk.link[n]).st = .load)) ∧
        (s.headPasses n b sb ub mac = false → a.policy ≠ 2 → (t.plk.link[n]).authResult = 3 ∧
          ((s.plk.link[n]).st = .auth → (t.plk.link[n]).st = .load)) ∧
        (s.headPasses n b sb ub mac = false → a.policy = 2 → (t.plk.link[n]).authResult = 2 ∧ (t.plk.link[n]).st = .fault ∧
          (t.plk.link[n]).refused = true)) ∧
  (∀ (s : State) (n : Fin 32), (s.plk.link[n]).auth.isSome = true → Next (.authTimeout n) s fun t =>
    (t.plk.link[n]).st = .fault ∧ (t.plk.link[n]).cause = 11 ∧ (t.plk.link[n]).authResult = 4) ∧
  (∀ (s : State) (n : Fin 32) (u : Upload) (us : List Upload), (s.plk.link[n]).uploads = u :: us → u.bank = none →
    (s.plk.link[n]).st = .load ∨ (s.plk.link[n]).st = .run → Next (.cfgBankUpload n) s fun t =>
      let b := if (s.plk.link[n]).st = .load then false else !(s.plk.link[n]).vtab
      (t.plk.link[n]).uploads = { u with bank := some b, bytes := s.uploadBytes n u.who } :: us ∧
      Sent s t (.cfg n (cfgBlocks b (s.uploadBytes n u.who)))) ∧
  (∀ (b : Bool) (bs : List (Nat × Byte)), (cfgBlocks b bs).length = 2049 ∧
    (∀ a : Nat, a < 2048 → (cfgBlocks b bs)[a]? = some (BitVec.ofNat 64 (0x66 + 2 ^ 8 * (if b then 2 else 1) + 2 ^ 16 * a +
      2 ^ 32 * leNat ((List.range 4).map fun i => sparseGet 0 bs (4 * a + i))))) ∧
    (cfgBlocks b bs)[2048]? = some (BitVec.ofNat 64 (0x66 + 2 ^ 8 * 0x0F + 2 ^ 16 * b.toNat +
      2 ^ 32 * (crc32c ((List.range 8192).map fun i => sparseGet 0 bs i)).toNat))) ∧
  (∀ (s : State) (n : Fin 32) (u : Upload) (us : List Upload), (s.plk.link[n]).uploads = u :: us → u.bank.isSome = true → u.valid = false →
    Next (.cfgConfirmTimeout n) s fun t => (t.plk.link[n]).st = .fault ∧ (t.plk.link[n]).cause = 10) ∧
  (∀ (s : State) (n : Fin 32) (w : BitVec 56), s.twn.role = .single → Next (.statusRx n (w ++ (0x99 : BitVec 8))) s fun t =>
    (∀ u us b, (s.plk.link[n]).st = .load → (s.plk.link[n]).uploads = u :: us → u.who = .load → u.bank = some b → u.valid = false →
      bankFlag (w.extractLsb' 0 8) b = true → (t.plk.link[n]).st = .run) ∧
    ((s.plk.link[n]).st = .run → (t.plk.link[n]).flags = w.extractLsb' 0 8 ∧ (t.plk.link[n]).epoch = w.extractLsb' 24 16 ∧
      if w.getLsbD 0 = true then (t.plk.link[n]).st = .run else (t.plk.link[n]).st = .fault ∧ (t.plk.link[n]).cause = 8)) ∧
  (∀ (s : State) (n : Fin 32), (s.plk.link[n]).st = .run → Next (.statusTimeout n) s fun t => (t.plk.link[n]).st = .fault ∧ (t.plk.link[n]).cause = 8) ∧
  (∀ (s : State) (n : Fin 32) (id : BitVec 8) (turn r1 : BitVec 24) (at_ : BitVec 52) (dep gone : Nat) (c : Caps) (e : Int) (rt : List Int),
    (s.plk.link[n]).echoes.find? (fun e => decide (e.1 = id)) = some (id, dep) → gone = (at_.toNat + 2 ^ 52 - dep % 2 ^ 52) % 2 ^ 52 →
    gone ≤ 128000 → (s.plk.link[n]).caps = some c → (s.plk.link[n]).st = .run →
    e = signed 24 (unsigned 24 ((r1.toNat : Int) - (dep + (s.plk.link[n]).dfwd : Nat))) →
    rt = (((gone : Int) - turn.toNat) :: (s.plk.link[n]).rtts).take 64 →
    let d := meanHalf (rt.take 16)
    let lat := s.linkLatency c (s.plk.link[n]).rate d
    let tl := s.linkPeriod c (s.plk.link[n]).rate lat
    Next (.echoReplyRx n id turn r1 at_) s fun t => (t.plk.link[n]).dfwd = d ∧
      ((8000 < lat ∨ ∃ p, linkPlane s.liveView n = some p ∧ s.tmin p < tl) →
        (t.plk.link[n]).st = .fault ∧ (t.plk.link[n]).cause = 6 ∧ (t.plk.link[n]).lat = (s.plk.link[n]).lat) ∧
      (lat ≤ 8000 → (∀ p, linkPlane s.liveView n = some p → tl ≤ s.tmin p) →
        (t.plk.link[n]).lat = lat ∧ (t.plk.link[n]).tlink = tl ∧
        if 64 < e.natAbs ∧ 1 ≤ (s.plk.link[n]).streak then (t.plk.link[n]).st = .fault ∧ (t.plk.link[n]).cause = 7
        else (t.plk.link[n]).st = .run)) ∧
  (∀ (s : State) (n : Fin 32) (before last : List (BitVec 2)), last.length = 64 → (s.plk.link[n]).st.locked = true →
    (16 ≤ (last.filter fun h => decide (h = 0 ∨ h = 3)).length → Next (.blockLockLoss ⟨n, before ++ last⟩) s fun t =>
      (t.plk.link[n]).st = .fault ∧ (t.plk.link[n]).cause = 3 ∧ (t.plk.link[n]).lock = false) ∧
    ((last.filter fun h => decide (h = 0 ∨ h = 3)).length < 16 → exec (.blockLockLoss ⟨n, before ++ last⟩) s = .next s)) ∧
  (∀ (s : State) (n : Fin 32), s.calm → (s.plk.link[n]).st = .fault → (s.plk.link[n]).refused = false → s.regBit (linkReg n 0) 3 = true →
    s.regBit (linkReg n 0) 0 = true → Next (.linkBackoffExpiry n) s fun t => t.rst.linkAuto.getLsbD n = true ∧ t.rst.link[n] ≠ .up ∧
      t.rst.cause.getLsbD 8 = true) ∧
  (∀ (s : State) (n : Fin 32), s.rst.linkAuto.getLsbD n = true → s.rst.linkHold.getLsbD n = false → s.rst.data = .up →
    Next (.linkResetExpiry n) s fun t => t.rst.link[n] = .up ∧ t.rst.linkAuto.getLsbD n = false ∧
      (t.linkUp n = true → (s.plk.link[n]).st = .disabled → s.regBit (linkReg n 0) 0 = true → (t.plk.link[n]).st = .t0 ∧
        (t.plk.link[n]).retrains = (s.plk.link[n]).retrains + if (s.plk.link[n]).restart then 1 else 0)) ∧
  (∀ (s : State) (n : Fin 32) (v : Word), s.takesWrite (linkReg n 0) → Next (.plkEnableWrite n v) s fun t =>
    ((s.plk.link[n]).st ≠ .run → t.regBit (linkReg n 0) 0 = v.getLsbD 0) ∧ (v.getLsbD 0 = false → (t.plk.link[n]).st = .disabled) ∧
    (v.getLsbD 0 = true → s.linkUp n = true → (s.plk.link[n]).st = .disabled → (t.plk.link[n]).st = .t0)) ∧
  (∀ (s : State) (ring : Fin 16) (f : Flight) (n : Fin 32), s.starts ring f → f.e.op = 0x71 → n = Fin.ofNat 32 f.e.sub.toNat →
    (s.linkRefusal n = none → s.blkUp .plk = true →
      (f.e.num 0 = 0 → (s.plk.link[n]).st = .disabled → s.linkUp n = true → Next (.linkCtrlTrain ring) s fun t => Completes s t f stOk 0 ∧
        (t.plk.link[n]).st = .t0 ∧ t.regBit (linkReg n 0) 0 = true) ∧
      (f.e.num 0 = 1 → (s.plk.link[n]).st ≠ .disabled → (s.plk.link[n]).st ≠ .fault → Next (.linkCtrlRetrain ring) s fun t =>
        (t.plk.link[n]).st = .t0 ∧ ∀ g ∈ t.hif.flights, g.id ≠ f.id) ∧
      (f.e.num 0 = 2 → (s.plk.link[n]).st = .run → Next (.linkCtrlPrbsStart ring) s fun t =>
        (t.plk.link[n]).st = .test ∧ (t.plk.link[n]).prbsDev = 0 ∧ ∀ g ∈ t.hif.flights, g.id ≠ f.id) ∧
      (f.e.num 0 = 3 → (s.plk.link[n]).st = .test → Next (.linkCtrlPrbsStop ring) s fun t =>
        (t.plk.link[n]).st = .echo ∧ Completes s t f stOk 0) ∧
      (∀ c, f.e.num 0 = 4 → (s.plk.link[n]).st = .run → (s.plk.link[n]).caps = some c → c.auth = true → s.authPolicy n ≠ 0 →
        Next (.linkCtrlAuthenticate ring) s fun t => (t.plk.link[n]).st = .run ∧ (t.plk.link[n]).auth.isSome = true ∧ Completes s t f stOk 0) ∧
      (∀ c, f.e.num 0 = 4 → (s.plk.link[n]).st = .run → (s.plk.link[n]).caps = some c → c.auth = true → s.authPolicy n = 0 →
        Next (.linkCtrlAuthenticate ring) s fun t => t.plk = s.plk ∧ Completes s t f stOk 0) ∧
      ((s.plk.link[n]).st = .fault → s.calm → ∀ c, (c = .linkCtrlTrain ring ∧ f.e.num 0 = 0 ∨ c = .linkCtrlRetrain ring ∧ f.e.num 0 = 1) →
        Next c s fun t => t.rst.linkAuto.getLsbD n = true ∧ t.rst.link[n] ≠ .up ∧ ∀ g ∈ t.hif.flights, g.id ≠ f.id)) ∧
    (f.e.num 0 = 5 → Next (.linkCtrlDisable ring) s fun t => (t.plk.link[n]).st = .disabled ∧
      ((s.plk.link[n]).st ≠ .run → t.regBit (linkReg n 0) 0 = false) ∧
      ∀ g ∈ t.hif.flights, g.id ≠ f.id) ∧
    ∀ (c : Instr) (k : Nat) (r : Nat), f.e.num 0 = k →
      (c = .linkCtrlTrain ring ∧ k = 0 ∨ c = .linkCtrlRetrain ring ∧ k = 1 ∨ c = .linkCtrlPrbsStart ring ∧ k = 2 ∨
        c = .linkCtrlPrbsStop ring ∧ k = 3 ∨ c = .linkCtrlAuthenticate ring ∧ k = 4) →
      (s.linkRefusal n = some r ∨ s.linkRefusal n = none ∧ s.blkUp .plk = true ∧ (r = 0x11 ∧ (k = 0 ∧ (s.plk.link[n]).st = .run ∨
        k = 1 ∧ (s.plk.link[n]).st = .disabled ∨ (k = 2 ∨ k = 4) ∧ (s.plk.link[n]).st ≠ .run ∨ k = 3 ∧ (s.plk.link[n]).st ≠ .test) ∨
        r = 0x13 ∧ k = 4 ∧ (s.plk.link[n]).st = .run ∧ ∀ x, (s.plk.link[n]).caps = some x → x.auth = false)) →
      Next c s fun t => Completes s t f stFwRefused r ∧ t.plk = s.plk)

/-- LOCK OPEN of an APPLIED or REJECTED chamber empties and opens it, of another completes as LOCK_STATE. A write of SDATA appends the entry to an OPEN chamber, or sets BAD_REG for an offset that holds no ST register or a 65th offset, and changes nothing else. CHECK and ARM wait on an OPEN chamber, else complete as LOCK_STATE; with no copy pending the oldest makes the chamber CHECKING. With no loop change waiting, a failed check rejects the chamber with the code and the asker is answered; a passed CHECK leaves it OPEN and CHECKED; a passed ARM of kind 2, or of kind 0 on a firing plane, is ARMED; that of a ring lock is held, the initiator having sent LOCK_ARM, a participant its reply. DISCARD empties and rejects with DISCARDED a chamber whose contents SCR has not used, does nothing to one that is free, else completes as LOCK_STATE. Where a clause rests on a reading of the model's own, log entries 27, 28, 132, 133, 163, 166 say so. -/
def Obligations.ChambersFillAndAreChecked : Prop :=
  (∀ (s : State) (n : Fin 16) (f : Flight) (k : Fin 4), s.starts n f → f.e.op = 0x50 → k = f.e.chamber → (∀ b ∈ f.e.blocks, s.blkUp b = true) →
    (bitsOf f.e.sub.toNat 4 4 = 1 → Next (.lockOpen n) s fun t =>
      if (s.lck.ch[k]).st = .applied ∨ (s.lck.ch[k]).st = .rejected then
        Completes s t f stOk 0 ∧ (t.lck.ch[k]).st = .open_ ∧ (t.lck.ch[k]).entries = [] ∧ (t.lck.ch[k]).units = [] ∧
          (t.lck.ch[k]).checked = false ∧ (t.lck.ch[k]).code = 0
      else Completes s t f stLockState 0 ∧ t.lck = s.lck) ∧
    (∀ c, (c = .lockCheck n ∧ bitsOf f.e.sub.toNat 4 4 = 2 ∨ c = .lockArm n ∧ bitsOf f.e.sub.toNat 4 4 = 3) → Next c s fun t =>
      if (s.lck.ch[k]).st = .open_ then
        Stands t f .waiting ∧ (t.lck.ch[k]).st = .open_ ∧ (t.lck.ch[k]).waiting = (s.lck.ch[k]).waiting ++
          [if bitsOf f.e.sub.toNat 4 4 = 2 then ⟨.entry f.id, false, 0, 0, 0, false⟩ else
            ⟨.entry f.id, true, f.e.num 0 % 16, Fin.ofNat 8 (bitsOf (f.e.num 0) 4 3), f.e.num 1, (f.e.a[2]).getLsbD 0⟩]
      else Completes s t f stLockState 0 ∧ t.lck = s.lck) ∧
    (bitsOf f.e.sub.toNat 4 4 = 4 → Next (.lockDiscard n) s fun t =>
      ((s.lck.ch[k]).st = .applied ∨ (s.lck.ch[k]).st = .rejected → Completes s t f stOk 0 ∧ t.lck = s.lck) ∧
      ((s.lck.ch[k]).free = false → (s.lck.ch[k]).used = true → Completes s t f stLockState 0 ∧ t.lck = s.lck) ∧
      ((s.lck.ch[k]).free = false → (s.lck.ch[k]).used = false → s.lop.waiting = [] → (t.lck.ch[k]).st = .rejected ∧
        (t.lck.ch[k]).code = 0x13 ∧ (t.lck.ch[k]).units = [] ∧ (t.lck.ch[k]).entries = [] ∧ (t.lck.ch[k]).waiting = [] ∧
        ∀ g ∈ t.hif.flights, g.id ≠ f.id))) ∧
  (∀ (s : State) (k : Fin 4) (v : Word) (o : Nat), s.takesWrite (0x260108 + 0x20 * k.val) → o = s.regField (0x260104 + 0x20 * k.val) 2 22 * 4 →
    Next (.lckSdataWrite k v) s fun t => t.regs = s.regs ∧ t.tables = s.tables ∧
      ((s.lck.ch[k]).st ≠ .open_ → t.lck = s.lck) ∧
      ((s.lck.ch[k]).st = .open_ → (t.lck.ch[k]).checked = false ∧ (t.lck.ch[k]).st = .open_ ∧
        if (stReg o).isNone = true ∨ ((s.lck.ch[k]).entries.any fun e => decide (e.1 = o)) = false ∧ 64 ≤ (s.lck.ch[k]).entries.length then
          (t.lck.ch[k]).badReg = true ∧ (t.lck.ch[k]).entries = (s.lck.ch[k]).entries
        else (t.lck.ch[k]).badReg = (s.lck.ch[k]).badReg ∧ (o, v) ∈ (t.lck.ch[k]).entries ∧
          ∀ e ∈ (t.lck.ch[k]).entries, e = (o, v) ∨ e ∈ (s.lck.ch[k]).entries)) ∧
  (∀ (s : State) (k : Fin 4) (a : LockAsk) (as : List LockAsk), s.blkUp .lck = true → (s.lck.ch[k]).st = .open_ → (s.lck.ch[k]).pending = 0 →
    (s.lck.ch[k]).waiting.filter s.askLives = a :: as → Next (.chamberCheckStart k) s fun t =>
      (t.lck.ch[k]).st = .checking ∧ (t.lck.ch[k]).ask = some a ∧ (t.lck.ch[k]).waiting = as) ∧
  (∀ (s : State) (k : Fin 4) (a : LockAsk) (code : Nat), s.blkUp .lck = true → (s.lck.ch[k]).st = .checking → (s.lck.ch[k]).ask = some a →
    code = s.checkCode k s.lck.ch[k] a → Next (.chamberCheckEnd k) s fun t =>
      (code ≠ 0 → s.lop.waiting = [] → (t.lck.ch[k]).st = .rejected ∧ (t.lck.ch[k]).code = BitVec.ofNat 5 code ∧
        ∀ id, a.who = .entry id → ∀ g ∈ t.hif.flights, g.id ≠ id) ∧
      (code = 0 → a.arm = false → (t.lck.ch[k]).st = .open_ ∧ (t.lck.ch[k]).checked = true ∧ (t.lck.ch[k]).ask = none) ∧
      (code = 0 → a.arm = true → a.ring = false → (∀ x, a.who ≠ .ring x) → (a.kind = 2 ∨ a.kind = 0 ∧ (s.fir.plane[a.plane]).firing = true) →
        (t.lck.ch[k]).st = .armed ∧ (t.lck.ch[k]).held = false ∧ (t.lck.ch[k]).regsDone = false) ∧
      (code = 0 → a.arm = true → a.ring = true → (∀ x, a.who ≠ .ring x) → s.participants ≠ [] → s.blkUp .urg = true →
        (t.lck.ch[k]).st = .armed ∧ (t.lck.ch[k]).held = true ∧
        ∃ at_, Sent s t (.ring 0x18 s.urg.seq (.lockArm s.group k a.kind a.plane at_))) ∧
      (∀ x, code = 0 → a.arm = true → a.who = .ring x → s.blkUp .urg = true → (t.lck.ch[k]).st = .armed ∧ (t.lck.ch[k]).held = true ∧
        Sent s t (.ring 0x19 s.urg.seq (.lockReply x k true))))

/-- When the instant of an ARMED chamber of kind 0 or 2 comes, each FIR or POS register of its contents reads the entry's value; when its copy is done, each staged unit reads live, and with its registers done, no ring lock and no loop change waiting it is APPLIED and the entry that armed it has left. A participant takes LOCK_ARM into an OPEN chamber and refuses otherwise; a refusal or a missing reply rejects the initiator's chamber with PEER and sends ABORT, a reply that leaves others outstanding waits on, and the last in time sends COMMIT. COMMIT releases a held chamber of kind 2 whose instant is ahead, and rejects one whose instant has passed; ABORT rejects it with PEER. The last outcome ends the lock: OK where every participant has applied, else LOCK_REJECTED with PEER. Where a clause rests on a reading of the model's own, log entries 29, 70, 76, 112, 163 say so. -/
def Obligations.ChambersApplyAndRingLocksEnd : Prop :=
  (∀ (s u : State) (k : Fin 4) (at_ : Nat) (a : LockAsk), u = s.advance at_ → u.blkUp .lck = true → (u.lck.ch[k]).st = .armed →
    (u.lck.ch[k]).ask = some a → (u.lck.ch[k]).held = false → (u.lck.ch[k]).regsDone = false → a.kind = 0 ∨ a.kind = 2 →
    u.instantReached a = true → risingKeys (u.lck.ch[k]).entries = true → Next (.chamberApplyInstant k at_) s fun t =>
      (∀ e ∈ (u.lck.ch[k]).entries, inCtrl e.1 = true → t.reg e.1 = e.2) ∧
      ((u.lck.ch[k]).banks = [] → (u.lck.ch[k]).copying = false → (u.lck.ch[k]).noCopy = false →
        (t.lck.ch[k]).st = .armed ∧ (t.lck.ch[k]).copying = true ∧ (t.lck.ch[k]).regsDone = true)) ∧
  (∀ (s : State) (k : Fin 4) (a : LockAsk), s.blkUp .lck = true → (s.lck.ch[k]).st = .armed → (s.lck.ch[k]).ask = some a →
    (s.lck.ch[k]).copying = true → (s.lck.ch[k]).copied = false → a.kind = 0 ∨ a.kind = 2 → risingKeys (s.lck.ch[k]).units = true →
    Next (.chamberApplyCopyDone k) s fun t =>
      (∀ x ∈ (s.lck.ch[k]).units, unitTable x.1 < 0x0020 → ∀ i < 64, t.tableByte (64 * x.1 + i) = x.2.extractLsb' (8 * i) 8) ∧
      ((s.lck.ch[k]).held = false → (s.lck.ch[k]).regsDone = true → (s.lck.ch[k]).ring = none → s.lop.waiting = [] →
        (t.lck.ch[k]).st = .applied ∧ ∀ id, a.who = .entry id → ∀ g ∈ t.hif.flights, g.id ≠ id)) ∧
  (∀ (s : State) (x : BitVec 10) (k kind : Fin 4) (p : Fin 8) (v : BitVec 64), s.blkUp .urg = true → s.blkUp .lck = true → x ≠ s.node →
    s.regBit 0x260000 0 = true → Next (.lockArmRx x s.group k kind p v) s fun t =>
      if (s.lck.ch[k]).st = .open_ then (t.lck.ch[k]).st = .open_ ∧
        (t.lck.ch[k]).waiting = (s.lck.ch[k]).waiting ++ [⟨.ring x, true, kind.val, p, v.toNat, false⟩]
      else Sent s t (.ring 0x19 s.urg.seq (.lockReply x k false)) ∧ t.lck = s.lck) ∧
  (∀ (s : State) (x : BitVec 10) (k : Fin 4) (r : RingLock), s.blkUp .urg = true → s.blkUp .lck = true → (s.lck.ch[k]).ring = some r →
    r.committed = false → x ∈ r.waiting →
    (s.lop.waiting = [] → Next (.lockReplyRx x k false) s fun t => (t.lck.ch[k]).st = .rejected ∧ (t.lck.ch[k]).code = 0x11 ∧
      Sent s t (.ring 0x1B s.urg.seq (.lockAbort s.group k))) ∧
    ((∃ y ∈ r.waiting, y ≠ x) → Next (.lockReplyRx x k true) s fun t =>
      (t.lck.ch[k]).ring = some { r with waiting := r.waiting.filter fun n => decide (n ≠ x) } ∧ (t.lck.ch[k]).st = (s.lck.ch[k]).st) ∧
    (∀ a, (∀ y ∈ r.waiting, y = x) → (s.lck.ch[k]).ask = some a →
      (if a.kind = 2 then s.timeNs + 1000 * s.regField 0x260000 16 16 ≤ a.at_
        else s.fireLine a.plane + s.regField 0x260000 16 16 ≤ a.at_) → Next (.lockReplyRx x k true) s fun t =>
      Sent s t (.ring 0x1A s.urg.seq (.lockCommit s.group k)))) ∧
  (∀ (s : State) (k : Fin 4) (r : RingLock), s.blkUp .urg = true → s.blkUp .lck = true → (s.lck.ch[k]).ring = some r → r.committed = false →
    s.lop.waiting = [] → Next (.ringLockWaitTimeout k) s fun t => (t.lck.ch[k]).st = .rejected ∧ (t.lck.ch[k]).code = 0x11 ∧
      Sent s t (.ring 0x1B s.urg.seq (.lockAbort s.group k))) ∧
  (∀ (s : State) (x : BitVec 10) (k : Fin 4) (a : LockAsk), s.blkUp .urg = true → s.blkUp .lck = true → (s.lck.ch[k]).st = .armed →
    (s.lck.ch[k]).held = true → (s.lck.ch[k]).ask = some a → a.who = .ring x → Next (.lockCommitRx x k) s fun t =>
      (s.instantPassed s.lck.ch[k] a false = true → s.lop.waiting = [] → (t.lck.ch[k]).st = .rejected ∧ (t.lck.ch[k]).code = 0x0D) ∧
      (s.instantPassed s.lck.ch[k] a false = false → a.kind = 2 → (t.lck.ch[k]).st = .armed ∧ (t.lck.ch[k]).held = false)) ∧
  (∀ (s : State) (x : BitVec 10) (k : Fin 4) (a : LockAsk), s.blkUp .urg = true → s.blkUp .lck = true → Next (.lockAbortRx x k) s fun t =>
    ((s.lck.ch[k]).held = true → (s.lck.ch[k]).ask = some a → a.who = .ring x → s.lop.waiting = [] →
      (t.lck.ch[k]).st = .rejected ∧ (t.lck.ch[k]).code = 0x11) ∧
    ((s.lck.ch[k]).ask = none → (∀ w ∈ (t.lck.ch[k]).waiting, w.who ≠ .ring x) ∧ (t.lck.ch[k]).st = (s.lck.ch[k]).st)) ∧
  (∀ (s : State) (x : BitVec 10) (k : Fin 4) (r : RingLock) (f : Flight) (ok : Bool), s.blkUp .urg = true → s.blkUp .lck = true → s.numbered →
    (s.lck.ch[k]).ended = [r] → r.outcomes = [x] → r.ask.who = .entry f.id → f ∈ s.hif.flights → Next (.lockOutcomeRx x k ok) s fun t =>
      (t.lck.ch[k]).ended = [] ∧
      Completes s t f (if r.failed = false ∧ ok = true then stOk else stLockRejected) (if r.failed = false ∧ ok = true then 0 else 0x11))

/-- On a port that takes packets: an uncorrectable header counts in ECC_BAD; a packet with VCX, or for a context that is off, counts in DISCARD, as does a long packet with another data type or without an open frame. A Frame Start opens a frame with its number, closing an open one with NO_FE. A Frame End, and the timeout with NO_FE, close the frame; in native mode the lines short of HEIGHT follow as missing lines and make it SHORT. A long packet is one line of whole groups: in native mode with its CRC and pixel count checked, cut at HEIGHT; in compatibility mode a CRC error marks the frame and its later lines; a buffer that holds at most 1 MiB goes on to. Clearing PORT_EN or a context's ENABLE closes its open frames. Where a clause rests on a reading of the model's own, log entries 42, 98, 99, 111 say so. -/
def Obligations.CameraFramesAndLinesAreReceived : Prop :=
  (∀ (s : State) (p v : Fin 4) (x : Bool) (dt : BitVec 6) (bs : List Byte) (ok : Bool) (e : EccOutcome) (k : BitVec 16) (i : Instr), s.portTakes p = true →
    (i = .csiFrameStart p v x e k ∨ i = .csiFrameEnd p v x e ∨ i = .csiLongPacket p v x e dt bs ok) → Next i s fun t =>
      (e = .uncorrectable → (t.cam.port[p]).eccBad = satInc (s.cam.port[p]).eccBad ∧ (t.cam.port[p]).lines = (s.cam.port[p]).lines ∧
        (t.cam.ctx[ctxOf p v]).frames = (s.cam.ctx[ctxOf p v]).frames) ∧
      (e = .clean → x = true ∨ s.ctxOn (ctxOf p v) = false → t.cam = { s.cam with
        port := modAt s.cam.port p fun y => { y with discard := satInc y.discard } }) ∧
      (e = .clean → i = .csiLongPacket p v x e dt bs ok → (s.camDt (ctxOf p v) ≠ dt.toNat ∨ (s.cam.ctx[ctxOf p v]).frame = none) →
        t.cam = { s.cam with port := modAt s.cam.port p fun y => { y with discard := satInc y.discard } })) ∧
  (∀ (s : State) (p v : Fin 4) (c : Fin 16) (k : BitVec 16), c = ctxOf p v → s.portTakes p = true → s.ctxOn c = true →
    Next (.csiFrameStart p v false .clean k) s fun t => (t.cam.ctx[c]).frame = some ⟨k, 0, false, false, false⟩ ∧
      (t.cam.ctx[c]).frames = (s.cam.ctx[c]).frames + 1 ∧
      ∀ f, (s.cam.ctx[c]).frame = some f → (t.cam.ctx[c]).number = f.number ∧ (t.cam.ctx[c]).flags.getLsbD 2 = true) ∧
  (∀ (s : State) (p v : Fin 4) (c : Fin 16) (f : CamFrame) (i : Instr) (m : Nat), c = ctxOf p v → (s.cam.ctx[c]).frame = some f →
    (i = .csiFrameEnd p v false .clean ∧ s.portTakes p = true ∧ s.ctxOn c = true ∨ i = .frameEndTimeout c ∧ s.blkUp .cam = true) →
    m = (if s.compat c then 0 else s.camHeight c - f.lines) → Next i s fun t =>
      (t.cam.ctx[c]).frame = none ∧ (t.cam.ctx[c]).number = f.number ∧
      ((t.cam.ctx[c]).flags.getLsbD 2 = true ↔ i = .frameEndTimeout c) ∧ ((t.cam.ctx[c]).flags.getLsbD 0 = true ↔ m ≠ 0) ∧
      (t.cam.ctx[c]).short = (s.cam.ctx[c]).short + (if m = 0 then 0 else 1) ∧
      (t.cam.port[p]).lines = (s.cam.port[p]).lines ++ (List.range m).map fun j => ⟨c, .missing, [], false, false, f.number, f.lines + j⟩) ∧
  (∀ (s : State) (p v : Fin 4) (c : Fin 16) (dt : BitVec 6) (bs : List Byte) (ok : Bool) (f : CamFrame) (gb gp per : Nat) (whole : List Byte),
    c = ctxOf p v → s.portTakes p = true → s.ctxOn c = true → s.camDt c = dt.toNat → (s.cam.ctx[c]).frame = some f →
    s.camGroup c = (gb, gp, per) → whole = bs.take (bs.length / gb * gb) → Next (.csiLongPacket p v false .clean dt bs ok) s fun t =>
      ((s.cam.port[p]).used ≤ 0x100000 → (t.cam.port[p]).used ≤ 0x100000) ∧
      (s.compat c = false → s.camHeight c ≤ f.lines → (t.cam.ctx[c]).cutLines = satInc (s.cam.ctx[c]).cutLines ∧
        (t.cam.ctx[c]).frame = some { f with lines := f.lines + 1, long := true } ∧
        (t.cam.port[p]).lines = (s.cam.port[p]).lines ++ [⟨c, .long, [], false, false, f.number, f.lines⟩]) ∧
      ((s.cam.port[p]).used + whole.length ≤ 0x100000 → s.compat c = false → f.lines < s.camHeight c →
        (t.cam.ctx[c]).frame = some { f with lines := f.lines + 1 } ∧
        (t.cam.ctx[c]).crc = (if ok then (s.cam.ctx[c]).crc else satInc (s.cam.ctx[c]).crc) ∧
        (t.cam.ctx[c]).padded = (if whole.length / gb * gp = s.camWidth c then (s.cam.ctx[c]).padded else satInc (s.cam.ctx[c]).padded) ∧
        (t.cam.port[p]).lines = (s.cam.port[p]).lines ++ [⟨c, .received, whole, !ok, false, f.number, f.lines⟩]) ∧
      ((s.cam.port[p]).used + whole.length ≤ 0x100000 → s.compat c = true →
        (t.cam.ctx[c]).frame = some { f with lines := f.lines + 1, marked := f.marked || !ok } ∧
        (t.cam.port[p]).lines = (s.cam.port[p]).lines ++ [⟨c, .received, whole, !ok, f.marked || !ok, f.number, f.lines⟩])) ∧
  (∀ (s : State) (v : Word), s.takesWrite 0x200000 → Next (.camPortEnWrite v) s fun t =>
    (s.rst.csiOff = false → t.regField 0x200000 0 4 = bitsOf v.toNat 0 4) ∧
    ∀ c : Fin 16, s.regBit 0x200000 (c.val / 4) = true → v.getLsbD (c.val / 4) = false → (t.cam.ctx[c]).frame = none) ∧
  (∀ (s : State) (c : Fin 16) (v : Word), s.takesWrite (ctxReg c 0) → Next (.camContextEnableWrite c v) s fun t =>
    t.regBit (ctxReg c 0) 0 = v.getLsbD 0 ∧
    (s.regBit (ctxReg c 0) 0 = true → v.getLsbD 0 = false → (t.cam.ctx[c]).frame = none) ∧
    (s.regBit (ctxReg c 0) 0 = false → v.getLsbD 0 = true → (t.cam.ctx[c]).s1 = none ∧ (t.cam.ctx[c]).s3Lines = 0))

/-- A position trigger, while TIME_CLK runs, at a new grid point of a plane with origin, FWD and VALID speed pulses away from IDLE (a ball taken over from its pull-up drives high first), SEQ rises, and every enabled context with room that names the output has one more record, VALID, tagged floor(P_q - DIST) at the grid point; within max(1 microsecond, 2 WIDTH) of the last pulse it is skipped and counted; without origin or speed nothing happens. The end of the pulse restores IDLE. While CAM_CLK runs the stream stage takes the next line of the next port in rotation; the records older than MAXAGE_US and the oldest left are gone. Where S0 alone is on, and DMC serves the slot, the tag of R303 stands in the line's slot and WIDX has risen by one; with both rings off DRAM is unchanged. Old records expire alone too. A due CAMERA_DROP record clears the count it carries. Where a clause rests on a reading of the model's own, log entries 78, 100, 101, 165 say so. -/
def Obligations.TriggersTagTheCameraLines : Prop :=
  (∀ (s u : State) (k : Fin 4) (at_ : Nat), u = s.advance at_ → u.blkUp .cam = true → u.trigMode k = 1 →
    (u.recordValid (u.trigPlane k) = false ∨ u.clkRuns 1 = false → exec (.triggerFire k at_) s = .next u) ∧
    (u.recordValid (u.trigPlane k) = true → u.clkRuns 1 = true → (∀ g, (u.cam.trig[k]).grid = some g → g ≤ u.gridAt k) → Next (.triggerFire k at_) s fun t =>
      ((∀ l, (u.cam.trig[k]).last = some l → l + max 2000 (2 * u.trigWidth k) ≤ u.now) →
        (t.cam.trig[k]).seq = (u.cam.trig[k]).seq + 1 ∧ (t.cam.trig[k]).pulse = true ∧ (t.cam.trig[k]).last = some u.now ∧
        t.pins.camTrig[k] = (u.pins.camTrig[k]).drive u.now (!u.regBit (trigReg k 0) 2) ∧
        ∀ c : Fin 16, u.regBit (ctxReg c 0) 0 = true → u.regField (ctxReg c 0) 8 2 = k.val → (u.cam.ctx[c]).records.length < 256 →
          ∃ r, (t.cam.ctx[c]).records = (u.cam.ctx[c]).records ++ [r] ∧ r.seq = (u.cam.trig[k]).seq ∧ r.valid = true ∧ r.at_ = u.now ∧
            r.time = u.timeNs ∧ r.tag = (u.gridAt k - u.regSigned (ctxReg c 12)) / 65536) ∧
      ((∃ l, (u.cam.trig[k]).last = some l ∧ u.now < l + max 2000 (2 * u.trigWidth k)) →
        (t.cam.trig[k]).skip = satInc (u.cam.trig[k]).skip ∧ (t.cam.trig[k]).seq = (u.cam.trig[k]).seq ∧ t.cam.ctx = u.cam.ctx ∧ t.pins = u.pins))) ∧
  (∀ (s : State) (k : Fin 4), (s.cam.trig[k]).pulse = true → Next (.triggerPulseEnd k) s fun t => (t.cam.trig[k]).pulse = false ∧
    t.pins.camTrig[k] = (s.pins.camTrig[k]).drive s.now (s.regBit (trigReg k 0) 2)) ∧
  (∀ (s u : State) (c : Fin 16) (at_ : Nat), u = s.advance at_ → u.blkUp .cam = true → Next (.triggerRecordExpire c at_) s fun t =>
    (t.cam.ctx[c]).records = (u.cam.ctx[c]).records.filter fun r => decide (u.now ≤ r.at_ + u.maxAge c)) ∧
  (∀ (s u : State) (p : Fin 4) (l : CamLine) (at_ : Nat) (rs : List TrigRecord), u = s.advance at_ → u.blkUp .cam = true → u.clkRuns 5 = true →
    (rotation u.cam.lastPort).find? (fun p => !(u.cam.port[p]).lines.isEmpty) = some p → (u.cam.port[p]).next = some l →
    rs = (u.cam.ctx[l.ctx]).records.filter (fun r => decide (u.now ≤ r.at_ + u.maxAge l.ctx)) → Next (.streamStageTake at_) s fun t =>
      t.cam.lastPort = p ∧ (t.cam.port[p]).lines = (u.cam.port[p]).lines.erase l ∧ (t.cam.ctx[l.ctx]).records = rs.tail ∧
      (u.camRingOn l.ctx 0x44 = false →
        (u.camRingOn l.ctx 0x24 = false ∨ l.kind = .long → t.dram = u.dram) ∧
        ∀ (a stride : Nat), stride = slotStride ((u.cropOf l.ctx 0x20).2 / 8 * 8 / (u.camGroup l.ctx).2.1 * (u.camGroup l.ctx).1) →
          a = (u.regField (ctxReg l.ctx 0x24) 12 20 * 4096 + u.regField (ctxReg l.ctx 0x28) 0 4 * 2 ^ 32 +
            (u.cam.ctx[l.ctx]).s0.toNat % ringSlotsOf (u.regField (ctxReg l.ctx 0x2C) 0 5) * stride) % 2 ^ 36 →
          u.camRingOn l.ctx 0x24 = true → (u.cropOf l.ctx 0x20).2 ≠ 0 → l.kind = .received →
          (t.cam.ctx[l.ctx]).s0 = (u.cam.ctx[l.ctx]).s0 + 1 ∧ (u.blkUp .dmc = true → u.unserved a = false → u.rgnAdmits 5 a = true →
            ∃ free n, ∀ i < 32, t.dramByte (a + i) = (lineTag rs.head? free (u.emitted l).2 l n).getD i 0))) ∧
  (∀ (s u : State) (c : Fin 16) (at_ : Nat), u = s.advance at_ → u.blkUp .cam = true → (u.cam.ctx[c]).unreported ≠ 0 →
    (∀ x, (u.cam.ctx[c]).reported = some x → x + 2000000 ≤ u.now) → Next (.cameraDropRecord c at_) s fun t =>
      (t.cam.ctx[c]).unreported = 0 ∧ (t.cam.ctx[c]).reported = some u.now ∧ (t.cam.ctx[c]).dropped = (u.cam.ctx[c]).dropped)

/-- A SERVICE_BAND that R314 admits is recorded while fewer than 64 bands are held, else waits for a slot; any other is BAD_ENTRY. The oldest band its cameras have passed is measured or discarded with its reason; one unmeasured 10 s after W_p passed it is discarded. LOOP_CTRL run puts the loop of each plane in RUN, from OFF with its baseline taken and integrals 0; freeze freezes those in RUN, and its waiting change leaves that plane alone; zero takes the baseline anew and, for density, every target from its live gain, the state staying; a refused one changes no loop. A collation cycle uses up the marks, and gives each plane in RUN but REF, on a device that does not stand by, its errors against REF. A change that has waited 1 s is dropped. A density target stays within LIMIT and STEP, its integral following; a collation value stays within its step and total; a glide step moves toward the target, never past it. Where a clause rests on a reading of the model's own, log entries 77, 102, 103, 104, 105, 106, 107, 108, 110, 166, 176 say so. -/
def Obligations.BandsAndLoopsRunWithinTheirLimits : Prop :=
  (∀ (s : State) (n : Fin 16) (f : Flight), s.starts n f → f.e.op = 0x62 → (∀ b ∈ f.e.blocks, s.blkUp b = true) →
    Next (.serviceBand n) s fun t =>
      (s.bandGood (s.bandOf f.e) = false → Completes s t f stBadEntry 0 ∧ t.lop = s.lop) ∧
      (s.bandGood (s.bandOf f.e) = true → 64 ≤ s.lop.bands.length → Stands t f .waiting ∧ t.lop = s.lop) ∧
      (s.bandGood (s.bandOf f.e) = true → s.lop.bands.length < 64 →
        Completes s t f stOk 0 ∧ t.lop = { s.lop with bands := s.lop.bands ++ [s.bandOf f.e] })) ∧
  (∀ (s : State) (n : Fin 16) (f : Flight), s.numbered → s.lop.bands.length < 64 → s.bandGood (s.bandOf f.e) = true →
    s.hif.flights.find? (fun f => decide (f.ring = n ∧ f.e.op = 0x62 ∧ f.phase = .waiting)) = some f → Next (.serviceBandAdmit n) s fun t =>
      Completes s t f stOk 0 ∧ t.lop = { s.lop with bands := s.lop.bands ++ [s.bandOf f.e] }) ∧
  (∀ (s : State) (b : Band), s.bandGood b = true → (b.kind = 1 ∨ b.kind = 2) ∧ b.count ≠ 0 ∧ b.mask ≠ 0 ∧ b.least ≤ b.count ∧
    ∀ p ∈ planesOf b.mask, s.planePrints p = true ∧ s.printedLine p < b.first) ∧
  (∀ (s : State) (n : Fin 16) (f : Flight) (loop : Nat), s.starts n f → f.e.op = 0x70 → loop = f.e.sub.toNat → (∀ b ∈ f.e.blocks, s.blkUp b = true) →
    let ps := planesOf (f.e.a[0].extractLsb' 8 8)
    (∀ (r k : Nat) (c : Instr), s.loopRefusal loop ps = some r → f.e.num 0 % 256 = k →
      (c = .loopCtrlRun n ∧ k = 0 ∨ c = .loopCtrlFreeze n ∧ k = 1 ∨ c = .loopCtrlZero n ∧ k = 2) →
      Next c s fun t => Completes s t f stFwRefused r ∧ t.lop = s.lop) ∧
    (s.loopRefusal loop ps = none →
      (f.e.num 0 % 256 = 0 → Next (.loopCtrlRun n) s fun t => (∀ g ∈ t.hif.flights, g.id ≠ f.id) ∧ ∀ p ∈ ps,
        (t.lop.plane[p]).phase loop = .run ∧
        ((s.lop.plane[p]).phase loop = .off → loop = 0 → (t.lop.plane[p]).base = s.gainsOf p ∧ (t.lop.plane[p]).integral = []) ∧
        ((s.lop.plane[p]).phase loop = .frozen → (t.lop.plane[p]).base = (s.lop.plane[p]).base ∧ (t.lop.plane[p]).integral = (s.lop.plane[p]).integral)) ∧
      (f.e.num 0 % 256 = 1 → Next (.loopCtrlFreeze n) s fun t => (∀ g ∈ t.hif.flights, g.id ≠ f.id) ∧ ∀ p ∈ ps,
        ((t.lop.plane[p]).phase loop = if (s.lop.plane[p]).phase loop = .run then .frozen else (s.lop.plane[p]).phase loop) ∧
        ((s.lop.plane[p]).phase loop = .run → ∀ a ∈ t.lop.waiting, a.loop = loop → a.planes.getLsbD p.val = false)) ∧
      (f.e.num 0 % 256 = 2 → Next (.loopCtrlZero n) s fun t => (∀ g ∈ t.hif.flights, g.id ≠ f.id) ∧ ∀ p ∈ ps,
        (t.lop.plane[p]).phase loop = (s.lop.plane[p]).phase loop ∧
        (loop = 0 → (t.lop.plane[p]).integral = [] ∧ (s.wf → ∀ c < 32768, t.targetOf (32768 * p.val + c) = s.gainOf (32768 * p.val + c)))))) ∧
  (∀ (s : State) (b : Band), s.blkUp .lop = true → s.lop.bands.find? s.bandPassed = some b → Next .bandMeasure s fun t =>
    t.lop.bands = s.lop.bands.erase b ∧
    (t.lop.missed, t.lop.done) = if s.bandReason b = none then (s.lop.missed, s.lop.done + 1) else (s.lop.missed + 1, s.lop.done)) ∧
  (∀ (s u : State) (b : Band) (at_ : Nat), u = s.advance at_ →
    u.lop.bands.find? (fun b => match b.passedAt with | some x => decide (x + 20000000000 ≤ u.now) | none => false) = some b →
    Next (.bandMissedTimeout at_) s fun t => t.lop.bands = u.lop.bands.erase b ∧ t.lop.missed = u.lop.missed + 1) ∧
  (∀ s : State, s.blkUp .lop = true → Next .collationCycle s fun t => t.lop.marks = [] ∧ t.lop.later = [] ∧
    (s.lop.later = [] → ∀ p : Fin 8,
      ((s.lop.plane[p]).coll ≠ .run ∨ s.standsBy = true ∨ p = s.refPlane ∨ s.lop.marks = [] →
        (t.lop.plane[p]).errY = (s.lop.plane[p]).errY ∧ (t.lop.plane[p]).errX = (s.lop.plane[p]).errX) ∧
      (∀ a b c d, (s.lop.plane[p]).coll = .run → s.standsBy = false → p ≠ s.refPlane → meanOf s.lop.marks p Mark.ey = some a →
        meanOf s.lop.marks s.refPlane Mark.ey = some b → meanOf s.lop.marks p Mark.ex = some c → meanOf s.lop.marks s.refPlane Mark.ex = some d →
        (t.lop.plane[p]).errY = (a.sub b).round ∧ (t.lop.plane[p]).errX = (c.sub d).round))) ∧
  (∀ (s : State) (loop : Fin 3) (a : LoopApply), s.lop.waiting.find? (fun a => decide (a.loop = loop.val)) = some a →
    Next (.chamberBusyTimeout loop) s fun t => t.lop = { s.lop with waiting := s.lop.waiting.erase a } ∧ t.lck = s.lck) ∧
  (∀ (s : State) (p : Fin 8) (c : Nat) (e : Frac),
    let t := (s.nextTarget p c e).1
    let lim : Int := max 1 (s.regField 0x240050 16 7)
    t ≤ lim ∧ -lim ≤ t ∧ (s.nextTarget p c e).2.1 = t - (sparseGet (0 : Byte) (s.lop.plane[p]).base c).toInt ∧
    ((s.targetOf (32768 * p.val + c)).toInt.natAbs ≤ lim.toNat →
      (t - (s.targetOf (32768 * p.val + c)).toInt).natAbs ≤ max 1 (s.regField 0x240050 8 4))) ∧
  (∀ old base change step total : Int, 0 ≤ step → 0 ≤ total →
    base - total ≤ (limited old base change step total).1 ∧ (limited old base change step total).1 ≤ base + total ∧
    (base - total ≤ old → old ≤ base + total → old - step ≤ (limited old base change step total).1 ∧
      (limited old base change step total).1 ≤ old + step)) ∧
  (∀ (g x : Byte) (step : Nat), min g.toInt x.toInt ≤ (glideTo g x step).toInt ∧ (glideTo g x step).toInt ≤ max g.toInt x.toInt ∧
    ((glideTo g x step).toInt - g.toInt).natAbs ≤ step)

/-- With no source selected a write of TIM_RATE takes effect with t continuous; while nothing prints RATE is the written value, and while a plane prints it differs from no rate of the last 1 ms by more than 1 ppm and is the written value where that one does not either. With a source selected the write changes nothing. TIM_STEP_HI adds the step to t, or, with a source selected or a plane printing, sets STEP_REFUSED and leaves t. A write of TIM_CFG makes the timebase FREE with RATE and t kept. An update moves FREE to LOCKING; LOCKING to LOCKED on the 16th consecutive error within 100 ns; LOCKED to LOCKING on the 4th consecutive error beyond 1 us; HOLDOVER to LOCKED within 1 us and to FREE beyond; while a plane prints it never steps t. Three intervals without an update lead LOCKED to HOLDOVER; HOLD_S leads HOLDOVER to FREE, RATE kept. Where a clause rests on a reading of the model's own, log entries 64, 68, 114 say so. -/
def Obligations.TheTimebaseIsSteeredWithoutJumps : Prop :=
  (∀ (s u : State) (v : Word) (at_ : Nat), u = s.advance at_ → u.takesWrite 0x280008 →
    (u.timeSrc ≠ 0 → exec (.timRateWrite v at_) s = .next u) ∧
    (u.timeSrc = 0 → Next (.timRateWrite v at_) s fun t => t.timeFrac = u.timeFrac ∧ t.tim.state = u.tim.state ∧ t.tim.count = u.tim.count ∧
      (u.printing = false → t.tim.rate = v.toInt) ∧
      (u.printing = true → (∀ r ∈ u.recentRates, ∀ q ∈ u.recentRates, (r - q).natAbs ≤ 1099512) →
        (∀ r ∈ u.recentRates, (t.tim.rate - r).natAbs ≤ 1099512) ∧
        ((∀ r ∈ u.recentRates, (v.toInt - r).natAbs ≤ 1099512) → t.tim.rate = v.toInt)))) ∧
  (∀ (s u : State) (hi : Word) (at_ : Nat), u = s.advance at_ → u.takesWrite 0x280014 → Next (.timStepWrite hi at_) s fun t =>
    t.tim.rate = u.tim.rate ∧ t.tim.count = u.tim.count ∧
    (u.timeSrc ≠ 0 ∨ u.printing = true → t.tim.stepRefused = true ∧ t.timeFrac = u.timeFrac ∧ t.fir = u.fir) ∧
    (u.timeSrc = 0 → u.printing = false → t.timeFrac = u.timeFrac + (hi ++ u.tim.stepLo : BitVec 64).toInt * 65536 ∧
      t.tim.stepRefused = u.tim.stepRefused ∧ t.fir = { u.fir with realign := true })) ∧
  (∀ (s : State) (v : Word), s.takesWrite 0x280000 → Next (.timSrcWrite v) s fun t =>
    t.regField 0x280000 0 2 = bitsOf v.toNat 0 2 ∧ t.regField 0x280000 8 8 = bitsOf v.toNat 8 8 ∧ t.tim.state = .free ∧
    t.tim.rate = s.tim.rate ∧ t.timeFrac = s.timeFrac ∧ t.fir = s.fir) ∧
  (∀ (s : State) (e : Int), let t := s.timeUpdate e
    (s.printing = true → t.timeFrac = s.timeFrac) ∧ t.tim.count = s.tim.count ∧ t.tim.err = errReg e ∧
    (s.tim.state = .free → t.tim.state = .locking ∧ t.tim.good = 0) ∧
    (s.tim.state = .locking → e.natAbs ≤ 1600 → s.tim.good < 15 → t.tim.state = .locking ∧ t.tim.good = s.tim.good + 1) ∧
    (s.tim.state = .locking → e.natAbs ≤ 1600 → 15 ≤ s.tim.good → t.tim.state = .locked ∧ t.tim.bad = 0) ∧
    (s.tim.state = .locking → 1600 < e.natAbs → t.tim.state = .locking ∧ t.tim.good = 0) ∧
    (s.tim.state = .locking → 16000 < e.natAbs → s.printing = false → t.timeFrac = s.timeFrac + e * 4096 ∧ t.tim.rate = s.tim.rate) ∧
    (s.tim.state = .locked → e.natAbs ≤ 16000 → t.tim.state = .locked ∧ t.tim.bad = 0) ∧
    (s.tim.state = .locked → 16000 < e.natAbs → s.tim.bad < 3 → t.tim.state = .locked ∧ t.tim.bad = s.tim.bad + 1) ∧
    (s.tim.state = .locked → 16000 < e.natAbs → 3 ≤ s.tim.bad → t.tim.state = .locking ∧ t.tim.good = 0) ∧
    (s.tim.state = .holdover → e.natAbs ≤ 16000 → t.tim.state = .locked) ∧
    (s.tim.state = .holdover → 16000 < e.natAbs → t.tim.state = .free ∧ t.tim.rate = s.tim.rate)) ∧
  (∀ s : State, (s.tim.state = .locked → Next .holdoverEntry s fun t => t.tim = { s.tim with state := .holdover, bad := 0 }) ∧
    (s.tim.state ≠ .locked → exec .holdoverEntry s = .next s) ∧
    (s.tim.state = .holdover → Next .holdoverExpiry s fun t => t.tim = { s.tim with state := .free }) ∧
    (s.tim.state ≠ .holdover → exec .holdoverExpiry s = .next s))

/-- ENABLE = 1 arms a comparator at the written target, a past target matching at once with LATE; ENABLE = 0 disarms it. While TIME_CLK runs, an armed comparator of an awake device whose target has come counts one match; with PER 0 it is then disarmed, else its new target is the first one ahead and the targets passed are SKIPPED; IRQ sends its interrupt; GPIOs in pulse mode naming it are driven away from LEVEL for WIDTH x 20 ns. A GPIO takes input, LEVEL or pulse mode (an output that takes over from the pull-up drives high first), and a pulse that has run its width returns to LEVEL. The clock sends only the messages of its role and delay mechanism, keeping the departure of a request, on its port, transport and domain; it takes untagged frames of its transport and domain, a Sync only with logSyncInterval -7 to 1, and ARP for its address over IPv4; a one-step Sync of a slave, or the Follow_Up of a two-step one, gives an update of the timebase while SRC is PTP and the control cores run, and no message changes the timebase otherwise; Delay_Resp gives half the round trip. An Ethernet port has the link reported, but none on a failed bank, without ETH_CLK, under an AON reset or unpowered in sleep. The mean path delay formula and the error are the model's reading of IEEE 1588 (PRESUMED, log entry 63). Where a clause rests on a reading of the model's own, log entry 121 says so. -/
def Obligations.ComparatorsGpiosAndPtpFollowTheTimebase : Prop :=
  (∀ (s u : State) (k : Fin 16) (v : Word) (at_ : Nat), u = s.advance at_ → u.takesWrite (cmpReg k 0) →
    (v.getLsbD 0 = false → Next (.comparatorEnableWrite k v at_) s fun t => t.regBit (cmpReg k 0) 0 = false ∧
      t.tim = { u.tim with cmp := u.tim.cmp.set k { u.tim.cmp[k] with armed := false } } ∧ t.pins = u.pins) ∧
    (v.getLsbD 0 = true →
      let target := ((u.reg (cmpReg k 4)).toNat + u.regField (cmpReg k 8) 0 16 * 2 ^ 32) * 16
      let c : Comparator := { u.tim.cmp[k] with armed := true, target := target, period := (u.reg (cmpReg k 12)).toNat }
      (u.pastTarget target < 0 → Next (.comparatorEnableWrite k v at_) s fun t => t.regBit (cmpReg k 0) 0 = true ∧
        t.tim = { u.tim with cmp := u.tim.cmp.set k c } ∧ t.pins = u.pins) ∧
      (0 ≤ u.pastTarget target → u.cmpRuns k = true → u.clkRuns 1 = true → u.rst.asleep = false → Next (.comparatorEnableWrite k v at_) s fun t =>
        t.tim.cmp[k] = ({ c with late := c.late || decide (0 < u.pastTarget target) } : Comparator).hit (u.pastTarget target)))) ∧
  (∀ (s u : State) (k : Fin 16) (at_ : Nat), u = s.advance at_ →
    (u.tim.cmp[k].armed = true → u.cmpRuns k = true → u.clkRuns 1 = true → 0 ≤ u.pastTarget u.tim.cmp[k].target → u.rst.asleep = false →
      Next (.comparatorMatch k at_) s fun t => t.tim.cmp = u.tim.cmp.set k (u.tim.cmp[k].hit (u.pastTarget u.tim.cmp[k].target)) ∧
        t.tim.count = u.tim.count ∧ t.timeFrac = u.timeFrac ∧
        (u.regBit (cmpReg k 0) 1 = true → Sent u t (.comparatorInterrupt k)) ∧
        (∀ g : Fin 16, u.blkUp .tim = true → u.gpioMode g = 2 → u.regField (gpioReg g) 4 4 = k.val →
          t.pins.gpio[g] = (u.pins.gpio[g]).drive u.now (!u.regBit (gpioReg g) 2) ∧
          t.tim.gpioPulse[g] = some (u.now + 40 * max 1 (u.regField (gpioReg g) 8 8))) ∧
        (∀ g : Fin 16, (u.gpioMode g ≠ 2 ∨ u.regField (gpioReg g) 4 4 ≠ k.val) → t.pins.gpio[g] = u.pins.gpio[g])) ∧
    (u.tim.cmp[k].armed = false ∨ u.clkRuns 1 = false ∨ u.pastTarget u.tim.cmp[k].target < 0 → exec (.comparatorMatch k at_) s = .next u)) ∧
  (∀ (c : Comparator) (past : Int), 0 ≤ past → (c.hit past).matches_ = c.matches_ + 1 ∧ (c.hit past).late = c.late ∧
    (c.period = 0 → (c.hit past).armed = false ∧ (c.hit past).target = c.target) ∧
    (c.period ≠ 0 → (c.hit past).armed = c.armed ∧ ∃ n : Nat, (c.hit past).target = (c.target + (n + 1) * c.period) % 2 ^ 52 ∧
      past < (n + 1) * c.period ∧ (n = 0 ∨ n * c.period ≤ past) ∧ (c.hit past).skipped.toNat = min 32767 (c.skipped.toNat + n))) ∧
  (∀ (s : State) (g : Fin 16) (v : Word), s.takesWrite (gpioReg g) → Next (.gpioModeWrite g v) s fun t =>
    (∀ h : Fin 16, h ≠ g → t.pins.gpio[h] = s.pins.gpio[h] ∧ t.tim.gpioPulse[h] = s.tim.gpioPulse[h]) ∧
    (bitsOf v.toNat 0 2 = 0 ∨ bitsOf v.toNat 0 2 = 3 → t.pins.gpio[g] = .pulled ∧ t.tim.gpioPulse[g] = none) ∧
    (bitsOf v.toNat 0 2 = 1 → t.pins.gpio[g] = (s.pins.gpio[g]).drive s.now (v.getLsbD 2) ∧ t.tim.gpioPulse[g] = none) ∧
    (bitsOf v.toNat 0 2 = 2 → s.tim.gpioPulse[g] = none → t.pins.gpio[g] = (s.pins.gpio[g]).drive s.now (v.getLsbD 2))) ∧
  (∀ (s u : State) (g : Fin 16) (at_ e : Nat), u = s.advance at_ → u.tim.gpioPulse[g] = some e →
    (e ≤ u.now → Next (.gpioPulseEnd g at_) s fun t => t.tim.gpioPulse = u.tim.gpioPulse.set g none ∧
      t.pins.gpio = u.pins.gpio.set g ((u.pins.gpio[g]).drive u.now (u.regBit (gpioReg g) 2))) ∧
    (u.now < e → exec (.gpioPulseEnd g at_) s = .next u)) ∧
  (∀ (s u : State) (kind : PtpKind) (at_ : Nat), u = s.advance at_ →
    (u.ptpRuns = true → u.ptpSends kind = true → Next (.ptpMessageSend kind at_) s fun t => t.out = u.out ++
        [.ptp (if u.regBit 0x280040 1 then 1 else 0) (!u.regBit 0x280040 2) (BitVec.ofNat 8 (u.regField 0x280040 8 7)) kind] ∧
      (kind = .delayReq ∨ kind = .pdelayReq → t.tim.ptp.req = some u.timeSixteenth)) ∧
    (u.ptpRuns = false ∨ u.ptpSends kind = false → exec (.ptpMessageSend kind at_) s = .next u)) ∧
  (∀ (s u : State) (m : PtpFrame) (at_ : Nat), u = s.advance at_ →
    (u.ptpRuns = false ∨ m.tagged = true ∨ m.body = .other → exec (.ptpMessageRx m at_) s = .next u) ∧
    (m.body.isPtp = true → (m.udp = u.regBit 0x280040 2 ∨ m.domain.toNat ≠ u.regField 0x280040 8 7) → exec (.ptpMessageRx m at_) s = .next u) ∧
    (∀ o c b, m.body = .sync o c b → (m.interval < -7 ∨ 1 < m.interval) → exec (.ptpMessageRx m at_) s = .next u) ∧
    (u.ptpRuns = true → u.ptpTakes m = true → Next (.ptpMessageRx m at_) s fun t =>
      (u.timeSrc ≠ 1 ∨ u.blkUp .cores = false → t.tim.state = u.tim.state ∧ t.tim.rate = u.tim.rate ∧ t.timeFrac = u.timeFrac ∧ t.tim.err = u.tim.err) ∧
      (∀ o c, m.body = .sync o c false → u.ptpSlave = true → t.tim.ptp.sync = some (o + c, u.timeSixteenth) ∧
        (u.timeSrc = 1 → u.blkUp .cores = true → t.tim.err = errReg (o + c + u.tim.ptp.delay - u.timeSixteenth))) ∧
      (∀ o c a, m.body = .followUp o c → u.tim.ptp.syncRx = some a → u.ptpSlave = true → t.tim.ptp.sync = some (o + c, a) ∧ t.tim.ptp.syncRx = none ∧
        (u.timeSrc = 1 → u.blkUp .cores = true → t.tim.err = errReg (o + c + u.tim.ptp.delay - a))) ∧
      (∀ o c, m.body = .sync o c true → u.ptpSlave = true → t.tim.ptp.syncRx = some (u.timeSixteenth - c)) ∧
      (∀ r c q x a, m.body = .delayResp r c → u.tim.ptp.req = some q → u.tim.ptp.sync = some (x, a) → u.ptpSlave = true → u.peerDelay = false →
        t.tim.ptp.delay = (a - x + (r - c - q)) / 2 ∧ t.tim.ptp.req = none) ∧
      (∀ a, m.body = .arp a → Sent u t (u.ptpOut .arpReply)))) ∧
  (∀ (u : State) (m : PtpFrame),
    (∀ a, m.body = .arp a → (u.ptpTakes m = true ↔ m.tagged = false ∧ u.regBit 0x280040 2 = false ∧ a = u.reg 0x280044)) ∧
    (m.tagged = false → m.udp = u.ptpUdp → m.domain = u.ptpDomain → m.body.isPtp = true → -7 ≤ m.interval → m.interval ≤ 1 →
      u.ptpTakes m = true)) ∧
  (∀ (s : State) (p : Fin 2) (up : Bool),
    (up = false ∨ s.rst.netOff = true ∨ s.clkRuns 3 = false ∨ s.rst.aon ≠ .up ∨ (s.rst.asleep = true ∧ p ≠ s.keptEth) →
      exec (.ethernetLinkChange p up) s = .next { s with tim := { s.tim with ethLink := s.tim.ethLink.set p false } }) ∧
    (s.rst.netOff = false → s.clkRuns 3 = true → s.rst.aon = .up → (s.rst.asleep = false ∨ p = s.keptEth) →
      exec (.ethernetLinkChange p up) s = .next { s with tim := { s.tim with ethLink := s.tim.ethLink.set p up } }))

/-- Lock brings a DOWN port to LOCKING, the third HELLO to UP; loss of lock or of HELLO takes it DOWN and counts it; out of lock it alternates rates. A port out of DOWN sends HELLO and the delay exchange with the next SEQ. Control blocks of unlisted types are counted and ignored. A frame of the own node, at 1,023 hops or already received goes no further; a failed check is counted and sent on inverted; another is forwarded with HOPS + 1 unless it names this device alone, or is a TIDE frame with odd SEQ on a low-rate hop. The window knows exactly the SEQ values received within 64 of the highest. ANNOUNCE makes a node live once, or sets DUP for the own number; 30 ms without one removes it. The master is the candidate with the lowest priority, then node. The master alone sends TIME; a follower under SRC 2 takes ORIGIN + CORRECTION + link delay - t as its error, and every device adds its delay and residence as it forwards. Where a clause rests on a reading of the model's own, log entries 113, 115, 116, 117, 135, 180 say so. -/
def Obligations.RingPortsFramesMasterAndTimeFollowTheirRules : Prop :=
  (∀ (s : State) (p : Fin 2), let x := s.urg.port[p]
    let down : State := { s with urg := { s.urg with port := s.urg.port.set p { x with state := .down, hellos := 0, downs := x.downs + 1 } } }
    (s.ringRuns = true → x.state = .down → exec (.ringPortLock p) s =
      .next { s with urg := { s.urg with port := s.urg.port.set p { x with state := .locking, hellos := 0 } } }) ∧
    (s.ringRuns = false ∨ x.state ≠ .down → exec (.ringPortLock p) s = .next s) ∧
    (x.state = .down → exec (.ringPortLockLoss p) s = .next s ∧ exec (.helloTimeout p) s = .next s ∧ exec (.ringPortRateAlternate p) s =
      .next { s with urg := { s.urg with port := s.urg.port.set p { x with low := !x.low } } }) ∧
    (x.state ≠ .down → exec (.ringPortLockLoss p) s = .next down ∧ exec (.helloTimeout p) s = .next down ∧ exec (.ringPortRateAlternate p) s = .next s) ∧
    (s.ringRuns = true → x.state ≠ .down → ∀ (at_ : Nat) (a b : Int),
      exec (.helloSend p) s = .next { s with urg := { s.urg with seq := s.urg.seq + 1 }, out := s.out ++ [.hop p 0x01 s.urg.seq (.hello s.node s.rst.asleep)] } ∧
      exec (.delayReqRx p a b) s = .next { s with urg := { s.urg with seq := s.urg.seq + 1 }, out := s.out ++ [.hop p 0x04 s.urg.seq (.delayResp a b)] } ∧
      Next (.delayReqSend p at_) s fun t => t.out = s.out ++ [.hop p 0x03 s.urg.seq (.delayReq (s.advance at_).timeSixteenth)] ∧ t.urg.seq = s.urg.seq + 1) ∧
    (s.ringRuns = true → x.state ≠ .down → ∀ (node : BitVec 10) (sleep : Bool), Next (.helloRx p node sleep) s fun t =>
      t.urg.port[p].peer = node ∧ t.urg.port[p].peerSleep = sleep ∧ t.urg.port[p].hellos = min 3 (x.hellos + 1) ∧
      t.urg.port[p].state = (if 2 ≤ x.hellos then .up else x.state) ∧
      (sleep = x.peerSleep → t.urg.port[p].low = x.low) ∧ (sleep ≠ x.peerSleep → s.rst.asleep = false → t.urg.port[p].low = sleep)) ∧
    (s.ringRuns = true → x.state ≠ .down → ∀ rtt turn : Nat, Next (.delayRespRx p rtt turn) s fun t =>
      t.urg.port[p].delays = ((rtt - turn) :: x.delays).take 16)) ∧
  (∀ (s : State) (p : Fin 2) (b : RingBlock) (bs : List RingBlock), s.ringRuns = true → let u := s.countStrange p (b :: bs)
    let k : Nat := ((b :: bs).filter RingBlock.strange).length
    u.urg.port[p].crc.toNat = min 65535 (s.urg.port[p].crc.toNat + k) ∧ (k = 0 → u = s) ∧
    (frameIn (b :: bs) = none → exec (.ringFrameForward p b bs) s = .next u)) ∧
  (∀ (s : State) (p : Fin 2) (b : RingBlock) (bs : List RingBlock) (f : RingFrame) (ok : Bool), frameIn (b :: bs) = some (f, ok) →
    f.type_ ≠ 0x01 → f.type_ ≠ 0x03 → f.type_ ≠ 0x04 → f.type_ ≠ 0x05 → s.ringRuns = true →
    let u := s.countStrange p (b :: bs)
    let o : Fin 2 := if p = 0 then 1 else 0
    let alone : Bool := !f.all && decide (f.dst = s.node)
    let thinned : Bool := s.urg.port[o].low && decide (f.type_ = 0x10) && f.seq.getLsbD 0
    let on : RingFrame := { f with hops := f.hops + 1 }
    (f.src = s.node ∨ f.hops = 1023 → exec (.ringFrameForward p b bs) s = .next u) ∧
    (f.src ≠ s.node → f.hops ≠ 1023 →
      (ok = false → Next (.ringFrameForward p b bs) s fun t => t.urg.port[p].crc = satInc u.urg.port[p].crc ∧ t.urg.seen = s.urg.seen ∧
        (alone = true → t.out = s.out) ∧ (alone = false → thinned = false → Sent s t (.forward o (on.blocks false)))) ∧
      (ok = true → Next (.ringFrameForward p b bs) s fun t => t.urg.seen = (s.noteSeq f.src f.seq).2.urg.seen ∧
        ((s.noteSeq f.src f.seq).1 = true ∨ alone = true ∨ thinned = true → t.out = s.out) ∧
        ((s.noteSeq f.src f.seq).1 = false → alone = false → thinned = false → Sent s t (.forward o (on.blocks true)))))) ∧
  (∀ (top seq x : BitVec 16) (recent : List (BitVec 16)), let ahead := signed 16 (seq - top).toNat
    windowAfter none seq = (false, (seq, [])) ∧
    ((windowAfter (some (top, recent)) seq).1 = true ↔ seq = top ∨ (-64 ≤ ahead ∧ ahead < 0 ∧ seq ∈ recent)) ∧
    ((windowAfter (some (top, recent)) seq).2.1 = if 0 < ahead then seq else top) ∧
    (-64 ≤ ahead → seq = (windowAfter (some (top, recent)) seq).2.1 ∨ seq ∈ (windowAfter (some (top, recent)) seq).2.2) ∧
    ((x = top ∨ x ∈ recent) → ((windowAfter (some (top, recent)) seq).2.1 - x).toNat ≤ 64 →
      x = (windowAfter (some (top, recent)) seq).2.1 ∨ x ∈ (windowAfter (some (top, recent)) seq).2.2) ∧
    (x ∈ (windowAfter (some (top, recent)) seq).2.2 → x = top ∨ x ∈ recent ∨ x = seq)) ∧
  (∀ s : State,
    let elected := fun t : State => ∀ m : BitVec 10, t.urg.master = some m → ∃ pr : BitVec 8, (pr, m) ∈ t.candidates ∧ pr ≠ 0 ∧
      ∀ c ∈ t.candidates, pr < c.1 ∨ (pr = c.1 ∧ m ≤ c.2)
    s.blkUp .urg = true →
    (Next .announceSend s fun t => elected t ∧ (t.urg.master = none → t.candidates = []) ∧ t.urg.seq = s.urg.seq + 1 ∧ t.out = s.out ++
      [.ring 0x02 s.urg.seq (.announce s.node s.group (BitVec.ofNat 8 (s.regField 0x2A0000 24 8)) (s.regBit 0x260000 0))]) ∧
    (∀ (node : BitVec 10) (group prio : BitVec 8) (acc : Bool), Next (.announceRx node group prio acc) s fun t => elected t ∧
      (t.urg.master = none → t.candidates = []) ∧
      (node = s.node → t.urg.dup = true ∧ t.urg.nodes = s.urg.nodes) ∧
      (node ≠ s.node → t.urg.dup = s.urg.dup ∧ ⟨node, group, prio, acc⟩ ∈ t.urg.nodes ∧
        (∀ n ∈ t.urg.nodes, n.node = node → n = ⟨node, group, prio, acc⟩) ∧ ∀ n : RingNode, n.node ≠ node → (n ∈ t.urg.nodes ↔ n ∈ s.urg.nodes)) ∧
      (s.tim.state = .locking → t.urg.master ≠ s.urg.master → t.tim.good = 0)) ∧
    (∀ node : BitVec 10, Next (.nodeLivenessExpiry node) s fun t => elected t ∧ ∀ n : RingNode, n ∈ t.urg.nodes ↔ n ∈ s.urg.nodes ∧ n.node ≠ node)) ∧
  (∀ (s u : State) (at_ : Nat), u = s.advance at_ →
    (u.isMaster = true → u.urg.dup = false → u.blkUp .urg = true → Next (.timeSend at_) s fun t =>
      t.out = u.out ++ [.ring 0x05 u.urg.seq (.time u.timeSixteenth 0)] ∧ t.tim = u.tim) ∧
    (u.isMaster = false → exec (.timeSend at_) s = .next u) ∧
    (∀ (p : Fin 2) (src : BitVec 10) (seq : BitVec 16) (hops : BitVec 10) (o c : Int) (res : Nat),
      (src = u.node ∨ hops = 1023 → exec (.timeRx p src seq hops o c res at_) s = .next u) ∧
      (u.ringRuns = true → src ≠ u.node → hops ≠ 1023 → (u.noteSeq src seq).1 = false → Next (.timeRx p src seq hops o c res at_) s fun t =>
        Sent u t (.timeForward (if p = 0 then 1 else 0) src seq (hops.toNat + 1) o (c + u.urg.port[p].delay + res)) ∧
        (u.timeSrc ≠ 2 ∨ u.isMaster = true → t.tim = u.tim) ∧
        (u.timeSrc = 2 → u.isMaster = false → u.urg.master = some src →
          t.tim.hops = hops ∧ t.tim.err = errReg (o + c + u.urg.port[p].delay - u.timeSixteenth)))))

/-- A tide word of another group or with unlocked time changes nothing, while FIRE_CLK is stopped a word waits in its crossing (the oldest discarded and counted once it is full); one that counts is the newest word of its live source. The first source heard is used; the other gives dC = COUNT - C(EDGE_TIME), and after 16 equal values a lower-numbered one is changed over to, its counts taken less dC. When the source in use expires the device changes over only with a VALID dC; else cause POSITION asserts on every printing plane (not a standby). (Stops are stated where no line's deadline has come unmet.) Two words of the source in use clear POSITION. With RING_STOP a STOP of another node of the group holds every firing plane with cause RING (a SINGLE device at seam F_p - 1 - H_p); a STATE of that node with every plane IDLE, ARMED or RUN lifts it, and once no node holds it cause RING clears, as it does with CLR_RING. SEND_WAKE sends WAKE; a WAKE wakes a sleeping node that enables it, abandons a sleep entry (the model's reading of R70), and does nothing to one in AWAKE. Where a clause rests on a reading of the model's own, log entries 73, 119, 173 say so. -/
def Obligations.TideSourcesStopsAndWakesTravelTheRing : Prop :=
  (∀ (s u : State) (w : TideWord) (at_ : Nat), u = s.advance at_ →
    (u.blkUp .urg = false ∨ (u.clkRuns 0 = true ∧ (w.group ≠ u.group ∨ w.timeOk = false ∨ u.timeOk = false)) → exec (.tideRx w at_) s = .next u) ∧
    (u.blkUp .urg = true → u.clkRuns 0 = false → Next (.tideRx w at_) s fun t => t.fir = u.fir ∧ t.urg.sources = u.urg.sources ∧
      t.urg.tideWait = (u.urg.tideWait ++ [w]).drop (u.urg.tideWait.length + 1 - tideDepth) ∧
      t.urg.tideLost = u.urg.tideLost + (if tideDepth ≤ u.urg.tideWait.length then 1 else 0)) ∧
    (u.blkUp .urg = true → u.clkRuns 0 = true → w.group = u.group → w.timeOk = true → u.timeOk = true → Next (.tideRx w at_) s fun t =>
      (∀ x ∈ t.urg.sources, x.node = w.source → x.live = true ∧ x.word = w) ∧ (∃ x ∈ t.urg.sources, x.node = w.source) ∧
      (∀ x : TideSource, x.node ≠ w.source → (x ∈ t.urg.sources ↔ x ∈ u.urg.sources)) ∧
      (u.urg.inUse = none → t.urg.inUse = some w.source ∧ t.urg.offset = 0 ∧ t.urg.delta = none) ∧
      (u.urg.inUse = some w.source → t.urg.inUse = u.urg.inUse ∧ t.urg.offset = u.urg.offset ∧ t.urg.delta = u.urg.delta) ∧
      (∀ n, u.urg.inUse = some n → n ≠ w.source →
        (u.liveSource = none → t.urg.inUse = some n ∧ t.urg.offset = u.urg.offset) ∧
        ∀ x, u.liveSource = some x → let d := diff48 w.count.toNat (x.word.countAt w.edgeTime u.urg.offset)
          let k : Nat := match u.urg.delta with
            | some (e, j) => if e = d then min 16 (j + 1) else 1
            | none => 1
          (k = 16 ∧ w.source < n → t.urg.inUse = some w.source ∧ t.urg.offset = d ∧ t.urg.delta = none) ∧
          (¬(k = 16 ∧ w.source < n) → t.urg.inUse = some n ∧ t.urg.offset = u.urg.offset ∧ t.urg.delta = some (d, k))) ∧
      (u.usesTide = true → u.blkUp .pos = true → ∀ y, t.tideNow = some y → t.fir.edge = some (tickOfTime y.edgeTime)) ∧
      (u.usesTide = true → t.tideReady = true → ∀ p : Fin 8, (t.fir.plane[p]).cause.getLsbD 4 = false))) ∧
  (∀ (s : State) (n : BitVec 10), s.blkUp .urg = true → Next (.tideSourceExpiry n) s fun t =>
    (∀ x ∈ t.urg.sources, x.node = n → x.live = false ∧ x.words = 0) ∧
    (∀ x : TideSource, x.node ≠ n → (x ∈ t.urg.sources ↔ x ∈ s.urg.sources)) ∧
    (s.urg.inUse ≠ some n → t.urg.inUse = s.urg.inUse ∧ t.urg.offset = s.urg.offset ∧ t.urg.delta = none) ∧
    (s.urg.inUse = some n → (∀ x ∈ s.urg.sources, x.node ≠ n → x.live = false) ∨ s.validDelta = none →
      t.urg.inUse = some n ∧ t.urg.offset = s.urg.offset ∧
      (s.usesTide = true → s.standsBy = false → (∀ q : Fin 8, s.lineDueNow q = none) → ∀ p : Fin 8, s.planePrints p = true → (t.fir.plane[p]).cause.getLsbD 4 = true)) ∧
    (∀ d, s.urg.inUse = some n → (∃ x ∈ s.urg.sources, x.node ≠ n ∧ x.live = true) → s.validDelta = some d →
      t.urg.offset = d ∧ ∃ x ∈ s.urg.sources, x.node ≠ n ∧ x.live = true ∧ t.urg.inUse = some x.node)) ∧
  (∀ (s : State) (node : BitVec 10) (group mask : BitVec 8),
    (s.blkUp .urg = true → s.regBit 0x160000 18 = true → group = s.group → node ≠ s.node → (∀ q : Fin 8, s.lineDueNow q = none) → Next (.stopRx node group mask) s fun t =>
      node ∈ t.urg.stops ∧ ∀ p : Fin 8, s.planePrints p = true → (t.fir.plane[p]).cause.getLsbD 7 = true ∧
        (((s.fir.plane[p]).phase = .run ∨ (s.fir.plane[p]).phase = .closing) → (s.fir.plane[p]).cause.getLsbD 7 = false →
          (t.fir.plane[p]).phase = .hold ∧ (t.fir.plane[p]).committed = [] ∧
          (s.twn.role = .single → (t.fir.plane[p]).next = (s.fir.plane[p]).next ∧
            (t.fir.plane[p]).seam = ((s.fir.plane[p]).next : Int) - 1 - s.span p))) ∧
    (s.blkUp .urg = false ∨ s.regBit 0x160000 18 = false ∨ group ≠ s.group ∨ node = s.node → exec (.stopRx node group mask) s = .next s)) ∧
  (∀ s : State, (s.tellsRing = true → s.blkUp .urg = true → Next .stateSend s fun t =>
      t.out = s.out ++ [.ring 0x12 s.urg.seq (.state s.group (s.fir.plane.map (·.phase)))] ∧ t.urg.seq = s.urg.seq + 1) ∧
    (s.tellsRing = false → exec .stateSend s = .next s)) ∧
  (∀ (s : State) (node : BitVec 10) (group : BitVec 8) (planes : Vector PlanePhase 8), s.blkUp .urg = true →
    ((∀ p : Fin 8, planes[p] = .idle ∨ planes[p] = .armed ∨ planes[p] = .run) → group = s.group → Next (.stateRx node group planes) s fun t =>
      t.urg.stops = s.urg.stops.filter (fun n => decide (n ≠ node)) ∧
      (s.urg.stops ≠ [] → (∀ n ∈ s.urg.stops, n = node) → ∀ p : Fin 8, (t.fir.plane[p]).cause.getLsbD 7 = false) ∧
      ((∃ n ∈ s.urg.stops, n ≠ node) → t.fir = s.fir)) ∧
    ((∃ p : Fin 8, planes[p] = .hold ∨ planes[p] = .closing) ∨ group ≠ s.group → exec (.stateRx node group planes) s = .next s)) ∧
  (∀ (s : State) (v : Word) (c : Instr), c = .urgSendWake v ∨ c = .urgClrRing v → s.takesWrite 0x2A000C → Next c s fun t =>
    (v.getLsbD 30 = true → t.urg.stops = [] ∧ ∀ p : Fin 8, (t.fir.plane[p]).cause.getLsbD 7 = false) ∧
    (v.getLsbD 30 = false → t.urg.stops = s.urg.stops ∧ t.fir = s.fir) ∧
    (v.getLsbD 31 = true → s.blkUp .urg = true → Told s t (.wake (v.extractLsb' 0 10)))) ∧
  (∀ s : State, (s.rst.sleepCfg.getLsbD 7 = false → exec .wakeRx s = .next s) ∧
    (s.rst.asleep = false → s.rst.sleep = .awake → exec .wakeRx s = .next s) ∧
    (s.rst.sleepCfg.getLsbD 7 = true → s.rst.asleep = false → (s.rst.sleep = .draining ∨ s.rst.sleep = .ready) → Next .wakeRx s fun t =>
      t.rst = { s.rst with enter := false, sleep := .awake }) ∧
    (s.rst.sleepCfg.getLsbD 7 = true → s.rst.asleep = true → s.reachL0 = false → Next .wakeRx s fun t =>
      t.rst.asleep = false ∧ t.rst.wake = s.rst.wake ||| 4#4 ∧ t.rst.wakeN = true))

/-- A frame that is not the peer's changes nothing. A peer HEARTBEAT is recorded; in SINGLE with every condition met the device with PREFER, or the lower node where that decides nothing, becomes ACTIVE, beside an ACTIVE peer STANDBY (the model's choice). A standing-by device keeps a STAMP for its line, and a line already committed takes it. When both SIGs of a compared line are there: a match counts up to 4,096 (a JOINING device whose printing planes all have 4,096 is STANDBY); a mismatch clears the count, and between ACTIVE and STANDBY the table of R378 decides: FAILED, takeover, or DISAGREE. A SIG more than 4 lines late counts as STAMP_LATE. A TWN_EPOCH write takes effect, 0 as 1, while nothing prints. TWN_CTRL.FAIL makes a paired device FAILED with the twin fault. ENABLE = 0 while nothing prints gives SINGLE with the next epoch, and is ignored while a plane prints. TWIN_CTRL action 0 brings a FAILED device to JOINING. Where a clause rests on a reading of the model's own, log entries 47, 122, 123, 124, 125 say so. -/
def Obligations.TwinsPairCompareAndFail : Prop :=
  (∀ (s : State) (node : BitVec 10) (c : Instr), s.blkUp .twn = false ∨ node ≠ s.peerNode ∨ node = s.node →
    (∃ role epoch prefer peer group stops locked settings lats blocked, c = .twinHeartbeatRx node role epoch prefer peer group stops locked settings lats blocked) ∨
    (∃ plane line stamp tf, c = .stampRx node plane line stamp tf) ∨ (∃ bytes, c = .sigRx node bytes) ∨ (∃ e, c = .takeoverRx node e) ∨
    (∃ k, c = .failedRx node k) ∨ (∃ f, c = .swapRx node f) ∨ (∃ p a b x y z e, c = .planeStateRx node p a b x y z e) ∨
    (∃ k u e g, c = .stageRx node k u e g) ∨ c = .joinRx node → exec c s = .next s) ∧
  (∀ s : State, (s.twinOn = true → s.blkUp .urg = true → Next .twinHeartbeatSend s fun t => t.twn = s.twn ∧
      Told s t (.heartbeat s.twn.role s.twn.epoch (s.regBit 0x2C0000 1) s.peerNode (s.group, s.groupStops, s.ringLocked, s.twinSettings)
        (Vector.ofFn s.ownLat) (decide (s.takeBlock ≠ 0)))) ∧
    (s.twinOn = false → exec .twinHeartbeatSend s = .next s)) ∧
  (∀ (s : State) (node : BitVec 10) (role : TwinRole) (epoch : BitVec 16) (prefer : Bool) (peer : BitVec 10) (group : BitVec 8) (stops locked : Bool)
      (settings : List Nat) (lats : Vector (BitVec 24) 8) (blocked : Bool), s.blkUp .twn = true → node = s.peerNode → node ≠ s.node →
    let met : Prop := s.twinOn = true ∧ s.twn.role = .single ∧ peer = s.node ∧ group = s.group ∧ settings = s.twinSettings ∧ stops = true ∧
      s.groupStops = true ∧ locked = true ∧ s.ringLocked = true
    let own := s.regBit 0x2C0000 1
    Next (.twinHeartbeatRx node role epoch prefer peer group stops locked settings lats blocked) s fun t =>
      t.twn.peerLive = true ∧ t.twn.peerRole = some role ∧ t.twn.peerBlock = blocked ∧ (∀ p : Fin 8, t.twn.plane[p].peerLat = lats[p].toNat) ∧
      (role = .active → s.twn.role = .standby ∨ s.twn.role = .joining → t.twn.epoch = epoch) ∧
      (role ≠ .active ∨ (s.twn.role ≠ .standby ∧ s.twn.role ≠ .joining) → t.twn.epoch = s.twn.epoch) ∧
      (¬met → t.twn.role = s.twn.role ∧ t.fir = s.fir ∧ t.out = s.out) ∧
      (met → (role = .active → t.twn.role = .standby) ∧
        (role ≠ .active → own ≠ prefer → t.twn.role = if own then .active else .standby) ∧
        (role ≠ .active → own = prefer → t.twn.role = if s.node < node then .active else .standby))) ∧
  (∀ (s : State) (node : BitVec 10) (p : Fin 8) (line stamp : BitVec 48) (tf : BitVec 24), s.blkUp .twn = true → node = s.peerNode → node ≠ s.node →
    s.standsBy = true → Next (.stampRx node p line stamp tf) s fun t =>
      t.twn.plane[p].stamped = some line.toNat ∧ (s.fireLine p ≤ line.toNat → (line.toNat, stamp.toNat, tf.toNat) ∈ t.twn.plane[p].stamps ∧
        ∀ y ∈ t.twn.plane[p].stamps, y.1 = line.toNat → y = (line.toNat, stamp.toNat, tf.toNat)) ∧
      (∀ l ∈ (t.fir.plane[p]).committed, l.line = line.toNat → l.stamp = stamp.toNat ∧ l.tf = tf.toNat) ∧
      (t.fir.plane[p]).committed.map (·.line) = (s.fir.plane[p]).committed.map (·.line)) ∧
  (∀ (s : State) (node : BitVec 10) (bytes : List Byte) (g own : Sig), g = parseSig bytes → s.blkUp .twn = true → node = s.peerNode → node ≠ s.node →
    s.paired = true → (s.fir.plane[g.plane]).swapAt = none → ¬(s.twn.role = .standby ∧ (s.twn.plane[g.plane]).late = some g.line) →
    s.twn.own.find? (fun x => sameLine x g) = some own →
    (s.fireLine g.plane > g.line + 5 → Next (.sigRx node bytes) s fun t => t.twn.stampLate = satInc s.twn.stampLate ∧ t.twn.role = s.twn.role ∧
      t.twn.disagree = s.twn.disagree) ∧
    (s.fireLine g.plane ≤ g.line + 5 → s.compares g.plane g.line = false → Next (.sigRx node bytes) s fun t => t.twn.role = s.twn.role ∧
      t.twn.disagree = s.twn.disagree ∧ t.twn.plane = s.twn.plane) ∧
    (s.fireLine g.plane ≤ g.line + 5 → s.compares g.plane g.line = true → mismatches own g = [] → Next (.sigRx node bytes) s fun t =>
      t.twn.plane[g.plane].match_ = min 4096 (s.twn.plane[g.plane].match_ + 1) ∧
      (s.twn.role ≠ .joining → t.twn.role = s.twn.role) ∧
      (s.twn.role = .joining → s.planePrints g.plane = true → 4095 ≤ s.twn.plane[g.plane].match_ →
        (∀ q : Fin 8, q ≠ g.plane → s.planePrints q = true → s.twn.plane[q].match_ = 4096) → t.twn.role = .standby)) ∧
    (s.fireLine g.plane ≤ g.line + 5 → s.compares g.plane g.line = true → mismatches own g ≠ [] →
      (s.twn.role = .joining ∨ s.twn.peerRole = some .joining → Next (.sigRx node bytes) s fun t => t.twn.role = s.twn.role ∧
        t.twn.plane[g.plane].match_ = 0 ∧ t.twn.disagree = s.twn.disagree) ∧
      (s.twn.peerRole ≠ some .joining → s.calm → s.rst.aon = .up → s.rst.mgmt = .up →
        (s.twn.role = .active → Next (.sigRx node bytes) s fun t =>
          (own.err = true → g.err = false → t.twn.role = .failed ∧ t.twn.failCause = 1 ∧ t.rst.twinFault = true) ∧
          (g.err = true → t.twn.role = .active ∧ t.twn.disagree = s.twn.disagree) ∧
          (own.err = false → g.err = false → t.twn.role = .active ∧ t.twn.disagree = satInc s.twn.disagree)) ∧
        (s.twn.role = .standby → Next (.sigRx node bytes) s fun t =>
          (g.err = true → own.err = false → t.twn.role = .active ∧ t.twn.epoch = nextEpoch s.twn.epoch) ∧
          (own.err = true → t.twn.role = .failed ∧ t.twn.failCause = 1 ∧ t.rst.twinFault = true) ∧
          (own.err = false → g.err = false → t.twn.role = .standby ∧ t.twn.disagree = satInc s.twn.disagree))))) ∧
  (∀ (s : State) (node : BitVec 10) (bytes : List Byte), s.blkUp .twn = true → node = s.peerNode → node ≠ s.node →
    let g := parseSig bytes
    s.paired = true → s.twn.role = .standby → (s.twn.plane[g.plane]).late = some g.line → Next (.sigRx node bytes) s fun t => t.twn.role = .joining) ∧
  (∀ (s : State) (v : Word), s.takesWrite 0x2C000C →
    (s.printing = true → exec (.twnEpochWrite v) s = .next s) ∧
    (s.printing = false → Next (.twnEpochWrite v) s fun t =>
      t.twn = { s.twn with epoch := if v.setWidth 16 = 0#16 then 1 else v.setWidth 16 } ∧
      ∀ n : Fin 32, (s.plk.link[n]).st.locked = true →
        Sent s t (.block n (BitVec.ofNat 64 (0x1E + 256 * (t.twn.epoch.toNat + if s.idleActive then 65536 else 0)))))) ∧
  (∀ (s : State) (v : Word), s.takesWrite 0x2C0000 → s.regBit 0x2C0000 0 = true → v.getLsbD 0 = false →
    (s.printing = true → Next (.twnEnableWrite v) s fun t => t.regBit 0x2C0000 0 = true ∧ t.twn = s.twn ∧ t.rst = s.rst) ∧
    (s.printing = false → s.calm → s.rst.aon = .up → s.rst.mgmt = .up → Next (.twnEnableWrite v) s fun t =>
      t.regBit 0x2C0000 0 = false ∧ t.twn.role = .single ∧ t.twn.epoch = nextEpoch s.twn.epoch ∧ t.rst.twinFault = false)) ∧
  (∀ e : BitVec 16, nextEpoch e ≠ 0 ∧ (e ≠ 0xFFFF → nextEpoch e = e + 1)) ∧
  (∀ (s : State) (v : Word), s.takesWrite 0x2C0010 →
    (v.getLsbD 0 = false → exec (.twnCtrlFailWrite v) s = .next s) ∧
    (v.getLsbD 0 = true → s.paired = true → s.calm → s.rst.aon = .up → s.rst.mgmt = .up → Next (.twnCtrlFailWrite v) s fun t =>
      t.twn.role = .failed ∧ t.twn.failCause = 3 ∧ t.rst.twinFault = true ∧ t.twn.swap = none ∧ (s.blkUp .urg = true → Told s t (.failed 3)))) ∧
  (∀ (s : State) (n : Fin 16) (f : Flight), s.starts n f → f.e.op = 0x72 → bitsOf (f.e.num 0) 0 4 = 0 → s.blkUp .twn = true →
    (s.twn.role ≠ .failed → Next (.twinCtrlClearFailed n) s fun t => Completes s t f stFwRefused 0x01 ∧ t.twn = s.twn) ∧
    (s.twn.role = .failed → s.calm → s.rst.aon = .up → s.rst.mgmt = .up → s.rst.wdog = false → s.rst.dataHold = false → s.rst.ctrlHold = false →
      Next (.twinCtrlClearFailed n) s fun t => t.twn.role = .joining ∧ t.rst.twinFault = false ∧ (∀ g ∈ t.hif.flights, g.id ≠ f.id) ∧
        (∀ p : Fin 8, t.twn.plane[p].match_ = 0) ∧ (s.blkUp .urg = true → Told s t .join)))

/-- While no committed line's deadline has come unmet: on FAILED or SWAP of the peer, or on a peer loss with LOSS_TAKE while no received SIG with ERR waits, a STANDBY becomes ACTIVE: the epoch is the next, TAKEOVER is sent, cause RING clears, recorded causes become stop causes of the printing planes, every loop is OFF, and after a SWAP it transmits from n_s on; a device in another role does not. TAKEOVER makes an ACTIVE that gave no swap withdraw its unlaunched lines and commit no more; another paired device takes the epoch. PLANE_STATE gives a standing-by plane the anchor, offset, stretch, print position and F_p = e_p, with no chamber ARMED. STAGE fills an OPEN chamber of the same number. JOIN makes the ACTIVE send PLANE_STATE with e_p = F_p + JOIN_LEAD for each printing plane. TWIN_CTRL action 1 is refused with its reason, or sends SWAP with n_s = F_p + 32 of a RUN plane and F_p of another; with no plane firing it completes at once. Where a clause rests on a reading of the model's own, log entries 120, 126 say so. -/
def Obligations.TakeoverJoinAndPlannedSwap : Prop :=
  let took := fun (s t : State) (first : Vector Nat 8) =>
    t.twn.role = .active ∧ t.twn.epoch = nextEpoch s.twn.epoch ∧ t.twn.takeovers = s.twn.takeovers + 1 ∧ t.urg.stops = [] ∧
    (∀ p : Fin 8, t.twn.block[p] = 0 ∧ (t.fir.plane[p]).sendFrom = first[p] ∧ (t.fir.plane[p]).swapAt = none ∧
      (t.fir.plane[p]).cause.getLsbD 7 = false ∧ (t.lop.plane[p]).dens = .off ∧ (t.lop.plane[p]).coll = .off ∧ (t.lop.plane[p]).noz = .off ∧
      (s.planePrints p = true →
        (s.twn.block[p].getLsbD 0 = true → (t.fir.plane[p]).cause.getLsbD 2 = true) ∧
        (s.twn.block[p].getLsbD 1 = true → (t.fir.plane[p]).cause.getLsbD 4 = true) ∧
        (s.twn.block[p].getLsbD 2 = true → (t.fir.plane[p]).cause.getLsbD 5 = true))) ∧
    (s.blkUp .urg = true → Told s t (.takeover (nextEpoch s.twn.epoch)))
  (∀ (s : State) (node : BitVec 10), s.blkUp .twn = true → node = s.peerNode → node ≠ s.node →
    (∀ k : BitVec 4, (s.twn.role = .standby → (∀ q : Fin 8, s.lineDueNow q = none) → Next (.failedRx node k) s fun t => took s t (Vector.replicate 8 0) ∧ t.twn.peerRole = some .failed) ∧
      (s.twn.role ≠ .standby → Next (.failedRx node k) s fun t => t.twn.role = s.twn.role ∧ t.twn.peerRole = some .failed ∧
        t.twn.epoch = s.twn.epoch ∧ ∀ p : Fin 8, (t.fir.plane[p]).sendFrom = 0 ∧ (t.fir.plane[p]).next = (s.fir.plane[p]).next)) ∧
    (∀ first : Vector (BitVec 48) 8, (s.twn.role = .standby → (∀ q : Fin 8, s.lineDueNow q = none) → Next (.swapRx node first) s fun t => took s t (first.map (·.toNat))) ∧
      (s.twn.role ≠ .standby → Next (.swapRx node first) s fun t => t = { s with twn := { s.twn with peerLive := true } })) ∧
    (∀ e : BitVec 16, (s.twn.role = .single → Next (.takeoverRx node e) s fun t => t = { s with twn := { s.twn with peerLive := true } }) ∧
      (s.twn.role = .active → s.twn.swap = none → Next (.takeoverRx node e) s fun t => t.twn.yielded = true ∧ t.twn.role = .active ∧
        t.twn.epoch = s.twn.epoch ∧ ∀ p : Fin 8, (t.fir.plane[p]).committed = [] ∧ (t.fir.plane[p]).commit = (s.fir.plane[p]).next ∧
          (t.fir.plane[p]).launched = (s.fir.plane[p]).launched ∧ (t.fir.plane[p]).next = (s.fir.plane[p]).next) ∧
      (s.twn.role ≠ .single → (s.twn.role ≠ .active ∨ s.twn.swap ≠ none) → Next (.takeoverRx node e) s fun t => t.twn.epoch = e ∧
        t.twn.peerRole = some .active ∧ (s.twn.role ≠ .active → t.twn.role = s.twn.role))) ∧
    (∀ (p : Fin 8) (xa phia pr : Int) (ofs stretch : Word) (e : BitVec 48),
      (s.standsBy = true → (∀ k : Fin 4, (s.lck.ch[k]).st ≠ .armed) → Next (.planeStateRx node p xa phia pr ofs stretch e) s fun t =>
        (t.fir.plane[p]).xa = xa ∧ (t.fir.plane[p]).phia = phia ∧ (t.fir.plane[p]).print = pr ∧ (t.fir.plane[p]).next = e.toNat ∧
        (t.fir.plane[p]).commit = e.toNat ∧ (t.fir.plane[p]).committed = [] ∧ t.reg (0x160104 + 0x40 * p) = ofs ∧
        t.reg (0x160108 + 0x40 * p) = stretch ∧ t.twn.plane[p].epoch = e.toNat ∧ t.twn.plane[p].valid = true ∧ t.twn.plane[p].match_ = 0) ∧
      (s.standsBy = false → Next (.planeStateRx node p xa phia pr ofs stretch e) s fun t => t = { s with twn := { s.twn with peerLive := true } })) ∧
    (∀ (k : Fin 4) (us : List (Nat × BitVec 512)) (es : List (Nat × Word)) (gs : List (Nat × BitVec 8)),
      (s.standsBy = true → s.blkUp .lck = true → (s.lck.ch[k]).st = .open_ → Next (.stageRx node k us es gs) s fun t =>
        (∀ j : Fin 4, j ≠ k → t.lck.ch[j] = s.lck.ch[j]) ∧ (t.lck.ch[k]).st = .open_ ∧ (t.lck.ch[k]).checked = false ∧ (t.lck.ch[k]).targets = gs ∧
        (t.lck.ch[k]).entries = (es.foldl (fun (c : Chamber) e => c.append e.1 e.2) s.lck.ch[k]).entries ∧
        ((us.map (·.1)).Nodup → ∀ u ∈ us, u ∈ (t.lck.ch[k]).units) ∧
        ∀ u ∈ (t.lck.ch[k]).units, u ∈ us ∨ u ∈ (s.lck.ch[k]).units) ∧
      (s.standsBy = false ∨ s.blkUp .lck = false ∨ (s.lck.ch[k]).st ≠ .open_ → Next (.stageRx node k us es gs) s fun t =>
        t = { s with twn := { s.twn with peerLive := true } })) ∧
    (s.twn.role = .active → Next (.joinRx node) s fun t => t.fir = s.fir ∧ ∀ p : Fin 8,
      (s.planePrints p = true → t.twn.plane[p].epoch = s.fireLine p + s.joinLead ∧ t.twn.plane[p].valid = true ∧ t.twn.plane[p].match_ = 0 ∧
        (s.blkUp .urg = true → Told s t (.planeState p (s.fir.plane[p]).xa (s.fir.plane[p]).phia (s.offset p) (s.sigma p) (s.fir.plane[p]).print
          (s.fireLine p + s.joinLead)))) ∧
      (s.planePrints p = false → t.twn.plane[p] = s.twn.plane[p])) ∧
    (s.twn.role ≠ .active → Next (.joinRx node) s fun t => t = { s with twn := { s.twn with peerLive := true } })) ∧
  (∀ s : State, (s.blkUp .twn = false → exec .peerLossTimeout s = .next s) ∧
    (s.blkUp .twn = true → s.regBit 0x2C0000 2 = true → s.twn.role = .standby → (∀ g ∈ s.twn.peer, g.err = false) → (∀ q : Fin 8, s.lineDueNow q = none) →
      Next .peerLossTimeout s fun t =>
      took s t (Vector.replicate 8 0) ∧ t.twn.peerLive = false) ∧
    (s.blkUp .twn = true → (s.regBit 0x2C0000 2 = false ∨ s.twn.role ≠ .standby ∨ ∃ g ∈ s.twn.peer, g.err = true) → Next .peerLossTimeout s fun t =>
      t = { s with twn := { s.twn with peerLive := false } })) ∧
  (∀ (s : State) (n : Fin 16) (f : Flight), s.starts n f → f.e.op = 0x72 → bitsOf (f.e.num 0) 0 4 = 1 → s.blkUp .twn = true →
    (s.twn.role ≠ .active → Next (.twinCtrlPlannedSwap n) s fun t => Completes s t f stFwRefused 0x02 ∧ t.twn = s.twn) ∧
    (s.twn.role = .active → s.twn.peerRole ≠ some .standby → Next (.twinCtrlPlannedSwap n) s fun t => Completes s t f stFwRefused 0x03 ∧ t.twn = s.twn) ∧
    (s.twn.role = .active → s.twn.peerRole = some .standby → s.twn.peerBlock = true → Next (.twinCtrlPlannedSwap n) s fun t =>
      Completes s t f stFwRefused 0x04 ∧ t.twn = s.twn) ∧
    (s.twn.role = .active → s.twn.peerRole = some .standby → s.twn.peerBlock = false → Next (.twinCtrlPlannedSwap n) s fun t =>
      (∀ p : Fin 8, (t.fir.plane[p]).swapAt = some (s.fireLine p + if (s.fir.plane[p]).phase = .run then 32 else 0)) ∧
      (s.blkUp .urg = true → Told s t (.swap (Vector.ofFn fun p : Fin 8 => s.fireLine p + if (s.fir.plane[p]).phase = .run then 32 else 0))) ∧
      ((∃ p : Fin 8, (s.fir.plane[p]).phase = .run) → Stands t f .waiting ∧ t.twn.role = .active) ∧
      ((∀ p : Fin 8, (s.fir.plane[p]).firing = false) → Completes s t f stOk 0 ∧ t.twn.role = .standby)))

/-- For every state s whose on-chip entries stand in rising order of their numbers, all below the number of the next fetch, if step s answers next t, then so do those of t. (The numbers are the model's own bookkeeping: log entry 130.) -/
def Obligations.EntriesStayInOrderOfFetch : Prop :=
  ∀ s t : State, s.numbered → step s = .next t → t.numbered

/-- For every command c and states s and t: if exec c s answers next t, then every one of the 28 pieces of State (the register file, reset controller, pins, each block, the captured halves, the DRAM, the live tables, the time, the count of draws, the output) that `touched c` does not list is the same in t as in s. The table `touched` is in Safety.lean, one row per command. -/
def Obligations.EveryCommandKeepsToItsParts : Prop :=
  ∀ (c : Instr) (s t : State), exec c s = .next t → Same (touched c) s t

/-- For every command that is a host write of one register (its offset and value are in `registerWritten`): where the offset is not open, nothing but the AER bit for Unsupported Request changes; where it is open and its block's clock has stopped, the write joins the accesses that wait in the crossings, behind those of before, and nothing else changes. A register write at an offset that is no multiple of 4 is discarded in the same way (R21). Where a clause rests on a reading of the model's own, log entry 10 says so. -/
def Obligations.WritesWaitOrAreDiscardedWhereTheyCannotReach : Prop :=
  (∀ (c : Instr) (s u : State) (o : Nat) (v : Word), registerWritten s c = some (u, o, v) →
    (u.barOpen o = false → exec c s = .next { u with hif := { u.hif with aerUr := true } }) ∧
    (u.barOpen o = true → u.clockStopped o = true →
      exec c s = .next { u with hif := { u.hif with accesses := u.hif.accesses ++ [⟨o, 4, some v, none⟩] } })) ∧
  (∀ (s : State) (o : BitVec 25) (v : Word), o.toNat % 4 ≠ 0 → exec (.registerWrite o v) s = .next { s with hif := { s.hif with aerUr := true } })

/-- For every command c other than the assertion of the power-on source: if exec c s answers next t, a latched thermal shutdown of s is latched in t and THERMTRIP_N stays low; and unless c writes RST_CAUSE itself, or a write of RST_CAUSE waits in a crossing, every bit of RST_CAUSE that is set in s is set in t. Where a clause rests on a reading of the model's own, log entry 96 says so. -/
def Obligations.ResetCausesAndTheThermalLatchStay : Prop :=
  ∀ (c : Instr) (s t : State), c ≠ .powerOnAssert → exec c s = .next t →
    (s.rst.therm = true → t.rst.therm = true) ∧ (s.pins.thermtrip = true → t.pins.thermtrip = true) ∧
    ((∀ v : Word, c ≠ .registerWrite 0x10000 v) → (∀ a ∈ s.hif.accesses, a.off = 0x10000 → a.write = none) → s.rst.cause &&& t.rst.cause = s.rst.cause)
end

