-- ==== Sys2Proof/Laws/Memory.lean ====
section
/-! SUPPORT. Every operation over a sparse memory keeps its canonical form. -/

namespace Sys2Proof.Machine

/-- Every key of the list is above a bound. -/
def keysAbove {α : Type} (a : Nat) (m : List (Nat × α)) : Prop := ∀ e ∈ m, a < e.1

theorem risingKeys_cons {α : Type} (c : Nat × α) (m : List (Nat × α)) :
    risingKeys (c :: m) = true ↔ keysAbove c.1 m ∧ risingKeys m = true := by
  induction m generalizing c with
  | nil => simp [risingKeys, keysAbove]
  | cons d m ih =>
    obtain ⟨a, x⟩ := c
    obtain ⟨b, y⟩ := d
    rw [ih]
    simp only [risingKeys, Bool.and_eq_true, decide_eq_true_eq, ih, keysAbove, List.mem_cons, forall_eq_or_imp]
    constructor
    · rintro ⟨h1, h2, h3⟩; exact ⟨⟨h1, fun e he => Nat.lt_trans h1 (h2 e he)⟩, h2, h3⟩
    · rintro ⟨⟨h1, _⟩, h2, h3⟩; exact ⟨h1, h2, h3⟩

theorem risingKeys_filter {α : Type} (p : Nat × α → Bool) (m : List (Nat × α)) (h : risingKeys m = true) : risingKeys (m.filter p) = true := by
  induction m with
  | nil => exact h
  | cons c m ih =>
    obtain ⟨h1, h2⟩ := (risingKeys_cons c m).1 h
    rw [List.filter_cons]
    split
    · exact (risingKeys_cons _ _).2 ⟨fun e he => h1 e (List.mem_filter.1 he).1, ih h2⟩
    · exact ih h2

theorem mem_sparseInsert {α : Type} (m : List (Nat × α)) (a : Nat) (x : α) {e : Nat × α} (h : e ∈ sparseInsert m a x) : e = (a, x) ∨ e ∈ m := by
  induction m with
  | nil => simpa [sparseInsert] using h
  | cons c m ih =>
    obtain ⟨k, v⟩ := c
    simp only [sparseInsert] at h
    split at h
    · simpa using h
    · split at h <;> rename_i hk
      · rcases List.mem_cons.1 h with h | h
        · subst hk; exact .inl h
        · exact .inr (List.mem_cons_of_mem _ h)
      · rcases List.mem_cons.1 h with h | h
        · exact .inr (List.mem_cons.2 (.inl h))
        · exact (ih h).imp_right (List.mem_cons_of_mem _)

theorem risingKeys_sparseInsert {α : Type} (m : List (Nat × α)) (a : Nat) (x : α) (h : risingKeys m = true) :
    risingKeys (sparseInsert m a x) = true := by
  induction m with
  | nil => rfl
  | cons c m ih =>
    obtain ⟨k, v⟩ := c
    obtain ⟨h1, h2⟩ := (risingKeys_cons _ m).1 h
    simp only [sparseInsert]
    split <;> rename_i hk
    · refine (risingKeys_cons _ _).2 ⟨fun e he => ?_, h⟩
      rcases List.mem_cons.1 he with rfl | he
      · exact hk
      · exact Nat.lt_trans hk (h1 e he)
    · split <;> rename_i hk2
      · exact (risingKeys_cons _ _).2 ⟨h1, h2⟩
      · refine (risingKeys_cons _ _).2 ⟨fun e he => ?_, ih h2⟩
        rcases mem_sparseInsert m a x he with rfl | he
        · show k < a; omega
        · exact h1 e he

theorem sparseErase_eq_filter {α : Type} (m : List (Nat × α)) (a : Nat) : sparseErase m a = m.filter fun e => decide (e.1 ≠ a) := by
  induction m with
  | nil => rfl
  | cons c m ih =>
    obtain ⟨k, v⟩ := c
    by_cases hk : k = a <;> simp [sparseErase, hk, ih]

/-- Writing keeps a sparse list canonical against defaults that may depend on the key. -/
theorem sparseSet_wf {α : Type} [DecidableEq α] (d : Nat → α) (m : List (Nat × α)) (a : Nat) (x : α)
    (h : risingKeys m = true ∧ ∀ e ∈ m, e.2 ≠ d e.1) :
    risingKeys (sparseSet (d a) m a x) = true ∧ ∀ e ∈ sparseSet (d a) m a x, e.2 ≠ d e.1 := by
  unfold sparseSet
  split <;> rename_i hx
  · rw [sparseErase_eq_filter]
    exact ⟨risingKeys_filter _ _ h.1, fun e he => h.2 e (List.mem_filter.1 he).1⟩
  · refine ⟨risingKeys_sparseInsert _ _ _ h.1, fun e he => ?_⟩
    rcases mem_sparseInsert m a x he with rfl | he
    · exact hx
    · exact h.2 e he

theorem Mem.wf_iff (d : Option Byte) (m : Mem) : Mem.wf d m = true ↔ risingKeys m = true ∧ ∀ e ∈ m, some e.2 ≠ d := by
  simp [Mem.wf]

theorem RegFile.wf_iff (r : RegFile) : RegFile.wf r = true ↔ risingKeys r = true ∧ ∀ e ∈ r, e.2 ≠ regReset e.1 := by
  simp [RegFile.wf]

theorem Mem.wf_filter (d : Option Byte) (p : Nat × Byte → Bool) {m : Mem} (h : Mem.wf d m = true) : Mem.wf d (m.filter p) = true :=
  (Mem.wf_iff _ _).2 ⟨risingKeys_filter _ _ ((Mem.wf_iff _ _).1 h).1, fun e he => ((Mem.wf_iff _ _).1 h).2 e (List.mem_filter.1 he).1⟩

theorem RegFile.wf_filter (p : Nat × BitVec 32 → Bool) {r : RegFile} (h : r.wf = true) : RegFile.wf (r.filter p) = true :=
  (RegFile.wf_iff _).2 ⟨risingKeys_filter _ _ ((RegFile.wf_iff _).1 h).1, fun e he => ((RegFile.wf_iff _).1 h).2 e (List.mem_filter.1 he).1⟩

theorem RegFile.wf_set (o : Nat) (v : BitVec 32) {r : RegFile} (h : r.wf = true) : RegFile.wf (sparseSet (regReset o) r o v) = true :=
  (RegFile.wf_iff _).2 (sparseSet_wf regReset r o v ((RegFile.wf_iff _).1 h))

/-- Writing bytes keeps a memory canonical. -/
theorem writeRange_wf (d : Option Byte) (m : Mem) (a : Nat) (bs : List Byte) (h : Mem.wf d m = true) : Mem.wf d (writeRange d m a bs) = true := by
  induction bs generalizing m a with
  | nil => exact h
  | cons b t ih =>
    refine ih _ _ ((Mem.wf_iff _ _).2 ?_)
    have hm := (Mem.wf_iff _ _).1 h
    cases d with
    | none => exact ⟨risingKeys_sparseInsert _ _ _ hm.1, fun e _ => by simp⟩
    | some z =>
      obtain ⟨h1, h2⟩ := sparseSet_wf (fun _ => z) m a b ⟨hm.1, fun e he hz => hm.2 e he (congrArg some hz)⟩
      exact ⟨h1, fun e he hz => h2 e he (Option.some.inj hz)⟩

end Sys2Proof.Machine
end

