-- ==== Sys2Proof/Laws/Keeps.lean ====
section
/-! SUPPORT. How `Keeps` and `Same` are put together: a state itself, an update, a fold, a choice. The files Laws/Keeps*.lean and Laws/Frame*.lean hold one lemma each per operation over State: what the operation keeps of a state it keeps of any state before it, and which pieces it may change. -/

namespace Sys2Proof.Machine

theorem numberedTo.map {l : List Flight} {n : Nat} (w : numberedTo l n) (g : Flight → Flight) (hg : ∀ f, (g f).id = f.id) : numberedTo (l.map g) n :=
  ⟨List.pairwise_map.2 (w.1.imp fun {a b} h => by rw [hg, hg]; exact h), fun f hf => by
    obtain ⟨a, ha, rfl⟩ := List.mem_map.1 hf
    rw [hg]
    exact w.2 a ha⟩
theorem numberedTo.filter {l : List Flight} {n : Nat} (w : numberedTo l n) (p : Flight → Bool) : numberedTo (l.filter p) n :=
  ⟨w.1.filter p, fun f hf => w.2 f (List.mem_filter.1 hf).1⟩
theorem numberedTo.push {l : List Flight} {n : Nat} (w : numberedTo l n) (f : Flight) (hf : f.id = n) : numberedTo (l ++ [f]) (n + 1) :=
  ⟨List.pairwise_append.2 ⟨w.1, List.pairwise_singleton _ _, fun a ha b hb => by
    rw [List.mem_singleton.1 hb, hf]; exact w.2 a ha⟩, fun a ha => by
    rcases List.mem_append.1 ha with h | h
    · exact Nat.lt_succ_of_lt (w.2 a h)
    · rw [List.mem_singleton.1 h, hf]; exact Nat.lt_succ_self n⟩
theorem OKeeps.next {s t : State} (h : Keeps s t) : OKeeps s (.next t) := by
  intro u hu; cases hu; exact h
theorem Keeps.refl (s : State) : Keeps s s := ⟨rfl, Nat.le_refl _, Nat.le_refl _, List.prefix_refl _, id, id⟩
theorem Keeps.upd {s0 s : State} {a b c d e f g i j k l m n o p q r u v w x} (h : Keeps s0 s)
    (hf : d.flights = s.hif.flights := by exact rfl) (hn : d.nextId = s.hif.nextId := by exact rfl) :
    Keeps s0 (State.mk s.regs a b c d e f g i j k l m n o p q r u v w x s.latch s.dram s.tables s.now s.draws s.out s.pending) :=
  ⟨h.pending, h.now, h.draws, h.out, h.wf, fun w => by
    show numberedTo d.flights d.nextId
    rw [hf, hn]
    exact h.ids w⟩
theorem Keeps.foldl {α : Type} {s0 s : State} {f : State → α → State} {l : List α}
    (hf : ∀ t x, Keeps s0 t → Keeps s0 (f t x)) (h : Keeps s0 s) : Keeps s0 (l.foldl f s) := by
  induction l generalizing s with
  | nil => exact h
  | cons x l ih => exact ih (hf _ _ h)
theorem Keeps.ite {s0 a b : State} {c : Prop} [Decidable c] (ha : Keeps s0 a) (hb : Keeps s0 b) : Keeps s0 (if c then a else b) := by
  split
  · exact ha
  · exact hb

theorem Touch.le.sub {a b M : Touch} (h : (a &&& b == a) = true) (hM : Touch.le b M) : Touch.le a M := by
  have h' : a &&& b = a := eq_of_beq h
  show a &&& M = a
  rw [← h', Nat.and_assoc, show b &&& M = b from hM]

theorem Touch.le.of {a b : Touch} (h : (a &&& b == a) = true := by rfl) : Touch.le a b := eq_of_beq h

theorem Touch.not_le {a b : Touch} (h : (a &&& b == a) = false) : ¬ Touch.le a b := by
  intro hle
  rw [show a &&& b = a from hle] at h
  simp at h

theorem Same.refl (M : Touch) (s : State) : Same M s s :=
  ⟨.inr rfl, .inr rfl, .inr rfl, .inr rfl, .inr rfl, .inr rfl, .inr rfl, .inr rfl, .inr rfl, .inr rfl, .inr rfl, .inr rfl, .inr rfl, .inr rfl, .inr rfl, .inr rfl, .inr rfl, .inr rfl, .inr rfl, .inr rfl, .inr rfl, .inr rfl, .inr rfl, .inr rfl, .inr rfl, .inr rfl, .inr rfl, .inr rfl⟩

theorem OSame.next {M : Touch} {s t : State} (h : Same M s t) : OSame M s (.next t) := by
  intro u hu
  cases hu
  exact h

theorem Same.foldl {M : Touch} {α : Type} {s0 s : State} {f : State → α → State} {l : List α}
    (hf : ∀ t x, Same M s0 t → Same M s0 (f t x)) (h : Same M s0 s) : Same M s0 (l.foldl f s) := by
  induction l generalizing s with
  | nil => exact h
  | cons x l ih => exact ih (hf _ _ h)

theorem Same.ite {M : Touch} {s0 a b : State} {c : Prop} [Decidable c] (ha : Same M s0 a) (hb : Same M s0 b) :
    Same M s0 (if c then a else b) := by
  split
  · exact ha
  · exact hb

theorem Same.upd {M : Touch} {s0 s : State} {v0 v1 v2 v3 v4 v5 v6 v7 v8 v9 v10 v11 v12 v13 v14 v15 v16 v17 v18 v19 v20 v21 v22 v23 v24 v25 v26 v27 v28} (h : Same M s0 s)
    (regs : Touch.le (.of [.regs]) M ∨ v0 = s.regs := by exact .inr rfl)
    (rst : Touch.le (.of [.rst]) M ∨ v1 = s.rst := by exact .inr rfl)
    (pins : Touch.le (.of [.pins]) M ∨ v2 = s.pins := by exact .inr rfl)
    (clk : Touch.le (.of [.clk]) M ∨ v3 = s.clk := by exact .inr rfl)
    (hif : Touch.le (.of [.hif]) M ∨ v4 = s.hif := by exact .inr rfl)
    (mmu : Touch.le (.of [.mmu]) M ∨ v5 = s.mmu := by exact .inr rfl)
    (cpy : Touch.le (.of [.cpy]) M ∨ v6 = s.cpy := by exact .inr rfl)
    (dmc : Touch.le (.of [.dmc]) M ∨ v7 = s.dmc := by exact .inr rfl)
    (qdc : Touch.le (.of [.qdc]) M ∨ v8 = s.qdc := by exact .inr rfl)
    (scr : Touch.le (.of [.scr]) M ∨ v9 = s.scr := by exact .inr rfl)
    (csm : Touch.le (.of [.csm]) M ∨ v10 = s.csm := by exact .inr rfl)
    (pos : Touch.le (.of [.pos]) M ∨ v11 = s.pos := by exact .inr rfl)
    (fir : Touch.le (.of [.fir]) M ∨ v12 = s.fir := by exact .inr rfl)
    (plk : Touch.le (.of [.plk]) M ∨ v13 = s.plk := by exact .inr rfl)
    (cam : Touch.le (.of [.cam]) M ∨ v14 = s.cam := by exact .inr rfl)
    (lop : Touch.le (.of [.lop]) M ∨ v15 = s.lop := by exact .inr rfl)
    (lck : Touch.le (.of [.lck]) M ∨ v16 = s.lck := by exact .inr rfl)
    (tim : Touch.le (.of [.tim]) M ∨ v17 = s.tim := by exact .inr rfl)
    (urg : Touch.le (.of [.urg]) M ∨ v18 = s.urg := by exact .inr rfl)
    (twn : Touch.le (.of [.twn]) M ∨ v19 = s.twn := by exact .inr rfl)
    (thm : Touch.le (.of [.thm]) M ∨ v20 = s.thm := by exact .inr rfl)
    (pmc : Touch.le (.of [.pmc]) M ∨ v21 = s.pmc := by exact .inr rfl)
    (latch : Touch.le (.of [.latch]) M ∨ v22 = s.latch := by exact .inr rfl)
    (dram : Touch.le (.of [.dram]) M ∨ v23 = s.dram := by exact .inr rfl)
    (tables : Touch.le (.of [.tables]) M ∨ v24 = s.tables := by exact .inr rfl)
    (now : Touch.le (.of [.now]) M ∨ v25 = s.now := by exact .inr rfl)
    (draws : Touch.le (.of [.draws]) M ∨ v26 = s.draws := by exact .inr rfl)
    (out : Touch.le (.of [.out]) M ∨ v27 = s.out := by exact .inr rfl)
    : Same M s0 (State.mk v0 v1 v2 v3 v4 v5 v6 v7 v8 v9 v10 v11 v12 v13 v14 v15 v16 v17 v18 v19 v20 v21 v22 v23 v24 v25 v26 v27 v28) :=
  ⟨regs.elim .inl (fun e => e ▸ h.regs), rst.elim .inl (fun e => e ▸ h.rst), pins.elim .inl (fun e => e ▸ h.pins), clk.elim .inl (fun e => e ▸ h.clk), hif.elim .inl (fun e => e ▸ h.hif), mmu.elim .inl (fun e => e ▸ h.mmu), cpy.elim .inl (fun e => e ▸ h.cpy), dmc.elim .inl (fun e => e ▸ h.dmc), qdc.elim .inl (fun e => e ▸ h.qdc), scr.elim .inl (fun e => e ▸ h.scr), csm.elim .inl (fun e => e ▸ h.csm), pos.elim .inl (fun e => e ▸ h.pos), fir.elim .inl (fun e => e ▸ h.fir), plk.elim .inl (fun e => e ▸ h.plk), cam.elim .inl (fun e => e ▸ h.cam), lop.elim .inl (fun e => e ▸ h.lop), lck.elim .inl (fun e => e ▸ h.lck), tim.elim .inl (fun e => e ▸ h.tim), urg.elim .inl (fun e => e ▸ h.urg), twn.elim .inl (fun e => e ▸ h.twn), thm.elim .inl (fun e => e ▸ h.thm), pmc.elim .inl (fun e => e ▸ h.pmc), latch.elim .inl (fun e => e ▸ h.latch), dram.elim .inl (fun e => e ▸ h.dram), tables.elim .inl (fun e => e ▸ h.tables), now.elim .inl (fun e => e ▸ h.now), draws.elim .inl (fun e => e ▸ h.draws), out.elim .inl (fun e => e ▸ h.out)⟩

end Sys2Proof.Machine
end

