-- ==== Sys2Proof/Laws/FrameRegisters.lean ====
section
/-! SUPPORT. What the operations of Machine/Registers.lean may change. -/

set_option Elab.async false

namespace Sys2Proof.Machine

theorem State.setReg_frame {M : Nat} {s0 : State} (hM : Touch.le (.of [.regs]) M) {s : State} (o : Nat) (v : BitVec 32) (h : Same M s0 s) : Same M s0 (State.setReg s o v) := by
  unfold State.setReg
  exact Same.upd h (regs := .inl (.sub rfl hM))

theorem State.setField_frame {M : Nat} {s0 : State} (hM : Touch.le (.of [.regs]) M) {s : State} (o : Nat) (lo : Nat) (w : Nat) (x : Nat) (h : Same M s0 s) : Same M s0 (State.setField s o lo w x) := by
  unfold State.setField
  exact State.setReg_frame (.sub rfl hM) _ _ h

theorem State.hostWrite_frame {M : Nat} {s0 : State} (hM : Touch.le (.of [.regs]) M) {s : State} (o : Nat) (v : BitVec 32) (h : Same M s0 s) : Same M s0 (State.hostWrite s o v) := by
  unfold State.hostWrite
  split
  · exact h
  · exact State.setReg_frame (.sub rfl hM) _ _ h

end Sys2Proof.Machine
end

