-- ==== Sys2Proof/Laws/FrameOps.lean ====
section
/-! SUPPORT. What the operations of Machine/Ops.lean may change. -/

set_option Elab.async false

namespace Sys2Proof.Machine

theorem State.emit_frame {M : Nat} {s0 : State} (hM : Touch.le (.of [.out]) M) {s : State} (o : Out) (h : Same M s0 s) : Same M s0 (State.emit s o) := by
  unfold State.emit
  exact Same.upd h (out := .inl (.sub rfl hM))

theorem State.raiseCounter_frame {M : Nat} {s0 : State} (hM : Touch.le (.of [.pmc, .out]) M) {s : State} (k : Fin 64) (n : Nat) (h : Same M s0 s) : Same M s0 (State.raiseCounter s k n) := by
  unfold State.raiseCounter
  extract_lets -merge -underBinder +onlyGivenNames x1
  extract_lets -merge -underBinder +onlyGivenNames z_2 x3
  have hx3 : Same M s0 x3 := Same.upd h (pmc := .inl (.sub rfl hM))
  refine Same.ite ?_ ?_
  · exact hx3
  · extract_lets -merge -underBinder +onlyGivenNames z_5 x6
    have hx6 : Same M s0 x6 := Same.upd hx3 (pmc := .inl (.sub rfl hM))
    refine Same.ite ?_ ?_
    · exact State.emit_frame (.sub rfl hM) _ hx6
    · exact hx6

theorem State.countEvent_frame {M : Nat} {s0 : State} (hM : Touch.le (.of [.pmc, .out]) M) {s : State} (code : Nat) (n : Nat) (i : EventInfo) (h : Same M s0 s) : Same M s0 (State.countEvent s code n i) := by
  unfold State.countEvent
  refine Same.ite ?_ ?_
  · exact h
  · refine Same.foldl (fun _ _ h1 => ?_) ?_
    · refine Same.ite ?_ ?_
      · exact State.raiseCounter_frame (.sub rfl hM) _ _ h1
      · exact h1
    · exact h

theorem State.signal_frame {M : Nat} {s0 : State} (hM : Touch.le (.of [.hif, .pmc, .out]) M) {s : State} (v : Fin 64) (h : Same M s0 s) : Same M s0 (State.signal s v) := by
  unfold State.signal
  refine Same.ite ?_ ?_
  · exact Same.upd h (hif := .inl (.sub rfl hM))
  · exact State.countEvent_frame (.sub rfl hM) _ _ _ (State.emit_frame (.sub rfl hM) _ h)

theorem State.signalLog_frame {M : Nat} {s0 : State} (hM : Touch.le (.of [.hif, .pmc, .out]) M) {s : State} (h : Same M s0 s) : Same M s0 (State.signalLog s) := by
  unfold State.signalLog
  refine State.signal_frame (.sub rfl hM) _ ?_
  exact Same.upd h (hif := .inl (.sub rfl hM))

theorem State.putRecord_frame {M : Nat} {s0 : State} (hM : Touch.le (.of [.hif, .pmc, .out]) M) {s : State} (code : Nat) (sev : Nat) (unit : Nat) (data : List Sys2Proof.Byte) (h : Same M s0 s) : Same M s0 (State.putRecord s code sev unit data) := by
  unfold State.putRecord
  extract_lets -merge -underBinder +onlyGivenNames x1
  extract_lets -merge -underBinder +onlyGivenNames x2
  extract_lets -merge -underBinder +onlyGivenNames x3
  extract_lets -merge -underBinder +onlyGivenNames z_4 x5
  have hx5 : Same M s0 x5 := by
    refine State.countEvent_frame (.sub rfl hM) _ _ _ ?_
    refine State.emit_frame (.sub rfl hM) _ ?_
    exact Same.upd h (hif := .inl (.sub rfl hM))
  refine Same.ite ?_ ?_
  · exact State.signalLog_frame (.sub rfl hM) hx5
  · exact hx5

theorem State.signalCr_frame {M : Nat} {s0 : State} (hM : Touch.le (.of [.hif, .pmc, .out]) M) {s : State} (m : Fin 8) (h : Same M s0 s) : Same M s0 (State.signalCr s m) := by
  unfold State.signalCr
  refine State.signal_frame (.sub rfl hM) _ ?_
  exact Same.upd h (hif := .inl (.sub rfl hM))

theorem State.putLost_frame {M : Nat} {s0 : State} (hM : Touch.le (.of [.hif, .pmc, .out]) M) {s : State} (h : Same M s0 s) : Same M s0 (State.putLost s) := by
  unfold State.putLost
  refine Same.ite ?_ ?_
  · refine State.putRecord_frame (.sub rfl hM) _ _ _ _ ?_
    exact Same.upd h (hif := .inl (.sub rfl hM))
  · exact h

theorem State.writeCompletion_frame {M : Nat} {s0 : State} (hM : Touch.le (.of [.hif, .pmc, .out]) M) {s : State} (m : Fin 8) (tag : BitVec 32) (index : BitVec 16) (status : BitVec 8) (ring : Fin 16) (result : Nat) (irq : Bool) (h : Same M s0 s) : Same M s0 (State.writeCompletion s m tag index status ring result irq) := by
  unfold State.writeCompletion
  extract_lets -merge -underBinder +onlyGivenNames x1
  extract_lets -merge -underBinder +onlyGivenNames x2
  extract_lets -merge -underBinder +onlyGivenNames x3
  extract_lets -merge -underBinder +onlyGivenNames z_4 x5
  have hx5 : Same M s0 x5 := by
    refine State.countEvent_frame (.sub rfl hM) _ _ _ ?_
    refine State.emit_frame (.sub rfl hM) _ ?_
    exact Same.upd h (hif := .inl (.sub rfl hM))
  refine Same.ite ?_ ?_
  · exact State.signalCr_frame (.sub rfl hM) _ hx5
  · exact hx5

theorem State.countDram_frame {M : Nat} {s0 : State} (hM : Touch.le (.of [.pmc, .out]) M) {s : State} (port : Fin 10) (cls : Nat) (bytes : Nat) (addr : Nat) (h : Same M s0 s) : Same M s0 (State.countDram s port cls bytes addr) := by
  unfold State.countDram
  extract_lets -merge -underBinder +onlyGivenNames x1
  extract_lets -merge -underBinder +onlyGivenNames x2
  have hx2 : Same M s0 x2 := State.countEvent_frame (.sub rfl hM) _ _ _ h
  refine Same.ite ?_ ?_
  · exact hx2
  · extract_lets -merge -underBinder +onlyGivenNames x3
    exact Same.upd hx2 (pmc := .inl (.sub rfl hM))

theorem State.eraseBytes_frame {M : Nat} {s0 : State} (hM : Touch.le (.of [.tables]) M) {s : State} (gone : Nat → Bool) (h : Same M s0 s) : Same M s0 (State.eraseBytes s gone) := by
  unfold State.eraseBytes
  exact Same.upd h (tables := .inl (.sub rfl hM))

theorem State.writeTable_frame {M : Nat} {s0 : State} (hM : Touch.le (.of [.tables]) M) {s : State} (t : Nat) (off : Nat) (bs : List Sys2Proof.Byte) (h : Same M s0 s) : Same M s0 (State.writeTable s t off bs) := by
  unfold State.writeTable
  exact Same.upd h (tables := .inl (.sub rfl hM))

theorem State.loseDram_frame {M : Nat} {s0 : State} (hM : Touch.le (.of [.dram]) M) {s : State} (h : Same M s0 s) : Same M s0 (State.loseDram s) := by
  unfold State.loseDram
  exact Same.upd h (dram := .inl (.sub rfl hM))

theorem State.draw_frame {M : Nat} {s0 : State} (hM : Touch.le (.of [.draws]) M) {s : State} (h : Same M s0 s) : Same M s0 (State.draw s).2 := by
  unfold State.draw
  exact Same.upd h (draws := .inl (.sub rfl hM))

theorem State.log_frame {M : Nat} {s0 : State} (hM : Touch.le (.of [.regs, .hif, .pmc, .out]) M) {s : State} (code : Nat) (sev : Nat) (unit : Nat) (data : List Sys2Proof.Byte) (h : Same M s0 s) : Same M s0 (State.log s code sev unit data) := by
  unfold State.log
  refine Same.ite ?_ ?_
  · extract_lets -merge -underBinder +onlyGivenNames x1
    have hx1 : Same M s0 x1 := State.putLost_frame (.sub rfl hM) h
    refine Same.ite ?_ ?_
    · exact State.putRecord_frame (.sub rfl hM) _ _ _ _ hx1
    · refine State.setReg_frame (.sub rfl hM) _ _ ?_
      exact Same.upd hx1 (hif := .inl (.sub rfl hM))
  · exact h

end Sys2Proof.Machine
end

