-- ==== Sys2Proof/Laws/FrameDramQueue.lean ====
section
/-! SUPPORT. What the operations of Machine/DramQueue.lean may change. -/

set_option Elab.async false

namespace Sys2Proof.Machine

theorem State.recordDrop_frame {M : Nat} {s0 : State} (hM : Touch.le (.of [.dmc]) M) {s : State} (port : Fin 10) (a : Nat) (h : Same M s0 s) : Same M s0 (State.recordDrop s port a) := by
  unfold State.recordDrop
  exact Same.upd h (dmc := .inl (.sub rfl hM))

theorem State.recordUe_frame {M : Nat} {s0 : State} (hM : Touch.le (.of [.dmc, .twn]) M) {s : State} (port : Fin 10) (a : Nat) (h : Same M s0 s) : Same M s0 (State.recordUe s port a) := by
  unfold State.recordUe
  exact Same.upd h (dmc := .inl (.sub rfl hM)) (twn := .inl (.sub rfl hM))

theorem State.storeUnit_frame {M : Nat} {s0 : State} (hM : Touch.le (.of [.dmc, .dram]) M) {s : State} (a : Nat) (bs : List Sys2Proof.Byte) (h : Same M s0 s) : Same M s0 (State.storeUnit s a bs) := by
  unfold State.storeUnit
  exact Same.upd h (dmc := .inl (.sub rfl hM)) (dram := .inl (.sub rfl hM))

theorem State.accepted_frame {M : Nat} {s0 : State} (hM : Touch.le (.of [.dmc, .pmc, .out]) M) {s : State} (r : DramReq) (h : Same M s0 s) : Same M s0 (State.accepted s r) := by
  unfold State.accepted
  refine State.countDram_frame (.sub rfl hM) _ _ _ _ ?_
  exact Same.upd h (dmc := .inl (.sub rfl hM))

theorem State.modSub_frame {M : Nat} {s0 : State} (hM : Touch.le (.of [.dmc]) M) {s : State} (k : Fin 4) (f : Subchannel → Subchannel) (h : Same M s0 s) : Same M s0 (State.modSub s k f) := by
  unfold State.modSub
  exact Same.upd h (dmc := .inl (.sub rfl hM))

theorem State.fillEnds_frame {M : Nat} {s0 : State} (hM : Touch.le (.of [.dmc]) M) {s : State} (h : Same M s0 s) : Same M s0 (State.fillEnds s) := by
  unfold State.fillEnds
  split
  · refine Same.ite ?_ ?_
    · exact Same.upd h (dmc := .inl (.sub rfl hM))
    · exact h
  · exact h

theorem State.refreshNeighbours_frame {M : Nat} {s0 : State} (hM : Touch.le (.of [.pmc, .out]) M) {s : State} (k : Fin 4) (d : DramReq) (h : Same M s0 s) : Same M s0 (State.refreshNeighbours s k d) := by
  unfold State.refreshNeighbours
  extract_lets -merge -underBinder +onlyGivenNames x1
  refine State.countEvent_frame (.sub rfl hM) _ _ _ ?_
  refine Same.ite ?_ ?_
  · exact State.emit_frame (.sub rfl hM) _ h
  · refine Same.foldl (fun _ _ h2 => ?_) ?_
    · exact State.emit_frame (.sub rfl hM) _ h2
    · exact h

theorem State.activate_frame {M : Nat} {s0 : State} (hM : Touch.le (.of [.dmc, .pmc, .draws, .out]) M) {s : State} (k : Fin 4) (r : DramReq) (h : Same M s0 s) : Same M s0 (State.activate s k r) := by
  unfold State.activate
  extract_lets -merge -underBinder +onlyGivenNames x1
  extract_lets -merge -underBinder +onlyGivenNames x2
  have hx2 : Same M s0 x2 := by
    refine Same.foldl (fun _ _ h3 => ?_) ?_
    · exact State.refreshNeighbours_frame (.sub rfl hM) _ _ h3
    · exact h
  extract_lets -merge -underBinder +onlyGivenNames x4
  exact State.countEvent_frame (.sub rfl hM) _ _ _ (State.modSub_frame (.sub rfl hM) _ _ (State.draw_frame (.sub rfl hM) hx2))

theorem State.issueReq_frame {M : Nat} {s0 : State} (hM : Touch.le (.of [.dmc, .pmc, .draws, .out]) M) {s : State} (k : Fin 4) (r : DramReq) (h : Same M s0 s) : Same M s0 (State.issueReq s k r) := by
  unfold State.issueReq
  extract_lets -merge -underBinder +onlyGivenNames x1
  have hx1 : Same M s0 x1 := by
    refine Same.ite ?_ ?_
    · exact State.countEvent_frame (.sub rfl hM) _ _ _ (State.modSub_frame (.sub rfl hM) _ _ h)
    · exact State.activate_frame (.sub rfl hM) _ _ h
  exact State.modSub_frame (.sub rfl hM) _ _ hx1

theorem State.pickIssue_frame {M : Nat} {s0 : State} (hM : Touch.le (.of [.dmc, .pmc, .draws, .out]) M) {s : State} (k : Fin 4) (h : Same M s0 s) : Same M s0 (State.pickIssue s k) := by
  unfold State.pickIssue
  split
  · exact h
  · exact State.fillEnds_frame (.sub rfl hM) (State.issueReq_frame (.sub rfl hM) _ _ h)

theorem State.makeSlot_frame {M : Touch} {s0 : State} (hM : Touch.le (.of [.dmc, .pmc, .draws, .out]) M) {s : State} (k : Fin 4) (n : Nat) (h : Same M s0 s) : Same M s0 (s.makeSlot k n) := by
  induction n generalizing s with
  | zero => exact h
  | succ n ih => exact Same.ite (ih (State.pickIssue_frame (.sub rfl hM) _ h)) h

theorem State.queueWrite_frame {M : Nat} {s0 : State} (hM : Touch.le (.of [.dmc, .pmc, .draws, .out]) M) {s : State} (r : DramReq) (h : Same M s0 s) : Same M s0 (State.queueWrite s r) := by
  unfold State.queueWrite
  extract_lets -merge -underBinder +onlyGivenNames x1
  exact State.accepted_frame (.sub rfl hM) _ (State.modSub_frame (.sub rfl hM) _ _ (State.makeSlot_frame (.sub rfl hM) _ _ h))

theorem State.putWrite_frame {M : Nat} {s0 : State} (hM : Touch.le (.of [.dmc, .twn, .pmc, .dram, .draws, .out]) M) {s : State} (r : DramReq) (bs : List Sys2Proof.Byte) (h : Same M s0 s) : Same M s0 (State.putWrite s r bs) := by
  unfold State.putWrite
  refine Same.ite ?_ ?_
  · exact h
  · refine Same.ite ?_ ?_
    · exact State.recordDrop_frame (.sub rfl hM) _ _ h
    · refine Same.ite ?_ ?_
      · exact State.recordUe_frame (.sub rfl hM) _ _ h
      · exact State.storeUnit_frame (.sub rfl hM) _ _ (State.queueWrite_frame (.sub rfl hM) _ h)

theorem State.spoilUnit_frame {M : Nat} {s0 : State} (hM : Touch.le (.of [.dmc]) M) {s : State} (u : Nat) (h : Same M s0 s) : Same M s0 (State.spoilUnit s u) := by
  unfold State.spoilUnit
  exact Same.upd h (dmc := .inl (.sub rfl hM))

theorem State.serveUntil_frame {M : Touch} {s0 : State} (hM : Touch.le (.of [.dmc, .pmc, .draws, .out]) M) {s : State} (k : Fin 4) (seq n : Nat) (h : Same M s0 s) : Same M s0 (s.serveUntil k seq n) := by
  induction n generalizing s with
  | zero => exact h
  | succ n ih => exact Same.ite (ih (State.pickIssue_frame (.sub rfl hM) _ h)) h

theorem State.serveRead_frame {M : Nat} {s0 : State} (hM : Touch.le (.of [.dmc, .pmc, .draws, .out]) M) {s : State} (r : DramReq) (h : Same M s0 s) : Same M s0 (State.serveRead s r) := by
  unfold State.serveRead
  extract_lets -merge -underBinder +onlyGivenNames x1
  refine Same.ite ?_ ?_
  · exact h
  · refine Same.ite ?_ ?_
    · exact State.accepted_frame (.sub rfl hM) _ h
    · extract_lets -merge -underBinder +onlyGivenNames x2
      have hx2 : Same M s0 x2 := State.accepted_frame (.sub rfl hM) _ (State.modSub_frame (.sub rfl hM) _ _ h)
      exact State.modSub_frame (.sub rfl hM) _ _ (State.serveUntil_frame (.sub rfl hM) _ _ _ hx2)

end Sys2Proof.Machine
end

