-- ==== Sys2Proof/Laws/FrameMemory.lean ====
section
/-! SUPPORT. What the operations of Machine/Memory.lean may change. -/

set_option Elab.async false

namespace Sys2Proof.Machine

theorem State.dramReadUnit_frame {M : Nat} {s0 : State} (hM : Touch.le (.of [.dmc, .twn, .pmc, .draws, .out]) M) {s : State} (port : Fin 10) (a : Nat) (len : Nat) (chamber : Bool) (h : Same M s0 s) : Same M s0 (State.dramReadUnit s port a len chamber) := by
  unfold State.dramReadUnit
  extract_lets -merge -underBinder +onlyGivenNames x1
  have hx1 : Same M s0 x1 := State.serveRead_frame (.sub rfl hM) _ h
  refine Same.ite ?_ ?_
  · exact State.recordUe_frame (.sub rfl hM) _ _ hx1
  · exact hx1

theorem State.dramTouch_frame {M : Nat} {s0 : State} (hM : Touch.le (.of [.dmc, .twn, .pmc, .draws, .out]) M) {s : State} (port : Fin 10) (a : Nat) (len : Nat) (chamber : Bool) (h : Same M s0 s) : Same M s0 (State.dramTouch s port a len chamber) := by
  unfold State.dramTouch
  refine Same.foldl (fun _ _ h1 => ?_) ?_
  · exact State.dramReadUnit_frame (.sub rfl hM) _ _ _ _ h1
  · exact h

theorem State.dramRead_frame {M : Nat} {s0 : State} (hM : Touch.le (.of [.dmc, .twn, .pmc, .draws, .out]) M) {s : State} (port : Fin 10) (a : Nat) (len : Nat) (chamber : Bool) (h : Same M s0 s) : Same M s0 (State.dramRead s port a len chamber).2.2 := by
  unfold State.dramRead
  exact State.dramTouch_frame (.sub rfl hM) _ _ _ _ h

theorem State.readPte_frame {M : Nat} {s0 : State} (hM : Touch.le (.of [.dmc, .twn, .pmc, .draws, .out]) M) {s : State} (port : Fin 10) (a : Nat) (h : Same M s0 s) : Same M s0 (State.readPte s port a).2 := by
  unfold State.readPte
  split
  · rename_i v1 v2 v3 e4
    have hv3 : Same M s0 v3 := (congrArg (fun r => Same M s0 r.2.2) e4).mp (State.dramRead_frame (.sub rfl hM) _ _ _ _ h)
    exact hv3

theorem State.pickPte_frame {M : Nat} {s0 : State} (hM : Touch.le (.of [.dmc, .twn, .pmc, .draws, .out]) M) {s : State} (port : Fin 10) (level : Nat) (pre : Nat) (a : Nat) (h : Same M s0 s) : Same M s0 (State.pickPte s port level pre a).2 := by
  unfold State.pickPte
  split
  · exact State.readPte_frame (.sub rfl hM) _ _ h
  · split
    · exact h
    · extract_lets -merge -underBinder +onlyGivenNames x1
      split
      · exact State.draw_frame (.sub rfl hM) h
      · exact State.readPte_frame (.sub rfl hM) _ _ (State.draw_frame (.sub rfl hM) h)

theorem State.cachePte_frame {M : Nat} {s0 : State} (hM : Touch.le (.of [.mmu]) M) {s : State} (level : Nat) (pre : Nat) (pte : Nat) (h : Same M s0 s) : Same M s0 (State.cachePte s level pre pte) := by
  unfold State.cachePte
  extract_lets -merge -underBinder +onlyGivenNames x1
  exact Same.upd h (mmu := .inl (.sub rfl hM))

theorem State.walkFrom_frame {M : Touch} {s0 : State} (hM : Touch.le (.of [.mmu, .dmc, .twn, .pmc, .draws, .out]) M) {s : State} (port : Fin 10) (job : Nat) (write : Bool) (left level table : Nat) (h : Same M s0 s) :
    Same M s0 (s.walkFrom port job write left level table).2 := by
  induction left generalizing s level table with
  | zero => exact h
  | succ left ih =>
    unfold State.walkFrom
    extract_lets sh idx pre
    split
    · rename_i s1 e
      exact (congrArg (fun r => Same M s0 r.2) e).mp (State.pickPte_frame (.sub rfl hM) _ _ _ _ h)
    · rename_i p s2 e
      have h2 : Same M s0 s2 := (congrArg (fun r => Same M s0 r.2) e).mp (State.pickPte_frame (.sub rfl hM) _ _ _ _ h)
      repeat' split
      all_goals first
        | exact h2
        | exact State.cachePte_frame (.sub rfl hM) _ _ _ h2
        | exact ih _ _ (State.cachePte_frame (.sub rfl hM) _ _ _ h2)

theorem State.dramPutUnit_frame {M : Nat} {s0 : State} (hM : Touch.le (.of [.dmc, .twn, .pmc, .dram, .draws, .out]) M) {s : State} (port : Fin 10) (a : Nat) (bs : List Sys2Proof.Byte) (chamber : Bool) (h : Same M s0 s) : Same M s0 (State.dramPutUnit s port a bs chamber) := by
  unfold State.dramPutUnit
  exact State.putWrite_frame (.sub rfl hM) _ _ h

theorem State.dramPut_frame {M : Nat} {s0 : State} (hM : Touch.le (.of [.dmc, .twn, .pmc, .dram, .draws, .out]) M) {s : State} (port : Fin 10) (a : Nat) (bs : List Sys2Proof.Byte) (chamber : Bool) (h : Same M s0 s) : Same M s0 (State.dramPut s port a bs chamber) := by
  unfold State.dramPut
  refine Same.foldl (fun _ _ h1 => ?_) ?_
  · exact State.dramPutUnit_frame (.sub rfl hM) _ _ _ _ h1
  · exact h

theorem State.translate_frame {M : Nat} {s0 : State} (hM : Touch.le (.of [.mmu, .dmc, .twn, .pmc, .draws, .out]) M) {s : State} (port : Fin 10) (job : Nat) (write : Bool) (h : Same M s0 s) : Same M s0 (State.translate s port job write).2 := by
  unfold State.translate
  split
  · exact State.walkFrom_frame (.sub rfl hM) _ _ _ _ _ _ h
  · exact h

theorem State.recordFault_frame {M : Nat} {s0 : State} (hM : Touch.le (.of [.mmu]) M) {s : State} (slot : Fin 17) (kind : Nat) (level : Nat) (write : Bool) (op : BitVec 8) (job : Nat) (h : Same M s0 s) : Same M s0 (State.recordFault s slot kind level write op job) := by
  unfold State.recordFault
  extract_lets -merge -underBinder +onlyGivenNames x1
  exact Same.upd h (mmu := .inl (.sub rfl hM))

theorem State.codecWalk_frame {M : Nat} {s0 : State} (hM : Touch.le (.of [.mmu, .dmc, .twn, .pmc, .draws, .out]) M) {s : State} (port : Fin 10) (job : Nat) (h : Same M s0 s) : Same M s0 (State.codecWalk s port job).2 := by
  unfold State.codecWalk
  split
  · split
    · rename_i v1 v2 e3
      have hv2 : Same M s0 v2 := (congrArg (fun r => Same M s0 r.2) e3).mp (State.translate_frame (.sub rfl hM) _ _ _ h)
      exact hv2
    · rename_i v4 v5 v6 e7
      have hv6 : Same M s0 v6 := (congrArg (fun r => Same M s0 r.2) e7).mp (State.translate_frame (.sub rfl hM) _ _ _ h)
      exact State.recordFault_frame (.sub rfl hM) _ _ _ _ _ _ hv6
  · exact h

theorem State.jobRead_frame {M : Touch} {s0 : State} (hM : Touch.le (.of [.mmu, .dmc, .twn, .pmc, .draws, .out]) M) {s : State} (port : Fin 10) (fuel job len : Nat) (h : Same M s0 s) :
    Same M s0 (s.jobRead port fuel job len).2.2 := by
  induction fuel generalizing s job len with
  | zero => exact h
  | succ fuel ih =>
    unfold State.jobRead
    split
    · exact h
    · extract_lets n
      split
      · rename_i s1 e
        exact (congrArg (fun r => Same M s0 r.2) e).mp (State.codecWalk_frame (.sub rfl hM) _ _ h)
      · rename_i ph s1 e
        have h1 : Same M s0 s1 := (congrArg (fun r => Same M s0 r.2) e).mp (State.codecWalk_frame (.sub rfl hM) _ _ h)
        split
        · exact State.dramTouch_frame (.sub rfl hM) _ _ _ _ h1
        · exact ih _ _ (State.dramTouch_frame (.sub rfl hM) _ _ _ _ h1)

end Sys2Proof.Machine
end

