-- ==== Sys2Proof/Laws/Dram.lean ====
section
/-! SUPPORT. What a DRAM write stores depends on the registers, the reset state, the capacity, the faulty channels and the DRAM alone. -/

namespace Sys2Proof.Machine

/-- Two states that DRAM writes treat alike: the same registers, resets, capacity and faulty channels, and the same bytes in DRAM. -/
structure DramLike (s t : State) : Prop where
  regs : t.regs = s.regs
  rst : t.rst = s.rst
  geom : t.dmc.geom = s.dmc.geom
  chFault : t.dmc.chFault = s.dmc.chFault
  dram : t.dram = s.dram

theorem DramLike.refl (s : State) : DramLike s s := ⟨rfl, rfl, rfl, rfl, rfl⟩

theorem DramLike.symm {s t : State} (h : DramLike s t) : DramLike t s :=
  ⟨h.regs.symm, h.rst.symm, h.geom.symm, h.chFault.symm, h.dram.symm⟩

theorem DramLike.trans {s t u : State} (h : DramLike s t) (k : DramLike t u) : DramLike s u :=
  ⟨k.regs.trans h.regs, k.rst.trans h.rst, k.geom.trans h.geom, k.chFault.trans h.chFault, k.dram.trans h.dram⟩

/-- What touches neither registers, resets, DRAM nor DMC leaves a state alike. -/
theorem DramLike.of_same {s t : State} (h : Same (.of [.hif, .mmu, .qdc, .cpy, .twn, .pmc, .draws, .out]) s t) : DramLike s t := by
  have hd := h.dmc.resolve_left (Touch.not_le rfl)
  exact ⟨h.regs.resolve_left (Touch.not_le rfl), h.rst.resolve_left (Touch.not_le rfl), by rw [hd], by rw [hd], h.dram.resolve_left (Touch.not_le rfl)⟩

theorem State.capacity_congr {s t : State} (hg : t.dmc.geom = s.dmc.geom) : t.capacity = s.capacity := by
  unfold State.capacity; rw [hg]

theorem State.rgnAdmits_congr {s t : State} (hr : t.regs = s.regs) (port : Fin 10) (a : Nat) : t.rgnAdmits port a = s.rgnAdmits port a := by
  have h : t.reg = s.reg := funext fun o => by unfold State.reg; rw [hr]
  have hb : ∀ n, t.rgnBase n = s.rgnBase n := fun n => by unfold State.rgnBase State.regField; rw [h]
  have hz : ∀ n, t.rgnSize n = s.rgnSize n := fun n => by unfold State.rgnSize State.regField; rw [h]
  have hh : t.rgnHas = s.rgnHas := by
    funext a n
    unfold State.rgnHas
    rw [hb, hz]
  unfold State.rgnAdmits State.rgnAt State.regBit
  rw [hh, h]

theorem DramLike.unserved {s t : State} (h : DramLike s t) (a : Nat) : t.unserved a = s.unserved a := by
  simp only [State.unserved, State.capacity_congr h.geom, State.subOf, State.subCount, h.rst, h.chFault]

theorem DramLike.blkUp {s t : State} (h : DramLike s t) (b : Blk) : t.blkUp b = s.blkUp b := by
  have e : ∀ u : State, u.blkUp b = { State.reset with rst := u.rst }.blkUp b := fun _ => rfl
  rw [e t, e s, h.rst]

theorem State.modSub_like (s : State) (k : Fin 4) (f : Subchannel → Subchannel) : DramLike s (s.modSub k f) := ⟨rfl, rfl, rfl, rfl, rfl⟩

theorem State.countEvent_like (s : State) (code n : Nat) (i : EventInfo) : DramLike s (s.countEvent code n i) :=
  .of_same (State.countEvent_frame .of _ _ _ (Same.refl _ s))

theorem State.countDram_like (s : State) (port : Fin 10) (c n a : Nat) : DramLike s (s.countDram port c n a) :=
  .of_same (State.countDram_frame .of _ _ _ _ (Same.refl _ s))

theorem State.refreshNeighbours_like (s : State) (k : Fin 4) (d : DramReq) : DramLike s (s.refreshNeighbours k d) :=
  .of_same (State.refreshNeighbours_frame .of _ _ (Same.refl _ s))

theorem State.activate_like (s : State) (k : Fin 4) (r : DramReq) : DramLike s (s.activate k r) := by
  have hf : ∀ (l : List DramReq) (u : State), DramLike u (l.foldl (fun (t : State) x => t.refreshNeighbours k x) u) := by
    intro l
    induction l with
    | nil => exact .refl
    | cons d l ih => exact fun u => (State.refreshNeighbours_like u k d).trans (ih _)
  unfold State.activate
  extract_lets due s1 hit
  have h1 : DramLike s s1 := hf due s
  have h2 : DramLike s1 s1.draw.2 := ⟨rfl, rfl, rfl, rfl, rfl⟩
  exact ((h1.trans h2).trans (State.modSub_like _ _ _)).trans (State.countEvent_like _ _ _ _)

theorem State.issueReq_like (s : State) (k : Fin 4) (r : DramReq) : DramLike s (s.issueReq k r) := by
  have h : DramLike s (if (s.dmc.sub[k]).rowHit r then
      (s.modSub k fun x => { x with hits := match x.hits with
        | some (b, n) => if b = r.bank then some (b, n + 1) else some (r.bank, 1)
        | none => some (r.bank, 1) }).countEvent 0x05 1 r.info
    else s.activate k r) := by
    split
    · exact (State.modSub_like _ _ _).trans (State.countEvent_like _ _ _ _)
    · exact State.activate_like _ _ _
  exact h.trans (State.modSub_like _ _ _)

theorem State.fillEnds_like (s : State) : DramLike s s.fillEnds := by
  unfold State.fillEnds
  split
  · split
    · exact ⟨rfl, rfl, rfl, rfl, rfl⟩
    · exact .refl s
  · exact .refl s

theorem State.pickIssue_like (s : State) (k : Fin 4) : DramLike s (s.pickIssue k) := by
  unfold State.pickIssue
  split
  · exact .refl s
  · exact (State.issueReq_like _ _ _).trans (State.fillEnds_like _)

theorem State.makeSlot_like (s : State) (k : Fin 4) (n : Nat) : DramLike s (s.makeSlot k n) := by
  induction n generalizing s with
  | zero => exact .refl s
  | succ n ih =>
    unfold State.makeSlot
    split
    · exact (State.pickIssue_like s k).trans (ih _)
    · exact .refl s

theorem State.serveUntil_like (s : State) (k : Fin 4) (seq n : Nat) : DramLike s (s.serveUntil k seq n) := by
  induction n generalizing s with
  | zero => exact .refl s
  | succ n ih =>
    unfold State.serveUntil
    split
    · exact (State.pickIssue_like s k).trans (ih _)
    · exact .refl s

theorem State.accepted_like (s : State) (r : DramReq) : DramLike s (s.accepted r) := by
  have h : DramLike s { s with dmc := { s.dmc with nextSeq := s.dmc.nextSeq + 1 } } := ⟨rfl, rfl, rfl, rfl, rfl⟩
  exact h.trans (State.countDram_like _ _ _ _ _)

theorem State.queueWrite_like (s : State) (r : DramReq) : DramLike s (s.queueWrite r) := by
  unfold State.queueWrite
  extract_lets k
  exact ((State.makeSlot_like s k _).trans (State.modSub_like _ _ _)).trans (State.accepted_like _ r)

/-- A write is stored where DMC is out of reset, the address lies below the capacity on a channel without a fault, and the regions admit it. -/
theorem State.putWrite_dram (s : State) (r : DramReq) (bs : List Byte) :
    (s.putWrite r bs).dram = if s.blkUp .dmc ∧ s.writeLands r then writeRange none s.dram r.addr bs else s.dram := by
  have hq : (s.queueWrite r).dram = s.dram := (State.queueWrite_like s r).dram
  have hu : s.capacity ≤ r.addr → s.unserved r.addr = true := fun h => by simp [State.unserved, h]
  unfold State.putWrite State.writeLands
  split
  · rename_i h1
    rw [if_neg]
    rintro ⟨h2, h3⟩
    by_cases h4 : s.capacity ≤ r.addr
    · simp [hu h4] at h3
    · simp [h2, h4] at h1
  · rename_i h1
    have h2 : s.blkUp .dmc = true := by
      cases h : s.blkUp .dmc with
      | true => rfl
      | false => simp [h] at h1
    split
    · rename_i h3
      rw [if_neg]
      · rfl
      · rintro ⟨-, h4⟩
        cases h5 : r.fill <;> simp_all
    · rename_i h3
      split
      · rename_i h4
        rw [if_neg (by simp [h4])]
        rfl
      · rename_i h4
        rw [if_pos]
        · exact congrArg (fun m => writeRange none m r.addr bs) hq
        · refine ⟨h2, ?_⟩
          cases h5 : r.fill <;> simp_all

theorem State.putWrite_rest (s : State) (r : DramReq) (bs : List Byte) :
    (s.putWrite r bs).regs = s.regs ∧ (s.putWrite r bs).rst = s.rst ∧
      (s.putWrite r bs).dmc.geom = s.dmc.geom ∧ (s.putWrite r bs).dmc.chFault = s.dmc.chFault := by
  have hq := State.queueWrite_like s r
  unfold State.putWrite
  repeat' split
  · exact ⟨rfl, rfl, rfl, rfl⟩
  · exact ⟨rfl, rfl, rfl, rfl⟩
  · exact ⟨rfl, rfl, rfl, rfl⟩
  · exact ⟨hq.regs, hq.rst, hq.geom, hq.chFault⟩

/-- A write of a port is stored alike in states that are alike. -/
theorem State.dramPutUnit_like {s t : State} (h : DramLike s t) (port : Fin 10) (a : Nat) (bs : List Byte) (c d : Bool) :
    DramLike (s.dramPutUnit port a bs c) (t.dramPutUnit port a bs d) := by
  have h1 := State.putWrite_rest s (s.reqAt port (portClass port c) true a bs.length) bs
  have h2 := State.putWrite_rest t (t.reqAt port (portClass port d) true a bs.length) bs
  refine ⟨h2.1.trans (h.regs.trans h1.1.symm), h2.2.1.trans (h.rst.trans h1.2.1.symm), h2.2.2.1.trans (h.geom.trans h1.2.2.1.symm),
    h2.2.2.2.trans (h.chFault.trans h1.2.2.2.symm), ?_⟩
  simp only [State.dramPutUnit, State.putWrite_dram, State.writeLands, State.reqAt, DramReq.addr, h.blkUp, h.unserved,
    State.rgnAdmits_congr h.regs, h.dram]
  congr

theorem State.dramPut_like {s t : State} (h : DramLike s t) (port : Fin 10) (a : Nat) (bs : List Byte) (c d : Bool) :
    DramLike (s.dramPut port a bs c) (t.dramPut port a bs d) := by
  have hf : ∀ (l : List (Nat × List Byte)) (s t : State), DramLike s t →
      DramLike (l.foldl (fun u p => u.dramPutUnit port p.1 p.2 c) s) (l.foldl (fun u p => u.dramPutUnit port p.1 p.2 d) t) := by
    intro l
    induction l with
    | nil => exact fun _ _ h => h
    | cons p l ih => exact fun s t h => ih _ _ (State.dramPutUnit_like h port p.1 p.2 c d)
  exact hf _ s t h

end Sys2Proof.Machine
end

