-- ==== Sys2Proof/Laws/FrameEntries.lean ====
section
/-! SUPPORT. What the operations of Machine/Entries.lean may change. -/

set_option Elab.async false

namespace Sys2Proof.Machine

theorem State.modFlight_frame {M : Nat} {s0 : State} (hM : Touch.le (.of [.hif]) M) {s : State} (id : Nat) (g : Flight → Flight) (h : Same M s0 s) : Same M s0 (State.modFlight s id g) := by
  unfold State.modFlight
  exact Same.upd h (hif := .inl (.sub rfl hM))

theorem State.withEntry_frame {M : Touch} {s0 : State} (hM : Touch.le (.of [.hif]) M) {s : State} (ring : Fin 16) (is : Entry → Bool) {run : Flight → State → State}
    (hr : ∀ f t, Same M s0 t → Same M s0 (run f t)) (h : Same M s0 s) : Same M s0 (s.withEntry ring is run) := by
  unfold State.withEntry
  split
  · exact h
  · exact Same.ite (hr _ _ (Same.upd (State.modFlight_frame (.sub rfl hM) _ _ h) (hif := .inl (.sub rfl hM)))) h

theorem State.postCompletion_frame {M : Nat} {s0 : State} (hM : Touch.le (.of [.hif, .pmc, .out]) M) {s : State} (f : Flight) (status : BitVec 8) (result : Nat) (h : Same M s0 s) : Same M s0 (State.postCompletion s f status result) := by
  unfold State.postCompletion
  refine Same.ite ?_ ?_
  · exact h
  · exact State.writeCompletion_frame (.sub rfl hM) _ _ _ _ _ _ _ h

theorem State.dropFlight_frame {M : Nat} {s0 : State} (hM : Touch.le (.of [.hif]) M) {s : State} (id : Nat) (h : Same M s0 s) : Same M s0 (State.dropFlight s id) := by
  unfold State.dropFlight
  exact Same.upd h (hif := .inl (.sub rfl hM))

theorem State.complete_frame {M : Nat} {s0 : State} (hM : Touch.le (.of [.hif, .pmc, .out]) M) {s : State} (id : Nat) (status : BitVec 8) (result : Nat) (h : Same M s0 s) : Same M s0 (State.complete s id status result) := by
  unfold State.complete
  split
  · exact h
  · exact State.postCompletion_frame (.sub rfl hM) _ _ _ (State.dropFlight_frame (.sub rfl hM) _ h)

theorem State.completeAll_frame {M : Nat} {s0 : State} (hM : Touch.le (.of [.hif, .pmc, .out]) M) {s : State} (test : Flight → Bool) (status : BitVec 8) (h : Same M s0 s) : Same M s0 (State.completeAll s test status) := by
  unfold State.completeAll
  refine Same.foldl (fun _ _ h1 => ?_) ?_
  · exact State.complete_frame (.sub rfl hM) _ _ _ h1
  · exact h

theorem State.withEntryAt_frame {M : Touch} {s0 : State} (hM : Touch.le (.of [.hif, .pmc, .out]) M) {s : State} (ring : Fin 16) (is : Entry → Bool) (blks : Entry → List Blk) {run : Flight → State → State}
    (hr : ∀ f t, Same M s0 t → Same M s0 (run f t)) (h : Same M s0 s) : Same M s0 (s.withEntryAt ring is blks run) :=
  State.withEntry_frame (.sub rfl hM) _ _ (fun f t ht => Same.ite (hr f t ht) (State.complete_frame (.sub rfl hM) _ _ _ ht)) h

theorem State.completeFault_frame {M : Nat} {s0 : State} (hM : Touch.le (.of [.hif, .pmc, .out]) M) {s : State} (id : Nat) (done : Nat) (h : Same M s0 s) : Same M s0 (State.completeFault s id done) := by
  unfold State.completeFault
  split
  · exact h
  · extract_lets -merge -underBinder +onlyGivenNames x1
    have hx1 : Same M s0 x1 := State.modFlight_frame (.sub rfl hM) _ _ h
    extract_lets -merge -underBinder +onlyGivenNames z_2 x3
    have hx3 : Same M s0 x3 := Same.upd hx1 (hif := .inl (.sub rfl hM))
    exact State.postCompletion_frame (.sub rfl hM) _ _ _ hx3

theorem State.waitFlight_frame {M : Nat} {s0 : State} (hM : Touch.le (.of [.hif]) M) {s : State} (id : Nat) (h : Same M s0 s) : Same M s0 (State.waitFlight s id) := by
  unfold State.waitFlight
  exact State.modFlight_frame (.sub rfl hM) _ _ h

theorem State.invalidatesEnd_frame {M : Nat} {s0 : State} (hM : Touch.le (.of [.hif, .pmc, .out]) M) {s : State} (h : Same M s0 s) : Same M s0 (State.invalidatesEnd s) := by
  unfold State.invalidatesEnd
  refine Same.foldl (fun _ _ h1 => ?_) ?_
  · exact State.complete_frame (.sub rfl hM) _ _ _ h1
  · exact h

theorem State.dropXfers_frame {M : Nat} {s0 : State} (hM : Touch.le (.of [.hif, .qdc, .pmc, .out]) M) {s : State} (test : Nat → Bool) (h : Same M s0 s) : Same M s0 (State.dropXfers s test) := by
  unfold State.dropXfers
  refine State.invalidatesEnd_frame (.sub rfl hM) ?_
  exact Same.upd h (hif := .inl (.sub rfl hM)) (qdc := .inl (.sub rfl hM))

end Sys2Proof.Machine
end

