-- ==== Sys2Proof/Laws/FrameHostAccess.lean ====
section
/-! SUPPORT. What the operations of Machine/HostAccess.lean may change. -/

set_option Elab.async false

namespace Sys2Proof.Machine

theorem State.completeReads_frame {M : Nat} {s0 : State} (hM : Touch.le (.of [.hif, .out]) M) {s : State} (h : Same M s0 s) : Same M s0 (State.completeReads s) := by
  unfold State.completeReads
  refine Same.foldl (fun _ _ h1 => ?_) ?_
  · exact State.emit_frame (.sub rfl hM) _ h1
  · exact Same.upd h (hif := .inl (.sub rfl hM))

theorem State.addAccess_frame {M : Nat} {s0 : State} (hM : Touch.le (.of [.hif]) M) {s : State} (a : HostAccess) (h : Same M s0 s) : Same M s0 (State.addAccess s a) := by
  unfold State.addAccess
  exact Same.upd h (hif := .inl (.sub rfl hM))

theorem State.readUnsupported_frame {M : Nat} {s0 : State} (hM : Touch.le (.of [.hif, .out]) M) {s : State} (o : Nat) (len : Nat) (h : Same M s0 s) : Same M s0 (State.readUnsupported s o len) := by
  unfold State.readUnsupported
  exact State.completeReads_frame (.sub rfl hM) (State.addAccess_frame (.sub rfl hM) _ h)

theorem State.cutAccesses_frame {M : Nat} {s0 : State} (hM : Touch.le (.of [.hif, .out]) M) {s : State} (test : Nat → Bool) (h : Same M s0 s) : Same M s0 (State.cutAccesses s test) := by
  unfold State.cutAccesses
  extract_lets -merge -underBinder +onlyGivenNames x1
  refine State.completeReads_frame (.sub rfl hM) ?_
  exact Same.upd h (hif := .inl (.sub rfl hM))

theorem State.discardWrite_frame {M : Nat} {s0 : State} (hM : Touch.le (.of [.hif]) M) {s : State} (h : Same M s0 s) : Same M s0 (State.discardWrite s) := by
  unfold State.discardWrite
  exact Same.upd h (hif := .inl (.sub rfl hM))

theorem State.onWrite_frame {M : Touch} {s0 : State} (hM : Touch.le (.of [.hif]) M) {s : State} (o : Nat) (v : BitVec 32) {run : State → State}
    (hr : ∀ t, Same M s0 t → Same M s0 (run t)) (h : Same M s0 s) : Same M s0 (s.onWrite o v run) :=
  Same.ite (Same.ite (State.addAccess_frame (.sub rfl hM) _ h) (hr _ h)) (State.discardWrite_frame (.sub rfl hM) h)

end Sys2Proof.Machine
end

