-- ==== Sys2Proof/Laws/FrameQuires.lean ====
section
/-! SUPPORT. What the operations of Machine/Quires.lean may change. -/

set_option Elab.async false

namespace Sys2Proof.Machine

theorem State.advanceReady_frame {M : Nat} {s0 : State} (hM : Touch.le (.of [.scr]) M) {s : State} (p : Fin 8) (h : Same M s0 s) : Same M s0 (State.advanceReady s p) := by
  unfold State.advanceReady
  extract_lets -merge -underBinder +onlyGivenNames x1
  extract_lets -merge -underBinder +onlyGivenNames x2
  exact Same.upd h (scr := .inl (.sub rfl hM))

end Sys2Proof.Machine
end

