-- ==== Sys2Proof/Laws/FramePosition.lean ====
section
/-! SUPPORT. What the operations of Machine/Position.lean may change. -/

set_option Elab.async false

namespace Sys2Proof.Machine

theorem State.nextSeq_frame {M : Nat} {s0 : State} (hM : Touch.le (.of [.urg]) M) {s : State} (h : Same M s0 s) : Same M s0 (State.nextSeq s).2 := by
  unfold State.nextSeq
  exact Same.upd h (urg := .inl (.sub rfl hM))

theorem State.hopSend_frame {M : Nat} {s0 : State} (hM : Touch.le (.of [.urg, .out]) M) {s : State} (port : Fin 2) (m : RingMsg) (h : Same M s0 s) : Same M s0 (State.hopSend s port m) := by
  unfold State.hopSend
  refine Same.ite ?_ ?_
  · exact State.emit_frame (.sub rfl hM) _ (State.nextSeq_frame (.sub rfl hM) h)
  · exact h

theorem State.ringSend_frame {M : Nat} {s0 : State} (hM : Touch.le (.of [.urg, .out]) M) {s : State} (m : RingMsg) (h : Same M s0 s) : Same M s0 (State.ringSend s m) := by
  unfold State.ringSend
  refine Same.ite ?_ ?_
  · exact State.emit_frame (.sub rfl hM) _ (State.nextSeq_frame (.sub rfl hM) h)
  · exact h

theorem State.twinSend_frame {M : Nat} {s0 : State} (hM : Touch.le (.of [.urg, .out]) M) {s : State} (m : RingMsg) (h : Same M s0 s) : Same M s0 (State.twinSend s m) := by
  unfold State.twinSend
  split
  · exact State.hopSend_frame (.sub rfl hM) _ _ h
  · exact State.ringSend_frame (.sub rfl hM) _ h

theorem State.modPlane_frame {M : Nat} {s0 : State} (hM : Touch.le (.of [.fir]) M) {s : State} (p : Fin 8) (f : Plane → Plane) (h : Same M s0 s) : Same M s0 (State.modPlane s p f) := by
  unfold State.modPlane
  exact Same.upd h (fir := .inl (.sub rfl hM))

theorem State.followPosition_frame {M : Nat} {s0 : State} (hM : Touch.le (.of [.fir]) M) {s : State} (h : Same M s0 s) : Same M s0 (State.followPosition s) := by
  unfold State.followPosition
  split
  · exact h
  · refine Same.foldl (fun _ _ h1 => ?_) ?_
    · split
      · exact h1
      · extract_lets -merge -underBinder +onlyGivenNames x2
        extract_lets -merge -underBinder +onlyGivenNames x3
        have hx3 : Same M s0 x3 := State.modPlane_frame (.sub rfl hM) _ _ h1
        exact State.modPlane_frame (.sub rfl hM) _ _ hx3
    · exact h

theorem State.disciplineFir_frame {M : Nat} {s0 : State} (hM : Touch.le (.of [.fir]) M) {s : State} (h : Same M s0 s) : Same M s0 (State.disciplineFir s) := by
  unfold State.disciplineFir
  extract_lets -merge -underBinder +onlyGivenNames x1
  exact Same.upd h (fir := .inl (.sub rfl hM))

theorem State.realignFir_frame {M : Nat} {s0 : State} (hM : Touch.le (.of [.fir]) M) {s : State} (h : Same M s0 s) : Same M s0 (State.realignFir s) := by
  unfold State.realignFir
  exact Same.upd h (fir := .inl (.sub rfl hM))

theorem State.advance_frame {M : Nat} {s0 : State} (hM : Touch.le (.of [.fir, .tim, .pmc, .now]) M) {s : State} (t : Nat) (h : Same M s0 s) : Same M s0 (State.advance s t) := by
  unfold State.advance
  refine Same.ite ?_ ?_
  · exact h
  · extract_lets -merge -underBinder +onlyGivenNames x1
    extract_lets -merge -underBinder +onlyGivenNames x2
    extract_lets -merge -underBinder +onlyGivenNames x3
    exact Same.upd h (fir := .inl (.sub rfl hM)) (tim := .inl (.sub rfl hM)) (pmc := .inl (.sub rfl hM)) (now := .inl (.sub rfl hM))

theorem State.anchor_frame {M : Nat} {s0 : State} (hM : Touch.le (.of [.fir]) M) {s : State} (p : Fin 8) (h : Same M s0 s) : Same M s0 (State.anchor s p) := by
  unfold State.anchor
  exact State.modPlane_frame (.sub rfl hM) _ _ h

end Sys2Proof.Machine
end

