-- ==== Sys2Proof/Laws/FrameMarks.lean ====
section
/-! SUPPORT. What the operations of Machine/Marks.lean may change. -/

set_option Elab.async false

namespace Sys2Proof.Machine

theorem State.placeWindow_frame {M : Nat} {s0 : State} (hM : Touch.le (.of [.regs]) M) {s : State} (m : Fin 64) (h : Same M s0 s) : Same M s0 (State.placeWindow s m) := by
  unfold State.placeWindow
  extract_lets -merge -underBinder +onlyGivenNames x1
  extract_lets -merge -underBinder +onlyGivenNames x2
  split
  · exact h
  · split
    · exact h
    · extract_lets -merge -underBinder +onlyGivenNames x3
      extract_lets -merge -underBinder +onlyGivenNames x4
      extract_lets -merge -underBinder +onlyGivenNames x5
      extract_lets -merge -underBinder +onlyGivenNames x6
      extract_lets -merge -underBinder +onlyGivenNames x7
      exact State.setReg_frame (.sub rfl hM) _ _ (State.setReg_frame (.sub rfl hM) _ _ (State.setReg_frame (.sub rfl hM) _ _ (State.setReg_frame (.sub rfl hM) _ _ h)))

theorem State.placeWindows_frame {M : Nat} {s0 : State} (hM : Touch.le (.of [.regs]) M) {s : State} (planes : List (Fin 8)) (h : Same M s0 s) : Same M s0 (State.placeWindows s planes) := by
  unfold State.placeWindows
  refine Same.ite ?_ ?_
  · exact h
  · refine Same.foldl (fun _ _ h1 => ?_) ?_
    · exact State.placeWindow_frame (.sub rfl hM) _ h1
    · exact h

end Sys2Proof.Machine
end

