-- ==== Sys2Proof/Laws/FrameChambers.lean ====
section
/-! SUPPORT. What the operations of Machine/Chambers.lean may change. -/

set_option Elab.async false

namespace Sys2Proof.Machine

theorem State.modChamber_frame {M : Nat} {s0 : State} (hM : Touch.le (.of [.lck]) M) {s : State} (k : Fin 4) (f : Chamber → Chamber) (h : Same M s0 s) : Same M s0 (State.modChamber s k f) := by
  unfold State.modChamber
  exact Same.upd h (lck := .inl (.sub rfl hM))

theorem State.openChamber_frame {M : Nat} {s0 : State} (hM : Touch.le (.of [.lck]) M) {s : State} (k : Fin 4) (h : Same M s0 s) : Same M s0 (State.openChamber s k) := by
  unfold State.openChamber
  exact State.modChamber_frame (.sub rfl hM) _ _ h

theorem State.loopEvent_frame {M : Nat} {s0 : State} (hM : Touch.le (.of [.regs, .hif, .pmc, .out]) M) {s : State} (loop : Nat) (plane : Nat) (event : Nat) (value : Nat) (h : Same M s0 s) : Same M s0 (State.loopEvent s loop plane event value) := by
  unfold State.loopEvent
  exact State.log_frame (.sub rfl hM) _ _ _ _ h

theorem State.stageUnits_frame {M : Nat} {s0 : State} (hM : Touch.le (.of [.dmc, .lck, .twn, .pmc, .dram, .draws, .out]) M) {s : State} (port : Fin 10) (k : Fin 4) (t : Nat) (off : Nat) (bs : List Sys2Proof.Byte) (h : Same M s0 s) : Same M s0 (State.stageUnits s port k t off bs) := by
  unfold State.stageUnits
  refine Same.foldl (fun _ _ h1 => ?_) ?_
  · extract_lets -merge -underBinder +onlyGivenNames x2
    extract_lets -merge -underBinder +onlyGivenNames x3
    extract_lets -merge -underBinder +onlyGivenNames x4
    extract_lets -merge -underBinder +onlyGivenNames x5
    exact State.modChamber_frame (.sub rfl hM) _ _ (State.dramPutUnit_frame (.sub rfl hM) _ _ _ _ h1)
  · exact h

theorem State.stageClear_frame {M : Nat} {s0 : State} (hM : Touch.le (.of [.regs, .hif, .dmc, .lck, .twn, .pmc, .dram, .draws, .out]) M) {s : State} (k : Fin 4) (x : Nat × Nat) (h : Same M s0 s) : Same M s0 (State.stageClear s k x) := by
  unfold State.stageClear
  extract_lets -merge -underBinder +onlyGivenNames x1
  extract_lets -merge -underBinder +onlyGivenNames x2
  extract_lets -merge -underBinder +onlyGivenNames x3
  have hx3 : Same M s0 x3 := State.loopEvent_frame (.sub rfl hM) _ _ _ _ (State.stageUnits_frame (.sub rfl hM) _ _ _ _ _ h)
  refine Same.ite ?_ ?_
  · exact State.loopEvent_frame (.sub rfl hM) _ _ _ _ hx3
  · exact hx3

theorem State.modLoop_frame {M : Nat} {s0 : State} (hM : Touch.le (.of [.lop]) M) {s : State} (p : Fin 8) (f : LoopPlane → LoopPlane) (h : Same M s0 s) : Same M s0 (State.modLoop s p f) := by
  unfold State.modLoop
  exact Same.upd h (lop := .inl (.sub rfl hM))

theorem State.stageLoop_frame {M : Nat} {s0 : State} (hM : Touch.le (.of [.regs, .hif, .dmc, .lop, .lck, .urg, .twn, .pmc, .dram, .draws, .out]) M) {s : State} (a : LoopApply) (h : Same M s0 s) : Same M s0 (State.stageLoop s a) := by
  unfold State.stageLoop
  extract_lets -merge -underBinder +onlyGivenNames x1
  split
  · extract_lets -merge -underBinder +onlyGivenNames x2
    have hx2 : Same M s0 x2 := State.modChamber_frame (.sub rfl hM) _ _ (State.openChamber_frame (.sub rfl hM) _ h)
    extract_lets -merge -underBinder +onlyGivenNames x3
    have hx3 : Same M s0 x3 := by
      refine Same.foldl (fun _ _ h4 => ?_) ?_
      · exact State.stageClear_frame (.sub rfl hM) _ _ h4
      · exact hx2
    extract_lets -merge -underBinder +onlyGivenNames x5
    extract_lets -merge -underBinder +onlyGivenNames x6
    have hx6 : Same M s0 x6 := by
      refine Same.ite ?_ ?_
      · exact State.twinSend_frame (.sub rfl hM) _ hx3
      · exact hx3
    extract_lets -merge -underBinder +onlyGivenNames x7
    have hx7 : Same M s0 x7 := by
      refine Same.ite ?_ ?_
      · refine Same.foldl (fun _ _ h8 => ?_) ?_
        · exact State.modLoop_frame (.sub rfl hM) _ _ h8
        · exact hx6
      · exact hx6
    exact State.modChamber_frame (.sub rfl hM) _ _ hx7

theorem State.admitLoops_frame {M : Nat} {s0 : State} (hM : Touch.le (.of [.regs, .hif, .dmc, .lop, .lck, .urg, .twn, .pmc, .dram, .draws, .out]) M) {s : State} (h : Same M s0 s) : Same M s0 (State.admitLoops s) := by
  unfold State.admitLoops
  split
  · exact h
  · refine Same.ite ?_ ?_
    · refine State.stageLoop_frame (.sub rfl hM) _ ?_
      exact Same.upd h (lop := .inl (.sub rfl hM))
    · exact h

theorem State.modLink_frame {M : Nat} {s0 : State} (hM : Touch.le (.of [.plk]) M) {s : State} (n : Fin 32) (f : Link → Link) (h : Same M s0 s) : Same M s0 (State.modLink s n f) := by
  unfold State.modLink
  exact Same.upd h (plk := .inl (.sub rfl hM))

theorem State.dropUploads_frame {M : Nat} {s0 : State} (hM : Touch.le (.of [.plk]) M) {s : State} (k : Fin 4) (h : Same M s0 s) : Same M s0 (State.dropUploads s k) := by
  unfold State.dropUploads
  refine Same.foldl (fun _ _ h1 => ?_) ?_
  · exact State.modLink_frame (.sub rfl hM) _ _ h1
  · exact h

theorem State.dropChanges_frame {M : Nat} {s0 : State} (hM : Touch.le (.of [.lop]) M) {s : State} (p : Fin 8) (mine : Nat → Bool) (h : Same M s0 s) : Same M s0 (State.dropChanges s p mine) := by
  unfold State.dropChanges
  extract_lets -merge -underBinder +onlyGivenNames x1
  exact Same.upd h (lop := .inl (.sub rfl hM))

theorem State.selfFreeze_frame {M : Nat} {s0 : State} (hM : Touch.le (.of [.regs, .hif, .lop, .pmc, .out]) M) {s : State} (loop : Nat) (p : Fin 8) (value : Nat) (h : Same M s0 s) : Same M s0 (State.selfFreeze s loop p value) := by
  unfold State.selfFreeze
  exact State.loopEvent_frame (.sub rfl hM) _ _ _ _ (State.modLoop_frame (.sub rfl hM) _ _ (State.dropChanges_frame (.sub rfl hM) _ _ h))

theorem State.loopRejected_frame {M : Nat} {s0 : State} (hM : Touch.le (.of [.regs, .hif, .lop, .pmc, .out]) M) {s : State} (loop : Nat) (planes : BitVec 8) (code : Nat) (h : Same M s0 s) : Same M s0 (State.loopRejected s loop planes code) := by
  unfold State.loopRejected
  refine Same.foldl (fun _ _ h1 => ?_) ?_
  · exact State.selfFreeze_frame (.sub rfl hM) _ _ _ (State.loopEvent_frame (.sub rfl hM) _ _ _ _ h1)
  · exact h

theorem State.lockAnswer_frame {M : Nat} {s0 : State} (hM : Touch.le (.of [.regs, .hif, .lop, .urg, .pmc, .out]) M) {s : State} (k : Fin 4) (armed : Bool) (a : LockAsk) (code : Nat) (h : Same M s0 s) : Same M s0 (State.lockAnswer s k armed a code) := by
  unfold State.lockAnswer
  split
  · refine Same.ite ?_ ?_
    · exact State.complete_frame (.sub rfl hM) _ _ _ h
    · exact State.complete_frame (.sub rfl hM) _ _ _ h
  · refine Same.ite ?_ ?_
    · exact State.ringSend_frame (.sub rfl hM) _ h
    · exact State.ringSend_frame (.sub rfl hM) _ h
  · refine Same.ite ?_ ?_
    · exact State.loopRejected_frame (.sub rfl hM) _ _ _ h
    · refine Same.ite ?_ ?_
      · exact State.placeWindows_frame (.sub rfl hM) _ h
      · exact h

theorem State.rejectCore_frame {M : Nat} {s0 : State} (hM : Touch.le (.of [.regs, .hif, .plk, .lop, .lck, .urg, .pmc, .out]) M) {s : State} (k : Fin 4) (code : Nat) (h : Same M s0 s) : Same M s0 (State.rejectCore s k code) := by
  unfold State.rejectCore
  extract_lets -merge -underBinder +onlyGivenNames x1
  extract_lets -merge -underBinder +onlyGivenNames x2
  have hx2 : Same M s0 x2 := State.dropUploads_frame (.sub rfl hM) _ (State.modChamber_frame (.sub rfl hM) _ _ h)
  extract_lets -merge -underBinder +onlyGivenNames x3
  have hx3 : Same M s0 x3 := by
    unfold x3
    split
    · refine Same.ite ?_ ?_
      · exact hx2
      · exact State.ringSend_frame (.sub rfl hM) _ hx2
    · exact hx2
  split
  · exact State.lockAnswer_frame (.sub rfl hM) _ _ _ _ hx3
  · exact hx3

theorem State.rejectChamber_frame {M : Nat} {s0 : State} (hM : Touch.le (.of [.regs, .hif, .dmc, .plk, .lop, .lck, .urg, .twn, .pmc, .dram, .draws, .out]) M) {s : State} (k : Fin 4) (code : Nat) (h : Same M s0 s) : Same M s0 (State.rejectChamber s k code) := by
  unfold State.rejectChamber
  exact State.admitLoops_frame (.sub rfl hM) (State.rejectCore_frame (.sub rfl hM) _ _ h)

theorem State.settleBank_frame {M : Nat} {s0 : State} (hM : Touch.le (.of [.plk]) M) {s : State} (n : Fin 32) (h : Same M s0 s) : Same M s0 (State.settleBank s n) := by
  unfold State.settleBank
  split
  · exact h
  · split
    · refine Same.ite ?_ ?_
      · exact State.modLink_frame (.sub rfl hM) _ _ h
      · exact h
    · exact h

theorem State.setBankLines_frame {M : Nat} {s0 : State} (hM : Touch.le (.of [.plk]) M) {s : State} (k : Fin 4) (line : Fin 32 → Nat) (h : Same M s0 s) : Same M s0 (State.setBankLines s k line) := by
  unfold State.setBankLines
  refine Same.foldl (fun _ _ h1 => ?_) ?_
  · exact State.settleBank_frame (.sub rfl hM) _ (State.modLink_frame (.sub rfl hM) _ _ h1)
  · exact h

theorem State.targetsLive_frame {M : Nat} {s0 : State} (hM : Touch.le (.of [.tables]) M) {s : State} (ts : List (Nat × BitVec 8)) (h : Same M s0 s) : Same M s0 (State.targetsLive s ts) := by
  unfold State.targetsLive
  refine Same.foldl (fun _ _ h1 => ?_) ?_
  · exact State.writeTable_frame (.sub rfl hM) _ _ _ h1
  · exact h

theorem State.entryLive_frame {M : Nat} {s0 : State} (hM : Touch.le (.of [.regs, .fir]) M) {s : State} (e : Nat × BitVec 32) (h : Same M s0 s) : Same M s0 (State.entryLive s e) := by
  unfold State.entryLive
  split
  · refine Same.ite ?_ ?_
    · exact State.setReg_frame (.sub rfl hM) _ _ (State.anchor_frame (.sub rfl hM) _ h)
    · exact State.setReg_frame (.sub rfl hM) _ _ h
  · exact State.followPosition_frame (.sub rfl hM) (State.setReg_frame (.sub rfl hM) _ _ h)
  · exact State.setReg_frame (.sub rfl hM) _ _ h

theorem State.followGains_frame {M : Nat} {s0 : State} (hM : Touch.le (.of [.tables]) M) {s : State} (units : List (Nat × BitVec 512)) (h : Same M s0 s) : Same M s0 (State.followGains s units) := by
  unfold State.followGains
  refine Same.foldl (fun _ _ h1 => ?_) ?_
  · refine Same.ite ?_ ?_
    · exact State.writeTable_frame (.sub rfl hM) _ _ _ h1
    · exact h1
  · exact h

theorem State.countEmpty_frame {M : Nat} {s0 : State} (hM : Touch.le (.of [.csm]) M) {s : State} (h : Same M s0 s) : Same M s0 (State.countEmpty s) := by
  unfold State.countEmpty
  exact Same.upd h (csm := .inl (.sub rfl hM))

theorem State.unitsLive_frame {M : Nat} {s0 : State} (hM : Touch.le (.of [.csm, .tables]) M) {s : State} (units : List (Nat × BitVec 512)) (h : Same M s0 s) : Same M s0 (State.unitsLive s units) := by
  unfold State.unitsLive
  extract_lets -merge -underBinder +onlyGivenNames x1
  have hx1 : Same M s0 x1 := by
    refine Same.foldl (fun _ _ h2 => ?_) ?_
    · exact State.writeTable_frame (.sub rfl hM) _ _ _ h2
    · exact h
  extract_lets -merge -underBinder +onlyGivenNames x3
  have hx3 : Same M s0 x3 := State.followGains_frame (.sub rfl hM) _ hx1
  refine Same.ite ?_ ?_
  · exact State.countEmpty_frame (.sub rfl hM) hx3
  · exact hx3

theorem State.queueUpload_frame {M : Nat} {s0 : State} (hM : Touch.le (.of [.plk]) M) {s : State} (n : Fin 32) (who : BankFor) (h : Same M s0 s) : Same M s0 (State.queueUpload s n who) := by
  unfold State.queueUpload
  exact State.modLink_frame (.sub rfl hM) _ _ h

theorem State.dataLive_frame {M : Nat} {s0 : State} (hM : Touch.le (.of [.regs, .csm, .fir, .plk, .tables]) M) {s : State} (k : Fin 4) (h : Same M s0 s) : Same M s0 (State.dataLive s k) := by
  unfold State.dataLive
  extract_lets -merge -underBinder +onlyGivenNames x1
  extract_lets -merge -underBinder +onlyGivenNames x2
  have hx2 : Same M s0 x2 := by
    refine State.targetsLive_frame (.sub rfl hM) _ ?_
    refine Same.foldl (fun _ _ h3 => ?_) ?_
    · exact State.entryLive_frame (.sub rfl hM) _ h3
    · exact State.unitsLive_frame (.sub rfl hM) _ h
  refine Same.foldl (fun _ _ h4 => ?_) ?_
  · exact State.queueUpload_frame (.sub rfl hM) _ _ h4
  · exact hx2

theorem State.ringDone_frame {M : Nat} {s0 : State} (hM : Touch.le (.of [.regs, .hif, .lop, .lck, .urg, .pmc, .out]) M) {s : State} (k : Fin 4) (h : Same M s0 s) : Same M s0 (State.ringDone s k) := by
  unfold State.ringDone
  extract_lets -merge -underBinder +onlyGivenNames x1
  refine Same.foldl (fun _ _ h2 => ?_) ?_
  · exact State.lockAnswer_frame (.sub rfl hM) _ _ _ _ h2
  · exact State.modChamber_frame (.sub rfl hM) _ _ h

theorem State.finishChamber_frame {M : Nat} {s0 : State} (hM : Touch.le (.of [.regs, .hif, .dmc, .csm, .fir, .plk, .lop, .lck, .urg, .twn, .pmc, .dram, .tables, .draws, .out]) M) {s : State} (k : Fin 4) (h : Same M s0 s) : Same M s0 (State.finishChamber s k) := by
  unfold State.finishChamber
  extract_lets -merge -underBinder +onlyGivenNames x1
  split
  · extract_lets -merge -underBinder +onlyGivenNames x2
    refine Same.ite ?_ ?_
    · extract_lets -merge -underBinder +onlyGivenNames x3
      have hx3 : Same M s0 x3 := by
        refine State.modChamber_frame (.sub rfl hM) _ _ ?_
        refine Same.ite ?_ ?_
        · exact State.dataLive_frame (.sub rfl hM) _ h
        · exact h
      refine State.admitLoops_frame (.sub rfl hM) ?_
      split
      · exact State.ringDone_frame (.sub rfl hM) _ (State.modChamber_frame (.sub rfl hM) _ _ hx3)
      · exact State.lockAnswer_frame (.sub rfl hM) _ _ _ _ hx3
    · exact h
  · exact h

theorem State.copyEnded_frame {M : Nat} {s0 : State} (hM : Touch.le (.of [.regs, .hif, .dmc, .csm, .fir, .plk, .lop, .lck, .urg, .twn, .pmc, .dram, .tables, .draws, .out]) M) {s : State} (k : Fin 4) (h : Same M s0 s) : Same M s0 (State.copyEnded s k) := by
  unfold State.copyEnded
  extract_lets -merge -underBinder +onlyGivenNames x1
  split
  · exact h
  · extract_lets -merge -underBinder +onlyGivenNames x2
    have hx2 : Same M s0 x2 := by
      refine Same.ite ?_ ?_
      · exact h
      · exact State.setBankLines_frame (.sub rfl hM) _ _ (State.dataLive_frame (.sub rfl hM) _ h)
    exact State.finishChamber_frame (.sub rfl hM) _ (State.modChamber_frame (.sub rfl hM) _ _ hx2)

theorem State.orderCopy_frame {M : Nat} {s0 : State} (hM : Touch.le (.of [.regs, .hif, .dmc, .csm, .fir, .plk, .lop, .lck, .urg, .twn, .pmc, .dram, .tables, .draws, .out]) M) {s : State} (k : Fin 4) (h : Same M s0 s) : Same M s0 (State.orderCopy s k) := by
  unfold State.orderCopy
  extract_lets -merge -underBinder +onlyGivenNames x1
  split
  · extract_lets -merge -underBinder +onlyGivenNames x2
    refine Same.ite ?_ ?_
    · refine Same.ite ?_ ?_
      · exact State.rejectChamber_frame (.sub rfl hM) _ _ h
      · extract_lets -merge -underBinder +onlyGivenNames x3
        have hx3 : Same M s0 x3 := State.modChamber_frame (.sub rfl hM) _ _ h
        extract_lets -merge -underBinder +onlyGivenNames x4
        have hx4 : Same M s0 x4 := by
          refine Same.ite ?_ ?_
          · exact State.setBankLines_frame (.sub rfl hM) _ _ hx3
          · exact hx3
        refine Same.ite ?_ ?_
        · exact State.copyEnded_frame (.sub rfl hM) _ hx4
        · exact hx4
    · exact State.finishChamber_frame (.sub rfl hM) _ h
  · exact h

theorem State.bankSettled_frame {M : Nat} {s0 : State} (hM : Touch.le (.of [.regs, .hif, .dmc, .csm, .fir, .plk, .lop, .lck, .urg, .twn, .pmc, .dram, .tables, .draws, .out]) M) {s : State} (k : Fin 4) (n : Fin 32) (h : Same M s0 s) : Same M s0 (State.bankSettled s k n) := by
  unfold State.bankSettled
  exact State.orderCopy_frame (.sub rfl hM) _ (State.modChamber_frame (.sub rfl hM) _ _ h)

theorem State.queueBanks_frame {M : Nat} {s0 : State} (hM : Touch.le (.of [.plk, .lck]) M) {s : State} (k : Fin 4) (h : Same M s0 s) : Same M s0 (State.queueBanks s k) := by
  unfold State.queueBanks
  extract_lets -merge -underBinder +onlyGivenNames x1
  extract_lets -merge -underBinder +onlyGivenNames x2
  refine State.modChamber_frame (.sub rfl hM) _ _ ?_
  refine Same.foldl (fun _ _ h3 => ?_) ?_
  · exact State.queueUpload_frame (.sub rfl hM) _ _ h3
  · exact h

theorem State.ctrlLive_frame {M : Nat} {s0 : State} (hM : Touch.le (.of [.regs, .fir, .lck]) M) {s : State} (k : Fin 4) (h : Same M s0 s) : Same M s0 (State.ctrlLive s k) := by
  unfold State.ctrlLive
  extract_lets -merge -underBinder +onlyGivenNames x1
  refine State.modChamber_frame (.sub rfl hM) _ _ ?_
  refine Same.foldl (fun _ _ h2 => ?_) ?_
  · exact State.entryLive_frame (.sub rfl hM) _ h2
  · exact h

theorem State.instantCome_frame {M : Nat} {s0 : State} (hM : Touch.le (.of [.regs, .hif, .dmc, .csm, .fir, .plk, .lop, .lck, .urg, .twn, .pmc, .dram, .tables, .draws, .out]) M) {s : State} (k : Fin 4) (h : Same M s0 s) : Same M s0 (State.instantCome s k) := by
  unfold State.instantCome
  extract_lets -merge -underBinder +onlyGivenNames x1
  split
  · refine Same.ite ?_ ?_
    · exact State.orderCopy_frame (.sub rfl hM) _ (State.ctrlLive_frame (.sub rfl hM) _ h)
    · exact h
  · exact h

theorem State.chambersFollow_frame {M : Nat} {s0 : State} (hM : Touch.le (.of [.regs, .hif, .dmc, .csm, .fir, .plk, .lop, .lck, .urg, .twn, .pmc, .dram, .tables, .draws, .out]) M) {s : State} (h : Same M s0 s) : Same M s0 (State.chambersFollow s) := by
  unfold State.chambersFollow
  refine Same.foldl (fun _ _ h1 => ?_) ?_
  · extract_lets -merge -underBinder +onlyGivenNames x2
    split
    · refine Same.ite ?_ ?_
      · extract_lets -merge -underBinder +onlyGivenNames x3
        have hx3 : Same M s0 x3 := by
          refine Same.ite ?_ ?_
          · exact State.ctrlLive_frame (.sub rfl hM) _ h1
          · exact h1
        exact State.finishChamber_frame (.sub rfl hM) _ hx3
      · exact h1
    · exact h1
  · exact h

theorem State.beginApply_frame {M : Nat} {s0 : State} (hM : Touch.le (.of [.regs, .hif, .dmc, .csm, .fir, .plk, .lop, .lck, .urg, .twn, .pmc, .dram, .tables, .draws, .out]) M) {s : State} (k : Fin 4) (h : Same M s0 s) : Same M s0 (State.beginApply s k) := by
  unfold State.beginApply
  extract_lets -merge -underBinder +onlyGivenNames x1
  split
  · exact h
  · refine Same.ite ?_ ?_
    · refine State.orderCopy_frame (.sub rfl hM) _ ?_
      refine Same.ite ?_ ?_
      · exact State.ctrlLive_frame (.sub rfl hM) _ h
      · exact h
    · refine Same.ite ?_ ?_
      · exact State.orderCopy_frame (.sub rfl hM) _ (State.ctrlLive_frame (.sub rfl hM) _ h)
      · exact h

theorem State.ringCommit_frame {M : Nat} {s0 : State} (hM : Touch.le (.of [.regs, .hif, .dmc, .csm, .fir, .plk, .lop, .lck, .urg, .twn, .pmc, .dram, .tables, .draws, .out]) M) {s : State} (k : Fin 4) (h : Same M s0 s) : Same M s0 (State.ringCommit s k) := by
  unfold State.ringCommit
  extract_lets -merge -underBinder +onlyGivenNames x1
  split
  · extract_lets -merge -underBinder +onlyGivenNames x2
    extract_lets -merge -underBinder +onlyGivenNames x3
    refine Same.ite ?_ ?_
    · exact State.beginApply_frame (.sub rfl hM) _ (State.ringSend_frame (.sub rfl hM) _ (State.modChamber_frame (.sub rfl hM) _ _ h))
    · exact State.rejectChamber_frame (.sub rfl hM) _ _ h
  · exact h

theorem State.armChamber_frame {M : Nat} {s0 : State} (hM : Touch.le (.of [.regs, .hif, .dmc, .csm, .fir, .plk, .lop, .lck, .urg, .twn, .pmc, .dram, .tables, .draws, .out]) M) {s : State} (k : Fin 4) (a : LockAsk) (h : Same M s0 s) : Same M s0 (State.armChamber s k a) := by
  unfold State.armChamber
  extract_lets -merge -underBinder +onlyGivenNames x1
  extract_lets -merge -underBinder +onlyGivenNames x2
  extract_lets -merge -underBinder +onlyGivenNames x3
  extract_lets -merge -underBinder +onlyGivenNames x4
  have hx4 : Same M s0 x4 := State.queueBanks_frame (.sub rfl hM) _ (State.modChamber_frame (.sub rfl hM) _ _ h)
  split
  · exact State.ringSend_frame (.sub rfl hM) _ hx4
  · refine Same.ite ?_ ?_
    · extract_lets -merge -underBinder +onlyGivenNames x5
      extract_lets -merge -underBinder +onlyGivenNames x6
      have hx6 : Same M s0 x6 := State.ringSend_frame (.sub rfl hM) _ (State.modChamber_frame (.sub rfl hM) _ _ hx4)
      refine Same.ite ?_ ?_
      · exact State.ringCommit_frame (.sub rfl hM) _ hx6
      · exact hx6
    · exact State.beginApply_frame (.sub rfl hM) _ hx4

theorem State.readStored_frame {M : Nat} {s0 : State} (hM : Touch.le (.of [.dmc, .twn, .pmc, .draws, .out]) M) {s : State} (port : Fin 10) (chamber : Bool) (k : Fin 4) (unit : Nat) (h : Same M s0 s) : Same M s0 (State.readStored s port chamber k unit) := by
  unfold State.readStored
  refine Same.ite ?_ ?_
  · exact State.dramReadUnit_frame (.sub rfl hM) _ _ _ _ h
  · exact h

theorem State.readStore_frame {M : Nat} {s0 : State} (hM : Touch.le (.of [.dmc, .twn, .pmc, .draws, .out]) M) {s : State} (k : Fin 4) (apply_ : Bool) (h : Same M s0 s) : Same M s0 (State.readStore s k apply_) := by
  unfold State.readStore
  refine Same.foldl (fun _ _ h1 => ?_) ?_
  · exact State.readStored_frame (.sub rfl hM) _ _ _ _ h1
  · exact h

theorem State.endCheck_frame {M : Nat} {s0 : State} (hM : Touch.le (.of [.regs, .hif, .dmc, .csm, .fir, .plk, .lop, .lck, .urg, .twn, .pmc, .dram, .tables, .draws, .out]) M) {s : State} (k : Fin 4) (h : Same M s0 s) : Same M s0 (State.endCheck s k) := by
  unfold State.endCheck
  extract_lets -merge -underBinder +onlyGivenNames x1
  split
  · extract_lets -merge -underBinder +onlyGivenNames x2
    refine Same.ite ?_ ?_
    · exact State.rejectChamber_frame (.sub rfl hM) _ _ h
    · refine Same.ite ?_ ?_
      · exact State.armChamber_frame (.sub rfl hM) _ _ h
      · exact State.lockAnswer_frame (.sub rfl hM) _ _ _ _ (State.modChamber_frame (.sub rfl hM) _ _ h)
  · exact h

end Sys2Proof.Machine
end

