-- ==== Sys2Proof/Laws/FramePress.lean ====
section
/-! SUPPORT. What the operations of Machine/Press.lean may change. -/

set_option Elab.async false

namespace Sys2Proof.Machine

theorem State.settlePeers_frame {M : Nat} {s0 : State} (hM : Touch.le (.of [.fir]) M) {s : State} (h : Same M s0 s) : Same M s0 (State.settlePeers s) := by
  unfold State.settlePeers
  refine Same.foldl (fun _ _ h1 => ?_) ?_
  · split
    · exact h1
    · refine Same.ite ?_ ?_
      · exact State.modPlane_frame (.sub rfl hM) _ _ h1
      · exact h1
  · exact h

theorem State.clearCause_frame {M : Nat} {s0 : State} (hM : Touch.le (.of [.fir, .twn]) M) {s : State} (ps : List (Fin 8)) (bit : Nat) (h : Same M s0 s) : Same M s0 (State.clearCause s ps bit) := by
  unfold State.clearCause
  refine State.settlePeers_frame (.sub rfl hM) ?_
  refine Same.foldl (fun _ _ h1 => ?_) ?_
  · extract_lets -merge -underBinder +onlyGivenNames x2
    have hx2 : Same M s0 x2 := State.modPlane_frame (.sub rfl hM) _ _ h1
    split
    · exact Same.upd hx2 (twn := .inl (.sub rfl hM))
    · exact hx2
  · exact h

theorem State.overRecord_frame {M : Nat} {s0 : State} (hM : Touch.le (.of [.regs, .hif, .fir, .pmc, .out]) M) {s : State} (p : Fin 8) (h : Same M s0 s) : Same M s0 (State.overRecord s p) := by
  unfold State.overRecord
  split
  · exact h
  · exact State.log_frame (.sub rfl hM) _ _ _ _ (State.modPlane_frame (.sub rfl hM) _ _ h)

theorem State.overEnds_frame {M : Nat} {s0 : State} (hM : Touch.le (.of [.regs, .hif, .fir, .twn, .pmc, .out]) M) {s : State} (h : Same M s0 s) : Same M s0 (State.overEnds s) := by
  unfold State.overEnds
  refine State.clearCause_frame (.sub rfl hM) _ _ ?_
  refine Same.foldl (fun _ _ h1 => ?_) ?_
  · exact State.overRecord_frame (.sub rfl hM) _ h1
  · exact h

theorem State.openBanks_frame {M : Nat} {s0 : State} (hM : Touch.le (.of [.plk]) M) {s : State} (p : Fin 8) (h : Same M s0 s) : Same M s0 (State.openBanks s p) := by
  unfold State.openBanks
  refine Same.foldl (fun _ _ h1 => ?_) ?_
  · exact State.settleBank_frame (.sub rfl hM) _ (State.modLink_frame (.sub rfl hM) _ _ h1)
  · exact h

theorem State.publish_frame {M : Nat} {s0 : State} (hM : Touch.le (.of [.fir]) M) {s : State} (p : Fin 8) (h : Same M s0 s) : Same M s0 (State.publish s p) := by
  unfold State.publish
  exact State.modPlane_frame (.sub rfl hM) _ _ h

theorem State.modTwin_frame {M : Nat} {s0 : State} (hM : Touch.le (.of [.twn]) M) {s : State} (p : Fin 8) (f : TwinPlane → TwinPlane) (h : Same M s0 s) : Same M s0 (State.modTwin s p f) := by
  unfold State.modTwin
  exact Same.upd h (twn := .inl (.sub rfl hM))

theorem State.adoptStamp_frame {M : Nat} {s0 : State} (hM : Touch.le (.of [.twn]) M) {s : State} (p : Fin 8) (l : FireLine) (h : Same M s0 s) : Same M s0 (State.adoptStamp s p l).2 := by
  unfold State.adoptStamp
  split
  · exact h
  · split
    · exact State.modTwin_frame (.sub rfl hM) _ _ h
    · exact Same.upd h (twn := .inl (.sub rfl hM))

theorem State.joinLinks_frame {M : Nat} {s0 : State} (hM : Touch.le (.of [.csm]) M) {s : State} (l : FireLine) (h : Same M s0 s) : Same M s0 (State.joinLinks s l) := by
  unfold State.joinLinks
  refine Same.foldl (fun _ _ h1 => ?_) ?_
  · refine Same.ite ?_ ?_
    · exact Same.upd h1 (csm := .inl (.sub rfl hM))
    · exact h1
  · exact h

theorem State.closeDone_frame {M : Nat} {s0 : State} (hM : Touch.le (.of [.hif, .pmc, .out]) M) {s : State} (ids : List Nat) (h : Same M s0 s) : Same M s0 (State.closeDone s ids) := by
  unfold State.closeDone
  refine Same.foldl (fun _ _ h1 => ?_) ?_
  · refine Same.ite ?_ ?_
    · exact h1
    · split
      · exact h1
      · exact State.complete_frame (.sub rfl hM) _ _ _ h1
  · exact h

theorem State.endRestore_frame {M : Nat} {s0 : State} (hM : Touch.le (.of [.fir]) M) {s : State} (p : Fin 8) (h : Same M s0 s) : Same M s0 (State.endRestore s p) := by
  unfold State.endRestore
  extract_lets -merge -underBinder +onlyGivenNames x1
  exact Same.upd h (fir := .inl (.sub rfl hM))

theorem State.closeCheck_frame {M : Nat} {s0 : State} (hM : Touch.le (.of [.regs, .hif, .dmc, .csm, .fir, .plk, .lop, .lck, .urg, .twn, .pmc, .dram, .tables, .draws, .out]) M) {s : State} (p : Fin 8) (h : Same M s0 s) : Same M s0 (State.closeCheck s p) := by
  unfold State.closeCheck
  extract_lets -merge -underBinder +onlyGivenNames x1
  split
  · refine Same.ite ?_ ?_
    · exact State.chambersFollow_frame (.sub rfl hM) (State.closeDone_frame (.sub rfl hM) _ (State.endRestore_frame (.sub rfl hM) _ (State.modPlane_frame (.sub rfl hM) _ _ h)))
    · exact h
  · exact h

theorem State.bandsPass_frame {M : Nat} {s0 : State} (hM : Touch.le (.of [.lop]) M) {s : State} (h : Same M s0 s) : Same M s0 (State.bandsPass s) := by
  unfold State.bandsPass
  exact Same.upd h (lop := .inl (.sub rfl hM))

theorem State.glideStep_frame {M : Nat} {s0 : State} (hM : Touch.le (.of [.tables]) M) {s : State} (p : Fin 8) (h : Same M s0 s) : Same M s0 (State.glideStep s p) := by
  unfold State.glideStep
  extract_lets -merge -underBinder +onlyGivenNames x1
  extract_lets -merge -underBinder +onlyGivenNames x2
  refine Same.ite ?_ ?_
  · exact h
  · refine Same.foldl (fun _ _ h3 => ?_) ?_
    · refine Same.ite ?_ ?_
      · exact State.writeTable_frame (.sub rfl hM) _ _ _ h3
      · exact h3
    · exact h

theorem State.lineFollow_frame {M : Nat} {s0 : State} (hM : Touch.le (.of [.regs, .hif, .dmc, .scr, .csm, .fir, .plk, .lop, .lck, .urg, .twn, .pmc, .dram, .tables, .draws, .out]) M) {s : State} (p : Fin 8) (h : Same M s0 s) : Same M s0 (State.lineFollow s p) := by
  unfold State.lineFollow
  exact State.chambersFollow_frame (.sub rfl hM) (State.bandsPass_frame (.sub rfl hM) (State.glideStep_frame (.sub rfl hM) _ (State.advanceReady_frame (.sub rfl hM) _ (State.publish_frame (.sub rfl hM) _ h))))

theorem State.openSig_frame {M : Nat} {s0 : State} (hM : Touch.le (.of [.twn]) M) {s : State} (p : Fin 8) (l : FireLine) (h : Same M s0 s) : Same M s0 (State.openSig s p l) := by
  unfold State.openSig
  refine Same.ite ?_ ?_
  · exact Same.upd h (twn := .inl (.sub rfl hM))
  · exact h

theorem State.launchLine_frame {M : Nat} {s0 : State} (hM : Touch.le (.of [.regs, .hif, .dmc, .scr, .csm, .fir, .plk, .lop, .lck, .urg, .twn, .pmc, .dram, .tables, .draws, .out]) M) {s : State} (p : Fin 8) (l : FireLine) (h : Same M s0 s) : Same M s0 (State.launchLine s p l) := by
  unfold State.launchLine
  extract_lets -merge -underBinder +onlyGivenNames x1
  have hx1 : Same M s0 x1 := State.joinLinks_frame (.sub rfl hM) _ h
  extract_lets -merge -underBinder +onlyGivenNames x2
  extract_lets -merge -underBinder +onlyGivenNames x3
  have hx3 : Same M s0 x3 := State.modPlane_frame (.sub rfl hM) _ _ hx1
  exact State.closeCheck_frame (.sub rfl hM) _ (State.lineFollow_frame (.sub rfl hM) _ (State.openSig_frame (.sub rfl hM) _ _ hx3))

theorem State.launchPassed_frame {M : Touch} {s0 : State} (hM : Touch.le (.of [.regs, .hif, .dmc, .scr, .csm, .fir, .plk, .lop, .lck, .urg, .twn, .pmc, .dram, .tables, .draws, .out]) M) (k : Nat) {s : State} (p : Fin 8) (h : Same M s0 s) : Same M s0 (State.launchPassed k s p) := by
  induction k generalizing s with
  | zero => exact h
  | succ k ih =>
    unfold State.launchPassed
    split
    · exact h
    · rename_i l0 _
      split
      rename_i l s1 e
      have h1 : Same M s0 s1 := (congrArg (fun r => Same M s0 r.2) e).mp (State.adoptStamp_frame (.sub rfl hM) _ _ h)
      exact Same.ite h (ih (State.launchLine_frame (.sub rfl hM) _ _ h1))

theorem State.launchAllPassed_frame {M : Nat} {s0 : State} (hM : Touch.le (.of [.regs, .hif, .dmc, .scr, .csm, .fir, .plk, .lop, .lck, .urg, .twn, .pmc, .dram, .tables, .draws, .out]) M) {s : State} (h : Same M s0 s) : Same M s0 (State.launchAllPassed s) := by
  unfold State.launchAllPassed
  refine Same.foldl (fun _ _ h1 => ?_) ?_
  · exact State.launchPassed_frame (.sub rfl hM) _ _ h1
  · exact h

theorem State.takeCause_frame {M : Nat} {s0 : State} (hM : Touch.le (.of [.fir]) M) {s : State} (p : Fin 8) (bit : Nat) (h : Same M s0 s) : Same M s0 (State.takeCause s p bit) := by
  unfold State.takeCause
  extract_lets -merge -underBinder +onlyGivenNames x1
  extract_lets -merge -underBinder +onlyGivenNames x2
  split
  · exact h
  · exact State.modPlane_frame (.sub rfl hM) _ _ h
  · exact State.modPlane_frame (.sub rfl hM) _ _ h
  · exact State.modPlane_frame (.sub rfl hM) _ _ h

theorem State.stopRecord_frame {M : Nat} {s0 : State} (hM : Touch.le (.of [.regs, .hif, .fir, .pmc, .out]) M) {s : State} (p : Fin 8) (bit : Nat) (h : Same M s0 s) : Same M s0 (State.stopRecord s p bit) := by
  unfold State.stopRecord
  extract_lets -merge -underBinder +onlyGivenNames x1
  split
  · exact State.log_frame (.sub rfl hM) _ _ _ _ h
  · exact State.modPlane_frame (.sub rfl hM) _ _ h
  · exact State.log_frame (.sub rfl hM) _ _ _ _ h
  · exact h

theorem State.lateWith_frame {M : Nat} {s0 : State} (hM : Touch.le (.of [.regs, .hif, .fir, .pmc, .out]) M) {s : State} (old : State) (ps : List (Fin 8)) (h : Same M s0 s) : Same M s0 (State.lateWith s old ps) := by
  unfold State.lateWith
  refine Same.foldl (fun _ _ h1 => ?_) ?_
  · split
    · exact h1
    · exact State.countEvent_frame (.sub rfl hM) _ _ _ (State.stopRecord_frame (.sub rfl hM) _ _ (State.takeCause_frame (.sub rfl hM) _ _ h1))
  · exact h

theorem State.stopPlanes_frame {M : Nat} {s0 : State} (hM : Touch.le (.of [.regs, .hif, .dmc, .scr, .csm, .fir, .plk, .lop, .lck, .urg, .twn, .pmc, .dram, .tables, .draws, .out]) M) {s : State} (ps : List (Fin 8)) (bit : Nat) (h : Same M s0 s) : Same M s0 (State.stopPlanes s ps bit) := by
  unfold State.stopPlanes
  extract_lets -merge -underBinder +onlyGivenNames x1
  have hx1 : Same M s0 x1 := State.launchAllPassed_frame (.sub rfl hM) h
  extract_lets -merge -underBinder +onlyGivenNames x2
  extract_lets -merge -underBinder +onlyGivenNames x3
  extract_lets -merge -underBinder +onlyGivenNames x4
  have hx4 : Same M s0 x4 := by
    refine Same.foldl (fun _ _ h5 => ?_) ?_
    · exact State.takeCause_frame (.sub rfl hM) _ _ h5
    · exact hx1
  extract_lets -merge -underBinder +onlyGivenNames x6
  extract_lets -merge -underBinder +onlyGivenNames x7
  have hx7 : Same M s0 x7 := by
    refine Same.foldl (fun _ _ h8 => ?_) ?_
    · exact State.modPlane_frame (.sub rfl hM) _ _ (State.takeCause_frame (.sub rfl hM) _ _ h8)
    · exact hx4
  extract_lets -merge -underBinder +onlyGivenNames x9
  have hx9 : Same M s0 x9 := by
    refine State.lateWith_frame (.sub rfl hM) _ _ ?_
    refine Same.foldl (fun _ _ h10 => ?_) ?_
    · exact State.stopRecord_frame (.sub rfl hM) _ _ h10
    · exact hx7
  refine Same.ite ?_ ?_
  · exact hx9
  · exact State.ringSend_frame (.sub rfl hM) _ hx9

theorem State.loopsOff_frame {M : Nat} {s0 : State} (hM : Touch.le (.of [.lop]) M) {s : State} (p : Fin 8) (h : Same M s0 s) : Same M s0 (State.loopsOff s p) := by
  unfold State.loopsOff
  exact State.modLoop_frame (.sub rfl hM) _ _ (State.dropChanges_frame (.sub rfl hM) _ _ h)

theorem State.closePlane_frame {M : Nat} {s0 : State} (hM : Touch.le (.of [.regs, .hif, .dmc, .qdc, .csm, .fir, .plk, .lop, .lck, .urg, .twn, .pmc, .dram, .tables, .draws, .out]) M) {s : State} (p : Fin 8) (last : Nat) (id : Nat) (h : Same M s0 s) : Same M s0 (State.closePlane s p last id) := by
  unfold State.closePlane
  extract_lets -merge -underBinder +onlyGivenNames x1
  have hx1 : Same M s0 x1 := State.overRecord_frame (.sub rfl hM) _ h
  extract_lets -merge -underBinder +onlyGivenNames x2
  extract_lets -merge -underBinder +onlyGivenNames z_3 x4
  have hx4 : Same M s0 x4 := Same.upd hx1 (qdc := .inl (.sub rfl hM))
  split
  · exact hx4
  · extract_lets -merge -underBinder +onlyGivenNames x6
    extract_lets -merge -underBinder +onlyGivenNames x7
    have hx7 : Same M s0 x7 := State.modPlane_frame (.sub rfl hM) _ _ (State.loopsOff_frame (.sub rfl hM) _ hx4)
    exact State.closeCheck_frame (.sub rfl hM) _ hx7

theorem State.enterRun_frame {M : Nat} {s0 : State} (hM : Touch.le (.of [.regs, .hif, .dmc, .csm, .fir, .plk, .lop, .lck, .urg, .twn, .pmc, .dram, .tables, .draws, .out]) M) {s : State} (p : Fin 8) (h : Same M s0 s) : Same M s0 (State.enterRun s p) := by
  unfold State.enterRun
  exact State.closeCheck_frame (.sub rfl hM) _ (State.endRestore_frame (.sub rfl hM) _ (State.modPlane_frame (.sub rfl hM) _ _ h))

theorem State.commitLine_frame {M : Nat} {s0 : State} (hM : Touch.le (.of [.regs, .hif, .dmc, .csm, .fir, .plk, .lop, .lck, .urg, .twn, .pmc, .dram, .tables, .draws, .out]) M) {s : State} (p : Fin 8) (stamp : Int) (tf : Nat) (lag : Nat) (h : Same M s0 s) : Same M s0 (State.commitLine s p stamp tf lag) := by
  unfold State.commitLine
  extract_lets -merge -underBinder +onlyGivenNames x1
  extract_lets -merge -underBinder +onlyGivenNames x2
  extract_lets -merge -underBinder +onlyGivenNames x3
  have hx3 : Same M s0 x3 := State.modPlane_frame (.sub rfl hM) _ _ h
  extract_lets -merge -underBinder +onlyGivenNames x4
  have hx4 : Same M s0 x4 := by
    refine State.countEvent_frame (.sub rfl hM) _ _ _ ?_
    refine Same.ite ?_ ?_
    · exact State.twinSend_frame (.sub rfl hM) _ hx3
    · exact hx3
  refine Same.ite ?_ ?_
  · exact State.enterRun_frame (.sub rfl hM) _ (State.log_frame (.sub rfl hM) _ _ _ _ (State.modPlane_frame (.sub rfl hM) _ _ hx4))
  · exact hx4

theorem State.commitDue_frame {M : Nat} {s0 : State} (hM : Touch.le (.of [.regs, .hif, .dmc, .scr, .csm, .fir, .plk, .lop, .lck, .urg, .twn, .pmc, .dram, .tables, .draws, .out]) M) {s : State} (p : Fin 8) (h : Same M s0 s) : Same M s0 (State.commitDue s p) := by
  unfold State.commitDue
  extract_lets -merge -underBinder +onlyGivenNames x1
  refine Same.ite ?_ ?_
  · exact h
  · split
    · exact State.commitLine_frame (.sub rfl hM) _ _ _ _ h
    · split
      · exact h
      · split
        · exact h
        · refine Same.ite ?_ ?_
          · exact h
          · extract_lets -merge -underBinder +onlyGivenNames x2
            extract_lets -merge -underBinder +onlyGivenNames x3
            refine Same.ite ?_ ?_
            · exact State.stopPlanes_frame (.sub rfl hM) _ _ h
            · exact State.commitLine_frame (.sub rfl hM) _ _ _ _ h

theorem State.openTriggers_frame {M : Nat} {s0 : State} (hM : Touch.le (.of [.cam]) M) {s : State} (p : Fin 8) (h : Same M s0 s) : Same M s0 (State.openTriggers s p) := by
  unfold State.openTriggers
  extract_lets -merge -underBinder +onlyGivenNames x1
  exact Same.upd h (cam := .inl (.sub rfl hM))

theorem State.resumeForward_frame {M : Nat} {s0 : State} (hM : Touch.le (.of [.regs, .hif, .dmc, .scr, .csm, .fir, .plk, .lop, .lck, .urg, .twn, .pmc, .dram, .tables, .draws, .out]) M) {s : State} (p : Fin 8) (h : Same M s0 s) : Same M s0 (State.resumeForward s p) := by
  unfold State.resumeForward
  extract_lets -merge -underBinder +onlyGivenNames x1
  refine Same.ite ?_ ?_
  · extract_lets -merge -underBinder +onlyGivenNames x2
    extract_lets -merge -underBinder +onlyGivenNames x3
    extract_lets -merge -underBinder +onlyGivenNames x4
    have hx4 : Same M s0 x4 := State.log_frame (.sub rfl hM) _ _ _ _ (State.overRecord_frame (.sub rfl hM) _ h)
    extract_lets -merge -underBinder +onlyGivenNames x5
    have hx5 : Same M s0 x5 := State.modPlane_frame (.sub rfl hM) _ _ hx4
    extract_lets -merge -underBinder +onlyGivenNames x6
    have hx6 : Same M s0 x6 := State.enterRun_frame (.sub rfl hM) _ (State.modLoop_frame (.sub rfl hM) _ _ hx5)
    exact State.lineFollow_frame (.sub rfl hM) _ hx6
  · exact h

theorem State.missBand_frame {M : Nat} {s0 : State} (hM : Touch.le (.of [.regs, .hif, .lop, .pmc, .out]) M) {s : State} (b : Band) (reason : Nat) (h : Same M s0 s) : Same M s0 (State.missBand s b reason) := by
  unfold State.missBand
  refine State.loopEvent_frame (.sub rfl hM) _ _ _ _ ?_
  exact Same.upd h (lop := .inl (.sub rfl hM))

theorem State.openLoops_frame {M : Nat} {s0 : State} (hM : Touch.le (.of [.regs, .hif, .lop, .pmc, .out]) M) {s : State} (p : Fin 8) (h : Same M s0 s) : Same M s0 (State.openLoops s p) := by
  unfold State.openLoops
  extract_lets -merge -underBinder +onlyGivenNames x1
  extract_lets -merge -underBinder +onlyGivenNames z_2 x3
  have hx3 : Same M s0 x3 := Same.upd h (lop := .inl (.sub rfl hM))
  refine State.modLoop_frame (.sub rfl hM) _ _ ?_
  refine State.loopsOff_frame (.sub rfl hM) _ ?_
  refine Same.foldl (fun _ _ h5 => ?_) ?_
  · exact State.missBand_frame (.sub rfl hM) _ _ h5
  · exact hx3

theorem State.openGutters_frame {M : Nat} {s0 : State} (hM : Touch.le (.of [.csm]) M) {s : State} (p : Fin 8) (h : Same M s0 s) : Same M s0 (State.openGutters s p) := by
  unfold State.openGutters
  extract_lets -merge -underBinder +onlyGivenNames x1
  refine Same.foldl (fun _ _ h2 => ?_) ?_
  · extract_lets -merge -underBinder +onlyGivenNames x3
    exact Same.upd h2 (csm := .inl (.sub rfl hM))
  · exact h

theorem State.clearLate_frame {M : Nat} {s0 : State} (hM : Touch.le (.of [.fir, .twn]) M) {s : State} (h : Same M s0 s) : Same M s0 (State.clearLate s) := by
  unfold State.clearLate
  refine Same.foldl (fun _ _ h1 => ?_) ?_
  · refine Same.ite ?_ ?_
    · exact State.clearCause_frame (.sub rfl hM) _ _ h1
    · exact h1
  · exact h

theorem State.abortClose_frame {M : Nat} {s0 : State} (hM : Touch.le (.of [.hif, .fir, .pmc, .out]) M) {s : State} (p : Fin 8) (h : Same M s0 s) : Same M s0 (State.abortClose s p) := by
  unfold State.abortClose
  split
  · exact h
  · extract_lets -merge -underBinder +onlyGivenNames x1
    have hx1 : Same M s0 x1 := by
      refine Same.foldl (fun _ _ h2 => ?_) ?_
      · exact State.modFlight_frame (.sub rfl hM) _ _ h2
      · exact h
    exact State.closeDone_frame (.sub rfl hM) _ (State.modPlane_frame (.sub rfl hM) _ _ hx1)

theorem State.openPosition_frame {M : Nat} {s0 : State} (hM : Touch.le (.of [.draws]) M) {s : State} (o : BitVec 48) (h : Same M s0 s) : Same M s0 (State.openPosition s o).2 := by
  unfold State.openPosition
  split
  · exact h
  · exact State.draw_frame (.sub rfl hM) h

theorem State.assertCause_frame {M : Nat} {s0 : State} (hM : Touch.le (.of [.regs, .hif, .dmc, .scr, .csm, .fir, .plk, .lop, .lck, .urg, .twn, .pmc, .dram, .tables, .draws, .out]) M) {s : State} (ps : List (Fin 8)) (bit : Nat) (h : Same M s0 s) : Same M s0 (State.assertCause s ps bit) := by
  unfold State.assertCause
  split
  · refine Same.foldl (fun _ _ h1 => ?_) ?_
    · exact Same.upd h1 (twn := .inl (.sub rfl hM))
    · exact h
  · exact State.stopPlanes_frame (.sub rfl hM) _ _ h

theorem State.sendPlaneState_frame {M : Nat} {s0 : State} (hM : Touch.le (.of [.urg, .twn, .out]) M) {s : State} (p : Fin 8) (epoch : Nat) (h : Same M s0 s) : Same M s0 (State.sendPlaneState s p epoch) := by
  unfold State.sendPlaneState
  extract_lets -merge -underBinder +onlyGivenNames x1
  exact State.twinSend_frame (.sub rfl hM) _ (State.modTwin_frame (.sub rfl hM) _ _ h)

theorem State.standbyLate_frame {M : Nat} {s0 : State} (hM : Touch.le (.of [.regs, .hif, .dmc, .scr, .csm, .fir, .plk, .lop, .lck, .urg, .twn, .pmc, .dram, .tables, .draws, .out]) M) {s : State} (p : Fin 8) (n : Nat) (h : Same M s0 s) : Same M s0 (State.standbyLate s p n) := by
  unfold State.standbyLate
  extract_lets -merge -underBinder +onlyGivenNames x1
  have hx1 : Same M s0 x1 := State.modTwin_frame (.sub rfl hM) _ _ (State.assertCause_frame (.sub rfl hM) _ _ h)
  refine Same.ite ?_ ?_
  · exact Same.upd hx1 (twn := .inl (.sub rfl hM))
  · exact hx1

theorem State.openSources_frame {M : Nat} {s0 : State} (hM : Touch.le (.of [.qdc, .scr]) M) {s : State} (p : Fin 8) (h : Same M s0 s) : Same M s0 (State.openSources s p) := by
  unfold State.openSources
  extract_lets -merge -underBinder +onlyGivenNames x1
  extract_lets -merge -underBinder +onlyGivenNames x2
  extract_lets -merge -underBinder +onlyGivenNames x3
  exact Same.upd h (qdc := .inl (.sub rfl hM)) (scr := .inl (.sub rfl hM))

theorem State.openPlane_frame {M : Nat} {s0 : State} (hM : Touch.le (.of [.regs, .hif, .dmc, .qdc, .scr, .csm, .fir, .plk, .cam, .lop, .lck, .urg, .twn, .pmc, .dram, .tables, .draws, .out]) M) {s : State} (p : Fin 8) (o : BitVec 48) (h : Same M s0 s) : Same M s0 (State.openPlane s p o) := by
  unfold State.openPlane
  extract_lets -merge -underBinder +onlyGivenNames x1
  have hx1 : Same M s0 x1 := State.abortClose_frame (.sub rfl hM) _ (State.overRecord_frame (.sub rfl hM) _ (State.launchPassed_frame (.sub rfl hM) _ _ h))
  split
  · rename_i v2 v3 e4
    have hv3 : Same M s0 v3 := (congrArg (fun r => Same M s0 r.2) e4).mp (State.openPosition_frame (.sub rfl hM) _ hx1)
    extract_lets -merge -underBinder +onlyGivenNames x5
    have hx5 : Same M s0 x5 := State.modPlane_frame (.sub rfl hM) _ _ hv3
    extract_lets -merge -underBinder +onlyGivenNames x6
    extract_lets -merge -underBinder +onlyGivenNames x7
    have hx7 : Same M s0 x7 := State.endRestore_frame (.sub rfl hM) _ (State.modPlane_frame (.sub rfl hM) _ _ hx5)
    extract_lets -merge -underBinder +onlyGivenNames x8
    have hx8 : Same M s0 x8 := State.openTriggers_frame (.sub rfl hM) _ (State.openLoops_frame (.sub rfl hM) _ (State.openBanks_frame (.sub rfl hM) _ (State.openGutters_frame (.sub rfl hM) _ (State.openSources_frame (.sub rfl hM) _ hx7))))
    extract_lets -merge -underBinder +onlyGivenNames x9
    have hx9 : Same M s0 x9 := State.advanceReady_frame (.sub rfl hM) _ (State.publish_frame (.sub rfl hM) _ hx8)
    refine Same.ite ?_ ?_
    · exact State.sendPlaneState_frame (.sub rfl hM) _ _ hx9
    · exact hx9

theorem State.report_frame {M : Nat} {s0 : State} (hM : Touch.le (.of [.urg, .out]) M) {s : State} (old : State) (h : Same M s0 s) : Same M s0 (State.report s old) := by
  unfold State.report
  refine Same.ite ?_ ?_
  · exact State.ringSend_frame (.sub rfl hM) _ h
  · exact h

theorem State.armPlanes_frame {M : Nat} {s0 : State} (hM : Touch.le (.of [.fir]) M) {s : State} (h : Same M s0 s) : Same M s0 (State.armPlanes s) := by
  unfold State.armPlanes
  refine Same.foldl (fun _ _ h1 => ?_) ?_
  · extract_lets -merge -underBinder +onlyGivenNames x2
    refine Same.ite ?_ ?_
    · exact State.modPlane_frame (.sub rfl hM) _ _ h1
    · exact h1
  · exact h

theorem State.settle_frame {M : Nat} {s0 : State} (hM : Touch.le (.of [.fir, .urg, .twn, .out]) M) {s : State} (old : State) (h : Same M s0 s) : Same M s0 (State.settle s old) := by
  unfold State.settle
  exact State.report_frame (.sub rfl hM) _ (State.armPlanes_frame (.sub rfl hM) (State.settlePeers_frame (.sub rfl hM) (State.clearLate_frame (.sub rfl hM) h)))

theorem State.openPlanes_frame {M : Nat} {s0 : State} (hM : Touch.le (.of [.regs, .hif, .dmc, .qdc, .scr, .csm, .fir, .plk, .cam, .lop, .lck, .urg, .twn, .pmc, .dram, .tables, .draws, .out]) M) {s : State} (ps : List (Fin 8)) (o : BitVec 48) (h : Same M s0 s) : Same M s0 (State.openPlanes s ps o) := by
  unfold State.openPlanes
  extract_lets -merge -underBinder +onlyGivenNames x1
  have hx1 : Same M s0 x1 := by
    refine State.chambersFollow_frame (.sub rfl hM) ?_
    refine State.settlePeers_frame (.sub rfl hM) ?_
    refine Same.foldl (fun _ _ h2 => ?_) ?_
    · exact State.openPlane_frame (.sub rfl hM) _ _ h2
    · exact h
  extract_lets -merge -underBinder +onlyGivenNames x3
  extract_lets -merge -underBinder +onlyGivenNames x4
  have hx4 : Same M s0 x4 := State.settle_frame (.sub rfl hM) _ (State.assertCause_frame (.sub rfl hM) _ _ (State.assertCause_frame (.sub rfl hM) _ _ (State.assertCause_frame (.sub rfl hM) _ _ (State.assertCause_frame (.sub rfl hM) _ _ hx1))))
  refine Same.ite ?_ ?_
  · exact State.twinSend_frame (.sub rfl hM) _ hx4
  · exact hx4

theorem State.launchDue_frame {M : Nat} {s0 : State} (hM : Touch.le (.of [.regs, .hif, .dmc, .scr, .csm, .fir, .plk, .lop, .lck, .urg, .twn, .pmc, .dram, .tables, .draws, .out]) M) {s : State} (p : Fin 8) (h : Same M s0 s) : Same M s0 (State.launchDue s p) := by
  unfold State.launchDue
  split
  · exact h
  · split
    · rename_i v1 v2 e3
      have hv2 : Same M s0 v2 := (congrArg (fun r => Same M s0 r.2) e3).mp (State.adoptStamp_frame (.sub rfl hM) _ _ h)
      refine Same.ite ?_ ?_
      · refine Same.ite ?_ ?_
        · exact State.launchLine_frame (.sub rfl hM) _ _ (State.standbyLate_frame (.sub rfl hM) _ _ hv2)
        · exact State.countEvent_frame (.sub rfl hM) _ _ _ (State.stopPlanes_frame (.sub rfl hM) _ _ hv2)
      · exact State.launchLine_frame (.sub rfl hM) _ _ hv2

end Sys2Proof.Machine
end

