-- ==== Sys2Proof/Laws/FrameTideOps.lean ====
section
/-! SUPPORT. What the operations of Machine/TideOps.lean may change. -/

set_option Elab.async false

namespace Sys2Proof.Machine

theorem State.tideEnds_frame {M : Nat} {s0 : State} (hM : Touch.le (.of [.regs, .hif, .fir, .twn, .pmc, .out]) M) {s : State} (old : State) (h : Same M s0 s) : Same M s0 (State.tideEnds s old) := by
  unfold State.tideEnds
  split
  · refine Same.ite ?_ ?_
    · exact State.overEnds_frame (.sub rfl hM) h
    · exact h
  · refine Same.ite ?_ ?_
    · exact State.overEnds_frame (.sub rfl hM) h
    · exact h
  · exact h

theorem State.followTide_frame {M : Nat} {s0 : State} (hM : Touch.le (.of [.fir]) M) {s : State} (h : Same M s0 s) : Same M s0 (State.followTide s) := by
  unfold State.followTide
  split
  · exact h
  · refine Same.ite ?_ ?_
    · refine State.followPosition_frame (.sub rfl hM) ?_
      exact Same.upd h (fir := .inl (.sub rfl hM))
    · exact h

theorem State.tideFollows_frame {M : Nat} {s0 : State} (hM : Touch.le (.of [.regs, .hif, .fir, .urg, .twn, .pmc, .out]) M) {s : State} (old : State) (h : Same M s0 s) : Same M s0 (State.tideFollows s old) := by
  unfold State.tideFollows
  refine Same.ite ?_ ?_
  · exact h
  · extract_lets -merge -underBinder +onlyGivenNames x1
    have hx1 : Same M s0 x1 := State.tideEnds_frame (.sub rfl hM) _ (State.followTide_frame (.sub rfl hM) h)
    refine State.settle_frame (.sub rfl hM) _ ?_
    refine Same.ite ?_ ?_
    · exact State.clearCause_frame (.sub rfl hM) _ _ hx1
    · exact hx1

theorem State.noteDelta_frame {M : Nat} {s0 : State} (hM : Touch.le (.of [.urg]) M) {s : State} (w : TideWord) (h : Same M s0 s) : Same M s0 (State.noteDelta s w) := by
  unfold State.noteDelta
  split
  · exact h
  · extract_lets -merge -underBinder +onlyGivenNames x1
    extract_lets -merge -underBinder +onlyGivenNames x2
    exact Same.upd h (urg := .inl (.sub rfl hM))

theorem State.changeOver_frame {M : Nat} {s0 : State} (hM : Touch.le (.of [.urg]) M) {s : State} (n : BitVec 10) (d : Int) (h : Same M s0 s) : Same M s0 (State.changeOver s n d) := by
  unfold State.changeOver
  exact Same.upd h (urg := .inl (.sub rfl hM))

theorem State.chooseSource_frame {M : Nat} {s0 : State} (hM : Touch.le (.of [.urg]) M) {s : State} (w : TideWord) (h : Same M s0 s) : Same M s0 (State.chooseSource s w) := by
  unfold State.chooseSource
  split
  · exact Same.upd h (urg := .inl (.sub rfl hM))
  · refine Same.ite ?_ ?_
    · exact h
    · extract_lets -merge -underBinder +onlyGivenNames x2
      have hx2 : Same M s0 x2 := State.noteDelta_frame (.sub rfl hM) _ h
      split
      · refine Same.ite ?_ ?_
        · exact State.changeOver_frame (.sub rfl hM) _ _ hx2
        · exact hx2
      · exact hx2

theorem State.recordWord_frame {M : Nat} {s0 : State} (hM : Touch.le (.of [.urg]) M) {s : State} (w : TideWord) (h : Same M s0 s) : Same M s0 (State.recordWord s w) := by
  unfold State.recordWord
  extract_lets -merge -underBinder +onlyGivenNames x1
  extract_lets -merge -underBinder +onlyGivenNames x2
  extract_lets -merge -underBinder +onlyGivenNames x3
  exact Same.upd h (urg := .inl (.sub rfl hM))

theorem State.takeTide_frame {M : Nat} {s0 : State} (hM : Touch.le (.of [.regs, .hif, .fir, .urg, .twn, .pmc, .out]) M) {s : State} (w : TideWord) (h : Same M s0 s) : Same M s0 (State.takeTide s w) := by
  unfold State.takeTide
  refine Same.ite ?_ ?_
  · exact State.tideFollows_frame (.sub rfl hM) _ (State.countEvent_frame (.sub rfl hM) _ _ _ (State.chooseSource_frame (.sub rfl hM) _ (State.recordWord_frame (.sub rfl hM) _ h)))
  · exact h

theorem State.drainTide_frame {M : Nat} {s0 : State} (hM : Touch.le (.of [.regs, .hif, .fir, .urg, .twn, .pmc, .out]) M) {s : State} (h : Same M s0 s) : Same M s0 (State.drainTide s) := by
  unfold State.drainTide
  refine Same.ite ?_ ?_
  · refine Same.foldl (fun _ _ h1 => ?_) ?_
    · exact State.takeTide_frame (.sub rfl hM) _ h1
    · exact Same.upd h (urg := .inl (.sub rfl hM))
  · exact h

theorem State.ownWord_frame {M : Nat} {s0 : State} (hM : Touch.le (.of [.draws]) M) {s : State} (h : Same M s0 s) : Same M s0 (State.ownWord s).2 := by
  unfold State.ownWord
  extract_lets -merge -underBinder +onlyGivenNames x1
  extract_lets -merge -underBinder +onlyGivenNames x2
  split
  · exact h
  · exact State.draw_frame (.sub rfl hM) h

theorem State.receiveTide_frame {M : Nat} {s0 : State} (hM : Touch.le (.of [.regs, .hif, .fir, .urg, .twn, .pmc, .out]) M) {s : State} (w : TideWord) (h : Same M s0 s) : Same M s0 (State.receiveTide s w) := by
  unfold State.receiveTide
  refine Same.ite ?_ ?_
  · exact State.takeTide_frame (.sub rfl hM) _ h
  · extract_lets -merge -underBinder +onlyGivenNames x1
    exact Same.upd h (urg := .inl (.sub rfl hM))

theorem State.sendTide_frame {M : Nat} {s0 : State} (hM : Touch.le (.of [.regs, .hif, .fir, .urg, .twn, .pmc, .draws, .out]) M) {s : State} (h : Same M s0 s) : Same M s0 (State.sendTide s) := by
  unfold State.sendTide
  refine Same.ite ?_ ?_
  · exact Same.upd h (urg := .inl (.sub rfl hM))
  · refine Same.ite ?_ ?_
    · exact Same.upd h (urg := .inl (.sub rfl hM))
    · split
      · rename_i v3 v4 e5
        have hv4 : Same M s0 v4 := (congrArg (fun r => Same M s0 r.2) e5).mp (State.ownWord_frame (.sub rfl hM) h)
        extract_lets -merge -underBinder +onlyGivenNames z_6 x7
        have hx7 : Same M s0 x7 := by
          refine State.ringSend_frame (.sub rfl hM) _ ?_
          exact Same.upd hv4 (urg := .inl (.sub rfl hM))
        refine Same.ite ?_ ?_
        · exact State.receiveTide_frame (.sub rfl hM) _ hx7
        · exact hx7

theorem State.expireTide_frame {M : Nat} {s0 : State} (hM : Touch.le (.of [.regs, .hif, .dmc, .scr, .csm, .fir, .plk, .lop, .lck, .urg, .twn, .pmc, .dram, .tables, .draws, .out]) M) {s : State} (n : BitVec 10) (h : Same M s0 s) : Same M s0 (State.expireTide s n) := by
  unfold State.expireTide
  extract_lets -merge -underBinder +onlyGivenNames z_1 x2
  have hx2 : Same M s0 x2 := Same.upd h (urg := .inl (.sub rfl hM))
  refine Same.ite ?_ ?_
  · exact Same.upd hx2 (urg := .inl (.sub rfl hM))
  · extract_lets -merge -underBinder +onlyGivenNames x5
    clear_value x5
    split
    · exact State.tideFollows_frame (.sub rfl hM) _ (State.changeOver_frame (.sub rfl hM) _ _ hx2)
    · refine Same.ite ?_ ?_
      · exact State.settle_frame (.sub rfl hM) _ (State.assertCause_frame (.sub rfl hM) _ _ hx2)
      · exact hx2

end Sys2Proof.Machine
end

