-- ==== Sys2Proof/Laws/FrameMeasure.lean ====
section
/-! SUPPORT. What the operations of Machine/Measure.lean may change. -/

set_option Elab.async false

namespace Sys2Proof.Machine

theorem State.finishInstance_frame {M : Nat} {s0 : State} (hM : Touch.le (.of [.lop]) M) {s : State} (m : Fin 64) (i : Nat) (vs : List Capture) (h : Same M s0 s) : Same M s0 (State.finishInstance s m i vs) := by
  unfold State.finishInstance
  extract_lets -merge -underBinder +onlyGivenNames x1
  split
  · exact h
  · extract_lets -merge -underBinder +onlyGivenNames x2
    refine Same.ite ?_ ?_
    · exact Same.upd h (lop := .inl (.sub rfl hM))
    · extract_lets -merge -underBinder +onlyGivenNames x4
      extract_lets -merge -underBinder +onlyGivenNames x5
      split
      · exact h
      · extract_lets -merge -underBinder +onlyGivenNames x6
        extract_lets -merge -underBinder +onlyGivenNames x7
        refine Same.ite ?_ ?_
        · exact h
        · exact Same.upd h (lop := .inl (.sub rfl hM))

theorem State.finishInstances_frame {M : Nat} {s0 : State} (hM : Touch.le (.of [.lop]) M) {s : State} (c : Fin 16) (tag : Int) (h : Same M s0 s) : Same M s0 (State.finishInstances s c tag) := by
  unfold State.finishInstances
  extract_lets -merge -underBinder +onlyGivenNames x1
  extract_lets -merge -underBinder +onlyGivenNames x2
  extract_lets -merge -underBinder +onlyGivenNames x3
  refine Same.foldl (fun _ _ h4 => ?_) ?_
  · exact State.finishInstance_frame (.sub rfl hM) _ _ _ h4
  · exact Same.upd h (lop := .inl (.sub rfl hM))

theorem State.feedMarks_frame {M : Nat} {s0 : State} (hM : Touch.le (.of [.lop]) M) {s : State} (c : Fin 16) (r : TrigRecord) (clean : Bool) (per : Nat) (samples : List Nat) (h : Same M s0 s) : Same M s0 (State.feedMarks s c r clean per samples) := by
  unfold State.feedMarks
  refine Same.ite ?_ ?_
  · exact h
  · extract_lets -merge -underBinder +onlyGivenNames x1
    refine State.finishInstances_frame (.sub rfl hM) _ _ ?_
    exact Same.upd h (lop := .inl (.sub rfl hM))

theorem State.feedBands_frame {M : Nat} {s0 : State} (hM : Touch.le (.of [.lop]) M) {s : State} (kind : Nat) (c : Fin 16) (r : TrigRecord) (clean : Bool) (first : Nat) (avg : Nat) (per : Nat) (samples : List Nat) (h : Same M s0 s) : Same M s0 (State.feedBands s kind c r clean first avg per samples) := by
  unfold State.feedBands
  extract_lets -merge -underBinder +onlyGivenNames x1
  refine Same.ite ?_ ?_
  · exact h
  · extract_lets -merge -underBinder +onlyGivenNames x2
    exact Same.upd h (lop := .inl (.sub rfl hM))

end Sys2Proof.Machine
end

