-- ==== Sys2Proof/Laws/FramePins.lean ====
section
/-! SUPPORT. What the operations of Machine/Pins.lean may change. -/

set_option Elab.async false

namespace Sys2Proof.Machine

theorem State.driveGpio_frame {M : Nat} {s0 : State} (hM : Touch.le (.of [.pins]) M) {s : State} (g : Fin 16) (level : Bool) (h : Same M s0 s) : Same M s0 (State.driveGpio s g level) := by
  unfold State.driveGpio
  exact Same.upd h (pins := .inl (.sub rfl hM))

theorem State.restGpios_frame {M : Nat} {s0 : State} (hM : Touch.le (.of [.pins]) M) {s : State} (h : Same M s0 s) : Same M s0 (State.restGpios s) := by
  unfold State.restGpios
  refine Same.foldl (fun _ _ h1 => ?_) ?_
  · refine Same.ite ?_ ?_
    · exact h1
    · exact State.driveGpio_frame (.sub rfl hM) _ _ h1
  · exact h

theorem State.resetGpios_frame {M : Nat} {s0 : State} (hM : Touch.le (.of [.pins]) M) {s : State} (h : Same M s0 s) : Same M s0 (State.resetGpios s) := by
  unfold State.resetGpios
  refine Same.ite ?_ ?_
  · exact State.restGpios_frame (.sub rfl hM) h
  · exact Same.upd h (pins := .inl (.sub rfl hM))

theorem State.driveTrig_frame {M : Nat} {s0 : State} (hM : Touch.le (.of [.pins]) M) {s : State} (t : Fin 4) (level : Bool) (h : Same M s0 s) : Same M s0 (State.driveTrig s t level) := by
  unfold State.driveTrig
  exact Same.upd h (pins := .inl (.sub rfl hM))

theorem State.restTrigs_frame {M : Nat} {s0 : State} (hM : Touch.le (.of [.pins]) M) {s : State} (h : Same M s0 s) : Same M s0 (State.restTrigs s) := by
  unfold State.restTrigs
  refine Same.foldl (fun _ _ h1 => ?_) ?_
  · refine Same.ite ?_ ?_
    · exact h1
    · exact State.driveTrig_frame (.sub rfl hM) _ _ h1
  · exact h

theorem State.resetTrigs_frame {M : Nat} {s0 : State} (hM : Touch.le (.of [.pins]) M) {s : State} (h : Same M s0 s) : Same M s0 (State.resetTrigs s) := by
  unfold State.resetTrigs
  refine Same.ite ?_ ?_
  · exact State.restTrigs_frame (.sub rfl hM) h
  · exact Same.upd h (pins := .inl (.sub rfl hM))

theorem State.pullBalls_frame {M : Nat} {s0 : State} (hM : Touch.le (.of [.pins]) M) {s : State} (h : Same M s0 s) : Same M s0 (State.pullBalls s) := by
  unfold State.pullBalls
  exact Same.upd h (pins := .inl (.sub rfl hM))

end Sys2Proof.Machine
end

