-- ==== Sys2Proof/Laws/FrameCamera.lean ====
section
/-! SUPPORT. What the operations of Machine/Camera.lean may change. -/

set_option Elab.async false

namespace Sys2Proof.Machine

theorem State.modCtx_frame {M : Nat} {s0 : State} (hM : Touch.le (.of [.cam]) M) {s : State} (c : Fin 16) (f : CamCtx → CamCtx) (h : Same M s0 s) : Same M s0 (State.modCtx s c f) := by
  unfold State.modCtx
  exact Same.upd h (cam := .inl (.sub rfl hM))

theorem State.expireRecords_frame {M : Nat} {s0 : State} (hM : Touch.le (.of [.cam]) M) {s : State} (c : Fin 16) (h : Same M s0 s) : Same M s0 (State.expireRecords s c) := by
  unfold State.expireRecords
  exact State.modCtx_frame (.sub rfl hM) _ _ h

theorem State.takeRecord_frame {M : Nat} {s0 : State} (hM : Touch.le (.of [.cam]) M) {s : State} (c : Fin 16) (h : Same M s0 s) : Same M s0 (State.takeRecord s c).2 := by
  unfold State.takeRecord
  extract_lets -merge -underBinder +onlyGivenNames x1
  have hx1 : Same M s0 x1 := State.expireRecords_frame (.sub rfl hM) _ h
  split
  · exact State.modCtx_frame (.sub rfl hM) _ _ hx1
  · exact State.modCtx_frame (.sub rfl hM) _ _ hx1

theorem State.putCamLine_frame {M : Nat} {s0 : State} (hM : Touch.le (.of [.dmc, .twn, .pmc, .dram, .draws, .out]) M) {s : State} (c : Fin 16) (base : Nat) (k : BitVec 32) (bytes : List Sys2Proof.Byte) (h : Same M s0 s) : Same M s0 (State.putCamLine s c base k bytes) := by
  unfold State.putCamLine
  extract_lets -merge -underBinder +onlyGivenNames x1
  extract_lets -merge -underBinder +onlyGivenNames x2
  refine Same.ite ?_ ?_
  · exact h
  · exact State.dramPut_frame (.sub rfl hM) _ _ _ _ h

theorem State.streamS3_frame {M : Nat} {s0 : State} (hM : Touch.le (.of [.dmc, .cam, .twn, .pmc, .dram, .draws, .out]) M) {s : State} (l : CamLine) (r : Option TrigRecord) (free : BitVec 112) (f : LineFlags) (samples : List Nat) (h : Same M s0 s) : Same M s0 (State.streamS3 s l r free f samples) := by
  unfold State.streamS3
  extract_lets -merge -underBinder +onlyGivenNames x1
  split
  · split
    · extract_lets -merge -underBinder +onlyGivenNames x2
      extract_lets -merge -underBinder +onlyGivenNames x3
      refine Same.ite ?_ ?_
      · exact h
      · extract_lets -merge -underBinder +onlyGivenNames x4
        extract_lets -merge -underBinder +onlyGivenNames x5
        have hx5 : Same M s0 x5 := State.modCtx_frame (.sub rfl hM) _ _ h
        refine Same.ite ?_ ?_
        · exact hx5
        · refine Same.ite ?_ ?_
          · exact Same.upd hx5 (cam := .inl (.sub rfl hM))
          · extract_lets -merge -underBinder +onlyGivenNames x7
            extract_lets -merge -underBinder +onlyGivenNames x8
            exact State.modCtx_frame (.sub rfl hM) _ _ (State.putCamLine_frame (.sub rfl hM) _ _ _ _ hx5)

theorem State.streamS0_frame {M : Nat} {s0 : State} (hM : Touch.le (.of [.dmc, .cam, .lop, .twn, .pmc, .dram, .draws, .out]) M) {s : State} (l : CamLine) (r : Option TrigRecord) (free : BitVec 112) (f : LineFlags) (bs : List Sys2Proof.Byte) (h : Same M s0 s) : Same M s0 (State.streamS0 s l r free f bs) := by
  unfold State.streamS0
  extract_lets -merge -underBinder +onlyGivenNames x1
  split
  · split
    · extract_lets -merge -underBinder +onlyGivenNames x2
      extract_lets -merge -underBinder +onlyGivenNames x3
      extract_lets -merge -underBinder +onlyGivenNames x4
      refine Same.ite ?_ ?_
      · exact h
      · extract_lets -merge -underBinder +onlyGivenNames x5
        have hx5 : Same M s0 x5 := by
          refine Same.ite ?_ ?_
          · exact State.modCtx_frame (.sub rfl hM) _ _ (State.putCamLine_frame (.sub rfl hM) _ _ _ _ h)
          · exact h
        split
        · refine Same.ite ?_ ?_
          · exact State.feedBands_frame (.sub rfl hM) _ _ _ _ _ _ _ _ hx5
          · exact hx5
        · exact hx5

theorem State.flushS1_frame {M : Nat} {s0 : State} (hM : Touch.le (.of [.cam, .lop]) M) {s : State} (c : Fin 16) (per : Nat) (avg : Nat) (h : Same M s0 s) : Same M s0 (State.flushS1 s c per avg) := by
  unfold State.flushS1
  split
  · exact h
  · exact State.feedBands_frame (.sub rfl hM) _ _ _ _ _ _ _ _ (State.modCtx_frame (.sub rfl hM) _ _ h)

theorem State.streamS1_frame {M : Nat} {s0 : State} (hM : Touch.le (.of [.cam, .lop]) M) {s : State} (c : Fin 16) (r : TrigRecord) (clean : Bool) (samples : List Nat) (h : Same M s0 s) : Same M s0 (State.streamS1 s c r clean samples) := by
  unfold State.streamS1
  split
  · split
    · extract_lets -merge -underBinder +onlyGivenNames x1
      extract_lets -merge -underBinder +onlyGivenNames x2
      extract_lets -merge -underBinder +onlyGivenNames x3
      refine Same.ite ?_ ?_
      · exact h
      · extract_lets -merge -underBinder +onlyGivenNames x4
        have hx4 : Same M s0 x4 := by
          refine Same.ite ?_ ?_
          · exact h
          · exact State.flushS1_frame (.sub rfl hM) _ _ _ h
        extract_lets -merge -underBinder +onlyGivenNames x5
        extract_lets -merge -underBinder +onlyGivenNames x6
        extract_lets -merge -underBinder +onlyGivenNames x7
        extract_lets -merge -underBinder +onlyGivenNames x8
        have hx8 : Same M s0 x8 := State.modCtx_frame (.sub rfl hM) _ _ hx4
        refine Same.ite ?_ ?_
        · exact State.flushS1_frame (.sub rfl hM) _ _ _ hx8
        · exact hx8

theorem State.emitLine4_frame {M : Touch} {s0 : State} (hM : Touch.le (.of [.dmc, .cam, .lop, .twn, .pmc, .dram, .draws, .out]) M) {s : State} (l : CamLine) (r : Option TrigRecord) (h : Same M s0 s) : Same M s0 (s.emitLine4 l r) := by
  unfold State.emitLine4
  extract_lets c
  split
  rename_i bs f e
  extract_lets all samples
  split
  rename_i free t e2
  have ht : Same M s0 t := by
    refine (congrArg (fun r => Same M s0 r.2) e2).mp ?_
    split
    · exact h
    · exact State.draw_frame (.sub rfl hM) h
  extract_lets -merge -underBinder +onlyGivenNames s1
  have hs1 : Same M s0 s1 := State.streamS3_frame (.sub rfl hM) _ _ _ _ _ (State.streamS0_frame (.sub rfl hM) _ _ _ _ _ (State.countEvent_frame (.sub rfl hM) _ _ _ ht))
  split
  · exact Same.ite (State.modCtx_frame (.sub rfl hM) _ _ (State.feedMarks_frame (.sub rfl hM) _ _ _ _ _ (State.streamS1_frame (.sub rfl hM) _ _ _ _ hs1))) hs1
  · exact hs1

theorem State.stageLine_frame {M : Nat} {s0 : State} (hM : Touch.le (.of [.dmc, .cam, .lop, .twn, .pmc, .dram, .draws, .out]) M) {s : State} (l : CamLine) (h : Same M s0 s) : Same M s0 (State.stageLine s l) := by
  unfold State.stageLine
  split
  · rename_i v1 v2 e3
    have hv2 : Same M s0 v2 := (congrArg (fun r => Same M s0 r.2) e3).mp (State.takeRecord_frame (.sub rfl hM) _ h)
    refine Same.ite ?_ ?_
    · exact hv2
    · exact State.emitLine4_frame (.sub rfl hM) _ _ hv2

theorem State.markDropped_frame {M : Nat} {s0 : State} (hM : Touch.le (.of [.cam]) M) {s : State} (c : Fin 16) (number : BitVec 16) (h : Same M s0 s) : Same M s0 (State.markDropped s c number) := by
  unfold State.markDropped
  extract_lets -merge -underBinder +onlyGivenNames x1
  exact State.modCtx_frame (.sub rfl hM) _ _ h

theorem State.modPort_frame {M : Nat} {s0 : State} (hM : Touch.le (.of [.cam]) M) {s : State} (p : Fin 4) (f : CamPort → CamPort) (h : Same M s0 s) : Same M s0 (State.modPort s p f) := by
  unfold State.modPort
  exact Same.upd h (cam := .inl (.sub rfl hM))

theorem State.countDrop_frame {M : Nat} {s0 : State} (hM : Touch.le (.of [.cam, .pmc, .out]) M) {s : State} (c : Fin 16) (number : BitVec 16) (h : Same M s0 s) : Same M s0 (State.countDrop s c number) := by
  unfold State.countDrop
  exact State.countEvent_frame (.sub rfl hM) _ _ _ (State.markDropped_frame (.sub rfl hM) _ _ (State.modCtx_frame (.sub rfl hM) _ _ (State.modPort_frame (.sub rfl hM) _ _ h)))

theorem State.makeRoom_frame {M : Touch} {s0 : State} (hM : Touch.le (.of [.cam, .pmc, .out]) M) {s : State} (p : Fin 4) (need fuel : Nat) (h : Same M s0 s) : Same M s0 (s.makeRoom p need fuel).2 := by
  induction fuel generalizing s with
  | zero => exact h
  | succ fuel ih =>
    unfold State.makeRoom
    split
    · exact h
    · split
      · exact h
      · exact ih (State.countDrop_frame (.sub rfl hM) _ _ (State.modPort_frame (.sub rfl hM) _ _ h))

theorem State.pushLine_frame {M : Nat} {s0 : State} (hM : Touch.le (.of [.cam]) M) {s : State} (l : CamLine) (h : Same M s0 s) : Same M s0 (State.pushLine s l) := by
  unfold State.pushLine
  exact State.modPort_frame (.sub rfl hM) _ _ h

theorem State.storeLine_frame {M : Nat} {s0 : State} (hM : Touch.le (.of [.cam, .pmc, .out]) M) {s : State} (l : CamLine) (h : Same M s0 s) : Same M s0 (State.storeLine s l) := by
  unfold State.storeLine
  extract_lets -merge -underBinder +onlyGivenNames x1
  split
  · rename_i v2 e3
    have hv2 : Same M s0 v2 := (congrArg (fun r => Same M s0 r.2) e3).mp (State.makeRoom_frame (.sub rfl hM) _ _ _ h)
    exact State.pushLine_frame (.sub rfl hM) _ hv2
  · rename_i v4 e5
    have hv4 : Same M s0 v4 := (congrArg (fun r => Same M s0 r.2) e5).mp (State.makeRoom_frame (.sub rfl hM) _ _ _ h)
    exact State.pushLine_frame (.sub rfl hM) _ (State.countDrop_frame (.sub rfl hM) _ _ hv4)

theorem State.camLine_frame {M : Nat} {s0 : State} (hM : Touch.le (.of [.cam, .pmc, .out]) M) {s : State} (c : Fin 16) (f : CamFrame) (bytes : List Sys2Proof.Byte) (crcOk : Bool) (h : Same M s0 s) : Same M s0 (State.camLine s c f bytes crcOk) := by
  unfold State.camLine
  split
  · extract_lets -merge -underBinder +onlyGivenNames x1
    extract_lets -merge -underBinder +onlyGivenNames x2
    refine Same.ite ?_ ?_
    · extract_lets -merge -underBinder +onlyGivenNames x3
      exact State.storeLine_frame (.sub rfl hM) _ (State.modCtx_frame (.sub rfl hM) _ _ (State.modCtx_frame (.sub rfl hM) _ _ h))
    · refine Same.ite ?_ ?_
      · exact State.pushLine_frame (.sub rfl hM) _ (State.modCtx_frame (.sub rfl hM) _ _ (State.modCtx_frame (.sub rfl hM) _ _ h))
      · extract_lets -merge -underBinder +onlyGivenNames x4
        exact State.storeLine_frame (.sub rfl hM) _ (State.modCtx_frame (.sub rfl hM) _ _ (State.modCtx_frame (.sub rfl hM) _ _ h))

theorem execCameraDropRecord_frame {M : Nat} {s0 : State} (hM : Touch.le (.of [.regs, .hif, .fir, .cam, .tim, .pmc, .now, .out]) M) (ctx : Fin 16) (at_ : Nat) {s : State} (h : Same M s0 s) : OSame M s0 (execCameraDropRecord ctx at_ s) := by
  unfold execCameraDropRecord
  refine OSame.next ?_
  extract_lets -merge -underBinder +onlyGivenNames x1
  have hx1 : Same M s0 x1 := State.advance_frame (.sub rfl hM) _ h
  extract_lets -merge -underBinder +onlyGivenNames x2
  extract_lets -merge -underBinder +onlyGivenNames x3
  refine Same.ite ?_ ?_
  · exact State.modCtx_frame (.sub rfl hM) _ _ (State.log_frame (.sub rfl hM) _ _ _ _ hx1)
  · exact hx1

theorem State.modTrig_frame {M : Nat} {s0 : State} (hM : Touch.le (.of [.cam]) M) {s : State} (t : Fin 4) (f : CamTrig → CamTrig) (h : Same M s0 s) : Same M s0 (State.modTrig s t f) := by
  unfold State.modTrig
  exact Same.upd h (cam := .inl (.sub rfl hM))

theorem State.giveRecord_frame {M : Nat} {s0 : State} (hM : Touch.le (.of [.cam]) M) {s : State} (c : Fin 16) (r : TrigRecord) (pq : Int) (h : Same M s0 s) : Same M s0 (State.giveRecord s c r pq) := by
  unfold State.giveRecord
  exact State.modCtx_frame (.sub rfl hM) _ _ h

theorem State.pulseTrigger_frame {M : Nat} {s0 : State} (hM : Touch.le (.of [.pins, .cam]) M) {s : State} (t : Fin 4) (pq : Int) (h : Same M s0 s) : Same M s0 (State.pulseTrigger s t pq) := by
  unfold State.pulseTrigger
  extract_lets -merge -underBinder +onlyGivenNames x1
  extract_lets -merge -underBinder +onlyGivenNames x2
  extract_lets -merge -underBinder +onlyGivenNames x3
  extract_lets -merge -underBinder +onlyGivenNames x4
  have hx4 : Same M s0 x4 := State.modTrig_frame (.sub rfl hM) _ _ h
  extract_lets -merge -underBinder +onlyGivenNames x5
  have hx5 : Same M s0 x5 := State.driveTrig_frame (.sub rfl hM) _ _ hx4
  refine Same.foldl (fun _ _ h6 => ?_) ?_
  · refine Same.ite ?_ ?_
    · exact State.giveRecord_frame (.sub rfl hM) _ _ _ h6
    · exact h6
  · exact hx5

theorem State.issueTrigger_frame {M : Nat} {s0 : State} (hM : Touch.le (.of [.pins, .cam]) M) {s : State} (t : Fin 4) (pq : Int) (h : Same M s0 s) : Same M s0 (State.issueTrigger s t pq) := by
  unfold State.issueTrigger
  extract_lets -merge -underBinder +onlyGivenNames x1
  split
  · refine Same.ite ?_ ?_
    · exact State.modTrig_frame (.sub rfl hM) _ _ h
    · exact State.pulseTrigger_frame (.sub rfl hM) _ _ h
  · exact State.pulseTrigger_frame (.sub rfl hM) _ _ h

theorem execTriggerPulseEnd_frame {M : Nat} {s0 : State} (hM : Touch.le (.of [.pins, .cam]) M) (trigger : Fin 4) {s : State} (h : Same M s0 s) : OSame M s0 (execTriggerPulseEnd trigger s) := by
  unfold execTriggerPulseEnd
  refine OSame.next ?_
  refine Same.ite ?_ ?_
  · extract_lets -merge -underBinder +onlyGivenNames x1
    have hx1 : Same M s0 x1 := State.modTrig_frame (.sub rfl hM) _ _ h
    exact State.driveTrig_frame (.sub rfl hM) _ _ hx1
  · exact h

theorem State.stageTake_frame {M : Nat} {s0 : State} (hM : Touch.le (.of [.dmc, .cam, .lop, .twn, .pmc, .dram, .draws, .out]) M) {s : State} (h : Same M s0 s) : Same M s0 (State.stageTake s) := by
  unfold State.stageTake
  split
  · exact h
  · split
    · exact h
    · refine State.stageLine_frame (.sub rfl hM) _ ?_
      refine State.modPort_frame (.sub rfl hM) _ _ ?_
      exact Same.upd h (cam := .inl (.sub rfl hM))

theorem execStreamStageTake_frame {M : Nat} {s0 : State} (hM : Touch.le (.of [.dmc, .fir, .cam, .lop, .tim, .twn, .pmc, .dram, .now, .draws, .out]) M) (at_ : Nat) {s : State} (h : Same M s0 s) : OSame M s0 (execStreamStageTake at_ s) := by
  unfold execStreamStageTake
  refine OSame.next ?_
  extract_lets -merge -underBinder +onlyGivenNames x1
  have hx1 : Same M s0 x1 := State.advance_frame (.sub rfl hM) _ h
  refine Same.ite ?_ ?_
  · exact State.stageTake_frame (.sub rfl hM) hx1
  · exact hx1

theorem State.pushMissing_frame {M : Touch} {s0 : State} (hM : Touch.le (.of [.cam]) M) {s : State} (c : Fin 16) (frame : BitVec 16) (from_ n : Nat) (h : Same M s0 s) :
    Same M s0 (s.pushMissing c frame from_ n) := by
  induction n generalizing s from_ with
  | zero => exact h
  | succ n ih => exact ih _ (State.pushLine_frame (.sub rfl hM) _ h)

theorem State.closeFrame_frame {M : Nat} {s0 : State} (hM : Touch.le (.of [.cam]) M) {s : State} (c : Fin 16) (noFe : Bool) (h : Same M s0 s) : Same M s0 (State.closeFrame s c noFe) := by
  unfold State.closeFrame
  split
  · exact h
  · extract_lets -merge -underBinder +onlyGivenNames x1
    extract_lets -merge -underBinder +onlyGivenNames x2
    extract_lets -merge -underBinder +onlyGivenNames x3
    exact State.pushMissing_frame (.sub rfl hM) _ _ _ _ (State.modCtx_frame (.sub rfl hM) _ _ h)

theorem State.writeCtxCfg_frame {M : Nat} {s0 : State} (hM : Touch.le (.of [.regs, .cam]) M) {s : State} (c : Fin 16) (v : Sys2Proof.Word) (h : Same M s0 s) : Same M s0 (State.writeCtxCfg s c v) := by
  unfold State.writeCtxCfg
  extract_lets -merge -underBinder +onlyGivenNames x1
  extract_lets -merge -underBinder +onlyGivenNames x2
  have hx2 : Same M s0 x2 := by
    refine Same.ite ?_ ?_
    · exact State.closeFrame_frame (.sub rfl hM) _ _ h
    · exact h
  extract_lets -merge -underBinder +onlyGivenNames x3
  have hx3 : Same M s0 x3 := State.hostWrite_frame (.sub rfl hM) _ _ hx2
  refine Same.ite ?_ ?_
  · exact State.modCtx_frame (.sub rfl hM) _ _ hx3
  · exact hx3

theorem execCamContextEnableWrite_frame {M : Nat} {s0 : State} (hM : Touch.le (.of [.regs, .hif, .cam]) M) (ctx : Fin 16) (value : Sys2Proof.Word) {s : State} (h : Same M s0 s) : OSame M s0 (execCamContextEnableWrite ctx value s) := by
  unfold execCamContextEnableWrite
  refine OSame.next ?_
  refine State.onWrite_frame (.sub rfl hM) _ _ (fun _ h1 => ?_) ?_
  · exact State.writeCtxCfg_frame (.sub rfl hM) _ _ h1
  · exact h

theorem State.takeHeader_frame {M : Nat} {s0 : State} (hM : Touch.le (.of [.cam]) M) {s : State} (p : Fin 4) (vc : Fin 4) (ecc : Sys2Proof.EccOutcome) (h : Same M s0 s) : Same M s0 (State.takeHeader s p vc ecc).2 := by
  unfold State.takeHeader
  split
  · exact h
  · exact State.modPort_frame (.sub rfl hM) _ _ h
  · extract_lets -merge -underBinder +onlyGivenNames x1
    extract_lets -merge -underBinder +onlyGivenNames x2
    have hx2 : Same M s0 x2 := State.modPort_frame (.sub rfl hM) _ _ h
    refine Same.ite ?_ ?_
    · exact State.modCtx_frame (.sub rfl hM) _ _ hx2
    · exact hx2

theorem State.discardPacket_frame {M : Nat} {s0 : State} (hM : Touch.le (.of [.cam]) M) {s : State} (p : Fin 4) (h : Same M s0 s) : Same M s0 (State.discardPacket s p) := by
  unfold State.discardPacket
  exact State.modPort_frame (.sub rfl hM) _ _ h

theorem State.framePacket_frame {M : Touch} {s0 : State} (hM : Touch.le (.of [.cam]) M) {s : State} (p vc : Fin 4) (vcx : Bool) (ecc : EccOutcome) {f : Fin 16 → State → State}
    (hf : ∀ c t, Same M s0 t → Same M s0 (f c t)) (h : Same M s0 s) : Same M s0 (s.framePacket p vc vcx ecc f) := by
  unfold State.framePacket
  refine Same.ite h ?_
  split
  · rename_i t e
    exact (congrArg (fun r => Same M s0 r.2) e).mp (State.takeHeader_frame (.sub rfl hM) _ _ _ h)
  · rename_i t e
    have ht : Same M s0 t := (congrArg (fun r => Same M s0 r.2) e).mp (State.takeHeader_frame (.sub rfl hM) _ _ _ h)
    exact Same.ite (State.discardPacket_frame (.sub rfl hM) _ ht) (hf _ _ ht)

theorem execCsiFrameEnd_frame {M : Nat} {s0 : State} (hM : Touch.le (.of [.cam]) M) (port : Fin 4) (vc : Fin 4) (vcx : Bool) (ecc : Sys2Proof.EccOutcome) {s : State} (h : Same M s0 s) : OSame M s0 (execCsiFrameEnd port vc vcx ecc s) := by
  unfold execCsiFrameEnd
  refine OSame.next ?_
  refine State.framePacket_frame (.sub rfl hM) _ _ _ _ (fun _ _ h1 => ?_) ?_
  · exact State.closeFrame_frame (.sub rfl hM) _ _ h1
  · exact h

theorem execFrameEndTimeout_frame {M : Nat} {s0 : State} (hM : Touch.le (.of [.cam]) M) (ctx : Fin 16) {s : State} (h : Same M s0 s) : OSame M s0 (execFrameEndTimeout ctx s) := by
  unfold execFrameEndTimeout
  refine OSame.next ?_
  refine Same.ite ?_ ?_
  · exact State.closeFrame_frame (.sub rfl hM) _ _ h
  · exact h

theorem execTriggerRecordExpire_frame {M : Nat} {s0 : State} (hM : Touch.le (.of [.fir, .cam, .tim, .pmc, .now]) M) (ctx : Fin 16) (at_ : Nat) {s : State} (h : Same M s0 s) : OSame M s0 (execTriggerRecordExpire ctx at_ s) := by
  unfold execTriggerRecordExpire
  refine OSame.next ?_
  extract_lets -merge -underBinder +onlyGivenNames x1
  have hx1 : Same M s0 x1 := State.advance_frame (.sub rfl hM) _ h
  refine Same.ite ?_ ?_
  · exact State.expireRecords_frame (.sub rfl hM) _ hx1
  · exact hx1

theorem State.fireGrid_frame {M : Nat} {s0 : State} (hM : Touch.le (.of [.pins, .cam]) M) {s : State} (t : Fin 4) (h : Same M s0 s) : Same M s0 (State.fireGrid s t) := by
  unfold State.fireGrid
  extract_lets -merge -underBinder +onlyGivenNames x1
  extract_lets -merge -underBinder +onlyGivenNames x2
  refine Same.ite ?_ ?_
  · exact h
  · exact State.issueTrigger_frame (.sub rfl hM) _ _ (State.modTrig_frame (.sub rfl hM) _ _ h)

theorem State.writeCamRing_frame {M : Nat} {s0 : State} (hM : Touch.le (.of [.regs, .cam]) M) {s : State} (c : Fin 16) (o : Nat) (v : Sys2Proof.Word) (h : Same M s0 s) : Same M s0 (State.writeCamRing s c o v) := by
  unfold State.writeCamRing
  extract_lets -merge -underBinder +onlyGivenNames x1
  extract_lets -merge -underBinder +onlyGivenNames x2
  have hx2 : Same M s0 x2 := State.hostWrite_frame (.sub rfl hM) _ _ h
  refine Same.ite ?_ ?_
  · exact State.modCtx_frame (.sub rfl hM) _ _ hx2
  · exact hx2

theorem execTriggerFire_frame {M : Nat} {s0 : State} (hM : Touch.le (.of [.pins, .fir, .cam, .tim, .pmc, .now]) M) (trigger : Fin 4) (at_ : Nat) {s : State} (h : Same M s0 s) : OSame M s0 (execTriggerFire trigger at_ s) := by
  unfold execTriggerFire
  refine OSame.next ?_
  extract_lets -merge -underBinder +onlyGivenNames x1
  have hx1 : Same M s0 x1 := State.advance_frame (.sub rfl hM) _ h
  refine Same.ite ?_ ?_
  · exact State.fireGrid_frame (.sub rfl hM) _ hx1
  · exact hx1

theorem execCsiLongPacket_frame {M : Nat} {s0 : State} (hM : Touch.le (.of [.cam, .pmc, .out]) M) (port : Fin 4) (vc : Fin 4) (vcx : Bool) (ecc : Sys2Proof.EccOutcome) (dt : BitVec 6) (payload : List Sys2Proof.Byte) (crcOk : Bool) {s : State} (h : Same M s0 s) : OSame M s0 (execCsiLongPacket port vc vcx ecc dt payload crcOk s) := by
  unfold execCsiLongPacket
  refine OSame.next ?_
  refine State.framePacket_frame (.sub rfl hM) _ _ _ _ (fun _ _ h1 => ?_) ?_
  · refine Same.ite ?_ ?_
    · exact State.discardPacket_frame (.sub rfl hM) _ h1
    · split
      · exact State.discardPacket_frame (.sub rfl hM) _ h1
      · exact State.camLine_frame (.sub rfl hM) _ _ _ _ h1
  · exact h

theorem State.writePortEn_frame {M : Nat} {s0 : State} (hM : Touch.le (.of [.regs, .cam]) M) {s : State} (v : Sys2Proof.Word) (h : Same M s0 s) : Same M s0 (State.writePortEn s v) := by
  unfold State.writePortEn
  extract_lets -merge -underBinder +onlyGivenNames x1
  extract_lets -merge -underBinder +onlyGivenNames x2
  extract_lets -merge -underBinder +onlyGivenNames x3
  have hx3 : Same M s0 x3 := State.setField_frame (.sub rfl hM) _ _ _ _ h
  refine Same.foldl (fun _ _ h4 => ?_) ?_
  · refine Same.ite ?_ ?_
    · exact State.closeFrame_frame (.sub rfl hM) _ _ h4
    · exact h4
  · exact hx3

theorem execCsiFrameStart_frame {M : Nat} {s0 : State} (hM : Touch.le (.of [.cam]) M) (port : Fin 4) (vc : Fin 4) (vcx : Bool) (ecc : Sys2Proof.EccOutcome) (number : BitVec 16) {s : State} (h : Same M s0 s) : OSame M s0 (execCsiFrameStart port vc vcx ecc number s) := by
  unfold execCsiFrameStart
  refine OSame.next ?_
  refine State.framePacket_frame (.sub rfl hM) _ _ _ _ (fun _ _ h1 => ?_) ?_
  · exact State.modCtx_frame (.sub rfl hM) _ _ (State.closeFrame_frame (.sub rfl hM) _ _ h1)
  · exact h

theorem execCamPortEnWrite_frame {M : Nat} {s0 : State} (hM : Touch.le (.of [.regs, .hif, .cam]) M) (value : Sys2Proof.Word) {s : State} (h : Same M s0 s) : OSame M s0 (execCamPortEnWrite value s) := by
  unfold execCamPortEnWrite
  refine OSame.next ?_
  refine State.onWrite_frame (.sub rfl hM) _ _ (fun _ h1 => ?_) ?_
  · exact State.writePortEn_frame (.sub rfl hM) _ h1
  · exact h

theorem State.timeTriggers_frame {M : Nat} {s0 : State} (hM : Touch.le (.of [.pins, .cam]) M) {s : State} (k : Fin 16) (h : Same M s0 s) : Same M s0 (State.timeTriggers s k) := by
  unfold State.timeTriggers
  refine Same.foldl (fun _ _ h1 => ?_) ?_
  · refine Same.ite ?_ ?_
    · exact State.issueTrigger_frame (.sub rfl hM) _ _ h1
    · exact h1
  · exact h

theorem State.writeTrigCfg_frame {M : Nat} {s0 : State} (hM : Touch.le (.of [.regs, .pins, .cam]) M) {s : State} (t : Fin 4) (v : Sys2Proof.Word) (h : Same M s0 s) : Same M s0 (State.writeTrigCfg s t v) := by
  unfold State.writeTrigCfg
  extract_lets -merge -underBinder +onlyGivenNames x1
  extract_lets -merge -underBinder +onlyGivenNames x2
  have hx2 : Same M s0 x2 := State.hostWrite_frame (.sub rfl hM) _ _ h
  extract_lets -merge -underBinder +onlyGivenNames x3
  have hx3 : Same M s0 x3 := by
    refine Same.ite ?_ ?_
    · exact hx2
    · exact State.modTrig_frame (.sub rfl hM) _ _ hx2
  extract_lets -merge -underBinder +onlyGivenNames x4
  refine Same.ite ?_ ?_
  · exact State.driveTrig_frame (.sub rfl hM) _ _ hx3
  · exact hx3

end Sys2Proof.Machine
end

