-- ==== Sys2Proof/Laws/FrameCopier.lean ====
section
/-! SUPPORT. What the operations of Machine/Copier.lean may change. -/

set_option Elab.async false

namespace Sys2Proof.Machine

theorem State.putRun_frame {M : Nat} {s0 : State} (hM : Touch.le (.of [.cpy]) M) {s : State} (c : Option CopyRun) (h : Same M s0 s) : Same M s0 (State.putRun s c) := by
  unfold State.putRun
  exact Same.upd h (cpy := .inl (.sub rfl hM))

theorem State.liveWritten_frame {M : Nat} {s0 : State} (hM : Touch.le (.of [.csm, .tables]) M) {s : State} (t : Nat) (off : Nat) (len : Nat) (h : Same M s0 s) : Same M s0 (State.liveWritten s t off len) := by
  unfold State.liveWritten
  refine Same.ite ?_ ?_
  · refine Same.foldl (fun _ _ h1 => ?_) ?_
    · exact State.writeTable_frame (.sub rfl hM) _ _ _ h1
    · exact h
  · refine Same.ite ?_ ?_
    · exact State.countEmpty_frame (.sub rfl hM) h
    · exact h

theorem State.banksChanged_frame {M : Nat} {s0 : State} (hM : Touch.le (.of [.plk]) M) {s : State} (t : Nat) (who : BankFor) (h : Same M s0 s) : Same M s0 (State.banksChanged s t who) := by
  unfold State.banksChanged
  refine Same.ite ?_ ?_
  · refine Same.foldl (fun _ _ h1 => ?_) ?_
    · exact State.queueUpload_frame (.sub rfl hM) _ _ h1
    · exact h
  · exact h

theorem State.liveChanged_frame {M : Nat} {s0 : State} (hM : Touch.le (.of [.csm, .plk, .tables]) M) {s : State} (t : Nat) (off : Nat) (len : Nat) (who : BankFor) (h : Same M s0 s) : Same M s0 (State.liveChanged s t off len who) := by
  unfold State.liveChanged
  exact State.banksChanged_frame (.sub rfl hM) _ _ (State.liveWritten_frame (.sub rfl hM) _ _ _ h)

theorem State.copyTouch_frame {M : Nat} {s0 : State} (hM : Touch.le (.of [.dmc, .twn, .pmc, .draws, .out]) M) {s : State} (r : CopyReq) (a : Nat) (len : Nat) (h : Same M s0 s) : Same M s0 (State.copyTouch s r a len) := by
  unfold State.copyTouch
  split
  · exact State.dramTouch_frame (.sub rfl hM) _ _ _ _ h
  · refine Same.ite ?_ ?_
    · exact h
    · refine Same.foldl (fun _ _ h1 => ?_) ?_
      · exact State.readStored_frame (.sub rfl hM) _ _ _ _ h1
      · exact h
  · exact h

theorem State.copyRead_frame {M : Nat} {s0 : State} (hM : Touch.le (.of [.cpy, .dmc, .twn, .pmc, .draws, .out]) M) {s : State} (c : CopyRun) (h : Same M s0 s) : Same M s0 (State.copyRead s c) := by
  unfold State.copyRead
  extract_lets -merge -underBinder +onlyGivenNames x1
  refine Same.ite ?_ ?_
  · exact h
  · exact State.copyTouch_frame (.sub rfl hM) _ _ _ (State.putRun_frame (.sub rfl hM) _ h)

theorem State.copyDest_frame {M : Nat} {s0 : State} (hM : Touch.le (.of [.dmc, .csm, .lck, .twn, .pmc, .dram, .tables, .draws, .out]) M) {s : State} (a : Nat) (bs : List Sys2Proof.Byte) (h : Same M s0 s) : Same M s0 (State.copyDest s a bs) := by
  unfold State.copyDest
  split
  · exact State.dramPut_frame (.sub rfl hM) _ _ _ _ h
  · refine Same.ite ?_ ?_
    · exact State.liveWritten_frame (.sub rfl hM) _ _ _ (State.writeTable_frame (.sub rfl hM) _ _ _ h)
    · refine Same.ite ?_ ?_
      · exact State.stageUnits_frame (.sub rfl hM) _ _ _ _ _ h
      · exact h
  · exact h

theorem State.copyWrite_frame {M : Nat} {s0 : State} (hM : Touch.le (.of [.cpy, .dmc, .csm, .lck, .twn, .pmc, .dram, .tables, .draws, .out]) M) {s : State} (c : CopyRun) (h : Same M s0 s) : Same M s0 (State.copyWrite s c) := by
  unfold State.copyWrite
  split
  · exact h
  · refine Same.ite ?_ ?_
    · exact h
    · exact State.putRun_frame (.sub rfl hM) _ (State.copyDest_frame (.sub rfl hM) _ _ h)

theorem State.copySteps_frame {M : Touch} {s0 : State} (hM : Touch.le (.of [.cpy, .dmc, .csm, .lck, .twn, .pmc, .dram, .tables, .draws, .out]) M) {s : State} (d k : Nat) (h : Same M s0 s) : Same M s0 (s.copySteps d k) := by
  induction k generalizing s with
  | zero => exact h
  | succ k ih =>
    unfold State.copySteps
    split
    · exact h
    · exact ih (Same.ite (State.copyRead_frame (.sub rfl hM) _ h) (State.copyWrite_frame (.sub rfl hM) _ h))

theorem State.copyBurst_frame {M : Nat} {s0 : State} (hM : Touch.le (.of [.cpy, .dmc, .csm, .lck, .twn, .pmc, .dram, .tables, .draws, .out]) M) {s : State} (h : Same M s0 s) : Same M s0 (State.copyBurst s) := by
  unfold State.copyBurst
  split
  · exact h
  · refine Same.ite ?_ ?_
    · exact State.copySteps_frame (.sub rfl hM) _ _ (State.draw_frame (.sub rfl hM) h)
    · exact h

theorem State.stickCopy_frame {M : Nat} {s0 : State} (hM : Touch.le (.of [.cpy, .dmc, .csm, .lck, .twn, .pmc, .dram, .tables, .draws, .out]) M) {s : State} (b : Blk) (h : Same M s0 s) : Same M s0 (State.stickCopy s b) := by
  unfold State.stickCopy
  split
  · exact h
  · refine Same.ite ?_ ?_
    · extract_lets -merge -underBinder +onlyGivenNames x1
      have hx1 : Same M s0 x1 := State.copyBurst_frame (.sub rfl hM) h
      exact Same.upd hx1 (cpy := .inl (.sub rfl hM))
    · exact h

theorem State.endRun_frame {M : Nat} {s0 : State} (hM : Touch.le (.of [.cpy, .plk]) M) {s : State} (c : CopyRun) (h : Same M s0 s) : Same M s0 (State.endRun s c) := by
  unfold State.endRun
  split
  · refine Same.ite ?_ ?_
    · exact State.putRun_frame (.sub rfl hM) _ h
    · exact State.banksChanged_frame (.sub rfl hM) _ _ (State.putRun_frame (.sub rfl hM) _ h)
  · exact State.putRun_frame (.sub rfl hM) _ h

theorem State.cancelCopies_frame {M : Nat} {s0 : State} (hM : Touch.le (.of [.cpy, .dmc, .csm, .plk, .lck, .twn, .pmc, .dram, .tables, .draws, .out]) M) {s : State} (k : Fin 4) (h : Same M s0 s) : Same M s0 (State.cancelCopies s k) := by
  unfold State.cancelCopies
  extract_lets -merge -underBinder +onlyGivenNames x1
  have hx1 : Same M s0 x1 := by
    unfold x1
    split
    · exact h
    · refine Same.ite ?_ ?_
      · extract_lets -merge -underBinder +onlyGivenNames x2
        have hx2 : Same M s0 x2 := State.copyBurst_frame (.sub rfl hM) h
        split
        · exact State.endRun_frame (.sub rfl hM) _ hx2
        · exact hx2
      · exact h
  refine State.modChamber_frame (.sub rfl hM) _ _ ?_
  exact Same.upd hx1 (cpy := .inl (.sub rfl hM))

theorem State.discardChamber_frame {M : Nat} {s0 : State} (hM : Touch.le (.of [.regs, .hif, .cpy, .dmc, .csm, .plk, .lop, .lck, .urg, .twn, .pmc, .dram, .tables, .draws, .out]) M) {s : State} (k : Fin 4) (h : Same M s0 s) : Same M s0 (State.discardChamber s k) := by
  unfold State.discardChamber
  extract_lets -merge -underBinder +onlyGivenNames x1
  extract_lets -merge -underBinder +onlyGivenNames x2
  have hx2 : Same M s0 x2 := State.modChamber_frame (.sub rfl hM) _ _ (State.cancelCopies_frame (.sub rfl hM) _ h)
  extract_lets -merge -underBinder +onlyGivenNames x3
  have hx3 : Same M s0 x3 := by
    refine Same.foldl (fun _ _ h4 => ?_) ?_
    · exact State.lockAnswer_frame (.sub rfl hM) _ _ _ _ h4
    · exact State.rejectCore_frame (.sub rfl hM) _ _ hx2
  exact State.admitLoops_frame (.sub rfl hM) (State.modChamber_frame (.sub rfl hM) _ _ hx3)

theorem State.readView_frame {M : Nat} {s0 : State} (hM : Touch.le (.of [.dmc, .twn, .pmc, .draws, .out]) M) {s : State} (v : Nat) (t : Nat) (off : Nat) (len : Nat) (h : Same M s0 s) : Same M s0 (State.readView s v t off len) := by
  unfold State.readView
  refine Same.ite ?_ ?_
  · exact h
  · refine Same.foldl (fun _ _ h1 => ?_) ?_
    · exact State.readStored_frame (.sub rfl hM) _ _ _ _ h1
    · exact h

theorem State.leaveOpen_frame {M : Nat} {s0 : State} (hM : Touch.le (.of [.cpy, .dmc, .csm, .lck, .twn, .pmc, .dram, .tables, .draws, .out]) M) {s : State} (k : Fin 4) (a : LockAsk) (rest : List LockAsk) (h : Same M s0 s) : Same M s0 (State.leaveOpen s k a rest) := by
  unfold State.leaveOpen
  extract_lets -merge -underBinder +onlyGivenNames x1
  have hx1 : Same M s0 x1 := by
    unfold x1
    split
    · refine Same.ite ?_ ?_
      · exact State.copyBurst_frame (.sub rfl hM) h
      · exact h
    · exact h
  exact State.modChamber_frame (.sub rfl hM) _ _ hx1

theorem State.startCheck_frame {M : Nat} {s0 : State} (hM : Touch.le (.of [.regs, .hif, .cpy, .dmc, .csm, .lop, .lck, .urg, .twn, .pmc, .dram, .tables, .draws, .out]) M) {s : State} (k : Fin 4) (h : Same M s0 s) : Same M s0 (State.startCheck s k) := by
  unfold State.startCheck
  extract_lets -merge -underBinder +onlyGivenNames x1
  split
  · exact State.modChamber_frame (.sub rfl hM) _ _ h
  · split
    · refine Same.ite ?_ ?_
      · exact State.leaveOpen_frame (.sub rfl hM) _ _ _ h
      · exact h
    · exact h
    · extract_lets -merge -underBinder +onlyGivenNames x2
      have hx2 : Same M s0 x2 := State.modChamber_frame (.sub rfl hM) _ _ h
      split
      · exact State.complete_frame (.sub rfl hM) _ _ _ hx2
      · exact State.ringSend_frame (.sub rfl hM) _ hx2
      · exact State.loopRejected_frame (.sub rfl hM) _ _ _ hx2

end Sys2Proof.Machine
end

