-- ==== Sys2Proof/Laws/FrameHostRings.lean ====
section
/-! SUPPORT. What the operations of Machine/HostRings.lean may change. -/

set_option Elab.async false

namespace Sys2Proof.Machine

theorem State.mrEnable_frame {M : Nat} {s0 : State} (hM : Touch.le (.of [.regs, .hif]) M) {s : State} (n : Fin 16) (v : Sys2Proof.Word) (h : Same M s0 s) : Same M s0 (State.mrEnable s n v) := by
  unfold State.mrEnable
  extract_lets -merge -underBinder +onlyGivenNames x1
  have hx1 : Same M s0 x1 := State.hostWrite_frame (.sub rfl hM) _ _ h
  refine Same.ite ?_ ?_
  · exact hx1
  · extract_lets -merge -underBinder +onlyGivenNames x2
    refine Same.ite ?_ ?_
    · exact Same.upd hx1 (hif := .inl (.sub rfl hM))
    · exact State.setField_frame (.sub rfl hM) _ _ _ _ hx1

theorem State.archiveArrives_frame {M : Nat} {s0 : State} (hM : Touch.le (.of [.qdc, .draws]) M) {s : State} (h : Same M s0 s) : Same M s0 (State.archiveArrives s) := by
  unfold State.archiveArrives
  refine Same.ite ?_ ?_
  · extract_lets -merge -underBinder +onlyGivenNames x1
    have hx1 : Same M s0 x1 := State.draw_frame (.sub rfl hM) h
    exact Same.upd hx1 (qdc := .inl (.sub rfl hM))
  · exact h

theorem State.queueCompress_frame {M : Nat} {s0 : State} (hM : Touch.le (.of [.hif, .qdc, .draws]) M) {s : State} (f : Flight) (h : Same M s0 s) : Same M s0 (State.queueCompress s f) := by
  unfold State.queueCompress
  extract_lets -merge -underBinder +onlyGivenNames x1
  have hx1 : Same M s0 x1 := State.archiveArrives_frame (.sub rfl hM) h
  refine State.waitFlight_frame (.sub rfl hM) _ ?_
  exact Same.upd hx1 (qdc := .inl (.sub rfl hM))

theorem State.addXfer_frame {M : Nat} {s0 : State} (hM : Touch.le (.of [.hif]) M) {s : State} (x : Xfer) (h : Same M s0 s) : Same M s0 (State.addXfer s x) := by
  unfold State.addXfer
  exact Same.upd h (hif := .inl (.sub rfl hM))

theorem State.startXfer_frame {M : Nat} {s0 : State} (hM : Touch.le (.of [.hif]) M) {s : State} (f : Flight) (h : Same M s0 s) : Same M s0 (State.startXfer s f) := by
  unfold State.startXfer
  split
  · exact h
  · exact State.addXfer_frame (.sub rfl hM) _ h

theorem State.resumeFaults_frame {M : Touch} {s0 : State} (hM : Touch.le (.of [.hif, .qdc, .pmc, .draws, .out]) M) {s : State} (n : Fin 16) (k : Nat) (h : Same M s0 s) : Same M s0 (s.resumeFaults n k) := by
  induction k generalizing s with
  | zero => exact h
  | succ k ih =>
    unfold State.resumeFaults
    split
    · exact h
    · refine Same.ite (ih (Same.ite ?_ (Same.ite ?_ ?_))) h
      · exact State.complete_frame (.sub rfl hM) _ _ _ (State.modFlight_frame (.sub rfl hM) _ _ h)
      · exact State.queueCompress_frame (.sub rfl hM) _ (State.modFlight_frame (.sub rfl hM) _ _ h)
      · exact State.startXfer_frame (.sub rfl hM) _ (State.modFlight_frame (.sub rfl hM) _ _ h)

theorem State.unmask_frame {M : Nat} {s0 : State} (hM : Touch.le (.of [.hif, .pmc, .out]) M) {s : State} (v : Fin 64) (h : Same M s0 s) : Same M s0 (State.unmask s v) := by
  unfold State.unmask
  extract_lets -merge -underBinder +onlyGivenNames x1
  extract_lets -merge -underBinder +onlyGivenNames z_2 x3
  have hx3 : Same M s0 x3 := Same.upd h (hif := .inl (.sub rfl hM))
  refine Same.ite ?_ ?_
  · exact State.countEvent_frame (.sub rfl hM) _ _ _ (State.emit_frame (.sub rfl hM) _ hx3)
  · exact hx3

theorem State.resumeRing_frame {M : Nat} {s0 : State} (hM : Touch.le (.of [.hif, .mmu, .qdc, .pmc, .draws, .out]) M) {s : State} (n : Fin 16) (h : Same M s0 s) : Same M s0 (State.resumeRing s n) := by
  unfold State.resumeRing
  refine Same.ite ?_ ?_
  · extract_lets -merge -underBinder +onlyGivenNames z_1 x2
    have hx2 : Same M s0 x2 := Same.upd h (hif := .inl (.sub rfl hM))
    extract_lets -merge -underBinder +onlyGivenNames z_4 x5
    have hx5 : Same M s0 x5 := Same.upd hx2 (mmu := .inl (.sub rfl hM))
    exact State.resumeFaults_frame (.sub rfl hM) _ _ hx5
  · exact h

theorem State.fetchEntry_frame {M : Nat} {s0 : State} (hM : Touch.le (.of [.hif, .pmc, .out]) M) {s : State} (n : Fin 16) (w : BitVec 512) (h : Same M s0 s) : Same M s0 (State.fetchEntry s n w) := by
  unfold State.fetchEntry
  extract_lets -merge -underBinder +onlyGivenNames x1
  extract_lets -merge -underBinder +onlyGivenNames x2
  extract_lets -merge -underBinder +onlyGivenNames x3
  extract_lets -merge -underBinder +onlyGivenNames x4
  extract_lets -merge -underBinder +onlyGivenNames z_5 x6
  have hx6 : Same M s0 x6 := Same.upd h (hif := .inl (.sub rfl hM))
  extract_lets -merge -underBinder +onlyGivenNames x8
  have hx8 : Same M s0 x8 := State.countEvent_frame (.sub rfl hM) _ _ _ (State.countEvent_frame (.sub rfl hM) _ _ _ (State.emit_frame (.sub rfl hM) _ hx6))
  split
  · exact hx8
  · exact State.complete_frame (.sub rfl hM) _ _ _ hx8

theorem State.mask_frame {M : Nat} {s0 : State} (hM : Touch.le (.of [.hif]) M) {s : State} (v : Fin 64) (h : Same M s0 s) : Same M s0 (State.mask s v) := by
  unfold State.mask
  exact Same.upd h (hif := .inl (.sub rfl hM))

theorem State.logWrite_frame {M : Nat} {s0 : State} (hM : Touch.le (.of [.regs, .hif]) M) {s : State} (v : Sys2Proof.Word) (h : Same M s0 s) : Same M s0 (State.logWrite s v) := by
  unfold State.logWrite
  extract_lets -merge -underBinder +onlyGivenNames x1
  extract_lets -merge -underBinder +onlyGivenNames x2
  have hx2 : Same M s0 x2 := State.hostWrite_frame (.sub rfl hM) _ _ h
  refine Same.ite ?_ ?_
  · refine Same.ite ?_ ?_
    · exact Same.upd hx2 (hif := .inl (.sub rfl hM))
    · exact State.setField_frame (.sub rfl hM) _ _ _ _ hx2
  · exact hx2

theorem execLogEnableWrite_frame {M : Nat} {s0 : State} (hM : Touch.le (.of [.regs, .hif]) M) (value : Sys2Proof.Word) {s : State} (h : Same M s0 s) : OSame M s0 (execLogEnableWrite value s) := by
  unfold execLogEnableWrite
  refine OSame.next ?_
  refine State.onWrite_frame (.sub rfl hM) _ _ (fun _ h1 => ?_) ?_
  · exact State.logWrite_frame (.sub rfl hM) _ h1
  · exact h

theorem execManifestFetch_frame {M : Nat} {s0 : State} (hM : Touch.le (.of [.hif, .pmc, .out]) M) (ring : Fin 16) (entry : BitVec 512) {s : State} (h : Same M s0 s) : OSame M s0 (execManifestFetch ring entry s) := by
  unfold execManifestFetch
  refine OSame.next ?_
  refine Same.ite ?_ ?_
  · exact State.fetchEntry_frame (.sub rfl hM) _ _ h
  · exact h

theorem execCoalTimerExpiry_frame {M : Nat} {s0 : State} (hM : Touch.le (.of [.hif, .pmc, .out]) M) (ring : Option (Fin 8)) {s : State} (h : Same M s0 s) : OSame M s0 (execCoalTimerExpiry ring s) := by
  unfold execCoalTimerExpiry
  refine OSame.next ?_
  split
  · refine Same.ite ?_ ?_
    · exact State.signalCr_frame (.sub rfl hM) _ h
    · exact h
  · refine Same.ite ?_ ?_
    · exact State.signalLog_frame (.sub rfl hM) h
    · exact h

theorem execDblMctrlResume_frame {M : Nat} {s0 : State} (hM : Touch.le (.of [.hif, .mmu, .qdc, .pmc, .draws, .out]) M) (ring : Fin 16) {s : State} (h : Same M s0 s) : OSame M s0 (execDblMctrlResume ring s) := by
  unfold execDblMctrlResume
  refine OSame.next ?_
  refine State.onWrite_frame (.sub rfl hM) _ _ (fun _ h1 => ?_) ?_
  · exact State.resumeRing_frame (.sub rfl hM) _ h1
  · exact h

theorem State.drainRing_frame {M : Nat} {s0 : State} (hM : Touch.le (.of [.hif]) M) {s : State} (n : Fin 16) (h : Same M s0 s) : Same M s0 (State.drainRing s n) := by
  unfold State.drainRing
  refine Same.ite ?_ ?_
  · exact h
  · exact Same.upd h (hif := .inl (.sub rfl hM))

theorem State.abortRing_frame {M : Nat} {s0 : State} (hM : Touch.le (.of [.hif, .fir, .pmc, .out]) M) {s : State} (n : Fin 16) (h : Same M s0 s) : Same M s0 (State.abortRing s n) := by
  unfold State.abortRing
  extract_lets -merge -underBinder +onlyGivenNames x1
  extract_lets -merge -underBinder +onlyGivenNames x2
  extract_lets -merge -underBinder +onlyGivenNames x3
  have hx3 : Same M s0 x3 := State.completeAll_frame (.sub rfl hM) _ _ h
  exact Same.upd hx3 (fir := .inl (.sub rfl hM))

theorem State.mrDisable_frame {M : Nat} {s0 : State} (hM : Touch.le (.of [.regs, .hif, .mmu, .fir, .pmc, .out]) M) {s : State} (n : Fin 16) (v : Sys2Proof.Word) (h : Same M s0 s) : Same M s0 (State.mrDisable s n v) := by
  unfold State.mrDisable
  extract_lets -merge -underBinder +onlyGivenNames x1
  have hx1 : Same M s0 x1 := State.hostWrite_frame (.sub rfl hM) _ _ h
  extract_lets -merge -underBinder +onlyGivenNames z_2 x3
  have hx3 : Same M s0 x3 := Same.upd hx1 (mmu := .inl (.sub rfl hM))
  exact State.drainRing_frame (.sub rfl hM) _ (State.abortRing_frame (.sub rfl hM) _ hx3)

theorem State.ringError_frame {M : Nat} {s0 : State} (hM : Touch.le (.of [.regs, .hif, .pmc, .out]) M) {s : State} (ring : Nat) (kind : Nat) (h : Same M s0 s) : Same M s0 (State.ringError s ring kind) := by
  unfold State.ringError
  exact State.log_frame (.sub rfl hM) _ _ _ _ h

theorem State.writeHead_frame {M : Nat} {s0 : State} (hM : Touch.le (.of [.regs, .hif, .qdc, .pmc, .draws, .out]) M) {s : State} (m : Fin 8) (head : BitVec 16) (h : Same M s0 s) : Same M s0 (State.writeHead s m head) := by
  unfold State.writeHead
  refine Same.ite ?_ ?_
  · extract_lets -merge -underBinder +onlyGivenNames z_1 x2
    have hx2 : Same M s0 x2 := Same.upd h (hif := .inl (.sub rfl hM))
    refine Same.foldl (fun _ _ h4 => ?_) ?_
    · refine Same.ite ?_ ?_
      · exact State.resumeFaults_frame (.sub rfl hM) _ _ h4
      · exact h4
    · exact hx2
  · exact State.ringError_frame (.sub rfl hM) _ _ h

theorem execDblCheadWrite_frame {M : Nat} {s0 : State} (hM : Touch.le (.of [.regs, .hif, .qdc, .pmc, .draws, .out]) M) (ring : Fin 8) (head : BitVec 16) {s : State} (h : Same M s0 s) : OSame M s0 (execDblCheadWrite ring head s) := by
  unfold execDblCheadWrite
  refine OSame.next ?_
  refine State.onWrite_frame (.sub rfl hM) _ _ (fun _ h1 => ?_) ?_
  · exact State.writeHead_frame (.sub rfl hM) _ _ h1
  · exact h

theorem State.writeVector_frame {M : Nat} {s0 : State} (hM : Touch.le (.of [.hif, .pmc, .out]) M) {s : State} (v : Fin 64) (dword : Nat) (x : Sys2Proof.Word) (h : Same M s0 s) : Same M s0 (State.writeVector s v dword x) := by
  unfold State.writeVector
  extract_lets -merge -underBinder +onlyGivenNames x1
  split
  · exact Same.upd h (hif := .inl (.sub rfl hM))
  · exact Same.upd h (hif := .inl (.sub rfl hM))
  · exact Same.upd h (hif := .inl (.sub rfl hM))
  · refine Same.ite ?_ ?_
    · exact State.mask_frame (.sub rfl hM) _ h
    · exact State.unmask_frame (.sub rfl hM) _ h

theorem execMrDrained_frame {M : Nat} {s0 : State} (hM : Touch.le (.of [.hif]) M) (ring : Fin 16) {s : State} (h : Same M s0 s) : OSame M s0 (execMrDrained ring s) := by
  unfold execMrDrained
  refine OSame.next ?_
  exact State.drainRing_frame (.sub rfl hM) _ h

theorem execMrEnableWrite_frame {M : Nat} {s0 : State} (hM : Touch.le (.of [.regs, .hif]) M) (ring : Fin 16) (value : Sys2Proof.Word) {s : State} (h : Same M s0 s) : OSame M s0 (execMrEnableWrite ring value s) := by
  unfold execMrEnableWrite
  refine OSame.next ?_
  refine State.onWrite_frame (.sub rfl hM) _ _ (fun _ h1 => ?_) ?_
  · exact State.mrEnable_frame (.sub rfl hM) _ _ h1
  · exact h

theorem execManifestReadFail_frame {M : Nat} {s0 : State} (hM : Touch.le (.of [.regs, .hif, .pmc, .out]) M) (ring : Fin 16) {s : State} (h : Same M s0 s) : OSame M s0 (execManifestReadFail ring s) := by
  unfold execManifestReadFail
  refine OSame.next ?_
  refine Same.ite ?_ ?_
  · refine State.ringError_frame (.sub rfl hM) _ _ ?_
    exact Same.upd h (hif := .inl (.sub rfl hM))
  · exact h

theorem execMsixUnmask_frame {M : Nat} {s0 : State} (hM : Touch.le (.of [.hif, .pmc, .out]) M) (write : Sys2Proof.TableWrite) {s : State} (h : Same M s0 s) : OSame M s0 (execMsixUnmask write s) := by
  unfold execMsixUnmask
  refine OSame.next ?_
  extract_lets -merge -underBinder +onlyGivenNames x1
  refine Same.ite ?_ ?_
  · exact h
  · refine Same.ite ?_ ?_
    · exact State.discardWrite_frame (.sub rfl hM) h
    · refine Same.ite ?_ ?_
      · exact State.writeVector_frame (.sub rfl hM) _ _ _ h
      · exact h

theorem State.writeLogHead_frame {M : Nat} {s0 : State} (hM : Touch.le (.of [.regs, .hif, .pmc, .out]) M) {s : State} (head : BitVec 16) (h : Same M s0 s) : Same M s0 (State.writeLogHead s head) := by
  unfold State.writeLogHead
  refine Same.ite ?_ ?_
  · exact Same.upd h (hif := .inl (.sub rfl hM))
  · exact State.ringError_frame (.sub rfl hM) _ _ h

theorem State.crWrite_frame {M : Nat} {s0 : State} (hM : Touch.le (.of [.regs, .hif]) M) {s : State} (m : Fin 8) (v : Sys2Proof.Word) (h : Same M s0 s) : Same M s0 (State.crWrite s m v) := by
  unfold State.crWrite
  extract_lets -merge -underBinder +onlyGivenNames x1
  extract_lets -merge -underBinder +onlyGivenNames x2
  have hx2 : Same M s0 x2 := State.hostWrite_frame (.sub rfl hM) _ _ h
  refine Same.ite ?_ ?_
  · refine Same.ite ?_ ?_
    · exact Same.upd hx2 (hif := .inl (.sub rfl hM))
    · exact State.setField_frame (.sub rfl hM) _ _ _ _ hx2
  · refine Same.ite ?_ ?_
    · exact State.setField_frame (.sub rfl hM) _ _ _ _ hx2
    · exact hx2

theorem execCrEnableWrite_frame {M : Nat} {s0 : State} (hM : Touch.le (.of [.regs, .hif]) M) (ring : Fin 8) (value : Sys2Proof.Word) {s : State} (h : Same M s0 s) : OSame M s0 (execCrEnableWrite ring value s) := by
  unfold execCrEnableWrite
  refine OSame.next ?_
  refine State.onWrite_frame (.sub rfl hM) _ _ (fun _ h1 => ?_) ?_
  · exact State.crWrite_frame (.sub rfl hM) _ _ h1
  · exact h

theorem State.writeTail_frame {M : Nat} {s0 : State} (hM : Touch.le (.of [.regs, .hif, .pmc, .out]) M) {s : State} (n : Fin 16) (tail : BitVec 16) (h : Same M s0 s) : Same M s0 (State.writeTail s n tail) := by
  unfold State.writeTail
  refine Same.ite ?_ ?_
  · exact Same.upd h (hif := .inl (.sub rfl hM))
  · exact State.ringError_frame (.sub rfl hM) _ _ h

theorem execNop_frame {M : Nat} {s0 : State} (hM : Touch.le (.of [.hif, .pmc, .out]) M) (ring : Fin 16) {s : State} (h : Same M s0 s) : OSame M s0 (execNop ring s) := by
  unfold execNop
  refine OSame.next ?_
  refine State.withEntry_frame (.sub rfl hM) _ _ (fun _ _ h1 => ?_) ?_
  · exact State.complete_frame (.sub rfl hM) _ _ _ h1
  · exact h

theorem execMrDisableWrite_frame {M : Nat} {s0 : State} (hM : Touch.le (.of [.regs, .hif, .mmu, .fir, .pmc, .out]) M) (ring : Fin 16) (value : Sys2Proof.Word) {s : State} (h : Same M s0 s) : OSame M s0 (execMrDisableWrite ring value s) := by
  unfold execMrDisableWrite
  refine OSame.next ?_
  refine State.onWrite_frame (.sub rfl hM) _ _ (fun _ h1 => ?_) ?_
  · exact State.mrDisable_frame (.sub rfl hM) _ _ h1
  · exact h

theorem execDblLheadWrite_frame {M : Nat} {s0 : State} (hM : Touch.le (.of [.regs, .hif, .pmc, .out]) M) (head : BitVec 16) {s : State} (h : Same M s0 s) : OSame M s0 (execDblLheadWrite head s) := by
  unfold execDblLheadWrite
  refine OSame.next ?_
  refine State.onWrite_frame (.sub rfl hM) _ _ (fun _ h1 => ?_) ?_
  · exact State.writeLogHead_frame (.sub rfl hM) _ h1
  · exact h

theorem execDblMtailWrite_frame {M : Nat} {s0 : State} (hM : Touch.le (.of [.regs, .hif, .pmc, .out]) M) (ring : Fin 16) (tail : BitVec 16) {s : State} (h : Same M s0 s) : OSame M s0 (execDblMtailWrite ring tail s) := by
  unfold execDblMtailWrite
  refine OSame.next ?_
  refine State.onWrite_frame (.sub rfl hM) _ _ (fun _ h1 => ?_) ?_
  · exact State.writeTail_frame (.sub rfl hM) _ _ h1
  · exact h

theorem execLostRecordWrite_frame {M : Nat} {s0 : State} (hM : Touch.le (.of [.hif, .pmc, .out]) M) {s : State} (h : Same M s0 s) : OSame M s0 (execLostRecordWrite s) := by
  unfold execLostRecordWrite
  refine OSame.next ?_
  exact State.putLost_frame (.sub rfl hM) h

end Sys2Proof.Machine
end

