-- ==== Sys2Proof/Laws/FrameLinks.lean ====
section
/-! SUPPORT. What the operations of Machine/Links.lean may change. -/

set_option Elab.async false

namespace Sys2Proof.Machine

theorem State.sendCap_frame {M : Nat} {s0 : State} (hM : Touch.le (.of [.out]) M) {s : State} (n : Fin 32) (content : List Sys2Proof.Byte) (repeats : Bool) (h : Same M s0 s) : Same M s0 (State.sendCap s n content repeats) := by
  unfold State.sendCap
  extract_lets -merge -underBinder +onlyGivenNames x1
  exact State.emit_frame (.sub rfl hM) _ h

theorem State.sendRateGo_frame {M : Nat} {s0 : State} (hM : Touch.le (.of [.out]) M) {s : State} (n : Fin 32) (r : LinkRate) (repeats : Bool) (h : Same M s0 s) : Same M s0 (State.sendRateGo s n r repeats) := by
  unfold State.sendRateGo
  exact State.sendCap_frame (.sub rfl hM) _ _ _ h

theorem State.twinError_frame {M : Nat} {s0 : State} (hM : Touch.le (.of [.twn]) M) {s : State} (ps : List (Fin 8)) (h : Same M s0 s) : Same M s0 (State.twinError s ps) := by
  unfold State.twinError
  refine Same.foldl (fun _ _ h1 => ?_) ?_
  · exact State.modTwin_frame (.sub rfl hM) _ _ h1
  · exact h

theorem State.forsakeChambers_frame {M : Nat} {s0 : State} (hM : Touch.le (.of [.regs, .hif, .dmc, .csm, .fir, .plk, .lop, .lck, .urg, .twn, .pmc, .dram, .tables, .draws, .out]) M) {s : State} (n : Fin 32) (h : Same M s0 s) : Same M s0 (State.forsakeChambers s n) := by
  unfold State.forsakeChambers
  refine Same.foldl (fun _ _ h1 => ?_) ?_
  · extract_lets -merge -underBinder +onlyGivenNames x2
    extract_lets -merge -underBinder +onlyGivenNames x3
    have hx3 : Same M s0 x3 := State.modChamber_frame (.sub rfl hM) _ _ h1
    refine Same.ite ?_ ?_
    · exact State.bankSettled_frame (.sub rfl hM) _ _ hx3
    · exact hx3
  · exact h

theorem State.gutterSilent_frame {M : Nat} {s0 : State} (hM : Touch.le (.of [.csm]) M) {s : State} (n : Fin 32) (h : Same M s0 s) : Same M s0 (State.gutterSilent s n) := by
  unfold State.gutterSilent
  exact Same.upd h (csm := .inl (.sub rfl hM))

theorem State.cutLine_frame {M : Nat} {s0 : State} (hM : Touch.le (.of [.csm, .out]) M) {s : State} (n : Fin 32) (h : Same M s0 s) : Same M s0 (State.cutLine s n) := by
  unfold State.cutLine
  refine Same.ite ?_ ?_
  · refine State.emit_frame (.sub rfl hM) _ ?_
    exact Same.upd h (csm := .inl (.sub rfl hM))
  · exact h

theorem State.moveLink_frame {M : Nat} {s0 : State} (hM : Touch.le (.of [.regs, .hif, .dmc, .csm, .fir, .plk, .lop, .lck, .urg, .twn, .pmc, .dram, .tables, .draws, .out]) M) {s : State} (n : Fin 32) (to_ : LinkPhase) (f : Link → Link) (h : Same M s0 s) : Same M s0 (State.moveLink s n to_ f) := by
  unfold State.moveLink
  refine Same.ite ?_ ?_
  · exact State.forsakeChambers_frame (.sub rfl hM) _ (State.gutterSilent_frame (.sub rfl hM) _ (State.modLink_frame (.sub rfl hM) _ _ (State.cutLine_frame (.sub rfl hM) _ h)))
  · exact State.modLink_frame (.sub rfl hM) _ _ h

theorem State.enterFault_frame {M : Nat} {s0 : State} (hM : Touch.le (.of [.regs, .hif, .dmc, .csm, .fir, .plk, .lop, .lck, .urg, .twn, .pmc, .dram, .tables, .draws, .out]) M) {s : State} (n : Fin 32) (f : Link → Link) (h : Same M s0 s) : Same M s0 (State.enterFault s n f) := by
  unfold State.enterFault
  exact State.moveLink_frame (.sub rfl hM) _ _ _ h

theorem State.linkFault_frame {M : Nat} {s0 : State} (hM : Touch.le (.of [.regs, .hif, .dmc, .csm, .fir, .plk, .lop, .lck, .urg, .twn, .pmc, .dram, .tables, .draws, .out]) M) {s : State} (n : Fin 32) (cause : Nat) (h : Same M s0 s) : Same M s0 (State.linkFault s n cause) := by
  unfold State.linkFault
  extract_lets -merge -underBinder +onlyGivenNames x1
  extract_lets -merge -underBinder +onlyGivenNames x2
  have hx2 : Same M s0 x2 := State.log_frame (.sub rfl hM) _ _ _ _ h
  extract_lets -merge -underBinder +onlyGivenNames x3
  have hx3 : Same M s0 x3 := by
    refine Same.ite ?_ ?_
    · exact State.twinError_frame (.sub rfl hM) _ hx2
    · exact hx2
  exact State.enterFault_frame (.sub rfl hM) _ _ hx3

theorem State.linkNote_frame {M : Nat} {s0 : State} (hM : Touch.le (.of [.regs, .hif, .plk, .pmc, .out]) M) {s : State} (n : Fin 32) (cause : Nat) (h : Same M s0 s) : Same M s0 (State.linkNote s n cause) := by
  unfold State.linkNote
  extract_lets -merge -underBinder +onlyGivenNames x1
  extract_lets -merge -underBinder +onlyGivenNames x2
  have hx2 : Same M s0 x2 := State.modLink_frame (.sub rfl hM) _ _ h
  split
  · exact hx2
  · exact State.log_frame (.sub rfl hM) _ _ _ _ (State.modLink_frame (.sub rfl hM) _ _ hx2)

theorem State.statusInRun_frame {M : Nat} {s0 : State} (hM : Touch.le (.of [.regs, .hif, .dmc, .csm, .fir, .plk, .lop, .lck, .urg, .twn, .pmc, .dram, .tables, .draws, .out]) M) {s : State} (n : Fin 32) (rose : Bool) (h : Same M s0 s) : Same M s0 (State.statusInRun s n rose) := by
  unfold State.statusInRun
  extract_lets -merge -underBinder +onlyGivenNames x1
  refine Same.ite ?_ ?_
  · exact State.linkFault_frame (.sub rfl hM) _ _ h
  · extract_lets -merge -underBinder +onlyGivenNames x2
    have hx2 : Same M s0 x2 := by
      refine Same.ite ?_ ?_
      · exact State.linkNote_frame (.sub rfl hM) _ _ h
      · exact h
    refine Same.ite ?_ ?_
    · exact State.linkNote_frame (.sub rfl hM) _ _ hx2
    · exact hx2

theorem State.enterLoad_frame {M : Nat} {s0 : State} (hM : Touch.le (.of [.regs, .hif, .dmc, .csm, .fir, .plk, .lop, .lck, .urg, .twn, .pmc, .dram, .tables, .draws, .out]) M) {s : State} (n : Fin 32) (h : Same M s0 s) : Same M s0 (State.enterLoad s n) := by
  unfold State.enterLoad
  exact State.moveLink_frame (.sub rfl hM) _ _ _ h

theorem State.authFails_frame {M : Nat} {s0 : State} (hM : Touch.le (.of [.regs, .hif, .dmc, .csm, .fir, .plk, .lop, .lck, .urg, .twn, .pmc, .dram, .tables, .draws, .out]) M) {s : State} (n : Fin 32) (policy : Nat) (h : Same M s0 s) : Same M s0 (State.authFails s n policy) := by
  unfold State.authFails
  refine Same.ite ?_ ?_
  · exact State.enterFault_frame (.sub rfl hM) _ _ (State.log_frame (.sub rfl hM) _ _ _ _ (State.modLink_frame (.sub rfl hM) _ _ h))
  · extract_lets -merge -underBinder +onlyGivenNames x1
    have hx1 : Same M s0 x1 := State.log_frame (.sub rfl hM) _ _ _ _ (State.modLink_frame (.sub rfl hM) _ _ h)
    refine Same.ite ?_ ?_
    · exact State.enterLoad_frame (.sub rfl hM) _ hx1
    · exact hx1

theorem State.endAuth_frame {M : Nat} {s0 : State} (hM : Touch.le (.of [.regs, .hif, .dmc, .csm, .fir, .plk, .lop, .lck, .urg, .twn, .pmc, .dram, .tables, .draws, .out]) M) {s : State} (n : Fin 32) (a : AuthRun) (sb : List Sys2Proof.Byte) (ub : List Sys2Proof.Byte) (mac : List Sys2Proof.Byte) (h : Same M s0 s) : Same M s0 (State.endAuth s n a sb ub mac) := by
  unfold State.endAuth
  extract_lets -merge -underBinder +onlyGivenNames x1
  extract_lets -merge -underBinder +onlyGivenNames x2
  extract_lets -merge -underBinder +onlyGivenNames x3
  extract_lets -merge -underBinder +onlyGivenNames x4
  have hx4 : Same M s0 x4 := State.modLink_frame (.sub rfl hM) _ _ h
  refine Same.ite ?_ ?_
  · extract_lets -merge -underBinder +onlyGivenNames x5
    have hx5 : Same M s0 x5 := State.modLink_frame (.sub rfl hM) _ _ hx4
    refine Same.ite ?_ ?_
    · exact State.enterLoad_frame (.sub rfl hM) _ hx5
    · exact hx5
  · exact State.authFails_frame (.sub rfl hM) _ _ hx4

theorem State.enterRunLink_frame {M : Nat} {s0 : State} (hM : Touch.le (.of [.regs, .hif, .dmc, .csm, .fir, .plk, .lop, .lck, .urg, .twn, .pmc, .dram, .tables, .draws, .out]) M) {s : State} (n : Fin 32) (loaded : List (Nat × Sys2Proof.Byte)) (h : Same M s0 s) : Same M s0 (State.enterRunLink s n loaded) := by
  unfold State.enterRunLink
  extract_lets -merge -underBinder +onlyGivenNames x1
  have hx1 : Same M s0 x1 := State.moveLink_frame (.sub rfl hM) _ _ _ h
  refine Same.ite ?_ ?_
  · exact hx1
  · exact State.queueUpload_frame (.sub rfl hM) _ _ hx1

theorem State.bankValid_frame {M : Nat} {s0 : State} (hM : Touch.le (.of [.regs, .hif, .dmc, .csm, .fir, .plk, .lop, .lck, .urg, .twn, .pmc, .dram, .tables, .draws, .out]) M) {s : State} (n : Fin 32) (h : Same M s0 s) : Same M s0 (State.bankValid s n) := by
  unfold State.bankValid
  split
  · exact h
  · split
    · refine Same.ite ?_ ?_
      · exact State.enterRunLink_frame (.sub rfl hM) _ _ h
      · exact h
    · exact State.bankSettled_frame (.sub rfl hM) _ _ (State.modLink_frame (.sub rfl hM) _ _ h)
    · exact State.settleBank_frame (.sub rfl hM) _ (State.modLink_frame (.sub rfl hM) _ _ h)
    · exact State.settleBank_frame (.sub rfl hM) _ (State.modLink_frame (.sub rfl hM) _ _ h)

theorem State.checkBanks_frame {M : Nat} {s0 : State} (hM : Touch.le (.of [.regs, .hif, .dmc, .csm, .fir, .plk, .lop, .lck, .urg, .twn, .pmc, .dram, .tables, .draws, .out]) M) {s : State} (n : Fin 32) (h : Same M s0 s) : Same M s0 (State.checkBanks s n) := by
  unfold State.checkBanks
  extract_lets -merge -underBinder +onlyGivenNames x1
  split
  · exact h
  · split
    · refine Same.ite ?_ ?_
      · exact State.bankValid_frame (.sub rfl hM) _ h
      · exact h
    · exact h

theorem State.sendBlock_frame {M : Nat} {s0 : State} (hM : Touch.le (.of [.out]) M) {s : State} (n : Fin 32) (type : Nat) (body : Nat) (h : Same M s0 s) : Same M s0 (State.sendBlock s n type body) := by
  unfold State.sendBlock
  exact State.emit_frame (.sub rfl hM) _ h

theorem State.takeCaps_frame {M : Nat} {s0 : State} (hM : Touch.le (.of [.regs, .hif, .dmc, .csm, .fir, .plk, .lop, .lck, .urg, .twn, .pmc, .dram, .tables, .draws, .out]) M) {s : State} (n : Fin 32) (c : Caps) (h : Same M s0 s) : Same M s0 (State.takeCaps s n c) := by
  unfold State.takeCaps
  split
  · exact State.linkFault_frame (.sub rfl hM) _ _ h
  · refine Same.ite ?_ ?_
    · exact State.sendRateGo_frame (.sub rfl hM) _ _ _ (State.moveLink_frame (.sub rfl hM) _ _ _ h)
    · exact State.linkFault_frame (.sub rfl hM) _ _ h

theorem State.startPrbs_frame {M : Nat} {s0 : State} (hM : Touch.le (.of [.regs, .hif, .dmc, .csm, .fir, .plk, .lop, .lck, .urg, .twn, .pmc, .dram, .tables, .draws, .out]) M) {s : State} (n : Fin 32) (to_ : LinkPhase) (h : Same M s0 s) : Same M s0 (State.startPrbs s n to_) := by
  unfold State.startPrbs
  exact State.emit_frame (.sub rfl hM) _ (State.moveLink_frame (.sub rfl hM) _ _ _ h)

theorem State.sendSync_frame {M : Nat} {s0 : State} (hM : Touch.le (.of [.plk, .out]) M) {s : State} (n : Fin 32) (dep : Nat) (h : Same M s0 s) : Same M s0 (State.sendSync s n dep) := by
  unfold State.sendSync
  extract_lets -merge -underBinder +onlyGivenNames x1
  refine State.sendBlock_frame (.sub rfl hM) _ _ _ ?_
  refine Same.ite ?_ ?_
  · exact State.modLink_frame (.sub rfl hM) _ _ h
  · exact h

theorem State.sendChallenge_frame {M : Nat} {s0 : State} (hM : Touch.le (.of [.plk, .draws, .out]) M) {s : State} (n : Fin 32) (h : Same M s0 s) : Same M s0 (State.sendChallenge s n) := by
  unfold State.sendChallenge
  extract_lets -merge -underBinder +onlyGivenNames x1
  extract_lets -merge -underBinder +onlyGivenNames x2
  extract_lets -merge -underBinder +onlyGivenNames x3
  exact State.sendBlock_frame (.sub rfl hM) _ _ _ (State.sendBlock_frame (.sub rfl hM) _ _ _ (State.sendBlock_frame (.sub rfl hM) _ _ _ (State.modLink_frame (.sub rfl hM) _ _ (State.draw_frame (.sub rfl hM) h))))

theorem State.enterEcho_frame {M : Nat} {s0 : State} (hM : Touch.le (.of [.regs, .hif, .dmc, .csm, .fir, .plk, .lop, .lck, .urg, .twn, .pmc, .dram, .tables, .draws, .out]) M) {s : State} (n : Fin 32) (h : Same M s0 s) : Same M s0 (State.enterEcho s n) := by
  unfold State.enterEcho
  exact State.moveLink_frame (.sub rfl hM) _ _ _ h

theorem State.lockIn_frame {M : Nat} {s0 : State} (hM : Touch.le (.of [.regs, .hif, .dmc, .csm, .fir, .plk, .lop, .lck, .urg, .twn, .pmc, .dram, .tables, .draws, .out]) M) {s : State} (n : Fin 32) (h : Same M s0 s) : Same M s0 (State.lockIn s n) := by
  unfold State.lockIn
  refine Same.ite ?_ ?_
  · exact h
  · extract_lets -merge -underBinder +onlyGivenNames x1
    have hx1 : Same M s0 x1 := State.modLink_frame (.sub rfl hM) _ _ h
    refine Same.ite ?_ ?_
    · exact State.enterEcho_frame (.sub rfl hM) _ hx1
    · exact State.startPrbs_frame (.sub rfl hM) _ _ hx1

theorem State.startT0_frame {M : Nat} {s0 : State} (hM : Touch.le (.of [.regs, .hif, .dmc, .csm, .fir, .plk, .lop, .lck, .urg, .twn, .pmc, .dram, .tables, .draws, .out]) M) {s : State} (n : Fin 32) (h : Same M s0 s) : Same M s0 (State.startT0 s n) := by
  unfold State.startT0
  extract_lets -merge -underBinder +onlyGivenNames x1
  extract_lets -merge -underBinder +onlyGivenNames x2
  exact State.sendCap_frame (.sub rfl hM) _ _ _ (State.moveLink_frame (.sub rfl hM) _ _ _ h)

theorem State.lockFail_frame {M : Nat} {s0 : State} (hM : Touch.le (.of [.regs, .hif, .dmc, .csm, .fir, .plk, .lop, .lck, .urg, .twn, .pmc, .dram, .tables, .draws, .out]) M) {s : State} (n : Fin 32) (h : Same M s0 s) : Same M s0 (State.lockFail s n) := by
  unfold State.lockFail
  extract_lets -merge -underBinder +onlyGivenNames x1
  refine Same.ite ?_ ?_
  · exact h
  · refine Same.ite ?_ ?_
    · exact State.startT0_frame (.sub rfl hM) _ (State.modLink_frame (.sub rfl hM) _ _ h)
    · refine Same.ite ?_ ?_
      · exact State.startT0_frame (.sub rfl hM) _ (State.modLink_frame (.sub rfl hM) _ _ h)
      · exact State.linkFault_frame (.sub rfl hM) _ _ h

theorem State.bringUp_frame {M : Nat} {s0 : State} (hM : Touch.le (.of [.regs, .hif, .dmc, .csm, .fir, .plk, .lop, .lck, .urg, .twn, .pmc, .dram, .tables, .draws, .out]) M) {s : State} (n : Fin 32) (h : Same M s0 s) : Same M s0 (State.bringUp s n) := by
  unfold State.bringUp
  refine Same.ite ?_ ?_
  · exact State.startT0_frame (.sub rfl hM) _ h
  · exact h

theorem State.discardReply_frame {M : Nat} {s0 : State} (hM : Touch.le (.of [.plk]) M) {s : State} (n : Fin 32) (h : Same M s0 s) : Same M s0 (State.discardReply s n) := by
  unfold State.discardReply
  exact State.modLink_frame (.sub rfl hM) _ _ h

theorem State.echoInRun_frame {M : Nat} {s0 : State} (hM : Touch.le (.of [.regs, .hif, .dmc, .csm, .fir, .plk, .lop, .lck, .urg, .twn, .pmc, .dram, .tables, .draws, .out]) M) {s : State} (n : Fin 32) (c : Caps) (e : Int) (h : Same M s0 s) : Same M s0 (State.echoInRun s n c e) := by
  unfold State.echoInRun
  extract_lets -merge -underBinder +onlyGivenNames x1
  extract_lets -merge -underBinder +onlyGivenNames x2
  extract_lets -merge -underBinder +onlyGivenNames x3
  extract_lets -merge -underBinder +onlyGivenNames x4
  extract_lets -merge -underBinder +onlyGivenNames x5
  extract_lets -merge -underBinder +onlyGivenNames x6
  have hx6 : Same M s0 x6 := State.modLink_frame (.sub rfl hM) _ _ h
  extract_lets -merge -underBinder +onlyGivenNames x7
  refine Same.ite ?_ ?_
  · exact State.linkFault_frame (.sub rfl hM) _ _ hx6
  · refine Same.ite ?_ ?_
    · exact State.linkFault_frame (.sub rfl hM) _ _ (State.modLink_frame (.sub rfl hM) _ _ hx6)
    · exact State.modLink_frame (.sub rfl hM) _ _ hx6

theorem State.sendEcho_frame {M : Nat} {s0 : State} (hM : Touch.le (.of [.plk, .out]) M) {s : State} (n : Fin 32) (dep : Nat) (h : Same M s0 s) : Same M s0 (State.sendEcho s n dep) := by
  unfold State.sendEcho
  extract_lets -merge -underBinder +onlyGivenNames x1
  exact State.sendBlock_frame (.sub rfl hM) _ _ _ (State.modLink_frame (.sub rfl hM) _ _ h)

theorem State.endEcho_frame {M : Nat} {s0 : State} (hM : Touch.le (.of [.regs, .hif, .dmc, .csm, .fir, .plk, .lop, .lck, .urg, .twn, .pmc, .dram, .tables, .draws, .out]) M) {s : State} (n : Fin 32) (c : Caps) (h : Same M s0 s) : Same M s0 (State.endEcho s n c) := by
  unfold State.endEcho
  extract_lets -merge -underBinder +onlyGivenNames x1
  extract_lets -merge -underBinder +onlyGivenNames x2
  extract_lets -merge -underBinder +onlyGivenNames x3
  refine Same.ite ?_ ?_
  · exact State.linkFault_frame (.sub rfl hM) _ _ h
  · refine Same.ite ?_ ?_
    · exact State.linkFault_frame (.sub rfl hM) _ _ h
    · exact State.moveLink_frame (.sub rfl hM) _ _ _ h

theorem State.enterAuth_frame {M : Nat} {s0 : State} (hM : Touch.le (.of [.regs, .hif, .dmc, .csm, .fir, .plk, .lop, .lck, .urg, .twn, .pmc, .dram, .tables, .draws, .out]) M) {s : State} (n : Fin 32) (h : Same M s0 s) : Same M s0 (State.enterAuth s n) := by
  unfold State.enterAuth
  extract_lets -merge -underBinder +onlyGivenNames x1
  have hx1 : Same M s0 x1 := State.moveLink_frame (.sub rfl hM) _ _ _ h
  refine Same.ite ?_ ?_
  · exact State.enterLoad_frame (.sub rfl hM) _ hx1
  · split
    · refine Same.ite ?_ ?_
      · exact State.sendChallenge_frame (.sub rfl hM) _ hx1
      · exact State.authFails_frame (.sub rfl hM) _ _ hx1
    · exact State.authFails_frame (.sub rfl hM) _ _ hx1

theorem State.syncCheck_frame {M : Nat} {s0 : State} (hM : Touch.le (.of [.regs, .hif, .dmc, .csm, .fir, .plk, .lop, .lck, .urg, .twn, .pmc, .dram, .tables, .draws, .out]) M) {s : State} (n : Fin 32) (h : Same M s0 s) : Same M s0 (State.syncCheck s n) := by
  unfold State.syncCheck
  extract_lets -merge -underBinder +onlyGivenNames x1
  refine Same.ite ?_ ?_
  · exact State.enterAuth_frame (.sub rfl hM) _ h
  · exact h

theorem State.echoIn_frame {M : Nat} {s0 : State} (hM : Touch.le (.of [.regs, .hif, .dmc, .csm, .fir, .plk, .lop, .lck, .urg, .twn, .pmc, .dram, .tables, .draws, .out]) M) {s : State} (n : Fin 32) (id : BitVec 8) (turn : BitVec 24) (r1 : BitVec 24) (arrival : BitVec 52) (h : Same M s0 s) : Same M s0 (State.echoIn s n id turn r1 arrival) := by
  unfold State.echoIn
  extract_lets -merge -underBinder +onlyGivenNames x1
  split
  · exact State.discardReply_frame (.sub rfl hM) _ h
  · extract_lets -merge -underBinder +onlyGivenNames x2
    have hx2 : Same M s0 x2 := State.modLink_frame (.sub rfl hM) _ _ h
    extract_lets -merge -underBinder +onlyGivenNames x3
    refine Same.ite ?_ ?_
    · exact State.discardReply_frame (.sub rfl hM) _ hx2
    · extract_lets -merge -underBinder +onlyGivenNames x4
      extract_lets -merge -underBinder +onlyGivenNames x5
      have hx5 : Same M s0 x5 := State.modLink_frame (.sub rfl hM) _ _ hx2
      split
      · refine Same.ite ?_ ?_
        · exact State.endEcho_frame (.sub rfl hM) _ _ hx5
        · exact hx5
      · exact State.syncCheck_frame (.sub rfl hM) _ (State.modLink_frame (.sub rfl hM) _ _ hx5)
      · exact State.echoInRun_frame (.sub rfl hM) _ _ _ hx5
      · exact hx5

theorem State.ackIn_frame {M : Nat} {s0 : State} (hM : Touch.le (.of [.regs, .hif, .dmc, .csm, .fir, .plk, .lop, .lck, .urg, .twn, .pmc, .dram, .tables, .draws, .out]) M) {s : State} (n : Fin 32) (w : BitVec 96) (h : Same M s0 s) : Same M s0 (State.ackIn s n w) := by
  unfold State.ackIn
  split
  · exact h
  · refine Same.ite ?_ ?_
    · exact State.moveLink_frame (.sub rfl hM) _ _ _ (State.sendRateGo_frame (.sub rfl hM) _ _ _ (State.sendRateGo_frame (.sub rfl hM) _ _ _ (State.sendRateGo_frame (.sub rfl hM) _ _ _ (State.sendRateGo_frame (.sub rfl hM) _ _ _ h))))
    · exact h

theorem State.prbsStatus_frame {M : Nat} {s0 : State} (hM : Touch.le (.of [.regs, .hif, .dmc, .csm, .fir, .plk, .lop, .lck, .urg, .twn, .pmc, .dram, .tables, .draws, .out]) M) {s : State} (n : Fin 32) (errors : Nat) (h : Same M s0 s) : Same M s0 (State.prbsStatus s n errors) := by
  unfold State.prbsStatus
  extract_lets -merge -underBinder +onlyGivenNames x1
  extract_lets -merge -underBinder +onlyGivenNames x2
  have hx2 : Same M s0 x2 := State.modLink_frame (.sub rfl hM) _ _ h
  extract_lets -merge -underBinder +onlyGivenNames x3
  refine Same.ite ?_ ?_
  · exact hx2
  · refine Same.ite ?_ ?_
    · exact State.enterEcho_frame (.sub rfl hM) _ hx2
    · exact State.linkFault_frame (.sub rfl hM) _ _ hx2

theorem State.startUpload_frame {M : Nat} {s0 : State} (hM : Touch.le (.of [.plk, .out]) M) {s : State} (n : Fin 32) (h : Same M s0 s) : Same M s0 (State.startUpload s n) := by
  unfold State.startUpload
  extract_lets -merge -underBinder +onlyGivenNames x1
  split
  · exact h
  · refine Same.ite ?_ ?_
    · exact h
    · extract_lets -merge -underBinder +onlyGivenNames x2
      extract_lets -merge -underBinder +onlyGivenNames x3
      exact State.emit_frame (.sub rfl hM) _ (State.modLink_frame (.sub rfl hM) _ _ h)

theorem State.capIn_frame {M : Nat} {s0 : State} (hM : Touch.le (.of [.regs, .hif, .dmc, .csm, .fir, .plk, .lop, .lck, .urg, .twn, .pmc, .dram, .tables, .draws, .out]) M) {s : State} (n : Fin 32) (w : BitVec 96) (h : Same M s0 s) : Same M s0 (State.capIn s n w) := by
  unfold State.capIn
  extract_lets -merge -underBinder +onlyGivenNames x1
  refine Same.ite ?_ ?_
  · exact h
  · extract_lets -merge -underBinder +onlyGivenNames x2
    refine Same.ite ?_ ?_
    · exact State.takeCaps_frame (.sub rfl hM) _ _ h
    · exact State.modLink_frame (.sub rfl hM) _ _ h

theorem State.authIn_frame {M : Nat} {s0 : State} (hM : Touch.le (.of [.regs, .hif, .dmc, .csm, .fir, .plk, .lop, .lck, .urg, .twn, .pmc, .dram, .tables, .draws, .out]) M) {s : State} (n : Fin 32) (kind : BitVec 4) (index : BitVec 4) (bytes : BitVec 48) (h : Same M s0 s) : Same M s0 (State.authIn s n kind index bytes) := by
  unfold State.authIn
  split
  · exact h
  · extract_lets -merge -underBinder +onlyGivenNames x1
    extract_lets -merge -underBinder +onlyGivenNames x2
    split
    · exact State.endAuth_frame (.sub rfl hM) _ _ _ _ _ h
    · exact State.modLink_frame (.sub rfl hM) _ _ h

theorem State.statusIn_frame {M : Nat} {s0 : State} (hM : Touch.le (.of [.regs, .hif, .dmc, .csm, .fir, .plk, .lop, .lck, .urg, .twn, .pmc, .dram, .tables, .draws, .out]) M) {s : State} (n : Fin 32) (w : BitVec 56) (h : Same M s0 s) : Same M s0 (State.statusIn s n w) := by
  unfold State.statusIn
  extract_lets -merge -underBinder +onlyGivenNames x1
  extract_lets -merge -underBinder +onlyGivenNames x2
  extract_lets -merge -underBinder +onlyGivenNames x3
  extract_lets -merge -underBinder +onlyGivenNames x4
  extract_lets -merge -underBinder +onlyGivenNames x5
  have hx5 : Same M s0 x5 := State.modLink_frame (.sub rfl hM) _ _ h
  extract_lets -merge -underBinder +onlyGivenNames x6
  have hx6 : Same M s0 x6 := by
    refine Same.ite ?_ ?_
    · exact State.prbsStatus_frame (.sub rfl hM) _ _ hx5
    · exact hx5
  split
  · exact State.syncCheck_frame (.sub rfl hM) _ (State.modLink_frame (.sub rfl hM) _ _ hx6)
  · exact State.checkBanks_frame (.sub rfl hM) _ hx6
  · refine State.checkBanks_frame (.sub rfl hM) _ ?_
    refine Same.ite ?_ ?_
    · exact State.statusInRun_frame (.sub rfl hM) _ _ hx6
    · exact hx6
  · exact hx6

theorem State.disableLink_frame {M : Nat} {s0 : State} (hM : Touch.le (.of [.regs, .hif, .dmc, .csm, .fir, .plk, .lop, .lck, .urg, .twn, .pmc, .dram, .tables, .draws, .out]) M) {s : State} (n : Fin 32) (h : Same M s0 s) : Same M s0 (State.disableLink s n) := by
  unfold State.disableLink
  exact State.moveLink_frame (.sub rfl hM) _ _ _ h

end Sys2Proof.Machine
end

