-- ==== Sys2Proof/Laws/FrameCounters.lean ====
section
/-! SUPPORT. What the operations of Machine/Counters.lean may change. -/

set_option Elab.async false

namespace Sys2Proof.Machine

theorem State.takeSnapshot_frame {M : Nat} {s0 : State} (hM : Touch.le (.of [.pmc]) M) {s : State} (h : Same M s0 s) : Same M s0 (State.takeSnapshot s) := by
  unfold State.takeSnapshot
  exact Same.upd h (pmc := .inl (.sub rfl hM))

theorem execCounterRead_frame {M : Nat} {s0 : State} (hM : Touch.le (.of [.hif, .pmc, .out]) M) (ring : Fin 16) {s : State} (h : Same M s0 s) : OSame M s0 (execCounterRead ring s) := by
  unfold execCounterRead
  refine OSame.next ?_
  refine State.withEntryAt_frame (.sub rfl hM) _ _ _ (fun _ _ h1 => ?_) ?_
  · exact Same.upd h1 (pmc := .inl (.sub rfl hM))
  · exact h

theorem execPmcWinWrite_frame {M : Nat} {s0 : State} (hM : Touch.le (.of [.pmc]) M) (ns : BitVec 30) {s : State} (h : Same M s0 s) : OSame M s0 (execPmcWinWrite ns s) := by
  unfold execPmcWinWrite
  refine OSame.next ?_
  refine Same.ite ?_ ?_
  · exact Same.upd h (pmc := .inl (.sub rfl hM))
  · exact h

theorem State.coreEvents_frame {M : Nat} {s0 : State} (hM : Touch.le (.of [.pmc, .draws, .out]) M) {s : State} (k : Fin 64) (h : Same M s0 s) : Same M s0 (State.coreEvents s k) := by
  unfold State.coreEvents
  refine Same.ite ?_ ?_
  · extract_lets -merge -underBinder +onlyGivenNames x1
    exact State.raiseCounter_frame (.sub rfl hM) _ _ (State.draw_frame (.sub rfl hM) h)
  · exact h

theorem State.closeCounter_frame {M : Nat} {s0 : State} (hM : Touch.le (.of [.pmc, .out]) M) {s : State} (k : Fin 64) (h : Same M s0 s) : Same M s0 (State.closeCounter s k) := by
  unfold State.closeCounter
  split
  · exact Same.upd h (pmc := .inl (.sub rfl hM))
  · exact Same.upd h (pmc := .inl (.sub rfl hM))
  · exact State.raiseCounter_frame (.sub rfl hM) _ _ h
  · exact h

theorem State.closeWindow_frame {M : Nat} {s0 : State} (hM : Touch.le (.of [.pmc, .out]) M) {s : State} (h : Same M s0 s) : Same M s0 (State.closeWindow s) := by
  unfold State.closeWindow
  extract_lets -merge -underBinder +onlyGivenNames x1
  have hx1 : Same M s0 x1 := by
    refine Same.ite ?_ ?_
    · exact h
    · refine Same.foldl (fun _ _ h2 => ?_) ?_
      · exact State.closeCounter_frame (.sub rfl hM) _ h2
      · exact h
  exact Same.upd hx1 (pmc := .inl (.sub rfl hM))

theorem execPmcWindowClose_frame {M : Nat} {s0 : State} (hM : Touch.le (.of [.pmc, .out]) M) {s : State} (h : Same M s0 s) : OSame M s0 (execPmcWindowClose s) := by
  unfold execPmcWindowClose
  refine OSame.next ?_
  refine Same.ite ?_ ?_
  · exact State.closeWindow_frame (.sub rfl hM) h
  · exact h

theorem State.carryCounts_frame {M : Nat} {s0 : State} (hM : Touch.le (.of [.pmc, .draws, .out]) M) {s : State} (h : Same M s0 s) : Same M s0 (State.carryCounts s) := by
  unfold State.carryCounts
  refine Same.ite ?_ ?_
  · exact h
  · extract_lets -merge -underBinder +onlyGivenNames z_1 x2
    have hx2 : Same M s0 x2 := by
      refine State.countEvent_frame (.sub rfl hM) _ _ _ ?_
      exact Same.upd h (pmc := .inl (.sub rfl hM))
    refine Same.foldl (fun _ _ h4 => ?_) ?_
    · exact State.coreEvents_frame (.sub rfl hM) _ h4
    · exact hx2

theorem State.serveSnapshot_frame {M : Nat} {s0 : State} (hM : Touch.le (.of [.hif, .pmc, .draws, .out]) M) {s : State} (h : Same M s0 s) : Same M s0 (State.serveSnapshot s) := by
  unfold State.serveSnapshot
  split
  · exact h
  · extract_lets -merge -underBinder +onlyGivenNames z_1 z_2 x3
    have hx3 : Same M s0 x3 := by
      refine State.takeSnapshot_frame (.sub rfl hM) ?_
      have hz_1 : Same M s0 z_1 := State.carryCounts_frame (.sub rfl hM) h
      exact Same.upd hz_1 (pmc := .inl (.sub rfl hM))
    split
    · exact hx3
    · split
      · exact hx3
      · extract_lets -merge -underBinder +onlyGivenNames x5
        exact State.complete_frame (.sub rfl hM) _ _ _ (State.countEvent_frame (.sub rfl hM) _ _ _ (State.emit_frame (.sub rfl hM) _ hx3))

theorem execPmcSnapshot_frame {M : Nat} {s0 : State} (hM : Touch.le (.of [.hif, .pmc, .draws, .out]) M) {s : State} (h : Same M s0 s) : OSame M s0 (execPmcSnapshot s) := by
  unfold execPmcSnapshot
  refine OSame.next ?_
  refine Same.ite ?_ ?_
  · exact State.serveSnapshot_frame (.sub rfl hM) h
  · exact h

theorem execPmcSnapWrite_frame {M : Nat} {s0 : State} (hM : Touch.le (.of [.pmc]) M) {s : State} (h : Same M s0 s) : OSame M s0 (execPmcSnapWrite s) := by
  unfold execPmcSnapWrite
  refine OSame.next ?_
  refine Same.ite ?_ ?_
  · exact Same.upd h (pmc := .inl (.sub rfl hM))
  · exact h

theorem execPmcFreezeWrite_frame {M : Nat} {s0 : State} (hM : Touch.le (.of [.pmc, .draws, .out]) M) (freeze : Bool) {s : State} (h : Same M s0 s) : OSame M s0 (execPmcFreezeWrite freeze s) := by
  unfold execPmcFreezeWrite
  refine OSame.next ?_
  refine Same.ite ?_ ?_
  · extract_lets -merge -underBinder +onlyGivenNames x1
    have hx1 : Same M s0 x1 := State.carryCounts_frame (.sub rfl hM) h
    exact Same.upd hx1 (pmc := .inl (.sub rfl hM))
  · exact h

theorem State.loadStandard_frame {M : Nat} {s0 : State} (hM : Touch.le (.of [.pmc]) M) {s : State} (h : Same M s0 s) : Same M s0 (State.loadStandard s) := by
  unfold State.loadStandard
  exact Same.upd h (pmc := .inl (.sub rfl hM))

theorem execPmcCounterWrite_frame {M : Nat} {s0 : State} (hM : Touch.le (.of [.pmc, .draws, .out]) M) (k : Fin 64) (high : Bool) (value : Sys2Proof.Word) {s : State} (h : Same M s0 s) : OSame M s0 (execPmcCounterWrite k high value s) := by
  unfold execPmcCounterWrite
  refine OSame.next ?_
  refine Same.ite ?_ ?_
  · refine Same.ite ?_ ?_
    · exact Same.upd h (pmc := .inl (.sub rfl hM))
    · extract_lets -merge -underBinder +onlyGivenNames x2
      have hx2 : Same M s0 x2 := State.carryCounts_frame (.sub rfl hM) h
      exact Same.upd hx2 (pmc := .inl (.sub rfl hM))
  · exact h

end Sys2Proof.Machine
end

