-- ==== Sys2Proof/Laws/FrameThermalOps.lean ====
section
/-! SUPPORT. What the operations of Machine/ThermalOps.lean may change. -/

set_option Elab.async false

namespace Sys2Proof.Machine

theorem State.thermalRecord_frame {M : Nat} {s0 : State} (hM : Touch.le (.of [.regs, .hif, .pmc, .out]) M) {s : State} (level : Nat) (sensor : Fin 12) (h : Same M s0 s) : Same M s0 (State.thermalRecord s level sensor) := by
  unfold State.thermalRecord
  exact State.log_frame (.sub rfl hM) _ _ _ _ h

theorem State.followLevel_frame {M : Nat} {s0 : State} (hM : Touch.le (.of [.dmc]) M) {s : State} (h : Same M s0 s) : Same M s0 (State.followLevel s) := by
  unfold State.followLevel
  exact Same.upd h (dmc := .inl (.sub rfl hM))

theorem State.enterLevel_frame {M : Nat} {s0 : State} (hM : Touch.le (.of [.regs, .hif, .dmc, .thm, .pmc, .out]) M) {s : State} (l : ThermalLevel) (h : Same M s0 s) : Same M s0 (State.enterLevel s l) := by
  unfold State.enterLevel
  extract_lets -merge -underBinder +onlyGivenNames x1
  extract_lets -merge -underBinder +onlyGivenNames x2
  extract_lets -merge -underBinder +onlyGivenNames x3
  refine State.thermalRecord_frame (.sub rfl hM) _ _ ?_
  refine State.followLevel_frame (.sub rfl hM) ?_
  exact Same.upd h (thm := .inl (.sub rfl hM))

theorem State.moveLevel_frame {M : Nat} {s0 : State} (hM : Touch.le (.of [.regs, .hif, .dmc, .thm, .pmc, .out]) M) {s : State} (h : Same M s0 s) : Same M s0 (State.moveLevel s) := by
  unfold State.moveLevel
  extract_lets -merge -underBinder +onlyGivenNames x1
  split
  · extract_lets -merge -underBinder +onlyGivenNames x2
    have hx2 : Same M s0 x2 := by
      refine Same.ite ?_ ?_
      · exact State.enterLevel_frame (.sub rfl hM) _ h
      · exact h
    refine Same.ite ?_ ?_
    · exact State.enterLevel_frame (.sub rfl hM) _ hx2
    · exact hx2
  · refine Same.ite ?_ ?_
    · exact State.enterLevel_frame (.sub rfl hM) _ h
    · refine Same.ite ?_ ?_
      · exact State.enterLevel_frame (.sub rfl hM) _ h
      · exact h
  · refine Same.ite ?_ ?_
    · exact h
    · refine Same.ite ?_ ?_
      · exact State.enterLevel_frame (.sub rfl hM) _ h
      · refine Same.ite ?_ ?_
        · exact State.enterLevel_frame (.sub rfl hM) _ h
        · exact h

theorem State.recordFaults_frame {M : Nat} {s0 : State} (hM : Touch.le (.of [.regs, .hif, .thm, .pmc, .out]) M) {s : State} (old : Vector Sensor 12) (h : Same M s0 s) : Same M s0 (State.recordFaults s old) := by
  unfold State.recordFaults
  refine Same.foldl (fun _ _ h1 => ?_) ?_
  · refine Same.ite ?_ ?_
    · refine State.thermalRecord_frame (.sub rfl hM) _ _ ?_
      exact Same.upd h1 (thm := .inl (.sub rfl hM))
    · exact h1
  · exact h

theorem State.beginHold_frame {M : Nat} {s0 : State} (hM : Touch.le (.of [.regs, .hif, .dmc, .thm, .pmc, .out]) M) {s : State} (h : Same M s0 s) : Same M s0 (State.beginHold s) := by
  unfold State.beginHold
  refine Same.ite ?_ ?_
  · exact h
  · extract_lets -merge -underBinder +onlyGivenNames z_1 x2
    have hx2 : Same M s0 x2 := Same.upd h (thm := .inl (.sub rfl hM))
    refine Same.ite ?_ ?_
    · exact hx2
    · exact State.enterLevel_frame (.sub rfl hM) _ hx2

theorem State.appendHistory_frame {M : Nat} {s0 : State} (hM : Touch.le (.of [.regs, .hif, .dmc, .thm, .pmc, .out]) M) {s : State} (h : Same M s0 s) : Same M s0 (State.appendHistory s) := by
  unfold State.appendHistory
  extract_lets -merge -underBinder +onlyGivenNames x1
  extract_lets -merge -underBinder +onlyGivenNames z_2 x3
  extract_lets -merge -underBinder +onlyGivenNames x4
  have hx4 : Same M s0 x4 := Same.upd h (thm := .inl (.sub rfl hM))
  refine Same.ite ?_ ?_
  · exact hx4
  · refine Same.ite ?_ ?_
    · extract_lets -merge -underBinder +onlyGivenNames z_6 x7
      have hx7 : Same M s0 x7 := by
        refine State.thermalRecord_frame (.sub rfl hM) _ _ ?_
        exact Same.upd hx4 (thm := .inl (.sub rfl hM))
      refine Same.ite ?_ ?_
      · exact State.beginHold_frame (.sub rfl hM) hx7
      · exact hx7
    · exact Same.upd hx4 (thm := .inl (.sub rfl hM))

end Sys2Proof.Machine
end

