-- ==== Sys2Proof/Laws/FrameResets.lean ====
section
/-! SUPPORT. What the operations of Machine/Resets.lean may change. -/

set_option Elab.async false

namespace Sys2Proof.Machine

theorem State.abandonSwap_frame {M : Nat} {s0 : State} (hM : Touch.le (.of [.hif, .twn, .pmc, .out]) M) {s : State} (h : Same M s0 s) : Same M s0 (State.abandonSwap s) := by
  unfold State.abandonSwap
  split
  · refine State.complete_frame (.sub rfl hM) _ _ _ ?_
    exact Same.upd h (twn := .inl (.sub rfl hM))
  · exact h

theorem State.failTwin_frame {M : Nat} {s0 : State} (hM : Touch.le (.of [.rst, .hif, .urg, .twn, .pmc, .out]) M) {s : State} (cause : Nat) (h : Same M s0 s) : Same M s0 (State.failTwin s cause) := by
  unfold State.failTwin
  refine Same.ite ?_ ?_
  · exact h
  · extract_lets -merge -underBinder +onlyGivenNames x1
    have hx1 : Same M s0 x1 := State.abandonSwap_frame (.sub rfl hM) h
    refine State.twinSend_frame (.sub rfl hM) _ ?_
    exact Same.upd hx1 (rst := .inl (.sub rfl hM)) (twn := .inl (.sub rfl hM))

theorem State.dropHeld_frame {M : Nat} {s0 : State} (hM : Touch.le (.of [.hif, .out]) M) {s : State} (b : Blk) (h : Same M s0 s) : Same M s0 (State.dropHeld s b) := by
  unfold State.dropHeld
  exact State.cutAccesses_frame (.sub rfl hM) _ h

theorem State.rejectTouched_frame {M : Nat} {s0 : State} (hM : Touch.le (.of [.regs, .hif, .dmc, .plk, .lop, .lck, .urg, .twn, .pmc, .dram, .draws, .out]) M) {s : State} (b : Blk) (h : Same M s0 s) : Same M s0 (State.rejectTouched s b) := by
  unfold State.rejectTouched
  refine Same.foldl (fun _ _ h1 => ?_) ?_
  · extract_lets -merge -underBinder +onlyGivenNames x2
    refine Same.ite ?_ ?_
    · exact State.rejectChamber_frame (.sub rfl hM) _ _ h1
    · exact h1
  · exact h

theorem State.cutEntries_frame {M : Nat} {s0 : State} (hM : Touch.le (.of [.hif, .qdc, .pmc, .out]) M) {s : State} (b : Blk) (h : Same M s0 s) : Same M s0 (State.cutEntries s b) := by
  unfold State.cutEntries
  extract_lets -merge -underBinder +onlyGivenNames x1
  extract_lets -merge -underBinder +onlyGivenNames x2
  exact State.dropXfers_frame (.sub rfl hM) _ (State.completeAll_frame (.sub rfl hM) _ _ h)

theorem State.clearRegs_frame {M : Nat} {s0 : State} (hM : Touch.le (.of [.regs, .latch]) M) {s : State} (lo : Nat) (hi : Nat) (keep : Nat → Bool) (h : Same M s0 s) : Same M s0 (State.clearRegs s lo hi keep) := by
  unfold State.clearRegs
  exact Same.upd h (regs := .inl (.sub rfl hM)) (latch := .inl (.sub rfl hM))

theorem State.openGate_frame {M : Nat} {s0 : State} (hM : Touch.le (.of [.csm]) M) {s : State} (n : Fin 32) (h : Same M s0 s) : Same M s0 (State.openGate s n) := by
  unfold State.openGate
  exact Same.upd h (csm := .inl (.sub rfl hM))

theorem State.copyEvent_frame {M : Nat} {s0 : State} (hM : Touch.le (.of [.csm, .lck]) M) {s : State} (r : CopyReq) (ok : Bool) (h : Same M s0 s) : Same M s0 (State.copyEvent s r ok) := by
  unfold State.copyEvent
  extract_lets -merge -underBinder +onlyGivenNames x1
  refine Same.ite ?_ ?_
  · exact State.modChamber_frame (.sub rfl hM) _ _ h
  · refine Same.ite ?_ ?_
    · exact State.openGate_frame (.sub rfl hM) _ h
    · exact h

theorem State.clearTables_frame {M : Nat} {s0 : State} (hM : Touch.le (.of [.tables]) M) {s : State} (gone : Nat → Bool) (h : Same M s0 s) : Same M s0 (State.clearTables s gone) := by
  unfold State.clearTables
  exact State.eraseBytes_frame (.sub rfl hM) _ h

theorem State.openRestore_frame {M : Nat} {s0 : State} (hM : Touch.le (.of [.regs, .hif, .dmc, .scr, .csm, .fir, .plk, .lop, .lck, .urg, .twn, .pmc, .dram, .tables, .draws, .out]) M) {s : State} (tables : List Nat) (h : Same M s0 s) : Same M s0 (State.openRestore s tables) := by
  unfold State.openRestore
  extract_lets -merge -underBinder +onlyGivenNames x1
  have hx1 : Same M s0 x1 := State.assertCause_frame (.sub rfl hM) _ _ h
  extract_lets -merge -underBinder +onlyGivenNames x2
  refine Same.ite ?_ ?_
  · exact hx1
  · exact Same.upd hx1 (fir := .inl (.sub rfl hM))

theorem State.resetLink_frame {M : Nat} {s0 : State} (hM : Touch.le (.of [.regs, .hif, .dmc, .csm, .fir, .plk, .lop, .lck, .urg, .twn, .pmc, .dram, .tables, .draws, .out]) M) {s : State} (n : Fin 32) (f : Link → Link) (h : Same M s0 s) : Same M s0 (State.resetLink s n f) := by
  unfold State.resetLink
  exact State.modLink_frame (.sub rfl hM) _ _ (State.disableLink_frame (.sub rfl hM) _ (State.cutAccesses_frame (.sub rfl hM) _ h))

theorem State.resetBlk_frame {M : Nat} {s0 : State} (hM : Touch.le (.of [.regs, .rst, .pins, .clk, .hif, .mmu, .cpy, .dmc, .qdc, .scr, .csm, .pos, .fir, .plk, .cam, .lop, .lck, .tim, .urg, .twn, .thm, .pmc, .latch, .dram, .tables, .draws, .out]) M) {s : State} (b : Blk) (wide : Bool) (h : Same M s0 s) : Same M s0 (State.resetBlk s b wide) := by
  unfold State.resetBlk
  extract_lets -merge -underBinder +onlyGivenNames x1
  have hx1 : Same M s0 x1 := State.dropHeld_frame (.sub rfl hM) _ (State.rejectTouched_frame (.sub rfl hM) _ (State.cutEntries_frame (.sub rfl hM) _ (State.stickCopy_frame (.sub rfl hM) _ h)))
  split
  · refine State.clearRegs_frame (.sub rfl hM) _ _ _ ?_
    exact Same.upd hx1 (clk := .inl (.sub rfl hM))
  · exact State.clearRegs_frame (.sub rfl hM) _ _ _ hx1
  · refine State.clearRegs_frame (.sub rfl hM) _ _ _ ?_
    refine State.followLevel_frame (.sub rfl hM) ?_
    exact Same.upd hx1 (thm := .inl (.sub rfl hM))
  · refine State.clearRegs_frame (.sub rfl hM) _ _ _ ?_
    extract_lets -merge -underBinder +onlyGivenNames x4
    have hx4 : Same M s0 x4 := State.resetGpios_frame (.sub rfl hM) hx1
    exact Same.upd hx4 (tim := .inl (.sub rfl hM))
  · refine State.clearRegs_frame (.sub rfl hM) _ _ _ ?_
    exact Same.upd hx1 (urg := .inl (.sub rfl hM))
  · extract_lets -merge -underBinder +onlyGivenNames x7
    refine State.clearRegs_frame (.sub rfl hM) _ _ _ ?_
    exact Same.upd hx1 (rst := .inl (.sub rfl hM)) (hif := .inl (.sub rfl hM)) (mmu := .inl (.sub rfl hM)) (fir := .inl (.sub rfl hM)) (twn := .inl (.sub rfl hM)) (pmc := .inl (.sub rfl hM))
  · refine State.clearRegs_frame (.sub rfl hM) _ _ _ ?_
    exact Same.upd hx1 (rst := .inl (.sub rfl hM)) (twn := .inl (.sub rfl hM))
  · exact Same.upd hx1 (pmc := .inl (.sub rfl hM))
  · refine State.clearRegs_frame (.sub rfl hM) _ _ _ ?_
    refine State.followLevel_frame (.sub rfl hM) ?_
    refine Same.ite ?_ ?_
    · extract_lets -merge -underBinder +onlyGivenNames x11
      have hx11 : Same M s0 x11 := State.loseDram_frame (.sub rfl hM) hx1
      exact Same.upd hx11 (rst := .inl (.sub rfl hM)) (dmc := .inl (.sub rfl hM))
    · exact Same.upd hx1 (rst := .inl (.sub rfl hM)) (dmc := .inl (.sub rfl hM))
  · refine State.clearRegs_frame (.sub rfl hM) _ _ _ ?_
    exact Same.upd hx1 (mmu := .inl (.sub rfl hM))
  · extract_lets -merge -underBinder +onlyGivenNames x15
    refine State.clearRegs_frame (.sub rfl hM) _ _ _ ?_
    refine Same.foldl (fun _ _ h16 => ?_) ?_
    · exact State.copyEvent_frame (.sub rfl hM) _ _ h16
    · exact Same.upd hx1 (cpy := .inl (.sub rfl hM))
  · refine State.clearRegs_frame (.sub rfl hM) _ _ _ ?_
    exact Same.upd hx1 (qdc := .inl (.sub rfl hM))
  · refine State.clearRegs_frame (.sub rfl hM) _ _ _ ?_
    refine State.clearTables_frame (.sub rfl hM) _ ?_
    extract_lets -merge -underBinder +onlyGivenNames x19
    have hx19 : Same M s0 x19 := State.openRestore_frame (.sub rfl hM) _ hx1
    exact Same.upd hx19 (scr := .inl (.sub rfl hM))
  · refine State.clearRegs_frame (.sub rfl hM) _ _ _ ?_
    refine State.clearTables_frame (.sub rfl hM) _ ?_
    extract_lets -merge -underBinder +onlyGivenNames x21
    have hx21 : Same M s0 x21 := State.openRestore_frame (.sub rfl hM) _ hx1
    exact Same.upd hx21 (csm := .inl (.sub rfl hM))
  · refine State.clearRegs_frame (.sub rfl hM) _ _ _ ?_
    refine Same.foldl (fun _ _ h23 => ?_) ?_
    · exact State.resetLink_frame (.sub rfl hM) _ _ h23
    · exact hx1
  · exact Same.upd hx1 (urg := .inl (.sub rfl hM))
  · refine State.clearRegs_frame (.sub rfl hM) _ _ _ ?_
    exact Same.upd hx1 (pos := .inl (.sub rfl hM)) (fir := .inl (.sub rfl hM))
  · refine State.clearRegs_frame (.sub rfl hM) _ _ _ ?_
    exact Same.upd hx1 (fir := .inl (.sub rfl hM)) (urg := .inl (.sub rfl hM))
  · refine State.clearRegs_frame (.sub rfl hM) _ _ _ ?_
    exact Same.upd hx1 (lck := .inl (.sub rfl hM))
  · refine State.clearRegs_frame (.sub rfl hM) _ _ _ ?_
    refine State.clearTables_frame (.sub rfl hM) _ ?_
    exact Same.upd hx1 (lop := .inl (.sub rfl hM))
  · refine State.clearRegs_frame (.sub rfl hM) _ _ _ ?_
    extract_lets -merge -underBinder +onlyGivenNames x29
    have hx29 : Same M s0 x29 := State.resetTrigs_frame (.sub rfl hM) hx1
    exact Same.upd hx29 (cam := .inl (.sub rfl hM))

theorem State.noteCause_frame {M : Nat} {s0 : State} (hM : Touch.le (.of [.rst]) M) {s : State} (bit : Nat) (h : Same M s0 s) : Same M s0 (State.noteCause s bit) := by
  unfold State.noteCause
  exact Same.upd h (rst := .inl (.sub rfl hM))

theorem State.followPerst_frame {M : Nat} {s0 : State} (hM : Touch.le (.of [.rst]) M) {s : State} (h : Same M s0 s) : Same M s0 (State.followPerst s) := by
  unfold State.followPerst
  extract_lets -merge -underBinder +onlyGivenNames x1
  have hx1 : Same M s0 x1 := by
    refine Same.ite ?_ ?_
    · exact State.noteCause_frame (.sub rfl hM) _ h
    · exact h
  exact Same.upd hx1 (rst := .inl (.sub rfl hM))

theorem State.resetAon_frame {M : Nat} {s0 : State} (hM : Touch.le (.of [.regs, .rst, .pins, .clk, .pos, .tim, .urg, .latch]) M) {s : State} (h : Same M s0 s) : Same M s0 (State.resetAon s) := by
  unfold State.resetAon
  extract_lets -merge -underBinder +onlyGivenNames x1
  have hx1 : Same M s0 x1 := State.followPerst_frame (.sub rfl hM) h
  exact Same.upd hx1 (regs := .inl (.sub rfl hM)) (rst := .inl (.sub rfl hM)) (pins := .inl (.sub rfl hM)) (clk := .inl (.sub rfl hM)) (pos := .inl (.sub rfl hM)) (tim := .inl (.sub rfl hM)) (urg := .inl (.sub rfl hM)) (latch := .inl (.sub rfl hM))

theorem State.setReleased_frame {M : Nat} {s0 : State} (hM : Touch.le (.of [.rst]) M) {s : State} (d : Domain) (n : Nat) (h : Same M s0 s) : Same M s0 (State.setReleased s d n) := by
  unfold State.setReleased
  split
  · exact h
  · exact Same.upd h (rst := .inl (.sub rfl hM))
  · exact Same.upd h (rst := .inl (.sub rfl hM))
  · exact Same.upd h (rst := .inl (.sub rfl hM))

theorem State.loseDomain_frame {M : Nat} {s0 : State} (hM : Touch.le (.of [.regs, .rst, .pins, .clk, .hif, .mmu, .cpy, .dmc, .qdc, .scr, .csm, .pos, .fir, .plk, .cam, .lop, .lck, .tim, .urg, .twn, .thm, .pmc, .latch, .dram, .tables, .draws, .out]) M) {s : State} (d : Domain) (h : Same M s0 s) : Same M s0 (State.loseDomain s d) := by
  unfold State.loseDomain
  extract_lets -merge -underBinder +onlyGivenNames x1
  extract_lets -merge -underBinder +onlyGivenNames x2
  have hx2 : Same M s0 x2 := by
    refine Same.ite ?_ ?_
    · exact State.failTwin_frame (.sub rfl hM) _ h
    · exact h
  extract_lets -merge -underBinder +onlyGivenNames x3
  have hx3 : Same M s0 x3 := by
    refine Same.foldl (fun _ _ h4 => ?_) ?_
    · exact State.resetBlk_frame (.sub rfl hM) _ _ h4
    · exact hx2
  extract_lets -merge -underBinder +onlyGivenNames x5
  have hx5 : Same M s0 x5 := by
    refine Same.ite ?_ ?_
    · exact State.resetAon_frame (.sub rfl hM) hx3
    · exact hx3
  exact State.setReleased_frame (.sub rfl hM) _ _ hx5

theorem State.loseWide_frame {M : Nat} {s0 : State} (hM : Touch.le (.of [.regs, .rst, .dmc, .latch, .dram]) M) {s : State} (h : Same M s0 s) : Same M s0 (State.loseWide s) := by
  unfold State.loseWide
  refine Same.ite ?_ ?_
  · exact h
  · refine State.clearRegs_frame (.sub rfl hM) _ _ _ ?_
    extract_lets -merge -underBinder +onlyGivenNames x1
    have hx1 : Same M s0 x1 := State.loseDram_frame (.sub rfl hM) h
    exact Same.upd hx1 (rst := .inl (.sub rfl hM)) (dmc := .inl (.sub rfl hM))

theorem State.setDomain_frame {M : Nat} {s0 : State} (hM : Touch.le (.of [.rst]) M) {s : State} (d : Domain) (u : UnitState) (h : Same M s0 s) : Same M s0 (State.setDomain s d u) := by
  unfold State.setDomain
  split
  · exact Same.upd h (rst := .inl (.sub rfl hM))
  · exact Same.upd h (rst := .inl (.sub rfl hM))
  · exact Same.upd h (rst := .inl (.sub rfl hM))
  · exact Same.upd h (rst := .inl (.sub rfl hM))

theorem State.settleDomain_frame {M : Nat} {s0 : State} (hM : Touch.le (.of [.regs, .rst, .pins, .clk, .hif, .mmu, .cpy, .dmc, .qdc, .scr, .csm, .pos, .fir, .plk, .cam, .lop, .lck, .tim, .urg, .twn, .thm, .pmc, .latch, .dram, .tables, .draws, .out]) M) {s : State} (d : Domain) (h : Same M s0 s) : Same M s0 (State.settleDomain s d) := by
  unfold State.settleDomain
  extract_lets -merge -underBinder +onlyGivenNames x1
  extract_lets -merge -underBinder +onlyGivenNames x2
  refine Same.ite ?_ ?_
  · exact h
  · refine Same.ite ?_ ?_
    · exact State.setDomain_frame (.sub rfl hM) _ _ (State.loseDomain_frame (.sub rfl hM) _ h)
    · exact State.setDomain_frame (.sub rfl hM) _ _ h

theorem State.targetsFromGains_frame {M : Nat} {s0 : State} (hM : Touch.le (.of [.tables]) M) {s : State} (h : Same M s0 s) : Same M s0 (State.targetsFromGains s) := by
  unfold State.targetsFromGains
  refine Same.foldl (fun _ _ h1 => ?_) ?_
  · refine Same.ite ?_ ?_
    · exact State.writeTable_frame (.sub rfl hM) _ _ _ h1
    · exact h1
  · exact h

theorem State.restartBoot_frame {M : Nat} {s0 : State} (hM : Touch.le (.of [.regs, .rst, .pins, .dmc, .latch, .dram]) M) {s : State} (h : Same M s0 s) : Same M s0 (State.restartBoot s) := by
  unfold State.restartBoot
  refine Same.ite ?_ ?_
  · extract_lets -merge -underBinder +onlyGivenNames x1
    have hx1 : Same M s0 x1 := State.loseWide_frame (.sub rfl hM) h
    extract_lets -merge -underBinder +onlyGivenNames x2
    have hx2 : Same M s0 x2 := by
      refine Same.ite ?_ ?_
      · exact State.pullBalls_frame (.sub rfl hM) hx1
      · exact hx1
    extract_lets -merge -underBinder +onlyGivenNames x3
    extract_lets -merge -underBinder +onlyGivenNames x4
    extract_lets -merge -underBinder +onlyGivenNames x5
    exact Same.upd hx2 (rst := .inl (.sub rfl hM))
  · exact h

theorem State.releaseBlk_frame {M : Nat} {s0 : State} (hM : Touch.le (.of [.regs, .hif, .dmc, .scr, .csm, .pos, .fir, .plk, .lop, .lck, .urg, .twn, .thm, .pmc, .dram, .tables, .draws, .out]) M) {s : State} (b : Blk) (h : Same M s0 s) : Same M s0 (State.releaseBlk s b) := by
  unfold State.releaseBlk
  split
  · exact State.setField_frame (.sub rfl hM) _ _ _ _ h
  · exact Same.upd h (thm := .inl (.sub rfl hM))
  · exact Same.upd h (scr := .inl (.sub rfl hM))
  · refine Same.foldl (fun _ _ h3 => ?_) ?_
    · exact State.bringUp_frame (.sub rfl hM) _ (State.setField_frame (.sub rfl hM) _ _ _ _ h3)
    · exact h
  · exact Same.upd h (pos := .inl (.sub rfl hM))
  · exact State.targetsFromGains_frame (.sub rfl hM) h
  · exact State.realignFir_frame (.sub rfl hM) h
  · exact h
  · exact h
  · exact h
  · exact h
  · exact h
  · exact h
  · exact h
  · exact h
  · exact h
  · exact h
  · exact h
  · exact h
  · exact h
  · exact h

theorem State.putLink_frame {M : Nat} {s0 : State} (hM : Touch.le (.of [.rst]) M) {s : State} (n : Fin 32) (u : UnitState) (h : Same M s0 s) : Same M s0 (State.putLink s n u) := by
  unfold State.putLink
  exact Same.upd h (rst := .inl (.sub rfl hM))

theorem State.bootFail_frame {M : Nat} {s0 : State} (hM : Touch.le (.of [.rst]) M) {s : State} (code : Nat) (h : Same M s0 s) : Same M s0 (State.bootFail s code) := by
  unfold State.bootFail
  exact Same.upd h (rst := .inl (.sub rfl hM))

theorem State.putHeld_frame {M : Nat} {s0 : State} (hM : Touch.le (.of [.rst]) M) {s : State} (k : Fin 13) (u : UnitState) (h : Same M s0 s) : Same M s0 (State.putHeld s k u) := by
  unfold State.putHeld
  exact Same.upd h (rst := .inl (.sub rfl hM))

theorem State.settleBlock_frame {M : Nat} {s0 : State} (hM : Touch.le (.of [.regs, .rst, .pins, .clk, .hif, .mmu, .cpy, .dmc, .qdc, .scr, .csm, .pos, .fir, .plk, .cam, .lop, .lck, .tim, .urg, .twn, .thm, .pmc, .latch, .dram, .tables, .draws, .out]) M) {s : State} (k : Fin 13) (h : Same M s0 s) : Same M s0 (State.settleBlock s k) := by
  unfold State.settleBlock
  extract_lets -merge -underBinder +onlyGivenNames x1
  extract_lets -merge -underBinder +onlyGivenNames x2
  refine Same.ite ?_ ?_
  · extract_lets -merge -underBinder +onlyGivenNames x3
    refine Same.ite ?_ ?_
    · exact h
    · exact State.putHeld_frame (.sub rfl hM) _ _ h
  · extract_lets -merge -underBinder +onlyGivenNames x4
    refine Same.ite ?_ ?_
    · exact h
    · refine Same.ite ?_ ?_
      · exact State.putHeld_frame (.sub rfl hM) _ _ (State.resetBlk_frame (.sub rfl hM) _ _ h)
      · exact State.putHeld_frame (.sub rfl hM) _ _ h

theorem State.settleLink_frame {M : Nat} {s0 : State} (hM : Touch.le (.of [.regs, .rst, .hif, .dmc, .csm, .fir, .plk, .lop, .lck, .urg, .twn, .pmc, .dram, .tables, .draws, .out]) M) {s : State} (n : Fin 32) (h : Same M s0 s) : Same M s0 (State.settleLink s n) := by
  unfold State.settleLink
  extract_lets -merge -underBinder +onlyGivenNames x1
  refine Same.ite ?_ ?_
  · extract_lets -merge -underBinder +onlyGivenNames x2
    refine Same.ite ?_ ?_
    · exact h
    · exact State.putLink_frame (.sub rfl hM) _ _ h
  · extract_lets -merge -underBinder +onlyGivenNames x3
    refine Same.ite ?_ ?_
    · exact h
    · refine Same.ite ?_ ?_
      · refine Same.ite ?_ ?_
        · extract_lets -merge -underBinder +onlyGivenNames x4
          extract_lets -merge -underBinder +onlyGivenNames x5
          have hx5 : Same M s0 x5 := by
            refine Same.ite ?_ ?_
            · exact h
            · exact State.log_frame (.sub rfl hM) _ _ _ _ (State.draw_frame (.sub rfl hM) h)
          exact State.putLink_frame (.sub rfl hM) _ _ (State.resetLink_frame (.sub rfl hM) _ _ hx5)
        · exact State.putLink_frame (.sub rfl hM) _ _ (State.resetLink_frame (.sub rfl hM) _ _ h)
      · exact State.putLink_frame (.sub rfl hM) _ _ h

theorem State.settlePass_frame {M : Nat} {s0 : State} (hM : Touch.le (.of [.regs, .rst, .pins, .clk, .hif, .mmu, .cpy, .dmc, .qdc, .scr, .csm, .pos, .fir, .plk, .cam, .lop, .lck, .tim, .urg, .twn, .thm, .pmc, .latch, .dram, .tables, .draws, .out]) M) {s : State} (h : Same M s0 s) : Same M s0 (State.settlePass s) := by
  unfold State.settlePass
  extract_lets -merge -underBinder +onlyGivenNames x1
  have hx1 : Same M s0 x1 := State.settleDomain_frame (.sub rfl hM) _ (State.settleDomain_frame (.sub rfl hM) _ (State.settleDomain_frame (.sub rfl hM) _ (State.settleDomain_frame (.sub rfl hM) _ h)))
  extract_lets -merge -underBinder +onlyGivenNames x2
  have hx2 : Same M s0 x2 := by
    refine Same.foldl (fun _ _ h3 => ?_) ?_
    · exact State.settleBlock_frame (.sub rfl hM) _ h3
    · exact hx1
  refine Same.foldl (fun _ _ h4 => ?_) ?_
  · exact State.settleLink_frame (.sub rfl hM) _ h4
  · exact hx2

theorem State.settleResets_frame {M : Nat} {s0 : State} (hM : Touch.le (.of [.regs, .rst, .pins, .clk, .hif, .mmu, .cpy, .dmc, .qdc, .scr, .csm, .pos, .fir, .plk, .cam, .lop, .lck, .tim, .urg, .twn, .thm, .pmc, .latch, .dram, .tables, .draws, .out]) M) {s : State} (h : Same M s0 s) : Same M s0 (State.settleResets s) := by
  unfold State.settleResets
  exact State.settlePass_frame (.sub rfl hM) (State.restartBoot_frame (.sub rfl hM) (State.settlePass_frame (.sub rfl hM) (State.restartBoot_frame (.sub rfl hM) h)))

theorem State.superviseReset_frame {M : Nat} {s0 : State} (hM : Touch.le (.of [.regs, .rst, .pins, .clk, .hif, .mmu, .cpy, .dmc, .qdc, .scr, .csm, .pos, .fir, .plk, .cam, .lop, .lck, .tim, .urg, .twn, .thm, .pmc, .latch, .dram, .tables, .draws, .out]) M) {s : State} (n : Fin 32) (h : Same M s0 s) : Same M s0 (State.superviseReset s n) := by
  unfold State.superviseReset
  refine State.settleResets_frame (.sub rfl hM) ?_
  refine State.noteCause_frame (.sub rfl hM) _ ?_
  exact Same.upd h (rst := .inl (.sub rfl hM))

theorem State.twinFails_frame {M : Nat} {s0 : State} (hM : Touch.le (.of [.regs, .rst, .pins, .clk, .hif, .mmu, .cpy, .dmc, .qdc, .scr, .csm, .pos, .fir, .plk, .cam, .lop, .lck, .tim, .urg, .twn, .thm, .pmc, .latch, .dram, .tables, .draws, .out]) M) {s : State} (cause : Nat) (h : Same M s0 s) : Same M s0 (State.twinFails s cause) := by
  unfold State.twinFails
  exact State.settleResets_frame (.sub rfl hM) (State.failTwin_frame (.sub rfl hM) _ h)

theorem State.shutdown_frame {M : Nat} {s0 : State} (hM : Touch.le (.of [.regs, .rst, .pins, .clk, .hif, .mmu, .cpy, .dmc, .qdc, .scr, .csm, .pos, .fir, .plk, .cam, .lop, .lck, .tim, .urg, .twn, .thm, .pmc, .latch, .dram, .tables, .draws, .out]) M) {s : State} (h : Same M s0 s) : Same M s0 (State.shutdown s) := by
  unfold State.shutdown
  refine State.settleResets_frame (.sub rfl hM) ?_
  refine State.noteCause_frame (.sub rfl hM) _ ?_
  exact Same.upd h (rst := .inl (.sub rfl hM)) (pins := .inl (.sub rfl hM))

theorem State.setUnit_frame {M : Nat} {s0 : State} (hM : Touch.le (.of [.rst]) M) {s : State} (u : ResetUnit) (v : UnitState) (h : Same M s0 s) : Same M s0 (State.setUnit s u v) := by
  unfold State.setUnit
  split
  · exact State.setDomain_frame (.sub rfl hM) _ _ h
  · split
    · exact Same.upd h (rst := .inl (.sub rfl hM))
    · exact h
  · exact Same.upd h (rst := .inl (.sub rfl hM))

theorem State.stageFour_frame {M : Nat} {s0 : State} (hM : Touch.le (.of [.rst]) M) {s : State} (h : Same M s0 s) : Same M s0 (State.stageFour s) := by
  unfold State.stageFour
  refine Same.ite ?_ ?_
  · exact Same.upd h (rst := .inl (.sub rfl hM))
  · exact h

end Sys2Proof.Machine
end

