-- ==== Sys2Proof/Laws/FrameDataMover.lean ====
section
/-! SUPPORT. What the operations of Machine/DataMover.lean may change. -/

set_option Elab.async false

namespace Sys2Proof.Machine

theorem State.dropXfer_frame {M : Nat} {s0 : State} (hM : Touch.le (.of [.hif, .qdc, .pmc, .out]) M) {s : State} (id : Nat) (h : Same M s0 s) : Same M s0 (State.dropXfer s id) := by
  unfold State.dropXfer
  exact State.dropXfers_frame (.sub rfl hM) _ h

theorem State.faultEnds_frame {M : Nat} {s0 : State} (hM : Touch.le (.of [.hif, .qdc, .pmc, .out]) M) {s : State} (id : Nat) (h : Same M s0 s) : Same M s0 (State.faultEnds s id) := by
  unfold State.faultEnds
  split
  · exact h
  · refine Same.ite ?_ ?_
    · exact State.completeFault_frame (.sub rfl hM) _ _ (State.dropXfer_frame (.sub rfl hM) _ h)
    · exact h

theorem State.acceptCopy_frame {M : Nat} {s0 : State} (hM : Touch.le (.of [.hif, .cpy, .lck, .pmc, .out]) M) {s : State} (f : Flight) (h : Same M s0 s) : Same M s0 (State.acceptCopy s f) := by
  unfold State.acceptCopy
  extract_lets -merge -underBinder +onlyGivenNames x1
  split
  · exact State.complete_frame (.sub rfl hM) _ _ _ h
  · extract_lets -merge -underBinder +onlyGivenNames z_2 x3
    have hx3 : Same M s0 x3 := Same.upd h (cpy := .inl (.sub rfl hM))
    extract_lets -merge -underBinder +onlyGivenNames x5
    have hx5 : Same M s0 x5 := by
      unfold x5
      split
      · exact State.modChamber_frame (.sub rfl hM) _ _ hx3
      · exact hx3
    exact State.complete_frame (.sub rfl hM) _ _ _ hx5

theorem State.modXfer_frame {M : Nat} {s0 : State} (hM : Touch.le (.of [.hif]) M) {s : State} (id : Nat) (g : Xfer → Xfer) (h : Same M s0 s) : Same M s0 (State.modXfer s id g) := by
  unfold State.modXfer
  exact Same.upd h (hif := .inl (.sub rfl hM))

theorem State.moverFault_frame {M : Nat} {s0 : State} (hM : Touch.le (.of [.hif, .mmu, .qdc, .pmc, .out]) M) {s : State} (x : Xfer) (kind : Nat) (level : Nat) (job : Nat) (write : Bool) (h : Same M s0 s) : Same M s0 (State.moverFault s x kind level job write) := by
  unfold State.moverFault
  split
  · exact h
  · exact State.faultEnds_frame (.sub rfl hM) _ (State.modXfer_frame (.sub rfl hM) _ _ (State.recordFault_frame (.sub rfl hM) _ _ _ _ _ _ h))

theorem State.putComp_frame {M : Nat} {s0 : State} (hM : Touch.le (.of [.qdc]) M) {s : State} (k : Fin 4) (c : Option CompJob) (h : Same M s0 s) : Same M s0 (State.putComp s k c) := by
  unfold State.putComp
  exact Same.upd h (qdc := .inl (.sub rfl hM))

theorem State.askHost_frame {M : Nat} {s0 : State} (hM : Touch.le (.of [.out]) M) {s : State} (a : Nat) (len : Nat) (h : Same M s0 s) : Same M s0 (State.askHost s a len) := by
  unfold State.askHost
  refine Same.foldl (fun _ _ h1 => ?_) ?_
  · exact State.emit_frame (.sub rfl hM) _ h1
  · exact h

theorem State.putPiece_frame {M : Nat} {s0 : State} (hM : Touch.le (.of [.hif]) M) {s : State} (p : Piece) (h : Same M s0 s) : Same M s0 (State.putPiece s p) := by
  unfold State.putPiece
  exact Same.upd h (hif := .inl (.sub rfl hM))

theorem State.compInPiece_frame {M : Nat} {s0 : State} (hM : Touch.le (.of [.hif, .mmu, .dmc, .qdc, .twn, .pmc, .draws, .out]) M) {s : State} (x : Xfer) (k : Fin 4) (c : CompJob) (h : Same M s0 s) : Same M s0 (State.compInPiece s x k c) := by
  unfold State.compInPiece
  extract_lets -merge -underBinder +onlyGivenNames x1
  extract_lets -merge -underBinder +onlyGivenNames x2
  split
  · split
    · rename_i v3 v4 v5 e6
      have hv5 : Same M s0 v5 := (congrArg (fun r => Same M s0 r.2) e6).mp (State.translate_frame (.sub rfl hM) _ _ _ h)
      exact State.moverFault_frame (.sub rfl hM) _ _ _ _ _ hv5
    · rename_i v7 v8 e9
      have hv8 : Same M s0 v8 := (congrArg (fun r => Same M s0 r.2) e9).mp (State.translate_frame (.sub rfl hM) _ _ _ h)
      split
      · rename_i v10 v11 v12 e13
        have hv12 : Same M s0 v12 := (congrArg (fun r => Same M s0 r.2.2) e13).mp (State.dramRead_frame (.sub rfl hM) _ _ _ _ hv8)
        exact State.putComp_frame (.sub rfl hM) _ _ (State.modXfer_frame (.sub rfl hM) _ _ (State.modXfer_frame (.sub rfl hM) _ _ hv12))
  · exact State.askHost_frame (.sub rfl hM) _ _ (State.putPiece_frame (.sub rfl hM) _ (State.modXfer_frame (.sub rfl hM) _ _ h))

theorem State.issued_frame {M : Nat} {s0 : State} (hM : Touch.le (.of [.hif]) M) {s : State} (x : Xfer) (n : Nat) (h : Same M s0 s) : Same M s0 (State.issued s x n) := by
  unfold State.issued
  exact State.modXfer_frame (.sub rfl hM) _ _ h

theorem State.copyDone_frame {M : Nat} {s0 : State} (hM : Touch.le (.of [.regs, .cpy, .dmc, .csm, .fir, .plk, .lck, .urg, .twn, .pmc, .dram, .tables, .draws, .out]) M) {s : State} (c : CopyRun) (h : Same M s0 s) : Same M s0 (State.copyDone s c) := by
  unfold State.copyDone
  extract_lets -merge -underBinder +onlyGivenNames x1
  extract_lets -merge -underBinder +onlyGivenNames x2
  extract_lets -merge -underBinder +onlyGivenNames x3
  have hx3 : Same M s0 x3 := by
    refine State.copyTouch_frame (.sub rfl hM) _ _ _ ?_
    refine Same.ite ?_ ?_
    · exact h
    · exact State.copyDest_frame (.sub rfl hM) _ _ h
  extract_lets -merge -underBinder +onlyGivenNames x4
  have hx4 : Same M s0 x4 := State.endRun_frame (.sub rfl hM) _ hx3
  exact State.settle_frame (.sub rfl hM) _ (State.copyEvent_frame (.sub rfl hM) _ _ (State.countEvent_frame (.sub rfl hM) _ _ _ (State.setReg_frame (.sub rfl hM) _ _ hx4)))

theorem execCopyDone_frame {M : Nat} {s0 : State} (hM : Touch.le (.of [.regs, .cpy, .dmc, .csm, .fir, .plk, .lck, .urg, .twn, .pmc, .dram, .tables, .draws, .out]) M) {s : State} (h : Same M s0 s) : OSame M s0 (execCopyDone s) := by
  unfold execCopyDone
  refine OSame.next ?_
  split
  · refine Same.ite ?_ ?_
    · exact State.copyDone_frame (.sub rfl hM) _ h
    · exact h
  · exact h

theorem State.landPiece_frame {M : Nat} {s0 : State} (hM : Touch.le (.of [.dmc, .qdc, .lck, .twn, .pmc, .dram, .tables, .draws, .out]) M) {s : State} (x : Xfer) (p : Piece) (bs : List Sys2Proof.Byte) (h : Same M s0 s) : Same M s0 (State.landPiece s x p bs) := by
  unfold State.landPiece
  split
  · exact State.countEvent_frame (.sub rfl hM) _ _ _ (State.dramPut_frame (.sub rfl hM) _ _ _ _ h)
  · exact State.countEvent_frame (.sub rfl hM) _ _ _ (State.dramPut_frame (.sub rfl hM) _ _ _ _ h)
  · refine State.countEvent_frame (.sub rfl hM) _ _ _ ?_
    refine Same.ite ?_ ?_
    · exact State.writeTable_frame (.sub rfl hM) _ _ _ h
    · refine Same.ite ?_ ?_
      · exact State.stageUnits_frame (.sub rfl hM) _ _ _ _ _ h
      · exact h
  · exact h
  · split
    · refine Same.ite ?_ ?_
      · exact h
      · exact State.countEvent_frame (.sub rfl hM) _ _ _ (State.putComp_frame (.sub rfl hM) _ _ h)
    · exact h

theorem State.uncover_frame {M : Nat} {s0 : State} (hM : Touch.le (.of [.scr]) M) {s : State} (old : Quire) (h : Same M s0 s) : Same M s0 (State.uncover s old) := by
  unfold State.uncover
  refine Same.ite ?_ ?_
  · exact h
  · extract_lets -merge -underBinder +onlyGivenNames x1
    exact Same.upd h (scr := .inl (.sub rfl hM))

theorem State.stopDecode_frame {M : Nat} {s0 : State} (hM : Touch.le (.of [.qdc]) M) {s : State} (j : EngineJob) (h : Same M s0 s) : Same M s0 (State.stopDecode s j) := by
  unfold State.stopDecode
  exact Same.upd h (qdc := .inl (.sub rfl hM))

theorem State.replaceQuire_frame {M : Nat} {s0 : State} (hM : Touch.le (.of [.qdc, .scr]) M) {s : State} (old : Quire) (q : Quire) (h : Same M s0 s) : Same M s0 (State.replaceQuire s old q) := by
  unfold State.replaceQuire
  extract_lets -merge -underBinder +onlyGivenNames x1
  have hx1 : Same M s0 x1 := State.uncover_frame (.sub rfl hM) _ (State.stopDecode_frame (.sub rfl hM) _ h)
  exact Same.upd hx1 (qdc := .inl (.sub rfl hM))

theorem State.indexQuire_frame {M : Nat} {s0 : State} (hM : Touch.le (.of [.qdc]) M) {s : State} (q : Quire) (seals : Bool) (h : Same M s0 s) : Same M s0 (State.indexQuire s q seals) := by
  unfold State.indexQuire
  exact Same.upd h (qdc := .inl (.sub rfl hM))

theorem State.checkQuire_frame {M : Nat} {s0 : State} (hM : Touch.le (.of [.mmu, .dmc, .qdc, .scr, .twn, .pmc, .draws, .out]) M) {s : State} (f : Flight) (h : Same M s0 s) : Same M s0 (State.checkQuire s f).2 := by
  unfold State.checkQuire
  split
  · rename_i v1 v2 e3
    have hv2 : Same M s0 v2 := (congrArg (fun r => Same M s0 r.2.2) e3).mp (State.jobRead_frame (.sub rfl hM) _ _ _ _ h)
    exact hv2
  · rename_i v4 v5 e6
    have hv5 : Same M s0 v5 := (congrArg (fun r => Same M s0 r.2.2) e6).mp (State.jobRead_frame (.sub rfl hM) _ _ _ _ h)
    extract_lets -merge -underBinder +onlyGivenNames x7
    extract_lets -merge -underBinder +onlyGivenNames x8
    split
    · exact hv5
    · split
      · split
        · exact hv5
        · split
          · exact hv5
          · split
            · exact hv5
            · split
              · exact Same.upd hv5 (qdc := .inl (.sub rfl hM))
              · exact State.replaceQuire_frame (.sub rfl hM) _ _ hv5
      · split
        · exact hv5
        · split
          · exact hv5
          · exact State.indexQuire_frame (.sub rfl hM) _ _ hv5

theorem State.xferEnds_frame {M : Nat} {s0 : State} (hM : Touch.le (.of [.hif, .mmu, .dmc, .qdc, .scr, .csm, .fir, .plk, .urg, .twn, .pmc, .tables, .draws, .out]) M) {s : State} (x : Xfer) (h : Same M s0 s) : Same M s0 (State.xferEnds s x) := by
  unfold State.xferEnds
  extract_lets -merge -underBinder +onlyGivenNames x1
  have hx1 : Same M s0 x1 := State.dropXfer_frame (.sub rfl hM) _ h
  split
  · exact hx1
  · split
    · extract_lets -merge -underBinder +onlyGivenNames x2
      exact State.settle_frame (.sub rfl hM) _ (State.complete_frame (.sub rfl hM) _ _ _ (State.checkQuire_frame (.sub rfl hM) _ hx1))
    · refine Same.ite ?_ ?_
      · exact State.complete_frame (.sub rfl hM) _ _ _ hx1
      · extract_lets -merge -underBinder +onlyGivenNames x3
        have hx3 : Same M s0 x3 := State.liveChanged_frame (.sub rfl hM) _ _ _ _ hx1
        refine Same.ite ?_ ?_
        · exact State.settle_frame (.sub rfl hM) _ (State.modFlight_frame (.sub rfl hM) _ _ hx3)
        · exact State.settle_frame (.sub rfl hM) _ (State.complete_frame (.sub rfl hM) _ _ _ hx3)
    · exact State.complete_frame (.sub rfl hM) _ _ _ hx1
    · exact State.complete_frame (.sub rfl hM) _ _ _ hx1
    · exact hx1

theorem State.pieceDone_frame {M : Nat} {s0 : State} (hM : Touch.le (.of [.hif, .mmu, .dmc, .qdc, .scr, .csm, .fir, .plk, .lck, .urg, .twn, .pmc, .dram, .tables, .draws, .out]) M) {s : State} (k : Nat) (p : Piece) (bs : List Sys2Proof.Byte) (h : Same M s0 s) : Same M s0 (State.pieceDone s k p bs) := by
  unfold State.pieceDone
  split
  · exact Same.upd h (hif := .inl (.sub rfl hM))
  · extract_lets -merge -underBinder +onlyGivenNames z_2 x3
    have hx3 : Same M s0 x3 := Same.upd h (hif := .inl (.sub rfl hM))
    extract_lets -merge -underBinder +onlyGivenNames x5
    extract_lets -merge -underBinder +onlyGivenNames x6
    have hx6 : Same M s0 x6 := State.modXfer_frame (.sub rfl hM) _ _ (State.landPiece_frame (.sub rfl hM) _ _ _ hx3)
    extract_lets -merge -underBinder +onlyGivenNames x7
    refine Same.ite ?_ ?_
    · exact State.faultEnds_frame (.sub rfl hM) _ hx6
    · refine Same.ite ?_ ?_
      · exact State.xferEnds_frame (.sub rfl hM) _ hx6
      · exact hx6

theorem State.compOutPiece_frame {M : Nat} {s0 : State} (hM : Touch.le (.of [.hif, .mmu, .dmc, .qdc, .twn, .pmc, .dram, .draws, .out]) M) {s : State} (x : Xfer) (k : Fin 4) (c : CompJob) (h : Same M s0 s) : Same M s0 (State.compOutPiece s x k c) := by
  unfold State.compOutPiece
  extract_lets -merge -underBinder +onlyGivenNames x1
  extract_lets -merge -underBinder +onlyGivenNames x2
  split
  · split
    · rename_i v3 v4 v5 e6
      have hv5 : Same M s0 v5 := (congrArg (fun r => Same M s0 r.2) e6).mp (State.translate_frame (.sub rfl hM) _ _ _ h)
      extract_lets -merge -underBinder +onlyGivenNames x7
      exact State.moverFault_frame (.sub rfl hM) _ _ _ _ _ (State.modXfer_frame (.sub rfl hM) _ _ (State.draw_frame (.sub rfl hM) hv5))
    · rename_i v8 v9 e10
      have hv9 : Same M s0 v9 := (congrArg (fun r => Same M s0 r.2) e10).mp (State.translate_frame (.sub rfl hM) _ _ _ h)
      exact State.putComp_frame (.sub rfl hM) _ _ (State.modXfer_frame (.sub rfl hM) _ _ (State.dramPut_frame (.sub rfl hM) _ _ _ _ hv9))
  · exact State.countEvent_frame (.sub rfl hM) _ _ _ (State.emit_frame (.sub rfl hM) _ (State.putPiece_frame (.sub rfl hM) _ (State.putComp_frame (.sub rfl hM) _ _ (State.modXfer_frame (.sub rfl hM) _ _ h))))

theorem State.issuePiece_frame {M : Nat} {s0 : State} (hM : Touch.le (.of [.hif, .mmu, .dmc, .qdc, .twn, .pmc, .dram, .draws, .out]) M) {s : State} (x : Xfer) (h : Same M s0 s) : Same M s0 (State.issuePiece s x) := by
  unfold State.issuePiece
  extract_lets -merge -underBinder +onlyGivenNames x1
  split
  · split
    · rename_i v2 v3 v4 e5
      have hv4 : Same M s0 v4 := (congrArg (fun r => Same M s0 r.2) e5).mp (State.translate_frame (.sub rfl hM) _ _ _ h)
      exact State.moverFault_frame (.sub rfl hM) _ _ _ _ _ hv4
    · rename_i v6 v7 e8
      have hv7 : Same M s0 v7 := (congrArg (fun r => Same M s0 r.2) e8).mp (State.translate_frame (.sub rfl hM) _ _ _ h)
      exact State.askHost_frame (.sub rfl hM) _ _ (State.putPiece_frame (.sub rfl hM) _ (State.issued_frame (.sub rfl hM) _ _ hv7))
  · exact State.askHost_frame (.sub rfl hM) _ _ (State.putPiece_frame (.sub rfl hM) _ (State.issued_frame (.sub rfl hM) _ _ h))
  · exact State.askHost_frame (.sub rfl hM) _ _ (State.putPiece_frame (.sub rfl hM) _ (State.issued_frame (.sub rfl hM) _ _ h))
  · extract_lets -merge -underBinder +onlyGivenNames x9
    exact State.countEvent_frame (.sub rfl hM) _ _ _ (State.emit_frame (.sub rfl hM) _ (State.putPiece_frame (.sub rfl hM) _ (State.issued_frame (.sub rfl hM) _ _ (State.readView_frame (.sub rfl hM) _ _ _ _ h))))
  · split
    · exact h
    · refine Same.ite ?_ ?_
      · exact State.compInPiece_frame (.sub rfl hM) _ _ _ h
      · exact State.compOutPiece_frame (.sub rfl hM) _ _ _ h

theorem execDataMoverPieceIssue_frame {M : Nat} {s0 : State} (hM : Touch.le (.of [.hif, .mmu, .dmc, .qdc, .twn, .pmc, .dram, .draws, .out]) M) {s : State} (h : Same M s0 s) : OSame M s0 (execDataMoverPieceIssue s) := by
  unfold execDataMoverPieceIssue
  refine OSame.next ?_
  refine Same.ite ?_ ?_
  · split
    · exact State.issuePiece_frame (.sub rfl hM) _ h
    · exact h
  · exact h

theorem State.invalidate_frame {M : Nat} {s0 : State} (hM : Touch.le (.of [.hif, .mmu]) M) {s : State} (id : Nat) (a : Nat) (len : Nat) (h : Same M s0 s) : Same M s0 (State.invalidate s id a len) := by
  unfold State.invalidate
  exact Same.upd h (hif := .inl (.sub rfl hM)) (mmu := .inl (.sub rfl hM))

theorem execMmuInvalidate_frame {M : Nat} {s0 : State} (hM : Touch.le (.of [.hif, .mmu, .pmc, .out]) M) (ring : Fin 16) {s : State} (h : Same M s0 s) : OSame M s0 (execMmuInvalidate ring s) := by
  unfold execMmuInvalidate
  refine OSame.next ?_
  refine State.withEntryAt_frame (.sub rfl hM) _ _ _ (fun _ _ h1 => ?_) ?_
  · exact State.invalidatesEnd_frame (.sub rfl hM) (State.waitFlight_frame (.sub rfl hM) _ (State.invalidate_frame (.sub rfl hM) _ _ _ h1))
  · exact h

theorem State.beginXfer_frame {M : Nat} {s0 : State} (hM : Touch.le (.of [.hif, .pmc, .out]) M) {s : State} (f : Flight) (h : Same M s0 s) : Same M s0 (State.beginXfer s f) := by
  unfold State.beginXfer
  refine Same.ite ?_ ?_
  · exact State.complete_frame (.sub rfl hM) _ _ _ h
  · exact State.startXfer_frame (.sub rfl hM) _ h

theorem State.writeMmuCfg_frame {M : Nat} {s0 : State} (hM : Touch.le (.of [.regs, .mmu]) M) {s : State} (v : Sys2Proof.Word) (h : Same M s0 s) : Same M s0 (State.writeMmuCfg s v) := by
  unfold State.writeMmuCfg
  refine Same.ite ?_ ?_
  · refine Same.ite ?_ ?_
    · exact State.hostWrite_frame (.sub rfl hM) _ _ h
    · exact h
  · extract_lets -merge -underBinder +onlyGivenNames x1
    have hx1 : Same M s0 x1 := State.hostWrite_frame (.sub rfl hM) _ _ h
    exact Same.upd hx1 (mmu := .inl (.sub rfl hM))

theorem execMmuEnableWrite_frame {M : Nat} {s0 : State} (hM : Touch.le (.of [.regs, .hif, .mmu]) M) (enable : Bool) {s : State} (h : Same M s0 s) : OSame M s0 (execMmuEnableWrite enable s) := by
  unfold execMmuEnableWrite
  refine OSame.next ?_
  refine State.onWrite_frame (.sub rfl hM) _ _ (fun _ h1 => ?_) ?_
  · exact State.writeMmuCfg_frame (.sub rfl hM) _ h1
  · exact h

theorem execTableRead_frame {M : Nat} {s0 : State} (hM : Touch.le (.of [.hif, .pmc, .out]) M) (ring : Fin 16) {s : State} (h : Same M s0 s) : OSame M s0 (execTableRead ring s) := by
  unfold execTableRead
  refine OSame.next ?_
  refine State.withEntryAt_frame (.sub rfl hM) _ _ _ (fun _ _ h1 => ?_) ?_
  · exact State.beginXfer_frame (.sub rfl hM) _ h1
  · exact h

theorem execCopyQueueAdmit_frame {M : Nat} {s0 : State} (hM : Touch.le (.of [.hif, .cpy, .lck, .pmc, .out]) M) {s : State} (h : Same M s0 s) : OSame M s0 (execCopyQueueAdmit s) := by
  unfold execCopyQueueAdmit
  refine OSame.next ?_
  refine Same.ite ?_ ?_
  · split
    · exact State.acceptCopy_frame (.sub rfl hM) _ h
    · exact h
  · exact h

theorem execDataMoverPieceDone_frame {M : Nat} {s0 : State} (hM : Touch.le (.of [.hif, .mmu, .dmc, .qdc, .scr, .csm, .fir, .plk, .lck, .urg, .twn, .pmc, .dram, .tables, .draws, .out]) M) (piece : Nat) (bytes : List Sys2Proof.Byte) {s : State} (h : Same M s0 s) : OSame M s0 (execDataMoverPieceDone piece bytes s) := by
  unfold execDataMoverPieceDone
  refine OSame.next ?_
  split
  · exact h
  · exact State.invalidatesEnd_frame (.sub rfl hM) (State.pieceDone_frame (.sub rfl hM) _ _ _ h)

theorem execTableLoad_frame {M : Nat} {s0 : State} (hM : Touch.le (.of [.hif, .pmc, .out]) M) (ring : Fin 16) {s : State} (h : Same M s0 s) : OSame M s0 (execTableLoad ring s) := by
  unfold execTableLoad
  refine OSame.next ?_
  refine State.withEntryAt_frame (.sub rfl hM) _ _ _ (fun _ _ h1 => ?_) ?_
  · extract_lets -merge -underBinder +onlyGivenNames x2
    refine Same.ite ?_ ?_
    · refine Same.ite ?_ ?_
      · exact State.beginXfer_frame (.sub rfl hM) _ h1
      · exact State.complete_frame (.sub rfl hM) _ _ _ h1
    · refine Same.ite ?_ ?_
      · exact State.beginXfer_frame (.sub rfl hM) _ h1
      · exact State.complete_frame (.sub rfl hM) _ _ _ h1
  · exact h

theorem execQuireLoad_frame {M : Nat} {s0 : State} (hM : Touch.le (.of [.hif, .pmc, .out]) M) (ring : Fin 16) {s : State} (h : Same M s0 s) : OSame M s0 (execQuireLoad ring s) := by
  unfold execQuireLoad
  refine OSame.next ?_
  refine State.withEntryAt_frame (.sub rfl hM) _ _ _ (fun _ _ h1 => ?_) ?_
  · exact State.startXfer_frame (.sub rfl hM) _ h1
  · exact h

theorem execMmuWrite_frame {M : Nat} {s0 : State} (hM : Touch.le (.of [.hif, .pmc, .out]) M) (ring : Fin 16) {s : State} (h : Same M s0 s) : OSame M s0 (execMmuWrite ring s) := by
  unfold execMmuWrite
  refine OSame.next ?_
  refine State.withEntryAt_frame (.sub rfl hM) _ _ _ (fun _ _ h1 => ?_) ?_
  · exact State.startXfer_frame (.sub rfl hM) _ h1
  · exact h

theorem execHostReadError_frame {M : Nat} {s0 : State} (hM : Touch.le (.of [.hif, .qdc, .pmc, .out]) M) (piece : Nat) {s : State} (h : Same M s0 s) : OSame M s0 (execHostReadError piece s) := by
  unfold execHostReadError
  refine OSame.next ?_
  split
  · exact h
  · split
    · exact h
    · split
      · exact h
      · refine Same.ite ?_ ?_
        · exact h
        · exact State.complete_frame (.sub rfl hM) _ _ _ (State.dropXfer_frame (.sub rfl hM) _ h)

theorem execCopy_frame {M : Nat} {s0 : State} (hM : Touch.le (.of [.hif, .cpy, .lck, .pmc, .out]) M) (ring : Fin 16) {s : State} (h : Same M s0 s) : OSame M s0 (execCopy ring s) := by
  unfold execCopy
  refine OSame.next ?_
  refine State.withEntryAt_frame (.sub rfl hM) _ _ _ (fun _ _ h1 => ?_) ?_
  · refine Same.ite ?_ ?_
    · exact State.acceptCopy_frame (.sub rfl hM) _ h1
    · exact State.waitFlight_frame (.sub rfl hM) _ h1
  · exact h

theorem State.copyFail_frame {M : Nat} {s0 : State} (hM : Touch.le (.of [.regs, .cpy, .dmc, .csm, .fir, .plk, .lck, .urg, .twn, .pmc, .dram, .tables, .draws, .out]) M) {s : State} (c : CopyRun) (cause : Sys2Proof.CopyFault) (at_ : Nat) (h : Same M s0 s) : Same M s0 (State.copyFail s c cause at_) := by
  unfold State.copyFail
  extract_lets -merge -underBinder +onlyGivenNames x1
  extract_lets -merge -underBinder +onlyGivenNames x2
  extract_lets -merge -underBinder +onlyGivenNames z_3 z_4 z_5 x6
  have hx6 : Same M s0 x6 := by
    refine Same.ite ?_ ?_
    · exact h
    · exact State.copyDest_frame (.sub rfl hM) _ _ (State.draw_frame (.sub rfl hM) h)
  extract_lets -merge -underBinder +onlyGivenNames x7
  have hx7 : Same M s0 x7 := by
    refine Same.ite ?_ ?_
    · exact State.recordUe_frame (.sub rfl hM) _ _ hx6
    · exact hx6
  extract_lets -merge -underBinder +onlyGivenNames x8
  extract_lets -merge -underBinder +onlyGivenNames x9
  extract_lets -merge -underBinder +onlyGivenNames x10
  have hx10 : Same M s0 x10 := State.setReg_frame (.sub rfl hM) _ _ (State.setReg_frame (.sub rfl hM) _ _ (State.setReg_frame (.sub rfl hM) _ _ (State.endRun_frame (.sub rfl hM) _ hx7)))
  exact State.settle_frame (.sub rfl hM) _ (State.copyEvent_frame (.sub rfl hM) _ _ (State.twinError_frame (.sub rfl hM) _ hx10))

theorem execCopyFail_frame {M : Nat} {s0 : State} (hM : Touch.le (.of [.regs, .cpy, .dmc, .csm, .fir, .plk, .lck, .urg, .twn, .pmc, .dram, .tables, .draws, .out]) M) (cause : Sys2Proof.CopyFault) (beat : Nat) {s : State} (h : Same M s0 s) : OSame M s0 (execCopyFail cause beat s) := by
  unfold execCopyFail
  refine OSame.next ?_
  split
  · refine Same.ite ?_ ?_
    · exact State.copyFail_frame (.sub rfl hM) _ _ _ h
    · exact h
  · exact h

theorem execTableLoadChannelDone_frame {M : Nat} {s0 : State} (hM : Touch.le (.of [.hif, .pmc, .out]) M) {s : State} (h : Same M s0 s) : OSame M s0 (execTableLoadChannelDone s) := by
  unfold execTableLoadChannelDone
  refine OSame.next ?_
  refine Same.foldl (fun _ _ h1 => ?_) ?_
  · exact State.complete_frame (.sub rfl hM) _ _ _ h1
  · exact h

theorem execCopyStart_frame {M : Nat} {s0 : State} (hM : Touch.le (.of [.cpy]) M) {s : State} (h : Same M s0 s) : OSame M s0 (execCopyStart s) := by
  unfold execCopyStart
  refine OSame.next ?_
  split
  · refine Same.ite ?_ ?_
    · exact Same.upd h (cpy := .inl (.sub rfl hM))
    · exact h
  · exact h

end Sys2Proof.Machine
end

