-- ==== Sys2Proof/Laws/FrameCodec.lean ====
section
/-! SUPPORT. What the operations of Machine/Codec.lean may change. -/

set_option Elab.async false

namespace Sys2Proof.Machine

theorem State.retireQuires_frame {M : Nat} {s0 : State} (hM : Touch.le (.of [.qdc]) M) {s : State} (h : Same M s0 s) : Same M s0 (State.retireQuires s) := by
  unfold State.retireQuires
  extract_lets -merge -underBinder +onlyGivenNames x1
  extract_lets -merge -underBinder +onlyGivenNames x2
  extract_lets -merge -underBinder +onlyGivenNames x3
  have hx3 : Same M s0 x3 := by
    refine Same.foldl (fun _ _ h4 => ?_) ?_
    · exact State.stopDecode_frame (.sub rfl hM) _ h4
    · exact h
  extract_lets -merge -underBinder +onlyGivenNames x5
  have hx5 : Same M s0 x5 := by
    refine Same.foldl (fun _ _ h6 => ?_) ?_
    · exact State.stopDecode_frame (.sub rfl hM) _ h6
    · exact hx3
  exact Same.upd hx5 (qdc := .inl (.sub rfl hM))

theorem State.quireBad_frame {M : Nat} {s0 : State} (hM : Touch.le (.of [.regs, .hif, .qdc, .twn, .pmc, .out]) M) {s : State} (q : Quire) (origin : Int) (cause : Nat) (h : Same M s0 s) : Same M s0 (State.quireBad s q origin cause) := by
  unfold State.quireBad
  refine State.log_frame (.sub rfl hM) _ _ _ _ ?_
  extract_lets -merge -underBinder +onlyGivenNames x1
  have hx1 : Same M s0 x1 := State.twinError_frame (.sub rfl hM) _ h
  exact Same.upd hx1 (qdc := .inl (.sub rfl hM))

theorem State.modQuire_frame {M : Nat} {s0 : State} (hM : Touch.le (.of [.qdc]) M) {s : State} (id : Nat) (f : Quire → Quire) (h : Same M s0 s) : Same M s0 (State.modQuire s id f) := by
  unfold State.modQuire
  exact Same.upd h (qdc := .inl (.sub rfl hM))

theorem State.modPlate_frame {M : Nat} {s0 : State} (hM : Touch.le (.of [.qdc]) M) {s : State} (id : Nat) (f : Quire → Quire) (h : Same M s0 s) : Same M s0 (State.modPlate s id f) := by
  unfold State.modPlate
  exact Same.upd h (qdc := .inl (.sub rfl hM))

theorem State.modJob_frame {M : Nat} {s0 : State} (hM : Touch.le (.of [.qdc]) M) {s : State} (j : EngineJob) (f : Quire → Quire) (h : Same M s0 s) : Same M s0 (State.modJob s j f) := by
  unfold State.modJob
  split
  · exact State.modQuire_frame (.sub rfl hM) _ _ h
  · exact State.modPlate_frame (.sub rfl hM) _ _ h

theorem State.readChunk_frame {M : Nat} {s0 : State} (hM : Touch.le (.of [.mmu, .dmc, .qdc, .twn, .pmc, .draws, .out]) M) {s : State} (j : EngineJob) (q : Quire) (h : Same M s0 s) : Same M s0 (State.readChunk s j q) := by
  unfold State.readChunk
  extract_lets -merge -underBinder +onlyGivenNames x1
  split
  · rename_i v2 v3 v4 e5
    have hv4 : Same M s0 v4 := (congrArg (fun r => Same M s0 r.2.2) e5).mp (State.jobRead_frame (.sub rfl hM) _ _ _ _ h)
    exact State.modJob_frame (.sub rfl hM) _ _ hv4

theorem State.readUntil_frame {M : Touch} {s0 : State} (hM : Touch.le (.of [.mmu, .dmc, .qdc, .twn, .pmc, .draws, .out]) M) {s : State} (j : EngineJob) (need k : Nat) (h : Same M s0 s) : Same M s0 (s.readUntil j need k) := by
  induction k generalizing s with
  | zero => exact h
  | succ k ih =>
    unfold State.readUntil
    split
    · exact h
    · exact Same.ite h (ih (State.readChunk_frame (.sub rfl hM) _ _ h))

theorem State.decodeTo_frame {M : Nat} {s0 : State} (hM : Touch.le (.of [.mmu, .dmc, .qdc, .twn, .pmc, .draws, .out]) M) {s : State} (j : EngineJob) (need : Nat) (h : Same M s0 s) : Same M s0 (State.decodeTo s j need) := by
  unfold State.decodeTo
  split
  · exact h
  · exact State.readUntil_frame (.sub rfl hM) _ _ _ h

theorem State.decodeOn_frame {M : Nat} {s0 : State} (hM : Touch.le (.of [.mmu, .dmc, .qdc, .twn, .pmc, .draws, .out]) M) {s : State} (h : Same M s0 s) : Same M s0 (State.decodeOn s) := by
  unfold State.decodeOn
  refine Same.ite ?_ ?_
  · refine Same.foldl (fun _ _ h1 => ?_) ?_
    · split
      · split
        · exact State.readUntil_frame (.sub rfl hM) _ _ _ h1
        · exact h1
      · exact h1
    · exact h
  · exact h

theorem State.startCompress_frame {M : Nat} {s0 : State} (hM : Touch.le (.of [.hif, .qdc]) M) {s : State} (h : Same M s0 s) : Same M s0 (State.startCompress s) := by
  unfold State.startCompress
  extract_lets -merge -underBinder +onlyGivenNames x1
  clear_value x1
  split
  · extract_lets -merge -underBinder +onlyGivenNames z_2 x3
    have hx3 : Same M s0 x3 := Same.upd h (qdc := .inl (.sub rfl hM))
    split
    · exact State.addXfer_frame (.sub rfl hM) _ (State.modFlight_frame (.sub rfl hM) _ _ hx3)
    · exact hx3
  · exact Same.upd h (qdc := .inl (.sub rfl hM))

theorem execCompressEngineStart_frame {M : Nat} {s0 : State} (hM : Touch.le (.of [.hif, .qdc, .draws]) M) {s : State} (h : Same M s0 s) : OSame M s0 (execCompressEngineStart s) := by
  unfold execCompressEngineStart
  refine OSame.next ?_
  refine Same.ite ?_ ?_
  · exact State.startCompress_frame (.sub rfl hM) (State.archiveArrives_frame (.sub rfl hM) h)
  · exact h

theorem State.readPlate_frame {M : Nat} {s0 : State} (hM : Touch.le (.of [.mmu, .dmc, .qdc, .twn, .pmc, .draws, .out]) M) {s : State} (r : Repeat) (q : Quire) (h : Same M s0 s) : Same M s0 (State.readPlate s r q).2 := by
  unfold State.readPlate
  split
  · rename_i v1 v2 v3 e4
    have hv3 : Same M s0 v3 := (congrArg (fun r => Same M s0 r.2.2) e4).mp (State.jobRead_frame (.sub rfl hM) _ _ _ _ h)
    extract_lets -merge -underBinder +onlyGivenNames x5
    extract_lets -merge -underBinder +onlyGivenNames x6
    extract_lets -merge -underBinder +onlyGivenNames z_7 x8
    exact Same.upd hv3 (qdc := .inl (.sub rfl hM))

theorem State.takeDecode_frame {M : Nat} {s0 : State} (hM : Touch.le (.of [.mmu, .dmc, .qdc, .twn, .pmc, .draws, .out]) M) {s : State} (e : Fin 16) (c : DecodeCand) (h : Same M s0 s) : Same M s0 (State.takeDecode s e c) := by
  unfold State.takeDecode
  split
  · extract_lets -merge -underBinder +onlyGivenNames x1
    have hx1 : Same M s0 x1 := State.modQuire_frame (.sub rfl hM) _ _ h
    exact Same.upd hx1 (qdc := .inl (.sub rfl hM))
  · split
    · rename_i v3 v4 e5
      have hv4 : Same M s0 v4 := (congrArg (fun r => Same M s0 r.2) e5).mp (State.readPlate_frame (.sub rfl hM) _ _ h)
      exact Same.upd hv4 (qdc := .inl (.sub rfl hM))

theorem State.blankBands_frame {M : Nat} {s0 : State} (hM : Touch.le (.of [.lop]) M) {s : State} (q : Quire) (origin : Int) (h : Same M s0 s) : Same M s0 (State.blankBands s q origin) := by
  unfold State.blankBands
  extract_lets -merge -underBinder +onlyGivenNames x1
  exact Same.upd h (lop := .inl (.sub rfl hM))

theorem State.blank_frame {M : Nat} {s0 : State} (hM : Touch.le (.of [.scr]) M) {s : State} (src : LineSource) (plane : Fin 8) (h : Same M s0 s) : Same M s0 (State.blank s src plane) := by
  unfold State.blank
  exact Same.upd h (scr := .inl (.sub rfl hM))

theorem State.blankDue_frame {M : Nat} {s0 : State} (hM : Touch.le (.of [.qdc, .scr, .lop]) M) {s : State} (h : Same M s0 s) : Same M s0 (State.blankDue s) := by
  unfold State.blankDue
  refine Same.foldl (fun _ _ h1 => ?_) ?_
  · exact State.blankBands_frame (.sub rfl hM) _ _ (State.blank_frame (.sub rfl hM) _ _ (State.modQuire_frame (.sub rfl hM) _ _ h1))
  · exact h

theorem execReplaceDeadline_frame {M : Nat} {s0 : State} (hM : Touch.le (.of [.qdc, .scr, .fir, .lop, .urg, .twn, .out]) M) {s : State} (h : Same M s0 s) : OSame M s0 (execReplaceDeadline s) := by
  unfold execReplaceDeadline
  refine OSame.next ?_
  exact State.settle_frame (.sub rfl hM) _ (State.blankDue_frame (.sub rfl hM) h)

theorem State.idle_frame {M : Nat} {s0 : State} (hM : Touch.le (.of [.mmu, .cpy, .dmc, .qdc, .csm, .fir, .lck, .urg, .twn, .pmc, .dram, .tables, .draws, .out]) M) {s : State} (h : Same M s0 s) : Same M s0 (State.idle s) := by
  unfold State.idle
  exact State.settle_frame (.sub rfl hM) _ (State.decodeOn_frame (.sub rfl hM) (State.copyBurst_frame (.sub rfl hM) h))

theorem execCompress_frame {M : Nat} {s0 : State} (hM : Touch.le (.of [.hif, .qdc, .pmc, .draws, .out]) M) (ring : Fin 16) {s : State} (h : Same M s0 s) : OSame M s0 (execCompress ring s) := by
  unfold execCompress
  refine OSame.next ?_
  refine State.withEntryAt_frame (.sub rfl hM) _ _ _ (fun _ _ h1 => ?_) ?_
  · exact State.queueCompress_frame (.sub rfl hM) _ h1
  · exact h

theorem State.blurOutput_frame {M : Touch} {s0 : State} (hM : Touch.le (.of [.mmu, .dmc, .twn, .pmc, .dram, .draws, .out]) M) {s : State} (r : CompReq) (d fuel a len : Nat) (h : Same M s0 s) : Same M s0 (s.blurOutput r d fuel a len) := by
  induction fuel generalizing s a len with
  | zero => exact h
  | succ fuel ih =>
    unfold State.blurOutput
    refine Same.ite h (ih _ _ ?_)
    split
    · exact h
    · exact State.dramPut_frame (.sub rfl hM) _ _ _ _ h
    · split
      · exact State.dramPut_frame (.sub rfl hM) _ _ _ _ h
      · exact h

theorem State.compSettles_frame {M : Nat} {s0 : State} (hM : Touch.le (.of [.mmu, .dmc, .qdc, .twn, .pmc, .dram, .draws, .out]) M) {s : State} (k : Fin 4) (c : CompJob) (h : Same M s0 s) : Same M s0 (State.compSettles s k c) := by
  unfold State.compSettles
  extract_lets -merge -underBinder +onlyGivenNames x1
  have hx1 : Same M s0 x1 := State.countEvent_frame (.sub rfl hM) _ _ _ (State.putComp_frame (.sub rfl hM) _ _ h)
  refine Same.ite ?_ ?_
  · exact State.blurOutput_frame (.sub rfl hM) _ _ _ _ _ (State.draw_frame (.sub rfl hM) hx1)
  · exact hx1

theorem State.archiveEnds_frame {M : Nat} {s0 : State} (hM : Touch.le (.of [.mmu, .dmc, .qdc, .twn, .pmc, .dram, .draws, .out]) M) {s : State} (k : Fin 4) (r : CompReq) (h : Same M s0 s) : Same M s0 (State.archiveEnds s k r) := by
  unfold State.archiveEnds
  split
  · rename_i v1 v2 v3 e4
    have hv3 : Same M s0 v3 := (congrArg (fun r => Same M s0 r.2.2) e4).mp (State.dramRead_frame (.sub rfl hM) _ _ _ _ h)
    extract_lets -merge -underBinder +onlyGivenNames x5
    extract_lets -merge -underBinder +onlyGivenNames x6
    have hx6 : Same M s0 x6 := State.compSettles_frame (.sub rfl hM) _ _ hv3
    refine Same.ite ?_ ?_
    · exact hx6
    · exact State.dramPut_frame (.sub rfl hM) _ _ _ _ hx6

theorem State.compEnds_frame {M : Nat} {s0 : State} (hM : Touch.le (.of [.hif, .mmu, .dmc, .qdc, .twn, .pmc, .dram, .draws, .out]) M) {s : State} (k : Fin 4) (c : CompJob) (id : Nat) (h : Same M s0 s) : Same M s0 (State.compEnds s k c id) := by
  unfold State.compEnds
  exact State.complete_frame (.sub rfl hM) _ _ _ (State.dropXfer_frame (.sub rfl hM) _ (State.compSettles_frame (.sub rfl hM) _ _ h))

theorem execCompressEnd_frame {M : Nat} {s0 : State} (hM : Touch.le (.of [.hif, .mmu, .dmc, .qdc, .twn, .pmc, .dram, .draws, .out]) M) (engine : Fin 4) {s : State} (h : Same M s0 s) : OSame M s0 (execCompressEnd engine s) := by
  unfold execCompressEnd
  refine OSame.next ?_
  split
  · exact h
  · split
    · exact State.archiveEnds_frame (.sub rfl hM) _ _ h
    · split
      · exact State.putComp_frame (.sub rfl hM) _ _ h
      · refine Same.ite ?_ ?_
        · exact State.compEnds_frame (.sub rfl hM) _ _ _ h
        · exact h

theorem execDecodeDispatch_frame {M : Nat} {s0 : State} (hM : Touch.le (.of [.mmu, .dmc, .qdc, .twn, .pmc, .draws, .out]) M) (engine : Fin 16) {s : State} (h : Same M s0 s) : OSame M s0 (execDecodeDispatch engine s) := by
  unfold execDecodeDispatch
  refine OSame.next ?_
  refine Same.ite ?_ ?_
  · split
    · exact State.takeDecode_frame (.sub rfl hM) _ _ h
    · exact h
  · exact h

theorem State.decodeEnds_frame {M : Nat} {s0 : State} (hM : Touch.le (.of [.regs, .hif, .qdc, .scr, .fir, .lop, .urg, .twn, .pmc, .out]) M) {s : State} (e : Fin 16) (j : EngineJob) (q : Quire) (h : Same M s0 s) : Same M s0 (State.decodeEnds s e j q) := by
  unfold State.decodeEnds
  extract_lets -merge -underBinder +onlyGivenNames z_1 x2
  have hx2 : Same M s0 x2 := Same.upd h (qdc := .inl (.sub rfl hM))
  split
  · exact State.settle_frame (.sub rfl hM) _ (State.countEvent_frame (.sub rfl hM) _ _ _ (State.countEvent_frame (.sub rfl hM) _ _ _ (State.modJob_frame (.sub rfl hM) _ _ hx2)))
  · extract_lets -merge -underBinder +onlyGivenNames x4
    have hx4 : Same M s0 x4 := State.quireBad_frame (.sub rfl hM) _ _ _ hx2
    split
    · exact State.modQuire_frame (.sub rfl hM) _ _ hx4
    · exact State.settle_frame (.sub rfl hM) _ (State.blankBands_frame (.sub rfl hM) _ _ (State.blank_frame (.sub rfl hM) _ _ (State.modPlate_frame (.sub rfl hM) _ _ hx4)))

theorem execDecodeEnd_frame {M : Nat} {s0 : State} (hM : Touch.le (.of [.regs, .hif, .mmu, .dmc, .qdc, .scr, .fir, .lop, .urg, .twn, .pmc, .draws, .out]) M) (engine : Fin 16) {s : State} (h : Same M s0 s) : OSame M s0 (execDecodeEnd engine s) := by
  unfold execDecodeEnd
  refine OSame.next ?_
  refine Same.ite ?_ ?_
  · split
    · exact h
    · split
      · exact Same.upd h (qdc := .inl (.sub rfl hM))
      · extract_lets -merge -underBinder +onlyGivenNames x2
        have hx2 : Same M s0 x2 := State.decodeTo_frame (.sub rfl hM) _ _ h
        split
        · refine Same.ite ?_ ?_
          · exact State.decodeEnds_frame (.sub rfl hM) _ _ _ hx2
          · exact hx2
        · exact hx2
  · exact h

theorem execQuireRetire_frame {M : Nat} {s0 : State} (hM : Touch.le (.of [.qdc]) M) {s : State} (h : Same M s0 s) : OSame M s0 (execQuireRetire s) := by
  unfold execQuireRetire
  refine OSame.next ?_
  refine Same.ite ?_ ?_
  · exact State.retireQuires_frame (.sub rfl hM) h
  · exact h

end Sys2Proof.Machine
end

