-- ==== Sys2Proof/Laws/FrameDram.lean ====
section
/-! SUPPORT. What the operations of Machine/Dram.lean may change. -/

set_option Elab.async false

namespace Sys2Proof.Machine

theorem execCaParityAlert_frame {M : Nat} {s0 : State} (hM : Touch.le (.of [.dmc]) M) (channel : Fin 2) {s : State} (h : Same M s0 s) : OSame M s0 (execCaParityAlert channel s) := by
  unfold execCaParityAlert
  refine OSame.next ?_
  refine Same.ite ?_ ?_
  · exact Same.upd h (dmc := .inl (.sub rfl hM))
  · exact h

theorem State.startRetrain_frame {M : Nat} {s0 : State} (hM : Touch.le (.of [.dmc]) M) {s : State} (chs : List (Fin 2)) (h : Same M s0 s) : Same M s0 (State.startRetrain s chs) := by
  unfold State.startRetrain
  extract_lets -merge -underBinder +onlyGivenNames x1
  refine Same.ite ?_ ?_
  · exact h
  · exact Same.upd h (dmc := .inl (.sub rfl hM))

theorem State.retrainNow_frame {M : Nat} {s0 : State} (hM : Touch.le (.of [.dmc]) M) {s : State} (h : Same M s0 s) : Same M s0 (State.retrainNow s) := by
  unfold State.retrainNow
  refine Same.ite ?_ ?_
  · exact h
  · exact State.startRetrain_frame (.sub rfl hM) _ h

theorem execDmcRetrainNow_frame {M : Nat} {s0 : State} (hM : Touch.le (.of [.hif, .dmc]) M) {s : State} (h : Same M s0 s) : OSame M s0 (execDmcRetrainNow s) := by
  unfold execDmcRetrainNow
  refine OSame.next ?_
  refine State.onWrite_frame (.sub rfl hM) _ _ (fun _ h1 => ?_) ?_
  · exact State.retrainNow_frame (.sub rfl hM) h1
  · exact h

theorem State.driftRetrain_frame {M : Nat} {s0 : State} (hM : Touch.le (.of [.dmc]) M) {s : State} (h : Same M s0 s) : Same M s0 (State.driftRetrain s) := by
  unfold State.driftRetrain
  extract_lets -merge -underBinder +onlyGivenNames x1
  extract_lets -merge -underBinder +onlyGivenNames x2
  refine Same.ite ?_ ?_
  · exact State.startRetrain_frame (.sub rfl hM) _ h
  · exact h

theorem execDramSchedulePick_frame {M : Nat} {s0 : State} (hM : Touch.le (.of [.dmc, .fir, .tim, .pmc, .now, .draws, .out]) M) (sub : Fin 4) (at_ : Nat) {s : State} (h : Same M s0 s) : OSame M s0 (execDramSchedulePick sub at_ s) := by
  unfold execDramSchedulePick
  extract_lets -merge -underBinder +onlyGivenNames x1
  have hx1 : Same M s0 x1 := State.advance_frame (.sub rfl hM) _ h
  refine OSame.next ?_
  refine Same.ite ?_ ?_
  · exact State.pickIssue_frame (.sub rfl hM) _ hx1
  · exact hx1

theorem State.returnData_frame {M : Nat} {s0 : State} (hM : Touch.le (.of [.dmc, .twn, .out]) M) {s : State} (r : DramReq) (h : Same M s0 s) : Same M s0 (State.returnData s r) := by
  unfold State.returnData
  extract_lets -merge -underBinder +onlyGivenNames x1
  refine State.emit_frame (.sub rfl hM) _ ?_
  refine Same.ite ?_ ?_
  · exact State.recordUe_frame (.sub rfl hM) _ _ h
  · exact h

theorem State.readBack_frame {M : Nat} {s0 : State} (hM : Touch.le (.of [.dmc, .twn, .out]) M) {s : State} (k : Fin 4) (r : DramReq) (ecc : Sys2Proof.EccOutcome) (h : Same M s0 s) : Same M s0 (State.readBack s k r ecc) := by
  unfold State.readBack
  extract_lets -merge -underBinder +onlyGivenNames x1
  have hx1 : Same M s0 x1 := State.modSub_frame (.sub rfl hM) _ _ h
  refine Same.ite ?_ ?_
  · exact State.returnData_frame (.sub rfl hM) _ hx1
  · split
    · exact State.returnData_frame (.sub rfl hM) _ hx1
    · refine State.returnData_frame (.sub rfl hM) _ ?_
      exact Same.upd hx1 (dmc := .inl (.sub rfl hM))
    · refine State.returnData_frame (.sub rfl hM) _ ?_
      refine Same.ite ?_ ?_
      · exact hx1
      · exact State.spoilUnit_frame (.sub rfl hM) _ hx1

theorem execDramReadReturn_frame {M : Nat} {s0 : State} (hM : Touch.le (.of [.dmc, .twn, .out]) M) (sub : Fin 4) (seq : Nat) (ecc : Sys2Proof.EccOutcome) {s : State} (h : Same M s0 s) : OSame M s0 (execDramReadReturn sub seq ecc s) := by
  unfold execDramReadReturn
  refine OSame.next ?_
  split
  · exact h
  · exact State.readBack_frame (.sub rfl hM) _ _ _ h

theorem execRefreshDue_frame {M : Nat} {s0 : State} (hM : Touch.le (.of [.dmc, .fir, .tim, .pmc, .now, .out]) M) (sub : Fin 4) (at_ : Nat) (refreshTime : Nat) {s : State} (h : Same M s0 s) : OSame M s0 (execRefreshDue sub at_ refreshTime s) := by
  unfold execRefreshDue
  extract_lets -merge -underBinder +onlyGivenNames x1
  have hx1 : Same M s0 x1 := State.advance_frame (.sub rfl hM) _ h
  refine OSame.next ?_
  refine Same.ite ?_ ?_
  · exact State.emit_frame (.sub rfl hM) _ (State.modSub_frame (.sub rfl hM) _ _ hx1)
  · exact hx1

theorem State.rankDone_frame {M : Nat} {s0 : State} (hM : Touch.le (.of [.dmc]) M) {s : State} (c : Fin 2) (h : Same M s0 s) : Same M s0 (State.rankDone s c) := by
  unfold State.rankDone
  extract_lets -merge -underBinder +onlyGivenNames x1
  refine Same.ite ?_ ?_
  · exact Same.upd h (dmc := .inl (.sub rfl hM))
  · extract_lets -merge -underBinder +onlyGivenNames x3
    exact Same.upd h (dmc := .inl (.sub rfl hM))

theorem State.retrainStep_frame {M : Nat} {s0 : State} (hM : Touch.le (.of [.dmc]) M) {s : State} (k : Fin 4) (last : Bool) (h : Same M s0 s) : Same M s0 (State.retrainStep s k last) := by
  unfold State.retrainStep
  extract_lets -merge -underBinder +onlyGivenNames x1
  extract_lets -merge -underBinder +onlyGivenNames x2
  refine Same.ite ?_ ?_
  · exact h
  · extract_lets -merge -underBinder +onlyGivenNames x3
    have hx3 : Same M s0 x3 := State.modSub_frame (.sub rfl hM) _ _ h
    refine Same.ite ?_ ?_
    · exact State.rankDone_frame (.sub rfl hM) _ hx3
    · exact hx3

theorem State.startFill_frame {M : Nat} {s0 : State} (hM : Touch.le (.of [.dmc]) M) {s : State} (h : Same M s0 s) : Same M s0 (State.startFill s) := by
  unfold State.startFill
  extract_lets -merge -underBinder +onlyGivenNames x1
  refine Same.ite ?_ ?_
  · exact h
  · exact Same.upd h (dmc := .inl (.sub rfl hM))

theorem execFillStart_frame {M : Nat} {s0 : State} (hM : Touch.le (.of [.hif, .dmc]) M) {s : State} (h : Same M s0 s) : OSame M s0 (execFillStart s) := by
  unfold execFillStart
  refine OSame.next ?_
  refine State.onWrite_frame (.sub rfl hM) _ _ (fun _ h1 => ?_) ?_
  · exact State.startFill_frame (.sub rfl hM) h1
  · exact h

theorem execRetrainStep_frame {M : Nat} {s0 : State} (hM : Touch.le (.of [.dmc, .fir, .tim, .pmc, .now]) M) (sub : Fin 4) (at_ : Nat) (last : Bool) {s : State} (h : Same M s0 s) : OSame M s0 (execRetrainStep sub at_ last s) := by
  unfold execRetrainStep
  extract_lets -merge -underBinder +onlyGivenNames x1
  have hx1 : Same M s0 x1 := State.advance_frame (.sub rfl hM) _ h
  refine OSame.next ?_
  refine Same.ite ?_ ?_
  · exact State.retrainStep_frame (.sub rfl hM) _ _ hx1
  · exact hx1

theorem State.acceptRead_frame {M : Nat} {s0 : State} (hM : Touch.le (.of [.dmc, .twn, .pmc, .out]) M) {s : State} (r0 : DramReq) (h : Same M s0 s) : Same M s0 (State.acceptRead s r0) := by
  unfold State.acceptRead
  extract_lets -merge -underBinder +onlyGivenNames x1
  extract_lets -merge -underBinder +onlyGivenNames x2
  refine Same.ite ?_ ?_
  · exact State.returnData_frame (.sub rfl hM) _ (State.accepted_frame (.sub rfl hM) _ h)
  · exact State.accepted_frame (.sub rfl hM) _ (State.modSub_frame (.sub rfl hM) _ _ h)

theorem execDramRequestArrive_frame {M : Nat} {s0 : State} (hM : Touch.le (.of [.dmc, .fir, .tim, .twn, .pmc, .dram, .now, .draws, .out]) M) (port : Fin 10) (access : Sys2Proof.DramAccess) (at_ : Nat) {s : State} (h : Same M s0 s) : OSame M s0 (execDramRequestArrive port access at_ s) := by
  unfold execDramRequestArrive
  extract_lets -merge -underBinder +onlyGivenNames x1
  have hx1 : Same M s0 x1 := State.advance_frame (.sub rfl hM) _ h
  extract_lets -merge -underBinder +onlyGivenNames x2
  refine OSame.next ?_
  refine Same.ite ?_ ?_
  · exact hx1
  · refine Same.ite ?_ ?_
    · exact State.putWrite_frame (.sub rfl hM) _ _ hx1
    · exact State.acceptRead_frame (.sub rfl hM) _ hx1

theorem execDramAgePromotion_frame {M : Nat} {s0 : State} (hM : Touch.le (.of [.dmc, .fir, .tim, .pmc, .now, .out]) M) (sub : Fin 4) (at_ : Nat) {s : State} (h : Same M s0 s) : OSame M s0 (execDramAgePromotion sub at_ s) := by
  unfold execDramAgePromotion
  extract_lets -merge -underBinder +onlyGivenNames x1
  have hx1 : Same M s0 x1 := State.advance_frame (.sub rfl hM) _ h
  extract_lets -merge -underBinder +onlyGivenNames x2
  refine OSame.next ?_
  refine Same.foldl (fun _ _ h3 => ?_) ?_
  · exact State.countEvent_frame (.sub rfl hM) _ _ _ h3
  · exact State.modSub_frame (.sub rfl hM) _ _ hx1

theorem State.scrubPassEnds_frame {M : Nat} {s0 : State} (hM : Touch.le (.of [.dmc]) M) {s : State} (h : Same M s0 s) : Same M s0 (State.scrubPassEnds s) := by
  unfold State.scrubPassEnds
  refine Same.ite ?_ ?_
  · exact Same.upd h (dmc := .inl (.sub rfl hM))
  · exact h

theorem State.fillUnit_frame {M : Nat} {s0 : State} (hM : Touch.le (.of [.dmc, .twn, .pmc, .dram, .draws, .out]) M) {s : State} (k : Fin 4) (h : Same M s0 s) : Same M s0 (State.fillUnit s k) := by
  unfold State.fillUnit
  split
  · refine Same.ite ?_ ?_
    · refine State.fillEnds_frame (.sub rfl hM) ?_
      refine State.putWrite_frame (.sub rfl hM) _ _ ?_
      exact Same.upd h (dmc := .inl (.sub rfl hM))
    · exact h
  · exact h

theorem State.scrubUnit_frame {M : Nat} {s0 : State} (hM : Touch.le (.of [.dmc, .twn, .pmc, .dram, .draws, .out]) M) {s : State} (c : Fin 2) (u : Nat) (ecc : Sys2Proof.EccOutcome) (h : Same M s0 s) : Same M s0 (State.scrubUnit s c u ecc) := by
  unfold State.scrubUnit
  extract_lets -merge -underBinder +onlyGivenNames z_1 x2
  have hx2 : Same M s0 x2 := Same.upd h (dmc := .inl (.sub rfl hM))
  extract_lets -merge -underBinder +onlyGivenNames x4
  have hx4 : Same M s0 x4 := State.dramReadUnit_frame (.sub rfl hM) _ _ _ _ hx2
  extract_lets -merge -underBinder +onlyGivenNames x5
  have hx5 : Same M s0 x5 := by
    refine Same.ite ?_ ?_
    · exact hx4
    · split
      · exact hx4
      · refine State.dramPutUnit_frame (.sub rfl hM) _ _ _ _ ?_
        exact Same.upd hx4 (dmc := .inl (.sub rfl hM))
      · exact State.recordUe_frame (.sub rfl hM) _ _ (State.spoilUnit_frame (.sub rfl hM) _ hx4)
  exact State.scrubPassEnds_frame (.sub rfl hM) hx5

theorem execScrubUnitRead_frame {M : Nat} {s0 : State} (hM : Touch.le (.of [.dmc, .twn, .pmc, .dram, .draws, .out]) M) (channel : Fin 2) (ecc : Sys2Proof.EccOutcome) {s : State} (h : Same M s0 s) : OSame M s0 (execScrubUnitRead channel ecc s) := by
  unfold execScrubUnitRead
  refine OSame.next ?_
  refine Same.ite ?_ ?_
  · extract_lets -merge -underBinder +onlyGivenNames x1
    have hx1 : Same M s0 x1 := State.scrubPassEnds_frame (.sub rfl hM) h
    split
    · exact State.scrubUnit_frame (.sub rfl hM) _ _ _ hx1
    · exact hx1
  · exact h

theorem execMr4Poll_frame {M : Nat} {s0 : State} (hM : Touch.le (.of [.dmc]) M) (channel : Fin 2) (rank : Fin 2) (value : BitVec 3) {s : State} (h : Same M s0 s) : OSame M s0 (execMr4Poll channel rank value s) := by
  unfold execMr4Poll
  refine OSame.next ?_
  refine Same.ite ?_ ?_
  · exact Same.upd h (dmc := .inl (.sub rfl hM))
  · exact h

theorem execFillUnitIssue_frame {M : Nat} {s0 : State} (hM : Touch.le (.of [.dmc, .twn, .pmc, .dram, .draws, .out]) M) (sub : Fin 4) {s : State} (h : Same M s0 s) : OSame M s0 (execFillUnitIssue sub s) := by
  unfold execFillUnitIssue
  refine OSame.next ?_
  refine Same.ite ?_ ?_
  · exact State.fillUnit_frame (.sub rfl hM) _ h
  · exact h

end Sys2Proof.Machine
end

