-- ==== Sys2Proof/Laws/FrameEncoders.lean ====
section
/-! SUPPORT. What the operations of Machine/Encoders.lean may change. -/

set_option Elab.async false

namespace Sys2Proof.Machine

theorem State.modChannel_frame {M : Nat} {s0 : State} (hM : Touch.le (.of [.pos]) M) {s : State} (k : Fin 8) (f : Channel → Channel) (h : Same M s0 s) : Same M s0 (State.modChannel s k f) := by
  unfold State.modChannel
  exact Same.upd h (pos := .inl (.sub rfl hM))

theorem State.correctCount_frame {M : Nat} {s0 : State} (hM : Touch.le (.of [.pos, .fir, .urg, .twn, .out]) M) {s : State} (k : Fin 8) (by_ : Int) (h : Same M s0 s) : Same M s0 (State.correctCount s k by_) := by
  unfold State.correctCount
  extract_lets -merge -underBinder +onlyGivenNames x1
  have hx1 : Same M s0 x1 := State.modChannel_frame (.sub rfl hM) _ _ h
  refine Same.ite ?_ ?_
  · extract_lets -merge -underBinder +onlyGivenNames z_2 x3
    have hx3 : Same M s0 x3 := Same.upd hx1 (pos := .inl (.sub rfl hM))
    refine Same.ite ?_ ?_
    · exact hx3
    · exact State.settle_frame (.sub rfl hM) _ (State.followPosition_frame (.sub rfl hM) hx3)
  · exact hx1

theorem State.encoderFault_frame {M : Nat} {s0 : State} (hM : Touch.le (.of [.regs, .hif, .dmc, .scr, .csm, .pos, .fir, .plk, .lop, .lck, .urg, .twn, .pmc, .dram, .tables, .draws, .out]) M) {s : State} (k : Fin 8) (dev : Int) (h : Same M s0 s) : Same M s0 (State.encoderFault s k dev) := by
  unfold State.encoderFault
  extract_lets -merge -underBinder +onlyGivenNames x1
  have hx1 : Same M s0 x1 := State.log_frame (.sub rfl hM) _ _ _ _ (State.modChannel_frame (.sub rfl hM) _ _ h)
  refine Same.ite ?_ ?_
  · exact State.settle_frame (.sub rfl hM) _ (State.assertCause_frame (.sub rfl hM) _ _ hx1)
  · exact hx1

theorem State.takeDev_frame {M : Nat} {s0 : State} (hM : Touch.le (.of [.regs, .hif, .dmc, .scr, .csm, .pos, .fir, .plk, .lop, .lck, .urg, .twn, .pmc, .dram, .tables, .draws, .out]) M) {s : State} (k : Fin 8) (dev : Int) (h : Same M s0 s) : Same M s0 (State.takeDev s k dev) := by
  unfold State.takeDev
  extract_lets -merge -underBinder +onlyGivenNames x1
  have hx1 : Same M s0 x1 := by
    refine Same.ite ?_ ?_
    · exact h
    · exact State.modChannel_frame (.sub rfl hM) _ _ h
  refine Same.ite ?_ ?_
  · exact State.modChannel_frame (.sub rfl hM) _ _ hx1
  · refine Same.ite ?_ ?_
    · exact State.encoderFault_frame (.sub rfl hM) _ _ hx1
    · exact State.modChannel_frame (.sub rfl hM) _ _ hx1

theorem State.indexAt_frame {M : Nat} {s0 : State} (hM : Touch.le (.of [.regs, .hif, .dmc, .scr, .csm, .pos, .fir, .plk, .lop, .lck, .urg, .twn, .pmc, .dram, .tables, .draws, .out]) M) {s : State} (k : Fin 8) (ref : Nat) (dir : Int) (h : Same M s0 s) : Same M s0 (State.indexAt s k ref dir) := by
  unfold State.indexAt
  extract_lets -merge -underBinder +onlyGivenNames x1
  extract_lets -merge -underBinder +onlyGivenNames x2
  extract_lets -merge -underBinder +onlyGivenNames x3
  extract_lets -merge -underBinder +onlyGivenNames x4
  have hx4 : Same M s0 x4 := by
    refine Same.ite ?_ ?_
    · exact State.correctCount_frame (.sub rfl hM) _ _ h
    · exact h
  exact State.takeDev_frame (.sub rfl hM) _ _ (State.modChannel_frame (.sub rfl hM) _ _ hx4)

theorem State.indexEvent_frame {M : Nat} {s0 : State} (hM : Touch.le (.of [.regs, .hif, .dmc, .scr, .csm, .pos, .fir, .plk, .lop, .lck, .urg, .twn, .pmc, .dram, .tables, .draws, .out]) M) {s : State} (k : Fin 8) (h : Same M s0 s) : Same M s0 (State.indexEvent s k) := by
  unfold State.indexEvent
  extract_lets -merge -underBinder +onlyGivenNames x1
  split
  · exact State.modChannel_frame (.sub rfl hM) _ _ h
  · exact State.indexAt_frame (.sub rfl hM) _ _ _ h

theorem execIndexEvent_frame {M : Nat} {s0 : State} (hM : Touch.le (.of [.regs, .hif, .dmc, .scr, .csm, .pos, .fir, .plk, .lop, .lck, .tim, .urg, .twn, .pmc, .dram, .tables, .now, .draws, .out]) M) (k : Fin 8) (pin : Sys2Proof.IndexPin) (at_ : Nat) {s : State} (h : Same M s0 s) : OSame M s0 (execIndexEvent k pin at_ s) := by
  unfold execIndexEvent
  refine OSame.next ?_
  extract_lets -merge -underBinder +onlyGivenNames x1
  have hx1 : Same M s0 x1 := State.advance_frame (.sub rfl hM) _ h
  extract_lets -merge -underBinder +onlyGivenNames x2
  extract_lets -merge -underBinder +onlyGivenNames x3
  refine Same.ite ?_ ?_
  · exact State.indexEvent_frame (.sub rfl hM) _ hx1
  · exact hx1

theorem execMissingIndex_frame {M : Nat} {s0 : State} (hM : Touch.le (.of [.regs, .hif, .dmc, .scr, .csm, .pos, .fir, .plk, .lop, .lck, .urg, .twn, .pmc, .dram, .tables, .draws, .out]) M) (k : Fin 8) {s : State} (h : Same M s0 s) : OSame M s0 (execMissingIndex k s) := by
  unfold execMissingIndex
  refine OSame.next ?_
  split
  · exact h
  · extract_lets -merge -underBinder +onlyGivenNames x1
    refine Same.ite ?_ ?_
    · exact State.takeDev_frame (.sub rfl hM) _ _ (State.modChannel_frame (.sub rfl hM) _ _ h)
    · exact h

theorem State.updateSpeed_frame {M : Nat} {s0 : State} (hM : Touch.le (.of [.pos]) M) {s : State} (k : Fin 8) (h : Same M s0 s) : Same M s0 (State.updateSpeed s k) := by
  unfold State.updateSpeed
  refine Same.ite ?_ ?_
  · split
    · exact State.modChannel_frame (.sub rfl hM) _ _ h
    · exact h
  · exact h

theorem State.dropWindows_frame {M : Nat} {s0 : State} (hM : Touch.le (.of [.pos]) M) {s : State} (h : Same M s0 s) : Same M s0 (State.dropWindows s) := by
  unfold State.dropWindows
  exact Same.upd h (pos := .inl (.sub rfl hM))

theorem State.standStill_frame {M : Nat} {s0 : State} (hM : Touch.le (.of [.regs, .hif, .pos, .fir, .urg, .twn, .pmc, .out]) M) {s : State} (k : Fin 8) (h : Same M s0 s) : Same M s0 (State.standStill s k) := by
  unfold State.standStill
  extract_lets -merge -underBinder +onlyGivenNames x1
  have hx1 : Same M s0 x1 := State.modChannel_frame (.sub rfl hM) _ _ h
  refine Same.ite ?_ ?_
  · refine Same.ite ?_ ?_
    · exact State.dropWindows_frame (.sub rfl hM) hx1
    · exact State.settle_frame (.sub rfl hM) _ (State.overEnds_frame (.sub rfl hM) (State.dropWindows_frame (.sub rfl hM) hx1))
  · exact hx1

theorem State.moveDirection_frame {M : Nat} {s0 : State} (hM : Touch.le (.of [.pos]) M) {s : State} (h : Same M s0 s) : Same M s0 (State.moveDirection s) := by
  unfold State.moveDirection
  extract_lets -merge -underBinder +onlyGivenNames x1
  extract_lets -merge -underBinder +onlyGivenNames x2
  refine Same.ite ?_ ?_
  · refine Same.ite ?_ ?_
    · exact Same.upd h (pos := .inl (.sub rfl hM))
    · refine Same.ite ?_ ?_
      · refine State.dropWindows_frame (.sub rfl hM) ?_
        exact Same.upd h (pos := .inl (.sub rfl hM))
      · exact h
  · refine Same.ite ?_ ?_
    · exact Same.upd h (pos := .inl (.sub rfl hM))
    · refine Same.ite ?_ ?_
      · refine State.dropWindows_frame (.sub rfl hM) ?_
        exact Same.upd h (pos := .inl (.sub rfl hM))
      · exact h

theorem execSpeedUpdate_frame {M : Nat} {s0 : State} (hM : Touch.le (.of [.regs, .hif, .pos, .fir, .tim, .urg, .twn, .pmc, .now, .draws, .out]) M) (at_ : Nat) {s : State} (h : Same M s0 s) : OSame M s0 (execSpeedUpdate at_ s) := by
  unfold execSpeedUpdate
  refine OSame.next ?_
  extract_lets -merge -underBinder +onlyGivenNames x1
  have hx1 : Same M s0 x1 := State.advance_frame (.sub rfl hM) _ h
  refine Same.ite ?_ ?_
  · refine State.settle_frame (.sub rfl hM) _ ?_
    refine State.sendTide_frame (.sub rfl hM) ?_
    refine Same.foldl (fun _ _ h2 => ?_) ?_
    · exact State.updateSpeed_frame (.sub rfl hM) _ h2
    · exact hx1
  · exact hx1

theorem State.writeIstat_frame {M : Nat} {s0 : State} (hM : Touch.le (.of [.pos, .fir, .urg, .twn, .out]) M) {s : State} (k : Fin 8) (v : Sys2Proof.Word) (h : Same M s0 s) : Same M s0 (State.writeIstat s k v) := by
  unfold State.writeIstat
  extract_lets -merge -underBinder +onlyGivenNames x1
  have hx1 : Same M s0 x1 := State.modChannel_frame (.sub rfl hM) _ _ h
  refine Same.ite ?_ ?_
  · exact State.settle_frame (.sub rfl hM) _ (State.clearCause_frame (.sub rfl hM) _ _ hx1)
  · exact hx1

theorem execPosFaultClear_frame {M : Nat} {s0 : State} (hM : Touch.le (.of [.hif, .pos, .fir, .urg, .twn, .out]) M) (k : Fin 8) {s : State} (h : Same M s0 s) : OSame M s0 (execPosFaultClear k s) := by
  unfold execPosFaultClear
  refine OSame.next ?_
  refine State.onWrite_frame (.sub rfl hM) _ _ (fun _ h1 => ?_) ?_
  · exact State.writeIstat_frame (.sub rfl hM) _ _ h1
  · exact h

theorem State.writePosCfg_frame {M : Nat} {s0 : State} (hM : Touch.le (.of [.regs, .pos, .fir, .urg, .twn, .out]) M) {s : State} (v : Sys2Proof.Word) (h : Same M s0 s) : Same M s0 (State.writePosCfg s v) := by
  unfold State.writePosCfg
  extract_lets -merge -underBinder +onlyGivenNames x1
  have hx1 : Same M s0 x1 := State.hostWrite_frame (.sub rfl hM) _ _ h
  refine Same.ite ?_ ?_
  · exact hx1
  · extract_lets -merge -underBinder +onlyGivenNames x2
    extract_lets -merge -underBinder +onlyGivenNames z_3 x4
    have hx4 : Same M s0 x4 := by
      refine State.modChannel_frame (.sub rfl hM) _ _ ?_
      refine State.dropWindows_frame (.sub rfl hM) ?_
      exact Same.upd hx1 (pos := .inl (.sub rfl hM))
    refine Same.ite ?_ ?_
    · exact hx4
    · refine State.settle_frame (.sub rfl hM) _ ?_
      refine State.followPosition_frame (.sub rfl hM) ?_
      exact Same.upd hx4 (fir := .inl (.sub rfl hM))

theorem execPosMainWrite_frame {M : Nat} {s0 : State} (hM : Touch.le (.of [.regs, .hif, .pos, .fir, .urg, .twn, .out]) M) (value : Sys2Proof.Word) {s : State} (h : Same M s0 s) : OSame M s0 (execPosMainWrite value s) := by
  unfold execPosMainWrite
  refine OSame.next ?_
  refine State.onWrite_frame (.sub rfl hM) _ _ (fun _ h1 => ?_) ?_
  · exact State.writePosCfg_frame (.sub rfl hM) _ h1
  · exact h

theorem State.writeChCfg_frame {M : Nat} {s0 : State} (hM : Touch.le (.of [.regs, .pos]) M) {s : State} (k : Fin 8) (v : Sys2Proof.Word) (h : Same M s0 s) : Same M s0 (State.writeChCfg s k v) := by
  unfold State.writeChCfg
  extract_lets -merge -underBinder +onlyGivenNames x1
  exact State.modChannel_frame (.sub rfl hM) _ _ (State.hostWrite_frame (.sub rfl hM) _ _ h)

theorem State.openWindows_frame {M : Nat} {s0 : State} (hM : Touch.le (.of [.pos]) M) {s : State} (h : Same M s0 s) : Same M s0 (State.openWindows s) := by
  unfold State.openWindows
  extract_lets -merge -underBinder +onlyGivenNames x1
  refine Same.foldl (fun _ _ h2 => ?_) ?_
  · refine Same.ite ?_ ?_
    · exact State.modChannel_frame (.sub rfl hM) _ _ h2
    · exact h2
  · exact h

theorem State.leftForward_frame {M : Nat} {s0 : State} (hM : Touch.le (.of [.regs, .hif, .fir, .twn, .pmc, .out]) M) {s : State} (old : State) (h : Same M s0 s) : Same M s0 (State.leftForward s old) := by
  unfold State.leftForward
  refine Same.ite ?_ ?_
  · exact State.overEnds_frame (.sub rfl hM) h
  · exact h

theorem State.followMain_frame {M : Nat} {s0 : State} (hM : Touch.le (.of [.fir]) M) {s : State} (h : Same M s0 s) : Same M s0 (State.followMain s) := by
  unfold State.followMain
  refine Same.ite ?_ ?_
  · exact h
  · refine State.followPosition_frame (.sub rfl hM) ?_
    exact Same.upd h (fir := .inl (.sub rfl hM))

theorem State.mainEdge_frame {M : Nat} {s0 : State} (hM : Touch.le (.of [.regs, .hif, .pos, .fir, .urg, .twn, .pmc, .out]) M) {s : State} (d : Int) (h : Same M s0 s) : Same M s0 (State.mainEdge s d) := by
  unfold State.mainEdge
  refine Same.ite ?_ ?_
  · exact h
  · extract_lets -merge -underBinder +onlyGivenNames x1
    have hx1 : Same M s0 x1 := State.moveDirection_frame (.sub rfl hM) h
    extract_lets -merge -underBinder +onlyGivenNames x2
    have hx2 : Same M s0 x2 := by
      refine Same.ite ?_ ?_
      · exact State.openWindows_frame (.sub rfl hM) hx1
      · exact hx1
    exact State.settle_frame (.sub rfl hM) _ (State.leftForward_frame (.sub rfl hM) _ (State.followMain_frame (.sub rfl hM) hx2))

theorem State.encoderStep_frame {M : Nat} {s0 : State} (hM : Touch.le (.of [.regs, .hif, .pos, .fir, .urg, .twn, .pmc, .out]) M) {s : State} (k : Fin 8) (pair : BitVec 2) (h : Same M s0 s) : Same M s0 (State.encoderStep s k pair) := by
  unfold State.encoderStep
  extract_lets -merge -underBinder +onlyGivenNames x1
  split
  · exact State.modChannel_frame (.sub rfl hM) _ _ h
  · extract_lets -merge -underBinder +onlyGivenNames x2
    have hx2 : Same M s0 x2 := State.modChannel_frame (.sub rfl hM) _ _ h
    split
    · exact State.modChannel_frame (.sub rfl hM) _ _ hx2
    · extract_lets -merge -underBinder +onlyGivenNames x3
      refine Same.ite ?_ ?_
      · exact hx2
      · extract_lets -merge -underBinder +onlyGivenNames x4
        have hx4 : Same M s0 x4 := State.modChannel_frame (.sub rfl hM) _ _ hx2
        refine Same.ite ?_ ?_
        · exact State.mainEdge_frame (.sub rfl hM) _ hx4
        · exact hx4

theorem State.writeLpr_frame {M : Nat} {s0 : State} (hM : Touch.le (.of [.regs, .pos]) M) {s : State} (k : Fin 8) (v : Sys2Proof.Word) (h : Same M s0 s) : Same M s0 (State.writeLpr s k v) := by
  unfold State.writeLpr
  exact State.modChannel_frame (.sub rfl hM) _ _ (State.hostWrite_frame (.sub rfl hM) _ _ h)

theorem execStandstill_frame {M : Nat} {s0 : State} (hM : Touch.le (.of [.regs, .hif, .pos, .fir, .tim, .urg, .twn, .pmc, .now, .out]) M) (instant : Sys2Proof.ChannelInstant) {s : State} (h : Same M s0 s) : OSame M s0 (execStandstill instant s) := by
  unfold execStandstill
  refine OSame.next ?_
  extract_lets -merge -underBinder +onlyGivenNames x1
  have hx1 : Same M s0 x1 := State.advance_frame (.sub rfl hM) _ h
  extract_lets -merge -underBinder +onlyGivenNames x2
  refine Same.ite ?_ ?_
  · exact State.standStill_frame (.sub rfl hM) _ hx1
  · exact hx1

theorem execPosLprWrite_frame {M : Nat} {s0 : State} (hM : Touch.le (.of [.regs, .hif, .pos]) M) (k : Fin 8) (value : Sys2Proof.Word) {s : State} (h : Same M s0 s) : OSame M s0 (execPosLprWrite k value s) := by
  unfold execPosLprWrite
  refine OSame.next ?_
  refine State.onWrite_frame (.sub rfl hM) _ _ (fun _ h1 => ?_) ?_
  · exact State.writeLpr_frame (.sub rfl hM) _ _ h1
  · exact h

theorem State.closeStretch_frame {M : Nat} {s0 : State} (hM : Touch.le (.of [.pos]) M) {s : State} (k : Fin 8) (h : Same M s0 s) : Same M s0 (State.closeStretch s k) := by
  unfold State.closeStretch
  split
  · exact h
  · extract_lets -merge -underBinder +onlyGivenNames x1
    refine Same.ite ?_ ?_
    · exact State.modChannel_frame (.sub rfl hM) _ _ h
    · exact h

theorem execStretchWindowClose_frame {M : Nat} {s0 : State} (hM : Touch.le (.of [.pos]) M) {s : State} (h : Same M s0 s) : OSame M s0 (execStretchWindowClose s) := by
  unfold execStretchWindowClose
  refine OSame.next ?_
  refine Same.ite ?_ ?_
  · refine Same.foldl (fun _ _ h1 => ?_) ?_
    · exact State.closeStretch_frame (.sub rfl hM) _ h1
    · exact h
  · exact h

theorem execEncoderStep_frame {M : Nat} {s0 : State} (hM : Touch.le (.of [.regs, .hif, .pos, .fir, .tim, .urg, .twn, .pmc, .now, .out]) M) (k : Fin 8) (pins : Sys2Proof.EncoderPins) (at_ : Nat) {s : State} (h : Same M s0 s) : OSame M s0 (execEncoderStep k pins at_ s) := by
  unfold execEncoderStep
  refine OSame.next ?_
  extract_lets -merge -underBinder +onlyGivenNames x1
  have hx1 : Same M s0 x1 := State.advance_frame (.sub rfl hM) _ h
  refine Same.ite ?_ ?_
  · split
    · exact State.encoderStep_frame (.sub rfl hM) _ _ hx1
    · exact hx1
  · exact hx1

theorem execPosChannelEnable_frame {M : Nat} {s0 : State} (hM : Touch.le (.of [.regs, .hif, .pos]) M) (k : Fin 8) (value : Sys2Proof.Word) {s : State} (h : Same M s0 s) : OSame M s0 (execPosChannelEnable k value s) := by
  unfold execPosChannelEnable
  refine OSame.next ?_
  refine State.onWrite_frame (.sub rfl hM) _ _ (fun _ h1 => ?_) ?_
  · exact State.writeChCfg_frame (.sub rfl hM) _ _ h1
  · exact h

theorem execPosZEnWrite_frame {M : Nat} {s0 : State} (hM : Touch.le (.of [.regs, .hif, .pos]) M) (k : Fin 8) (value : Sys2Proof.Word) {s : State} (h : Same M s0 s) : OSame M s0 (execPosZEnWrite k value s) := by
  unfold execPosZEnWrite
  refine OSame.next ?_
  refine State.onWrite_frame (.sub rfl hM) _ _ (fun _ h1 => ?_) ?_
  · exact State.writeChCfg_frame (.sub rfl hM) _ _ h1
  · exact h

end Sys2Proof.Machine
end

