-- ==== Sys2Proof/Laws/FrameLinkCommands.lean ====
section
/-! SUPPORT. What the operations of Machine/LinkCommands.lean may change. -/

set_option Elab.async false

namespace Sys2Proof.Machine

theorem execAckFrameRx_frame {M : Nat} {s0 : State} (hM : Touch.le (.of [.regs, .hif, .dmc, .csm, .fir, .plk, .lop, .lck, .urg, .twn, .pmc, .dram, .tables, .draws, .out]) M) (link : Fin 32) (frame : Sys2Proof.LinkFrame) {s : State} (h : Same M s0 s) : OSame M s0 (execAckFrameRx link frame s) := by
  unfold execAckFrameRx
  refine OSame.next ?_
  split
  · exact State.ackIn_frame (.sub rfl hM) _ _ h
  · exact h

theorem execLinkCtrlDisable_frame {M : Nat} {s0 : State} (hM : Touch.le (.of [.regs, .hif, .dmc, .csm, .fir, .plk, .lop, .lck, .urg, .twn, .pmc, .dram, .tables, .draws, .out]) M) (ring : Fin 16) {s : State} (h : Same M s0 s) : OSame M s0 (execLinkCtrlDisable ring s) := by
  unfold execLinkCtrlDisable
  refine OSame.next ?_
  refine State.withEntry_frame (.sub rfl hM) _ _ (fun _ _ h1 => ?_) ?_
  · extract_lets -merge -underBinder +onlyGivenNames x2
    exact State.complete_frame (.sub rfl hM) _ _ _ (State.disableLink_frame (.sub rfl hM) _ (State.setField_frame (.sub rfl hM) _ _ _ _ h1))
  · exact h

theorem execT0Timeout_frame {M : Nat} {s0 : State} (hM : Touch.le (.of [.regs, .hif, .dmc, .csm, .fir, .plk, .lop, .lck, .urg, .twn, .pmc, .dram, .tables, .draws, .out]) M) (link : Fin 32) {s : State} (h : Same M s0 s) : OSame M s0 (execT0Timeout link s) := by
  unfold execT0Timeout
  refine OSame.next ?_
  refine Same.ite ?_ ?_
  · exact State.linkFault_frame (.sub rfl hM) _ _ h
  · exact h

theorem execLinkBackoffExpiry_frame {M : Nat} {s0 : State} (hM : Touch.le (.of [.regs, .rst, .pins, .clk, .hif, .mmu, .cpy, .dmc, .qdc, .scr, .csm, .pos, .fir, .plk, .cam, .lop, .lck, .tim, .urg, .twn, .thm, .pmc, .latch, .dram, .tables, .draws, .out]) M) (link : Fin 32) {s : State} (h : Same M s0 s) : OSame M s0 (execLinkBackoffExpiry link s) := by
  unfold execLinkBackoffExpiry
  refine OSame.next ?_
  refine Same.ite ?_ ?_
  · exact State.superviseReset_frame (.sub rfl hM) _ h
  · exact h

theorem execCapFrameRx_frame {M : Nat} {s0 : State} (hM : Touch.le (.of [.regs, .hif, .dmc, .csm, .fir, .plk, .lop, .lck, .urg, .twn, .pmc, .dram, .tables, .draws, .out]) M) (link : Fin 32) (frame : Sys2Proof.LinkFrame) {s : State} (h : Same M s0 s) : OSame M s0 (execCapFrameRx link frame s) := by
  unfold execCapFrameRx
  refine OSame.next ?_
  split
  · exact State.capIn_frame (.sub rfl hM) _ _ h
  · exact h

theorem execCfgBankUpload_frame {M : Nat} {s0 : State} (hM : Touch.le (.of [.plk, .out]) M) (link : Fin 32) {s : State} (h : Same M s0 s) : OSame M s0 (execCfgBankUpload link s) := by
  unfold execCfgBankUpload
  refine OSame.next ?_
  exact State.startUpload_frame (.sub rfl hM) _ h

theorem State.linkCtrl_frame {M : Touch} {s0 : State} (hM : Touch.le (.of [.hif, .pmc, .out]) M) {s : State} (ring : Fin 16) (action : Nat) (refuse : Link → Option Nat) {act : Fin 32 → State → State}
    (ha : ∀ n t, Same M s0 t → Same M s0 (act n t)) (h : Same M s0 s) : Same M s0 (s.linkCtrl ring action refuse act) := by
  unfold State.linkCtrl
  refine State.withEntry_frame (.sub rfl hM) _ _ (fun f t ht => ?_) h
  extract_lets n
  split
  · exact State.complete_frame (.sub rfl hM) _ _ _ ht
  · refine Same.ite (State.complete_frame (.sub rfl hM) _ _ _ ht) ?_
    split
    · exact State.complete_frame (.sub rfl hM) _ _ _ ht
    · exact State.complete_frame (.sub rfl hM) _ _ _ (ha _ _ ht)

theorem execLinkCtrlRetrain_frame {M : Nat} {s0 : State} (hM : Touch.le (.of [.regs, .rst, .pins, .clk, .hif, .mmu, .cpy, .dmc, .qdc, .scr, .csm, .pos, .fir, .plk, .cam, .lop, .lck, .tim, .urg, .twn, .thm, .pmc, .latch, .dram, .tables, .draws, .out]) M) (ring : Fin 16) {s : State} (h : Same M s0 s) : OSame M s0 (execLinkCtrlRetrain ring s) := by
  unfold execLinkCtrlRetrain
  refine OSame.next ?_
  refine State.linkCtrl_frame (.sub rfl hM) _ _ _ (fun _ _ h1 => ?_) ?_
  · refine Same.ite ?_ ?_
    · exact State.superviseReset_frame (.sub rfl hM) _ h1
    · exact State.startT0_frame (.sub rfl hM) _ h1
  · exact h

theorem execLinkCtrlTrain_frame {M : Nat} {s0 : State} (hM : Touch.le (.of [.regs, .rst, .pins, .clk, .hif, .mmu, .cpy, .dmc, .qdc, .scr, .csm, .pos, .fir, .plk, .cam, .lop, .lck, .tim, .urg, .twn, .thm, .pmc, .latch, .dram, .tables, .draws, .out]) M) (ring : Fin 16) {s : State} (h : Same M s0 s) : OSame M s0 (execLinkCtrlTrain ring s) := by
  unfold execLinkCtrlTrain
  refine OSame.next ?_
  refine State.linkCtrl_frame (.sub rfl hM) _ _ _ (fun _ _ h1 => ?_) ?_
  · extract_lets -merge -underBinder +onlyGivenNames x2
    have hx2 : Same M s0 x2 := State.setField_frame (.sub rfl hM) _ _ _ _ h1
    refine Same.ite ?_ ?_
    · exact State.superviseReset_frame (.sub rfl hM) _ hx2
    · exact State.bringUp_frame (.sub rfl hM) _ hx2
  · exact h

theorem State.sendIdle_frame {M : Nat} {s0 : State} (hM : Touch.le (.of [.out]) M) {s : State} (n : Fin 32) (h : Same M s0 s) : Same M s0 (State.sendIdle s n) := by
  unfold State.sendIdle
  exact State.sendBlock_frame (.sub rfl hM) _ _ _ h

theorem execSyncSend_frame {M : Nat} {s0 : State} (hM : Touch.le (.of [.plk, .out]) M) (link : Fin 32) (departure : BitVec 52) {s : State} (h : Same M s0 s) : OSame M s0 (execSyncSend link departure s) := by
  unfold execSyncSend
  refine OSame.next ?_
  refine Same.ite ?_ ?_
  · exact State.sendSync_frame (.sub rfl hM) _ _ h
  · exact h

theorem State.writePlkAuth_frame {M : Nat} {s0 : State} (hM : Touch.le (.of [.regs]) M) {s : State} (n : Fin 32) (v : Sys2Proof.Word) (h : Same M s0 s) : Same M s0 (State.writePlkAuth s n v) := by
  unfold State.writePlkAuth
  exact State.hostWrite_frame (.sub rfl hM) _ _ h

theorem State.takeStatus_frame {M : Nat} {s0 : State} (hM : Touch.le (.of [.regs, .rst, .pins, .clk, .hif, .mmu, .cpy, .dmc, .qdc, .scr, .csm, .pos, .fir, .plk, .cam, .lop, .lck, .tim, .urg, .twn, .thm, .pmc, .latch, .dram, .tables, .draws, .out]) M) {s : State} (n : Fin 32) (status : BitVec 56) (h : Same M s0 s) : Same M s0 (State.takeStatus s n status) := by
  unfold State.takeStatus
  extract_lets -merge -underBinder +onlyGivenNames x1
  have hx1 : Same M s0 x1 := State.statusIn_frame (.sub rfl hM) _ _ h
  refine Same.ite ?_ ?_
  · exact State.twinFails_frame (.sub rfl hM) _ hx1
  · exact hx1

theorem execAuthTimeout_frame {M : Nat} {s0 : State} (hM : Touch.le (.of [.regs, .hif, .dmc, .csm, .fir, .plk, .lop, .lck, .urg, .twn, .pmc, .dram, .tables, .draws, .out]) M) (link : Fin 32) {s : State} (h : Same M s0 s) : OSame M s0 (execAuthTimeout link s) := by
  unfold execAuthTimeout
  refine OSame.next ?_
  refine Same.ite ?_ ?_
  · exact State.linkFault_frame (.sub rfl hM) _ _ (State.modLink_frame (.sub rfl hM) _ _ h)
  · exact h

theorem execPrbsPhaseEnd_frame {M : Nat} {s0 : State} (hM : Touch.le (.of [.plk, .out]) M) (link : Fin 32) (errors : Nat) {s : State} (h : Same M s0 s) : OSame M s0 (execPrbsPhaseEnd link errors s) := by
  unfold execPrbsPhaseEnd
  refine OSame.next ?_
  refine Same.ite ?_ ?_
  · exact State.sendIdle_frame (.sub rfl hM) _ (State.modLink_frame (.sub rfl hM) _ _ h)
  · exact h

theorem execStatusRx_frame {M : Nat} {s0 : State} (hM : Touch.le (.of [.regs, .rst, .pins, .clk, .hif, .mmu, .cpy, .dmc, .qdc, .scr, .csm, .pos, .fir, .plk, .cam, .lop, .lck, .tim, .urg, .twn, .thm, .pmc, .latch, .dram, .tables, .draws, .out]) M) (link : Fin 32) (block : BitVec 64) {s : State} (h : Same M s0 s) : OSame M s0 (execStatusRx link block s) := by
  unfold execStatusRx
  refine OSame.next ?_
  refine Same.ite ?_ ?_
  · refine Same.ite ?_ ?_
    · exact State.takeStatus_frame (.sub rfl hM) _ _ h
    · refine Same.ite ?_ ?_
      · exact h
      · exact State.modLink_frame (.sub rfl hM) _ _ h
  · exact h

theorem execBlockLockLoss_frame {M : Nat} {s0 : State} (hM : Touch.le (.of [.regs, .hif, .dmc, .csm, .fir, .plk, .lop, .lck, .urg, .twn, .pmc, .dram, .tables, .draws, .out]) M) (taken : Sys2Proof.LinkHeaders) {s : State} (h : Same M s0 s) : OSame M s0 (execBlockLockLoss taken s) := by
  unfold execBlockLockLoss
  refine OSame.next ?_
  extract_lets -merge -underBinder +onlyGivenNames x1
  refine Same.ite ?_ ?_
  · exact State.linkFault_frame (.sub rfl hM) _ _ (State.modLink_frame (.sub rfl hM) _ _ h)
  · exact h

theorem execAuthResponseRx_frame {M : Nat} {s0 : State} (hM : Touch.le (.of [.regs, .hif, .dmc, .csm, .fir, .plk, .lop, .lck, .urg, .twn, .pmc, .dram, .tables, .draws, .out]) M) (link : Fin 32) (kind : BitVec 4) (index : BitVec 4) (bytes : BitVec 48) {s : State} (h : Same M s0 s) : OSame M s0 (execAuthResponseRx link kind index bytes s) := by
  unfold execAuthResponseRx
  refine OSame.next ?_
  exact State.authIn_frame (.sub rfl hM) _ _ _ _ h

theorem State.writePlkCfg_frame {M : Nat} {s0 : State} (hM : Touch.le (.of [.regs, .hif, .dmc, .csm, .fir, .plk, .lop, .lck, .urg, .twn, .pmc, .dram, .tables, .draws, .out]) M) {s : State} (n : Fin 32) (v : Sys2Proof.Word) (h : Same M s0 s) : Same M s0 (State.writePlkCfg s n v) := by
  unfold State.writePlkCfg
  extract_lets -merge -underBinder +onlyGivenNames x1
  have hx1 : Same M s0 x1 := State.hostWrite_frame (.sub rfl hM) _ _ h
  refine Same.ite ?_ ?_
  · exact State.bringUp_frame (.sub rfl hM) _ hx1
  · exact State.disableLink_frame (.sub rfl hM) _ hx1

theorem execPlkEnableWrite_frame {M : Nat} {s0 : State} (hM : Touch.le (.of [.regs, .hif, .dmc, .csm, .fir, .plk, .lop, .lck, .urg, .twn, .pmc, .dram, .tables, .draws, .out]) M) (link : Fin 32) (value : Sys2Proof.Word) {s : State} (h : Same M s0 s) : OSame M s0 (execPlkEnableWrite link value s) := by
  unfold execPlkEnableWrite
  refine OSame.next ?_
  refine State.onWrite_frame (.sub rfl hM) _ _ (fun _ h1 => ?_) ?_
  · exact State.writePlkCfg_frame (.sub rfl hM) _ _ h1
  · exact h

theorem execLinkCtrlPrbsStop_frame {M : Nat} {s0 : State} (hM : Touch.le (.of [.regs, .hif, .dmc, .csm, .fir, .plk, .lop, .lck, .urg, .twn, .pmc, .dram, .tables, .draws, .out]) M) (ring : Fin 16) {s : State} (h : Same M s0 s) : OSame M s0 (execLinkCtrlPrbsStop ring s) := by
  unfold execLinkCtrlPrbsStop
  refine OSame.next ?_
  refine State.linkCtrl_frame (.sub rfl hM) _ _ _ (fun _ _ h1 => ?_) ?_
  · extract_lets -merge -underBinder +onlyGivenNames x2
    exact State.enterEcho_frame (.sub rfl hM) _ (State.sendIdle_frame (.sub rfl hM) _ (State.modLink_frame (.sub rfl hM) _ _ (State.draw_frame (.sub rfl hM) h1)))
  · exact h

theorem execLockTimeout_frame {M : Nat} {s0 : State} (hM : Touch.le (.of [.regs, .hif, .dmc, .csm, .fir, .plk, .lop, .lck, .urg, .twn, .pmc, .dram, .tables, .draws, .out]) M) (link : Fin 32) {s : State} (h : Same M s0 s) : OSame M s0 (execLockTimeout link s) := by
  unfold execLockTimeout
  refine OSame.next ?_
  exact State.lockFail_frame (.sub rfl hM) _ h

theorem execEchoReplyRx_frame {M : Nat} {s0 : State} (hM : Touch.le (.of [.regs, .hif, .dmc, .csm, .fir, .plk, .lop, .lck, .urg, .twn, .pmc, .dram, .tables, .draws, .out]) M) (link : Fin 32) (id : BitVec 8) (turn : BitVec 24) (r1 : BitVec 24) (arrival : BitVec 52) {s : State} (h : Same M s0 s) : OSame M s0 (execEchoReplyRx link id turn r1 arrival s) := by
  unfold execEchoReplyRx
  refine OSame.next ?_
  exact State.echoIn_frame (.sub rfl hM) _ _ _ _ _ h

theorem execStatusTimeout_frame {M : Nat} {s0 : State} (hM : Touch.le (.of [.regs, .hif, .dmc, .csm, .fir, .plk, .lop, .lck, .urg, .twn, .pmc, .dram, .tables, .draws, .out]) M) (link : Fin 32) {s : State} (h : Same M s0 s) : OSame M s0 (execStatusTimeout link s) := by
  unfold execStatusTimeout
  refine OSame.next ?_
  split
  · refine Same.ite ?_ ?_
    · exact State.linkFault_frame (.sub rfl hM) _ _ h
    · exact h
  · exact State.linkFault_frame (.sub rfl hM) _ _ h
  · exact h

theorem execEchoSend_frame {M : Nat} {s0 : State} (hM : Touch.le (.of [.plk, .out]) M) (link : Fin 32) (departure : BitVec 52) {s : State} (h : Same M s0 s) : OSame M s0 (execEchoSend link departure s) := by
  unfold execEchoSend
  refine OSame.next ?_
  refine Same.ite ?_ ?_
  · exact State.sendEcho_frame (.sub rfl hM) _ _ h
  · exact h

theorem execEchoPhaseTimeout_frame {M : Nat} {s0 : State} (hM : Touch.le (.of [.regs, .hif, .dmc, .csm, .fir, .plk, .lop, .lck, .urg, .twn, .pmc, .dram, .tables, .draws, .out]) M) (link : Fin 32) {s : State} (h : Same M s0 s) : OSame M s0 (execEchoPhaseTimeout link s) := by
  unfold execEchoPhaseTimeout
  refine OSame.next ?_
  split
  · exact State.linkFault_frame (.sub rfl hM) _ _ h
  · exact State.linkFault_frame (.sub rfl hM) _ _ h
  · exact h

theorem execLinkCtrlAuthenticate_frame {M : Nat} {s0 : State} (hM : Touch.le (.of [.hif, .plk, .pmc, .draws, .out]) M) (ring : Fin 16) {s : State} (h : Same M s0 s) : OSame M s0 (execLinkCtrlAuthenticate ring s) := by
  unfold execLinkCtrlAuthenticate
  refine OSame.next ?_
  refine State.linkCtrl_frame (.sub rfl hM) _ _ _ (fun _ _ h1 => ?_) ?_
  · refine Same.ite ?_ ?_
    · exact h1
    · exact State.sendChallenge_frame (.sub rfl hM) _ h1
  · exact h

theorem execLinkCtrlPrbsStart_frame {M : Nat} {s0 : State} (hM : Touch.le (.of [.regs, .hif, .dmc, .csm, .fir, .plk, .lop, .lck, .urg, .twn, .pmc, .dram, .tables, .draws, .out]) M) (ring : Fin 16) {s : State} (h : Same M s0 s) : OSame M s0 (execLinkCtrlPrbsStart ring s) := by
  unfold execLinkCtrlPrbsStart
  refine OSame.next ?_
  refine State.linkCtrl_frame (.sub rfl hM) _ _ _ (fun _ _ h1 => ?_) ?_
  · exact State.startPrbs_frame (.sub rfl hM) _ _ h1
  · exact h

theorem execLinkResetExpiry_frame {M : Nat} {s0 : State} (hM : Touch.le (.of [.regs, .rst, .hif, .dmc, .csm, .fir, .plk, .lop, .lck, .urg, .twn, .pmc, .dram, .tables, .draws, .out]) M) (link : Fin 32) {s : State} (h : Same M s0 s) : OSame M s0 (execLinkResetExpiry link s) := by
  unfold execLinkResetExpiry
  refine OSame.next ?_
  refine Same.ite ?_ ?_
  · extract_lets -merge -underBinder +onlyGivenNames z_1 x2
    have hx2 : Same M s0 x2 := Same.upd h (rst := .inl (.sub rfl hM))
    refine Same.ite ?_ ?_
    · exact hx2
    · refine State.bringUp_frame (.sub rfl hM) _ ?_
      exact Same.upd hx2 (rst := .inl (.sub rfl hM))
  · exact h

theorem execEchoReplyTimeout_frame {M : Nat} {s0 : State} (hM : Touch.le (.of [.plk]) M) (link : Fin 32) (id : BitVec 8) {s : State} (h : Same M s0 s) : OSame M s0 (execEchoReplyTimeout link id s) := by
  unfold execEchoReplyTimeout
  refine OSame.next ?_
  exact State.modLink_frame (.sub rfl hM) _ _ h

theorem execBlockLockAcquire_frame {M : Nat} {s0 : State} (hM : Touch.le (.of [.regs, .hif, .dmc, .csm, .fir, .plk, .lop, .lck, .urg, .twn, .pmc, .dram, .tables, .draws, .out]) M) (taken : Sys2Proof.LinkHeaders) {s : State} (h : Same M s0 s) : OSame M s0 (execBlockLockAcquire taken s) := by
  unfold execBlockLockAcquire
  refine OSame.next ?_
  refine Same.ite ?_ ?_
  · exact State.lockIn_frame (.sub rfl hM) _ h
  · exact h

theorem execCfgConfirmTimeout_frame {M : Nat} {s0 : State} (hM : Touch.le (.of [.regs, .hif, .dmc, .csm, .fir, .plk, .lop, .lck, .urg, .twn, .pmc, .dram, .tables, .draws, .out]) M) (link : Fin 32) {s : State} (h : Same M s0 s) : OSame M s0 (execCfgConfirmTimeout link s) := by
  unfold execCfgConfirmTimeout
  refine OSame.next ?_
  split
  · exact h
  · refine Same.ite ?_ ?_
    · exact State.linkFault_frame (.sub rfl hM) _ _ h
    · exact h

end Sys2Proof.Machine
end

