-- ==== Sys2Proof/Laws/FrameTwinOps.lean ====
section
/-! SUPPORT. What the operations of Machine/TwinOps.lean may change. -/

set_option Elab.async false

namespace Sys2Proof.Machine

theorem State.joinCheck_frame {M : Nat} {s0 : State} (hM : Touch.le (.of [.twn]) M) {s : State} (h : Same M s0 s) : Same M s0 (State.joinCheck s) := by
  unfold State.joinCheck
  extract_lets -merge -underBinder +onlyGivenNames x1
  refine Same.ite ?_ ?_
  · exact Same.upd h (twn := .inl (.sub rfl hM))
  · exact h

theorem State.unblock_frame {M : Nat} {s0 : State} (hM : Touch.le (.of [.regs, .hif, .dmc, .scr, .csm, .fir, .plk, .lop, .lck, .urg, .twn, .pmc, .dram, .tables, .draws, .out]) M) {s : State} (h : Same M s0 s) : Same M s0 (State.unblock s) := by
  unfold State.unblock
  extract_lets -merge -underBinder +onlyGivenNames x1
  extract_lets -merge -underBinder +onlyGivenNames z_2 x3
  have hx3 : Same M s0 x3 := Same.upd h (twn := .inl (.sub rfl hM))
  exact State.stopPlanes_frame (.sub rfl hM) _ _ (State.stopPlanes_frame (.sub rfl hM) _ _ (State.stopPlanes_frame (.sub rfl hM) _ _ (State.stopPlanes_frame (.sub rfl hM) _ _ hx3)))

theorem State.idleAll_frame {M : Nat} {s0 : State} (hM : Touch.le (.of [.out]) M) {s : State} (h : Same M s0 s) : Same M s0 (State.idleAll s) := by
  unfold State.idleAll
  refine Same.foldl (fun _ _ h1 => ?_) ?_
  · refine Same.ite ?_ ?_
    · exact State.sendIdle_frame (.sub rfl hM) _ h1
    · exact h1
  · exact h

theorem State.takeOver_frame {M : Nat} {s0 : State} (hM : Touch.le (.of [.regs, .hif, .dmc, .scr, .csm, .fir, .plk, .lop, .lck, .urg, .twn, .pmc, .dram, .tables, .draws, .out]) M) {s : State} (first : Vector Nat 8) (h : Same M s0 s) : Same M s0 (State.takeOver s first) := by
  unfold State.takeOver
  extract_lets -merge -underBinder +onlyGivenNames x1
  extract_lets -merge -underBinder +onlyGivenNames x2
  extract_lets -merge -underBinder +onlyGivenNames z_3 z_4 z_5 x6
  have hx6 : Same M s0 x6 := Same.upd h (fir := .inl (.sub rfl hM)) (urg := .inl (.sub rfl hM)) (twn := .inl (.sub rfl hM))
  extract_lets -merge -underBinder +onlyGivenNames x8
  have hx8 : Same M s0 x8 := State.unblock_frame (.sub rfl hM) (State.clearCause_frame (.sub rfl hM) _ _ (State.idleAll_frame (.sub rfl hM) (State.twinSend_frame (.sub rfl hM) _ hx6)))
  refine State.settle_frame (.sub rfl hM) _ ?_
  refine Same.foldl (fun _ _ h9 => ?_) ?_
  · exact State.loopsOff_frame (.sub rfl hM) _ h9
  · exact hx8

theorem State.twinDisagree_frame {M : Nat} {s0 : State} (hM : Touch.le (.of [.regs, .hif, .twn, .pmc, .out]) M) {s : State} (p : Fin 8) (n : Nat) (k : Fin 32) (h : Same M s0 s) : Same M s0 (State.twinDisagree s p n k) := by
  unfold State.twinDisagree
  refine Same.ite ?_ ?_
  · exact h
  · refine State.log_frame (.sub rfl hM) _ _ _ _ ?_
    exact Same.upd h (twn := .inl (.sub rfl hM))

theorem State.judge_frame {M : Nat} {s0 : State} (hM : Touch.le (.of [.regs, .rst, .pins, .clk, .hif, .mmu, .cpy, .dmc, .qdc, .scr, .csm, .pos, .fir, .plk, .cam, .lop, .lck, .tim, .urg, .twn, .thm, .pmc, .latch, .dram, .tables, .draws, .out]) M) {s : State} (own : Sig) (peer : Sig) (ks : List (Fin 32)) (h : Same M s0 s) : Same M s0 (State.judge s own peer ks) := by
  unfold State.judge
  extract_lets -merge -underBinder +onlyGivenNames x1
  split
  · refine Same.ite ?_ ?_
    · exact State.twinFails_frame (.sub rfl hM) _ h
    · exact State.takeOver_frame (.sub rfl hM) _ h
  · refine Same.ite ?_ ?_
    · exact h
    · exact State.twinFails_frame (.sub rfl hM) _ h
  · refine Same.foldl (fun _ _ h2 => ?_) ?_
    · exact State.twinDisagree_frame (.sub rfl hM) _ _ _ h2
    · exact Same.upd h (twn := .inl (.sub rfl hM))

theorem State.compareSig_frame {M : Nat} {s0 : State} (hM : Touch.le (.of [.regs, .rst, .pins, .clk, .hif, .mmu, .cpy, .dmc, .qdc, .scr, .csm, .pos, .fir, .plk, .cam, .lop, .lck, .tim, .urg, .twn, .thm, .pmc, .latch, .dram, .tables, .draws, .out]) M) {s : State} (own : Sig) (peer : Sig) (h : Same M s0 s) : Same M s0 (State.compareSig s own peer) := by
  unfold State.compareSig
  extract_lets -merge -underBinder +onlyGivenNames x1
  refine Same.ite ?_ ?_
  · exact h
  · split
    · exact State.joinCheck_frame (.sub rfl hM) (State.modTwin_frame (.sub rfl hM) _ _ h)
    · extract_lets -merge -underBinder +onlyGivenNames x2
      have hx2 : Same M s0 x2 := State.modTwin_frame (.sub rfl hM) _ _ h
      refine Same.ite ?_ ?_
      · exact hx2
      · exact State.judge_frame (.sub rfl hM) _ _ _ hx2

theorem State.closeSig_frame {M : Nat} {s0 : State} (hM : Touch.le (.of [.regs, .rst, .pins, .clk, .hif, .mmu, .cpy, .dmc, .qdc, .scr, .csm, .pos, .fir, .plk, .cam, .lop, .lck, .tim, .urg, .twn, .thm, .pmc, .latch, .dram, .tables, .draws, .out]) M) {s : State} (p : Fin 8) (n : Nat) (h : Same M s0 s) : Same M s0 (State.closeSig s p n) := by
  unfold State.closeSig
  split
  · exact h
  · extract_lets -merge -underBinder +onlyGivenNames z_1 x2
    have hx2 : Same M s0 x2 := by
      refine State.twinSend_frame (.sub rfl hM) _ ?_
      exact Same.upd h (twn := .inl (.sub rfl hM))
    split
    · refine State.compareSig_frame (.sub rfl hM) _ _ ?_
      exact Same.upd hx2 (twn := .inl (.sub rfl hM))
    · exact Same.upd hx2 (twn := .inl (.sub rfl hM))

theorem State.swapCheck_frame {M : Nat} {s0 : State} (hM : Touch.le (.of [.hif, .twn, .pmc, .out]) M) {s : State} (h : Same M s0 s) : Same M s0 (State.swapCheck s) := by
  unfold State.swapCheck
  split
  · exact h
  · extract_lets -merge -underBinder +onlyGivenNames x1
    extract_lets -merge -underBinder +onlyGivenNames x2
    extract_lets -merge -underBinder +onlyGivenNames z_3 x4
    have hx4 : Same M s0 x4 := by
      refine Same.ite ?_ ?_
      · refine State.idleAll_frame (.sub rfl hM) ?_
        exact Same.upd h (twn := .inl (.sub rfl hM))
      · exact h
    refine Same.ite ?_ ?_
    · refine State.complete_frame (.sub rfl hM) _ _ _ ?_
      exact Same.upd hx4 (twn := .inl (.sub rfl hM))
    · exact hx4

theorem State.signLine_frame {M : Nat} {s0 : State} (hM : Touch.le (.of [.twn]) M) {s : State} (p : Fin 8) (n : Nat) (k : Fin 32) (crc : BitVec 32) (h : Same M s0 s) : Same M s0 (State.signLine s p n k crc) := by
  unfold State.signLine
  exact Same.upd h (twn := .inl (.sub rfl hM))

end Sys2Proof.Machine
end

