-- ==== Sys2Proof/Laws/FrameFireCommands.lean ====
section
/-! SUPPORT. What the operations of Machine/FireCommands.lean may change. -/

set_option Elab.async false

namespace Sys2Proof.Machine

theorem State.writeFirCtrl_frame {M : Nat} {s0 : State} (hM : Touch.le (.of [.regs, .hif, .dmc, .scr, .csm, .fir, .plk, .lop, .lck, .urg, .twn, .pmc, .dram, .tables, .draws, .out]) M) {s : State} (v : Sys2Proof.Word) (h : Same M s0 s) : Same M s0 (State.writeFirCtrl s v) := by
  unfold State.writeFirCtrl
  extract_lets -merge -underBinder +onlyGivenNames x1
  extract_lets -merge -underBinder +onlyGivenNames z_2 x3
  have hx3 : Same M s0 x3 := Same.upd h (fir := .inl (.sub rfl hM))
  extract_lets -merge -underBinder +onlyGivenNames x5
  have hx5 : Same M s0 x5 := State.clearCause_frame (.sub rfl hM) _ _ (State.assertCause_frame (.sub rfl hM) _ _ hx3)
  refine State.settle_frame (.sub rfl hM) _ ?_
  refine Same.foldl (fun _ _ h6 => ?_) ?_
  · exact State.resumeForward_frame (.sub rfl hM) _ h6
  · exact hx5

theorem execFirCtrlStopWrite_frame {M : Nat} {s0 : State} (hM : Touch.le (.of [.regs, .hif, .dmc, .scr, .csm, .fir, .plk, .lop, .lck, .urg, .twn, .pmc, .dram, .tables, .draws, .out]) M) (value : Sys2Proof.Word) {s : State} (h : Same M s0 s) : OSame M s0 (execFirCtrlStopWrite value s) := by
  unfold execFirCtrlStopWrite
  refine OSame.next ?_
  refine State.onWrite_frame (.sub rfl hM) _ _ (fun _ h1 => ?_) ?_
  · exact State.writeFirCtrl_frame (.sub rfl hM) _ h1
  · exact h

theorem execJobClose_frame {M : Nat} {s0 : State} (hM : Touch.le (.of [.regs, .hif, .dmc, .qdc, .csm, .fir, .plk, .lop, .lck, .urg, .twn, .pmc, .dram, .tables, .draws, .out]) M) (ring : Fin 16) {s : State} (h : Same M s0 s) : OSame M s0 (execJobClose ring s) := by
  unfold execJobClose
  refine OSame.next ?_
  refine State.withEntryAt_frame (.sub rfl hM) _ _ _ (fun _ _ h1 => ?_) ?_
  · extract_lets -merge -underBinder +onlyGivenNames x2
    have hx2 : Same M s0 x2 := by
      refine Same.foldl (fun _ _ h3 => ?_) ?_
      · exact State.closePlane_frame (.sub rfl hM) _ _ _ h3
      · exact State.waitFlight_frame (.sub rfl hM) _ h1
    exact State.settle_frame (.sub rfl hM) _ (State.closeDone_frame (.sub rfl hM) _ hx2)
  · exact h

theorem execLineCommit_frame {M : Nat} {s0 : State} (hM : Touch.le (.of [.regs, .hif, .dmc, .scr, .csm, .fir, .plk, .lop, .lck, .tim, .urg, .twn, .pmc, .dram, .tables, .now, .draws, .out]) M) (plane : Fin 8) (at_ : Nat) {s : State} (h : Same M s0 s) : OSame M s0 (execLineCommit plane at_ s) := by
  unfold execLineCommit
  refine OSame.next ?_
  extract_lets -merge -underBinder +onlyGivenNames x1
  have hx1 : Same M s0 x1 := State.advance_frame (.sub rfl hM) _ h
  exact State.settle_frame (.sub rfl hM) _ (State.commitDue_frame (.sub rfl hM) _ hx1)

theorem execFirNowDiscipline_frame {M : Nat} {s0 : State} (hM : Touch.le (.of [.fir, .tim, .pmc, .now]) M) (at_ : Nat) {s : State} (h : Same M s0 s) : OSame M s0 (execFirNowDiscipline at_ s) := by
  unfold execFirNowDiscipline
  refine OSame.next ?_
  extract_lets -merge -underBinder +onlyGivenNames x1
  have hx1 : Same M s0 x1 := State.advance_frame (.sub rfl hM) _ h
  refine Same.ite ?_ ?_
  · refine Same.ite ?_ ?_
    · exact State.realignFir_frame (.sub rfl hM) hx1
    · exact State.disciplineFir_frame (.sub rfl hM) hx1
  · exact hx1

theorem execLineLaunch_frame {M : Nat} {s0 : State} (hM : Touch.le (.of [.regs, .hif, .dmc, .scr, .csm, .fir, .plk, .lop, .lck, .tim, .urg, .twn, .pmc, .dram, .tables, .now, .draws, .out]) M) (plane : Fin 8) (at_ : Nat) {s : State} (h : Same M s0 s) : OSame M s0 (execLineLaunch plane at_ s) := by
  unfold execLineLaunch
  refine OSame.next ?_
  extract_lets -merge -underBinder +onlyGivenNames x1
  have hx1 : Same M s0 x1 := State.advance_frame (.sub rfl hM) _ h
  exact State.swapCheck_frame (.sub rfl hM) (State.settle_frame (.sub rfl hM) _ (State.launchDue_frame (.sub rfl hM) _ hx1))

theorem execJobOpen_frame {M : Nat} {s0 : State} (hM : Touch.le (.of [.regs, .hif, .dmc, .qdc, .scr, .csm, .fir, .plk, .cam, .lop, .lck, .urg, .twn, .pmc, .dram, .tables, .draws, .out]) M) (ring : Fin 16) {s : State} (h : Same M s0 s) : OSame M s0 (execJobOpen ring s) := by
  unfold execJobOpen
  refine OSame.next ?_
  refine State.withEntryAt_frame (.sub rfl hM) _ _ _ (fun _ _ h1 => ?_) ?_
  · exact State.complete_frame (.sub rfl hM) _ _ _ (State.openPlanes_frame (.sub rfl hM) _ _ h1)
  · exact h

theorem execFirCtrlResumeFwd_frame {M : Nat} {s0 : State} (hM : Touch.le (.of [.regs, .hif, .dmc, .scr, .csm, .fir, .plk, .lop, .lck, .urg, .twn, .pmc, .dram, .tables, .draws, .out]) M) (value : Sys2Proof.Word) {s : State} (h : Same M s0 s) : OSame M s0 (execFirCtrlResumeFwd value s) := by
  unfold execFirCtrlResumeFwd
  refine OSame.next ?_
  refine State.onWrite_frame (.sub rfl hM) _ _ (fun _ h1 => ?_) ?_
  · exact State.writeFirCtrl_frame (.sub rfl hM) _ h1
  · exact h

end Sys2Proof.Machine
end

