-- ==== Sys2Proof/Laws/FrameScreening.lean ====
section
/-! SUPPORT. What the operations of Machine/Screening.lean may change. -/

set_option Elab.async false

namespace Sys2Proof.Machine

theorem State.useChambers_frame {M : Nat} {s0 : State} (hM : Touch.le (.of [.lck]) M) {s : State} (p : Fin 8) (n : Nat) (h : Same M s0 s) : Same M s0 (State.useChambers s p n) := by
  unfold State.useChambers
  refine Same.foldl (fun _ _ h1 => ?_) ?_
  · extract_lets -merge -underBinder +onlyGivenNames x2
    split
    · refine Same.ite ?_ ?_
      · exact State.modChamber_frame (.sub rfl hM) _ _ h1
      · exact h1
    · exact h1
  · exact h

theorem State.markWritten_frame {M : Nat} {s0 : State} (hM : Touch.le (.of [.scr]) M) {s : State} (p : Fin 8) (n : Nat) (src : LineSource) (issued : Bool) (h : Same M s0 s) : Same M s0 (State.markWritten s p n src issued) := by
  unfold State.markWritten
  extract_lets -merge -underBinder +onlyGivenNames x1
  extract_lets -merge -underBinder +onlyGivenNames x2
  exact Same.upd h (scr := .inl (.sub rfl hM))

theorem State.readSource_frame {M : Nat} {s0 : State} (hM : Touch.le (.of [.mmu, .dmc, .qdc, .twn, .pmc, .draws, .out]) M) {s : State} (src : LineSource) (n : Nat) (h : Same M s0 s) : Same M s0 (State.readSource s src n) := by
  unfold State.readSource
  split
  · exact h
  · split
    · split
      · refine Same.ite ?_ ?_
        · exact State.decodeTo_frame (.sub rfl hM) _ _ h
        · exact h
      · exact h
    · exact h

theorem State.writeSlotUnit_frame {M : Nat} {s0 : State} (hM : Touch.le (.of [.dmc, .scr, .twn, .pmc, .dram, .draws, .out]) M) {s : State} (b : Nat) (a : Nat) (u : Nat) (lv : Nat → Option Nat) (h : Same M s0 s) : Same M s0 (State.writeSlotUnit s b a u lv) := by
  unfold State.writeSlotUnit
  extract_lets -merge -underBinder +onlyGivenNames x1
  refine Same.ite ?_ ?_
  · exact h
  · extract_lets -merge -underBinder +onlyGivenNames x2
    extract_lets -merge -underBinder +onlyGivenNames x3
    extract_lets -merge -underBinder +onlyGivenNames x4
    extract_lets -merge -underBinder +onlyGivenNames x5
    extract_lets -merge -underBinder +onlyGivenNames x6
    have hx6 : Same M s0 x6 := State.dramPutUnit_frame (.sub rfl hM) _ _ _ _ h
    extract_lets -merge -underBinder +onlyGivenNames z_7 x8
    have hx8 : Same M s0 x8 := by
      refine Same.ite ?_ ?_
      · exact Same.upd hx6 (scr := .inl (.sub rfl hM))
      · exact hx6
    refine Same.ite ?_ ?_
    · exact State.spoilUnit_frame (.sub rfl hM) _ (State.recordUe_frame (.sub rfl hM) _ _ hx8)
    · exact hx8

theorem State.writeSlot_frame {M : Nat} {s0 : State} (hM : Touch.le (.of [.dmc, .scr, .twn, .pmc, .dram, .draws, .out]) M) {s : State} (p : Fin 8) (n : Nat) (ws : List (Nat × Nat)) (h : Same M s0 s) : Same M s0 (State.writeSlot s p n ws) := by
  unfold State.writeSlot
  extract_lets -merge -underBinder +onlyGivenNames x1
  refine Same.foldl (fun _ _ h2 => ?_) ?_
  · exact State.writeSlotUnit_frame (.sub rfl hM) _ _ _ _ h2
  · exact h

theorem State.writeLine_frame {M : Nat} {s0 : State} (hM : Touch.le (.of [.dmc, .scr, .fir, .lck, .urg, .twn, .pmc, .dram, .draws, .out]) M) {s : State} (p : Fin 8) (n : Nat) (x : Source) (ws : List (Nat × Nat)) (h : Same M s0 s) : Same M s0 (State.writeLine s p n x ws) := by
  unfold State.writeLine
  extract_lets -merge -underBinder +onlyGivenNames x1
  extract_lets -merge -underBinder +onlyGivenNames x2
  extract_lets -merge -underBinder +onlyGivenNames x3
  extract_lets -merge -underBinder +onlyGivenNames x4
  have hx4 : Same M s0 x4 := by
    refine Same.ite ?_ ?_
    · exact h
    · exact State.useChambers_frame (.sub rfl hM) _ _ (State.writeSlot_frame (.sub rfl hM) _ _ _ h)
  extract_lets -merge -underBinder +onlyGivenNames z_5 x6
  have hx6 : Same M s0 x6 := by
    refine State.countEvent_frame (.sub rfl hM) _ _ _ ?_
    exact Same.upd hx4 (scr := .inl (.sub rfl hM))
  exact State.settle_frame (.sub rfl hM) _ (State.advanceReady_frame (.sub rfl hM) _ (State.markWritten_frame (.sub rfl hM) _ _ _ _ hx6))

theorem execScreenLineWrite_frame {M : Nat} {s0 : State} (hM : Touch.le (.of [.mmu, .dmc, .qdc, .scr, .fir, .lck, .urg, .twn, .pmc, .dram, .draws, .out]) M) (plane : Fin 8) (line : Nat) (source : LineSource) {s : State} (h : Same M s0 s) : OSame M s0 (execScreenLineWrite plane line source s) := by
  unfold execScreenLineWrite
  refine OSame.next ?_
  refine Same.ite ?_ ?_
  · extract_lets -merge -underBinder +onlyGivenNames x1
    have hx1 : Same M s0 x1 := State.readSource_frame (.sub rfl hM) _ _ h
    split
    · exact h
    · refine Same.ite ?_ ?_
      · exact h
      · split
        · exact State.writeLine_frame (.sub rfl hM) _ _ _ _ hx1
        · exact hx1
  · exact h

theorem State.writeScrCfg_frame {M : Nat} {s0 : State} (hM : Touch.le (.of [.regs, .hif, .dmc, .csm, .fir, .plk, .lop, .lck, .urg, .twn, .pmc, .dram, .tables, .draws, .out]) M) {s : State} (v : Sys2Proof.Word) (h : Same M s0 s) : Same M s0 (State.writeScrCfg s v) := by
  unfold State.writeScrCfg
  extract_lets -merge -underBinder +onlyGivenNames x1
  have hx1 : Same M s0 x1 := State.hostWrite_frame (.sub rfl hM) _ _ h
  refine Same.ite ?_ ?_
  · exact hx1
  · refine Same.foldl (fun _ _ h2 => ?_) ?_
    · exact State.linkFault_frame (.sub rfl hM) _ _ h2
    · exact hx1

theorem execScrCfgBitsWrite_frame {M : Nat} {s0 : State} (hM : Touch.le (.of [.regs, .hif, .dmc, .csm, .fir, .plk, .lop, .lck, .urg, .twn, .pmc, .dram, .tables, .draws, .out]) M) (value : Sys2Proof.Word) {s : State} (h : Same M s0 s) : OSame M s0 (execScrCfgBitsWrite value s) := by
  unfold execScrCfgBitsWrite
  refine OSame.next ?_
  refine State.onWrite_frame (.sub rfl hM) _ _ (fun _ h1 => ?_) ?_
  · exact State.writeScrCfg_frame (.sub rfl hM) _ h1
  · exact h

end Sys2Proof.Machine
end

