-- ==== Sys2Proof/Laws/FrameGutter.lean ====
section
/-! SUPPORT. What the operations of Machine/Gutter.lean may change. -/

set_option Elab.async false

namespace Sys2Proof.Machine

theorem State.noteSample_frame {M : Nat} {s0 : State} (hM : Touch.le (.of [.csm]) M) {s : State} (p : Fin 8) (f : Nat) (live : BitVec 32) (h : Same M s0 s) : Same M s0 (State.noteSample s p f live) := by
  unfold State.noteSample
  split
  · refine Same.ite ?_ ?_
    · exact h
    · exact Same.upd h (csm := .inl (.sub rfl hM))
  · exact Same.upd h (csm := .inl (.sub rfl hM))

theorem State.modGutter_frame {M : Nat} {s0 : State} (hM : Touch.le (.of [.csm]) M) {s : State} (n : Fin 32) (f : LinkGutter → LinkGutter) (h : Same M s0 s) : Same M s0 (State.modGutter s n f) := by
  unfold State.modGutter
  exact Same.upd h (csm := .inl (.sub rfl hM))

theorem State.fillSlot_frame {M : Nat} {s0 : State} (hM : Touch.le (.of [.csm]) M) {s : State} (n : Fin 32) (f : Nat) (ls : List (Nat × Nat)) (h : Same M s0 s) : Same M s0 (State.fillSlot s n f ls) := by
  unfold State.fillSlot
  exact State.modGutter_frame (.sub rfl hM) _ _ h

theorem State.modBuf_frame {M : Nat} {s0 : State} (hM : Touch.le (.of [.csm]) M) {s : State} (n : Fin 32) (f : Nat) (g : FetchBuf → FetchBuf) (h : Same M s0 s) : Same M s0 (State.modBuf s n f g) := by
  unfold State.modBuf
  exact State.modGutter_frame (.sub rfl hM) _ _ h

theorem State.openBuf_frame {M : Nat} {s0 : State} (hM : Touch.le (.of [.csm]) M) {s : State} (n : Fin 32) (p : Fin 8) (f : Nat) (h : Same M s0 s) : Same M s0 (State.openBuf s n p f) := by
  unfold State.openBuf
  refine Same.ite ?_ ?_
  · exact h
  · exact State.noteSample_frame (.sub rfl hM) _ _ _ (State.modGutter_frame (.sub rfl hM) _ _ h)

theorem State.readUnits_frame {M : Nat} {s0 : State} (hM : Touch.le (.of [.dmc, .twn, .pmc, .draws, .out]) M) {s : State} (port : Fin 10) (us : List Nat) (h : Same M s0 s) : Same M s0 (State.readUnits s port us) := by
  unfold State.readUnits
  refine Same.foldl (fun _ _ h1 => ?_) ?_
  · exact State.dramReadUnit_frame (.sub rfl hM) _ _ _ _ h1
  · exact h

theorem State.startFetch_frame {M : Nat} {s0 : State} (hM : Touch.le (.of [.dmc, .csm, .twn, .pmc, .draws, .out]) M) {s : State} (n : Fin 32) (p : Fin 8) (j : Fin 16) (g : Seg) (f : Nat) (h : Same M s0 s) : Same M s0 (State.startFetch s n p j g f) := by
  unfold State.startFetch
  refine Same.ite ?_ ?_
  · exact State.modBuf_frame (.sub rfl hM) _ _ _ (State.openBuf_frame (.sub rfl hM) _ _ _ h)
  · extract_lets -merge -underBinder +onlyGivenNames x1
    extract_lets -merge -underBinder +onlyGivenNames x2
    extract_lets -merge -underBinder +onlyGivenNames x3
    have hx3 : Same M s0 x3 := State.openBuf_frame (.sub rfl hM) _ _ _ h
    extract_lets -merge -underBinder +onlyGivenNames x4
    extract_lets -merge -underBinder +onlyGivenNames x5
    exact State.readUnits_frame (.sub rfl hM) _ _ (State.modBuf_frame (.sub rfl hM) _ _ _ hx3)

theorem State.spoilBands_frame {M : Nat} {s0 : State} (hM : Touch.le (.of [.lop]) M) {s : State} (p : Fin 8) (m : Nat) (h : Same M s0 s) : Same M s0 (State.spoilBands s p m) := by
  unfold State.spoilBands
  extract_lets -merge -underBinder +onlyGivenNames x1
  exact Same.upd h (lop := .inl (.sub rfl hM))

theorem State.refillSlot_frame {M : Nat} {s0 : State} (hM : Touch.le (.of [.dmc, .csm, .lop, .twn, .pmc, .draws, .out]) M) {s : State} (n : Fin 32) (p : Fin 8) (f : Nat) (h : Same M s0 s) : Same M s0 (State.refillSlot s n p f) := by
  unfold State.refillSlot
  extract_lets -merge -underBinder +onlyGivenNames x1
  refine Same.ite ?_ ?_
  · extract_lets -merge -underBinder +onlyGivenNames x2
    have hx2 : Same M s0 x2 := by
      refine Same.foldl (fun _ _ h3 => ?_) ?_
      · exact State.spoilBands_frame (.sub rfl hM) _ _ h3
      · exact h
    refine State.fillSlot_frame (.sub rfl hM) _ _ _ ?_
    exact Same.upd hx2 (csm := .inl (.sub rfl hM))
  · extract_lets -merge -underBinder +onlyGivenNames x5
    extract_lets -merge -underBinder +onlyGivenNames x6
    extract_lets -merge -underBinder +onlyGivenNames x7
    refine State.fillSlot_frame (.sub rfl hM) _ _ _ ?_
    refine Same.foldl (fun _ _ h8 => ?_) ?_
    · exact State.readUnits_frame (.sub rfl hM) _ _ h8
    · exact h

theorem execRefillDone_frame {M : Nat} {s0 : State} (hM : Touch.le (.of [.dmc, .csm, .lop, .twn, .pmc, .draws, .out]) M) (link : Fin 32) {s : State} (h : Same M s0 s) : OSame M s0 (execRefillDone link s) := by
  unfold execRefillDone
  refine OSame.next ?_
  split
  · extract_lets -merge -underBinder +onlyGivenNames x1
    extract_lets -merge -underBinder +onlyGivenNames x2
    refine Same.ite ?_ ?_
    · refine State.modGutter_frame (.sub rfl hM) _ _ ?_
      refine Same.foldl (fun _ _ h3 => ?_) ?_
      · exact State.refillSlot_frame (.sub rfl hM) _ _ _ h3
      · exact h
    · exact h
  · exact h

theorem State.openGates_frame {M : Nat} {s0 : State} (hM : Touch.le (.of [.csm]) M) {s : State} (v : BitVec 32) (h : Same M s0 s) : Same M s0 (State.openGates s v) := by
  unfold State.openGates
  exact Same.upd h (csm := .inl (.sub rfl hM))

theorem State.linkDone_frame {M : Nat} {s0 : State} (hM : Touch.le (.of [.regs, .rst, .pins, .clk, .hif, .mmu, .cpy, .dmc, .qdc, .scr, .csm, .pos, .fir, .plk, .cam, .lop, .lck, .tim, .urg, .twn, .thm, .pmc, .latch, .dram, .tables, .draws, .out]) M) {s : State} (n : Fin 32) (p : Fin 8) (l : FireLine) (h : Same M s0 s) : Same M s0 (State.linkDone s n p l) := by
  unfold State.linkDone
  extract_lets -merge -underBinder +onlyGivenNames x1
  extract_lets -merge -underBinder +onlyGivenNames x2
  have hx2 : Same M s0 x2 := State.modPlane_frame (.sub rfl hM) _ _ h
  refine Same.ite ?_ ?_
  · exact State.closeSig_frame (.sub rfl hM) _ _ hx2
  · exact hx2

theorem State.takeIn_frame {M : Nat} {s0 : State} (hM : Touch.le (.of [.csm]) M) {s : State} (n : Fin 32) (f : Nat) (buf : List (Nat × Nat)) (h : Same M s0 s) : Same M s0 (State.takeIn s n f buf) := by
  unfold State.takeIn
  exact State.modGutter_frame (.sub rfl hM) _ _ h

theorem execFetchComplete_frame {M : Nat} {s0 : State} (hM : Touch.le (.of [.csm, .pmc, .out]) M) (link : Fin 32) (seg : Fin 16) {s : State} (h : Same M s0 s) : OSame M s0 (execFetchComplete link seg s) := by
  unfold execFetchComplete
  refine OSame.next ?_
  split
  · refine Same.ite ?_ ?_
    · extract_lets -merge -underBinder +onlyGivenNames x1
      have hx1 : Same M s0 x1 := State.modBuf_frame (.sub rfl hM) _ _ _ h
      refine State.countEvent_frame (.sub rfl hM) _ _ _ ?_
      exact Same.upd hx1 (csm := .inl (.sub rfl hM))
    · exact h
  · exact h

theorem State.closeGates_frame {M : Nat} {s0 : State} (hM : Touch.le (.of [.csm]) M) {s : State} (v : BitVec 32) (h : Same M s0 s) : Same M s0 (State.closeGates s v) := by
  unfold State.closeGates
  extract_lets -merge -underBinder +onlyGivenNames z_1 x2
  have hx2 : Same M s0 x2 := Same.upd h (csm := .inl (.sub rfl hM))
  refine Same.foldl (fun _ _ h4 => ?_) ?_
  · refine Same.ite ?_ ?_
    · exact State.gutterSilent_frame (.sub rfl hM) _ h4
    · exact h4
  · exact hx2

theorem execCsmGateCloseWrite_frame {M : Nat} {s0 : State} (hM : Touch.le (.of [.hif, .csm]) M) (value : Sys2Proof.Word) {s : State} (h : Same M s0 s) : OSame M s0 (execCsmGateCloseWrite value s) := by
  unfold execCsmGateCloseWrite
  refine OSame.next ?_
  refine State.onWrite_frame (.sub rfl hM) _ _ (fun _ h1 => ?_) ?_
  · exact State.closeGates_frame (.sub rfl hM) _ h1
  · exact h

theorem State.discardLine_frame {M : Nat} {s0 : State} (hM : Touch.le (.of [.csm, .pmc, .out]) M) {s : State} (h : Same M s0 s) : Same M s0 (State.discardLine s) := by
  unfold State.discardLine
  refine State.countEvent_frame (.sub rfl hM) _ _ _ ?_
  exact Same.upd h (csm := .inl (.sub rfl hM))

theorem execCsmGateOpenWrite_frame {M : Nat} {s0 : State} (hM : Touch.le (.of [.hif, .csm]) M) (value : Sys2Proof.Word) {s : State} (h : Same M s0 s) : OSame M s0 (execCsmGateOpenWrite value s) := by
  unfold execCsmGateOpenWrite
  refine OSame.next ?_
  refine State.onWrite_frame (.sub rfl hM) _ _ (fun _ h1 => ?_) ?_
  · exact State.openGates_frame (.sub rfl hM) _ h1
  · exact h

theorem execRasterFetchStart_frame {M : Nat} {s0 : State} (hM : Touch.le (.of [.dmc, .csm, .twn, .pmc, .draws, .out]) M) (link : Fin 32) (seg : Fin 16) {s : State} (h : Same M s0 s) : OSame M s0 (execRasterFetchStart link seg s) := by
  unfold execRasterFetchStart
  refine OSame.next ?_
  split
  · refine Same.ite ?_ ?_
    · split
      · refine Same.ite ?_ ?_
        · exact State.startFetch_frame (.sub rfl hM) _ _ _ _ _ h
        · exact h
      · exact h
    · exact h
  · exact h

theorem execRefillStart_frame {M : Nat} {s0 : State} (hM : Touch.le (.of [.csm]) M) (link : Fin 32) {s : State} (h : Same M s0 s) : OSame M s0 (execRefillStart link s) := by
  unfold execRefillStart
  refine OSame.next ?_
  split
  · refine Same.ite ?_ ?_
    · exact State.modGutter_frame (.sub rfl hM) _ _ h
    · exact h
  · exact h

theorem State.sendLine_frame {M : Nat} {s0 : State} (hM : Touch.le (.of [.plk, .twn, .pmc, .out]) M) {s : State} (n : Fin 32) (p : Fin 8) (l : FireLine) (level : Nat → Nat) (h : Same M s0 s) : Same M s0 (State.sendLine s n p l level) := by
  unfold State.sendLine
  extract_lets -merge -underBinder +onlyGivenNames x1
  extract_lets -merge -underBinder +onlyGivenNames x2
  have hx2 : Same M s0 x2 := State.modLink_frame (.sub rfl hM) _ _ h
  extract_lets -merge -underBinder +onlyGivenNames x3
  extract_lets -merge -underBinder +onlyGivenNames x4
  extract_lets -merge -underBinder +onlyGivenNames x5
  have hx5 : Same M s0 x5 := State.signLine_frame (.sub rfl hM) _ _ _ _ hx2
  refine Same.ite ?_ ?_
  · exact State.countEvent_frame (.sub rfl hM) _ _ _ (State.emit_frame (.sub rfl hM) _ (State.modLink_frame (.sub rfl hM) _ _ hx5))
  · exact hx5

theorem State.gutterLine_frame {M : Nat} {s0 : State} (hM : Touch.le (.of [.csm, .plk, .twn, .pmc, .out]) M) {s : State} (n : Fin 32) (p : Fin 8) (l : FireLine) (h : Same M s0 s) : Same M s0 (State.gutterLine s n p l) := by
  unfold State.gutterLine
  extract_lets -merge -underBinder +onlyGivenNames x1
  extract_lets -merge -underBinder +onlyGivenNames x2
  split
  · exact State.discardLine_frame (.sub rfl hM) h
  · exact State.discardLine_frame (.sub rfl hM) (State.takeIn_frame (.sub rfl hM) _ _ _ h)
  · extract_lets -merge -underBinder +onlyGivenNames x3
    split
    · extract_lets -merge -underBinder +onlyGivenNames x4
      have hx4 : Same M s0 x4 := State.modGutter_frame (.sub rfl hM) _ _ h
      refine Same.ite ?_ ?_
      · exact hx4
      · refine Same.ite ?_ ?_
        · exact State.sendLine_frame (.sub rfl hM) _ _ _ _ hx4
        · exact State.discardLine_frame (.sub rfl hM) hx4
    · refine Same.ite ?_ ?_
      · exact State.takeIn_frame (.sub rfl hM) _ _ _ h
      · refine Same.ite ?_ ?_
        · exact State.modGutter_frame (.sub rfl hM) _ _ (State.takeIn_frame (.sub rfl hM) _ _ _ (State.sendLine_frame (.sub rfl hM) _ _ _ _ h))
        · exact State.discardLine_frame (.sub rfl hM) (State.takeIn_frame (.sub rfl hM) _ _ _ h)

theorem execGutterEmit_frame {M : Nat} {s0 : State} (hM : Touch.le (.of [.regs, .rst, .pins, .clk, .hif, .mmu, .cpy, .dmc, .qdc, .scr, .csm, .pos, .fir, .plk, .cam, .lop, .lck, .tim, .urg, .twn, .thm, .pmc, .latch, .dram, .tables, .now, .draws, .out]) M) (link : Fin 32) (at_ : Nat) {s : State} (h : Same M s0 s) : OSame M s0 (execGutterEmit link at_ s) := by
  unfold execGutterEmit
  refine OSame.next ?_
  extract_lets -merge -underBinder +onlyGivenNames x1
  have hx1 : Same M s0 x1 := State.advance_frame (.sub rfl hM) _ h
  split
  · refine Same.ite ?_ ?_
    · exact State.settleBank_frame (.sub rfl hM) _ (State.linkDone_frame (.sub rfl hM) _ _ _ (State.gutterLine_frame (.sub rfl hM) _ _ _ hx1))
    · exact hx1
  · exact hx1

end Sys2Proof.Machine
end

