-- ==== Sys2Proof/Laws/FrameLockCommands.lean ====
section
/-! SUPPORT. What the operations of Machine/LockCommands.lean may change. -/

set_option Elab.async false

namespace Sys2Proof.Machine

theorem execChamberCheckEnd_frame {M : Nat} {s0 : State} (hM : Touch.le (.of [.regs, .hif, .dmc, .csm, .fir, .plk, .lop, .lck, .urg, .twn, .pmc, .dram, .tables, .draws, .out]) M) (chamber : Fin 4) {s : State} (h : Same M s0 s) : OSame M s0 (execChamberCheckEnd chamber s) := by
  unfold execChamberCheckEnd
  refine OSame.next ?_
  refine Same.ite ?_ ?_
  · exact State.settle_frame (.sub rfl hM) _ (State.endCheck_frame (.sub rfl hM) _ (State.readStore_frame (.sub rfl hM) _ _ h))
  · exact h

theorem State.commitIn_frame {M : Nat} {s0 : State} (hM : Touch.le (.of [.regs, .hif, .dmc, .csm, .fir, .plk, .lop, .lck, .urg, .twn, .pmc, .dram, .tables, .draws, .out]) M) {s : State} (k : Fin 4) (h : Same M s0 s) : Same M s0 (State.commitIn s k) := by
  unfold State.commitIn
  extract_lets -merge -underBinder +onlyGivenNames x1
  have hx1 : Same M s0 x1 := State.modChamber_frame (.sub rfl hM) _ _ h
  split
  · exact h
  · refine Same.ite ?_ ?_
    · exact State.rejectChamber_frame (.sub rfl hM) _ _ hx1
    · exact State.beginApply_frame (.sub rfl hM) _ hx1

theorem execLockCommitRx_frame {M : Nat} {s0 : State} (hM : Touch.le (.of [.regs, .hif, .dmc, .csm, .fir, .plk, .lop, .lck, .urg, .twn, .pmc, .dram, .tables, .draws, .out]) M) (node : BitVec 10) (chamber : Fin 4) {s : State} (h : Same M s0 s) : OSame M s0 (execLockCommitRx node chamber s) := by
  unfold execLockCommitRx
  refine OSame.next ?_
  extract_lets -merge -underBinder +onlyGivenNames x1
  refine Same.ite ?_ ?_
  · exact State.settle_frame (.sub rfl hM) _ (State.commitIn_frame (.sub rfl hM) _ h)
  · exact h

theorem execRingLockWaitTimeout_frame {M : Nat} {s0 : State} (hM : Touch.le (.of [.regs, .hif, .dmc, .plk, .lop, .lck, .urg, .twn, .pmc, .dram, .draws, .out]) M) (chamber : Fin 4) {s : State} (h : Same M s0 s) : OSame M s0 (execRingLockWaitTimeout chamber s) := by
  unfold execRingLockWaitTimeout
  refine OSame.next ?_
  split
  · refine Same.ite ?_ ?_
    · exact State.rejectChamber_frame (.sub rfl hM) _ _ h
    · exact h
  · exact h

theorem State.lockReplyIn_frame {M : Nat} {s0 : State} (hM : Touch.le (.of [.regs, .hif, .dmc, .csm, .fir, .plk, .lop, .lck, .urg, .twn, .pmc, .dram, .tables, .draws, .out]) M) {s : State} (node : BitVec 10) (k : Fin 4) (armed : Bool) (h : Same M s0 s) : Same M s0 (State.lockReplyIn s node k armed) := by
  unfold State.lockReplyIn
  split
  · exact h
  · refine Same.ite ?_ ?_
    · exact h
    · refine Same.ite ?_ ?_
      · exact State.rejectChamber_frame (.sub rfl hM) _ _ h
      · extract_lets -merge -underBinder +onlyGivenNames x1
        extract_lets -merge -underBinder +onlyGivenNames x2
        have hx2 : Same M s0 x2 := State.modChamber_frame (.sub rfl hM) _ _ h
        refine Same.ite ?_ ?_
        · exact State.ringCommit_frame (.sub rfl hM) _ hx2
        · exact hx2

theorem execLockOpen_frame {M : Nat} {s0 : State} (hM : Touch.le (.of [.hif, .lck, .pmc, .out]) M) (ring : Fin 16) {s : State} (h : Same M s0 s) : OSame M s0 (execLockOpen ring s) := by
  unfold execLockOpen
  refine OSame.next ?_
  refine State.withEntryAt_frame (.sub rfl hM) _ _ _ (fun _ _ h1 => ?_) ?_
  · refine Same.ite ?_ ?_
    · exact State.complete_frame (.sub rfl hM) _ _ _ (State.openChamber_frame (.sub rfl hM) _ h1)
    · exact State.complete_frame (.sub rfl hM) _ _ _ h1
  · exact h

theorem State.appendEntry_frame {M : Nat} {s0 : State} (hM : Touch.le (.of [.lck]) M) {s : State} (k : Fin 4) (v : Sys2Proof.Word) (h : Same M s0 s) : Same M s0 (State.appendEntry s k v) := by
  unfold State.appendEntry
  exact State.modChamber_frame (.sub rfl hM) _ _ h

theorem execLckSdataWrite_frame {M : Nat} {s0 : State} (hM : Touch.le (.of [.hif, .lck]) M) (chamber : Fin 4) (value : Sys2Proof.Word) {s : State} (h : Same M s0 s) : OSame M s0 (execLckSdataWrite chamber value s) := by
  unfold execLckSdataWrite
  refine OSame.next ?_
  refine State.onWrite_frame (.sub rfl hM) _ _ (fun _ h1 => ?_) ?_
  · exact State.appendEntry_frame (.sub rfl hM) _ _ h1
  · exact h

theorem execLockArmRx_frame {M : Nat} {s0 : State} (hM : Touch.le (.of [.lck, .urg, .out]) M) (node : BitVec 10) (group : BitVec 8) (chamber : Fin 4) (kind : Fin 4) (plane : Fin 8) (instant : BitVec 64) {s : State} (h : Same M s0 s) : OSame M s0 (execLockArmRx node group chamber kind plane instant s) := by
  unfold execLockArmRx
  refine OSame.next ?_
  refine Same.ite ?_ ?_
  · refine Same.ite ?_ ?_
    · exact State.modChamber_frame (.sub rfl hM) _ _ h
    · exact State.ringSend_frame (.sub rfl hM) _ h
  · exact h

theorem execLockAbortRx_frame {M : Nat} {s0 : State} (hM : Touch.le (.of [.regs, .hif, .dmc, .plk, .lop, .lck, .urg, .twn, .pmc, .dram, .draws, .out]) M) (node : BitVec 10) (chamber : Fin 4) {s : State} (h : Same M s0 s) : OSame M s0 (execLockAbortRx node chamber s) := by
  unfold execLockAbortRx
  refine OSame.next ?_
  extract_lets -merge -underBinder +onlyGivenNames x1
  refine Same.ite ?_ ?_
  · exact h
  · refine Same.ite ?_ ?_
    · exact State.rejectChamber_frame (.sub rfl hM) _ _ (State.modChamber_frame (.sub rfl hM) _ _ h)
    · exact State.modChamber_frame (.sub rfl hM) _ _ h

theorem execChamberCheckStart_frame {M : Nat} {s0 : State} (hM : Touch.le (.of [.regs, .hif, .cpy, .dmc, .csm, .lop, .lck, .urg, .twn, .pmc, .dram, .tables, .draws, .out]) M) (chamber : Fin 4) {s : State} (h : Same M s0 s) : OSame M s0 (execChamberCheckStart chamber s) := by
  unfold execChamberCheckStart
  refine OSame.next ?_
  refine Same.ite ?_ ?_
  · exact State.startCheck_frame (.sub rfl hM) _ h
  · exact h

theorem State.askLock_frame {M : Nat} {s0 : State} (hM : Touch.le (.of [.hif, .lck, .pmc, .out]) M) {s : State} (f : Flight) (a : LockAsk) (h : Same M s0 s) : Same M s0 (State.askLock s f a) := by
  unfold State.askLock
  extract_lets -merge -underBinder +onlyGivenNames x1
  refine Same.ite ?_ ?_
  · exact State.waitFlight_frame (.sub rfl hM) _ (State.modChamber_frame (.sub rfl hM) _ _ h)
  · exact State.complete_frame (.sub rfl hM) _ _ _ h

theorem execLockArm_frame {M : Nat} {s0 : State} (hM : Touch.le (.of [.hif, .lck, .pmc, .out]) M) (ring : Fin 16) {s : State} (h : Same M s0 s) : OSame M s0 (execLockArm ring s) := by
  unfold execLockArm
  refine OSame.next ?_
  refine State.withEntryAt_frame (.sub rfl hM) _ _ _ (fun _ _ h1 => ?_) ?_
  · exact State.askLock_frame (.sub rfl hM) _ _ h1
  · exact h

theorem execLockReplyRx_frame {M : Nat} {s0 : State} (hM : Touch.le (.of [.regs, .hif, .dmc, .csm, .fir, .plk, .lop, .lck, .urg, .twn, .pmc, .dram, .tables, .draws, .out]) M) (node : BitVec 10) (chamber : Fin 4) (armed : Bool) {s : State} (h : Same M s0 s) : OSame M s0 (execLockReplyRx node chamber armed s) := by
  unfold execLockReplyRx
  refine OSame.next ?_
  refine Same.ite ?_ ?_
  · exact State.settle_frame (.sub rfl hM) _ (State.lockReplyIn_frame (.sub rfl hM) _ _ _ h)
  · exact h

theorem execLockDiscard_frame {M : Nat} {s0 : State} (hM : Touch.le (.of [.regs, .hif, .cpy, .dmc, .csm, .plk, .lop, .lck, .urg, .twn, .pmc, .dram, .tables, .draws, .out]) M) (ring : Fin 16) {s : State} (h : Same M s0 s) : OSame M s0 (execLockDiscard ring s) := by
  unfold execLockDiscard
  refine OSame.next ?_
  refine State.withEntryAt_frame (.sub rfl hM) _ _ _ (fun _ _ h1 => ?_) ?_
  · extract_lets -merge -underBinder +onlyGivenNames x2
    refine Same.ite ?_ ?_
    · exact State.complete_frame (.sub rfl hM) _ _ _ h1
    · refine Same.ite ?_ ?_
      · exact State.complete_frame (.sub rfl hM) _ _ _ h1
      · exact State.complete_frame (.sub rfl hM) _ _ _ (State.discardChamber_frame (.sub rfl hM) _ h1)
  · exact h

theorem execLockCheck_frame {M : Nat} {s0 : State} (hM : Touch.le (.of [.hif, .lck, .pmc, .out]) M) (ring : Fin 16) {s : State} (h : Same M s0 s) : OSame M s0 (execLockCheck ring s) := by
  unfold execLockCheck
  refine OSame.next ?_
  refine State.withEntryAt_frame (.sub rfl hM) _ _ _ (fun _ _ h1 => ?_) ?_
  · exact State.askLock_frame (.sub rfl hM) _ _ h1
  · exact h

theorem execChamberApplyInstant_frame {M : Nat} {s0 : State} (hM : Touch.le (.of [.regs, .hif, .dmc, .csm, .fir, .plk, .lop, .lck, .tim, .urg, .twn, .pmc, .dram, .tables, .now, .draws, .out]) M) (chamber : Fin 4) (at_ : Nat) {s : State} (h : Same M s0 s) : OSame M s0 (execChamberApplyInstant chamber at_ s) := by
  unfold execChamberApplyInstant
  refine OSame.next ?_
  extract_lets -merge -underBinder +onlyGivenNames x1
  have hx1 : Same M s0 x1 := State.advance_frame (.sub rfl hM) _ h
  split
  · refine Same.ite ?_ ?_
    · exact State.settle_frame (.sub rfl hM) _ (State.instantCome_frame (.sub rfl hM) _ hx1)
    · exact hx1
  · exact hx1

theorem execChamberApplyCopyDone_frame {M : Nat} {s0 : State} (hM : Touch.le (.of [.regs, .hif, .dmc, .csm, .fir, .plk, .lop, .lck, .urg, .twn, .pmc, .dram, .tables, .draws, .out]) M) (chamber : Fin 4) {s : State} (h : Same M s0 s) : OSame M s0 (execChamberApplyCopyDone chamber s) := by
  unfold execChamberApplyCopyDone
  refine OSame.next ?_
  extract_lets -merge -underBinder +onlyGivenNames x1
  refine Same.ite ?_ ?_
  · exact State.settle_frame (.sub rfl hM) _ (State.copyEnded_frame (.sub rfl hM) _ (State.readStore_frame (.sub rfl hM) _ _ h))
  · exact h

theorem execLockOutcomeRx_frame {M : Nat} {s0 : State} (hM : Touch.le (.of [.regs, .hif, .fir, .lop, .lck, .urg, .twn, .pmc, .out]) M) (node : BitVec 10) (chamber : Fin 4) (applied : Bool) {s : State} (h : Same M s0 s) : OSame M s0 (execLockOutcomeRx node chamber applied s) := by
  unfold execLockOutcomeRx
  refine OSame.next ?_
  extract_lets -merge -underBinder +onlyGivenNames x1
  refine Same.ite ?_ ?_
  · exact h
  · refine Same.ite ?_ ?_
    · exact State.settle_frame (.sub rfl hM) _ (State.ringDone_frame (.sub rfl hM) _ (State.modChamber_frame (.sub rfl hM) _ _ h))
    · exact State.modChamber_frame (.sub rfl hM) _ _ h

end Sys2Proof.Machine
end

