-- ==== Sys2Proof/Laws/FrameLoops.lean ====
section
/-! SUPPORT. What the operations of Machine/Loops.lean may change. -/

set_option Elab.async false

namespace Sys2Proof.Machine

theorem State.admitBand_frame {M : Nat} {s0 : State} (hM : Touch.le (.of [.hif, .lop, .pmc, .out]) M) {s : State} (f : Flight) (h : Same M s0 s) : Same M s0 (State.admitBand s f) := by
  unfold State.admitBand
  extract_lets -merge -underBinder +onlyGivenNames x1
  refine Same.ite ?_ ?_
  · exact State.complete_frame (.sub rfl hM) _ _ _ h
  · refine Same.ite ?_ ?_
    · exact State.waitFlight_frame (.sub rfl hM) _ h
    · refine State.complete_frame (.sub rfl hM) _ _ _ ?_
      exact Same.upd h (lop := .inl (.sub rfl hM))

theorem execServiceBandAdmit_frame {M : Nat} {s0 : State} (hM : Touch.le (.of [.hif, .lop, .pmc, .out]) M) (ring : Fin 16) {s : State} (h : Same M s0 s) : OSame M s0 (execServiceBandAdmit ring s) := by
  unfold execServiceBandAdmit
  refine OSame.next ?_
  split
  · refine Same.ite ?_ ?_
    · exact State.admitBand_frame (.sub rfl hM) _ h
    · exact h
  · exact h

theorem State.takeBaseline_frame {M : Nat} {s0 : State} (hM : Touch.le (.of [.lop]) M) {s : State} (loop : Nat) (p : Fin 8) (h : Same M s0 s) : Same M s0 (State.takeBaseline s loop p) := by
  unfold State.takeBaseline
  extract_lets -merge -underBinder +onlyGivenNames x1
  extract_lets -merge -underBinder +onlyGivenNames x2
  exact State.modLoop_frame (.sub rfl hM) _ _ h

theorem State.runLoop_frame {M : Nat} {s0 : State} (hM : Touch.le (.of [.regs, .hif, .lop, .pmc, .out]) M) {s : State} (loop : Nat) (p : Fin 8) (h : Same M s0 s) : Same M s0 (State.runLoop s loop p) := by
  unfold State.runLoop
  extract_lets -merge -underBinder +onlyGivenNames x1
  extract_lets -merge -underBinder +onlyGivenNames x2
  have hx2 : Same M s0 x2 := by
    unfold x2
    split
    · exact State.loopEvent_frame (.sub rfl hM) _ _ _ _ (State.takeBaseline_frame (.sub rfl hM) _ _ (State.modLoop_frame (.sub rfl hM) _ _ h))
    · exact State.modLoop_frame (.sub rfl hM) _ _ (State.modLoop_frame (.sub rfl hM) _ _ h)
    · exact h
  refine Same.ite ?_ ?_
  · exact State.placeWindows_frame (.sub rfl hM) _ hx2
  · exact hx2

theorem execChamberBusyTimeout_frame {M : Nat} {s0 : State} (hM : Touch.le (.of [.regs, .hif, .lop, .pmc, .out]) M) (loop : Fin 3) {s : State} (h : Same M s0 s) : OSame M s0 (execChamberBusyTimeout loop s) := by
  unfold execChamberBusyTimeout
  refine OSame.next ?_
  split
  · exact h
  · refine Same.foldl (fun _ _ h1 => ?_) ?_
    · exact State.loopEvent_frame (.sub rfl hM) _ _ _ _ h1
    · exact Same.upd h (lop := .inl (.sub rfl hM))

theorem State.loopCtrl_frame {M : Touch} {s0 : State} (hM : Touch.le (.of [.hif, .pmc, .out]) M) {s : State} (ring : Fin 16) (action : Nat) {act : Nat → Fin 8 → State → State}
    (ha : ∀ l p t, Same M s0 t → Same M s0 (act l p t)) (h : Same M s0 s) : Same M s0 (s.loopCtrl ring action act) := by
  unfold State.loopCtrl
  refine State.withEntryAt_frame (.sub rfl hM) _ _ _ (fun f t ht => ?_) h
  extract_lets loop ps
  split
  · exact State.complete_frame (.sub rfl hM) _ _ _ ht
  · exact State.complete_frame (.sub rfl hM) _ _ _ (Same.foldl (fun _ _ hk => ha _ _ _ hk) ht)

theorem State.freezeLoop_frame {M : Nat} {s0 : State} (hM : Touch.le (.of [.regs, .hif, .lop, .pmc, .out]) M) {s : State} (loop : Nat) (p : Fin 8) (h : Same M s0 s) : Same M s0 (State.freezeLoop s loop p) := by
  unfold State.freezeLoop
  refine Same.ite ?_ ?_
  · exact State.loopEvent_frame (.sub rfl hM) _ _ _ _ (State.modLoop_frame (.sub rfl hM) _ _ (State.dropChanges_frame (.sub rfl hM) _ _ h))
  · exact h

theorem execLoopCtrlFreeze_frame {M : Nat} {s0 : State} (hM : Touch.le (.of [.regs, .hif, .lop, .pmc, .out]) M) (ring : Fin 16) {s : State} (h : Same M s0 s) : OSame M s0 (execLoopCtrlFreeze ring s) := by
  unfold execLoopCtrlFreeze
  refine OSame.next ?_
  refine State.loopCtrl_frame (.sub rfl hM) _ _ (fun _ _ _ h1 => ?_) ?_
  · exact State.freezeLoop_frame (.sub rfl hM) _ _ h1
  · exact h

theorem State.takeWhite_frame {M : Nat} {s0 : State} (hM : Touch.le (.of [.lop]) M) {s : State} (p : Fin 8) (bins : List Bin) (h : Same M s0 s) : Same M s0 (State.takeWhite s p bins) := by
  unfold State.takeWhite
  split
  · exact h
  · exact State.modLoop_frame (.sub rfl hM) _ _ h

theorem State.pickClears_frame {M : Touch} {s0 : State} (hM : Touch.le (.of [.regs, .hif, .pmc, .out]) M) {s : State} (staged xs : List (Nat × Nat)) (left : Nat) (out : List (Nat × Nat)) (h : Same M s0 s) :
    Same M s0 (s.pickClears staged xs left out).2 := by
  induction xs generalizing s left out with
  | nil => exact h
  | cons x xs ih =>
    unfold State.pickClears
    extract_lets gone others
    split
    · exact ih _ _ (State.loopEvent_frame (.sub rfl hM) _ _ _ _ h)
    · split
      · exact ih _ _ h
      · exact ih _ _ h

theorem State.dropBand_frame {M : Nat} {s0 : State} (hM : Touch.le (.of [.lop]) M) {s : State} (b : Band) (h : Same M s0 s) : Same M s0 (State.dropBand s b) := by
  unfold State.dropBand
  exact Same.upd h (lop := .inl (.sub rfl hM))

theorem State.collNote_frame {M : Nat} {s0 : State} (hM : Touch.le (.of [.regs, .hif, .lop, .pmc, .out]) M) {s : State} (p : Fin 8) (c : CollStep) (h : Same M s0 s) : Same M s0 (State.collNote s p c) := by
  unfold State.collNote
  extract_lets -merge -underBinder +onlyGivenNames x1
  have hx1 : Same M s0 x1 := State.modLoop_frame (.sub rfl hM) _ _ h
  extract_lets -merge -underBinder +onlyGivenNames z_2 x3
  have hx3 : Same M s0 x3 := by
    refine Same.ite ?_ ?_
    · refine State.loopEvent_frame (.sub rfl hM) _ _ _ _ ?_
      exact Same.upd hx1 (lop := .inl (.sub rfl hM))
    · exact hx1
  extract_lets -merge -underBinder +onlyGivenNames z_5 x6
  have hx6 : Same M s0 x6 := by
    refine Same.ite ?_ ?_
    · refine State.loopEvent_frame (.sub rfl hM) _ _ _ _ ?_
      exact Same.upd hx3 (lop := .inl (.sub rfl hM))
    · exact hx3
  split
  · exact State.loopEvent_frame (.sub rfl hM) _ _ _ _ hx6
  · exact hx6

theorem State.submitLoop_frame {M : Nat} {s0 : State} (hM : Touch.le (.of [.regs, .hif, .dmc, .lop, .lck, .urg, .twn, .pmc, .dram, .draws, .out]) M) {s : State} (a : LoopApply) (h : Same M s0 s) : Same M s0 (State.submitLoop s a) := by
  unfold State.submitLoop
  refine State.admitLoops_frame (.sub rfl hM) ?_
  exact Same.upd h (lop := .inl (.sub rfl hM))

theorem State.collCycle_frame {M : Nat} {s0 : State} (hM : Touch.le (.of [.regs, .hif, .dmc, .lop, .lck, .urg, .twn, .pmc, .dram, .draws, .out]) M) {s : State} (h : Same M s0 s) : Same M s0 (State.collCycle s) := by
  unfold State.collCycle
  extract_lets -merge -underBinder +onlyGivenNames x1
  extract_lets -merge -underBinder +onlyGivenNames z_2 x3
  have hx3 : Same M s0 x3 := Same.upd h (lop := .inl (.sub rfl hM))
  refine Same.ite ?_ ?_
  · exact hx3
  · extract_lets -merge -underBinder +onlyGivenNames x5
    extract_lets -merge -underBinder +onlyGivenNames x6
    extract_lets -merge -underBinder +onlyGivenNames x7
    have hx7 : Same M s0 x7 := by
      refine Same.foldl (fun _ _ h8 => ?_) ?_
      · exact State.collNote_frame (.sub rfl hM) _ _ h8
      · exact hx3
    extract_lets -merge -underBinder +onlyGivenNames x9
    refine Same.ite ?_ ?_
    · exact hx7
    · exact State.submitLoop_frame (.sub rfl hM) _ hx7

theorem State.densColumn_frame {M : Nat} {s0 : State} (hM : Touch.le (.of [.regs, .hif, .lop, .pmc, .out]) M) {s : State} (p : Fin 8) (c : Nat) (e : Frac) (h : Same M s0 s) : Same M s0 (State.densColumn s p c e).2 := by
  unfold State.densColumn
  split
  · extract_lets -merge -underBinder +onlyGivenNames x1
    have hx1 : Same M s0 x1 := State.modLoop_frame (.sub rfl hM) _ _ h
    extract_lets -merge -underBinder +onlyGivenNames z_2 x3
    have hx3 : Same M s0 x3 := by
      refine Same.ite ?_ ?_
      · exact Same.upd hx1 (lop := .inl (.sub rfl hM))
      · exact hx1
    extract_lets -merge -underBinder +onlyGivenNames z_5 x6
    have hx6 : Same M s0 x6 := by
      refine Same.ite ?_ ?_
      · refine State.loopEvent_frame (.sub rfl hM) _ _ _ _ ?_
        exact Same.upd hx3 (lop := .inl (.sub rfl hM))
      · exact hx3
    exact hx6

theorem State.densPlane_frame {M : Touch} {s0 : State} (hM : Touch.le (.of [.regs, .hif, .dmc, .lop, .lck, .urg, .twn, .pmc, .dram, .tables, .draws, .out]) M) {s : State} (b : Band) (p : Fin 8) (bins : List Bin) (draw : Nat) (h : Same M s0 s) :
    Same M s0 (s.densPlane b p bins draw) := by
  unfold State.densPlane
  extract_lets raw smooth errs
  split
  rename_i ts s1 e
  have hf : ∀ (l : List (Nat × Frac)) (a : List (Nat × BitVec 8) × State), Same M s0 a.2 →
      Same M s0 (l.foldl (fun (a : List (Nat × BitVec 8) × State) x => let r := a.2.densColumn p x.1 x.2; (a.1 ++ [r.1], r.2)) a).2 := by
    intro l
    induction l with
    | nil => intro a ha; exact ha
    | cons x l ih => intro a ha; exact ih _ (State.densColumn_frame (.sub rfl hM) _ _ _ ha)
  have h1 : Same M s0 s1 := (congrArg (fun r => Same M s0 r.2) e).mp (hf errs _ h)
  exact Same.ite h1 (Same.ite (State.targetsLive_frame (.sub rfl hM) _ h1) (State.submitLoop_frame (.sub rfl hM) _ h1))

theorem State.measureDensity_frame {M : Nat} {s0 : State} (hM : Touch.le (.of [.regs, .hif, .dmc, .lop, .lck, .urg, .twn, .pmc, .dram, .tables, .draws, .out]) M) {s : State} (b : Band) (h : Same M s0 s) : Same M s0 (State.measureDensity s b) := by
  unfold State.measureDensity
  extract_lets -merge -underBinder +onlyGivenNames x1
  refine Same.foldl (fun _ _ h2 => ?_) ?_
  · extract_lets -merge -underBinder +onlyGivenNames x3
    extract_lets -merge -underBinder +onlyGivenNames x4
    have hx4 : Same M s0 x4 := State.takeWhite_frame (.sub rfl hM) _ _ h2
    refine Same.ite ?_ ?_
    · exact State.densPlane_frame (.sub rfl hM) _ _ _ _ hx4
    · exact hx4
  · exact State.draw_frame (.sub rfl hM) h

theorem State.nozPlane_frame {M : Nat} {s0 : State} (hM : Touch.le (.of [.regs, .hif, .dmc, .lop, .lck, .urg, .twn, .pmc, .dram, .draws, .out]) M) {s : State} (p : Fin 8) (ds : List (Nat × Option (Nat × Nat) × DashClass)) (h : Same M s0 s) : Same M s0 (State.nozPlane s p ds) := by
  unfold State.nozPlane
  extract_lets -merge -underBinder +onlyGivenNames x1
  extract_lets -merge -underBinder +onlyGivenNames x2
  extract_lets -merge -underBinder +onlyGivenNames x3
  split
  · exact State.selfFreeze_frame (.sub rfl hM) _ _ _ h
  · extract_lets -merge -underBinder +onlyGivenNames x4
    extract_lets -merge -underBinder +onlyGivenNames x5
    extract_lets -merge -underBinder +onlyGivenNames z_6 x7
    have hx7 : Same M s0 x7 := by
      refine State.modLoop_frame (.sub rfl hM) _ _ ?_
      exact Same.upd h (lop := .inl (.sub rfl hM))
    extract_lets -merge -underBinder +onlyGivenNames x9
    extract_lets -merge -underBinder +onlyGivenNames x10
    split
    · rename_i v11 v12 e13
      have hv12 : Same M s0 v12 := (congrArg (fun r => Same M s0 r.2) e13).mp (State.pickClears_frame (.sub rfl hM) _ _ _ _ hx7)
      refine Same.ite ?_ ?_
      · exact hv12
      · exact State.submitLoop_frame (.sub rfl hM) _ hv12

theorem State.measureNozzle_frame {M : Nat} {s0 : State} (hM : Touch.le (.of [.regs, .hif, .dmc, .lop, .lck, .urg, .twn, .pmc, .dram, .draws, .out]) M) {s : State} (b : Band) (h : Same M s0 s) : Same M s0 (State.measureNozzle s b) := by
  unfold State.measureNozzle
  extract_lets -merge -underBinder +onlyGivenNames x1
  refine Same.foldl (fun _ _ h2 => ?_) ?_
  · extract_lets -merge -underBinder +onlyGivenNames x3
    extract_lets -merge -underBinder +onlyGivenNames x4
    extract_lets -merge -underBinder +onlyGivenNames z_5 x6
    have hx6 : Same M s0 x6 := Same.upd h2 (lop := .inl (.sub rfl hM))
    refine Same.ite ?_ ?_
    · exact State.nozPlane_frame (.sub rfl hM) _ _ hx6
    · exact hx6
  · exact State.draw_frame (.sub rfl hM) h

theorem State.targetsToGains_frame {M : Nat} {s0 : State} (hM : Touch.le (.of [.tables]) M) {s : State} (p : Fin 8) (h : Same M s0 s) : Same M s0 (State.targetsToGains s p) := by
  unfold State.targetsToGains
  extract_lets -merge -underBinder +onlyGivenNames x1
  extract_lets -merge -underBinder +onlyGivenNames x2
  have hx2 : Same M s0 x2 := State.eraseBytes_frame (.sub rfl hM) _ h
  refine Same.foldl (fun _ _ h3 => ?_) ?_
  · exact State.writeTable_frame (.sub rfl hM) _ _ _ h3
  · exact hx2

theorem State.zeroLoop_frame {M : Nat} {s0 : State} (hM : Touch.le (.of [.regs, .hif, .lop, .pmc, .tables, .out]) M) {s : State} (loop : Nat) (p : Fin 8) (h : Same M s0 s) : Same M s0 (State.zeroLoop s loop p) := by
  unfold State.zeroLoop
  extract_lets -merge -underBinder +onlyGivenNames x1
  have hx1 : Same M s0 x1 := State.takeBaseline_frame (.sub rfl hM) _ _ (State.dropChanges_frame (.sub rfl hM) _ _ h)
  refine State.loopEvent_frame (.sub rfl hM) _ _ _ _ ?_
  refine Same.ite ?_ ?_
  · exact State.targetsToGains_frame (.sub rfl hM) _ hx1
  · exact hx1

theorem State.applyMarks_frame {M : Nat} {s0 : State} (hM : Touch.le (.of [.regs, .lop]) M) {s : State} (h : Same M s0 s) : Same M s0 (State.applyMarks s) := by
  unfold State.applyMarks
  extract_lets -merge -underBinder +onlyGivenNames z_1 x2
  have hx2 : Same M s0 x2 := by
    refine Same.foldl (fun _ _ h3 => ?_) ?_
    · exact State.hostWrite_frame (.sub rfl hM) _ _ h3
    · exact Same.upd h (lop := .inl (.sub rfl hM))
  refine Same.ite ?_ ?_
  · exact hx2
  · exact State.placeWindows_frame (.sub rfl hM) _ hx2

theorem execLoopCtrlZero_frame {M : Nat} {s0 : State} (hM : Touch.le (.of [.regs, .hif, .lop, .pmc, .tables, .out]) M) (ring : Fin 16) {s : State} (h : Same M s0 s) : OSame M s0 (execLoopCtrlZero ring s) := by
  unfold execLoopCtrlZero
  refine OSame.next ?_
  refine State.loopCtrl_frame (.sub rfl hM) _ _ (fun _ _ _ h1 => ?_) ?_
  · exact State.zeroLoop_frame (.sub rfl hM) _ _ h1
  · exact h

theorem State.measureBand_frame {M : Nat} {s0 : State} (hM : Touch.le (.of [.regs, .hif, .dmc, .lop, .lck, .urg, .twn, .pmc, .dram, .tables, .draws, .out]) M) {s : State} (b : Band) (h : Same M s0 s) : Same M s0 (State.measureBand s b) := by
  unfold State.measureBand
  extract_lets -merge -underBinder +onlyGivenNames x1
  have hx1 : Same M s0 x1 := State.dropBand_frame (.sub rfl hM) _ h
  split
  · exact State.missBand_frame (.sub rfl hM) _ _ hx1
  · extract_lets -merge -underBinder +onlyGivenNames z_2 x3
    have hx3 : Same M s0 x3 := Same.upd hx1 (lop := .inl (.sub rfl hM))
    refine Same.ite ?_ ?_
    · exact State.measureDensity_frame (.sub rfl hM) _ hx3
    · exact State.measureNozzle_frame (.sub rfl hM) _ hx3

theorem execServiceBand_frame {M : Nat} {s0 : State} (hM : Touch.le (.of [.hif, .lop, .pmc, .out]) M) (ring : Fin 16) {s : State} (h : Same M s0 s) : OSame M s0 (execServiceBand ring s) := by
  unfold execServiceBand
  refine OSame.next ?_
  refine State.withEntryAt_frame (.sub rfl hM) _ _ _ (fun _ _ h1 => ?_) ?_
  · exact State.admitBand_frame (.sub rfl hM) _ h1
  · exact h

theorem execBandMeasure_frame {M : Nat} {s0 : State} (hM : Touch.le (.of [.regs, .hif, .dmc, .lop, .lck, .urg, .twn, .pmc, .dram, .tables, .draws, .out]) M) {s : State} (h : Same M s0 s) : OSame M s0 (execBandMeasure s) := by
  unfold execBandMeasure
  refine OSame.next ?_
  split
  · refine Same.ite ?_ ?_
    · exact State.measureBand_frame (.sub rfl hM) _ h
    · exact h
  · exact h

theorem execLoopCtrlRun_frame {M : Nat} {s0 : State} (hM : Touch.le (.of [.regs, .hif, .lop, .pmc, .out]) M) (ring : Fin 16) {s : State} (h : Same M s0 s) : OSame M s0 (execLoopCtrlRun ring s) := by
  unfold execLoopCtrlRun
  refine OSame.next ?_
  refine State.loopCtrl_frame (.sub rfl hM) _ _ (fun _ _ _ h1 => ?_) ?_
  · exact State.runLoop_frame (.sub rfl hM) _ _ h1
  · exact h

theorem execBandMissedTimeout_frame {M : Nat} {s0 : State} (hM : Touch.le (.of [.regs, .hif, .fir, .lop, .tim, .pmc, .now, .out]) M) (at_ : Nat) {s : State} (h : Same M s0 s) : OSame M s0 (execBandMissedTimeout at_ s) := by
  unfold execBandMissedTimeout
  refine OSame.next ?_
  extract_lets -merge -underBinder +onlyGivenNames x1
  have hx1 : Same M s0 x1 := State.advance_frame (.sub rfl hM) _ h
  split
  · exact State.missBand_frame (.sub rfl hM) _ _ (State.dropBand_frame (.sub rfl hM) _ hx1)
  · exact hx1

theorem execCollationCycle_frame {M : Nat} {s0 : State} (hM : Touch.le (.of [.regs, .hif, .dmc, .lop, .lck, .urg, .twn, .pmc, .dram, .draws, .out]) M) {s : State} (h : Same M s0 s) : OSame M s0 (execCollationCycle s) := by
  unfold execCollationCycle
  refine OSame.next ?_
  refine Same.ite ?_ ?_
  · exact State.collCycle_frame (.sub rfl hM) (State.applyMarks_frame (.sub rfl hM) h)
  · exact h

end Sys2Proof.Machine
end

