-- ==== Sys2Proof/Laws/FramePowerCommands.lean ====
section
/-! SUPPORT. What the operations of Machine/PowerCommands.lean may change. -/

set_option Elab.async false

namespace Sys2Proof.Machine

theorem State.releaseUnit_frame {M : Nat} {s0 : State} (hM : Touch.le (.of [.regs, .rst, .hif, .dmc, .scr, .csm, .pos, .fir, .plk, .lop, .lck, .urg, .twn, .thm, .pmc, .dram, .tables, .draws, .out]) M) {s : State} (unit : ResetUnit) (h : Same M s0 s) : Same M s0 (State.releaseUnit s unit) := by
  unfold State.releaseUnit
  split
  · exact Same.upd h (rst := .inl (.sub rfl hM))
  · exact State.setReleased_frame (.sub rfl hM) _ _ h
  · exact State.releaseBlk_frame (.sub rfl hM) _ h
  · exact State.bringUp_frame (.sub rfl hM) _ h

theorem execDomainClocksStable_frame {M : Nat} {s0 : State} (hM : Touch.le (.of [.regs, .rst, .pins, .clk, .hif, .mmu, .cpy, .dmc, .qdc, .scr, .csm, .pos, .fir, .plk, .cam, .lop, .lck, .tim, .urg, .twn, .thm, .pmc, .latch, .dram, .tables, .draws, .out]) M) (unit : ResetUnit) {s : State} (h : Same M s0 s) : OSame M s0 (execDomainClocksStable unit s) := by
  unfold execDomainClocksStable
  refine OSame.next ?_
  refine Same.ite ?_ ?_
  · exact State.settleResets_frame (.sub rfl hM) (State.releaseUnit_frame (.sub rfl hM) _ (State.setUnit_frame (.sub rfl hM) _ _ h))
  · exact h

theorem execOtpReadDone_frame {M : Nat} {s0 : State} (hM : Touch.le (.of [.regs, .rst, .pins, .clk, .hif, .mmu, .cpy, .dmc, .qdc, .scr, .csm, .pos, .fir, .plk, .cam, .lop, .lck, .tim, .urg, .twn, .thm, .pmc, .latch, .dram, .tables, .draws, .out]) M) (record : Option Otp) {s : State} (h : Same M s0 s) : OSame M s0 (execOtpReadDone record s) := by
  unfold execOtpReadDone
  refine OSame.next ?_
  refine Same.ite ?_ ?_
  · split
    · exact State.bootFail_frame (.sub rfl hM) _ h
    · refine State.settleResets_frame (.sub rfl hM) ?_
      exact Same.upd h (rst := .inl (.sub rfl hM))
  · exact h

theorem State.writeBar_frame {M : Nat} {s0 : State} (hM : Touch.le (.of [.hif]) M) {s : State} (n : Fin 6) (v : Sys2Proof.Word) (h : Same M s0 s) : Same M s0 (State.writeBar s n v) := by
  unfold State.writeBar
  extract_lets -merge -underBinder +onlyGivenNames x1
  exact Same.upd h (hif := .inl (.sub rfl hM))

theorem State.configWrite_frame {M : Nat} {s0 : State} (hM : Touch.le (.of [.hif]) M) {s : State} (r : Sys2Proof.ConfigReg) (v : Sys2Proof.Word) (h : Same M s0 s) : Same M s0 (State.configWrite s r v) := by
  unfold State.configWrite
  split
  · refine Same.ite ?_ ?_
    · exact State.writeBar_frame (.sub rfl hM) _ _ h
    · exact h
  · exact Same.upd h (hif := .inl (.sub rfl hM))
  · exact h
  · exact h

theorem execConfigRequest_frame {M : Nat} {s0 : State} (hM : Touch.le (.of [.hif, .out]) M) (access : Sys2Proof.ConfigAccess) {s : State} (h : Same M s0 s) : OSame M s0 (execConfigRequest access s) := by
  unfold execConfigRequest
  refine OSame.next ?_
  refine Same.ite ?_ ?_
  · refine Same.ite ?_ ?_
    · split
      · exact State.emit_frame (.sub rfl hM) _ h
      · exact State.emit_frame (.sub rfl hM) _ (State.configWrite_frame (.sub rfl hM) _ _ h)
    · exact State.emit_frame (.sub rfl hM) _ h
  · exact h

theorem State.holdData_frame {M : Nat} {s0 : State} (hM : Touch.le (.of [.regs, .rst, .pins, .clk, .hif, .mmu, .cpy, .dmc, .qdc, .scr, .csm, .pos, .fir, .plk, .cam, .lop, .lck, .tim, .urg, .twn, .thm, .pmc, .latch, .dram, .tables, .draws, .out]) M) {s : State} (hold : Bool) (h : Same M s0 s) : Same M s0 (State.holdData s hold) := by
  unfold State.holdData
  extract_lets -merge -underBinder +onlyGivenNames z_1 x2
  have hx2 : Same M s0 x2 := Same.upd h (rst := .inl (.sub rfl hM))
  refine State.settleResets_frame (.sub rfl hM) ?_
  refine Same.ite ?_ ?_
  · exact State.noteCause_frame (.sub rfl hM) _ hx2
  · exact hx2

theorem execRstDataHoldWrite_frame {M : Nat} {s0 : State} (hM : Touch.le (.of [.regs, .rst, .pins, .clk, .hif, .mmu, .cpy, .dmc, .qdc, .scr, .csm, .pos, .fir, .plk, .cam, .lop, .lck, .tim, .urg, .twn, .thm, .pmc, .latch, .dram, .tables, .draws, .out]) M) (hold : Bool) {s : State} (h : Same M s0 s) : OSame M s0 (execRstDataHoldWrite hold s) := by
  unfold execRstDataHoldWrite
  refine OSame.next ?_
  refine State.onWrite_frame (.sub rfl hM) _ _ (fun _ h1 => ?_) ?_
  · exact State.holdData_frame (.sub rfl hM) _ h1
  · exact h

theorem execHeartbeatHalfPeriod_frame {M : Nat} {s0 : State} (hM : Touch.le (.of [.pins]) M) {s : State} (h : Same M s0 s) : OSame M s0 (execHeartbeatHalfPeriod s) := by
  unfold execHeartbeatHalfPeriod
  refine OSame.next ?_
  refine Same.ite ?_ ?_
  · exact Same.upd h (pins := .inl (.sub rfl hM))
  · exact h

theorem execPowerOnRelease_frame {M : Nat} {s0 : State} (hM : Touch.le (.of [.regs, .rst, .pins, .clk, .hif, .mmu, .cpy, .dmc, .qdc, .scr, .csm, .pos, .fir, .plk, .cam, .lop, .lck, .tim, .urg, .twn, .thm, .pmc, .latch, .dram, .tables, .draws, .out]) M) {s : State} (h : Same M s0 s) : OSame M s0 (execPowerOnRelease s) := by
  unfold execPowerOnRelease
  refine OSame.next ?_
  refine Same.ite ?_ ?_
  · refine State.settleResets_frame (.sub rfl hM) ?_
    exact Same.upd h (rst := .inl (.sub rfl hM))
  · exact h

theorem State.releaseNext_frame {M : Nat} {s0 : State} (hM : Touch.le (.of [.regs, .rst, .hif, .dmc, .scr, .csm, .pos, .fir, .plk, .lop, .lck, .urg, .twn, .thm, .pmc, .dram, .tables, .draws, .out]) M) {s : State} (d : Domain) (h : Same M s0 s) : Same M s0 (State.releaseNext s d) := by
  unfold State.releaseNext
  extract_lets -merge -underBinder +onlyGivenNames x1
  split
  · exact h
  · extract_lets -merge -underBinder +onlyGivenNames x2
    have hx2 : Same M s0 x2 := State.setReleased_frame (.sub rfl hM) _ _ h
    refine State.stageFour_frame (.sub rfl hM) ?_
    refine Same.ite ?_ ?_
    · exact State.releaseBlk_frame (.sub rfl hM) _ hx2
    · exact hx2

theorem execCsiClockLaneChange_frame {M : Nat} {s0 : State} (hM : Touch.le (.of [.clk]) M) (port : Fin 4) (running : Bool) {s : State} (h : Same M s0 s) : OSame M s0 (execCsiClockLaneChange port running s) := by
  unfold execCsiClockLaneChange
  refine OSame.next ?_
  exact Same.upd h (clk := .inl (.sub rfl hM))

theorem execRailDipDetect_frame {M : Nat} {s0 : State} (hM : Touch.le (.of [.regs, .rst, .pins, .clk, .hif, .mmu, .cpy, .dmc, .qdc, .scr, .csm, .pos, .fir, .plk, .cam, .lop, .lck, .tim, .urg, .twn, .thm, .pmc, .latch, .dram, .tables, .draws, .out]) M) {s : State} (h : Same M s0 s) : OSame M s0 (execRailDipDetect s) := by
  unfold execRailDipDetect
  refine OSame.next ?_
  refine State.settleResets_frame (.sub rfl hM) ?_
  refine State.noteCause_frame (.sub rfl hM) _ ?_
  exact Same.upd h (rst := .inl (.sub rfl hM))

theorem execPendingClockTimeout_frame {M : Nat} {s0 : State} (hM : Touch.le (.of [.rst]) M) (unit : ResetUnit) {s : State} (h : Same M s0 s) : OSame M s0 (execPendingClockTimeout unit s) := by
  unfold execPendingClockTimeout
  refine OSame.next ?_
  refine Same.ite ?_ ?_
  · refine Same.ite ?_ ?_
    · exact State.bootFail_frame (.sub rfl hM) _ h
    · refine Same.ite ?_ ?_
      · exact h
      · exact Same.upd h (rst := .inl (.sub rfl hM))
  · exact h

theorem State.writeSleep_frame {M : Nat} {s0 : State} (hM : Touch.le (.of [.rst]) M) {s : State} (v : Sys2Proof.Word) (h : Same M s0 s) : Same M s0 (State.writeSleep s v) := by
  unfold State.writeSleep
  refine Same.ite ?_ ?_
  · exact Same.upd h (rst := .inl (.sub rfl hM))
  · extract_lets -merge -underBinder +onlyGivenNames z_2 x3
    have hx3 : Same M s0 x3 := Same.upd h (rst := .inl (.sub rfl hM))
    refine Same.ite ?_ ?_
    · extract_lets -merge -underBinder +onlyGivenNames x5
      refine Same.ite ?_ ?_
      · exact Same.upd hx3 (rst := .inl (.sub rfl hM))
      · exact Same.upd hx3 (rst := .inl (.sub rfl hM))
    · exact hx3

theorem State.enterSleep_frame {M : Nat} {s0 : State} (hM : Touch.le (.of [.regs, .rst, .pins, .clk, .hif, .mmu, .cpy, .dmc, .qdc, .scr, .csm, .pos, .fir, .plk, .cam, .lop, .lck, .tim, .urg, .twn, .thm, .pmc, .latch, .dram, .tables, .draws, .out]) M) {s : State} (h : Same M s0 s) : Same M s0 (State.enterSleep s) := by
  unfold State.enterSleep
  extract_lets -merge -underBinder +onlyGivenNames x1
  have hx1 : Same M s0 x1 := State.hopSend_frame (.sub rfl hM) _ _ (State.hopSend_frame (.sub rfl hM) _ _ h)
  refine State.settleResets_frame (.sub rfl hM) ?_
  exact Same.upd hx1 (rst := .inl (.sub rfl hM)) (tim := .inl (.sub rfl hM)) (urg := .inl (.sub rfl hM))

theorem execSleepEntryTimeout_frame {M : Nat} {s0 : State} (hM : Touch.le (.of [.regs, .rst, .pins, .clk, .hif, .mmu, .cpy, .dmc, .qdc, .scr, .csm, .pos, .fir, .plk, .cam, .lop, .lck, .tim, .urg, .twn, .thm, .pmc, .latch, .dram, .tables, .draws, .out]) M) {s : State} (h : Same M s0 s) : OSame M s0 (execSleepEntryTimeout s) := by
  unfold execSleepEntryTimeout
  refine OSame.next ?_
  refine Same.ite ?_ ?_
  · exact State.enterSleep_frame (.sub rfl hM) h
  · exact h

theorem State.setFire_frame {M : Nat} {s0 : State} (hM : Touch.le (.of [.regs, .pins, .hif, .dmc, .scr, .csm, .fir, .plk, .lop, .lck, .urg, .twn, .pmc, .dram, .tables, .draws, .out]) M) {s : State} (on : Bool) (h : Same M s0 s) : Same M s0 (State.setFire s on) := by
  unfold State.setFire
  refine Same.ite ?_ ?_
  · exact h
  · extract_lets -merge -underBinder +onlyGivenNames z_1 x2
    have hx2 : Same M s0 x2 := Same.upd h (pins := .inl (.sub rfl hM))
    refine State.settle_frame (.sub rfl hM) _ ?_
    refine Same.ite ?_ ?_
    · exact State.clearCause_frame (.sub rfl hM) _ _ hx2
    · exact State.assertCause_frame (.sub rfl hM) _ _ hx2

theorem State.fireEdge_frame {M : Nat} {s0 : State} (hM : Touch.le (.of [.regs, .pins, .hif, .dmc, .scr, .csm, .fir, .plk, .lop, .lck, .urg, .twn, .pmc, .dram, .tables, .draws, .out]) M) {s : State} (h : Same M s0 s) : Same M s0 (State.fireEdge s) := by
  unfold State.fireEdge
  extract_lets -merge -underBinder +onlyGivenNames x1
  extract_lets -merge -underBinder +onlyGivenNames z_2 x3
  have hx3 : Same M s0 x3 := Same.upd h (pins := .inl (.sub rfl hM))
  refine Same.ite ?_ ?_
  · exact State.setFire_frame (.sub rfl hM) _ hx3
  · refine Same.ite ?_ ?_
    · exact State.setFire_frame (.sub rfl hM) _ hx3
    · exact hx3

theorem State.netDown_frame {M : Nat} {s0 : State} (hM : Touch.le (.of [.tim, .urg]) M) {s : State} (h : Same M s0 s) : Same M s0 (State.netDown s) := by
  unfold State.netDown
  exact Same.upd h (tim := .inl (.sub rfl hM)) (urg := .inl (.sub rfl hM))

theorem State.losePll_frame {M : Nat} {s0 : State} (hM : Touch.le (.of [.rst, .clk, .tim, .urg]) M) {s : State} (pll : Fin 11) (h : Same M s0 s) : Same M s0 (State.losePll s pll) := by
  unfold State.losePll
  extract_lets -merge -underBinder +onlyGivenNames z_1 x2
  have hx2 : Same M s0 x2 := Same.upd h (clk := .inl (.sub rfl hM))
  refine Same.ite ?_ ?_
  · exact State.netDown_frame (.sub rfl hM) hx2
  · refine Same.ite ?_ ?_
    · exact Same.upd hx2 (rst := .inl (.sub rfl hM))
    · exact hx2

theorem execPllLosesLock_frame {M : Nat} {s0 : State} (hM : Touch.le (.of [.rst, .clk, .tim, .urg]) M) (pll : Fin 11) {s : State} (h : Same M s0 s) : OSame M s0 (execPllLosesLock pll s) := by
  unfold execPllLosesLock
  refine OSame.next ?_
  exact State.losePll_frame (.sub rfl hM) _ h

theorem execFireEnableTimeout_frame {M : Nat} {s0 : State} (hM : Touch.le (.of [.regs, .pins, .hif, .dmc, .scr, .csm, .fir, .plk, .lop, .lck, .tim, .urg, .twn, .pmc, .dram, .tables, .now, .draws, .out]) M) (at_ : Nat) {s : State} (h : Same M s0 s) : OSame M s0 (execFireEnableTimeout at_ s) := by
  unfold execFireEnableTimeout
  extract_lets -merge -underBinder +onlyGivenNames x1
  have hx1 : Same M s0 x1 := State.advance_frame (.sub rfl hM) _ h
  refine OSame.next ?_
  split
  · refine Same.ite ?_ ?_
    · refine State.setFire_frame (.sub rfl hM) _ ?_
      exact Same.upd hx1 (pins := .inl (.sub rfl hM))
    · exact hx1
  · exact hx1

theorem State.wakeUp_frame {M : Nat} {s0 : State} (hM : Touch.le (.of [.regs, .rst, .pins, .clk, .hif, .mmu, .cpy, .dmc, .qdc, .scr, .csm, .pos, .fir, .plk, .cam, .lop, .lck, .tim, .urg, .twn, .thm, .pmc, .latch, .dram, .tables, .draws, .out]) M) {s : State} (bit : Option Nat) (h : Same M s0 s) : Same M s0 (State.wakeUp s bit) := by
  unfold State.wakeUp
  extract_lets -merge -underBinder +onlyGivenNames x1
  have hx1 : Same M s0 x1 := State.pullBalls_frame (.sub rfl hM) (State.followPerst_frame (.sub rfl hM) h)
  refine State.settleResets_frame (.sub rfl hM) ?_
  exact Same.upd hx1 (rst := .inl (.sub rfl hM))

theorem State.wakeEvent_frame {M : Nat} {s0 : State} (hM : Touch.le (.of [.regs, .rst, .pins, .clk, .hif, .mmu, .cpy, .dmc, .qdc, .scr, .csm, .pos, .fir, .plk, .cam, .lop, .lck, .tim, .urg, .twn, .thm, .pmc, .latch, .dram, .tables, .draws, .out]) M) {s : State} (bit : Nat) (h : Same M s0 s) : Same M s0 (State.wakeEvent s bit) := by
  unfold State.wakeEvent
  refine Same.ite ?_ ?_
  · exact State.wakeUp_frame (.sub rfl hM) _ h
  · refine Same.ite ?_ ?_
    · exact Same.upd h (rst := .inl (.sub rfl hM))
    · exact h

theorem execPciePerstDeassert_frame {M : Nat} {s0 : State} (hM : Touch.le (.of [.regs, .rst, .pins, .clk, .hif, .mmu, .cpy, .dmc, .qdc, .scr, .csm, .pos, .fir, .plk, .cam, .lop, .lck, .tim, .urg, .twn, .thm, .pmc, .latch, .dram, .tables, .draws, .out]) M) {s : State} (h : Same M s0 s) : OSame M s0 (execPciePerstDeassert s) := by
  unfold execPciePerstDeassert
  extract_lets -merge -underBinder +onlyGivenNames z_1 x2
  have hx2 : Same M s0 x2 := Same.upd h (rst := .inl (.sub rfl hM))
  extract_lets -merge -underBinder +onlyGivenNames x4
  have hx4 : Same M s0 x4 := by
    refine Same.ite ?_ ?_
    · exact State.wakeUp_frame (.sub rfl hM) _ hx2
    · exact State.settleResets_frame (.sub rfl hM) (State.wakeEvent_frame (.sub rfl hM) _ hx2)
  refine OSame.next ?_
  exact Same.upd hx4 (rst := .inl (.sub rfl hM))

theorem execD3hotEntry_frame {M : Nat} {s0 : State} (hM : Touch.le (.of [.rst]) M) {s : State} (h : Same M s0 s) : OSame M s0 (execD3hotEntry s) := by
  unfold execD3hotEntry
  refine OSame.next ?_
  refine Same.ite ?_ ?_
  · exact Same.upd h (rst := .inl (.sub rfl hM))
  · exact h

theorem State.holdLinks_frame {M : Nat} {s0 : State} (hM : Touch.le (.of [.regs, .rst, .pins, .clk, .hif, .mmu, .cpy, .dmc, .qdc, .scr, .csm, .pos, .fir, .plk, .cam, .lop, .lck, .tim, .urg, .twn, .thm, .pmc, .latch, .dram, .tables, .draws, .out]) M) {s : State} (hold : BitVec 32) (h : Same M s0 s) : Same M s0 (State.holdLinks s hold) := by
  unfold State.holdLinks
  extract_lets -merge -underBinder +onlyGivenNames z_1 x2
  have hx2 : Same M s0 x2 := Same.upd h (rst := .inl (.sub rfl hM))
  refine State.settleResets_frame (.sub rfl hM) ?_
  refine Same.ite ?_ ?_
  · exact hx2
  · exact State.noteCause_frame (.sub rfl hM) _ hx2

theorem execRstLinkWrite_frame {M : Nat} {s0 : State} (hM : Touch.le (.of [.regs, .rst, .pins, .clk, .hif, .mmu, .cpy, .dmc, .qdc, .scr, .csm, .pos, .fir, .plk, .cam, .lop, .lck, .tim, .urg, .twn, .thm, .pmc, .latch, .dram, .tables, .draws, .out]) M) (hold : BitVec 32) {s : State} (h : Same M s0 s) : OSame M s0 (execRstLinkWrite hold s) := by
  unfold execRstLinkWrite
  refine OSame.next ?_
  refine State.onWrite_frame (.sub rfl hM) _ _ (fun _ h1 => ?_) ?_
  · exact State.holdLinks_frame (.sub rfl hM) _ h1
  · exact h

theorem State.measStart_frame {M : Nat} {s0 : State} (hM : Touch.le (.of [.regs, .clk]) M) {s : State} (v : Sys2Proof.Word) (h : Same M s0 s) : Same M s0 (State.measStart s v) := by
  unfold State.measStart
  extract_lets -merge -underBinder +onlyGivenNames x1
  have hx1 : Same M s0 x1 := State.hostWrite_frame (.sub rfl hM) _ _ h
  refine Same.ite ?_ ?_
  · exact Same.upd hx1 (clk := .inl (.sub rfl hM))
  · exact hx1

theorem execPciePerstAssert_frame {M : Nat} {s0 : State} (hM : Touch.le (.of [.regs, .rst, .pins, .clk, .hif, .mmu, .cpy, .dmc, .qdc, .scr, .csm, .pos, .fir, .plk, .cam, .lop, .lck, .tim, .urg, .twn, .thm, .pmc, .latch, .dram, .tables, .draws, .out]) M) {s : State} (h : Same M s0 s) : OSame M s0 (execPciePerstAssert s) := by
  unfold execPciePerstAssert
  extract_lets -merge -underBinder +onlyGivenNames z_1 x2
  have hx2 : Same M s0 x2 := Same.upd h (rst := .inl (.sub rfl hM))
  refine OSame.next ?_
  refine Same.ite ?_ ?_
  · exact hx2
  · refine Same.ite ?_ ?_
    · exact State.enterSleep_frame (.sub rfl hM) hx2
    · refine State.settleResets_frame (.sub rfl hM) ?_
      refine State.noteCause_frame (.sub rfl hM) _ ?_
      exact Same.upd hx2 (rst := .inl (.sub rfl hM))

theorem execWatchdogSourceRelease_frame {M : Nat} {s0 : State} (hM : Touch.le (.of [.regs, .rst, .pins, .clk, .hif, .mmu, .cpy, .dmc, .qdc, .scr, .csm, .pos, .fir, .plk, .cam, .lop, .lck, .tim, .urg, .twn, .thm, .pmc, .latch, .dram, .tables, .draws, .out]) M) {s : State} (h : Same M s0 s) : OSame M s0 (execWatchdogSourceRelease s) := by
  unfold execWatchdogSourceRelease
  refine OSame.next ?_
  refine State.settleResets_frame (.sub rfl hM) ?_
  exact Same.upd h (rst := .inl (.sub rfl hM))

theorem execClkMeasStart_frame {M : Nat} {s0 : State} (hM : Touch.le (.of [.regs, .clk, .hif]) M) (value : Sys2Proof.Word) {s : State} (h : Same M s0 s) : OSame M s0 (execClkMeasStart value s) := by
  unfold execClkMeasStart
  refine OSame.next ?_
  refine State.onWrite_frame (.sub rfl hM) _ _ (fun _ h1 => ?_) ?_
  · exact State.measStart_frame (.sub rfl hM) _ h1
  · exact h

theorem execSleepDrainDone_frame {M : Nat} {s0 : State} (hM : Touch.le (.of [.rst]) M) {s : State} (h : Same M s0 s) : OSame M s0 (execSleepDrainDone s) := by
  unfold execSleepDrainDone
  refine OSame.next ?_
  refine Same.ite ?_ ?_
  · exact Same.upd h (rst := .inl (.sub rfl hM))
  · exact h

theorem State.bootSlots_frame {M : Nat} {s0 : State} (hM : Touch.le (.of [.regs, .rst, .pins, .clk, .hif, .mmu, .cpy, .dmc, .qdc, .scr, .csm, .pos, .fir, .plk, .cam, .lop, .lck, .tim, .urg, .twn, .thm, .pmc, .latch, .dram, .tables, .draws, .out]) M) {s : State} (a : Sys2Proof.SlotCheck) (b : Sys2Proof.SlotCheck) (h : Same M s0 s) : Same M s0 (State.bootSlots s a b) := by
  unfold State.bootSlots
  extract_lets -merge -underBinder +onlyGivenNames x1
  split
  · refine State.settleResets_frame (.sub rfl hM) ?_
    exact Same.upd h (rst := .inl (.sub rfl hM))
  · refine State.settleResets_frame (.sub rfl hM) ?_
    exact Same.upd h (rst := .inl (.sub rfl hM))
  · refine State.settleResets_frame (.sub rfl hM) ?_
    exact Same.upd h (rst := .inl (.sub rfl hM))
  · exact State.bootFail_frame (.sub rfl hM) _ h

theorem State.holdCtrl_frame {M : Nat} {s0 : State} (hM : Touch.le (.of [.regs, .rst, .pins, .clk, .hif, .mmu, .cpy, .dmc, .qdc, .scr, .csm, .pos, .fir, .plk, .cam, .lop, .lck, .tim, .urg, .twn, .thm, .pmc, .latch, .dram, .tables, .draws, .out]) M) {s : State} (hold : Bool) (h : Same M s0 s) : Same M s0 (State.holdCtrl s hold) := by
  unfold State.holdCtrl
  extract_lets -merge -underBinder +onlyGivenNames z_1 x2
  have hx2 : Same M s0 x2 := Same.upd h (rst := .inl (.sub rfl hM))
  refine State.settleResets_frame (.sub rfl hM) ?_
  refine Same.ite ?_ ?_
  · exact State.noteCause_frame (.sub rfl hM) _ hx2
  · exact hx2

theorem execSecureBootDone_frame {M : Nat} {s0 : State} (hM : Touch.le (.of [.regs, .rst, .pins, .clk, .hif, .mmu, .cpy, .dmc, .qdc, .scr, .csm, .pos, .fir, .plk, .cam, .lop, .lck, .tim, .urg, .twn, .thm, .pmc, .latch, .dram, .tables, .draws, .out]) M) (slotA : Sys2Proof.SlotCheck) (slotB : Sys2Proof.SlotCheck) {s : State} (h : Same M s0 s) : OSame M s0 (execSecureBootDone slotA slotB s) := by
  unfold execSecureBootDone
  refine OSame.next ?_
  refine Same.ite ?_ ?_
  · exact State.bootSlots_frame (.sub rfl hM) _ _ h
  · exact h

theorem execPowerOnAssert_frame {M : Nat} {s0 : State} (hM : Touch.le (.of [.regs, .rst, .pins, .clk, .hif, .mmu, .cpy, .dmc, .qdc, .scr, .csm, .pos, .fir, .plk, .cam, .lop, .lck, .tim, .urg, .twn, .thm, .pmc, .latch, .dram, .tables, .draws, .out]) M) {s : State} (h : Same M s0 s) : OSame M s0 (execPowerOnAssert s) := by
  unfold execPowerOnAssert
  refine OSame.next ?_
  refine State.settleResets_frame (.sub rfl hM) ?_
  exact Same.upd h (rst := .inl (.sub rfl hM)) (pins := .inl (.sub rfl hM)) (clk := .inl (.sub rfl hM))

theorem execRstCtrlHoldWrite_frame {M : Nat} {s0 : State} (hM : Touch.le (.of [.regs, .rst, .pins, .clk, .hif, .mmu, .cpy, .dmc, .qdc, .scr, .csm, .pos, .fir, .plk, .cam, .lop, .lck, .tim, .urg, .twn, .thm, .pmc, .latch, .dram, .tables, .draws, .out]) M) (hold : Bool) {s : State} (h : Same M s0 s) : OSame M s0 (execRstCtrlHoldWrite hold s) := by
  unfold execRstCtrlHoldWrite
  refine OSame.next ?_
  refine State.onWrite_frame (.sub rfl hM) _ _ (fun _ h1 => ?_) ?_
  · exact State.holdCtrl_frame (.sub rfl hM) _ h1
  · exact h

theorem execBlockRelease_frame {M : Nat} {s0 : State} (hM : Touch.le (.of [.regs, .rst, .hif, .dmc, .scr, .csm, .pos, .fir, .plk, .lop, .lck, .urg, .twn, .thm, .pmc, .dram, .tables, .draws, .out]) M) (domain : Domain) {s : State} (h : Same M s0 s) : OSame M s0 (execBlockRelease domain s) := by
  unfold execBlockRelease
  refine OSame.next ?_
  refine Same.ite ?_ ?_
  · exact State.releaseNext_frame (.sub rfl hM) _ h
  · exact h

theorem State.holdBlocks_frame {M : Nat} {s0 : State} (hM : Touch.le (.of [.regs, .rst, .pins, .clk, .hif, .mmu, .cpy, .dmc, .qdc, .scr, .csm, .pos, .fir, .plk, .cam, .lop, .lck, .tim, .urg, .twn, .thm, .pmc, .latch, .dram, .tables, .draws, .out]) M) {s : State} (hold : BitVec 12) (h : Same M s0 s) : Same M s0 (State.holdBlocks s hold) := by
  unfold State.holdBlocks
  extract_lets -merge -underBinder +onlyGivenNames z_1 x2
  have hx2 : Same M s0 x2 := Same.upd h (rst := .inl (.sub rfl hM))
  refine State.settleResets_frame (.sub rfl hM) ?_
  refine Same.ite ?_ ?_
  · exact hx2
  · exact State.noteCause_frame (.sub rfl hM) _ hx2

theorem execRstBlockHoldWrite_frame {M : Nat} {s0 : State} (hM : Touch.le (.of [.regs, .rst, .pins, .clk, .hif, .mmu, .cpy, .dmc, .qdc, .scr, .csm, .pos, .fir, .plk, .cam, .lop, .lck, .tim, .urg, .twn, .thm, .pmc, .latch, .dram, .tables, .draws, .out]) M) (hold : BitVec 12) {s : State} (h : Same M s0 s) : OSame M s0 (execRstBlockHoldWrite hold s) := by
  unfold execRstBlockHoldWrite
  refine OSame.next ?_
  refine State.onWrite_frame (.sub rfl hM) _ _ (fun _ h1 => ?_) ?_
  · exact State.holdBlocks_frame (.sub rfl hM) _ h1
  · exact h

theorem State.stageFive_frame {M : Nat} {s0 : State} (hM : Touch.le (.of [.rst]) M) {s : State} (h : Same M s0 s) : Same M s0 (State.stageFive s) := by
  unfold State.stageFive
  refine Same.ite ?_ ?_
  · exact Same.upd h (rst := .inl (.sub rfl hM))
  · exact h

theorem execSerdesCalibrationDone_frame {M : Nat} {s0 : State} (hM : Touch.le (.of [.rst, .tim, .urg]) M) (bank : Bank) (ok : Bool) {s : State} (h : Same M s0 s) : OSame M s0 (execSerdesCalibrationDone bank ok s) := by
  unfold execSerdesCalibrationDone
  extract_lets -merge -underBinder +onlyGivenNames x1
  refine OSame.next ?_
  split
  · refine Same.ite ?_ ?_
    · exact Same.upd h (rst := .inl (.sub rfl hM))
    · exact h
  · refine Same.ite ?_ ?_
    · refine State.stageFive_frame (.sub rfl hM) ?_
      exact Same.upd h (rst := .inl (.sub rfl hM))
    · exact h
  · refine Same.ite ?_ ?_
    · refine State.stageFive_frame (.sub rfl hM) ?_
      exact Same.upd h (rst := .inl (.sub rfl hM))
    · exact h
  · refine Same.ite ?_ ?_
    · extract_lets -merge -underBinder +onlyGivenNames x5
      have hx5 : Same M s0 x5 := by
        refine State.stageFive_frame (.sub rfl hM) ?_
        exact Same.upd h (rst := .inl (.sub rfl hM))
      refine Same.ite ?_ ?_
      · exact hx5
      · exact State.netDown_frame (.sub rfl hM) hx5
    · exact h
  · refine Same.ite ?_ ?_
    · refine State.stageFive_frame (.sub rfl hM) ?_
      exact Same.upd h (rst := .inl (.sub rfl hM))
    · exact h

theorem execRailRecoverRelease_frame {M : Nat} {s0 : State} (hM : Touch.le (.of [.regs, .rst, .pins, .clk, .hif, .mmu, .cpy, .dmc, .qdc, .scr, .csm, .pos, .fir, .plk, .cam, .lop, .lck, .tim, .urg, .twn, .thm, .pmc, .latch, .dram, .tables, .draws, .out]) M) {s : State} (h : Same M s0 s) : OSame M s0 (execRailRecoverRelease s) := by
  unfold execRailRecoverRelease
  refine OSame.next ?_
  refine State.settleResets_frame (.sub rfl hM) ?_
  exact Same.upd h (rst := .inl (.sub rfl hM))

theorem execDmcZqCalDone_frame {M : Nat} {s0 : State} (hM : Touch.le (.of [.rst, .dmc]) M) {s : State} (h : Same M s0 s) : OSame M s0 (execDmcZqCalDone s) := by
  unfold execDmcZqCalDone
  refine OSame.next ?_
  refine Same.ite ?_ ?_
  · exact Same.upd h (rst := .inl (.sub rfl hM)) (dmc := .inl (.sub rfl hM))
  · exact h

theorem execGpioWakeEdge_frame {M : Nat} {s0 : State} (hM : Touch.le (.of [.regs, .rst, .pins, .clk, .hif, .mmu, .cpy, .dmc, .qdc, .scr, .csm, .pos, .fir, .plk, .cam, .lop, .lck, .tim, .urg, .twn, .thm, .pmc, .latch, .dram, .tables, .draws, .out]) M) (gpio : Fin 16) (rising : Bool) {s : State} (h : Same M s0 s) : OSame M s0 (execGpioWakeEdge gpio rising s) := by
  unfold execGpioWakeEdge
  extract_lets -merge -underBinder +onlyGivenNames x1
  refine OSame.next ?_
  refine Same.ite ?_ ?_
  · exact State.wakeEvent_frame (.sub rfl hM) _ h
  · exact h

theorem execOscillatorStart_frame {M : Nat} {s0 : State} (hM : Touch.le (.of [.rst]) M) {s : State} (h : Same M s0 s) : OSame M s0 (execOscillatorStart s) := by
  unfold execOscillatorStart
  refine OSame.next ?_
  exact Same.upd h (rst := .inl (.sub rfl hM))

theorem execResetNRelease_frame {M : Nat} {s0 : State} (hM : Touch.le (.of [.regs, .rst, .pins, .clk, .hif, .mmu, .cpy, .dmc, .qdc, .scr, .csm, .pos, .fir, .plk, .cam, .lop, .lck, .tim, .urg, .twn, .thm, .pmc, .latch, .dram, .tables, .draws, .out]) M) {s : State} (h : Same M s0 s) : OSame M s0 (execResetNRelease s) := by
  unfold execResetNRelease
  extract_lets -merge -underBinder +onlyGivenNames z_1 x2
  have hx2 : Same M s0 x2 := Same.upd h (rst := .inl (.sub rfl hM))
  refine OSame.next ?_
  refine Same.ite ?_ ?_
  · exact State.wakeUp_frame (.sub rfl hM) _ hx2
  · exact State.settleResets_frame (.sub rfl hM) hx2

theorem execFireEnableEdge_frame {M : Nat} {s0 : State} (hM : Touch.le (.of [.regs, .pins, .hif, .dmc, .scr, .csm, .fir, .plk, .lop, .lck, .tim, .urg, .twn, .pmc, .dram, .tables, .now, .draws, .out]) M) (at_ : Nat) {s : State} (h : Same M s0 s) : OSame M s0 (execFireEnableEdge at_ s) := by
  unfold execFireEnableEdge
  extract_lets -merge -underBinder +onlyGivenNames x1
  have hx1 : Same M s0 x1 := State.advance_frame (.sub rfl hM) _ h
  refine OSame.next ?_
  refine Same.ite ?_ ?_
  · exact State.fireEdge_frame (.sub rfl hM) hx1
  · exact hx1

theorem execRegAccessAbandoned_frame {M : Nat} {s0 : State} (hM : Touch.le (.of [.regs, .hif, .pmc, .out]) M) (write : Bool) (offset : BitVec 25) {s : State} (h : Same M s0 s) : OSame M s0 (execRegAccessAbandoned write offset s) := by
  unfold execRegAccessAbandoned
  extract_lets -merge -underBinder +onlyGivenNames x1
  extract_lets -merge -underBinder +onlyGivenNames x2
  refine OSame.next ?_
  refine Same.ite ?_ ?_
  · split
    · refine State.log_frame (.sub rfl hM) _ _ _ _ ?_
      refine State.discardWrite_frame (.sub rfl hM) ?_
      exact Same.upd h (hif := .inl (.sub rfl hM))
    · exact h
  · refine Same.ite ?_ ?_
    · refine State.log_frame (.sub rfl hM) _ _ _ _ ?_
      refine State.completeReads_frame (.sub rfl hM) ?_
      exact Same.upd h (hif := .inl (.sub rfl hM))
    · exact h

theorem execBar2Access_frame {M : Nat} {s0 : State} (hM : Touch.le (.of [.hif, .dmc, .twn, .pmc, .dram, .draws, .out]) M) (write : Bool) (offset : BitVec 28) (bytes : List Sys2Proof.Byte) {s : State} (h : Same M s0 s) : OSame M s0 (execBar2Access write offset bytes s) := by
  unfold execBar2Access
  extract_lets -merge -underBinder +onlyGivenNames x1
  refine OSame.next ?_
  refine Same.ite ?_ ?_
  · exact h
  · refine Same.ite ?_ ?_
    · refine Same.ite ?_ ?_
      · exact State.discardWrite_frame (.sub rfl hM) h
      · exact State.emit_frame (.sub rfl hM) _ h
    · refine Same.ite ?_ ?_
      · exact State.dramPut_frame (.sub rfl hM) _ _ _ _ h
      · split
        · rename_i v2 v3 v4 e5
          have hv4 : Same M s0 v4 := (congrArg (fun r => Same M s0 r.2.2) e5).mp (State.dramRead_frame (.sub rfl hM) _ _ _ _ h)
          exact State.emit_frame (.sub rfl hM) _ hv4

theorem State.takeTraining_frame {M : Nat} {s0 : State} (hM : Touch.le (.of [.rst, .dmc]) M) {s : State} (h : Same M s0 s) : Same M s0 (State.takeTraining s) := by
  unfold State.takeTraining
  split
  · extract_lets -merge -underBinder +onlyGivenNames x1
    extract_lets -merge -underBinder +onlyGivenNames x2
    extract_lets -merge -underBinder +onlyGivenNames x3
    extract_lets -merge -underBinder +onlyGivenNames x4
    exact Same.upd h (rst := .inl (.sub rfl hM)) (dmc := .inl (.sub rfl hM))
  · exact h

theorem execDramTrainingDone_frame {M : Nat} {s0 : State} (hM : Touch.le (.of [.rst, .dmc]) M) (channel : Fin 2) (result : TrainResult) {s : State} (h : Same M s0 s) : OSame M s0 (execDramTrainingDone channel result s) := by
  unfold execDramTrainingDone
  refine OSame.next ?_
  refine Same.ite ?_ ?_
  · extract_lets -merge -underBinder +onlyGivenNames x1
    extract_lets -merge -underBinder +onlyGivenNames z_2 x3
    have hx3 : Same M s0 x3 := Same.upd h (rst := .inl (.sub rfl hM))
    refine Same.ite ?_ ?_
    · exact State.bootFail_frame (.sub rfl hM) _ hx3
    · exact State.stageFive_frame (.sub rfl hM) (State.takeTraining_frame (.sub rfl hM) hx3)
  · exact h

theorem State.driveHearts_frame {M : Nat} {s0 : State} (hM : Touch.le (.of [.pins]) M) {s : State} (h : Same M s0 s) : Same M s0 (State.driveHearts s) := by
  unfold State.driveHearts
  extract_lets -merge -underBinder +onlyGivenNames x1
  exact Same.upd h (pins := .inl (.sub rfl hM))

theorem execWatchdogExpiry_frame {M : Nat} {s0 : State} (hM : Touch.le (.of [.regs, .rst, .pins, .clk, .hif, .mmu, .cpy, .dmc, .qdc, .scr, .csm, .pos, .fir, .plk, .cam, .lop, .lck, .tim, .urg, .twn, .thm, .pmc, .latch, .dram, .tables, .draws, .out]) M) {s : State} (h : Same M s0 s) : OSame M s0 (execWatchdogExpiry s) := by
  unfold execWatchdogExpiry
  refine OSame.next ?_
  refine Same.ite ?_ ?_
  · refine State.settleResets_frame (.sub rfl hM) ?_
    refine State.noteCause_frame (.sub rfl hM) _ ?_
    exact Same.upd h (rst := .inl (.sub rfl hM))
  · exact h

theorem execPcieLinkUp_frame {M : Nat} {s0 : State} (hM : Touch.le (.of [.rst]) M) {s : State} (h : Same M s0 s) : OSame M s0 (execPcieLinkUp s) := by
  unfold execPcieLinkUp
  refine OSame.next ?_
  refine Same.ite ?_ ?_
  · exact Same.upd h (rst := .inl (.sub rfl hM))
  · exact h

theorem execSleepEnterWrite_frame {M : Nat} {s0 : State} (hM : Touch.le (.of [.rst, .hif]) M) (value : Sys2Proof.Word) {s : State} (h : Same M s0 s) : OSame M s0 (execSleepEnterWrite value s) := by
  unfold execSleepEnterWrite
  refine OSame.next ?_
  refine State.onWrite_frame (.sub rfl hM) _ _ (fun _ h1 => ?_) ?_
  · exact State.writeSleep_frame (.sub rfl hM) _ h1
  · exact h

theorem execFirmwareSelfTestDone_frame {M : Nat} {s0 : State} (hM : Touch.le (.of [.rst, .pins, .pmc]) M) (ok : Bool) (elapsedMs : Nat) {s : State} (h : Same M s0 s) : OSame M s0 (execFirmwareSelfTestDone ok elapsedMs s) := by
  unfold execFirmwareSelfTestDone
  refine OSame.next ?_
  refine Same.ite ?_ ?_
  · refine Same.ite ?_ ?_
    · refine State.driveHearts_frame (.sub rfl hM) ?_
      refine State.loadStandard_frame (.sub rfl hM) ?_
      exact Same.upd h (rst := .inl (.sub rfl hM))
    · exact State.bootFail_frame (.sub rfl hM) _ h
  · exact h

theorem execClkMeasDone_frame {M : Nat} {s0 : State} (hM : Touch.le (.of [.clk]) M) (count : BitVec 31) {s : State} (h : Same M s0 s) : OSame M s0 (execClkMeasDone count s) := by
  unfold execClkMeasDone
  refine OSame.next ?_
  split
  · exact h
  · extract_lets -merge -underBinder +onlyGivenNames x1
    exact Same.upd h (clk := .inl (.sub rfl hM))

theorem execResetNAssert_frame {M : Nat} {s0 : State} (hM : Touch.le (.of [.regs, .rst, .pins, .clk, .hif, .mmu, .cpy, .dmc, .qdc, .scr, .csm, .pos, .fir, .plk, .cam, .lop, .lck, .tim, .urg, .twn, .thm, .pmc, .latch, .dram, .tables, .draws, .out]) M) {s : State} (h : Same M s0 s) : OSame M s0 (execResetNAssert s) := by
  unfold execResetNAssert
  refine OSame.next ?_
  refine State.settleResets_frame (.sub rfl hM) ?_
  refine State.noteCause_frame (.sub rfl hM) _ ?_
  exact Same.upd h (rst := .inl (.sub rfl hM))

theorem execIsolationDrained_frame {M : Nat} {s0 : State} (hM : Touch.le (.of [.regs, .rst, .pins, .clk, .hif, .mmu, .cpy, .dmc, .qdc, .scr, .csm, .pos, .fir, .plk, .cam, .lop, .lck, .tim, .urg, .twn, .thm, .pmc, .latch, .dram, .tables, .draws, .out]) M) (unit : ResetUnit) {s : State} (h : Same M s0 s) : OSame M s0 (execIsolationDrained unit s) := by
  unfold execIsolationDrained
  refine OSame.next ?_
  refine Same.ite ?_ ?_
  · exact State.settleResets_frame (.sub rfl hM) (State.setUnit_frame (.sub rfl hM) _ _ h)
  · exact h

end Sys2Proof.Machine
end

