-- ==== Sys2Proof/Laws/FrameTime.lean ====
section
/-! SUPPORT. What the operations of Machine/Time.lean may change. -/

set_option Elab.async false

namespace Sys2Proof.Machine

theorem State.modPtp_frame {M : Nat} {s0 : State} (hM : Touch.le (.of [.tim]) M) {s : State} (f : PtpExchange → PtpExchange) (h : Same M s0 s) : Same M s0 (State.modPtp s f) := by
  unfold State.modPtp
  exact Same.upd h (tim := .inl (.sub rfl hM))

theorem State.stepTime_frame {M : Nat} {s0 : State} (hM : Touch.le (.of [.fir, .tim]) M) {s : State} (d : Int) (h : Same M s0 s) : Same M s0 (State.stepTime s d) := by
  unfold State.stepTime
  exact Same.upd h (fir := .inl (.sub rfl hM)) (tim := .inl (.sub rfl hM))

theorem State.setRate_frame {M : Nat} {s0 : State} (hM : Touch.le (.of [.tim]) M) {s : State} (r : Int) (h : Same M s0 s) : Same M s0 (State.setRate s r) := by
  unfold State.setRate
  exact Same.upd h (tim := .inl (.sub rfl hM))

theorem State.servo_frame {M : Nat} {s0 : State} (hM : Touch.le (.of [.fir, .tim, .draws]) M) {s : State} (e : Int) (h : Same M s0 s) : Same M s0 (State.servo s e) := by
  unfold State.servo
  refine Same.ite ?_ ?_
  · exact State.stepTime_frame (.sub rfl hM) _ h
  · extract_lets -merge -underBinder +onlyGivenNames x1
    exact State.setRate_frame (.sub rfl hM) _ (State.draw_frame (.sub rfl hM) h)

theorem State.timeUpdate_frame {M : Nat} {s0 : State} (hM : Touch.le (.of [.fir, .tim, .draws]) M) {s : State} (e : Int) (h : Same M s0 s) : Same M s0 (State.timeUpdate s e) := by
  unfold State.timeUpdate
  extract_lets -merge -underBinder +onlyGivenNames z_1 x2
  have hx2 : Same M s0 x2 := Same.upd h (tim := .inl (.sub rfl hM))
  split
  · refine State.servo_frame (.sub rfl hM) _ ?_
    exact Same.upd hx2 (tim := .inl (.sub rfl hM))
  · extract_lets -merge -underBinder +onlyGivenNames x5
    refine Same.ite ?_ ?_
    · refine State.servo_frame (.sub rfl hM) _ ?_
      exact Same.upd hx2 (tim := .inl (.sub rfl hM))
    · refine State.servo_frame (.sub rfl hM) _ ?_
      exact Same.upd hx2 (tim := .inl (.sub rfl hM))
  · extract_lets -merge -underBinder +onlyGivenNames x8
    refine Same.ite ?_ ?_
    · refine State.servo_frame (.sub rfl hM) _ ?_
      exact Same.upd hx2 (tim := .inl (.sub rfl hM))
    · refine State.servo_frame (.sub rfl hM) _ ?_
      exact Same.upd hx2 (tim := .inl (.sub rfl hM))
  · refine Same.ite ?_ ?_
    · refine State.servo_frame (.sub rfl hM) _ ?_
      exact Same.upd hx2 (tim := .inl (.sub rfl hM))
    · exact Same.upd hx2 (tim := .inl (.sub rfl hM))

theorem State.syncResult_frame {M : Nat} {s0 : State} (hM : Touch.le (.of [.fir, .tim, .draws]) M) {s : State} (master : Int) (arrival : Int) (h : Same M s0 s) : Same M s0 (State.syncResult s master arrival) := by
  unfold State.syncResult
  extract_lets -merge -underBinder +onlyGivenNames x1
  have hx1 : Same M s0 x1 := State.modPtp_frame (.sub rfl hM) _ h
  refine Same.ite ?_ ?_
  · exact State.timeUpdate_frame (.sub rfl hM) _ hx1
  · exact hx1

theorem State.ptpIn_frame {M : Nat} {s0 : State} (hM : Touch.le (.of [.fir, .tim, .draws, .out]) M) {s : State} (m : PtpRx) (h : Same M s0 s) : Same M s0 (State.ptpIn s m) := by
  unfold State.ptpIn
  extract_lets -merge -underBinder +onlyGivenNames x1
  split
  · refine Same.ite ?_ ?_
    · exact h
    · refine Same.ite ?_ ?_
      · exact State.modPtp_frame (.sub rfl hM) _ h
      · exact State.syncResult_frame (.sub rfl hM) _ _ h
  · split
    · refine Same.ite ?_ ?_
      · exact State.syncResult_frame (.sub rfl hM) _ _ h
      · exact h
    · exact h
  · split
    · refine Same.ite ?_ ?_
      · exact State.modPtp_frame (.sub rfl hM) _ h
      · exact h
    · exact h
  · split
    · refine Same.ite ?_ ?_
      · exact State.modPtp_frame (.sub rfl hM) _ h
      · exact h
    · exact h
  · refine Same.ite ?_ ?_
    · exact State.emit_frame (.sub rfl hM) _ h
    · exact h
  · refine Same.ite ?_ ?_
    · exact State.emit_frame (.sub rfl hM) _ h
    · exact h
  · exact Same.upd h (tim := .inl (.sub rfl hM))
  · exact State.emit_frame (.sub rfl hM) _ h
  · exact h

theorem execHoldoverExpiry_frame {M : Nat} {s0 : State} (hM : Touch.le (.of [.tim]) M) {s : State} (h : Same M s0 s) : OSame M s0 (execHoldoverExpiry s) := by
  unfold execHoldoverExpiry
  refine OSame.next ?_
  refine Same.ite ?_ ?_
  · exact Same.upd h (tim := .inl (.sub rfl hM))
  · exact h

theorem execTimRateWrite_frame {M : Nat} {s0 : State} (hM : Touch.le (.of [.hif, .fir, .tim, .pmc, .now]) M) (value : Sys2Proof.Word) (at_ : Nat) {s : State} (h : Same M s0 s) : OSame M s0 (execTimRateWrite value at_ s) := by
  unfold execTimRateWrite
  refine OSame.next ?_
  refine State.onWrite_frame (.sub rfl hM) _ _ (fun _ h1 => ?_) ?_
  · refine Same.ite ?_ ?_
    · exact State.setRate_frame (.sub rfl hM) _ h1
    · exact h1
  · exact State.advance_frame (.sub rfl hM) _ h

theorem State.writeGpioCfg_frame {M : Nat} {s0 : State} (hM : Touch.le (.of [.regs, .pins, .tim]) M) {s : State} (g : Fin 16) (v : Sys2Proof.Word) (h : Same M s0 s) : Same M s0 (State.writeGpioCfg s g v) := by
  unfold State.writeGpioCfg
  extract_lets -merge -underBinder +onlyGivenNames x1
  have hx1 : Same M s0 x1 := State.hostWrite_frame (.sub rfl hM) _ _ h
  split
  · exact Same.upd hx1 (pins := .inl (.sub rfl hM)) (tim := .inl (.sub rfl hM))
  · refine State.driveGpio_frame (.sub rfl hM) _ _ ?_
    exact Same.upd hx1 (tim := .inl (.sub rfl hM))
  · exact State.driveGpio_frame (.sub rfl hM) _ _ hx1

theorem execGpioModeWrite_frame {M : Nat} {s0 : State} (hM : Touch.le (.of [.regs, .pins, .hif, .tim]) M) (g : Fin 16) (value : Sys2Proof.Word) {s : State} (h : Same M s0 s) : OSame M s0 (execGpioModeWrite g value s) := by
  unfold execGpioModeWrite
  refine OSame.next ?_
  refine State.onWrite_frame (.sub rfl hM) _ _ (fun _ h1 => ?_) ?_
  · exact State.writeGpioCfg_frame (.sub rfl hM) _ _ h1
  · exact h

theorem execGpioPulseEnd_frame {M : Nat} {s0 : State} (hM : Touch.le (.of [.pins, .fir, .tim, .pmc, .now]) M) (g : Fin 16) (at_ : Nat) {s : State} (h : Same M s0 s) : OSame M s0 (execGpioPulseEnd g at_ s) := by
  unfold execGpioPulseEnd
  refine OSame.next ?_
  extract_lets -merge -underBinder +onlyGivenNames x1
  have hx1 : Same M s0 x1 := State.advance_frame (.sub rfl hM) _ h
  split
  · refine Same.ite ?_ ?_
    · refine State.driveGpio_frame (.sub rfl hM) _ _ ?_
      exact Same.upd hx1 (tim := .inl (.sub rfl hM))
    · exact hx1
  · exact hx1

theorem State.writeTimCfg_frame {M : Nat} {s0 : State} (hM : Touch.le (.of [.regs, .tim]) M) {s : State} (v : Sys2Proof.Word) (h : Same M s0 s) : Same M s0 (State.writeTimCfg s v) := by
  unfold State.writeTimCfg
  extract_lets -merge -underBinder +onlyGivenNames x1
  have hx1 : Same M s0 x1 := State.hostWrite_frame (.sub rfl hM) _ _ h
  exact Same.upd hx1 (tim := .inl (.sub rfl hM))

theorem execEthernetLinkChange_frame {M : Nat} {s0 : State} (hM : Touch.le (.of [.tim]) M) (port : Fin 2) (up : Bool) {s : State} (h : Same M s0 s) : OSame M s0 (execEthernetLinkChange port up s) := by
  unfold execEthernetLinkChange
  refine OSame.next ?_
  exact Same.upd h (tim := .inl (.sub rfl hM))

theorem State.pulseGpios_frame {M : Nat} {s0 : State} (hM : Touch.le (.of [.pins, .tim]) M) {s : State} (k : Fin 16) (h : Same M s0 s) : Same M s0 (State.pulseGpios s k) := by
  unfold State.pulseGpios
  refine Same.foldl (fun _ _ h1 => ?_) ?_
  · refine Same.ite ?_ ?_
    · extract_lets -merge -underBinder +onlyGivenNames z_2 x3
      have hx3 : Same M s0 x3 := Same.upd h1 (tim := .inl (.sub rfl hM))
      exact State.driveGpio_frame (.sub rfl hM) _ _ hx3
    · exact h1
  · exact h

theorem State.driveMatch_frame {M : Nat} {s0 : State} (hM : Touch.le (.of [.regs, .rst, .pins, .clk, .hif, .mmu, .cpy, .dmc, .qdc, .scr, .csm, .pos, .fir, .plk, .cam, .lop, .lck, .tim, .urg, .twn, .thm, .pmc, .latch, .dram, .tables, .draws, .out]) M) {s : State} (k : Fin 16) (h : Same M s0 s) : Same M s0 (State.driveMatch s k) := by
  unfold State.driveMatch
  extract_lets -merge -underBinder +onlyGivenNames x1
  have hx1 : Same M s0 x1 := State.timeTriggers_frame (.sub rfl hM) _ h
  extract_lets -merge -underBinder +onlyGivenNames x2
  have hx2 : Same M s0 x2 := by
    refine Same.ite ?_ ?_
    · exact State.pulseGpios_frame (.sub rfl hM) _ hx1
    · exact hx1
  extract_lets -merge -underBinder +onlyGivenNames x3
  have hx3 : Same M s0 x3 := by
    refine Same.ite ?_ ?_
    · exact State.emit_frame (.sub rfl hM) _ hx2
    · exact hx2
  refine Same.ite ?_ ?_
  · exact State.wakeEvent_frame (.sub rfl hM) _ hx3
  · exact hx3

theorem State.modCmp_frame {M : Nat} {s0 : State} (hM : Touch.le (.of [.tim]) M) {s : State} (k : Fin 16) (f : Comparator → Comparator) (h : Same M s0 s) : Same M s0 (State.modCmp s k f) := by
  unfold State.modCmp
  exact Same.upd h (tim := .inl (.sub rfl hM))

theorem State.matchCmp_frame {M : Nat} {s0 : State} (hM : Touch.le (.of [.regs, .rst, .pins, .clk, .hif, .mmu, .cpy, .dmc, .qdc, .scr, .csm, .pos, .fir, .plk, .cam, .lop, .lck, .tim, .urg, .twn, .thm, .pmc, .latch, .dram, .tables, .draws, .out]) M) {s : State} (k : Fin 16) (h : Same M s0 s) : Same M s0 (State.matchCmp s k) := by
  unfold State.matchCmp
  extract_lets -merge -underBinder +onlyGivenNames x1
  extract_lets -merge -underBinder +onlyGivenNames x2
  refine Same.ite ?_ ?_
  · exact State.driveMatch_frame (.sub rfl hM) _ (State.modCmp_frame (.sub rfl hM) _ _ h)
  · exact h

theorem State.writeCmpCfg_frame {M : Nat} {s0 : State} (hM : Touch.le (.of [.regs, .rst, .pins, .clk, .hif, .mmu, .cpy, .dmc, .qdc, .scr, .csm, .pos, .fir, .plk, .cam, .lop, .lck, .tim, .urg, .twn, .thm, .pmc, .latch, .dram, .tables, .draws, .out]) M) {s : State} (k : Fin 16) (v : Sys2Proof.Word) (h : Same M s0 s) : Same M s0 (State.writeCmpCfg s k v) := by
  unfold State.writeCmpCfg
  extract_lets -merge -underBinder +onlyGivenNames x1
  have hx1 : Same M s0 x1 := State.hostWrite_frame (.sub rfl hM) _ _ h
  refine Same.ite ?_ ?_
  · extract_lets -merge -underBinder +onlyGivenNames x2
    extract_lets -merge -underBinder +onlyGivenNames x3
    exact State.matchCmp_frame (.sub rfl hM) _ (State.modCmp_frame (.sub rfl hM) _ _ hx1)
  · exact State.modCmp_frame (.sub rfl hM) _ _ hx1

theorem execComparatorEnableWrite_frame {M : Nat} {s0 : State} (hM : Touch.le (.of [.regs, .rst, .pins, .clk, .hif, .mmu, .cpy, .dmc, .qdc, .scr, .csm, .pos, .fir, .plk, .cam, .lop, .lck, .tim, .urg, .twn, .thm, .pmc, .latch, .dram, .tables, .now, .draws, .out]) M) (k : Fin 16) (value : Sys2Proof.Word) (at_ : Nat) {s : State} (h : Same M s0 s) : OSame M s0 (execComparatorEnableWrite k value at_ s) := by
  unfold execComparatorEnableWrite
  refine OSame.next ?_
  refine State.onWrite_frame (.sub rfl hM) _ _ (fun _ h1 => ?_) ?_
  · exact State.writeCmpCfg_frame (.sub rfl hM) _ _ h1
  · exact State.advance_frame (.sub rfl hM) _ h

theorem execComparatorMatch_frame {M : Nat} {s0 : State} (hM : Touch.le (.of [.regs, .rst, .pins, .clk, .hif, .mmu, .cpy, .dmc, .qdc, .scr, .csm, .pos, .fir, .plk, .cam, .lop, .lck, .tim, .urg, .twn, .thm, .pmc, .latch, .dram, .tables, .now, .draws, .out]) M) (k : Fin 16) (at_ : Nat) {s : State} (h : Same M s0 s) : OSame M s0 (execComparatorMatch k at_ s) := by
  unfold execComparatorMatch
  refine OSame.next ?_
  exact State.matchCmp_frame (.sub rfl hM) _ (State.advance_frame (.sub rfl hM) _ h)

theorem execPtpMessageSend_frame {M : Nat} {s0 : State} (hM : Touch.le (.of [.fir, .tim, .pmc, .now, .out]) M) (kind : PtpKind) (at_ : Nat) {s : State} (h : Same M s0 s) : OSame M s0 (execPtpMessageSend kind at_ s) := by
  unfold execPtpMessageSend
  refine OSame.next ?_
  extract_lets -merge -underBinder +onlyGivenNames x1
  have hx1 : Same M s0 x1 := State.advance_frame (.sub rfl hM) _ h
  refine Same.ite ?_ ?_
  · refine State.emit_frame (.sub rfl hM) _ ?_
    refine Same.ite ?_ ?_
    · exact State.modPtp_frame (.sub rfl hM) _ hx1
    · exact hx1
  · exact hx1

theorem execHoldoverEntry_frame {M : Nat} {s0 : State} (hM : Touch.le (.of [.tim]) M) {s : State} (h : Same M s0 s) : OSame M s0 (execHoldoverEntry s) := by
  unfold execHoldoverEntry
  refine OSame.next ?_
  refine Same.ite ?_ ?_
  · exact Same.upd h (tim := .inl (.sub rfl hM))
  · exact h

theorem execPtpMessageRx_frame {M : Nat} {s0 : State} (hM : Touch.le (.of [.fir, .tim, .pmc, .now, .draws, .out]) M) (msg : PtpFrame) (at_ : Nat) {s : State} (h : Same M s0 s) : OSame M s0 (execPtpMessageRx msg at_ s) := by
  unfold execPtpMessageRx
  refine OSame.next ?_
  extract_lets -merge -underBinder +onlyGivenNames x1
  have hx1 : Same M s0 x1 := State.advance_frame (.sub rfl hM) _ h
  refine Same.ite ?_ ?_
  · exact State.ptpIn_frame (.sub rfl hM) _ hx1
  · exact hx1

theorem State.writePtpCfg_frame {M : Nat} {s0 : State} (hM : Touch.le (.of [.regs, .tim]) M) {s : State} (v : Sys2Proof.Word) (h : Same M s0 s) : Same M s0 (State.writePtpCfg s v) := by
  unfold State.writePtpCfg
  extract_lets -merge -underBinder +onlyGivenNames x1
  extract_lets -merge -underBinder +onlyGivenNames x2
  have hx2 : Same M s0 x2 := State.hostWrite_frame (.sub rfl hM) _ _ h
  refine Same.ite ?_ ?_
  · exact Same.upd hx2 (tim := .inl (.sub rfl hM))
  · refine Same.ite ?_ ?_
    · exact Same.upd hx2 (tim := .inl (.sub rfl hM))
    · exact hx2

theorem execTimSrcWrite_frame {M : Nat} {s0 : State} (hM : Touch.le (.of [.regs, .hif, .tim]) M) (value : Sys2Proof.Word) {s : State} (h : Same M s0 s) : OSame M s0 (execTimSrcWrite value s) := by
  unfold execTimSrcWrite
  refine OSame.next ?_
  refine State.onWrite_frame (.sub rfl hM) _ _ (fun _ h1 => ?_) ?_
  · exact State.writeTimCfg_frame (.sub rfl hM) _ h1
  · exact h

theorem State.writeStep_frame {M : Nat} {s0 : State} (hM : Touch.le (.of [.fir, .tim]) M) {s : State} (hi : Sys2Proof.Word) (h : Same M s0 s) : Same M s0 (State.writeStep s hi) := by
  unfold State.writeStep
  refine Same.ite ?_ ?_
  · exact Same.upd h (tim := .inl (.sub rfl hM))
  · exact State.stepTime_frame (.sub rfl hM) _ h

theorem execTimStepWrite_frame {M : Nat} {s0 : State} (hM : Touch.le (.of [.hif, .fir, .tim, .pmc, .now]) M) (hi : Sys2Proof.Word) (at_ : Nat) {s : State} (h : Same M s0 s) : OSame M s0 (execTimStepWrite hi at_ s) := by
  unfold execTimStepWrite
  refine OSame.next ?_
  refine State.onWrite_frame (.sub rfl hM) _ _ (fun _ h1 => ?_) ?_
  · exact State.writeStep_frame (.sub rfl hM) _ h1
  · exact State.advance_frame (.sub rfl hM) _ h

end Sys2Proof.Machine
end

