-- ==== Sys2Proof/Laws/FrameRing.lean ====
section
/-! SUPPORT. What the operations of Machine/Ring.lean may change. -/

set_option Elab.async false

namespace Sys2Proof.Machine

theorem State.dropStop_frame {M : Nat} {s0 : State} (hM : Touch.le (.of [.fir, .urg, .twn, .out]) M) {s : State} (node : BitVec 10) (h : Same M s0 s) : Same M s0 (State.dropStop s node) := by
  unfold State.dropStop
  extract_lets -merge -underBinder +onlyGivenNames x1
  extract_lets -merge -underBinder +onlyGivenNames z_2 x3
  have hx3 : Same M s0 x3 := Same.upd h (urg := .inl (.sub rfl hM))
  refine Same.ite ?_ ?_
  · exact State.settle_frame (.sub rfl hM) _ (State.clearCause_frame (.sub rfl hM) _ _ hx3)
  · exact hx3

theorem execStateRx_frame {M : Nat} {s0 : State} (hM : Touch.le (.of [.fir, .urg, .twn, .out]) M) (node : BitVec 10) (group : BitVec 8) (planes : Vector PlanePhase 8) {s : State} (h : Same M s0 s) : OSame M s0 (execStateRx node group planes s) := by
  unfold execStateRx
  refine OSame.next ?_
  refine Same.ite ?_ ?_
  · exact State.dropStop_frame (.sub rfl hM) _ h
  · exact h

theorem State.elect_frame {M : Nat} {s0 : State} (hM : Touch.le (.of [.tim, .urg]) M) {s : State} (h : Same M s0 s) : Same M s0 (State.elect s) := by
  unfold State.elect
  extract_lets -merge -underBinder +onlyGivenNames x1
  extract_lets -merge -underBinder +onlyGivenNames x2
  exact Same.upd h (tim := .inl (.sub rfl hM)) (urg := .inl (.sub rfl hM))

theorem execNodeLivenessExpiry_frame {M : Nat} {s0 : State} (hM : Touch.le (.of [.tim, .urg]) M) (node : BitVec 10) {s : State} (h : Same M s0 s) : OSame M s0 (execNodeLivenessExpiry node s) := by
  unfold execNodeLivenessExpiry
  refine OSame.next ?_
  refine Same.ite ?_ ?_
  · refine State.elect_frame (.sub rfl hM) ?_
    exact Same.upd h (urg := .inl (.sub rfl hM))
  · exact h

theorem State.modRing_frame {M : Nat} {s0 : State} (hM : Touch.le (.of [.urg]) M) {s : State} (p : Fin 2) (f : RingPort → RingPort) (h : Same M s0 s) : Same M s0 (State.modRing s p f) := by
  unfold State.modRing
  exact Same.upd h (urg := .inl (.sub rfl hM))

theorem execRingPortLock_frame {M : Nat} {s0 : State} (hM : Touch.le (.of [.urg]) M) (port : Fin 2) {s : State} (h : Same M s0 s) : OSame M s0 (execRingPortLock port s) := by
  unfold execRingPortLock
  refine OSame.next ?_
  refine Same.ite ?_ ?_
  · exact State.modRing_frame (.sub rfl hM) _ _ h
  · exact h

theorem State.forwardFrame_frame {M : Nat} {s0 : State} (hM : Touch.le (.of [.pmc, .out]) M) {s : State} (port : Fin 2) (f : RingFrame) (good : Bool) (h : Same M s0 s) : Same M s0 (State.forwardFrame s port f good) := by
  unfold State.forwardFrame
  extract_lets -merge -underBinder +onlyGivenNames x1
  refine Same.ite ?_ ?_
  · exact h
  · exact State.countEvent_frame (.sub rfl hM) _ _ _ (State.emit_frame (.sub rfl hM) _ h)

theorem State.hopAon_frame {M : Nat} {s0 : State} (hM : Touch.le (.of [.urg, .out]) M) {s : State} (port : Fin 2) (m : RingMsg) (h : Same M s0 s) : Same M s0 (State.hopAon s port m) := by
  unfold State.hopAon
  refine Same.ite ?_ ?_
  · exact State.emit_frame (.sub rfl hM) _ (State.nextSeq_frame (.sub rfl hM) h)
  · exact h

theorem execHelloSend_frame {M : Nat} {s0 : State} (hM : Touch.le (.of [.urg, .out]) M) (port : Fin 2) {s : State} (h : Same M s0 s) : OSame M s0 (execHelloSend port s) := by
  unfold execHelloSend
  refine OSame.next ?_
  exact State.hopAon_frame (.sub rfl hM) _ _ h

theorem execStateSend_frame {M : Nat} {s0 : State} (hM : Touch.le (.of [.urg, .out]) M) {s : State} (h : Same M s0 s) : OSame M s0 (execStateSend s) := by
  unfold execStateSend
  refine OSame.next ?_
  refine Same.ite ?_ ?_
  · exact State.ringSend_frame (.sub rfl hM) _ h
  · exact h

theorem State.backToActive_frame {M : Nat} {s0 : State} (hM : Touch.le (.of [.fir]) M) {s : State} (h : Same M s0 s) : Same M s0 (State.backToActive s) := by
  unfold State.backToActive
  refine Same.ite ?_ ?_
  · exact h
  · refine Same.foldl (fun _ _ h1 => ?_) ?_
    · split
      · refine Same.ite ?_ ?_
        · exact State.modPlane_frame (.sub rfl hM) _ _ h1
        · exact h1
      · exact h1
    · exact h

theorem State.noteSeq_frame {M : Nat} {s0 : State} (hM : Touch.le (.of [.urg]) M) {s : State} (src : BitVec 10) (seq : BitVec 16) (h : Same M s0 s) : Same M s0 (State.noteSeq s src seq).2 := by
  unfold State.noteSeq
  extract_lets -merge -underBinder +onlyGivenNames x1
  exact Same.upd h (urg := .inl (.sub rfl hM))

theorem State.clearRing_frame {M : Nat} {s0 : State} (hM : Touch.le (.of [.fir, .urg, .twn, .out]) M) {s : State} (h : Same M s0 s) : Same M s0 (State.clearRing s) := by
  unfold State.clearRing
  refine State.settle_frame (.sub rfl hM) _ ?_
  refine State.clearCause_frame (.sub rfl hM) _ _ ?_
  exact Same.upd h (urg := .inl (.sub rfl hM))

theorem State.writeUrgCtrl_frame {M : Nat} {s0 : State} (hM : Touch.le (.of [.fir, .urg, .twn, .out]) M) {s : State} (v : Sys2Proof.Word) (h : Same M s0 s) : Same M s0 (State.writeUrgCtrl s v) := by
  unfold State.writeUrgCtrl
  extract_lets -merge -underBinder +onlyGivenNames x1
  have hx1 : Same M s0 x1 := by
    refine Same.ite ?_ ?_
    · exact State.clearRing_frame (.sub rfl hM) h
    · exact h
  refine Same.ite ?_ ?_
  · exact State.ringSend_frame (.sub rfl hM) _ hx1
  · exact hx1

theorem execWakeRx_frame {M : Nat} {s0 : State} (hM : Touch.le (.of [.regs, .rst, .pins, .clk, .hif, .mmu, .cpy, .dmc, .qdc, .scr, .csm, .pos, .fir, .plk, .cam, .lop, .lck, .tim, .urg, .twn, .thm, .pmc, .latch, .dram, .tables, .draws, .out]) M) {s : State} (h : Same M s0 s) : OSame M s0 (execWakeRx s) := by
  unfold execWakeRx
  refine OSame.next ?_
  refine Same.ite ?_ ?_
  · exact State.wakeEvent_frame (.sub rfl hM) _ h
  · exact h

theorem execUrgClrRing_frame {M : Nat} {s0 : State} (hM : Touch.le (.of [.hif, .fir, .urg, .twn, .out]) M) (value : Sys2Proof.Word) {s : State} (h : Same M s0 s) : OSame M s0 (execUrgClrRing value s) := by
  unfold execUrgClrRing
  refine OSame.next ?_
  refine State.onWrite_frame (.sub rfl hM) _ _ (fun _ h1 => ?_) ?_
  · exact State.writeUrgCtrl_frame (.sub rfl hM) _ h1
  · exact h

theorem execUrgSendWake_frame {M : Nat} {s0 : State} (hM : Touch.le (.of [.hif, .fir, .urg, .twn, .out]) M) (value : Sys2Proof.Word) {s : State} (h : Same M s0 s) : OSame M s0 (execUrgSendWake value s) := by
  unfold execUrgSendWake
  refine OSame.next ?_
  refine State.onWrite_frame (.sub rfl hM) _ _ (fun _ h1 => ?_) ?_
  · exact State.writeUrgCtrl_frame (.sub rfl hM) _ h1
  · exact h

theorem State.countStrange_frame {M : Nat} {s0 : State} (hM : Touch.le (.of [.urg]) M) {s : State} (port : Fin 2) (blocks : List RingBlock) (h : Same M s0 s) : Same M s0 (State.countStrange s port blocks) := by
  unfold State.countStrange
  exact State.modRing_frame (.sub rfl hM) _ _ h

theorem State.writeUrgCfg_frame {M : Nat} {s0 : State} (hM : Touch.le (.of [.regs, .urg]) M) {s : State} (v : Sys2Proof.Word) (h : Same M s0 s) : Same M s0 (State.writeUrgCfg s v) := by
  unfold State.writeUrgCfg
  extract_lets -merge -underBinder +onlyGivenNames x1
  have hx1 : Same M s0 x1 := State.hostWrite_frame (.sub rfl hM) _ _ h
  exact Same.upd hx1 (urg := .inl (.sub rfl hM))

theorem execHelloRx_frame {M : Nat} {s0 : State} (hM : Touch.le (.of [.urg]) M) (port : Fin 2) (node : BitVec 10) (sleep : Bool) {s : State} (h : Same M s0 s) : OSame M s0 (execHelloRx port node sleep s) := by
  unfold execHelloRx
  refine OSame.next ?_
  refine Same.ite ?_ ?_
  · exact State.modRing_frame (.sub rfl hM) _ _ h
  · exact h

theorem State.ringTime_frame {M : Nat} {s0 : State} (hM : Touch.le (.of [.fir, .tim, .draws]) M) {s : State} (port : Fin 2) (src : BitVec 10) (hops : BitVec 10) (origin : Int) (correction : Int) (h : Same M s0 s) : Same M s0 (State.ringTime s port src hops origin correction) := by
  unfold State.ringTime
  extract_lets -merge -underBinder +onlyGivenNames x1
  refine Same.ite ?_ ?_
  · refine State.timeUpdate_frame (.sub rfl hM) _ ?_
    exact Same.upd h (tim := .inl (.sub rfl hM))
  · exact h

theorem execTimeRx_frame {M : Nat} {s0 : State} (hM : Touch.le (.of [.fir, .tim, .urg, .pmc, .now, .draws, .out]) M) (port : Fin 2) (src : BitVec 10) (seq : BitVec 16) (hops : BitVec 10) (origin : Int) (correction : Int) (residence : Nat) (at_ : Nat) {s : State} (h : Same M s0 s) : OSame M s0 (execTimeRx port src seq hops origin correction residence at_ s) := by
  unfold execTimeRx
  refine OSame.next ?_
  extract_lets -merge -underBinder +onlyGivenNames x1
  have hx1 : Same M s0 x1 := State.advance_frame (.sub rfl hM) _ h
  refine Same.ite ?_ ?_
  · exact hx1
  · split
    · rename_i v2 e3
      have hv2 : Same M s0 v2 := (congrArg (fun r => Same M s0 r.2) e3).mp (State.noteSeq_frame (.sub rfl hM) _ _ hx1)
      exact hv2
    · rename_i v4 e5
      have hv4 : Same M s0 v4 := (congrArg (fun r => Same M s0 r.2) e5).mp (State.noteSeq_frame (.sub rfl hM) _ _ hx1)
      extract_lets -merge -underBinder +onlyGivenNames x6
      exact State.ringTime_frame (.sub rfl hM) _ _ _ _ _ (State.countEvent_frame (.sub rfl hM) _ _ _ (State.emit_frame (.sub rfl hM) _ hv4))

theorem execAnnounceSend_frame {M : Nat} {s0 : State} (hM : Touch.le (.of [.tim, .urg, .out]) M) {s : State} (h : Same M s0 s) : OSame M s0 (execAnnounceSend s) := by
  unfold execAnnounceSend
  refine OSame.next ?_
  refine Same.ite ?_ ?_
  · exact State.ringSend_frame (.sub rfl hM) _ (State.elect_frame (.sub rfl hM) h)
  · exact h

theorem execDelayReqRx_frame {M : Nat} {s0 : State} (hM : Touch.le (.of [.urg, .out]) M) (port : Fin 2) (departure : Int) (turnaround : Int) {s : State} (h : Same M s0 s) : OSame M s0 (execDelayReqRx port departure turnaround s) := by
  unfold execDelayReqRx
  refine OSame.next ?_
  exact State.hopAon_frame (.sub rfl hM) _ _ h

theorem State.takeFrame_frame {M : Nat} {s0 : State} (hM : Touch.le (.of [.urg, .pmc, .out]) M) {s : State} (port : Fin 2) (f : RingFrame) (good : Bool) (h : Same M s0 s) : Same M s0 (State.takeFrame s port f good) := by
  unfold State.takeFrame
  refine Same.ite ?_ ?_
  · exact h
  · extract_lets -merge -underBinder +onlyGivenNames x1
    refine Same.ite ?_ ?_
    · extract_lets -merge -underBinder +onlyGivenNames x2
      have hx2 : Same M s0 x2 := State.modRing_frame (.sub rfl hM) _ _ h
      refine Same.ite ?_ ?_
      · exact hx2
      · exact State.forwardFrame_frame (.sub rfl hM) _ _ _ hx2
    · split
      · rename_i v3 e4
        have hv3 : Same M s0 v3 := (congrArg (fun r => Same M s0 r.2) e4).mp (State.noteSeq_frame (.sub rfl hM) _ _ h)
        exact hv3
      · rename_i v5 e6
        have hv5 : Same M s0 v5 := (congrArg (fun r => Same M s0 r.2) e6).mp (State.noteSeq_frame (.sub rfl hM) _ _ h)
        refine Same.ite ?_ ?_
        · exact hv5
        · exact State.forwardFrame_frame (.sub rfl hM) _ _ _ hv5

theorem execRingFrameForward_frame {M : Nat} {s0 : State} (hM : Touch.le (.of [.urg, .pmc, .out]) M) (port : Fin 2) (first : RingBlock) (rest : List RingBlock) {s : State} (h : Same M s0 s) : OSame M s0 (execRingFrameForward port first rest s) := by
  unfold execRingFrameForward
  refine OSame.next ?_
  refine Same.ite ?_ ?_
  · exact h
  · extract_lets -merge -underBinder +onlyGivenNames x1
    have hx1 : Same M s0 x1 := State.countStrange_frame (.sub rfl hM) _ _ h
    split
    · exact State.takeFrame_frame (.sub rfl hM) _ _ _ hx1
    · exact hx1

theorem execRingPortRateAlternate_frame {M : Nat} {s0 : State} (hM : Touch.le (.of [.urg]) M) (port : Fin 2) {s : State} (h : Same M s0 s) : OSame M s0 (execRingPortRateAlternate port s) := by
  unfold execRingPortRateAlternate
  refine OSame.next ?_
  refine Same.ite ?_ ?_
  · exact State.modRing_frame (.sub rfl hM) _ _ h
  · exact h

theorem execTideSourceExpiry_frame {M : Nat} {s0 : State} (hM : Touch.le (.of [.regs, .hif, .dmc, .scr, .csm, .fir, .plk, .lop, .lck, .urg, .twn, .pmc, .dram, .tables, .draws, .out]) M) (node : BitVec 10) {s : State} (h : Same M s0 s) : OSame M s0 (execTideSourceExpiry node s) := by
  unfold execTideSourceExpiry
  refine OSame.next ?_
  refine Same.ite ?_ ?_
  · exact State.expireTide_frame (.sub rfl hM) _ h
  · exact h

theorem execTideRx_frame {M : Nat} {s0 : State} (hM : Touch.le (.of [.regs, .hif, .fir, .tim, .urg, .twn, .pmc, .now, .out]) M) (word : TideWord) (at_ : Nat) {s : State} (h : Same M s0 s) : OSame M s0 (execTideRx word at_ s) := by
  unfold execTideRx
  refine OSame.next ?_
  extract_lets -merge -underBinder +onlyGivenNames x1
  have hx1 : Same M s0 x1 := State.advance_frame (.sub rfl hM) _ h
  refine Same.ite ?_ ?_
  · exact State.receiveTide_frame (.sub rfl hM) _ hx1
  · exact hx1

theorem execStopRx_frame {M : Nat} {s0 : State} (hM : Touch.le (.of [.regs, .hif, .dmc, .scr, .csm, .fir, .plk, .lop, .lck, .urg, .twn, .pmc, .dram, .tables, .draws, .out]) M) (node : BitVec 10) (group : BitVec 8) (y38 : BitVec 8) {s : State} (h : Same M s0 s) : OSame M s0 (execStopRx node group y38 s) := by
  unfold execStopRx
  refine OSame.next ?_
  refine Same.ite ?_ ?_
  · extract_lets -merge -underBinder +onlyGivenNames z_1 x2
    have hx2 : Same M s0 x2 := Same.upd h (urg := .inl (.sub rfl hM))
    exact State.settle_frame (.sub rfl hM) _ (State.assertCause_frame (.sub rfl hM) _ _ (State.backToActive_frame (.sub rfl hM) hx2))
  · exact h

theorem execHelloTimeout_frame {M : Nat} {s0 : State} (hM : Touch.le (.of [.urg]) M) (port : Fin 2) {s : State} (h : Same M s0 s) : OSame M s0 (execHelloTimeout port s) := by
  unfold execHelloTimeout
  refine OSame.next ?_
  refine Same.ite ?_ ?_
  · exact h
  · exact State.modRing_frame (.sub rfl hM) _ _ h

theorem execRingPortLockLoss_frame {M : Nat} {s0 : State} (hM : Touch.le (.of [.urg]) M) (port : Fin 2) {s : State} (h : Same M s0 s) : OSame M s0 (execRingPortLockLoss port s) := by
  unfold execRingPortLockLoss
  refine OSame.next ?_
  refine Same.ite ?_ ?_
  · exact h
  · exact State.modRing_frame (.sub rfl hM) _ _ h

theorem execDelayReqSend_frame {M : Nat} {s0 : State} (hM : Touch.le (.of [.fir, .tim, .urg, .pmc, .now, .out]) M) (port : Fin 2) (at_ : Nat) {s : State} (h : Same M s0 s) : OSame M s0 (execDelayReqSend port at_ s) := by
  unfold execDelayReqSend
  refine OSame.next ?_
  extract_lets -merge -underBinder +onlyGivenNames x1
  have hx1 : Same M s0 x1 := State.advance_frame (.sub rfl hM) _ h
  exact State.hopAon_frame (.sub rfl hM) _ _ hx1

theorem execDelayRespRx_frame {M : Nat} {s0 : State} (hM : Touch.le (.of [.urg]) M) (port : Fin 2) (rtt : Nat) (turnaround : Nat) {s : State} (h : Same M s0 s) : OSame M s0 (execDelayRespRx port rtt turnaround s) := by
  unfold execDelayRespRx
  refine OSame.next ?_
  refine Same.ite ?_ ?_
  · exact State.modRing_frame (.sub rfl hM) _ _ h
  · exact h

theorem execAnnounceRx_frame {M : Nat} {s0 : State} (hM : Touch.le (.of [.tim, .urg]) M) (node : BitVec 10) (group : BitVec 8) (prio : BitVec 8) (accepts : Bool) {s : State} (h : Same M s0 s) : OSame M s0 (execAnnounceRx node group prio accepts s) := by
  unfold execAnnounceRx
  refine OSame.next ?_
  refine Same.ite ?_ ?_
  · exact h
  · refine Same.ite ?_ ?_
    · refine State.elect_frame (.sub rfl hM) ?_
      exact Same.upd h (urg := .inl (.sub rfl hM))
    · refine State.elect_frame (.sub rfl hM) ?_
      exact Same.upd h (urg := .inl (.sub rfl hM))

theorem execTimeSend_frame {M : Nat} {s0 : State} (hM : Touch.le (.of [.fir, .tim, .urg, .pmc, .now, .out]) M) (at_ : Nat) {s : State} (h : Same M s0 s) : OSame M s0 (execTimeSend at_ s) := by
  unfold execTimeSend
  refine OSame.next ?_
  extract_lets -merge -underBinder +onlyGivenNames x1
  have hx1 : Same M s0 x1 := State.advance_frame (.sub rfl hM) _ h
  refine Same.ite ?_ ?_
  · exact State.ringSend_frame (.sub rfl hM) _ hx1
  · exact hx1

end Sys2Proof.Machine
end

