-- ==== Sys2Proof/Laws/FrameTwin.lean ====
section
/-! SUPPORT. What the operations of Machine/Twin.lean may change. -/

set_option Elab.async false

namespace Sys2Proof.Machine

theorem State.fromPeer_frame {M : Touch} {s0 : State} (hM : Touch.le (.of [.twn]) M) {s : State} (node : BitVec 10) {run : State → State}
    (hr : ∀ t, Same M s0 t → Same M s0 (run t)) (h : Same M s0 s) : Same M s0 (s.fromPeer node run) :=
  Same.ite (hr _ (Same.upd h (twn := .inl (.sub rfl hM)))) h

theorem State.takeAll_frame {M : Nat} {s0 : State} (hM : Touch.le (.of [.fir]) M) {s : State} (h : Same M s0 s) : Same M s0 (State.takeAll s) := by
  unfold State.takeAll
  exact Same.upd h (fir := .inl (.sub rfl hM))

theorem State.stampIn_frame {M : Nat} {s0 : State} (hM : Touch.le (.of [.fir, .twn]) M) {s : State} (p : Fin 8) (n : Nat) (stamp : Nat) (tf : Nat) (h : Same M s0 s) : Same M s0 (State.stampIn s p n stamp tf) := by
  unfold State.stampIn
  extract_lets -merge -underBinder +onlyGivenNames x1
  have hx1 : Same M s0 x1 := State.modTwin_frame (.sub rfl hM) _ _ h
  exact State.modPlane_frame (.sub rfl hM) _ _ hx1

theorem execStampRx_frame {M : Nat} {s0 : State} (hM : Touch.le (.of [.fir, .twn]) M) (node : BitVec 10) (plane : Fin 8) (line : BitVec 48) (stamp : BitVec 48) (tf : BitVec 24) {s : State} (h : Same M s0 s) : OSame M s0 (execStampRx node plane line stamp tf s) := by
  unfold execStampRx
  refine OSame.next ?_
  refine State.fromPeer_frame (.sub rfl hM) _ (fun _ h1 => ?_) ?_
  · refine Same.ite ?_ ?_
    · exact State.stampIn_frame (.sub rfl hM) _ _ _ _ h1
    · exact h1
  · exact h

theorem State.heartbeatIn_frame {M : Nat} {s0 : State} (hM : Touch.le (.of [.twn]) M) {s : State} (role : TwinRole) (epoch : BitVec 16) (lats : Vector Nat 8) (blocked : Bool) (h : Same M s0 s) : Same M s0 (State.heartbeatIn s role epoch lats blocked) := by
  unfold State.heartbeatIn
  extract_lets -merge -underBinder +onlyGivenNames x1
  exact Same.upd h (twn := .inl (.sub rfl hM))

theorem execStageRx_frame {M : Nat} {s0 : State} (hM : Touch.le (.of [.dmc, .lck, .twn, .pmc, .dram, .draws, .out]) M) (node : BitVec 10) (chamber : Fin 4) (units : List (Nat × BitVec 512)) (entries : List (Nat × Sys2Proof.Word)) (targets : List (Nat × BitVec 8)) {s : State} (h : Same M s0 s) : OSame M s0 (execStageRx node chamber units entries targets s) := by
  unfold execStageRx
  refine OSame.next ?_
  refine State.fromPeer_frame (.sub rfl hM) _ (fun _ h1 => ?_) ?_
  · refine Same.ite ?_ ?_
    · refine State.modChamber_frame (.sub rfl hM) _ _ ?_
      refine Same.foldl (fun _ _ h2 => ?_) ?_
      · exact State.dramPutUnit_frame (.sub rfl hM) _ _ _ _ h2
      · exact h1
    · exact h1
  · exact h

theorem State.swapSeen_frame {M : Nat} {s0 : State} (hM : Touch.le (.of [.hif, .twn, .pmc, .out]) M) {s : State} (g : Sig) (h : Same M s0 s) : Same M s0 (State.swapSeen s g) := by
  unfold State.swapSeen
  split
  · refine Same.ite ?_ ?_
    · refine State.swapCheck_frame (.sub rfl hM) ?_
      exact Same.upd h (twn := .inl (.sub rfl hM))
    · exact h
  · exact h

theorem State.clearFailed_frame {M : Nat} {s0 : State} (hM : Touch.le (.of [.regs, .rst, .pins, .clk, .hif, .mmu, .cpy, .dmc, .qdc, .scr, .csm, .pos, .fir, .plk, .cam, .lop, .lck, .tim, .urg, .twn, .thm, .pmc, .latch, .dram, .tables, .draws, .out]) M) {s : State} (h : Same M s0 s) : Same M s0 (State.clearFailed s) := by
  unfold State.clearFailed
  refine State.twinSend_frame (.sub rfl hM) _ ?_
  refine State.settleResets_frame (.sub rfl hM) ?_
  exact Same.upd h (rst := .inl (.sub rfl hM)) (twn := .inl (.sub rfl hM))

theorem execTwinCtrlClearFailed_frame {M : Nat} {s0 : State} (hM : Touch.le (.of [.regs, .rst, .pins, .clk, .hif, .mmu, .cpy, .dmc, .qdc, .scr, .csm, .pos, .fir, .plk, .cam, .lop, .lck, .tim, .urg, .twn, .thm, .pmc, .latch, .dram, .tables, .draws, .out]) M) (ring : Fin 16) {s : State} (h : Same M s0 s) : OSame M s0 (execTwinCtrlClearFailed ring s) := by
  unfold execTwinCtrlClearFailed
  refine OSame.next ?_
  refine State.withEntryAt_frame (.sub rfl hM) _ _ _ (fun _ _ h1 => ?_) ?_
  · refine Same.ite ?_ ?_
    · exact State.settle_frame (.sub rfl hM) _ (State.complete_frame (.sub rfl hM) _ _ _ (State.clearFailed_frame (.sub rfl hM) h1))
    · exact State.complete_frame (.sub rfl hM) _ _ _ h1
  · exact h

theorem execPeerLossTimeout_frame {M : Nat} {s0 : State} (hM : Touch.le (.of [.regs, .hif, .dmc, .scr, .csm, .fir, .plk, .lop, .lck, .urg, .twn, .pmc, .dram, .tables, .draws, .out]) M) {s : State} (h : Same M s0 s) : OSame M s0 (execPeerLossTimeout s) := by
  unfold execPeerLossTimeout
  refine OSame.next ?_
  refine Same.ite ?_ ?_
  · exact h
  · extract_lets -merge -underBinder +onlyGivenNames z_1 x2
    have hx2 : Same M s0 x2 := Same.upd h (twn := .inl (.sub rfl hM))
    refine Same.ite ?_ ?_
    · exact State.takeOver_frame (.sub rfl hM) _ hx2
    · exact hx2

theorem execTwinHeartbeatSend_frame {M : Nat} {s0 : State} (hM : Touch.le (.of [.urg, .out]) M) {s : State} (h : Same M s0 s) : OSame M s0 (execTwinHeartbeatSend s) := by
  unfold execTwinHeartbeatSend
  refine OSame.next ?_
  refine Same.ite ?_ ?_
  · exact State.twinSend_frame (.sub rfl hM) _ h
  · exact h

theorem State.writeTwnEpoch_frame {M : Nat} {s0 : State} (hM : Touch.le (.of [.twn, .out]) M) {s : State} (v : Sys2Proof.Word) (h : Same M s0 s) : Same M s0 (State.writeTwnEpoch s v) := by
  unfold State.writeTwnEpoch
  refine Same.ite ?_ ?_
  · exact h
  · extract_lets -merge -underBinder +onlyGivenNames x1
    refine State.idleAll_frame (.sub rfl hM) ?_
    exact Same.upd h (twn := .inl (.sub rfl hM))

theorem State.writeTwnCtrl_frame {M : Nat} {s0 : State} (hM : Touch.le (.of [.regs, .rst, .pins, .clk, .hif, .mmu, .cpy, .dmc, .qdc, .scr, .csm, .pos, .fir, .plk, .cam, .lop, .lck, .tim, .urg, .twn, .thm, .pmc, .latch, .dram, .tables, .draws, .out]) M) {s : State} (v : Sys2Proof.Word) (h : Same M s0 s) : Same M s0 (State.writeTwnCtrl s v) := by
  unfold State.writeTwnCtrl
  refine Same.ite ?_ ?_
  · exact State.twinFails_frame (.sub rfl hM) _ h
  · exact h

theorem State.countLate_frame {M : Nat} {s0 : State} (hM : Touch.le (.of [.twn]) M) {s : State} (h : Same M s0 s) : Same M s0 (State.countLate s) := by
  unfold State.countLate
  exact Same.upd h (twn := .inl (.sub rfl hM))

theorem State.peerSig_frame {M : Nat} {s0 : State} (hM : Touch.le (.of [.regs, .rst, .pins, .clk, .hif, .mmu, .cpy, .dmc, .qdc, .scr, .csm, .pos, .fir, .plk, .cam, .lop, .lck, .tim, .urg, .twn, .thm, .pmc, .latch, .dram, .tables, .draws, .out]) M) {s : State} (g : Sig) (h : Same M s0 s) : Same M s0 (State.peerSig s g) := by
  unfold State.peerSig
  extract_lets -merge -underBinder +onlyGivenNames x1
  extract_lets -merge -underBinder +onlyGivenNames x2
  split
  · extract_lets -merge -underBinder +onlyGivenNames z_3 x4
    have hx4 : Same M s0 x4 := Same.upd h (twn := .inl (.sub rfl hM))
    refine Same.ite ?_ ?_
    · exact State.countLate_frame (.sub rfl hM) hx4
    · exact State.compareSig_frame (.sub rfl hM) _ _ hx4
  · refine Same.ite ?_ ?_
    · exact Same.upd h (twn := .inl (.sub rfl hM))
    · exact h

theorem State.toSingle_frame {M : Nat} {s0 : State} (hM : Touch.le (.of [.regs, .rst, .pins, .clk, .hif, .mmu, .cpy, .dmc, .qdc, .scr, .csm, .pos, .fir, .plk, .cam, .lop, .lck, .tim, .urg, .twn, .thm, .pmc, .latch, .dram, .tables, .draws, .out]) M) {s : State} (h : Same M s0 s) : Same M s0 (State.toSingle s) := by
  unfold State.toSingle
  extract_lets -merge -underBinder +onlyGivenNames x1
  have hx1 : Same M s0 x1 := State.abandonSwap_frame (.sub rfl hM) h
  extract_lets -merge -underBinder +onlyGivenNames z_2 z_3 x4
  have hx4 : Same M s0 x4 := Same.upd hx1 (rst := .inl (.sub rfl hM)) (twn := .inl (.sub rfl hM))
  exact State.settle_frame (.sub rfl hM) _ (State.followPosition_frame (.sub rfl hM) (State.settleResets_frame (.sub rfl hM) (State.idleAll_frame (.sub rfl hM) hx4)))

theorem State.writeTwnCfg_frame {M : Nat} {s0 : State} (hM : Touch.le (.of [.regs, .rst, .pins, .clk, .hif, .mmu, .cpy, .dmc, .qdc, .scr, .csm, .pos, .fir, .plk, .cam, .lop, .lck, .tim, .urg, .twn, .thm, .pmc, .latch, .dram, .tables, .draws, .out]) M) {s : State} (v : Sys2Proof.Word) (h : Same M s0 s) : Same M s0 (State.writeTwnCfg s v) := by
  unfold State.writeTwnCfg
  extract_lets -merge -underBinder +onlyGivenNames x1
  extract_lets -merge -underBinder +onlyGivenNames x2
  have hx2 : Same M s0 x2 := State.hostWrite_frame (.sub rfl hM) _ _ h
  refine Same.ite ?_ ?_
  · exact State.toSingle_frame (.sub rfl hM) hx2
  · exact hx2

theorem execTwnEnableWrite_frame {M : Nat} {s0 : State} (hM : Touch.le (.of [.regs, .rst, .pins, .clk, .hif, .mmu, .cpy, .dmc, .qdc, .scr, .csm, .pos, .fir, .plk, .cam, .lop, .lck, .tim, .urg, .twn, .thm, .pmc, .latch, .dram, .tables, .draws, .out]) M) (value : Sys2Proof.Word) {s : State} (h : Same M s0 s) : OSame M s0 (execTwnEnableWrite value s) := by
  unfold execTwnEnableWrite
  refine OSame.next ?_
  refine State.onWrite_frame (.sub rfl hM) _ _ (fun _ h1 => ?_) ?_
  · exact State.writeTwnCfg_frame (.sub rfl hM) _ h1
  · exact h

theorem State.adoptPlane_frame {M : Nat} {s0 : State} (hM : Touch.le (.of [.regs, .hif, .dmc, .scr, .csm, .fir, .plk, .lop, .lck, .urg, .twn, .pmc, .dram, .tables, .draws, .out]) M) {s : State} (p : Fin 8) (xa : Int) (phia : Int) (print : Int) (ofs : Sys2Proof.Word) (stretch : Sys2Proof.Word) (epoch : Nat) (h : Same M s0 s) : Same M s0 (State.adoptPlane s p xa phia print ofs stretch epoch) := by
  unfold State.adoptPlane
  extract_lets -merge -underBinder +onlyGivenNames x1
  have hx1 : Same M s0 x1 := State.setReg_frame (.sub rfl hM) _ _ (State.setReg_frame (.sub rfl hM) _ _ h)
  extract_lets -merge -underBinder +onlyGivenNames x2
  have hx2 : Same M s0 x2 := State.modPlane_frame (.sub rfl hM) _ _ hx1
  extract_lets -merge -underBinder +onlyGivenNames x3
  have hx3 : Same M s0 x3 := State.modTwin_frame (.sub rfl hM) _ _ hx2
  exact State.lineFollow_frame (.sub rfl hM) _ hx3

theorem State.withdrawAll_frame {M : Nat} {s0 : State} (hM : Touch.le (.of [.fir]) M) {s : State} (h : Same M s0 s) : Same M s0 (State.withdrawAll s) := by
  unfold State.withdrawAll
  exact Same.upd h (fir := .inl (.sub rfl hM))

theorem execJoinRx_frame {M : Nat} {s0 : State} (hM : Touch.le (.of [.urg, .twn, .out]) M) (node : BitVec 10) {s : State} (h : Same M s0 s) : OSame M s0 (execJoinRx node s) := by
  unfold execJoinRx
  refine OSame.next ?_
  refine State.fromPeer_frame (.sub rfl hM) _ (fun _ h1 => ?_) ?_
  · refine Same.ite ?_ ?_
    · refine Same.foldl (fun _ _ h2 => ?_) ?_
      · exact State.sendPlaneState_frame (.sub rfl hM) _ _ h2
      · exact h1
    · exact h1
  · exact h

theorem State.startSwap_frame {M : Nat} {s0 : State} (hM : Touch.le (.of [.hif, .fir, .urg, .twn, .pmc, .out]) M) {s : State} (id : Nat) (h : Same M s0 s) : Same M s0 (State.startSwap s id) := by
  unfold State.startSwap
  extract_lets -merge -underBinder +onlyGivenNames x1
  extract_lets -merge -underBinder +onlyGivenNames x2
  refine State.swapCheck_frame (.sub rfl hM) ?_
  refine State.twinSend_frame (.sub rfl hM) _ ?_
  refine State.waitFlight_frame (.sub rfl hM) _ ?_
  exact Same.upd h (fir := .inl (.sub rfl hM)) (twn := .inl (.sub rfl hM))

theorem execTwinCtrlPlannedSwap_frame {M : Nat} {s0 : State} (hM : Touch.le (.of [.hif, .fir, .urg, .twn, .pmc, .out]) M) (ring : Fin 16) {s : State} (h : Same M s0 s) : OSame M s0 (execTwinCtrlPlannedSwap ring s) := by
  unfold execTwinCtrlPlannedSwap
  refine OSame.next ?_
  refine State.withEntryAt_frame (.sub rfl hM) _ _ _ (fun _ _ h1 => ?_) ?_
  · refine Same.ite ?_ ?_
    · exact State.complete_frame (.sub rfl hM) _ _ _ h1
    · refine Same.ite ?_ ?_
      · exact State.complete_frame (.sub rfl hM) _ _ _ h1
      · refine Same.ite ?_ ?_
        · exact State.complete_frame (.sub rfl hM) _ _ _ h1
        · exact State.startSwap_frame (.sub rfl hM) _ h1
  · exact h

theorem execTakeoverRx_frame {M : Nat} {s0 : State} (hM : Touch.le (.of [.hif, .fir, .urg, .twn, .pmc, .out]) M) (node : BitVec 10) (epoch : BitVec 16) {s : State} (h : Same M s0 s) : OSame M s0 (execTakeoverRx node epoch s) := by
  unfold execTakeoverRx
  refine OSame.next ?_
  refine State.fromPeer_frame (.sub rfl hM) _ (fun _ h1 => ?_) ?_
  · extract_lets -merge -underBinder +onlyGivenNames z_2 x3
    have hx3 : Same M s0 x3 := Same.upd h1 (twn := .inl (.sub rfl hM))
    refine Same.ite ?_ ?_
    · exact h1
    · refine Same.ite ?_ ?_
      · refine State.withdrawAll_frame (.sub rfl hM) ?_
        exact Same.upd hx3 (twn := .inl (.sub rfl hM))
      · refine State.settle_frame (.sub rfl hM) _ ?_
        refine State.swapCheck_frame (.sub rfl hM) ?_
        exact Same.upd hx3 (twn := .inl (.sub rfl hM))
  · exact h

theorem State.formPair_frame {M : Nat} {s0 : State} (hM : Touch.le (.of [.regs, .hif, .dmc, .scr, .csm, .fir, .plk, .lop, .lck, .urg, .twn, .pmc, .dram, .tables, .draws, .out]) M) {s : State} (r : TwinRole) (h : Same M s0 s) : Same M s0 (State.formPair s r) := by
  unfold State.formPair
  extract_lets -merge -underBinder +onlyGivenNames z_1 x2
  have hx2 : Same M s0 x2 := by
    refine State.followPosition_frame (.sub rfl hM) ?_
    refine State.idleAll_frame (.sub rfl hM) ?_
    exact Same.upd h (twn := .inl (.sub rfl hM))
  refine State.settle_frame (.sub rfl hM) _ ?_
  refine Same.ite ?_ ?_
  · exact hx2
  · exact State.assertCause_frame (.sub rfl hM) _ _ hx2

theorem execTwinHeartbeatRx_frame {M : Nat} {s0 : State} (hM : Touch.le (.of [.regs, .hif, .dmc, .scr, .csm, .fir, .plk, .lop, .lck, .urg, .twn, .pmc, .dram, .tables, .draws, .out]) M) (node : BitVec 10) (role : TwinRole) (epoch : BitVec 16) (prefer : Bool) (peer : BitVec 10) (group : BitVec 8) (stops : Bool) (locked : Bool) (settings : List Nat) (lats : Vector (BitVec 24) 8) (blocked : Bool) {s : State} (h : Same M s0 s) : OSame M s0 (execTwinHeartbeatRx node role epoch prefer peer group stops locked settings lats blocked s) := by
  unfold execTwinHeartbeatRx
  refine OSame.next ?_
  refine State.fromPeer_frame (.sub rfl hM) _ (fun _ h1 => ?_) ?_
  · extract_lets -merge -underBinder +onlyGivenNames x2
    have hx2 : Same M s0 x2 := State.heartbeatIn_frame (.sub rfl hM) _ _ _ _ h1
    extract_lets -merge -underBinder +onlyGivenNames x3
    refine Same.ite ?_ ?_
    · exact State.formPair_frame (.sub rfl hM) _ hx2
    · exact hx2
  · exact h

theorem execTwnCtrlFailWrite_frame {M : Nat} {s0 : State} (hM : Touch.le (.of [.regs, .rst, .pins, .clk, .hif, .mmu, .cpy, .dmc, .qdc, .scr, .csm, .pos, .fir, .plk, .cam, .lop, .lck, .tim, .urg, .twn, .thm, .pmc, .latch, .dram, .tables, .draws, .out]) M) (value : Sys2Proof.Word) {s : State} (h : Same M s0 s) : OSame M s0 (execTwnCtrlFailWrite value s) := by
  unfold execTwnCtrlFailWrite
  refine OSame.next ?_
  refine State.onWrite_frame (.sub rfl hM) _ _ (fun _ h1 => ?_) ?_
  · exact State.writeTwnCtrl_frame (.sub rfl hM) _ h1
  · exact h

theorem execFailedRx_frame {M : Nat} {s0 : State} (hM : Touch.le (.of [.regs, .hif, .dmc, .scr, .csm, .fir, .plk, .lop, .lck, .urg, .twn, .pmc, .dram, .tables, .draws, .out]) M) (node : BitVec 10) (y19 : BitVec 4) {s : State} (h : Same M s0 s) : OSame M s0 (execFailedRx node y19 s) := by
  unfold execFailedRx
  refine OSame.next ?_
  refine State.fromPeer_frame (.sub rfl hM) _ (fun _ h1 => ?_) ?_
  · extract_lets -merge -underBinder +onlyGivenNames z_2 x3
    have hx3 : Same M s0 x3 := Same.upd h1 (twn := .inl (.sub rfl hM))
    refine Same.ite ?_ ?_
    · exact State.takeOver_frame (.sub rfl hM) _ hx3
    · exact State.takeAll_frame (.sub rfl hM) hx3
  · exact h

theorem State.lateKnown_frame {M : Nat} {s0 : State} (hM : Touch.le (.of [.twn]) M) {s : State} (g : Sig) (h : Same M s0 s) : Same M s0 (State.lateKnown s g) := by
  unfold State.lateKnown
  refine Same.ite ?_ ?_
  · exact Same.upd h (twn := .inl (.sub rfl hM))
  · exact h

theorem execSwapRx_frame {M : Nat} {s0 : State} (hM : Touch.le (.of [.regs, .hif, .dmc, .scr, .csm, .fir, .plk, .lop, .lck, .urg, .twn, .pmc, .dram, .tables, .draws, .out]) M) (node : BitVec 10) (first : Vector (BitVec 48) 8) {s : State} (h : Same M s0 s) : OSame M s0 (execSwapRx node first s) := by
  unfold execSwapRx
  refine OSame.next ?_
  refine State.fromPeer_frame (.sub rfl hM) _ (fun _ h1 => ?_) ?_
  · refine Same.ite ?_ ?_
    · exact State.takeOver_frame (.sub rfl hM) _ h1
    · exact h1
  · exact h

theorem execPlaneStateRx_frame {M : Nat} {s0 : State} (hM : Touch.le (.of [.regs, .hif, .dmc, .scr, .csm, .fir, .plk, .lop, .lck, .urg, .twn, .pmc, .dram, .tables, .draws, .out]) M) (node : BitVec 10) (plane : Fin 8) (xa : Int) (phia : Int) (print : Int) (ofs : Sys2Proof.Word) (stretch : Sys2Proof.Word) (epoch : BitVec 48) {s : State} (h : Same M s0 s) : OSame M s0 (execPlaneStateRx node plane xa phia print ofs stretch epoch s) := by
  unfold execPlaneStateRx
  refine OSame.next ?_
  refine State.fromPeer_frame (.sub rfl hM) _ (fun _ h1 => ?_) ?_
  · refine Same.ite ?_ ?_
    · exact State.settle_frame (.sub rfl hM) _ (State.adoptPlane_frame (.sub rfl hM) _ _ _ _ _ _ _ h1)
    · exact h1
  · exact h

theorem execTwnEpochWrite_frame {M : Nat} {s0 : State} (hM : Touch.le (.of [.hif, .twn, .out]) M) (value : Sys2Proof.Word) {s : State} (h : Same M s0 s) : OSame M s0 (execTwnEpochWrite value s) := by
  unfold execTwnEpochWrite
  refine OSame.next ?_
  refine State.onWrite_frame (.sub rfl hM) _ _ (fun _ h1 => ?_) ?_
  · exact State.writeTwnEpoch_frame (.sub rfl hM) _ h1
  · exact h

theorem execSigRx_frame {M : Nat} {s0 : State} (hM : Touch.le (.of [.regs, .rst, .pins, .clk, .hif, .mmu, .cpy, .dmc, .qdc, .scr, .csm, .pos, .fir, .plk, .cam, .lop, .lck, .tim, .urg, .twn, .thm, .pmc, .latch, .dram, .tables, .draws, .out]) M) (node : BitVec 10) (bytes : List Sys2Proof.Byte) {s : State} (h : Same M s0 s) : OSame M s0 (execSigRx node bytes s) := by
  unfold execSigRx
  refine OSame.next ?_
  refine State.fromPeer_frame (.sub rfl hM) _ (fun _ h1 => ?_) ?_
  · extract_lets -merge -underBinder +onlyGivenNames x2
    refine Same.ite ?_ ?_
    · exact State.settle_frame (.sub rfl hM) _ (State.peerSig_frame (.sub rfl hM) _ (State.swapSeen_frame (.sub rfl hM) _ (State.lateKnown_frame (.sub rfl hM) _ h1)))
    · exact h1
  · exact h

end Sys2Proof.Machine
end

