-- ==== Sys2Proof/Laws/FrameRegisterRead.lean ====
section
/-! SUPPORT. What the operations of Machine/RegisterRead.lean may change. -/

set_option Elab.async false

namespace Sys2Proof.Machine

theorem State.prbsRead_frame {M : Nat} {s0 : State} (hM : Touch.le (.of [.plk, .draws]) M) {s : State} (o : Nat) (h : Same M s0 s) : Same M s0 (State.prbsRead s o) := by
  unfold State.prbsRead
  split
  · exact h
  · refine Same.ite ?_ ?_
    · extract_lets -merge -underBinder +onlyGivenNames x1
      exact State.modLink_frame (.sub rfl hM) _ _ (State.draw_frame (.sub rfl hM) h)
    · exact h

theorem State.capture_frame {M : Nat} {s0 : State} (hM : Touch.le (.of [.latch]) M) {s : State} (o : Nat) (h : Same M s0 s) : Same M s0 (State.capture s o) := by
  unfold State.capture
  exact Same.upd h (latch := .inl (.sub rfl hM))

theorem State.readWord_frame {M : Nat} {s0 : State} (hM : Touch.le (.of [.plk, .latch, .draws]) M) {s : State} (o : Nat) (h : Same M s0 s) : Same M s0 (State.readWord s o).2 := by
  unfold State.readWord
  split
  · exact h
  · extract_lets -merge -underBinder +onlyGivenNames x1
    have hx1 : Same M s0 x1 := State.prbsRead_frame (.sub rfl hM) _ h
    refine Same.foldl (fun _ _ h2 => ?_) ?_
    · exact State.capture_frame (.sub rfl hM) _ h2
    · exact hx1

theorem State.readBytes_frame {M : Nat} {s0 : State} (hM : Touch.le (.of [.plk, .latch, .draws]) M) {s : State} (o : Nat) (len : Nat) (h : Same M s0 s) : Same M s0 (State.readBytes s o len).2 := by
  unfold State.readBytes
  extract_lets -merge -underBinder +onlyGivenNames x1
  exact State.readWord_frame (.sub rfl hM) _ h

end Sys2Proof.Machine
end

