-- ==== Sys2Proof/Laws/FrameThermal.lean ====
section
/-! SUPPORT. What the operations of Machine/Thermal.lean may change. -/

set_option Elab.async false

namespace Sys2Proof.Machine

theorem State.writeThm_frame {M : Nat} {s0 : State} (hM : Touch.le (.of [.regs, .thm]) M) {s : State} (o : Nat) (v : Sys2Proof.Word) (h : Same M s0 s) : Same M s0 (State.writeThm s o v) := by
  unfold State.writeThm
  extract_lets -merge -underBinder +onlyGivenNames x1
  have hx1 : Same M s0 x1 := State.hostWrite_frame (.sub rfl hM) _ _ h
  exact Same.upd hx1 (thm := .inl (.sub rfl hM))

theorem execThmCfgWrite_frame {M : Nat} {s0 : State} (hM : Touch.le (.of [.regs, .hif, .thm]) M) (rate : Bool) (value : Sys2Proof.Word) {s : State} (h : Same M s0 s) : OSame M s0 (execThmCfgWrite rate value s) := by
  unfold execThmCfgWrite
  refine OSame.next ?_
  extract_lets -merge -underBinder +onlyGivenNames x1
  refine State.onWrite_frame (.sub rfl hM) _ _ (fun _ h2 => ?_) ?_
  · exact State.writeThm_frame (.sub rfl hM) _ _ h2
  · exact h

theorem execProgressBlockWrite_frame {M : Nat} {s0 : State} (hM : Touch.le (.of [.pmc, .out]) M) {s : State} (h : Same M s0 s) : OSame M s0 (execProgressBlockWrite s) := by
  unfold execProgressBlockWrite
  refine OSame.next ?_
  refine Same.ite ?_ ?_
  · exact State.countEvent_frame (.sub rfl hM) _ _ _ (State.emit_frame (.sub rfl hM) _ h)
  · exact h

theorem execThermalHistoryEntry_frame {M : Nat} {s0 : State} (hM : Touch.le (.of [.regs, .hif, .dmc, .thm, .pmc, .out]) M) {s : State} (h : Same M s0 s) : OSame M s0 (execThermalHistoryEntry s) := by
  unfold execThermalHistoryEntry
  refine OSame.next ?_
  refine Same.ite ?_ ?_
  · exact State.appendHistory_frame (.sub rfl hM) h
  · exact h

theorem State.writePeak_frame {M : Nat} {s0 : State} (hM : Touch.le (.of [.thm]) M) {s : State} (v : Sys2Proof.Word) (h : Same M s0 s) : Same M s0 (State.writePeak s v) := by
  unfold State.writePeak
  refine Same.ite ?_ ?_
  · exact Same.upd h (thm := .inl (.sub rfl hM))
  · exact h

theorem execThmPeakClear_frame {M : Nat} {s0 : State} (hM : Touch.le (.of [.hif, .thm]) M) {s : State} (h : Same M s0 s) : OSame M s0 (execThmPeakClear s) := by
  unfold execThmPeakClear
  refine OSame.next ?_
  refine State.onWrite_frame (.sub rfl hM) _ _ (fun _ h1 => ?_) ?_
  · exact State.writePeak_frame (.sub rfl hM) _ h1
  · exact h

theorem State.convert_frame {M : Nat} {s0 : State} (hM : Touch.le (.of [.regs, .hif, .dmc, .thm, .pmc, .out]) M) {s : State} (readings : Vector (Option Int) 12) (h : Same M s0 s) : Same M s0 (State.convert s readings) := by
  unfold State.convert
  extract_lets -merge -underBinder +onlyGivenNames x1
  extract_lets -merge -underBinder +onlyGivenNames z_2 x3
  have hx3 : Same M s0 x3 := Same.upd h (thm := .inl (.sub rfl hM))
  exact State.driftRetrain_frame (.sub rfl hM) (State.moveLevel_frame (.sub rfl hM) (State.recordFaults_frame (.sub rfl hM) _ hx3))

theorem execSleepSensorSample_frame {M : Nat} {s0 : State} (hM : Touch.le (.of [.regs, .rst, .pins, .clk, .hif, .mmu, .cpy, .dmc, .qdc, .scr, .csm, .pos, .fir, .plk, .cam, .lop, .lck, .tim, .urg, .twn, .thm, .pmc, .latch, .dram, .tables, .draws, .out]) M) (reading : Option Int) {s : State} (h : Same M s0 s) : OSame M s0 (execSleepSensorSample reading s) := by
  unfold execSleepSensorSample
  refine OSame.next ?_
  refine Same.ite ?_ ?_
  · exact State.shutdown_frame (.sub rfl hM) h
  · exact h

theorem execProgEnableWrite_frame {M : Nat} {s0 : State} (hM : Touch.le (.of [.regs, .hif]) M) (value : Sys2Proof.Word) {s : State} (h : Same M s0 s) : OSame M s0 (execProgEnableWrite value s) := by
  unfold execProgEnableWrite
  refine OSame.next ?_
  refine State.onWrite_frame (.sub rfl hM) _ _ (fun _ h1 => ?_) ?_
  · exact State.hostWrite_frame (.sub rfl hM) _ _ h1
  · exact h

theorem execSensorConversion_frame {M : Nat} {s0 : State} (hM : Touch.le (.of [.regs, .rst, .pins, .clk, .hif, .mmu, .cpy, .dmc, .qdc, .scr, .csm, .pos, .fir, .plk, .cam, .lop, .lck, .tim, .urg, .twn, .thm, .pmc, .latch, .dram, .tables, .draws, .out]) M) (readings : Vector (Option Int) 12) {s : State} (h : Same M s0 s) : OSame M s0 (execSensorConversion readings s) := by
  unfold execSensorConversion
  refine OSame.next ?_
  refine Same.ite ?_ ?_
  · exact h
  · refine Same.ite ?_ ?_
    · exact State.shutdown_frame (.sub rfl hM) h
    · exact State.convert_frame (.sub rfl hM) _ h

end Sys2Proof.Machine
end

