-- ==== Sys2Proof/Laws/FrameRegisterWrite.lean ====
section
/-! SUPPORT. What the operations of Machine/RegisterWrite.lean may change. -/

set_option Elab.async false

namespace Sys2Proof.Machine

theorem State.writeThmReg_frame {M : Nat} {s0 : State} (hM : Touch.le (.of [.regs, .thm]) M) {s : State} (o : Nat) (v : Sys2Proof.Word) (h : Same M s0 s) : Same M s0 (State.writeThmReg s o v) := by
  unfold State.writeThmReg
  refine Same.ite ?_ ?_
  · exact State.writeThm_frame (.sub rfl hM) _ _ h
  · refine Same.ite ?_ ?_
    · exact State.writePeak_frame (.sub rfl hM) _ h
    · exact State.hostWrite_frame (.sub rfl hM) _ _ h

theorem State.writeRstBlock_frame {M : Nat} {s0 : State} (hM : Touch.le (.of [.regs, .rst, .pins, .clk, .hif, .mmu, .cpy, .dmc, .qdc, .scr, .csm, .pos, .fir, .plk, .cam, .lop, .lck, .tim, .urg, .twn, .thm, .pmc, .latch, .dram, .tables, .draws, .out]) M) {s : State} (v : Sys2Proof.Word) (h : Same M s0 s) : Same M s0 (State.writeRstBlock s v) := by
  unfold State.writeRstBlock
  extract_lets -merge -underBinder +onlyGivenNames x1
  extract_lets -merge -underBinder +onlyGivenNames x2
  extract_lets -merge -underBinder +onlyGivenNames x3
  have hx3 : Same M s0 x3 := Same.upd h (rst := .inl (.sub rfl hM))
  extract_lets -merge -underBinder +onlyGivenNames x5
  refine State.settleResets_frame (.sub rfl hM) ?_
  refine Same.ite ?_ ?_
  · exact State.noteCause_frame (.sub rfl hM) _ hx3
  · exact hx3

theorem State.writeRst_frame {M : Nat} {s0 : State} (hM : Touch.le (.of [.regs, .rst, .pins, .clk, .hif, .mmu, .cpy, .dmc, .qdc, .scr, .csm, .pos, .fir, .plk, .cam, .lop, .lck, .tim, .urg, .twn, .thm, .pmc, .latch, .dram, .tables, .draws, .out]) M) {s : State} (o : Nat) (v : Sys2Proof.Word) (h : Same M s0 s) : Same M s0 (State.writeRst s o v) := by
  unfold State.writeRst
  refine Same.ite ?_ ?_
  · exact Same.upd h (rst := .inl (.sub rfl hM))
  · refine Same.ite ?_ ?_
    · exact State.writeRstBlock_frame (.sub rfl hM) _ h
    · refine Same.ite ?_ ?_
      · exact State.holdLinks_frame (.sub rfl hM) _ h
      · refine Same.ite ?_ ?_
        · exact State.writeSleep_frame (.sub rfl hM) _ h
        · refine Same.ite ?_ ?_
          · exact Same.upd h (rst := .inl (.sub rfl hM))
          · exact h

theorem State.writeMrCfg_frame {M : Nat} {s0 : State} (hM : Touch.le (.of [.regs, .hif, .mmu, .fir, .pmc, .out]) M) {s : State} (n : Fin 16) (v : Sys2Proof.Word) (h : Same M s0 s) : Same M s0 (State.writeMrCfg s n v) := by
  unfold State.writeMrCfg
  refine Same.ite ?_ ?_
  · exact State.mrEnable_frame (.sub rfl hM) _ _ h
  · exact State.mrDisable_frame (.sub rfl hM) _ _ h

theorem State.writeHif_frame {M : Nat} {s0 : State} (hM : Touch.le (.of [.regs, .hif, .mmu, .fir, .pmc, .out]) M) {s : State} (o : Nat) (v : Sys2Proof.Word) (h : Same M s0 s) : Same M s0 (State.writeHif s o v) := by
  unfold State.writeHif
  refine Same.ite ?_ ?_
  · exact State.logWrite_frame (.sub rfl hM) _ h
  · split
    · exact State.writeMrCfg_frame (.sub rfl hM) _ _ h
    · split
      · exact State.crWrite_frame (.sub rfl hM) _ _ h
      · exact State.hostWrite_frame (.sub rfl hM) _ _ h

theorem State.writeMmu_frame {M : Nat} {s0 : State} (hM : Touch.le (.of [.regs, .mmu]) M) {s : State} (o : Nat) (v : Sys2Proof.Word) (h : Same M s0 s) : Same M s0 (State.writeMmu s o v) := by
  unfold State.writeMmu
  refine Same.ite ?_ ?_
  · exact State.writeMmuCfg_frame (.sub rfl hM) _ h
  · refine Same.ite ?_ ?_
    · exact Same.upd h (mmu := .inl (.sub rfl hM))
    · exact State.hostWrite_frame (.sub rfl hM) _ _ h

theorem State.writeDmc_frame {M : Nat} {s0 : State} (hM : Touch.le (.of [.regs, .dmc]) M) {s : State} (o : Nat) (v : Sys2Proof.Word) (h : Same M s0 s) : Same M s0 (State.writeDmc s o v) := by
  unfold State.writeDmc
  extract_lets -merge -underBinder +onlyGivenNames x1
  refine Same.ite ?_ ?_
  · extract_lets -merge -underBinder +onlyGivenNames x2
    have hx2 : Same M s0 x2 := State.hostWrite_frame (.sub rfl hM) _ _ h
    refine Same.ite ?_ ?_
    · exact State.retrainNow_frame (.sub rfl hM) hx2
    · exact hx2
  · refine Same.ite ?_ ?_
    · exact Same.upd h (dmc := .inl (.sub rfl hM))
    · refine Same.ite ?_ ?_
      · extract_lets -merge -underBinder +onlyGivenNames x4
        have hx4 : Same M s0 x4 := Same.upd h (dmc := .inl (.sub rfl hM))
        refine Same.ite ?_ ?_
        · exact State.startFill_frame (.sub rfl hM) hx4
        · exact hx4
      · refine Same.ite ?_ ?_
        · exact Same.upd h (dmc := .inl (.sub rfl hM))
        · exact State.hostWrite_frame (.sub rfl hM) _ _ h

theorem State.writeCsm_frame {M : Nat} {s0 : State} (hM : Touch.le (.of [.regs, .csm]) M) {s : State} (o : Nat) (v : Sys2Proof.Word) (h : Same M s0 s) : Same M s0 (State.writeCsm s o v) := by
  unfold State.writeCsm
  refine Same.ite ?_ ?_
  · exact State.closeGates_frame (.sub rfl hM) _ h
  · refine Same.ite ?_ ?_
    · exact State.openGates_frame (.sub rfl hM) _ h
    · exact State.hostWrite_frame (.sub rfl hM) _ _ h

theorem State.writePos_frame {M : Nat} {s0 : State} (hM : Touch.le (.of [.regs, .pos, .fir, .urg, .twn, .out]) M) {s : State} (o : Nat) (v : Sys2Proof.Word) (h : Same M s0 s) : Same M s0 (State.writePos s o v) := by
  unfold State.writePos
  refine Same.ite ?_ ?_
  · exact State.writePosCfg_frame (.sub rfl hM) _ h
  · split
    · exact State.writeChCfg_frame (.sub rfl hM) _ _ h
    · split
      · exact State.writeLpr_frame (.sub rfl hM) _ _ h
      · split
        · exact State.writeIstat_frame (.sub rfl hM) _ _ h
        · exact State.settle_frame (.sub rfl hM) _ (State.followPosition_frame (.sub rfl hM) (State.hostWrite_frame (.sub rfl hM) _ _ h))

theorem State.writeFir_frame {M : Nat} {s0 : State} (hM : Touch.le (.of [.regs, .hif, .dmc, .scr, .csm, .fir, .plk, .lop, .lck, .urg, .twn, .pmc, .dram, .tables, .draws, .out]) M) {s : State} (o : Nat) (v : Sys2Proof.Word) (h : Same M s0 s) : Same M s0 (State.writeFir s o v) := by
  unfold State.writeFir
  refine Same.ite ?_ ?_
  · exact State.writeFirCtrl_frame (.sub rfl hM) _ h
  · split
    · refine Same.ite ?_ ?_
      · exact h
      · exact State.settle_frame (.sub rfl hM) _ (State.hostWrite_frame (.sub rfl hM) _ _ (State.anchor_frame (.sub rfl hM) _ h))
    · exact State.settle_frame (.sub rfl hM) _ (State.hostWrite_frame (.sub rfl hM) _ _ h)

theorem State.writeCam_frame {M : Nat} {s0 : State} (hM : Touch.le (.of [.regs, .pins, .cam]) M) {s : State} (o : Nat) (v : Sys2Proof.Word) (h : Same M s0 s) : Same M s0 (State.writeCam s o v) := by
  unfold State.writeCam
  refine Same.ite ?_ ?_
  · exact State.writePortEn_frame (.sub rfl hM) _ h
  · split
    · exact State.writeTrigCfg_frame (.sub rfl hM) _ _ h
    · split
      · exact State.writeCtxCfg_frame (.sub rfl hM) _ _ h
      · split
        · exact State.writeCamRing_frame (.sub rfl hM) _ _ _ h
        · split
          · exact State.writeCamRing_frame (.sub rfl hM) _ _ _ h
          · exact State.hostWrite_frame (.sub rfl hM) _ _ h

theorem State.writeLop_frame {M : Nat} {s0 : State} (hM : Touch.le (.of [.regs, .lop]) M) {s : State} (o : Nat) (v : Sys2Proof.Word) (h : Same M s0 s) : Same M s0 (State.writeLop s o v) := by
  unfold State.writeLop
  split
  · refine Same.ite ?_ ?_
    · exact Same.upd h (lop := .inl (.sub rfl hM))
    · exact State.hostWrite_frame (.sub rfl hM) _ _ h
  · exact State.hostWrite_frame (.sub rfl hM) _ _ h

theorem State.writeLck_frame {M : Nat} {s0 : State} (hM : Touch.le (.of [.regs, .lck]) M) {s : State} (o : Nat) (v : Sys2Proof.Word) (h : Same M s0 s) : Same M s0 (State.writeLck s o v) := by
  unfold State.writeLck
  split
  · exact State.appendEntry_frame (.sub rfl hM) _ _ h
  · exact State.hostWrite_frame (.sub rfl hM) _ _ h

theorem State.writeTim_frame {M : Nat} {s0 : State} (hM : Touch.le (.of [.regs, .rst, .pins, .clk, .hif, .mmu, .cpy, .dmc, .qdc, .scr, .csm, .pos, .fir, .plk, .cam, .lop, .lck, .tim, .urg, .twn, .thm, .pmc, .latch, .dram, .tables, .draws, .out]) M) {s : State} (o : Nat) (v : Sys2Proof.Word) (h : Same M s0 s) : Same M s0 (State.writeTim s o v) := by
  unfold State.writeTim
  refine Same.ite ?_ ?_
  · exact State.writeTimCfg_frame (.sub rfl hM) _ h
  · refine Same.ite ?_ ?_
    · exact Same.upd h (tim := .inl (.sub rfl hM))
    · refine Same.ite ?_ ?_
      · refine Same.ite ?_ ?_
        · exact State.setRate_frame (.sub rfl hM) _ h
        · exact h
      · refine Same.ite ?_ ?_
        · exact Same.upd h (tim := .inl (.sub rfl hM))
        · refine Same.ite ?_ ?_
          · exact State.writeStep_frame (.sub rfl hM) _ h
          · refine Same.ite ?_ ?_
            · exact State.writePtpCfg_frame (.sub rfl hM) _ h
            · split
              · exact State.writeCmpCfg_frame (.sub rfl hM) _ _ h
              · split
                · exact State.modCmp_frame (.sub rfl hM) _ _ h
                · split
                  · exact State.writeGpioCfg_frame (.sub rfl hM) _ _ h
                  · exact State.hostWrite_frame (.sub rfl hM) _ _ h

theorem State.writeUrg_frame {M : Nat} {s0 : State} (hM : Touch.le (.of [.regs, .fir, .urg, .twn, .out]) M) {s : State} (o : Nat) (v : Sys2Proof.Word) (h : Same M s0 s) : Same M s0 (State.writeUrg s o v) := by
  unfold State.writeUrg
  refine Same.ite ?_ ?_
  · exact State.writeUrgCfg_frame (.sub rfl hM) _ h
  · refine Same.ite ?_ ?_
    · exact State.writeUrgCtrl_frame (.sub rfl hM) _ h
    · exact State.hostWrite_frame (.sub rfl hM) _ _ h

theorem State.writeTwn_frame {M : Nat} {s0 : State} (hM : Touch.le (.of [.regs, .rst, .pins, .clk, .hif, .mmu, .cpy, .dmc, .qdc, .scr, .csm, .pos, .fir, .plk, .cam, .lop, .lck, .tim, .urg, .twn, .thm, .pmc, .latch, .dram, .tables, .draws, .out]) M) {s : State} (o : Nat) (v : Sys2Proof.Word) (h : Same M s0 s) : Same M s0 (State.writeTwn s o v) := by
  unfold State.writeTwn
  refine Same.ite ?_ ?_
  · exact State.writeTwnCfg_frame (.sub rfl hM) _ h
  · refine Same.ite ?_ ?_
    · exact State.writeTwnEpoch_frame (.sub rfl hM) _ h
    · refine Same.ite ?_ ?_
      · exact State.writeTwnCtrl_frame (.sub rfl hM) _ h
      · exact State.hostWrite_frame (.sub rfl hM) _ _ h

theorem State.writeDoorbell_frame {M : Nat} {s0 : State} (hM : Touch.le (.of [.regs, .hif, .mmu, .qdc, .pmc, .draws, .out]) M) {s : State} (o : Nat) (v : Sys2Proof.Word) (h : Same M s0 s) : Same M s0 (State.writeDoorbell s o v) := by
  unfold State.writeDoorbell
  extract_lets -merge -underBinder +onlyGivenNames x1
  split
  · exact State.writeTail_frame (.sub rfl hM) _ _ h
  · refine Same.ite ?_ ?_
    · exact State.resumeRing_frame (.sub rfl hM) _ h
    · exact h
  · refine Same.ite ?_ ?_
    · exact State.writeHead_frame (.sub rfl hM) _ _ h
    · exact h
  · refine Same.ite ?_ ?_
    · exact State.writeLogHead_frame (.sub rfl hM) _ h
    · exact h
  · exact h

theorem State.routeWrite_frame {M : Nat} {s0 : State} (hM : Touch.le (.of [.regs, .rst, .pins, .clk, .hif, .mmu, .cpy, .dmc, .qdc, .scr, .csm, .pos, .fir, .plk, .cam, .lop, .lck, .tim, .urg, .twn, .thm, .pmc, .latch, .dram, .tables, .draws, .out]) M) {s : State} (o : Nat) (v : Sys2Proof.Word) (h : Same M s0 s) : Same M s0 (State.routeWrite s o v) := by
  unfold State.routeWrite
  refine Same.ite ?_ ?_
  · exact State.writeRst_frame (.sub rfl hM) _ _ h
  · refine Same.ite ?_ ?_
    · exact State.measStart_frame (.sub rfl hM) _ h
    · refine Same.ite ?_ ?_
      · exact State.writeThmReg_frame (.sub rfl hM) _ _ h
      · refine Same.ite ?_ ?_
        · exact State.writeHif_frame (.sub rfl hM) _ _ h
        · refine Same.ite ?_ ?_
          · exact State.writeMmu_frame (.sub rfl hM) _ _ h
          · refine Same.ite ?_ ?_
            · exact State.writeDmc_frame (.sub rfl hM) _ _ h
            · refine Same.ite ?_ ?_
              · exact State.writeScrCfg_frame (.sub rfl hM) _ h
              · refine Same.ite ?_ ?_
                · exact State.writeCsm_frame (.sub rfl hM) _ _ h
                · refine Same.ite ?_ ?_
                  · exact State.writePos_frame (.sub rfl hM) _ _ h
                  · refine Same.ite ?_ ?_
                    · exact State.writeFir_frame (.sub rfl hM) _ _ h
                    · split
                      · exact State.writePlkCfg_frame (.sub rfl hM) _ _ h
                      · split
                        · exact State.writePlkAuth_frame (.sub rfl hM) _ _ h
                        · refine Same.ite ?_ ?_
                          · exact State.writeCam_frame (.sub rfl hM) _ _ h
                          · refine Same.ite ?_ ?_
                            · exact State.writeLop_frame (.sub rfl hM) _ _ h
                            · refine Same.ite ?_ ?_
                              · exact State.writeLck_frame (.sub rfl hM) _ _ h
                              · refine Same.ite ?_ ?_
                                · exact State.writeTim_frame (.sub rfl hM) _ _ h
                                · refine Same.ite ?_ ?_
                                  · exact State.writeUrg_frame (.sub rfl hM) _ _ h
                                  · refine Same.ite ?_ ?_
                                    · exact State.writeTwn_frame (.sub rfl hM) _ _ h
                                    · refine Same.ite ?_ ?_
                                      · exact State.writeDoorbell_frame (.sub rfl hM) _ _ h
                                      · exact State.hostWrite_frame (.sub rfl hM) _ _ h

theorem State.releaseOne_frame {M : Nat} {s0 : State} (hM : Touch.le (.of [.regs, .rst, .pins, .clk, .hif, .mmu, .cpy, .dmc, .qdc, .scr, .csm, .pos, .fir, .plk, .cam, .lop, .lck, .tim, .urg, .twn, .thm, .pmc, .latch, .dram, .tables, .draws, .out]) M) {s : State} (h : Same M s0 s) : Same M s0 (State.releaseOne s) := by
  unfold State.releaseOne
  split
  · exact h
  · split
    · refine State.routeWrite_frame (.sub rfl hM) _ _ ?_
      exact Same.upd h (hif := .inl (.sub rfl hM))
    · extract_lets -merge -underBinder +onlyGivenNames x2
      refine State.completeReads_frame (.sub rfl hM) ?_
      extract_lets -merge -underBinder +onlyGivenNames x3
      have hx3 : Same M s0 x3 := State.readBytes_frame (.sub rfl hM) _ _ h
      exact Same.upd hx3 (hif := .inl (.sub rfl hM))

theorem State.stopLinkClock_frame {M : Nat} {s0 : State} (hM : Touch.le (.of [.regs, .clk, .hif, .dmc, .csm, .fir, .plk, .lop, .lck, .urg, .twn, .pmc, .dram, .tables, .draws, .out]) M) {s : State} (n : Fin 32) (h : Same M s0 s) : Same M s0 (State.stopLinkClock s n) := by
  unfold State.stopLinkClock
  extract_lets -merge -underBinder +onlyGivenNames x1
  have hx1 : Same M s0 x1 := State.setReg_frame (.sub rfl hM) _ _ h
  refine Same.ite ?_ ?_
  · exact hx1
  · extract_lets -merge -underBinder +onlyGivenNames z_2 x3
    have hx3 : Same M s0 x3 := by
      refine State.log_frame (.sub rfl hM) _ _ _ _ ?_
      exact Same.upd hx1 (clk := .inl (.sub rfl hM))
    split
    · exact hx3
    · exact hx3
    · exact State.linkFault_frame (.sub rfl hM) _ _ hx3

theorem State.stopClock_frame {M : Nat} {s0 : State} (hM : Touch.le (.of [.regs, .rst, .clk, .hif, .tim, .urg, .pmc, .out]) M) {s : State} (k : Fin 9) (h : Same M s0 s) : Same M s0 (State.stopClock s k) := by
  unfold State.stopClock
  extract_lets -merge -underBinder +onlyGivenNames x1
  have hx1 : Same M s0 x1 := State.setReg_frame (.sub rfl hM) _ _ h
  refine Same.ite ?_ ?_
  · exact hx1
  · extract_lets -merge -underBinder +onlyGivenNames z_2 x3
    have hx3 : Same M s0 x3 := by
      refine State.log_frame (.sub rfl hM) _ _ _ _ ?_
      exact Same.upd hx1 (clk := .inl (.sub rfl hM))
    refine Same.ite ?_ ?_
    · exact Same.upd hx3 (urg := .inl (.sub rfl hM))
    · refine Same.ite ?_ ?_
      · exact Same.upd hx3 (tim := .inl (.sub rfl hM))
      · refine Same.ite ?_ ?_
        · exact Same.upd hx3 (rst := .inl (.sub rfl hM))
        · exact hx3

theorem State.monitorClock_frame {M : Nat} {s0 : State} (hM : Touch.le (.of [.regs, .rst, .clk, .hif, .dmc, .csm, .fir, .plk, .lop, .lck, .tim, .urg, .twn, .pmc, .dram, .tables, .draws, .out]) M) {s : State} (k : Fin 48) (count : Nat) (h : Same M s0 s) : Same M s0 (State.monitorClock s k count) := by
  unfold State.monitorClock
  split
  · exact h
  · refine Same.ite ?_ ?_
    · extract_lets -merge -underBinder +onlyGivenNames x1
      refine Same.ite ?_ ?_
      · exact State.stopLinkClock_frame (.sub rfl hM) _ h
      · exact Same.upd h (clk := .inl (.sub rfl hM))
    · refine Same.ite ?_ ?_
      · exact State.stopClock_frame (.sub rfl hM) _ h
      · exact Same.upd h (clk := .inl (.sub rfl hM))

theorem State.releaseHeld_frame {M : Nat} {s0 : State} (hM : Touch.le (.of [.regs, .rst, .pins, .clk, .hif, .mmu, .cpy, .dmc, .qdc, .scr, .csm, .pos, .fir, .plk, .cam, .lop, .lck, .tim, .urg, .twn, .thm, .pmc, .latch, .dram, .tables, .draws, .out]) M) {s : State} (h : Same M s0 s) : Same M s0 (State.releaseHeld s) := by
  unfold State.releaseHeld
  refine Same.foldl (fun _ _ h1 => ?_) ?_
  · exact State.releaseOne_frame (.sub rfl hM) h1
  · exact h

theorem execPllLock_frame {M : Nat} {s0 : State} (hM : Touch.le (.of [.regs, .rst, .pins, .clk, .hif, .mmu, .cpy, .dmc, .qdc, .scr, .csm, .pos, .fir, .plk, .cam, .lop, .lck, .tim, .urg, .twn, .thm, .pmc, .latch, .dram, .tables, .draws, .out]) M) (pll : Fin 11) {s : State} (h : Same M s0 s) : OSame M s0 (execPllLock pll s) := by
  unfold execPllLock
  refine OSame.next ?_
  refine State.releaseHeld_frame (.sub rfl hM) ?_
  refine State.drainTide_frame (.sub rfl hM) ?_
  exact Same.upd h (clk := .inl (.sub rfl hM))

theorem execClockMonitorWindow_frame {M : Nat} {s0 : State} (hM : Touch.le (.of [.regs, .rst, .pins, .clk, .hif, .mmu, .cpy, .dmc, .qdc, .scr, .csm, .pos, .fir, .plk, .cam, .lop, .lck, .tim, .urg, .twn, .thm, .pmc, .latch, .dram, .tables, .now, .draws, .out]) M) (window : Sys2Proof.ClockWindow) {s : State} (h : Same M s0 s) : OSame M s0 (execClockMonitorWindow window s) := by
  unfold execClockMonitorWindow
  refine OSame.next ?_
  extract_lets -merge -underBinder +onlyGivenNames x1
  have hx1 : Same M s0 x1 := State.advance_frame (.sub rfl hM) _ h
  refine Same.ite ?_ ?_
  · refine State.releaseHeld_frame (.sub rfl hM) ?_
    refine State.drainTide_frame (.sub rfl hM) ?_
    refine Same.foldl (fun _ _ h2 => ?_) ?_
    · exact State.monitorClock_frame (.sub rfl hM) _ _ h2
    · exact hx1
  · exact hx1

theorem State.takeRead_frame {M : Nat} {s0 : State} (hM : Touch.le (.of [.hif, .plk, .latch, .draws, .out]) M) {s : State} (o : Nat) (len : Nat) (h : Same M s0 s) : Same M s0 (State.takeRead s o len) := by
  unfold State.takeRead
  extract_lets -merge -underBinder +onlyGivenNames x1
  exact State.completeReads_frame (.sub rfl hM) (State.addAccess_frame (.sub rfl hM) _ (State.readBytes_frame (.sub rfl hM) _ _ h))

theorem execBarAccessUnsupported_frame {M : Nat} {s0 : State} (hM : Touch.le (.of [.hif, .plk, .latch, .draws, .out]) M) (write : Bool) (offset : BitVec 25) (length : Nat) {s : State} (h : Same M s0 s) : OSame M s0 (execBarAccessUnsupported write offset length s) := by
  unfold execBarAccessUnsupported
  extract_lets -merge -underBinder +onlyGivenNames x1
  refine OSame.next ?_
  refine Same.ite ?_ ?_
  · exact h
  · refine Same.ite ?_ ?_
    · refine Same.ite ?_ ?_
      · exact h
      · refine Same.ite ?_ ?_
        · exact State.addAccess_frame (.sub rfl hM) _ h
        · exact State.takeRead_frame (.sub rfl hM) _ _ h
    · refine Same.ite ?_ ?_
      · exact State.discardWrite_frame (.sub rfl hM) h
      · exact State.readUnsupported_frame (.sub rfl hM) _ _ h

theorem execRegisterWrite_frame {M : Nat} {s0 : State} (hM : Touch.le (.of [.regs, .rst, .pins, .clk, .hif, .mmu, .cpy, .dmc, .qdc, .scr, .csm, .pos, .fir, .plk, .cam, .lop, .lck, .tim, .urg, .twn, .thm, .pmc, .latch, .dram, .tables, .draws, .out]) M) (offset : BitVec 25) (value : Sys2Proof.Word) {s : State} (h : Same M s0 s) : OSame M s0 (execRegisterWrite offset value s) := by
  unfold execRegisterWrite
  refine OSame.next ?_
  refine Same.ite ?_ ?_
  · refine State.onWrite_frame (.sub rfl hM) _ _ (fun _ h1 => ?_) ?_
    · exact State.routeWrite_frame (.sub rfl hM) _ _ h1
    · exact h
  · exact State.discardWrite_frame (.sub rfl hM) h

end Sys2Proof.Machine
end

