-- ==== Sys2Proof/Laws/KeepsRegisters.lean ====
section
/-! SUPPORT. What the operations of Machine/Registers.lean keep. -/

set_option Elab.async false

namespace Sys2Proof.Machine

theorem State.setReg_keeps {s0 s : State} (o : Nat) (v : BitVec 32) (h : Keeps s0 s) : Keeps s0 (s.setReg o v) :=
  ⟨h.pending, h.now, h.draws, h.out, fun w => ⟨RegFile.wf_set o v (h.wf w).1, (h.wf w).2⟩, h.ids⟩

theorem State.setField_keeps {s0 : State} {s : State} (o : Nat) (lo : Nat) (w : Nat) (x : Nat) (h : Keeps s0 s) : Keeps s0 (State.setField s o lo w x) := by
  unfold State.setField
  exact State.setReg_keeps _ _ h

theorem State.hostWrite_keeps {s0 : State} {s : State} (o : Nat) (v : BitVec 32) (h : Keeps s0 s) : Keeps s0 (State.hostWrite s o v) := by
  unfold State.hostWrite
  split
  · exact h
  · exact State.setReg_keeps _ _ h

end Sys2Proof.Machine
end

