-- ==== Sys2Proof/Laws/KeepsOps.lean ====
section
/-! SUPPORT. What the operations of Machine/Ops.lean keep. -/

set_option Elab.async false

namespace Sys2Proof.Machine

theorem State.emit_keeps {s0 s : State} (o : Out) (h : Keeps s0 s) : Keeps s0 (s.emit o) :=
  ⟨h.pending, h.now, h.draws, h.out.trans (List.prefix_append _ _), h.wf, h.ids⟩

theorem State.raiseCounter_keeps {s0 : State} {s : State} (k : Fin 64) (n : Nat) (h : Keeps s0 s) : Keeps s0 (State.raiseCounter s k n) := by
  unfold State.raiseCounter
  extract_lets -merge -underBinder +onlyGivenNames x1
  extract_lets -merge -underBinder +onlyGivenNames z_2 x3
  have hx3 : Keeps s0 x3 := by
    refine Keeps.upd ?_
    exact h
  refine Keeps.ite ?_ ?_
  · exact hx3
  · extract_lets -merge -underBinder +onlyGivenNames z_4 x5
    have hx5 : Keeps s0 x5 := by
      refine Keeps.upd ?_
      exact hx3
    refine Keeps.ite ?_ ?_
    · exact State.emit_keeps _ hx5
    · exact hx5

theorem State.countEvent_keeps {s0 : State} {s : State} (code : Nat) (n : Nat) (i : EventInfo) (h : Keeps s0 s) : Keeps s0 (State.countEvent s code n i) := by
  unfold State.countEvent
  refine Keeps.ite ?_ ?_
  · exact h
  · refine Keeps.foldl (fun _ _ h1 => ?_) ?_
    · refine Keeps.ite ?_ ?_
      · exact State.raiseCounter_keeps _ _ h1
      · exact h1
    · exact h

theorem State.signal_keeps {s0 : State} {s : State} (v : Fin 64) (h : Keeps s0 s) : Keeps s0 (State.signal s v) := by
  unfold State.signal
  refine Keeps.ite ?_ ?_
  · refine Keeps.upd ?_
    exact h
  · exact State.countEvent_keeps _ _ _ (State.emit_keeps _ h)

theorem State.signalLog_keeps {s0 : State} {s : State} (h : Keeps s0 s) : Keeps s0 (State.signalLog s) := by
  unfold State.signalLog
  refine State.signal_keeps _ ?_
  refine Keeps.upd ?_
  exact h

theorem State.putRecord_keeps {s0 : State} {s : State} (code : Nat) (sev : Nat) (unit : Nat) (data : List Sys2Proof.Byte) (h : Keeps s0 s) : Keeps s0 (State.putRecord s code sev unit data) := by
  unfold State.putRecord
  extract_lets -merge -underBinder +onlyGivenNames x1
  extract_lets -merge -underBinder +onlyGivenNames x2
  extract_lets -merge -underBinder +onlyGivenNames x3
  extract_lets -merge -underBinder +onlyGivenNames z_4 x5
  have hx5 : Keeps s0 x5 := by
    refine State.countEvent_keeps _ _ _ ?_
    refine State.emit_keeps _ ?_
    refine Keeps.upd ?_
    exact h
  refine Keeps.ite ?_ ?_
  · exact State.signalLog_keeps hx5
  · exact hx5

theorem State.signalCr_keeps {s0 : State} {s : State} (m : Fin 8) (h : Keeps s0 s) : Keeps s0 (State.signalCr s m) := by
  unfold State.signalCr
  refine State.signal_keeps _ ?_
  refine Keeps.upd ?_
  exact h

theorem State.putLost_keeps {s0 : State} {s : State} (h : Keeps s0 s) : Keeps s0 (State.putLost s) := by
  unfold State.putLost
  refine Keeps.ite ?_ ?_
  · refine State.putRecord_keeps _ _ _ _ ?_
    refine Keeps.upd ?_
    exact h
  · exact h

theorem State.writeCompletion_keeps {s0 : State} {s : State} (m : Fin 8) (tag : BitVec 32) (index : BitVec 16) (status : BitVec 8) (ring : Fin 16) (result : Nat) (irq : Bool) (h : Keeps s0 s) : Keeps s0 (State.writeCompletion s m tag index status ring result irq) := by
  unfold State.writeCompletion
  extract_lets -merge -underBinder +onlyGivenNames x1
  extract_lets -merge -underBinder +onlyGivenNames x2
  extract_lets -merge -underBinder +onlyGivenNames x3
  extract_lets -merge -underBinder +onlyGivenNames z_4 x5
  have hx5 : Keeps s0 x5 := by
    refine State.countEvent_keeps _ _ _ ?_
    refine State.emit_keeps _ ?_
    refine Keeps.upd ?_
    exact h
  refine Keeps.ite ?_ ?_
  · exact State.signalCr_keeps _ hx5
  · exact hx5

theorem State.countDram_keeps {s0 : State} {s : State} (port : Fin 10) (cls : Nat) (bytes : Nat) (addr : Nat) (h : Keeps s0 s) : Keeps s0 (State.countDram s port cls bytes addr) := by
  unfold State.countDram
  extract_lets -merge -underBinder +onlyGivenNames x1
  extract_lets -merge -underBinder +onlyGivenNames x2
  have hx2 : Keeps s0 x2 := State.countEvent_keeps _ _ _ h
  refine Keeps.ite ?_ ?_
  · exact hx2
  · extract_lets -merge -underBinder +onlyGivenNames x3
    refine Keeps.upd ?_
    exact hx2

theorem State.eraseBytes_keeps {s0 s : State} (gone : Nat → Bool) (h : Keeps s0 s) : Keeps s0 (s.eraseBytes gone) :=
  ⟨h.pending, h.now, h.draws, h.out, fun w => ⟨(h.wf w).1, (h.wf w).2.1, Mem.wf_filter _ _ (h.wf w).2.2.1, (h.wf w).2.2.2⟩, h.ids⟩

theorem State.writeTable_keeps {s0 s : State} (t off : Nat) (bs : List Byte) (h : Keeps s0 s) : Keeps s0 (s.writeTable t off bs) :=
  ⟨h.pending, h.now, h.draws, h.out, fun w => ⟨(h.wf w).1, (h.wf w).2.1, writeRange_wf _ _ _ _ (h.wf w).2.2.1, (h.wf w).2.2.2⟩, h.ids⟩

theorem State.loseDram_keeps {s0 s : State} (h : Keeps s0 s) : Keeps s0 s.loseDram :=
  ⟨h.pending, h.now, h.draws, h.out, fun w => ⟨(h.wf w).1, rfl, (h.wf w).2.2⟩, h.ids⟩

theorem State.draw_keeps {s0 s : State} (h : Keeps s0 s) : Keeps s0 s.draw.2 :=
  ⟨h.pending, h.now, Nat.le_succ_of_le h.draws, h.out, h.wf, h.ids⟩

theorem State.log_keeps {s0 : State} {s : State} (code : Nat) (sev : Nat) (unit : Nat) (data : List Sys2Proof.Byte) (h : Keeps s0 s) : Keeps s0 (State.log s code sev unit data) := by
  unfold State.log
  refine Keeps.ite ?_ ?_
  · extract_lets -merge -underBinder +onlyGivenNames x1
    have hx1 : Keeps s0 x1 := State.putLost_keeps h
    refine Keeps.ite ?_ ?_
    · exact State.putRecord_keeps _ _ _ _ hx1
    · refine State.setReg_keeps _ _ ?_
      refine Keeps.upd ?_
      exact hx1
  · exact h

end Sys2Proof.Machine
end

