-- ==== Sys2Proof/Laws/KeepsDramQueue.lean ====
section
/-! SUPPORT. What the operations of Machine/DramQueue.lean keep. -/

set_option Elab.async false

namespace Sys2Proof.Machine

theorem State.recordDrop_keeps {s0 : State} {s : State} (port : Fin 10) (a : Nat) (h : Keeps s0 s) : Keeps s0 (State.recordDrop s port a) := by
  unfold State.recordDrop
  refine Keeps.upd ?_
  exact h

theorem State.recordUe_keeps {s0 : State} {s : State} (port : Fin 10) (a : Nat) (h : Keeps s0 s) : Keeps s0 (State.recordUe s port a) := by
  unfold State.recordUe
  refine Keeps.upd ?_
  exact h

theorem State.storeUnit_keeps {s0 s : State} (a : Nat) (bs : List Byte) (h : Keeps s0 s) : Keeps s0 (s.storeUnit a bs) :=
  ⟨h.pending, h.now, h.draws, h.out, fun w => ⟨(h.wf w).1, writeRange_wf _ _ _ _ (h.wf w).2.1, (h.wf w).2.2⟩, h.ids⟩

theorem State.accepted_keeps {s0 : State} {s : State} (r : DramReq) (h : Keeps s0 s) : Keeps s0 (State.accepted s r) := by
  unfold State.accepted
  refine State.countDram_keeps _ _ _ _ ?_
  refine Keeps.upd ?_
  exact h

theorem State.modSub_keeps {s0 : State} {s : State} (k : Fin 4) (f : Subchannel → Subchannel) (h : Keeps s0 s) : Keeps s0 (State.modSub s k f) := by
  unfold State.modSub
  refine Keeps.upd ?_
  exact h

theorem State.fillEnds_keeps {s0 : State} {s : State} (h : Keeps s0 s) : Keeps s0 (State.fillEnds s) := by
  unfold State.fillEnds
  split
  · refine Keeps.ite ?_ ?_
    · refine Keeps.upd ?_
      exact h
    · exact h
  · exact h

theorem State.refreshNeighbours_keeps {s0 : State} {s : State} (k : Fin 4) (d : DramReq) (h : Keeps s0 s) : Keeps s0 (State.refreshNeighbours s k d) := by
  unfold State.refreshNeighbours
  extract_lets -merge -underBinder +onlyGivenNames x1
  refine State.countEvent_keeps _ _ _ ?_
  refine Keeps.ite ?_ ?_
  · exact State.emit_keeps _ h
  · refine Keeps.foldl (fun _ _ h2 => ?_) ?_
    · exact State.emit_keeps _ h2
    · exact h

theorem State.activate_keeps {s0 : State} {s : State} (k : Fin 4) (r : DramReq) (h : Keeps s0 s) : Keeps s0 (State.activate s k r) := by
  unfold State.activate
  extract_lets -merge -underBinder +onlyGivenNames x1
  extract_lets -merge -underBinder +onlyGivenNames x2
  have hx2 : Keeps s0 x2 := by
    refine Keeps.foldl (fun _ _ h3 => ?_) ?_
    · exact State.refreshNeighbours_keeps _ _ h3
    · exact h
  extract_lets -merge -underBinder +onlyGivenNames x4
  exact State.countEvent_keeps _ _ _ (State.modSub_keeps _ _ (State.draw_keeps hx2))

theorem State.issueReq_keeps {s0 : State} {s : State} (k : Fin 4) (r : DramReq) (h : Keeps s0 s) : Keeps s0 (State.issueReq s k r) := by
  unfold State.issueReq
  extract_lets -merge -underBinder +onlyGivenNames x1
  have hx1 : Keeps s0 x1 := by
    refine Keeps.ite ?_ ?_
    · exact State.countEvent_keeps _ _ _ (State.modSub_keeps _ _ h)
    · exact State.activate_keeps _ _ h
  exact State.modSub_keeps _ _ hx1

theorem State.pickIssue_keeps {s0 : State} {s : State} (k : Fin 4) (h : Keeps s0 s) : Keeps s0 (State.pickIssue s k) := by
  unfold State.pickIssue
  split
  · exact h
  · exact State.fillEnds_keeps (State.issueReq_keeps _ _ h)

theorem State.makeSlot_keeps {s0 : State} {s : State} (k : Fin 4) (n : Nat) (h : Keeps s0 s) : Keeps s0 (s.makeSlot k n) := by
  induction n generalizing s with
  | zero => exact h
  | succ n ih => exact Keeps.ite (ih (State.pickIssue_keeps _ h)) h

theorem State.queueWrite_keeps {s0 : State} {s : State} (r : DramReq) (h : Keeps s0 s) : Keeps s0 (State.queueWrite s r) := by
  unfold State.queueWrite
  extract_lets -merge -underBinder +onlyGivenNames x1
  exact State.accepted_keeps _ (State.modSub_keeps _ _ (State.makeSlot_keeps _ _ h))

theorem State.putWrite_keeps {s0 : State} {s : State} (r : DramReq) (bs : List Sys2Proof.Byte) (h : Keeps s0 s) : Keeps s0 (State.putWrite s r bs) := by
  unfold State.putWrite
  refine Keeps.ite ?_ ?_
  · exact h
  · refine Keeps.ite ?_ ?_
    · exact State.recordDrop_keeps _ _ h
    · refine Keeps.ite ?_ ?_
      · exact State.recordUe_keeps _ _ h
      · exact State.storeUnit_keeps _ _ (State.queueWrite_keeps _ h)

theorem State.spoilUnit_keeps {s0 : State} {s : State} (u : Nat) (h : Keeps s0 s) : Keeps s0 (State.spoilUnit s u) := by
  unfold State.spoilUnit
  refine Keeps.upd ?_
  exact h

theorem State.serveUntil_keeps {s0 : State} {s : State} (k : Fin 4) (seq n : Nat) (h : Keeps s0 s) : Keeps s0 (s.serveUntil k seq n) := by
  induction n generalizing s with
  | zero => exact h
  | succ n ih => exact Keeps.ite (ih (State.pickIssue_keeps _ h)) h

theorem State.serveRead_keeps {s0 : State} {s : State} (r : DramReq) (h : Keeps s0 s) : Keeps s0 (State.serveRead s r) := by
  unfold State.serveRead
  extract_lets -merge -underBinder +onlyGivenNames x1
  refine Keeps.ite ?_ ?_
  · exact h
  · refine Keeps.ite ?_ ?_
    · exact State.accepted_keeps _ h
    · extract_lets -merge -underBinder +onlyGivenNames x2
      have hx2 : Keeps s0 x2 := State.accepted_keeps _ (State.modSub_keeps _ _ h)
      exact State.modSub_keeps _ _ (State.serveUntil_keeps _ _ _ hx2)

end Sys2Proof.Machine
end

