-- ==== Sys2Proof/Laws/KeepsMemory.lean ====
section
/-! SUPPORT. What the operations of Machine/Memory.lean keep. -/

set_option Elab.async false

namespace Sys2Proof.Machine

theorem State.dramReadUnit_keeps {s0 : State} {s : State} (port : Fin 10) (a : Nat) (len : Nat) (chamber : Bool) (h : Keeps s0 s) : Keeps s0 (State.dramReadUnit s port a len chamber) := by
  unfold State.dramReadUnit
  extract_lets -merge -underBinder +onlyGivenNames x1
  have hx1 : Keeps s0 x1 := State.serveRead_keeps _ h
  refine Keeps.ite ?_ ?_
  · exact State.recordUe_keeps _ _ hx1
  · exact hx1

theorem State.dramTouch_keeps {s0 : State} {s : State} (port : Fin 10) (a : Nat) (len : Nat) (chamber : Bool) (h : Keeps s0 s) : Keeps s0 (State.dramTouch s port a len chamber) := by
  unfold State.dramTouch
  refine Keeps.foldl (fun _ _ h1 => ?_) ?_
  · exact State.dramReadUnit_keeps _ _ _ _ h1
  · exact h

theorem State.dramRead_keeps {s0 : State} {s : State} (port : Fin 10) (a : Nat) (len : Nat) (chamber : Bool) (h : Keeps s0 s) : Keeps s0 (State.dramRead s port a len chamber).2.2 := by
  unfold State.dramRead
  exact State.dramTouch_keeps _ _ _ _ h

theorem State.readPte_keeps {s0 : State} {s : State} (port : Fin 10) (a : Nat) (h : Keeps s0 s) : Keeps s0 (State.readPte s port a).2 := by
  unfold State.readPte
  split
  · rename_i v1 v2 v3 e4
    have hv3 : Keeps s0 v3 := (congrArg (fun r => Keeps s0 r.2.2) e4).mp (State.dramRead_keeps _ _ _ _ h)
    exact hv3

theorem State.pickPte_keeps {s0 : State} {s : State} (port : Fin 10) (level : Nat) (pre : Nat) (a : Nat) (h : Keeps s0 s) : Keeps s0 (State.pickPte s port level pre a).2 := by
  unfold State.pickPte
  split
  · exact State.readPte_keeps _ _ h
  · split
    · exact h
    · extract_lets -merge -underBinder +onlyGivenNames x1
      split
      · exact State.draw_keeps h
      · exact State.readPte_keeps _ _ (State.draw_keeps h)

theorem State.cachePte_keeps {s0 : State} {s : State} (level : Nat) (pre : Nat) (pte : Nat) (h : Keeps s0 s) : Keeps s0 (State.cachePte s level pre pte) := by
  unfold State.cachePte
  extract_lets -merge -underBinder +onlyGivenNames x1
  refine Keeps.upd ?_
  exact h

theorem State.walkFrom_keeps {s0 : State} {s : State} (port : Fin 10) (job : Nat) (write : Bool) (left level table : Nat) (h : Keeps s0 s) :
    Keeps s0 (s.walkFrom port job write left level table).2 := by
  induction left generalizing s level table with
  | zero => exact h
  | succ left ih =>
    unfold State.walkFrom
    extract_lets sh idx pre
    split
    · rename_i s1 e
      exact (congrArg (fun r => Keeps s0 r.2) e).mp (State.pickPte_keeps _ _ _ _ h)
    · rename_i p s2 e
      have h2 : Keeps s0 s2 := (congrArg (fun r => Keeps s0 r.2) e).mp (State.pickPte_keeps _ _ _ _ h)
      repeat' split
      all_goals first
        | exact h2
        | exact State.cachePte_keeps _ _ _ h2
        | exact ih _ _ (State.cachePte_keeps _ _ _ h2)

theorem State.dramPutUnit_keeps {s0 : State} {s : State} (port : Fin 10) (a : Nat) (bs : List Sys2Proof.Byte) (chamber : Bool) (h : Keeps s0 s) : Keeps s0 (State.dramPutUnit s port a bs chamber) := by
  unfold State.dramPutUnit
  exact State.putWrite_keeps _ _ h

theorem State.dramPut_keeps {s0 : State} {s : State} (port : Fin 10) (a : Nat) (bs : List Sys2Proof.Byte) (chamber : Bool) (h : Keeps s0 s) : Keeps s0 (State.dramPut s port a bs chamber) := by
  unfold State.dramPut
  refine Keeps.foldl (fun _ _ h1 => ?_) ?_
  · exact State.dramPutUnit_keeps _ _ _ _ h1
  · exact h

theorem State.translate_keeps {s0 : State} {s : State} (port : Fin 10) (job : Nat) (write : Bool) (h : Keeps s0 s) : Keeps s0 (State.translate s port job write).2 := by
  unfold State.translate
  split
  · exact State.walkFrom_keeps _ _ _ _ _ _ h
  · exact h

theorem State.recordFault_keeps {s0 : State} {s : State} (slot : Fin 17) (kind : Nat) (level : Nat) (write : Bool) (op : BitVec 8) (job : Nat) (h : Keeps s0 s) : Keeps s0 (State.recordFault s slot kind level write op job) := by
  unfold State.recordFault
  extract_lets -merge -underBinder +onlyGivenNames x1
  refine Keeps.upd ?_
  exact h

theorem State.codecWalk_keeps {s0 : State} {s : State} (port : Fin 10) (job : Nat) (h : Keeps s0 s) : Keeps s0 (State.codecWalk s port job).2 := by
  unfold State.codecWalk
  split
  · split
    · rename_i v1 v2 e3
      have hv2 : Keeps s0 v2 := (congrArg (fun r => Keeps s0 r.2) e3).mp (State.translate_keeps _ _ _ h)
      exact hv2
    · rename_i v4 v5 v6 e7
      have hv6 : Keeps s0 v6 := (congrArg (fun r => Keeps s0 r.2) e7).mp (State.translate_keeps _ _ _ h)
      exact State.recordFault_keeps _ _ _ _ _ _ hv6
  · exact h

theorem State.jobRead_keeps {s0 : State} {s : State} (port : Fin 10) (fuel job len : Nat) (h : Keeps s0 s) :
    Keeps s0 (s.jobRead port fuel job len).2.2 := by
  induction fuel generalizing s job len with
  | zero => exact h
  | succ fuel ih =>
    unfold State.jobRead
    split
    · exact h
    · extract_lets n
      split
      · rename_i s1 e
        exact (congrArg (fun r => Keeps s0 r.2) e).mp (State.codecWalk_keeps _ _ h)
      · rename_i ph s1 e
        have h1 : Keeps s0 s1 := (congrArg (fun r => Keeps s0 r.2) e).mp (State.codecWalk_keeps _ _ h)
        split
        · exact State.dramTouch_keeps _ _ _ _ h1
        · exact ih _ _ (State.dramTouch_keeps _ _ _ _ h1)

end Sys2Proof.Machine
end

