-- ==== Sys2Proof/Laws/KeepsEntries.lean ====
section
/-! SUPPORT. What the operations of Machine/Entries.lean keep. -/

set_option Elab.async false

namespace Sys2Proof.Machine

theorem State.modFlight_keeps {s0 s : State} (id : Nat) (g : Flight → Flight) (h : Keeps s0 s) (hg : ∀ f, (g f).id = f.id := by exact fun _ => rfl) :
    Keeps s0 (s.modFlight id g) :=
  ⟨h.pending, h.now, h.draws, h.out, h.wf, fun w => (h.ids w).map _ fun f => by
    split
    · exact hg f
    · rfl⟩

theorem State.withEntry_keeps {s0 : State} {s : State} (ring : Fin 16) (is : Entry → Bool) {run : Flight → State → State}
    (hr : ∀ f t, Keeps s0 t → Keeps s0 (run f t)) (h : Keeps s0 s) : Keeps s0 (s.withEntry ring is run) := by
  unfold State.withEntry
  split
  · exact h
  · exact Keeps.ite (hr _ _ (Keeps.upd (State.modFlight_keeps _ _ h))) h

theorem State.postCompletion_keeps {s0 : State} {s : State} (f : Flight) (status : BitVec 8) (result : Nat) (h : Keeps s0 s) : Keeps s0 (State.postCompletion s f status result) := by
  unfold State.postCompletion
  refine Keeps.ite ?_ ?_
  · exact h
  · exact State.writeCompletion_keeps _ _ _ _ _ _ _ h

theorem State.dropFlight_keeps {s0 s : State} (id : Nat) (h : Keeps s0 s) : Keeps s0 (s.dropFlight id) :=
  ⟨h.pending, h.now, h.draws, h.out, h.wf, fun w => (h.ids w).filter _⟩

theorem State.complete_keeps {s0 : State} {s : State} (id : Nat) (status : BitVec 8) (result : Nat) (h : Keeps s0 s) : Keeps s0 (State.complete s id status result) := by
  unfold State.complete
  split
  · exact h
  · exact State.postCompletion_keeps _ _ _ (State.dropFlight_keeps _ h)

theorem State.completeAll_keeps {s0 : State} {s : State} (test : Flight → Bool) (status : BitVec 8) (h : Keeps s0 s) : Keeps s0 (State.completeAll s test status) := by
  unfold State.completeAll
  refine Keeps.foldl (fun _ _ h1 => ?_) ?_
  · exact State.complete_keeps _ _ _ h1
  · exact h

theorem State.withEntryAt_keeps {s0 : State} {s : State} (ring : Fin 16) (is : Entry → Bool) (blks : Entry → List Blk) {run : Flight → State → State}
    (hr : ∀ f t, Keeps s0 t → Keeps s0 (run f t)) (h : Keeps s0 s) : Keeps s0 (s.withEntryAt ring is blks run) :=
  State.withEntry_keeps _ _ (fun f t ht => Keeps.ite (hr f t ht) (State.complete_keeps _ _ _ ht)) h

theorem State.completeFault_keeps {s0 : State} {s : State} (id : Nat) (done : Nat) (h : Keeps s0 s) : Keeps s0 (State.completeFault s id done) := by
  unfold State.completeFault
  split
  · exact h
  · extract_lets -merge -underBinder +onlyGivenNames x1
    have hx1 : Keeps s0 x1 := State.modFlight_keeps _ _ h
    extract_lets -merge -underBinder +onlyGivenNames z_2 x3
    have hx3 : Keeps s0 x3 := by
      refine Keeps.upd ?_
      exact hx1
    exact State.postCompletion_keeps _ _ _ hx3

theorem State.waitFlight_keeps {s0 : State} {s : State} (id : Nat) (h : Keeps s0 s) : Keeps s0 (State.waitFlight s id) := by
  unfold State.waitFlight
  exact State.modFlight_keeps _ _ h

theorem State.invalidatesEnd_keeps {s0 : State} {s : State} (h : Keeps s0 s) : Keeps s0 (State.invalidatesEnd s) := by
  unfold State.invalidatesEnd
  refine Keeps.foldl (fun _ _ h1 => ?_) ?_
  · exact State.complete_keeps _ _ _ h1
  · exact h

theorem State.dropXfers_keeps {s0 : State} {s : State} (test : Nat → Bool) (h : Keeps s0 s) : Keeps s0 (State.dropXfers s test) := by
  unfold State.dropXfers
  refine State.invalidatesEnd_keeps ?_
  refine Keeps.upd ?_
  exact h

end Sys2Proof.Machine
end

