-- ==== Sys2Proof/Laws/KeepsHostAccess.lean ====
section
/-! SUPPORT. What the operations of Machine/HostAccess.lean keep. -/

set_option Elab.async false

namespace Sys2Proof.Machine

theorem State.completeReads_keeps {s0 : State} {s : State} (h : Keeps s0 s) : Keeps s0 (State.completeReads s) := by
  unfold State.completeReads
  refine Keeps.foldl (fun _ _ h1 => ?_) ?_
  · exact State.emit_keeps _ h1
  · refine Keeps.upd ?_
    exact h

theorem State.addAccess_keeps {s0 : State} {s : State} (a : HostAccess) (h : Keeps s0 s) : Keeps s0 (State.addAccess s a) := by
  unfold State.addAccess
  refine Keeps.upd ?_
  exact h

theorem State.readUnsupported_keeps {s0 : State} {s : State} (o : Nat) (len : Nat) (h : Keeps s0 s) : Keeps s0 (State.readUnsupported s o len) := by
  unfold State.readUnsupported
  exact State.completeReads_keeps (State.addAccess_keeps _ h)

theorem State.cutAccesses_keeps {s0 : State} {s : State} (test : Nat → Bool) (h : Keeps s0 s) : Keeps s0 (State.cutAccesses s test) := by
  unfold State.cutAccesses
  extract_lets -merge -underBinder +onlyGivenNames x1
  refine State.completeReads_keeps ?_
  refine Keeps.upd ?_
  exact h

theorem State.discardWrite_keeps {s0 : State} {s : State} (h : Keeps s0 s) : Keeps s0 (State.discardWrite s) := by
  unfold State.discardWrite
  refine Keeps.upd ?_
  exact h

theorem State.onWrite_keeps {s0 : State} {s : State} (o : Nat) (v : BitVec 32) {run : State → State}
    (hr : ∀ t, Keeps s0 t → Keeps s0 (run t)) (h : Keeps s0 s) : Keeps s0 (s.onWrite o v run) :=
  Keeps.ite (Keeps.ite (State.addAccess_keeps _ h) (hr _ h)) (State.discardWrite_keeps h)

end Sys2Proof.Machine
end

