-- ==== Sys2Proof/Laws/KeepsQuires.lean ====
section
/-! SUPPORT. What the operations of Machine/Quires.lean keep. -/

set_option Elab.async false

namespace Sys2Proof.Machine

theorem State.advanceReady_keeps {s0 : State} {s : State} (p : Fin 8) (h : Keeps s0 s) : Keeps s0 (State.advanceReady s p) := by
  unfold State.advanceReady
  extract_lets -merge -underBinder +onlyGivenNames x1
  extract_lets -merge -underBinder +onlyGivenNames x2
  refine Keeps.upd ?_
  exact h

end Sys2Proof.Machine
end

