-- ==== Sys2Proof/Laws/KeepsPosition.lean ====
section
/-! SUPPORT. What the operations of Machine/Position.lean keep. -/

set_option Elab.async false

namespace Sys2Proof.Machine

theorem State.nextSeq_keeps {s0 : State} {s : State} (h : Keeps s0 s) : Keeps s0 (State.nextSeq s).2 := by
  unfold State.nextSeq
  refine Keeps.upd ?_
  exact h

theorem State.hopSend_keeps {s0 : State} {s : State} (port : Fin 2) (m : RingMsg) (h : Keeps s0 s) : Keeps s0 (State.hopSend s port m) := by
  unfold State.hopSend
  refine Keeps.ite ?_ ?_
  · exact State.emit_keeps _ (State.nextSeq_keeps h)
  · exact h

theorem State.ringSend_keeps {s0 : State} {s : State} (m : RingMsg) (h : Keeps s0 s) : Keeps s0 (State.ringSend s m) := by
  unfold State.ringSend
  refine Keeps.ite ?_ ?_
  · exact State.emit_keeps _ (State.nextSeq_keeps h)
  · exact h

theorem State.twinSend_keeps {s0 : State} {s : State} (m : RingMsg) (h : Keeps s0 s) : Keeps s0 (State.twinSend s m) := by
  unfold State.twinSend
  split
  · exact State.hopSend_keeps _ _ h
  · exact State.ringSend_keeps _ h

theorem State.modPlane_keeps {s0 : State} {s : State} (p : Fin 8) (f : Plane → Plane) (h : Keeps s0 s) : Keeps s0 (State.modPlane s p f) := by
  unfold State.modPlane
  refine Keeps.upd ?_
  exact h

theorem State.followPosition_keeps {s0 : State} {s : State} (h : Keeps s0 s) : Keeps s0 (State.followPosition s) := by
  unfold State.followPosition
  split
  · exact h
  · refine Keeps.foldl (fun _ _ h1 => ?_) ?_
    · split
      · exact h1
      · extract_lets -merge -underBinder +onlyGivenNames x2
        extract_lets -merge -underBinder +onlyGivenNames x3
        have hx3 : Keeps s0 x3 := State.modPlane_keeps _ _ h1
        exact State.modPlane_keeps _ _ hx3
    · exact h

theorem State.disciplineFir_keeps {s0 : State} {s : State} (h : Keeps s0 s) : Keeps s0 (State.disciplineFir s) := by
  unfold State.disciplineFir
  extract_lets -merge -underBinder +onlyGivenNames x1
  refine Keeps.upd ?_
  exact h

theorem State.realignFir_keeps {s0 : State} {s : State} (h : Keeps s0 s) : Keeps s0 (State.realignFir s) := by
  unfold State.realignFir
  refine Keeps.upd ?_
  exact h

theorem State.advance_keeps {s0 s : State} (t : Nat) (h : Keeps s0 s) : Keeps s0 (s.advance t) := by
  unfold State.advance
  split <;> rename_i ht
  · exact h
  · exact ⟨h.pending, Nat.le_trans h.now (Nat.le_of_not_le ht), h.draws, h.out, h.wf, h.ids⟩

theorem State.anchor_keeps {s0 : State} {s : State} (p : Fin 8) (h : Keeps s0 s) : Keeps s0 (State.anchor s p) := by
  unfold State.anchor
  exact State.modPlane_keeps _ _ h

end Sys2Proof.Machine
end

