-- ==== Sys2Proof/Laws/KeepsMarks.lean ====
section
/-! SUPPORT. What the operations of Machine/Marks.lean keep. -/

set_option Elab.async false

namespace Sys2Proof.Machine

theorem State.placeWindow_keeps {s0 : State} {s : State} (m : Fin 64) (h : Keeps s0 s) : Keeps s0 (State.placeWindow s m) := by
  unfold State.placeWindow
  extract_lets -merge -underBinder +onlyGivenNames x1
  extract_lets -merge -underBinder +onlyGivenNames x2
  split
  · exact h
  · split
    · exact h
    · extract_lets -merge -underBinder +onlyGivenNames x3
      extract_lets -merge -underBinder +onlyGivenNames x4
      extract_lets -merge -underBinder +onlyGivenNames x5
      extract_lets -merge -underBinder +onlyGivenNames x6
      extract_lets -merge -underBinder +onlyGivenNames x7
      exact State.setReg_keeps _ _ (State.setReg_keeps _ _ (State.setReg_keeps _ _ (State.setReg_keeps _ _ h)))

theorem State.placeWindows_keeps {s0 : State} {s : State} (planes : List (Fin 8)) (h : Keeps s0 s) : Keeps s0 (State.placeWindows s planes) := by
  unfold State.placeWindows
  refine Keeps.ite ?_ ?_
  · exact h
  · refine Keeps.foldl (fun _ _ h1 => ?_) ?_
    · exact State.placeWindow_keeps _ h1
    · exact h

end Sys2Proof.Machine
end

