-- ==== Sys2Proof/Laws/KeepsChambers.lean ====
section
/-! SUPPORT. What the operations of Machine/Chambers.lean keep. -/

set_option Elab.async false

namespace Sys2Proof.Machine

theorem State.modChamber_keeps {s0 : State} {s : State} (k : Fin 4) (f : Chamber → Chamber) (h : Keeps s0 s) : Keeps s0 (State.modChamber s k f) := by
  unfold State.modChamber
  refine Keeps.upd ?_
  exact h

theorem State.openChamber_keeps {s0 : State} {s : State} (k : Fin 4) (h : Keeps s0 s) : Keeps s0 (State.openChamber s k) := by
  unfold State.openChamber
  exact State.modChamber_keeps _ _ h

theorem State.loopEvent_keeps {s0 : State} {s : State} (loop : Nat) (plane : Nat) (event : Nat) (value : Nat) (h : Keeps s0 s) : Keeps s0 (State.loopEvent s loop plane event value) := by
  unfold State.loopEvent
  exact State.log_keeps _ _ _ _ h

theorem State.stageUnits_keeps {s0 : State} {s : State} (port : Fin 10) (k : Fin 4) (t : Nat) (off : Nat) (bs : List Sys2Proof.Byte) (h : Keeps s0 s) : Keeps s0 (State.stageUnits s port k t off bs) := by
  unfold State.stageUnits
  refine Keeps.foldl (fun _ _ h1 => ?_) ?_
  · extract_lets -merge -underBinder +onlyGivenNames x2
    extract_lets -merge -underBinder +onlyGivenNames x3
    extract_lets -merge -underBinder +onlyGivenNames x4
    extract_lets -merge -underBinder +onlyGivenNames x5
    exact State.modChamber_keeps _ _ (State.dramPutUnit_keeps _ _ _ _ h1)
  · exact h

theorem State.stageClear_keeps {s0 : State} {s : State} (k : Fin 4) (x : Nat × Nat) (h : Keeps s0 s) : Keeps s0 (State.stageClear s k x) := by
  unfold State.stageClear
  extract_lets -merge -underBinder +onlyGivenNames x1
  extract_lets -merge -underBinder +onlyGivenNames x2
  extract_lets -merge -underBinder +onlyGivenNames x3
  have hx3 : Keeps s0 x3 := State.loopEvent_keeps _ _ _ _ (State.stageUnits_keeps _ _ _ _ _ h)
  refine Keeps.ite ?_ ?_
  · exact State.loopEvent_keeps _ _ _ _ hx3
  · exact hx3

theorem State.modLoop_keeps {s0 : State} {s : State} (p : Fin 8) (f : LoopPlane → LoopPlane) (h : Keeps s0 s) : Keeps s0 (State.modLoop s p f) := by
  unfold State.modLoop
  refine Keeps.upd ?_
  exact h

theorem State.stageLoop_keeps {s0 : State} {s : State} (a : LoopApply) (h : Keeps s0 s) : Keeps s0 (State.stageLoop s a) := by
  unfold State.stageLoop
  extract_lets -merge -underBinder +onlyGivenNames x1
  split
  · extract_lets -merge -underBinder +onlyGivenNames x2
    have hx2 : Keeps s0 x2 := State.modChamber_keeps _ _ (State.openChamber_keeps _ h)
    extract_lets -merge -underBinder +onlyGivenNames x3
    have hx3 : Keeps s0 x3 := by
      refine Keeps.foldl (fun _ _ h4 => ?_) ?_
      · exact State.stageClear_keeps _ _ h4
      · exact hx2
    extract_lets -merge -underBinder +onlyGivenNames x5
    extract_lets -merge -underBinder +onlyGivenNames x6
    have hx6 : Keeps s0 x6 := by
      refine Keeps.ite ?_ ?_
      · exact State.twinSend_keeps _ hx3
      · exact hx3
    extract_lets -merge -underBinder +onlyGivenNames x7
    have hx7 : Keeps s0 x7 := by
      refine Keeps.ite ?_ ?_
      · refine Keeps.foldl (fun _ _ h8 => ?_) ?_
        · exact State.modLoop_keeps _ _ h8
        · exact hx6
      · exact hx6
    exact State.modChamber_keeps _ _ hx7

theorem State.admitLoops_keeps {s0 : State} {s : State} (h : Keeps s0 s) : Keeps s0 (State.admitLoops s) := by
  unfold State.admitLoops
  split
  · exact h
  · refine Keeps.ite ?_ ?_
    · refine State.stageLoop_keeps _ ?_
      refine Keeps.upd ?_
      exact h
    · exact h

theorem State.modLink_keeps {s0 : State} {s : State} (n : Fin 32) (f : Link → Link) (h : Keeps s0 s) : Keeps s0 (State.modLink s n f) := by
  unfold State.modLink
  refine Keeps.upd ?_
  exact h

theorem State.dropUploads_keeps {s0 : State} {s : State} (k : Fin 4) (h : Keeps s0 s) : Keeps s0 (State.dropUploads s k) := by
  unfold State.dropUploads
  refine Keeps.foldl (fun _ _ h1 => ?_) ?_
  · exact State.modLink_keeps _ _ h1
  · exact h

theorem State.dropChanges_keeps {s0 : State} {s : State} (p : Fin 8) (mine : Nat → Bool) (h : Keeps s0 s) : Keeps s0 (State.dropChanges s p mine) := by
  unfold State.dropChanges
  extract_lets -merge -underBinder +onlyGivenNames x1
  refine Keeps.upd ?_
  exact h

theorem State.selfFreeze_keeps {s0 : State} {s : State} (loop : Nat) (p : Fin 8) (value : Nat) (h : Keeps s0 s) : Keeps s0 (State.selfFreeze s loop p value) := by
  unfold State.selfFreeze
  exact State.loopEvent_keeps _ _ _ _ (State.modLoop_keeps _ _ (State.dropChanges_keeps _ _ h))

theorem State.loopRejected_keeps {s0 : State} {s : State} (loop : Nat) (planes : BitVec 8) (code : Nat) (h : Keeps s0 s) : Keeps s0 (State.loopRejected s loop planes code) := by
  unfold State.loopRejected
  refine Keeps.foldl (fun _ _ h1 => ?_) ?_
  · exact State.selfFreeze_keeps _ _ _ (State.loopEvent_keeps _ _ _ _ h1)
  · exact h

theorem State.lockAnswer_keeps {s0 : State} {s : State} (k : Fin 4) (armed : Bool) (a : LockAsk) (code : Nat) (h : Keeps s0 s) : Keeps s0 (State.lockAnswer s k armed a code) := by
  unfold State.lockAnswer
  split
  · refine Keeps.ite ?_ ?_
    · exact State.complete_keeps _ _ _ h
    · exact State.complete_keeps _ _ _ h
  · refine Keeps.ite ?_ ?_
    · exact State.ringSend_keeps _ h
    · exact State.ringSend_keeps _ h
  · refine Keeps.ite ?_ ?_
    · exact State.loopRejected_keeps _ _ _ h
    · refine Keeps.ite ?_ ?_
      · exact State.placeWindows_keeps _ h
      · exact h

theorem State.rejectCore_keeps {s0 : State} {s : State} (k : Fin 4) (code : Nat) (h : Keeps s0 s) : Keeps s0 (State.rejectCore s k code) := by
  unfold State.rejectCore
  extract_lets -merge -underBinder +onlyGivenNames x1
  extract_lets -merge -underBinder +onlyGivenNames x2
  have hx2 : Keeps s0 x2 := State.dropUploads_keeps _ (State.modChamber_keeps _ _ h)
  extract_lets -merge -underBinder +onlyGivenNames x3
  have hx3 : Keeps s0 x3 := by
    unfold x3
    split
    · refine Keeps.ite ?_ ?_
      · exact hx2
      · exact State.ringSend_keeps _ hx2
    · exact hx2
  split
  · exact State.lockAnswer_keeps _ _ _ _ hx3
  · exact hx3

theorem State.rejectChamber_keeps {s0 : State} {s : State} (k : Fin 4) (code : Nat) (h : Keeps s0 s) : Keeps s0 (State.rejectChamber s k code) := by
  unfold State.rejectChamber
  exact State.admitLoops_keeps (State.rejectCore_keeps _ _ h)

theorem State.settleBank_keeps {s0 : State} {s : State} (n : Fin 32) (h : Keeps s0 s) : Keeps s0 (State.settleBank s n) := by
  unfold State.settleBank
  split
  · exact h
  · split
    · refine Keeps.ite ?_ ?_
      · exact State.modLink_keeps _ _ h
      · exact h
    · exact h

theorem State.setBankLines_keeps {s0 : State} {s : State} (k : Fin 4) (line : Fin 32 → Nat) (h : Keeps s0 s) : Keeps s0 (State.setBankLines s k line) := by
  unfold State.setBankLines
  refine Keeps.foldl (fun _ _ h1 => ?_) ?_
  · exact State.settleBank_keeps _ (State.modLink_keeps _ _ h1)
  · exact h

theorem State.targetsLive_keeps {s0 : State} {s : State} (ts : List (Nat × BitVec 8)) (h : Keeps s0 s) : Keeps s0 (State.targetsLive s ts) := by
  unfold State.targetsLive
  refine Keeps.foldl (fun _ _ h1 => ?_) ?_
  · exact State.writeTable_keeps _ _ _ h1
  · exact h

theorem State.entryLive_keeps {s0 : State} {s : State} (e : Nat × BitVec 32) (h : Keeps s0 s) : Keeps s0 (State.entryLive s e) := by
  unfold State.entryLive
  split
  · refine Keeps.ite ?_ ?_
    · exact State.setReg_keeps _ _ (State.anchor_keeps _ h)
    · exact State.setReg_keeps _ _ h
  · exact State.followPosition_keeps (State.setReg_keeps _ _ h)
  · exact State.setReg_keeps _ _ h

theorem State.followGains_keeps {s0 : State} {s : State} (units : List (Nat × BitVec 512)) (h : Keeps s0 s) : Keeps s0 (State.followGains s units) := by
  unfold State.followGains
  refine Keeps.foldl (fun _ _ h1 => ?_) ?_
  · refine Keeps.ite ?_ ?_
    · exact State.writeTable_keeps _ _ _ h1
    · exact h1
  · exact h

theorem State.countEmpty_keeps {s0 : State} {s : State} (h : Keeps s0 s) : Keeps s0 (State.countEmpty s) := by
  unfold State.countEmpty
  refine Keeps.upd ?_
  exact h

theorem State.unitsLive_keeps {s0 : State} {s : State} (units : List (Nat × BitVec 512)) (h : Keeps s0 s) : Keeps s0 (State.unitsLive s units) := by
  unfold State.unitsLive
  extract_lets -merge -underBinder +onlyGivenNames x1
  have hx1 : Keeps s0 x1 := by
    refine Keeps.foldl (fun _ _ h2 => ?_) ?_
    · exact State.writeTable_keeps _ _ _ h2
    · exact h
  extract_lets -merge -underBinder +onlyGivenNames x3
  have hx3 : Keeps s0 x3 := State.followGains_keeps _ hx1
  refine Keeps.ite ?_ ?_
  · exact State.countEmpty_keeps hx3
  · exact hx3

theorem State.queueUpload_keeps {s0 : State} {s : State} (n : Fin 32) (who : BankFor) (h : Keeps s0 s) : Keeps s0 (State.queueUpload s n who) := by
  unfold State.queueUpload
  exact State.modLink_keeps _ _ h

theorem State.dataLive_keeps {s0 : State} {s : State} (k : Fin 4) (h : Keeps s0 s) : Keeps s0 (State.dataLive s k) := by
  unfold State.dataLive
  extract_lets -merge -underBinder +onlyGivenNames x1
  extract_lets -merge -underBinder +onlyGivenNames x2
  have hx2 : Keeps s0 x2 := by
    refine State.targetsLive_keeps _ ?_
    refine Keeps.foldl (fun _ _ h3 => ?_) ?_
    · exact State.entryLive_keeps _ h3
    · exact State.unitsLive_keeps _ h
  refine Keeps.foldl (fun _ _ h4 => ?_) ?_
  · exact State.queueUpload_keeps _ _ h4
  · exact hx2

theorem State.ringDone_keeps {s0 : State} {s : State} (k : Fin 4) (h : Keeps s0 s) : Keeps s0 (State.ringDone s k) := by
  unfold State.ringDone
  extract_lets -merge -underBinder +onlyGivenNames x1
  refine Keeps.foldl (fun _ _ h2 => ?_) ?_
  · exact State.lockAnswer_keeps _ _ _ _ h2
  · exact State.modChamber_keeps _ _ h

theorem State.finishChamber_keeps {s0 : State} {s : State} (k : Fin 4) (h : Keeps s0 s) : Keeps s0 (State.finishChamber s k) := by
  unfold State.finishChamber
  extract_lets -merge -underBinder +onlyGivenNames x1
  split
  · extract_lets -merge -underBinder +onlyGivenNames x2
    refine Keeps.ite ?_ ?_
    · extract_lets -merge -underBinder +onlyGivenNames x3
      have hx3 : Keeps s0 x3 := by
        refine State.modChamber_keeps _ _ ?_
        refine Keeps.ite ?_ ?_
        · exact State.dataLive_keeps _ h
        · exact h
      refine State.admitLoops_keeps ?_
      split
      · exact State.ringDone_keeps _ (State.modChamber_keeps _ _ hx3)
      · exact State.lockAnswer_keeps _ _ _ _ hx3
    · exact h
  · exact h

theorem State.copyEnded_keeps {s0 : State} {s : State} (k : Fin 4) (h : Keeps s0 s) : Keeps s0 (State.copyEnded s k) := by
  unfold State.copyEnded
  extract_lets -merge -underBinder +onlyGivenNames x1
  split
  · exact h
  · extract_lets -merge -underBinder +onlyGivenNames x2
    have hx2 : Keeps s0 x2 := by
      refine Keeps.ite ?_ ?_
      · exact h
      · exact State.setBankLines_keeps _ _ (State.dataLive_keeps _ h)
    exact State.finishChamber_keeps _ (State.modChamber_keeps _ _ hx2)

theorem State.orderCopy_keeps {s0 : State} {s : State} (k : Fin 4) (h : Keeps s0 s) : Keeps s0 (State.orderCopy s k) := by
  unfold State.orderCopy
  extract_lets -merge -underBinder +onlyGivenNames x1
  split
  · extract_lets -merge -underBinder +onlyGivenNames x2
    refine Keeps.ite ?_ ?_
    · refine Keeps.ite ?_ ?_
      · exact State.rejectChamber_keeps _ _ h
      · extract_lets -merge -underBinder +onlyGivenNames x3
        have hx3 : Keeps s0 x3 := State.modChamber_keeps _ _ h
        extract_lets -merge -underBinder +onlyGivenNames x4
        have hx4 : Keeps s0 x4 := by
          refine Keeps.ite ?_ ?_
          · exact State.setBankLines_keeps _ _ hx3
          · exact hx3
        refine Keeps.ite ?_ ?_
        · exact State.copyEnded_keeps _ hx4
        · exact hx4
    · exact State.finishChamber_keeps _ h
  · exact h

theorem State.bankSettled_keeps {s0 : State} {s : State} (k : Fin 4) (n : Fin 32) (h : Keeps s0 s) : Keeps s0 (State.bankSettled s k n) := by
  unfold State.bankSettled
  exact State.orderCopy_keeps _ (State.modChamber_keeps _ _ h)

theorem State.queueBanks_keeps {s0 : State} {s : State} (k : Fin 4) (h : Keeps s0 s) : Keeps s0 (State.queueBanks s k) := by
  unfold State.queueBanks
  extract_lets -merge -underBinder +onlyGivenNames x1
  extract_lets -merge -underBinder +onlyGivenNames x2
  refine State.modChamber_keeps _ _ ?_
  refine Keeps.foldl (fun _ _ h3 => ?_) ?_
  · exact State.queueUpload_keeps _ _ h3
  · exact h

theorem State.ctrlLive_keeps {s0 : State} {s : State} (k : Fin 4) (h : Keeps s0 s) : Keeps s0 (State.ctrlLive s k) := by
  unfold State.ctrlLive
  extract_lets -merge -underBinder +onlyGivenNames x1
  refine State.modChamber_keeps _ _ ?_
  refine Keeps.foldl (fun _ _ h2 => ?_) ?_
  · exact State.entryLive_keeps _ h2
  · exact h

theorem State.instantCome_keeps {s0 : State} {s : State} (k : Fin 4) (h : Keeps s0 s) : Keeps s0 (State.instantCome s k) := by
  unfold State.instantCome
  extract_lets -merge -underBinder +onlyGivenNames x1
  split
  · refine Keeps.ite ?_ ?_
    · exact State.orderCopy_keeps _ (State.ctrlLive_keeps _ h)
    · exact h
  · exact h

theorem State.chambersFollow_keeps {s0 : State} {s : State} (h : Keeps s0 s) : Keeps s0 (State.chambersFollow s) := by
  unfold State.chambersFollow
  refine Keeps.foldl (fun _ _ h1 => ?_) ?_
  · extract_lets -merge -underBinder +onlyGivenNames x2
    split
    · refine Keeps.ite ?_ ?_
      · extract_lets -merge -underBinder +onlyGivenNames x3
        have hx3 : Keeps s0 x3 := by
          refine Keeps.ite ?_ ?_
          · exact State.ctrlLive_keeps _ h1
          · exact h1
        exact State.finishChamber_keeps _ hx3
      · exact h1
    · exact h1
  · exact h

theorem State.beginApply_keeps {s0 : State} {s : State} (k : Fin 4) (h : Keeps s0 s) : Keeps s0 (State.beginApply s k) := by
  unfold State.beginApply
  extract_lets -merge -underBinder +onlyGivenNames x1
  split
  · exact h
  · refine Keeps.ite ?_ ?_
    · refine State.orderCopy_keeps _ ?_
      refine Keeps.ite ?_ ?_
      · exact State.ctrlLive_keeps _ h
      · exact h
    · refine Keeps.ite ?_ ?_
      · exact State.orderCopy_keeps _ (State.ctrlLive_keeps _ h)
      · exact h

theorem State.ringCommit_keeps {s0 : State} {s : State} (k : Fin 4) (h : Keeps s0 s) : Keeps s0 (State.ringCommit s k) := by
  unfold State.ringCommit
  extract_lets -merge -underBinder +onlyGivenNames x1
  split
  · extract_lets -merge -underBinder +onlyGivenNames x2
    extract_lets -merge -underBinder +onlyGivenNames x3
    refine Keeps.ite ?_ ?_
    · exact State.beginApply_keeps _ (State.ringSend_keeps _ (State.modChamber_keeps _ _ h))
    · exact State.rejectChamber_keeps _ _ h
  · exact h

theorem State.armChamber_keeps {s0 : State} {s : State} (k : Fin 4) (a : LockAsk) (h : Keeps s0 s) : Keeps s0 (State.armChamber s k a) := by
  unfold State.armChamber
  extract_lets -merge -underBinder +onlyGivenNames x1
  extract_lets -merge -underBinder +onlyGivenNames x2
  extract_lets -merge -underBinder +onlyGivenNames x3
  extract_lets -merge -underBinder +onlyGivenNames x4
  have hx4 : Keeps s0 x4 := State.queueBanks_keeps _ (State.modChamber_keeps _ _ h)
  split
  · exact State.ringSend_keeps _ hx4
  · refine Keeps.ite ?_ ?_
    · extract_lets -merge -underBinder +onlyGivenNames x5
      extract_lets -merge -underBinder +onlyGivenNames x6
      have hx6 : Keeps s0 x6 := State.ringSend_keeps _ (State.modChamber_keeps _ _ hx4)
      refine Keeps.ite ?_ ?_
      · exact State.ringCommit_keeps _ hx6
      · exact hx6
    · exact State.beginApply_keeps _ hx4

theorem State.readStored_keeps {s0 : State} {s : State} (port : Fin 10) (chamber : Bool) (k : Fin 4) (unit : Nat) (h : Keeps s0 s) : Keeps s0 (State.readStored s port chamber k unit) := by
  unfold State.readStored
  refine Keeps.ite ?_ ?_
  · exact State.dramReadUnit_keeps _ _ _ _ h
  · exact h

theorem State.readStore_keeps {s0 : State} {s : State} (k : Fin 4) (apply_ : Bool) (h : Keeps s0 s) : Keeps s0 (State.readStore s k apply_) := by
  unfold State.readStore
  refine Keeps.foldl (fun _ _ h1 => ?_) ?_
  · exact State.readStored_keeps _ _ _ _ h1
  · exact h

theorem State.endCheck_keeps {s0 : State} {s : State} (k : Fin 4) (h : Keeps s0 s) : Keeps s0 (State.endCheck s k) := by
  unfold State.endCheck
  extract_lets -merge -underBinder +onlyGivenNames x1
  split
  · extract_lets -merge -underBinder +onlyGivenNames x2
    refine Keeps.ite ?_ ?_
    · exact State.rejectChamber_keeps _ _ h
    · refine Keeps.ite ?_ ?_
      · exact State.armChamber_keeps _ _ h
      · exact State.lockAnswer_keeps _ _ _ _ (State.modChamber_keeps _ _ h)
  · exact h

end Sys2Proof.Machine
end

