-- ==== Sys2Proof/Laws/KeepsPress.lean ====
section
/-! SUPPORT. What the operations of Machine/Press.lean keep. -/

set_option Elab.async false

namespace Sys2Proof.Machine

theorem State.settlePeers_keeps {s0 : State} {s : State} (h : Keeps s0 s) : Keeps s0 (State.settlePeers s) := by
  unfold State.settlePeers
  refine Keeps.foldl (fun _ _ h1 => ?_) ?_
  · split
    · exact h1
    · refine Keeps.ite ?_ ?_
      · exact State.modPlane_keeps _ _ h1
      · exact h1
  · exact h

theorem State.clearCause_keeps {s0 : State} {s : State} (ps : List (Fin 8)) (bit : Nat) (h : Keeps s0 s) : Keeps s0 (State.clearCause s ps bit) := by
  unfold State.clearCause
  refine State.settlePeers_keeps ?_
  refine Keeps.foldl (fun _ _ h1 => ?_) ?_
  · extract_lets -merge -underBinder +onlyGivenNames x2
    have hx2 : Keeps s0 x2 := State.modPlane_keeps _ _ h1
    split
    · refine Keeps.upd ?_
      exact hx2
    · exact hx2
  · exact h

theorem State.overRecord_keeps {s0 : State} {s : State} (p : Fin 8) (h : Keeps s0 s) : Keeps s0 (State.overRecord s p) := by
  unfold State.overRecord
  split
  · exact h
  · exact State.log_keeps _ _ _ _ (State.modPlane_keeps _ _ h)

theorem State.overEnds_keeps {s0 : State} {s : State} (h : Keeps s0 s) : Keeps s0 (State.overEnds s) := by
  unfold State.overEnds
  refine State.clearCause_keeps _ _ ?_
  refine Keeps.foldl (fun _ _ h1 => ?_) ?_
  · exact State.overRecord_keeps _ h1
  · exact h

theorem State.openBanks_keeps {s0 : State} {s : State} (p : Fin 8) (h : Keeps s0 s) : Keeps s0 (State.openBanks s p) := by
  unfold State.openBanks
  refine Keeps.foldl (fun _ _ h1 => ?_) ?_
  · exact State.settleBank_keeps _ (State.modLink_keeps _ _ h1)
  · exact h

theorem State.publish_keeps {s0 : State} {s : State} (p : Fin 8) (h : Keeps s0 s) : Keeps s0 (State.publish s p) := by
  unfold State.publish
  exact State.modPlane_keeps _ _ h

theorem State.modTwin_keeps {s0 : State} {s : State} (p : Fin 8) (f : TwinPlane → TwinPlane) (h : Keeps s0 s) : Keeps s0 (State.modTwin s p f) := by
  unfold State.modTwin
  refine Keeps.upd ?_
  exact h

theorem State.adoptStamp_keeps {s0 : State} {s : State} (p : Fin 8) (l : FireLine) (h : Keeps s0 s) : Keeps s0 (State.adoptStamp s p l).2 := by
  unfold State.adoptStamp
  split
  · exact h
  · split
    · exact State.modTwin_keeps _ _ h
    · refine Keeps.upd ?_
      exact h

theorem State.joinLinks_keeps {s0 : State} {s : State} (l : FireLine) (h : Keeps s0 s) : Keeps s0 (State.joinLinks s l) := by
  unfold State.joinLinks
  refine Keeps.foldl (fun _ _ h1 => ?_) ?_
  · refine Keeps.ite ?_ ?_
    · refine Keeps.upd ?_
      exact h1
    · exact h1
  · exact h

theorem State.closeDone_keeps {s0 : State} {s : State} (ids : List Nat) (h : Keeps s0 s) : Keeps s0 (State.closeDone s ids) := by
  unfold State.closeDone
  refine Keeps.foldl (fun _ _ h1 => ?_) ?_
  · refine Keeps.ite ?_ ?_
    · exact h1
    · split
      · exact h1
      · exact State.complete_keeps _ _ _ h1
  · exact h

theorem State.endRestore_keeps {s0 : State} {s : State} (p : Fin 8) (h : Keeps s0 s) : Keeps s0 (State.endRestore s p) := by
  unfold State.endRestore
  extract_lets -merge -underBinder +onlyGivenNames x1
  refine Keeps.upd ?_
  exact h

theorem State.closeCheck_keeps {s0 : State} {s : State} (p : Fin 8) (h : Keeps s0 s) : Keeps s0 (State.closeCheck s p) := by
  unfold State.closeCheck
  extract_lets -merge -underBinder +onlyGivenNames x1
  split
  · refine Keeps.ite ?_ ?_
    · exact State.chambersFollow_keeps (State.closeDone_keeps _ (State.endRestore_keeps _ (State.modPlane_keeps _ _ h)))
    · exact h
  · exact h

theorem State.bandsPass_keeps {s0 : State} {s : State} (h : Keeps s0 s) : Keeps s0 (State.bandsPass s) := by
  unfold State.bandsPass
  refine Keeps.upd ?_
  exact h

theorem State.glideStep_keeps {s0 : State} {s : State} (p : Fin 8) (h : Keeps s0 s) : Keeps s0 (State.glideStep s p) := by
  unfold State.glideStep
  extract_lets -merge -underBinder +onlyGivenNames x1
  extract_lets -merge -underBinder +onlyGivenNames x2
  refine Keeps.ite ?_ ?_
  · exact h
  · refine Keeps.foldl (fun _ _ h3 => ?_) ?_
    · refine Keeps.ite ?_ ?_
      · exact State.writeTable_keeps _ _ _ h3
      · exact h3
    · exact h

theorem State.lineFollow_keeps {s0 : State} {s : State} (p : Fin 8) (h : Keeps s0 s) : Keeps s0 (State.lineFollow s p) := by
  unfold State.lineFollow
  exact State.chambersFollow_keeps (State.bandsPass_keeps (State.glideStep_keeps _ (State.advanceReady_keeps _ (State.publish_keeps _ h))))

theorem State.openSig_keeps {s0 : State} {s : State} (p : Fin 8) (l : FireLine) (h : Keeps s0 s) : Keeps s0 (State.openSig s p l) := by
  unfold State.openSig
  refine Keeps.ite ?_ ?_
  · refine Keeps.upd ?_
    exact h
  · exact h

theorem State.launchLine_keeps {s0 : State} {s : State} (p : Fin 8) (l : FireLine) (h : Keeps s0 s) : Keeps s0 (State.launchLine s p l) := by
  unfold State.launchLine
  extract_lets -merge -underBinder +onlyGivenNames x1
  have hx1 : Keeps s0 x1 := State.joinLinks_keeps _ h
  extract_lets -merge -underBinder +onlyGivenNames x2
  extract_lets -merge -underBinder +onlyGivenNames x3
  have hx3 : Keeps s0 x3 := State.modPlane_keeps _ _ hx1
  exact State.closeCheck_keeps _ (State.lineFollow_keeps _ (State.openSig_keeps _ _ hx3))

theorem State.launchPassed_keeps {s0 : State} (k : Nat) {s : State} (p : Fin 8) (h : Keeps s0 s) : Keeps s0 (State.launchPassed k s p) := by
  induction k generalizing s with
  | zero => exact h
  | succ k ih =>
    unfold State.launchPassed
    split
    · exact h
    · rename_i l0 _
      split
      rename_i l s1 e
      have h1 : Keeps s0 s1 := (congrArg (fun r => Keeps s0 r.2) e).mp (State.adoptStamp_keeps _ _ h)
      exact Keeps.ite h (ih (State.launchLine_keeps _ _ h1))

theorem State.launchAllPassed_keeps {s0 : State} {s : State} (h : Keeps s0 s) : Keeps s0 (State.launchAllPassed s) := by
  unfold State.launchAllPassed
  refine Keeps.foldl (fun _ _ h1 => ?_) ?_
  · exact State.launchPassed_keeps _ _ h1
  · exact h

theorem State.takeCause_keeps {s0 : State} {s : State} (p : Fin 8) (bit : Nat) (h : Keeps s0 s) : Keeps s0 (State.takeCause s p bit) := by
  unfold State.takeCause
  extract_lets -merge -underBinder +onlyGivenNames x1
  extract_lets -merge -underBinder +onlyGivenNames x2
  split
  · exact h
  · exact State.modPlane_keeps _ _ h
  · exact State.modPlane_keeps _ _ h
  · exact State.modPlane_keeps _ _ h

theorem State.stopRecord_keeps {s0 : State} {s : State} (p : Fin 8) (bit : Nat) (h : Keeps s0 s) : Keeps s0 (State.stopRecord s p bit) := by
  unfold State.stopRecord
  extract_lets -merge -underBinder +onlyGivenNames x1
  split
  · exact State.log_keeps _ _ _ _ h
  · exact State.modPlane_keeps _ _ h
  · exact State.log_keeps _ _ _ _ h
  · exact h

theorem State.lateWith_keeps {s0 : State} {s : State} (old : State) (ps : List (Fin 8)) (h : Keeps s0 s) : Keeps s0 (State.lateWith s old ps) := by
  unfold State.lateWith
  refine Keeps.foldl (fun _ _ h1 => ?_) ?_
  · split
    · exact h1
    · exact State.countEvent_keeps _ _ _ (State.stopRecord_keeps _ _ (State.takeCause_keeps _ _ h1))
  · exact h

theorem State.stopPlanes_keeps {s0 : State} {s : State} (ps : List (Fin 8)) (bit : Nat) (h : Keeps s0 s) : Keeps s0 (State.stopPlanes s ps bit) := by
  unfold State.stopPlanes
  extract_lets -merge -underBinder +onlyGivenNames x1
  have hx1 : Keeps s0 x1 := State.launchAllPassed_keeps h
  extract_lets -merge -underBinder +onlyGivenNames x2
  extract_lets -merge -underBinder +onlyGivenNames x3
  extract_lets -merge -underBinder +onlyGivenNames x4
  have hx4 : Keeps s0 x4 := by
    refine Keeps.foldl (fun _ _ h5 => ?_) ?_
    · exact State.takeCause_keeps _ _ h5
    · exact hx1
  extract_lets -merge -underBinder +onlyGivenNames x6
  extract_lets -merge -underBinder +onlyGivenNames x7
  have hx7 : Keeps s0 x7 := by
    refine Keeps.foldl (fun _ _ h8 => ?_) ?_
    · exact State.modPlane_keeps _ _ (State.takeCause_keeps _ _ h8)
    · exact hx4
  extract_lets -merge -underBinder +onlyGivenNames x9
  have hx9 : Keeps s0 x9 := by
    refine State.lateWith_keeps _ _ ?_
    refine Keeps.foldl (fun _ _ h10 => ?_) ?_
    · exact State.stopRecord_keeps _ _ h10
    · exact hx7
  refine Keeps.ite ?_ ?_
  · exact hx9
  · exact State.ringSend_keeps _ hx9

theorem State.loopsOff_keeps {s0 : State} {s : State} (p : Fin 8) (h : Keeps s0 s) : Keeps s0 (State.loopsOff s p) := by
  unfold State.loopsOff
  exact State.modLoop_keeps _ _ (State.dropChanges_keeps _ _ h)

theorem State.closePlane_keeps {s0 : State} {s : State} (p : Fin 8) (last : Nat) (id : Nat) (h : Keeps s0 s) : Keeps s0 (State.closePlane s p last id) := by
  unfold State.closePlane
  extract_lets -merge -underBinder +onlyGivenNames x1
  have hx1 : Keeps s0 x1 := State.overRecord_keeps _ h
  extract_lets -merge -underBinder +onlyGivenNames x2
  extract_lets -merge -underBinder +onlyGivenNames z_3 x4
  have hx4 : Keeps s0 x4 := by
    refine Keeps.upd ?_
    exact hx1
  split
  · exact hx4
  · extract_lets -merge -underBinder +onlyGivenNames x5
    extract_lets -merge -underBinder +onlyGivenNames x6
    have hx6 : Keeps s0 x6 := State.modPlane_keeps _ _ (State.loopsOff_keeps _ hx4)
    exact State.closeCheck_keeps _ hx6

theorem State.enterRun_keeps {s0 : State} {s : State} (p : Fin 8) (h : Keeps s0 s) : Keeps s0 (State.enterRun s p) := by
  unfold State.enterRun
  exact State.closeCheck_keeps _ (State.endRestore_keeps _ (State.modPlane_keeps _ _ h))

theorem State.commitLine_keeps {s0 : State} {s : State} (p : Fin 8) (stamp : Int) (tf : Nat) (lag : Nat) (h : Keeps s0 s) : Keeps s0 (State.commitLine s p stamp tf lag) := by
  unfold State.commitLine
  extract_lets -merge -underBinder +onlyGivenNames x1
  extract_lets -merge -underBinder +onlyGivenNames x2
  extract_lets -merge -underBinder +onlyGivenNames x3
  have hx3 : Keeps s0 x3 := State.modPlane_keeps _ _ h
  extract_lets -merge -underBinder +onlyGivenNames x4
  have hx4 : Keeps s0 x4 := by
    refine State.countEvent_keeps _ _ _ ?_
    refine Keeps.ite ?_ ?_
    · exact State.twinSend_keeps _ hx3
    · exact hx3
  refine Keeps.ite ?_ ?_
  · exact State.enterRun_keeps _ (State.log_keeps _ _ _ _ (State.modPlane_keeps _ _ hx4))
  · exact hx4

theorem State.commitDue_keeps {s0 : State} {s : State} (p : Fin 8) (h : Keeps s0 s) : Keeps s0 (State.commitDue s p) := by
  unfold State.commitDue
  extract_lets -merge -underBinder +onlyGivenNames x1
  refine Keeps.ite ?_ ?_
  · exact h
  · split
    · exact State.commitLine_keeps _ _ _ _ h
    · split
      · exact h
      · split
        · exact h
        · refine Keeps.ite ?_ ?_
          · exact h
          · extract_lets -merge -underBinder +onlyGivenNames x2
            extract_lets -merge -underBinder +onlyGivenNames x3
            refine Keeps.ite ?_ ?_
            · exact State.stopPlanes_keeps _ _ h
            · exact State.commitLine_keeps _ _ _ _ h

theorem State.openTriggers_keeps {s0 : State} {s : State} (p : Fin 8) (h : Keeps s0 s) : Keeps s0 (State.openTriggers s p) := by
  unfold State.openTriggers
  extract_lets -merge -underBinder +onlyGivenNames x1
  refine Keeps.upd ?_
  exact h

theorem State.resumeForward_keeps {s0 : State} {s : State} (p : Fin 8) (h : Keeps s0 s) : Keeps s0 (State.resumeForward s p) := by
  unfold State.resumeForward
  extract_lets -merge -underBinder +onlyGivenNames x1
  refine Keeps.ite ?_ ?_
  · extract_lets -merge -underBinder +onlyGivenNames x2
    extract_lets -merge -underBinder +onlyGivenNames x3
    extract_lets -merge -underBinder +onlyGivenNames x4
    have hx4 : Keeps s0 x4 := State.log_keeps _ _ _ _ (State.overRecord_keeps _ h)
    extract_lets -merge -underBinder +onlyGivenNames x5
    have hx5 : Keeps s0 x5 := State.modPlane_keeps _ _ hx4
    extract_lets -merge -underBinder +onlyGivenNames x6
    have hx6 : Keeps s0 x6 := State.enterRun_keeps _ (State.modLoop_keeps _ _ hx5)
    exact State.lineFollow_keeps _ hx6
  · exact h

theorem State.missBand_keeps {s0 : State} {s : State} (b : Band) (reason : Nat) (h : Keeps s0 s) : Keeps s0 (State.missBand s b reason) := by
  unfold State.missBand
  refine State.loopEvent_keeps _ _ _ _ ?_
  refine Keeps.upd ?_
  exact h

theorem State.openLoops_keeps {s0 : State} {s : State} (p : Fin 8) (h : Keeps s0 s) : Keeps s0 (State.openLoops s p) := by
  unfold State.openLoops
  extract_lets -merge -underBinder +onlyGivenNames x1
  extract_lets -merge -underBinder +onlyGivenNames z_2 x3
  have hx3 : Keeps s0 x3 := by
    refine Keeps.upd ?_
    exact h
  refine State.modLoop_keeps _ _ ?_
  refine State.loopsOff_keeps _ ?_
  refine Keeps.foldl (fun _ _ h4 => ?_) ?_
  · exact State.missBand_keeps _ _ h4
  · exact hx3

theorem State.openGutters_keeps {s0 : State} {s : State} (p : Fin 8) (h : Keeps s0 s) : Keeps s0 (State.openGutters s p) := by
  unfold State.openGutters
  extract_lets -merge -underBinder +onlyGivenNames x1
  refine Keeps.foldl (fun _ _ h2 => ?_) ?_
  · extract_lets -merge -underBinder +onlyGivenNames x3
    refine Keeps.upd ?_
    exact h2
  · exact h

theorem State.clearLate_keeps {s0 : State} {s : State} (h : Keeps s0 s) : Keeps s0 (State.clearLate s) := by
  unfold State.clearLate
  refine Keeps.foldl (fun _ _ h1 => ?_) ?_
  · refine Keeps.ite ?_ ?_
    · exact State.clearCause_keeps _ _ h1
    · exact h1
  · exact h

theorem State.abortClose_keeps {s0 : State} {s : State} (p : Fin 8) (h : Keeps s0 s) : Keeps s0 (State.abortClose s p) := by
  unfold State.abortClose
  split
  · exact h
  · extract_lets -merge -underBinder +onlyGivenNames x1
    have hx1 : Keeps s0 x1 := by
      refine Keeps.foldl (fun _ _ h2 => ?_) ?_
      · exact State.modFlight_keeps _ _ h2
      · exact h
    exact State.closeDone_keeps _ (State.modPlane_keeps _ _ hx1)

theorem State.openPosition_keeps {s0 : State} {s : State} (o : BitVec 48) (h : Keeps s0 s) : Keeps s0 (State.openPosition s o).2 := by
  unfold State.openPosition
  split
  · exact h
  · exact State.draw_keeps h

theorem State.assertCause_keeps {s0 : State} {s : State} (ps : List (Fin 8)) (bit : Nat) (h : Keeps s0 s) : Keeps s0 (State.assertCause s ps bit) := by
  unfold State.assertCause
  split
  · refine Keeps.foldl (fun _ _ h1 => ?_) ?_
    · refine Keeps.upd ?_
      exact h1
    · exact h
  · exact State.stopPlanes_keeps _ _ h

theorem State.sendPlaneState_keeps {s0 : State} {s : State} (p : Fin 8) (epoch : Nat) (h : Keeps s0 s) : Keeps s0 (State.sendPlaneState s p epoch) := by
  unfold State.sendPlaneState
  extract_lets -merge -underBinder +onlyGivenNames x1
  exact State.twinSend_keeps _ (State.modTwin_keeps _ _ h)

theorem State.standbyLate_keeps {s0 : State} {s : State} (p : Fin 8) (n : Nat) (h : Keeps s0 s) : Keeps s0 (State.standbyLate s p n) := by
  unfold State.standbyLate
  extract_lets -merge -underBinder +onlyGivenNames x1
  have hx1 : Keeps s0 x1 := State.modTwin_keeps _ _ (State.assertCause_keeps _ _ h)
  refine Keeps.ite ?_ ?_
  · refine Keeps.upd ?_
    exact hx1
  · exact hx1

theorem State.openSources_keeps {s0 : State} {s : State} (p : Fin 8) (h : Keeps s0 s) : Keeps s0 (State.openSources s p) := by
  unfold State.openSources
  extract_lets -merge -underBinder +onlyGivenNames x1
  extract_lets -merge -underBinder +onlyGivenNames x2
  extract_lets -merge -underBinder +onlyGivenNames x3
  refine Keeps.upd ?_
  exact h

theorem State.openPlane_keeps {s0 : State} {s : State} (p : Fin 8) (o : BitVec 48) (h : Keeps s0 s) : Keeps s0 (State.openPlane s p o) := by
  unfold State.openPlane
  extract_lets -merge -underBinder +onlyGivenNames x1
  have hx1 : Keeps s0 x1 := State.abortClose_keeps _ (State.overRecord_keeps _ (State.launchPassed_keeps _ _ h))
  split
  · rename_i v2 v3 e4
    have hv3 : Keeps s0 v3 := (congrArg (fun r => Keeps s0 r.2) e4).mp (State.openPosition_keeps _ hx1)
    extract_lets -merge -underBinder +onlyGivenNames x5
    have hx5 : Keeps s0 x5 := State.modPlane_keeps _ _ hv3
    extract_lets -merge -underBinder +onlyGivenNames x6
    extract_lets -merge -underBinder +onlyGivenNames x7
    have hx7 : Keeps s0 x7 := State.endRestore_keeps _ (State.modPlane_keeps _ _ hx5)
    extract_lets -merge -underBinder +onlyGivenNames x8
    have hx8 : Keeps s0 x8 := State.openTriggers_keeps _ (State.openLoops_keeps _ (State.openBanks_keeps _ (State.openGutters_keeps _ (State.openSources_keeps _ hx7))))
    extract_lets -merge -underBinder +onlyGivenNames x9
    have hx9 : Keeps s0 x9 := State.advanceReady_keeps _ (State.publish_keeps _ hx8)
    refine Keeps.ite ?_ ?_
    · exact State.sendPlaneState_keeps _ _ hx9
    · exact hx9

theorem State.report_keeps {s0 : State} {s : State} (old : State) (h : Keeps s0 s) : Keeps s0 (State.report s old) := by
  unfold State.report
  refine Keeps.ite ?_ ?_
  · exact State.ringSend_keeps _ h
  · exact h

theorem State.armPlanes_keeps {s0 : State} {s : State} (h : Keeps s0 s) : Keeps s0 (State.armPlanes s) := by
  unfold State.armPlanes
  refine Keeps.foldl (fun _ _ h1 => ?_) ?_
  · extract_lets -merge -underBinder +onlyGivenNames x2
    refine Keeps.ite ?_ ?_
    · exact State.modPlane_keeps _ _ h1
    · exact h1
  · exact h

theorem State.settle_keeps {s0 : State} {s : State} (old : State) (h : Keeps s0 s) : Keeps s0 (State.settle s old) := by
  unfold State.settle
  exact State.report_keeps _ (State.armPlanes_keeps (State.settlePeers_keeps (State.clearLate_keeps h)))

theorem State.openPlanes_keeps {s0 : State} {s : State} (ps : List (Fin 8)) (o : BitVec 48) (h : Keeps s0 s) : Keeps s0 (State.openPlanes s ps o) := by
  unfold State.openPlanes
  extract_lets -merge -underBinder +onlyGivenNames x1
  have hx1 : Keeps s0 x1 := by
    refine State.chambersFollow_keeps ?_
    refine State.settlePeers_keeps ?_
    refine Keeps.foldl (fun _ _ h2 => ?_) ?_
    · exact State.openPlane_keeps _ _ h2
    · exact h
  extract_lets -merge -underBinder +onlyGivenNames x3
  extract_lets -merge -underBinder +onlyGivenNames x4
  have hx4 : Keeps s0 x4 := State.settle_keeps _ (State.assertCause_keeps _ _ (State.assertCause_keeps _ _ (State.assertCause_keeps _ _ (State.assertCause_keeps _ _ hx1))))
  refine Keeps.ite ?_ ?_
  · exact State.twinSend_keeps _ hx4
  · exact hx4

theorem State.launchDue_keeps {s0 : State} {s : State} (p : Fin 8) (h : Keeps s0 s) : Keeps s0 (State.launchDue s p) := by
  unfold State.launchDue
  split
  · exact h
  · split
    · rename_i v1 v2 e3
      have hv2 : Keeps s0 v2 := (congrArg (fun r => Keeps s0 r.2) e3).mp (State.adoptStamp_keeps _ _ h)
      refine Keeps.ite ?_ ?_
      · refine Keeps.ite ?_ ?_
        · exact State.launchLine_keeps _ _ (State.standbyLate_keeps _ _ hv2)
        · exact State.countEvent_keeps _ _ _ (State.stopPlanes_keeps _ _ hv2)
      · exact State.launchLine_keeps _ _ hv2

end Sys2Proof.Machine
end

