-- ==== Sys2Proof/Laws/KeepsTideOps.lean ====
section
/-! SUPPORT. What the operations of Machine/TideOps.lean keep. -/

set_option Elab.async false

namespace Sys2Proof.Machine

theorem State.tideEnds_keeps {s0 : State} {s : State} (old : State) (h : Keeps s0 s) : Keeps s0 (State.tideEnds s old) := by
  unfold State.tideEnds
  split
  · refine Keeps.ite ?_ ?_
    · exact State.overEnds_keeps h
    · exact h
  · refine Keeps.ite ?_ ?_
    · exact State.overEnds_keeps h
    · exact h
  · exact h

theorem State.followTide_keeps {s0 : State} {s : State} (h : Keeps s0 s) : Keeps s0 (State.followTide s) := by
  unfold State.followTide
  split
  · exact h
  · refine Keeps.ite ?_ ?_
    · refine State.followPosition_keeps ?_
      refine Keeps.upd ?_
      exact h
    · exact h

theorem State.tideFollows_keeps {s0 : State} {s : State} (old : State) (h : Keeps s0 s) : Keeps s0 (State.tideFollows s old) := by
  unfold State.tideFollows
  refine Keeps.ite ?_ ?_
  · exact h
  · extract_lets -merge -underBinder +onlyGivenNames x1
    have hx1 : Keeps s0 x1 := State.tideEnds_keeps _ (State.followTide_keeps h)
    refine State.settle_keeps _ ?_
    refine Keeps.ite ?_ ?_
    · exact State.clearCause_keeps _ _ hx1
    · exact hx1

theorem State.noteDelta_keeps {s0 : State} {s : State} (w : TideWord) (h : Keeps s0 s) : Keeps s0 (State.noteDelta s w) := by
  unfold State.noteDelta
  split
  · exact h
  · extract_lets -merge -underBinder +onlyGivenNames x1
    extract_lets -merge -underBinder +onlyGivenNames x2
    refine Keeps.upd ?_
    exact h

theorem State.changeOver_keeps {s0 : State} {s : State} (n : BitVec 10) (d : Int) (h : Keeps s0 s) : Keeps s0 (State.changeOver s n d) := by
  unfold State.changeOver
  refine Keeps.upd ?_
  exact h

theorem State.chooseSource_keeps {s0 : State} {s : State} (w : TideWord) (h : Keeps s0 s) : Keeps s0 (State.chooseSource s w) := by
  unfold State.chooseSource
  split
  · refine Keeps.upd ?_
    exact h
  · refine Keeps.ite ?_ ?_
    · exact h
    · extract_lets -merge -underBinder +onlyGivenNames x1
      have hx1 : Keeps s0 x1 := State.noteDelta_keeps _ h
      split
      · refine Keeps.ite ?_ ?_
        · exact State.changeOver_keeps _ _ hx1
        · exact hx1
      · exact hx1

theorem State.recordWord_keeps {s0 : State} {s : State} (w : TideWord) (h : Keeps s0 s) : Keeps s0 (State.recordWord s w) := by
  unfold State.recordWord
  extract_lets -merge -underBinder +onlyGivenNames x1
  extract_lets -merge -underBinder +onlyGivenNames x2
  extract_lets -merge -underBinder +onlyGivenNames x3
  refine Keeps.upd ?_
  exact h

theorem State.takeTide_keeps {s0 : State} {s : State} (w : TideWord) (h : Keeps s0 s) : Keeps s0 (State.takeTide s w) := by
  unfold State.takeTide
  refine Keeps.ite ?_ ?_
  · exact State.tideFollows_keeps _ (State.countEvent_keeps _ _ _ (State.chooseSource_keeps _ (State.recordWord_keeps _ h)))
  · exact h

theorem State.drainTide_keeps {s0 : State} {s : State} (h : Keeps s0 s) : Keeps s0 (State.drainTide s) := by
  unfold State.drainTide
  refine Keeps.ite ?_ ?_
  · refine Keeps.foldl (fun _ _ h1 => ?_) ?_
    · exact State.takeTide_keeps _ h1
    · refine Keeps.upd ?_
      exact h
  · exact h

theorem State.ownWord_keeps {s0 : State} {s : State} (h : Keeps s0 s) : Keeps s0 (State.ownWord s).2 := by
  unfold State.ownWord
  extract_lets -merge -underBinder +onlyGivenNames x1
  extract_lets -merge -underBinder +onlyGivenNames x2
  split
  · exact h
  · exact State.draw_keeps h

theorem State.receiveTide_keeps {s0 : State} {s : State} (w : TideWord) (h : Keeps s0 s) : Keeps s0 (State.receiveTide s w) := by
  unfold State.receiveTide
  refine Keeps.ite ?_ ?_
  · exact State.takeTide_keeps _ h
  · extract_lets -merge -underBinder +onlyGivenNames x1
    refine Keeps.upd ?_
    exact h

theorem State.sendTide_keeps {s0 : State} {s : State} (h : Keeps s0 s) : Keeps s0 (State.sendTide s) := by
  unfold State.sendTide
  refine Keeps.ite ?_ ?_
  · refine Keeps.upd ?_
    exact h
  · refine Keeps.ite ?_ ?_
    · refine Keeps.upd ?_
      exact h
    · split
      · rename_i v1 v2 e3
        have hv2 : Keeps s0 v2 := (congrArg (fun r => Keeps s0 r.2) e3).mp (State.ownWord_keeps h)
        extract_lets -merge -underBinder +onlyGivenNames z_4 x5
        have hx5 : Keeps s0 x5 := by
          refine State.ringSend_keeps _ ?_
          refine Keeps.upd ?_
          exact hv2
        refine Keeps.ite ?_ ?_
        · exact State.receiveTide_keeps _ hx5
        · exact hx5

theorem State.expireTide_keeps {s0 : State} {s : State} (n : BitVec 10) (h : Keeps s0 s) : Keeps s0 (State.expireTide s n) := by
  unfold State.expireTide
  extract_lets -merge -underBinder +onlyGivenNames z_1 x2
  have hx2 : Keeps s0 x2 := by
    refine Keeps.upd ?_
    exact h
  refine Keeps.ite ?_ ?_
  · refine Keeps.upd ?_
    exact hx2
  · extract_lets -merge -underBinder +onlyGivenNames x3
    clear_value x3
    split
    · exact State.tideFollows_keeps _ (State.changeOver_keeps _ _ hx2)
    · refine Keeps.ite ?_ ?_
      · exact State.settle_keeps _ (State.assertCause_keeps _ _ hx2)
      · exact hx2

end Sys2Proof.Machine
end

