-- ==== Sys2Proof/Laws/KeepsMeasure.lean ====
section
/-! SUPPORT. What the operations of Machine/Measure.lean keep. -/

set_option Elab.async false

namespace Sys2Proof.Machine

theorem State.finishInstance_keeps {s0 : State} {s : State} (m : Fin 64) (i : Nat) (vs : List Capture) (h : Keeps s0 s) : Keeps s0 (State.finishInstance s m i vs) := by
  unfold State.finishInstance
  extract_lets -merge -underBinder +onlyGivenNames x1
  split
  · exact h
  · extract_lets -merge -underBinder +onlyGivenNames x2
    refine Keeps.ite ?_ ?_
    · refine Keeps.upd ?_
      exact h
    · extract_lets -merge -underBinder +onlyGivenNames x3
      extract_lets -merge -underBinder +onlyGivenNames x4
      split
      · exact h
      · extract_lets -merge -underBinder +onlyGivenNames x5
        extract_lets -merge -underBinder +onlyGivenNames x6
        refine Keeps.ite ?_ ?_
        · exact h
        · refine Keeps.upd ?_
          exact h

theorem State.finishInstances_keeps {s0 : State} {s : State} (c : Fin 16) (tag : Int) (h : Keeps s0 s) : Keeps s0 (State.finishInstances s c tag) := by
  unfold State.finishInstances
  extract_lets -merge -underBinder +onlyGivenNames x1
  extract_lets -merge -underBinder +onlyGivenNames x2
  extract_lets -merge -underBinder +onlyGivenNames x3
  refine Keeps.foldl (fun _ _ h4 => ?_) ?_
  · exact State.finishInstance_keeps _ _ _ h4
  · refine Keeps.upd ?_
    exact h

theorem State.feedMarks_keeps {s0 : State} {s : State} (c : Fin 16) (r : TrigRecord) (clean : Bool) (per : Nat) (samples : List Nat) (h : Keeps s0 s) : Keeps s0 (State.feedMarks s c r clean per samples) := by
  unfold State.feedMarks
  refine Keeps.ite ?_ ?_
  · exact h
  · extract_lets -merge -underBinder +onlyGivenNames x1
    refine State.finishInstances_keeps _ _ ?_
    refine Keeps.upd ?_
    exact h

theorem State.feedBands_keeps {s0 : State} {s : State} (kind : Nat) (c : Fin 16) (r : TrigRecord) (clean : Bool) (first : Nat) (avg : Nat) (per : Nat) (samples : List Nat) (h : Keeps s0 s) : Keeps s0 (State.feedBands s kind c r clean first avg per samples) := by
  unfold State.feedBands
  extract_lets -merge -underBinder +onlyGivenNames x1
  refine Keeps.ite ?_ ?_
  · exact h
  · extract_lets -merge -underBinder +onlyGivenNames x2
    refine Keeps.upd ?_
    exact h

end Sys2Proof.Machine
end

