-- ==== Sys2Proof/Laws/KeepsPins.lean ====
section
/-! SUPPORT. What the operations of Machine/Pins.lean keep. -/

set_option Elab.async false

namespace Sys2Proof.Machine

theorem State.driveGpio_keeps {s0 : State} {s : State} (g : Fin 16) (level : Bool) (h : Keeps s0 s) : Keeps s0 (State.driveGpio s g level) := by
  unfold State.driveGpio
  refine Keeps.upd ?_
  exact h

theorem State.restGpios_keeps {s0 : State} {s : State} (h : Keeps s0 s) : Keeps s0 (State.restGpios s) := by
  unfold State.restGpios
  refine Keeps.foldl (fun _ _ h1 => ?_) ?_
  · refine Keeps.ite ?_ ?_
    · exact h1
    · exact State.driveGpio_keeps _ _ h1
  · exact h

theorem State.resetGpios_keeps {s0 : State} {s : State} (h : Keeps s0 s) : Keeps s0 (State.resetGpios s) := by
  unfold State.resetGpios
  refine Keeps.ite ?_ ?_
  · exact State.restGpios_keeps h
  · refine Keeps.upd ?_
    exact h

theorem State.driveTrig_keeps {s0 : State} {s : State} (t : Fin 4) (level : Bool) (h : Keeps s0 s) : Keeps s0 (State.driveTrig s t level) := by
  unfold State.driveTrig
  refine Keeps.upd ?_
  exact h

theorem State.restTrigs_keeps {s0 : State} {s : State} (h : Keeps s0 s) : Keeps s0 (State.restTrigs s) := by
  unfold State.restTrigs
  refine Keeps.foldl (fun _ _ h1 => ?_) ?_
  · refine Keeps.ite ?_ ?_
    · exact h1
    · exact State.driveTrig_keeps _ _ h1
  · exact h

theorem State.resetTrigs_keeps {s0 : State} {s : State} (h : Keeps s0 s) : Keeps s0 (State.resetTrigs s) := by
  unfold State.resetTrigs
  refine Keeps.ite ?_ ?_
  · exact State.restTrigs_keeps h
  · refine Keeps.upd ?_
    exact h

theorem State.pullBalls_keeps {s0 : State} {s : State} (h : Keeps s0 s) : Keeps s0 (State.pullBalls s) := by
  unfold State.pullBalls
  refine Keeps.upd ?_
  exact h

end Sys2Proof.Machine
end

