-- ==== Sys2Proof/Laws/KeepsCamera.lean ====
section
/-! SUPPORT. What the operations of Machine/Camera.lean keep. -/

set_option Elab.async false

namespace Sys2Proof.Machine

theorem State.modCtx_keeps {s0 : State} {s : State} (c : Fin 16) (f : CamCtx → CamCtx) (h : Keeps s0 s) : Keeps s0 (State.modCtx s c f) := by
  unfold State.modCtx
  refine Keeps.upd ?_
  exact h

theorem State.expireRecords_keeps {s0 : State} {s : State} (c : Fin 16) (h : Keeps s0 s) : Keeps s0 (State.expireRecords s c) := by
  unfold State.expireRecords
  exact State.modCtx_keeps _ _ h

theorem State.takeRecord_keeps {s0 : State} {s : State} (c : Fin 16) (h : Keeps s0 s) : Keeps s0 (State.takeRecord s c).2 := by
  unfold State.takeRecord
  extract_lets -merge -underBinder +onlyGivenNames x1
  have hx1 : Keeps s0 x1 := State.expireRecords_keeps _ h
  split
  · exact State.modCtx_keeps _ _ hx1
  · exact State.modCtx_keeps _ _ hx1

theorem State.putCamLine_keeps {s0 : State} {s : State} (c : Fin 16) (base : Nat) (k : BitVec 32) (bytes : List Sys2Proof.Byte) (h : Keeps s0 s) : Keeps s0 (State.putCamLine s c base k bytes) := by
  unfold State.putCamLine
  extract_lets -merge -underBinder +onlyGivenNames x1
  extract_lets -merge -underBinder +onlyGivenNames x2
  refine Keeps.ite ?_ ?_
  · exact h
  · exact State.dramPut_keeps _ _ _ _ h

theorem State.streamS3_keeps {s0 : State} {s : State} (l : CamLine) (r : Option TrigRecord) (free : BitVec 112) (f : LineFlags) (samples : List Nat) (h : Keeps s0 s) : Keeps s0 (State.streamS3 s l r free f samples) := by
  unfold State.streamS3
  extract_lets -merge -underBinder +onlyGivenNames x1
  split
  · split
    · extract_lets -merge -underBinder +onlyGivenNames x2
      extract_lets -merge -underBinder +onlyGivenNames x3
      refine Keeps.ite ?_ ?_
      · exact h
      · extract_lets -merge -underBinder +onlyGivenNames x4
        extract_lets -merge -underBinder +onlyGivenNames x5
        have hx5 : Keeps s0 x5 := State.modCtx_keeps _ _ h
        refine Keeps.ite ?_ ?_
        · exact hx5
        · refine Keeps.ite ?_ ?_
          · refine Keeps.upd ?_
            exact hx5
          · extract_lets -merge -underBinder +onlyGivenNames x6
            extract_lets -merge -underBinder +onlyGivenNames x7
            exact State.modCtx_keeps _ _ (State.putCamLine_keeps _ _ _ _ hx5)

theorem State.streamS0_keeps {s0 : State} {s : State} (l : CamLine) (r : Option TrigRecord) (free : BitVec 112) (f : LineFlags) (bs : List Sys2Proof.Byte) (h : Keeps s0 s) : Keeps s0 (State.streamS0 s l r free f bs) := by
  unfold State.streamS0
  extract_lets -merge -underBinder +onlyGivenNames x1
  split
  · split
    · extract_lets -merge -underBinder +onlyGivenNames x2
      extract_lets -merge -underBinder +onlyGivenNames x3
      extract_lets -merge -underBinder +onlyGivenNames x4
      refine Keeps.ite ?_ ?_
      · exact h
      · extract_lets -merge -underBinder +onlyGivenNames x5
        have hx5 : Keeps s0 x5 := by
          refine Keeps.ite ?_ ?_
          · exact State.modCtx_keeps _ _ (State.putCamLine_keeps _ _ _ _ h)
          · exact h
        split
        · refine Keeps.ite ?_ ?_
          · exact State.feedBands_keeps _ _ _ _ _ _ _ _ hx5
          · exact hx5
        · exact hx5

theorem State.flushS1_keeps {s0 : State} {s : State} (c : Fin 16) (per : Nat) (avg : Nat) (h : Keeps s0 s) : Keeps s0 (State.flushS1 s c per avg) := by
  unfold State.flushS1
  split
  · exact h
  · exact State.feedBands_keeps _ _ _ _ _ _ _ _ (State.modCtx_keeps _ _ h)

theorem State.streamS1_keeps {s0 : State} {s : State} (c : Fin 16) (r : TrigRecord) (clean : Bool) (samples : List Nat) (h : Keeps s0 s) : Keeps s0 (State.streamS1 s c r clean samples) := by
  unfold State.streamS1
  split
  · split
    · extract_lets -merge -underBinder +onlyGivenNames x1
      extract_lets -merge -underBinder +onlyGivenNames x2
      extract_lets -merge -underBinder +onlyGivenNames x3
      refine Keeps.ite ?_ ?_
      · exact h
      · extract_lets -merge -underBinder +onlyGivenNames x4
        have hx4 : Keeps s0 x4 := by
          refine Keeps.ite ?_ ?_
          · exact h
          · exact State.flushS1_keeps _ _ _ h
        extract_lets -merge -underBinder +onlyGivenNames x5
        extract_lets -merge -underBinder +onlyGivenNames x6
        extract_lets -merge -underBinder +onlyGivenNames x7
        extract_lets -merge -underBinder +onlyGivenNames x8
        have hx8 : Keeps s0 x8 := State.modCtx_keeps _ _ hx4
        refine Keeps.ite ?_ ?_
        · exact State.flushS1_keeps _ _ _ hx8
        · exact hx8

theorem State.emitLine4_keeps {s0 : State} {s : State} (l : CamLine) (r : Option TrigRecord) (h : Keeps s0 s) : Keeps s0 (s.emitLine4 l r) := by
  unfold State.emitLine4
  extract_lets c
  split
  rename_i bs f e
  extract_lets all samples
  split
  rename_i free t e2
  have ht : Keeps s0 t := by
    refine (congrArg (fun r => Keeps s0 r.2) e2).mp ?_
    split
    · exact h
    · exact State.draw_keeps h
  extract_lets -merge -underBinder +onlyGivenNames s1
  have hs1 : Keeps s0 s1 := State.streamS3_keeps _ _ _ _ _ (State.streamS0_keeps _ _ _ _ _ (State.countEvent_keeps _ _ _ ht))
  split
  · exact Keeps.ite (State.modCtx_keeps _ _ (State.feedMarks_keeps _ _ _ _ _ (State.streamS1_keeps _ _ _ _ hs1))) hs1
  · exact hs1

theorem State.stageLine_keeps {s0 : State} {s : State} (l : CamLine) (h : Keeps s0 s) : Keeps s0 (State.stageLine s l) := by
  unfold State.stageLine
  split
  · rename_i v1 v2 e3
    have hv2 : Keeps s0 v2 := (congrArg (fun r => Keeps s0 r.2) e3).mp (State.takeRecord_keeps _ h)
    refine Keeps.ite ?_ ?_
    · exact hv2
    · exact State.emitLine4_keeps _ _ hv2

theorem State.markDropped_keeps {s0 : State} {s : State} (c : Fin 16) (number : BitVec 16) (h : Keeps s0 s) : Keeps s0 (State.markDropped s c number) := by
  unfold State.markDropped
  extract_lets -merge -underBinder +onlyGivenNames x1
  exact State.modCtx_keeps _ _ h

theorem State.modPort_keeps {s0 : State} {s : State} (p : Fin 4) (f : CamPort → CamPort) (h : Keeps s0 s) : Keeps s0 (State.modPort s p f) := by
  unfold State.modPort
  refine Keeps.upd ?_
  exact h

theorem State.countDrop_keeps {s0 : State} {s : State} (c : Fin 16) (number : BitVec 16) (h : Keeps s0 s) : Keeps s0 (State.countDrop s c number) := by
  unfold State.countDrop
  exact State.countEvent_keeps _ _ _ (State.markDropped_keeps _ _ (State.modCtx_keeps _ _ (State.modPort_keeps _ _ h)))

theorem State.makeRoom_keeps {s0 : State} {s : State} (p : Fin 4) (need fuel : Nat) (h : Keeps s0 s) : Keeps s0 (s.makeRoom p need fuel).2 := by
  induction fuel generalizing s with
  | zero => exact h
  | succ fuel ih =>
    unfold State.makeRoom
    split
    · exact h
    · split
      · exact h
      · exact ih (State.countDrop_keeps _ _ (State.modPort_keeps _ _ h))

theorem State.pushLine_keeps {s0 : State} {s : State} (l : CamLine) (h : Keeps s0 s) : Keeps s0 (State.pushLine s l) := by
  unfold State.pushLine
  exact State.modPort_keeps _ _ h

theorem State.storeLine_keeps {s0 : State} {s : State} (l : CamLine) (h : Keeps s0 s) : Keeps s0 (State.storeLine s l) := by
  unfold State.storeLine
  extract_lets -merge -underBinder +onlyGivenNames x1
  split
  · rename_i v2 e3
    have hv2 : Keeps s0 v2 := (congrArg (fun r => Keeps s0 r.2) e3).mp (State.makeRoom_keeps _ _ _ h)
    exact State.pushLine_keeps _ hv2
  · rename_i v4 e5
    have hv4 : Keeps s0 v4 := (congrArg (fun r => Keeps s0 r.2) e5).mp (State.makeRoom_keeps _ _ _ h)
    exact State.pushLine_keeps _ (State.countDrop_keeps _ _ hv4)

theorem State.camLine_keeps {s0 : State} {s : State} (c : Fin 16) (f : CamFrame) (bytes : List Sys2Proof.Byte) (crcOk : Bool) (h : Keeps s0 s) : Keeps s0 (State.camLine s c f bytes crcOk) := by
  unfold State.camLine
  split
  · extract_lets -merge -underBinder +onlyGivenNames x1
    extract_lets -merge -underBinder +onlyGivenNames x2
    refine Keeps.ite ?_ ?_
    · extract_lets -merge -underBinder +onlyGivenNames x3
      exact State.storeLine_keeps _ (State.modCtx_keeps _ _ (State.modCtx_keeps _ _ h))
    · refine Keeps.ite ?_ ?_
      · exact State.pushLine_keeps _ (State.modCtx_keeps _ _ (State.modCtx_keeps _ _ h))
      · extract_lets -merge -underBinder +onlyGivenNames x4
        exact State.storeLine_keeps _ (State.modCtx_keeps _ _ (State.modCtx_keeps _ _ h))

theorem execCameraDropRecord_keeps {s0 : State} (ctx : Fin 16) (at_ : Nat) {s : State} (h : Keeps s0 s) : OKeeps s0 (execCameraDropRecord ctx at_ s) := by
  unfold execCameraDropRecord
  refine OKeeps.next ?_
  extract_lets -merge -underBinder +onlyGivenNames x1
  have hx1 : Keeps s0 x1 := State.advance_keeps _ h
  extract_lets -merge -underBinder +onlyGivenNames x2
  extract_lets -merge -underBinder +onlyGivenNames x3
  refine Keeps.ite ?_ ?_
  · exact State.modCtx_keeps _ _ (State.log_keeps _ _ _ _ hx1)
  · exact hx1

theorem State.modTrig_keeps {s0 : State} {s : State} (t : Fin 4) (f : CamTrig → CamTrig) (h : Keeps s0 s) : Keeps s0 (State.modTrig s t f) := by
  unfold State.modTrig
  refine Keeps.upd ?_
  exact h

theorem State.giveRecord_keeps {s0 : State} {s : State} (c : Fin 16) (r : TrigRecord) (pq : Int) (h : Keeps s0 s) : Keeps s0 (State.giveRecord s c r pq) := by
  unfold State.giveRecord
  exact State.modCtx_keeps _ _ h

theorem State.pulseTrigger_keeps {s0 : State} {s : State} (t : Fin 4) (pq : Int) (h : Keeps s0 s) : Keeps s0 (State.pulseTrigger s t pq) := by
  unfold State.pulseTrigger
  extract_lets -merge -underBinder +onlyGivenNames x1
  extract_lets -merge -underBinder +onlyGivenNames x2
  extract_lets -merge -underBinder +onlyGivenNames x3
  extract_lets -merge -underBinder +onlyGivenNames x4
  have hx4 : Keeps s0 x4 := State.modTrig_keeps _ _ h
  extract_lets -merge -underBinder +onlyGivenNames x5
  have hx5 : Keeps s0 x5 := State.driveTrig_keeps _ _ hx4
  refine Keeps.foldl (fun _ _ h6 => ?_) ?_
  · refine Keeps.ite ?_ ?_
    · exact State.giveRecord_keeps _ _ _ h6
    · exact h6
  · exact hx5

theorem State.issueTrigger_keeps {s0 : State} {s : State} (t : Fin 4) (pq : Int) (h : Keeps s0 s) : Keeps s0 (State.issueTrigger s t pq) := by
  unfold State.issueTrigger
  extract_lets -merge -underBinder +onlyGivenNames x1
  split
  · refine Keeps.ite ?_ ?_
    · exact State.modTrig_keeps _ _ h
    · exact State.pulseTrigger_keeps _ _ h
  · exact State.pulseTrigger_keeps _ _ h

theorem execTriggerPulseEnd_keeps {s0 : State} (trigger : Fin 4) {s : State} (h : Keeps s0 s) : OKeeps s0 (execTriggerPulseEnd trigger s) := by
  unfold execTriggerPulseEnd
  refine OKeeps.next ?_
  refine Keeps.ite ?_ ?_
  · extract_lets -merge -underBinder +onlyGivenNames x1
    have hx1 : Keeps s0 x1 := State.modTrig_keeps _ _ h
    exact State.driveTrig_keeps _ _ hx1
  · exact h

theorem State.stageTake_keeps {s0 : State} {s : State} (h : Keeps s0 s) : Keeps s0 (State.stageTake s) := by
  unfold State.stageTake
  split
  · exact h
  · split
    · exact h
    · refine State.stageLine_keeps _ ?_
      refine State.modPort_keeps _ _ ?_
      refine Keeps.upd ?_
      exact h

theorem execStreamStageTake_keeps {s0 : State} (at_ : Nat) {s : State} (h : Keeps s0 s) : OKeeps s0 (execStreamStageTake at_ s) := by
  unfold execStreamStageTake
  refine OKeeps.next ?_
  extract_lets -merge -underBinder +onlyGivenNames x1
  have hx1 : Keeps s0 x1 := State.advance_keeps _ h
  refine Keeps.ite ?_ ?_
  · exact State.stageTake_keeps hx1
  · exact hx1

theorem State.pushMissing_keeps {s0 : State} {s : State} (c : Fin 16) (frame : BitVec 16) (from_ n : Nat) (h : Keeps s0 s) :
    Keeps s0 (s.pushMissing c frame from_ n) := by
  induction n generalizing s from_ with
  | zero => exact h
  | succ n ih => exact ih _ (State.pushLine_keeps _ h)

theorem State.closeFrame_keeps {s0 : State} {s : State} (c : Fin 16) (noFe : Bool) (h : Keeps s0 s) : Keeps s0 (State.closeFrame s c noFe) := by
  unfold State.closeFrame
  split
  · exact h
  · extract_lets -merge -underBinder +onlyGivenNames x1
    extract_lets -merge -underBinder +onlyGivenNames x2
    extract_lets -merge -underBinder +onlyGivenNames x3
    exact State.pushMissing_keeps _ _ _ _ (State.modCtx_keeps _ _ h)

theorem State.writeCtxCfg_keeps {s0 : State} {s : State} (c : Fin 16) (v : Sys2Proof.Word) (h : Keeps s0 s) : Keeps s0 (State.writeCtxCfg s c v) := by
  unfold State.writeCtxCfg
  extract_lets -merge -underBinder +onlyGivenNames x1
  extract_lets -merge -underBinder +onlyGivenNames x2
  have hx2 : Keeps s0 x2 := by
    refine Keeps.ite ?_ ?_
    · exact State.closeFrame_keeps _ _ h
    · exact h
  extract_lets -merge -underBinder +onlyGivenNames x3
  have hx3 : Keeps s0 x3 := State.hostWrite_keeps _ _ hx2
  refine Keeps.ite ?_ ?_
  · exact State.modCtx_keeps _ _ hx3
  · exact hx3

theorem execCamContextEnableWrite_keeps {s0 : State} (ctx : Fin 16) (value : Sys2Proof.Word) {s : State} (h : Keeps s0 s) : OKeeps s0 (execCamContextEnableWrite ctx value s) := by
  unfold execCamContextEnableWrite
  refine OKeeps.next ?_
  refine State.onWrite_keeps _ _ (fun _ h1 => ?_) ?_
  · exact State.writeCtxCfg_keeps _ _ h1
  · exact h

theorem State.takeHeader_keeps {s0 : State} {s : State} (p : Fin 4) (vc : Fin 4) (ecc : Sys2Proof.EccOutcome) (h : Keeps s0 s) : Keeps s0 (State.takeHeader s p vc ecc).2 := by
  unfold State.takeHeader
  split
  · exact h
  · exact State.modPort_keeps _ _ h
  · extract_lets -merge -underBinder +onlyGivenNames x1
    extract_lets -merge -underBinder +onlyGivenNames x2
    have hx2 : Keeps s0 x2 := State.modPort_keeps _ _ h
    refine Keeps.ite ?_ ?_
    · exact State.modCtx_keeps _ _ hx2
    · exact hx2

theorem State.discardPacket_keeps {s0 : State} {s : State} (p : Fin 4) (h : Keeps s0 s) : Keeps s0 (State.discardPacket s p) := by
  unfold State.discardPacket
  exact State.modPort_keeps _ _ h

theorem State.framePacket_keeps {s0 : State} {s : State} (p vc : Fin 4) (vcx : Bool) (ecc : EccOutcome) {f : Fin 16 → State → State}
    (hf : ∀ c t, Keeps s0 t → Keeps s0 (f c t)) (h : Keeps s0 s) : Keeps s0 (s.framePacket p vc vcx ecc f) := by
  unfold State.framePacket
  refine Keeps.ite h ?_
  split
  · rename_i t e
    exact (congrArg (fun r => Keeps s0 r.2) e).mp (State.takeHeader_keeps _ _ _ h)
  · rename_i t e
    have ht : Keeps s0 t := (congrArg (fun r => Keeps s0 r.2) e).mp (State.takeHeader_keeps _ _ _ h)
    exact Keeps.ite (State.discardPacket_keeps _ ht) (hf _ _ ht)

theorem execCsiFrameEnd_keeps {s0 : State} (port : Fin 4) (vc : Fin 4) (vcx : Bool) (ecc : Sys2Proof.EccOutcome) {s : State} (h : Keeps s0 s) : OKeeps s0 (execCsiFrameEnd port vc vcx ecc s) := by
  unfold execCsiFrameEnd
  refine OKeeps.next ?_
  refine State.framePacket_keeps _ _ _ _ (fun _ _ h1 => ?_) ?_
  · exact State.closeFrame_keeps _ _ h1
  · exact h

theorem execFrameEndTimeout_keeps {s0 : State} (ctx : Fin 16) {s : State} (h : Keeps s0 s) : OKeeps s0 (execFrameEndTimeout ctx s) := by
  unfold execFrameEndTimeout
  refine OKeeps.next ?_
  refine Keeps.ite ?_ ?_
  · exact State.closeFrame_keeps _ _ h
  · exact h

theorem execTriggerRecordExpire_keeps {s0 : State} (ctx : Fin 16) (at_ : Nat) {s : State} (h : Keeps s0 s) : OKeeps s0 (execTriggerRecordExpire ctx at_ s) := by
  unfold execTriggerRecordExpire
  refine OKeeps.next ?_
  extract_lets -merge -underBinder +onlyGivenNames x1
  have hx1 : Keeps s0 x1 := State.advance_keeps _ h
  refine Keeps.ite ?_ ?_
  · exact State.expireRecords_keeps _ hx1
  · exact hx1

theorem State.fireGrid_keeps {s0 : State} {s : State} (t : Fin 4) (h : Keeps s0 s) : Keeps s0 (State.fireGrid s t) := by
  unfold State.fireGrid
  extract_lets -merge -underBinder +onlyGivenNames x1
  extract_lets -merge -underBinder +onlyGivenNames x2
  refine Keeps.ite ?_ ?_
  · exact h
  · exact State.issueTrigger_keeps _ _ (State.modTrig_keeps _ _ h)

theorem State.writeCamRing_keeps {s0 : State} {s : State} (c : Fin 16) (o : Nat) (v : Sys2Proof.Word) (h : Keeps s0 s) : Keeps s0 (State.writeCamRing s c o v) := by
  unfold State.writeCamRing
  extract_lets -merge -underBinder +onlyGivenNames x1
  extract_lets -merge -underBinder +onlyGivenNames x2
  have hx2 : Keeps s0 x2 := State.hostWrite_keeps _ _ h
  refine Keeps.ite ?_ ?_
  · exact State.modCtx_keeps _ _ hx2
  · exact hx2

theorem execTriggerFire_keeps {s0 : State} (trigger : Fin 4) (at_ : Nat) {s : State} (h : Keeps s0 s) : OKeeps s0 (execTriggerFire trigger at_ s) := by
  unfold execTriggerFire
  refine OKeeps.next ?_
  extract_lets -merge -underBinder +onlyGivenNames x1
  have hx1 : Keeps s0 x1 := State.advance_keeps _ h
  refine Keeps.ite ?_ ?_
  · exact State.fireGrid_keeps _ hx1
  · exact hx1

theorem execCsiLongPacket_keeps {s0 : State} (port : Fin 4) (vc : Fin 4) (vcx : Bool) (ecc : Sys2Proof.EccOutcome) (dt : BitVec 6) (payload : List Sys2Proof.Byte) (crcOk : Bool) {s : State} (h : Keeps s0 s) : OKeeps s0 (execCsiLongPacket port vc vcx ecc dt payload crcOk s) := by
  unfold execCsiLongPacket
  refine OKeeps.next ?_
  refine State.framePacket_keeps _ _ _ _ (fun _ _ h1 => ?_) ?_
  · refine Keeps.ite ?_ ?_
    · exact State.discardPacket_keeps _ h1
    · split
      · exact State.discardPacket_keeps _ h1
      · exact State.camLine_keeps _ _ _ _ h1
  · exact h

theorem State.writePortEn_keeps {s0 : State} {s : State} (v : Sys2Proof.Word) (h : Keeps s0 s) : Keeps s0 (State.writePortEn s v) := by
  unfold State.writePortEn
  extract_lets -merge -underBinder +onlyGivenNames x1
  extract_lets -merge -underBinder +onlyGivenNames x2
  extract_lets -merge -underBinder +onlyGivenNames x3
  have hx3 : Keeps s0 x3 := State.setField_keeps _ _ _ _ h
  refine Keeps.foldl (fun _ _ h4 => ?_) ?_
  · refine Keeps.ite ?_ ?_
    · exact State.closeFrame_keeps _ _ h4
    · exact h4
  · exact hx3

theorem execCsiFrameStart_keeps {s0 : State} (port : Fin 4) (vc : Fin 4) (vcx : Bool) (ecc : Sys2Proof.EccOutcome) (number : BitVec 16) {s : State} (h : Keeps s0 s) : OKeeps s0 (execCsiFrameStart port vc vcx ecc number s) := by
  unfold execCsiFrameStart
  refine OKeeps.next ?_
  refine State.framePacket_keeps _ _ _ _ (fun _ _ h1 => ?_) ?_
  · exact State.modCtx_keeps _ _ (State.closeFrame_keeps _ _ h1)
  · exact h

theorem execCamPortEnWrite_keeps {s0 : State} (value : Sys2Proof.Word) {s : State} (h : Keeps s0 s) : OKeeps s0 (execCamPortEnWrite value s) := by
  unfold execCamPortEnWrite
  refine OKeeps.next ?_
  refine State.onWrite_keeps _ _ (fun _ h1 => ?_) ?_
  · exact State.writePortEn_keeps _ h1
  · exact h

theorem State.timeTriggers_keeps {s0 : State} {s : State} (k : Fin 16) (h : Keeps s0 s) : Keeps s0 (State.timeTriggers s k) := by
  unfold State.timeTriggers
  refine Keeps.foldl (fun _ _ h1 => ?_) ?_
  · refine Keeps.ite ?_ ?_
    · exact State.issueTrigger_keeps _ _ h1
    · exact h1
  · exact h

theorem State.writeTrigCfg_keeps {s0 : State} {s : State} (t : Fin 4) (v : Sys2Proof.Word) (h : Keeps s0 s) : Keeps s0 (State.writeTrigCfg s t v) := by
  unfold State.writeTrigCfg
  extract_lets -merge -underBinder +onlyGivenNames x1
  extract_lets -merge -underBinder +onlyGivenNames x2
  have hx2 : Keeps s0 x2 := State.hostWrite_keeps _ _ h
  extract_lets -merge -underBinder +onlyGivenNames x3
  have hx3 : Keeps s0 x3 := by
    refine Keeps.ite ?_ ?_
    · exact hx2
    · exact State.modTrig_keeps _ _ hx2
  extract_lets -merge -underBinder +onlyGivenNames x4
  refine Keeps.ite ?_ ?_
  · exact State.driveTrig_keeps _ _ hx3
  · exact hx3

end Sys2Proof.Machine
end

