-- ==== Sys2Proof/Laws/KeepsCopier.lean ====
section
/-! SUPPORT. What the operations of Machine/Copier.lean keep. -/

set_option Elab.async false

namespace Sys2Proof.Machine

theorem State.putRun_keeps {s0 : State} {s : State} (c : Option CopyRun) (h : Keeps s0 s) : Keeps s0 (State.putRun s c) := by
  unfold State.putRun
  refine Keeps.upd ?_
  exact h

theorem State.liveWritten_keeps {s0 : State} {s : State} (t : Nat) (off : Nat) (len : Nat) (h : Keeps s0 s) : Keeps s0 (State.liveWritten s t off len) := by
  unfold State.liveWritten
  refine Keeps.ite ?_ ?_
  · refine Keeps.foldl (fun _ _ h1 => ?_) ?_
    · exact State.writeTable_keeps _ _ _ h1
    · exact h
  · refine Keeps.ite ?_ ?_
    · exact State.countEmpty_keeps h
    · exact h

theorem State.banksChanged_keeps {s0 : State} {s : State} (t : Nat) (who : BankFor) (h : Keeps s0 s) : Keeps s0 (State.banksChanged s t who) := by
  unfold State.banksChanged
  refine Keeps.ite ?_ ?_
  · refine Keeps.foldl (fun _ _ h1 => ?_) ?_
    · exact State.queueUpload_keeps _ _ h1
    · exact h
  · exact h

theorem State.liveChanged_keeps {s0 : State} {s : State} (t : Nat) (off : Nat) (len : Nat) (who : BankFor) (h : Keeps s0 s) : Keeps s0 (State.liveChanged s t off len who) := by
  unfold State.liveChanged
  exact State.banksChanged_keeps _ _ (State.liveWritten_keeps _ _ _ h)

theorem State.copyTouch_keeps {s0 : State} {s : State} (r : CopyReq) (a : Nat) (len : Nat) (h : Keeps s0 s) : Keeps s0 (State.copyTouch s r a len) := by
  unfold State.copyTouch
  split
  · exact State.dramTouch_keeps _ _ _ _ h
  · refine Keeps.ite ?_ ?_
    · exact h
    · refine Keeps.foldl (fun _ _ h1 => ?_) ?_
      · exact State.readStored_keeps _ _ _ _ h1
      · exact h
  · exact h

theorem State.copyRead_keeps {s0 : State} {s : State} (c : CopyRun) (h : Keeps s0 s) : Keeps s0 (State.copyRead s c) := by
  unfold State.copyRead
  extract_lets -merge -underBinder +onlyGivenNames x1
  refine Keeps.ite ?_ ?_
  · exact h
  · exact State.copyTouch_keeps _ _ _ (State.putRun_keeps _ h)

theorem State.copyDest_keeps {s0 : State} {s : State} (a : Nat) (bs : List Sys2Proof.Byte) (h : Keeps s0 s) : Keeps s0 (State.copyDest s a bs) := by
  unfold State.copyDest
  split
  · exact State.dramPut_keeps _ _ _ _ h
  · refine Keeps.ite ?_ ?_
    · exact State.liveWritten_keeps _ _ _ (State.writeTable_keeps _ _ _ h)
    · refine Keeps.ite ?_ ?_
      · exact State.stageUnits_keeps _ _ _ _ _ h
      · exact h
  · exact h

theorem State.copyWrite_keeps {s0 : State} {s : State} (c : CopyRun) (h : Keeps s0 s) : Keeps s0 (State.copyWrite s c) := by
  unfold State.copyWrite
  split
  · exact h
  · refine Keeps.ite ?_ ?_
    · exact h
    · exact State.putRun_keeps _ (State.copyDest_keeps _ _ h)

theorem State.copySteps_keeps {s0 : State} {s : State} (d k : Nat) (h : Keeps s0 s) : Keeps s0 (s.copySteps d k) := by
  induction k generalizing s with
  | zero => exact h
  | succ k ih =>
    unfold State.copySteps
    split
    · exact h
    · exact ih (Keeps.ite (State.copyRead_keeps _ h) (State.copyWrite_keeps _ h))

theorem State.copyBurst_keeps {s0 : State} {s : State} (h : Keeps s0 s) : Keeps s0 (State.copyBurst s) := by
  unfold State.copyBurst
  split
  · exact h
  · refine Keeps.ite ?_ ?_
    · exact State.copySteps_keeps _ _ (State.draw_keeps h)
    · exact h

theorem State.stickCopy_keeps {s0 : State} {s : State} (b : Blk) (h : Keeps s0 s) : Keeps s0 (State.stickCopy s b) := by
  unfold State.stickCopy
  split
  · exact h
  · refine Keeps.ite ?_ ?_
    · extract_lets -merge -underBinder +onlyGivenNames x1
      have hx1 : Keeps s0 x1 := State.copyBurst_keeps h
      refine Keeps.upd ?_
      exact hx1
    · exact h

theorem State.endRun_keeps {s0 : State} {s : State} (c : CopyRun) (h : Keeps s0 s) : Keeps s0 (State.endRun s c) := by
  unfold State.endRun
  split
  · refine Keeps.ite ?_ ?_
    · exact State.putRun_keeps _ h
    · exact State.banksChanged_keeps _ _ (State.putRun_keeps _ h)
  · exact State.putRun_keeps _ h

theorem State.cancelCopies_keeps {s0 : State} {s : State} (k : Fin 4) (h : Keeps s0 s) : Keeps s0 (State.cancelCopies s k) := by
  unfold State.cancelCopies
  extract_lets -merge -underBinder +onlyGivenNames x1
  have hx1 : Keeps s0 x1 := by
    unfold x1
    split
    · exact h
    · refine Keeps.ite ?_ ?_
      · extract_lets -merge -underBinder +onlyGivenNames x2
        have hx2 : Keeps s0 x2 := State.copyBurst_keeps h
        split
        · exact State.endRun_keeps _ hx2
        · exact hx2
      · exact h
  refine State.modChamber_keeps _ _ ?_
  refine Keeps.upd ?_
  exact hx1

theorem State.discardChamber_keeps {s0 : State} {s : State} (k : Fin 4) (h : Keeps s0 s) : Keeps s0 (State.discardChamber s k) := by
  unfold State.discardChamber
  extract_lets -merge -underBinder +onlyGivenNames x1
  extract_lets -merge -underBinder +onlyGivenNames x2
  have hx2 : Keeps s0 x2 := State.modChamber_keeps _ _ (State.cancelCopies_keeps _ h)
  extract_lets -merge -underBinder +onlyGivenNames x3
  have hx3 : Keeps s0 x3 := by
    refine Keeps.foldl (fun _ _ h4 => ?_) ?_
    · exact State.lockAnswer_keeps _ _ _ _ h4
    · exact State.rejectCore_keeps _ _ hx2
  exact State.admitLoops_keeps (State.modChamber_keeps _ _ hx3)

theorem State.readView_keeps {s0 : State} {s : State} (v : Nat) (t : Nat) (off : Nat) (len : Nat) (h : Keeps s0 s) : Keeps s0 (State.readView s v t off len) := by
  unfold State.readView
  refine Keeps.ite ?_ ?_
  · exact h
  · refine Keeps.foldl (fun _ _ h1 => ?_) ?_
    · exact State.readStored_keeps _ _ _ _ h1
    · exact h

theorem State.leaveOpen_keeps {s0 : State} {s : State} (k : Fin 4) (a : LockAsk) (rest : List LockAsk) (h : Keeps s0 s) : Keeps s0 (State.leaveOpen s k a rest) := by
  unfold State.leaveOpen
  extract_lets -merge -underBinder +onlyGivenNames x1
  have hx1 : Keeps s0 x1 := by
    unfold x1
    split
    · refine Keeps.ite ?_ ?_
      · exact State.copyBurst_keeps h
      · exact h
    · exact h
  exact State.modChamber_keeps _ _ hx1

theorem State.startCheck_keeps {s0 : State} {s : State} (k : Fin 4) (h : Keeps s0 s) : Keeps s0 (State.startCheck s k) := by
  unfold State.startCheck
  extract_lets -merge -underBinder +onlyGivenNames x1
  split
  · exact State.modChamber_keeps _ _ h
  · split
    · refine Keeps.ite ?_ ?_
      · exact State.leaveOpen_keeps _ _ _ h
      · exact h
    · exact h
    · extract_lets -merge -underBinder +onlyGivenNames x2
      have hx2 : Keeps s0 x2 := State.modChamber_keeps _ _ h
      split
      · exact State.complete_keeps _ _ _ hx2
      · exact State.ringSend_keeps _ hx2
      · exact State.loopRejected_keeps _ _ _ hx2

end Sys2Proof.Machine
end

