-- ==== Sys2Proof/Laws/KeepsHostRings.lean ====
section
/-! SUPPORT. What the operations of Machine/HostRings.lean keep. -/

set_option Elab.async false

namespace Sys2Proof.Machine

theorem State.mrEnable_keeps {s0 : State} {s : State} (n : Fin 16) (v : Sys2Proof.Word) (h : Keeps s0 s) : Keeps s0 (State.mrEnable s n v) := by
  unfold State.mrEnable
  extract_lets -merge -underBinder +onlyGivenNames x1
  have hx1 : Keeps s0 x1 := State.hostWrite_keeps _ _ h
  refine Keeps.ite ?_ ?_
  · exact hx1
  · extract_lets -merge -underBinder +onlyGivenNames x2
    refine Keeps.ite ?_ ?_
    · refine Keeps.upd ?_
      exact hx1
    · exact State.setField_keeps _ _ _ _ hx1

theorem State.archiveArrives_keeps {s0 : State} {s : State} (h : Keeps s0 s) : Keeps s0 (State.archiveArrives s) := by
  unfold State.archiveArrives
  refine Keeps.ite ?_ ?_
  · extract_lets -merge -underBinder +onlyGivenNames x1
    have hx1 : Keeps s0 x1 := State.draw_keeps h
    refine Keeps.upd ?_
    exact hx1
  · exact h

theorem State.queueCompress_keeps {s0 : State} {s : State} (f : Flight) (h : Keeps s0 s) : Keeps s0 (State.queueCompress s f) := by
  unfold State.queueCompress
  extract_lets -merge -underBinder +onlyGivenNames x1
  have hx1 : Keeps s0 x1 := State.archiveArrives_keeps h
  refine State.waitFlight_keeps _ ?_
  refine Keeps.upd ?_
  exact hx1

theorem State.addXfer_keeps {s0 : State} {s : State} (x : Xfer) (h : Keeps s0 s) : Keeps s0 (State.addXfer s x) := by
  unfold State.addXfer
  refine Keeps.upd ?_
  exact h

theorem State.startXfer_keeps {s0 : State} {s : State} (f : Flight) (h : Keeps s0 s) : Keeps s0 (State.startXfer s f) := by
  unfold State.startXfer
  split
  · exact h
  · exact State.addXfer_keeps _ h

theorem State.resumeFaults_keeps {s0 : State} {s : State} (n : Fin 16) (k : Nat) (h : Keeps s0 s) : Keeps s0 (s.resumeFaults n k) := by
  induction k generalizing s with
  | zero => exact h
  | succ k ih =>
    unfold State.resumeFaults
    split
    · exact h
    · refine Keeps.ite (ih (Keeps.ite ?_ (Keeps.ite ?_ ?_))) h
      · exact State.complete_keeps _ _ _ (State.modFlight_keeps _ _ h)
      · exact State.queueCompress_keeps _ (State.modFlight_keeps _ _ h)
      · exact State.startXfer_keeps _ (State.modFlight_keeps _ _ h)

theorem State.unmask_keeps {s0 : State} {s : State} (v : Fin 64) (h : Keeps s0 s) : Keeps s0 (State.unmask s v) := by
  unfold State.unmask
  extract_lets -merge -underBinder +onlyGivenNames x1
  extract_lets -merge -underBinder +onlyGivenNames z_2 x3
  have hx3 : Keeps s0 x3 := by
    refine Keeps.upd ?_
    exact h
  refine Keeps.ite ?_ ?_
  · exact State.countEvent_keeps _ _ _ (State.emit_keeps _ hx3)
  · exact hx3

theorem State.resumeRing_keeps {s0 : State} {s : State} (n : Fin 16) (h : Keeps s0 s) : Keeps s0 (State.resumeRing s n) := by
  unfold State.resumeRing
  refine Keeps.ite ?_ ?_
  · extract_lets -merge -underBinder +onlyGivenNames z_1 x2
    have hx2 : Keeps s0 x2 := by
      refine Keeps.upd ?_
      exact h
    extract_lets -merge -underBinder +onlyGivenNames z_3 x4
    have hx4 : Keeps s0 x4 := by
      refine Keeps.upd ?_
      exact hx2
    exact State.resumeFaults_keeps _ _ hx4
  · exact h

theorem State.fetchEntry_keeps {s0 : State} {s : State} (n : Fin 16) (w : BitVec 512) (h : Keeps s0 s) : Keeps s0 (State.fetchEntry s n w) := by
  unfold State.fetchEntry
  extract_lets -merge -underBinder +onlyGivenNames x1
  extract_lets -merge -underBinder +onlyGivenNames x2
  extract_lets -merge -underBinder +onlyGivenNames x3
  extract_lets -merge -underBinder +onlyGivenNames x4
  extract_lets -merge -underBinder +onlyGivenNames z_5 x6
  have hx6 : Keeps s0 x6 := ⟨h.pending, h.now, h.draws, h.out, h.wf, fun w => (h.ids w).push x3 rfl⟩
  extract_lets -merge -underBinder +onlyGivenNames x7
  have hx7 : Keeps s0 x7 := State.countEvent_keeps _ _ _ (State.countEvent_keeps _ _ _ (State.emit_keeps _ hx6))
  split
  · exact hx7
  · exact State.complete_keeps _ _ _ hx7

theorem State.mask_keeps {s0 : State} {s : State} (v : Fin 64) (h : Keeps s0 s) : Keeps s0 (State.mask s v) := by
  unfold State.mask
  refine Keeps.upd ?_
  exact h

theorem State.logWrite_keeps {s0 : State} {s : State} (v : Sys2Proof.Word) (h : Keeps s0 s) : Keeps s0 (State.logWrite s v) := by
  unfold State.logWrite
  extract_lets -merge -underBinder +onlyGivenNames x1
  extract_lets -merge -underBinder +onlyGivenNames x2
  have hx2 : Keeps s0 x2 := State.hostWrite_keeps _ _ h
  refine Keeps.ite ?_ ?_
  · refine Keeps.ite ?_ ?_
    · refine Keeps.upd ?_
      exact hx2
    · exact State.setField_keeps _ _ _ _ hx2
  · exact hx2

theorem execLogEnableWrite_keeps {s0 : State} (value : Sys2Proof.Word) {s : State} (h : Keeps s0 s) : OKeeps s0 (execLogEnableWrite value s) := by
  unfold execLogEnableWrite
  refine OKeeps.next ?_
  refine State.onWrite_keeps _ _ (fun _ h1 => ?_) ?_
  · exact State.logWrite_keeps _ h1
  · exact h

theorem execManifestFetch_keeps {s0 : State} (ring : Fin 16) (entry : BitVec 512) {s : State} (h : Keeps s0 s) : OKeeps s0 (execManifestFetch ring entry s) := by
  unfold execManifestFetch
  refine OKeeps.next ?_
  refine Keeps.ite ?_ ?_
  · exact State.fetchEntry_keeps _ _ h
  · exact h

theorem execCoalTimerExpiry_keeps {s0 : State} (ring : Option (Fin 8)) {s : State} (h : Keeps s0 s) : OKeeps s0 (execCoalTimerExpiry ring s) := by
  unfold execCoalTimerExpiry
  refine OKeeps.next ?_
  split
  · refine Keeps.ite ?_ ?_
    · exact State.signalCr_keeps _ h
    · exact h
  · refine Keeps.ite ?_ ?_
    · exact State.signalLog_keeps h
    · exact h

theorem execDblMctrlResume_keeps {s0 : State} (ring : Fin 16) {s : State} (h : Keeps s0 s) : OKeeps s0 (execDblMctrlResume ring s) := by
  unfold execDblMctrlResume
  refine OKeeps.next ?_
  refine State.onWrite_keeps _ _ (fun _ h1 => ?_) ?_
  · exact State.resumeRing_keeps _ h1
  · exact h

theorem State.drainRing_keeps {s0 : State} {s : State} (n : Fin 16) (h : Keeps s0 s) : Keeps s0 (State.drainRing s n) := by
  unfold State.drainRing
  refine Keeps.ite ?_ ?_
  · exact h
  · refine Keeps.upd ?_
    exact h

theorem State.abortRing_keeps {s0 : State} {s : State} (n : Fin 16) (h : Keeps s0 s) : Keeps s0 (State.abortRing s n) := by
  unfold State.abortRing
  extract_lets -merge -underBinder +onlyGivenNames x1
  extract_lets -merge -underBinder +onlyGivenNames x2
  extract_lets -merge -underBinder +onlyGivenNames x3
  have hx3 : Keeps s0 x3 := State.completeAll_keeps _ _ h
  refine Keeps.upd ?_
  exact hx3

theorem State.mrDisable_keeps {s0 : State} {s : State} (n : Fin 16) (v : Sys2Proof.Word) (h : Keeps s0 s) : Keeps s0 (State.mrDisable s n v) := by
  unfold State.mrDisable
  extract_lets -merge -underBinder +onlyGivenNames x1
  have hx1 : Keeps s0 x1 := State.hostWrite_keeps _ _ h
  extract_lets -merge -underBinder +onlyGivenNames z_2 x3
  have hx3 : Keeps s0 x3 := by
    refine Keeps.upd ?_
    exact hx1
  exact State.drainRing_keeps _ (State.abortRing_keeps _ hx3)

theorem State.ringError_keeps {s0 : State} {s : State} (ring : Nat) (kind : Nat) (h : Keeps s0 s) : Keeps s0 (State.ringError s ring kind) := by
  unfold State.ringError
  exact State.log_keeps _ _ _ _ h

theorem State.writeHead_keeps {s0 : State} {s : State} (m : Fin 8) (head : BitVec 16) (h : Keeps s0 s) : Keeps s0 (State.writeHead s m head) := by
  unfold State.writeHead
  refine Keeps.ite ?_ ?_
  · extract_lets -merge -underBinder +onlyGivenNames z_1 x2
    have hx2 : Keeps s0 x2 := by
      refine Keeps.upd ?_
      exact h
    refine Keeps.foldl (fun _ _ h3 => ?_) ?_
    · refine Keeps.ite ?_ ?_
      · exact State.resumeFaults_keeps _ _ h3
      · exact h3
    · exact hx2
  · exact State.ringError_keeps _ _ h

theorem execDblCheadWrite_keeps {s0 : State} (ring : Fin 8) (head : BitVec 16) {s : State} (h : Keeps s0 s) : OKeeps s0 (execDblCheadWrite ring head s) := by
  unfold execDblCheadWrite
  refine OKeeps.next ?_
  refine State.onWrite_keeps _ _ (fun _ h1 => ?_) ?_
  · exact State.writeHead_keeps _ _ h1
  · exact h

theorem State.writeVector_keeps {s0 : State} {s : State} (v : Fin 64) (dword : Nat) (x : Sys2Proof.Word) (h : Keeps s0 s) : Keeps s0 (State.writeVector s v dword x) := by
  unfold State.writeVector
  extract_lets -merge -underBinder +onlyGivenNames x1
  split
  · refine Keeps.upd ?_
    exact h
  · refine Keeps.upd ?_
    exact h
  · refine Keeps.upd ?_
    exact h
  · refine Keeps.ite ?_ ?_
    · exact State.mask_keeps _ h
    · exact State.unmask_keeps _ h

theorem execMrDrained_keeps {s0 : State} (ring : Fin 16) {s : State} (h : Keeps s0 s) : OKeeps s0 (execMrDrained ring s) := by
  unfold execMrDrained
  refine OKeeps.next ?_
  exact State.drainRing_keeps _ h

theorem execMrEnableWrite_keeps {s0 : State} (ring : Fin 16) (value : Sys2Proof.Word) {s : State} (h : Keeps s0 s) : OKeeps s0 (execMrEnableWrite ring value s) := by
  unfold execMrEnableWrite
  refine OKeeps.next ?_
  refine State.onWrite_keeps _ _ (fun _ h1 => ?_) ?_
  · exact State.mrEnable_keeps _ _ h1
  · exact h

theorem execManifestReadFail_keeps {s0 : State} (ring : Fin 16) {s : State} (h : Keeps s0 s) : OKeeps s0 (execManifestReadFail ring s) := by
  unfold execManifestReadFail
  refine OKeeps.next ?_
  refine Keeps.ite ?_ ?_
  · refine State.ringError_keeps _ _ ?_
    refine Keeps.upd ?_
    exact h
  · exact h

theorem execMsixUnmask_keeps {s0 : State} (write : Sys2Proof.TableWrite) {s : State} (h : Keeps s0 s) : OKeeps s0 (execMsixUnmask write s) := by
  unfold execMsixUnmask
  refine OKeeps.next ?_
  extract_lets -merge -underBinder +onlyGivenNames x1
  refine Keeps.ite ?_ ?_
  · exact h
  · refine Keeps.ite ?_ ?_
    · exact State.discardWrite_keeps h
    · refine Keeps.ite ?_ ?_
      · exact State.writeVector_keeps _ _ _ h
      · exact h

theorem State.writeLogHead_keeps {s0 : State} {s : State} (head : BitVec 16) (h : Keeps s0 s) : Keeps s0 (State.writeLogHead s head) := by
  unfold State.writeLogHead
  refine Keeps.ite ?_ ?_
  · refine Keeps.upd ?_
    exact h
  · exact State.ringError_keeps _ _ h

theorem State.crWrite_keeps {s0 : State} {s : State} (m : Fin 8) (v : Sys2Proof.Word) (h : Keeps s0 s) : Keeps s0 (State.crWrite s m v) := by
  unfold State.crWrite
  extract_lets -merge -underBinder +onlyGivenNames x1
  extract_lets -merge -underBinder +onlyGivenNames x2
  have hx2 : Keeps s0 x2 := State.hostWrite_keeps _ _ h
  refine Keeps.ite ?_ ?_
  · refine Keeps.ite ?_ ?_
    · refine Keeps.upd ?_
      exact hx2
    · exact State.setField_keeps _ _ _ _ hx2
  · refine Keeps.ite ?_ ?_
    · exact State.setField_keeps _ _ _ _ hx2
    · exact hx2

theorem execCrEnableWrite_keeps {s0 : State} (ring : Fin 8) (value : Sys2Proof.Word) {s : State} (h : Keeps s0 s) : OKeeps s0 (execCrEnableWrite ring value s) := by
  unfold execCrEnableWrite
  refine OKeeps.next ?_
  refine State.onWrite_keeps _ _ (fun _ h1 => ?_) ?_
  · exact State.crWrite_keeps _ _ h1
  · exact h

theorem State.writeTail_keeps {s0 : State} {s : State} (n : Fin 16) (tail : BitVec 16) (h : Keeps s0 s) : Keeps s0 (State.writeTail s n tail) := by
  unfold State.writeTail
  refine Keeps.ite ?_ ?_
  · refine Keeps.upd ?_
    exact h
  · exact State.ringError_keeps _ _ h

theorem execNop_keeps {s0 : State} (ring : Fin 16) {s : State} (h : Keeps s0 s) : OKeeps s0 (execNop ring s) := by
  unfold execNop
  refine OKeeps.next ?_
  refine State.withEntry_keeps _ _ (fun _ _ h1 => ?_) ?_
  · exact State.complete_keeps _ _ _ h1
  · exact h

theorem execMrDisableWrite_keeps {s0 : State} (ring : Fin 16) (value : Sys2Proof.Word) {s : State} (h : Keeps s0 s) : OKeeps s0 (execMrDisableWrite ring value s) := by
  unfold execMrDisableWrite
  refine OKeeps.next ?_
  refine State.onWrite_keeps _ _ (fun _ h1 => ?_) ?_
  · exact State.mrDisable_keeps _ _ h1
  · exact h

theorem execDblLheadWrite_keeps {s0 : State} (head : BitVec 16) {s : State} (h : Keeps s0 s) : OKeeps s0 (execDblLheadWrite head s) := by
  unfold execDblLheadWrite
  refine OKeeps.next ?_
  refine State.onWrite_keeps _ _ (fun _ h1 => ?_) ?_
  · exact State.writeLogHead_keeps _ h1
  · exact h

theorem execDblMtailWrite_keeps {s0 : State} (ring : Fin 16) (tail : BitVec 16) {s : State} (h : Keeps s0 s) : OKeeps s0 (execDblMtailWrite ring tail s) := by
  unfold execDblMtailWrite
  refine OKeeps.next ?_
  refine State.onWrite_keeps _ _ (fun _ h1 => ?_) ?_
  · exact State.writeTail_keeps _ _ h1
  · exact h

theorem execLostRecordWrite_keeps {s0 : State} {s : State} (h : Keeps s0 s) : OKeeps s0 (execLostRecordWrite s) := by
  unfold execLostRecordWrite
  refine OKeeps.next ?_
  exact State.putLost_keeps h

end Sys2Proof.Machine
end

