-- ==== Sys2Proof/Laws/KeepsCounters.lean ====
section
/-! SUPPORT. What the operations of Machine/Counters.lean keep. -/

set_option Elab.async false

namespace Sys2Proof.Machine

theorem State.takeSnapshot_keeps {s0 : State} {s : State} (h : Keeps s0 s) : Keeps s0 (State.takeSnapshot s) := by
  unfold State.takeSnapshot
  refine Keeps.upd ?_
  exact h

theorem execCounterRead_keeps {s0 : State} (ring : Fin 16) {s : State} (h : Keeps s0 s) : OKeeps s0 (execCounterRead ring s) := by
  unfold execCounterRead
  refine OKeeps.next ?_
  refine State.withEntryAt_keeps _ _ _ (fun _ _ h1 => ?_) ?_
  · refine Keeps.upd ?_
    exact h1
  · exact h

theorem execPmcWinWrite_keeps {s0 : State} (ns : BitVec 30) {s : State} (h : Keeps s0 s) : OKeeps s0 (execPmcWinWrite ns s) := by
  unfold execPmcWinWrite
  refine OKeeps.next ?_
  refine Keeps.ite ?_ ?_
  · refine Keeps.upd ?_
    exact h
  · exact h

theorem State.coreEvents_keeps {s0 : State} {s : State} (k : Fin 64) (h : Keeps s0 s) : Keeps s0 (State.coreEvents s k) := by
  unfold State.coreEvents
  refine Keeps.ite ?_ ?_
  · extract_lets -merge -underBinder +onlyGivenNames x1
    exact State.raiseCounter_keeps _ _ (State.draw_keeps h)
  · exact h

theorem State.closeCounter_keeps {s0 : State} {s : State} (k : Fin 64) (h : Keeps s0 s) : Keeps s0 (State.closeCounter s k) := by
  unfold State.closeCounter
  split
  · refine Keeps.upd ?_
    exact h
  · refine Keeps.upd ?_
    exact h
  · exact State.raiseCounter_keeps _ _ h
  · exact h

theorem State.closeWindow_keeps {s0 : State} {s : State} (h : Keeps s0 s) : Keeps s0 (State.closeWindow s) := by
  unfold State.closeWindow
  extract_lets -merge -underBinder +onlyGivenNames x1
  have hx1 : Keeps s0 x1 := by
    refine Keeps.ite ?_ ?_
    · exact h
    · refine Keeps.foldl (fun _ _ h2 => ?_) ?_
      · exact State.closeCounter_keeps _ h2
      · exact h
  refine Keeps.upd ?_
  exact hx1

theorem execPmcWindowClose_keeps {s0 : State} {s : State} (h : Keeps s0 s) : OKeeps s0 (execPmcWindowClose s) := by
  unfold execPmcWindowClose
  refine OKeeps.next ?_
  refine Keeps.ite ?_ ?_
  · exact State.closeWindow_keeps h
  · exact h

theorem State.carryCounts_keeps {s0 : State} {s : State} (h : Keeps s0 s) : Keeps s0 (State.carryCounts s) := by
  unfold State.carryCounts
  refine Keeps.ite ?_ ?_
  · exact h
  · extract_lets -merge -underBinder +onlyGivenNames z_1 x2
    have hx2 : Keeps s0 x2 := by
      refine State.countEvent_keeps _ _ _ ?_
      refine Keeps.upd ?_
      exact h
    refine Keeps.foldl (fun _ _ h3 => ?_) ?_
    · exact State.coreEvents_keeps _ h3
    · exact hx2

theorem State.serveSnapshot_keeps {s0 : State} {s : State} (h : Keeps s0 s) : Keeps s0 (State.serveSnapshot s) := by
  unfold State.serveSnapshot
  split
  · exact h
  · extract_lets -merge -underBinder +onlyGivenNames z_1 z_2 x3
    have hx3 : Keeps s0 x3 := by
      refine State.takeSnapshot_keeps ?_
      have hz_1 : Keeps s0 z_1 := State.carryCounts_keeps h
      refine Keeps.upd ?_
      exact hz_1
    split
    · exact hx3
    · split
      · exact hx3
      · extract_lets -merge -underBinder +onlyGivenNames x4
        exact State.complete_keeps _ _ _ (State.countEvent_keeps _ _ _ (State.emit_keeps _ hx3))

theorem execPmcSnapshot_keeps {s0 : State} {s : State} (h : Keeps s0 s) : OKeeps s0 (execPmcSnapshot s) := by
  unfold execPmcSnapshot
  refine OKeeps.next ?_
  refine Keeps.ite ?_ ?_
  · exact State.serveSnapshot_keeps h
  · exact h

theorem execPmcSnapWrite_keeps {s0 : State} {s : State} (h : Keeps s0 s) : OKeeps s0 (execPmcSnapWrite s) := by
  unfold execPmcSnapWrite
  refine OKeeps.next ?_
  refine Keeps.ite ?_ ?_
  · refine Keeps.upd ?_
    exact h
  · exact h

theorem execPmcFreezeWrite_keeps {s0 : State} (freeze : Bool) {s : State} (h : Keeps s0 s) : OKeeps s0 (execPmcFreezeWrite freeze s) := by
  unfold execPmcFreezeWrite
  refine OKeeps.next ?_
  refine Keeps.ite ?_ ?_
  · extract_lets -merge -underBinder +onlyGivenNames x1
    have hx1 : Keeps s0 x1 := State.carryCounts_keeps h
    refine Keeps.upd ?_
    exact hx1
  · exact h

theorem State.loadStandard_keeps {s0 : State} {s : State} (h : Keeps s0 s) : Keeps s0 (State.loadStandard s) := by
  unfold State.loadStandard
  refine Keeps.upd ?_
  exact h

theorem execPmcCounterWrite_keeps {s0 : State} (k : Fin 64) (high : Bool) (value : Sys2Proof.Word) {s : State} (h : Keeps s0 s) : OKeeps s0 (execPmcCounterWrite k high value s) := by
  unfold execPmcCounterWrite
  refine OKeeps.next ?_
  refine Keeps.ite ?_ ?_
  · refine Keeps.ite ?_ ?_
    · refine Keeps.upd ?_
      exact h
    · extract_lets -merge -underBinder +onlyGivenNames x1
      have hx1 : Keeps s0 x1 := State.carryCounts_keeps h
      refine Keeps.upd ?_
      exact hx1
  · exact h

end Sys2Proof.Machine
end

