-- ==== Sys2Proof/Laws/KeepsThermalOps.lean ====
section
/-! SUPPORT. What the operations of Machine/ThermalOps.lean keep. -/

set_option Elab.async false

namespace Sys2Proof.Machine

theorem State.thermalRecord_keeps {s0 : State} {s : State} (level : Nat) (sensor : Fin 12) (h : Keeps s0 s) : Keeps s0 (State.thermalRecord s level sensor) := by
  unfold State.thermalRecord
  exact State.log_keeps _ _ _ _ h

theorem State.followLevel_keeps {s0 : State} {s : State} (h : Keeps s0 s) : Keeps s0 (State.followLevel s) := by
  unfold State.followLevel
  refine Keeps.upd ?_
  exact h

theorem State.enterLevel_keeps {s0 : State} {s : State} (l : ThermalLevel) (h : Keeps s0 s) : Keeps s0 (State.enterLevel s l) := by
  unfold State.enterLevel
  extract_lets -merge -underBinder +onlyGivenNames x1
  extract_lets -merge -underBinder +onlyGivenNames x2
  extract_lets -merge -underBinder +onlyGivenNames x3
  refine State.thermalRecord_keeps _ _ ?_
  refine State.followLevel_keeps ?_
  refine Keeps.upd ?_
  exact h

theorem State.moveLevel_keeps {s0 : State} {s : State} (h : Keeps s0 s) : Keeps s0 (State.moveLevel s) := by
  unfold State.moveLevel
  extract_lets -merge -underBinder +onlyGivenNames x1
  split
  · extract_lets -merge -underBinder +onlyGivenNames x2
    have hx2 : Keeps s0 x2 := by
      refine Keeps.ite ?_ ?_
      · exact State.enterLevel_keeps _ h
      · exact h
    refine Keeps.ite ?_ ?_
    · exact State.enterLevel_keeps _ hx2
    · exact hx2
  · refine Keeps.ite ?_ ?_
    · exact State.enterLevel_keeps _ h
    · refine Keeps.ite ?_ ?_
      · exact State.enterLevel_keeps _ h
      · exact h
  · refine Keeps.ite ?_ ?_
    · exact h
    · refine Keeps.ite ?_ ?_
      · exact State.enterLevel_keeps _ h
      · refine Keeps.ite ?_ ?_
        · exact State.enterLevel_keeps _ h
        · exact h

theorem State.recordFaults_keeps {s0 : State} {s : State} (old : Vector Sensor 12) (h : Keeps s0 s) : Keeps s0 (State.recordFaults s old) := by
  unfold State.recordFaults
  refine Keeps.foldl (fun _ _ h1 => ?_) ?_
  · refine Keeps.ite ?_ ?_
    · refine State.thermalRecord_keeps _ _ ?_
      refine Keeps.upd ?_
      exact h1
    · exact h1
  · exact h

theorem State.beginHold_keeps {s0 : State} {s : State} (h : Keeps s0 s) : Keeps s0 (State.beginHold s) := by
  unfold State.beginHold
  refine Keeps.ite ?_ ?_
  · exact h
  · extract_lets -merge -underBinder +onlyGivenNames z_1 x2
    have hx2 : Keeps s0 x2 := by
      refine Keeps.upd ?_
      exact h
    refine Keeps.ite ?_ ?_
    · exact hx2
    · exact State.enterLevel_keeps _ hx2

theorem State.appendHistory_keeps {s0 : State} {s : State} (h : Keeps s0 s) : Keeps s0 (State.appendHistory s) := by
  unfold State.appendHistory
  extract_lets -merge -underBinder +onlyGivenNames x1
  extract_lets -merge -underBinder +onlyGivenNames z_2 x3
  extract_lets -merge -underBinder +onlyGivenNames x4
  have hx4 : Keeps s0 x4 := by
    refine Keeps.upd ?_
    exact h
  refine Keeps.ite ?_ ?_
  · exact hx4
  · refine Keeps.ite ?_ ?_
    · extract_lets -merge -underBinder +onlyGivenNames z_5 x6
      have hx6 : Keeps s0 x6 := by
        refine State.thermalRecord_keeps _ _ ?_
        refine Keeps.upd ?_
        exact hx4
      refine Keeps.ite ?_ ?_
      · exact State.beginHold_keeps hx6
      · exact hx6
    · refine Keeps.upd ?_
      exact hx4

end Sys2Proof.Machine
end

