-- ==== Sys2Proof/Laws/KeepsResets.lean ====
section
/-! SUPPORT. What the operations of Machine/Resets.lean keep. -/

set_option Elab.async false

namespace Sys2Proof.Machine

theorem State.abandonSwap_keeps {s0 : State} {s : State} (h : Keeps s0 s) : Keeps s0 (State.abandonSwap s) := by
  unfold State.abandonSwap
  split
  · refine State.complete_keeps _ _ _ ?_
    refine Keeps.upd ?_
    exact h
  · exact h

theorem State.failTwin_keeps {s0 : State} {s : State} (cause : Nat) (h : Keeps s0 s) : Keeps s0 (State.failTwin s cause) := by
  unfold State.failTwin
  refine Keeps.ite ?_ ?_
  · exact h
  · extract_lets -merge -underBinder +onlyGivenNames x1
    have hx1 : Keeps s0 x1 := State.abandonSwap_keeps h
    refine State.twinSend_keeps _ ?_
    refine Keeps.upd ?_
    exact hx1

theorem State.dropHeld_keeps {s0 : State} {s : State} (b : Blk) (h : Keeps s0 s) : Keeps s0 (State.dropHeld s b) := by
  unfold State.dropHeld
  exact State.cutAccesses_keeps _ h

theorem State.rejectTouched_keeps {s0 : State} {s : State} (b : Blk) (h : Keeps s0 s) : Keeps s0 (State.rejectTouched s b) := by
  unfold State.rejectTouched
  refine Keeps.foldl (fun _ _ h1 => ?_) ?_
  · extract_lets -merge -underBinder +onlyGivenNames x2
    refine Keeps.ite ?_ ?_
    · exact State.rejectChamber_keeps _ _ h1
    · exact h1
  · exact h

theorem State.cutEntries_keeps {s0 : State} {s : State} (b : Blk) (h : Keeps s0 s) : Keeps s0 (State.cutEntries s b) := by
  unfold State.cutEntries
  extract_lets -merge -underBinder +onlyGivenNames x1
  extract_lets -merge -underBinder +onlyGivenNames x2
  exact State.dropXfers_keeps _ (State.completeAll_keeps _ _ h)

theorem State.clearRegs_keeps {s0 s : State} (lo hi : Nat) (keep : Nat → Bool) (h : Keeps s0 s) : Keeps s0 (s.clearRegs lo hi keep) :=
  ⟨h.pending, h.now, h.draws, h.out, fun w => ⟨RegFile.wf_filter _ (h.wf w).1, (h.wf w).2.1, (h.wf w).2.2.1, RegFile.wf_filter _ (h.wf w).2.2.2⟩, h.ids⟩

theorem State.openGate_keeps {s0 : State} {s : State} (n : Fin 32) (h : Keeps s0 s) : Keeps s0 (State.openGate s n) := by
  unfold State.openGate
  refine Keeps.upd ?_
  exact h

theorem State.copyEvent_keeps {s0 : State} {s : State} (r : CopyReq) (ok : Bool) (h : Keeps s0 s) : Keeps s0 (State.copyEvent s r ok) := by
  unfold State.copyEvent
  extract_lets -merge -underBinder +onlyGivenNames x1
  refine Keeps.ite ?_ ?_
  · exact State.modChamber_keeps _ _ h
  · refine Keeps.ite ?_ ?_
    · exact State.openGate_keeps _ h
    · exact h

theorem State.clearTables_keeps {s0 : State} {s : State} (gone : Nat → Bool) (h : Keeps s0 s) : Keeps s0 (State.clearTables s gone) := by
  unfold State.clearTables
  exact State.eraseBytes_keeps _ h

theorem State.openRestore_keeps {s0 : State} {s : State} (tables : List Nat) (h : Keeps s0 s) : Keeps s0 (State.openRestore s tables) := by
  unfold State.openRestore
  extract_lets -merge -underBinder +onlyGivenNames x1
  have hx1 : Keeps s0 x1 := State.assertCause_keeps _ _ h
  extract_lets -merge -underBinder +onlyGivenNames x2
  refine Keeps.ite ?_ ?_
  · exact hx1
  · refine Keeps.upd ?_
    exact hx1

theorem State.resetLink_keeps {s0 : State} {s : State} (n : Fin 32) (f : Link → Link) (h : Keeps s0 s) : Keeps s0 (State.resetLink s n f) := by
  unfold State.resetLink
  exact State.modLink_keeps _ _ (State.disableLink_keeps _ (State.cutAccesses_keeps _ h))

theorem State.resetBlk_keeps {s0 : State} {s : State} (b : Blk) (wide : Bool) (h : Keeps s0 s) : Keeps s0 (State.resetBlk s b wide) := by
  unfold State.resetBlk
  extract_lets -merge -underBinder +onlyGivenNames x1
  have hx1 : Keeps s0 x1 := State.dropHeld_keeps _ (State.rejectTouched_keeps _ (State.cutEntries_keeps _ (State.stickCopy_keeps _ h)))
  clear_value x1
  split
  · refine State.clearRegs_keeps _ _ _ ?_
    refine Keeps.upd ?_
    exact hx1
  · exact State.clearRegs_keeps _ _ _ hx1
  · refine State.clearRegs_keeps _ _ _ ?_
    refine State.followLevel_keeps ?_
    refine Keeps.upd ?_
    exact hx1
  · refine State.clearRegs_keeps _ _ _ ?_
    exact Keeps.upd (State.resetGpios_keeps hx1)
  · refine State.clearRegs_keeps _ _ _ ?_
    refine Keeps.upd ?_
    exact hx1
  · extract_lets -merge -underBinder +onlyGivenNames x2
    refine State.clearRegs_keeps _ _ _ ?_
    exact ⟨hx1.pending, hx1.now, hx1.draws, hx1.out, hx1.wf, fun _ => ⟨.nil, fun _ hf => nomatch hf⟩⟩
  · refine State.clearRegs_keeps _ _ _ ?_
    refine Keeps.upd ?_
    exact hx1
  · refine Keeps.upd ?_
    exact hx1
  · refine State.clearRegs_keeps _ _ _ ?_
    refine State.followLevel_keeps ?_
    refine Keeps.ite ?_ ?_
    · extract_lets -merge -underBinder +onlyGivenNames x3
      have hx3 : Keeps s0 x3 := State.loseDram_keeps hx1
      refine Keeps.upd ?_
      exact hx3
    · refine Keeps.upd ?_
      exact hx1
  · refine State.clearRegs_keeps _ _ _ ?_
    refine Keeps.upd ?_
    exact hx1
  · extract_lets -merge -underBinder +onlyGivenNames x4
    refine State.clearRegs_keeps _ _ _ ?_
    refine Keeps.foldl (fun _ _ h5 => ?_) ?_
    · exact State.copyEvent_keeps _ _ h5
    · refine Keeps.upd ?_
      exact hx1
  · refine State.clearRegs_keeps _ _ _ ?_
    refine Keeps.upd ?_
    exact hx1
  · refine State.clearRegs_keeps _ _ _ ?_
    refine State.clearTables_keeps _ ?_
    extract_lets -merge -underBinder +onlyGivenNames x6
    have hx6 : Keeps s0 x6 := State.openRestore_keeps _ hx1
    refine Keeps.upd ?_
    exact hx6
  · refine State.clearRegs_keeps _ _ _ ?_
    refine State.clearTables_keeps _ ?_
    extract_lets -merge -underBinder +onlyGivenNames x7
    have hx7 : Keeps s0 x7 := State.openRestore_keeps _ hx1
    refine Keeps.upd ?_
    exact hx7
  · refine State.clearRegs_keeps _ _ _ ?_
    refine Keeps.foldl (fun _ _ h8 => ?_) ?_
    · exact State.resetLink_keeps _ _ h8
    · exact hx1
  · refine Keeps.upd ?_
    exact hx1
  · refine State.clearRegs_keeps _ _ _ ?_
    refine Keeps.upd ?_
    exact hx1
  · refine State.clearRegs_keeps _ _ _ ?_
    refine Keeps.upd ?_
    exact hx1
  · refine State.clearRegs_keeps _ _ _ ?_
    refine Keeps.upd ?_
    exact hx1
  · refine State.clearRegs_keeps _ _ _ ?_
    refine State.clearTables_keeps _ ?_
    refine Keeps.upd ?_
    exact hx1
  · refine State.clearRegs_keeps _ _ _ ?_
    exact Keeps.upd (State.resetTrigs_keeps hx1)

theorem State.noteCause_keeps {s0 : State} {s : State} (bit : Nat) (h : Keeps s0 s) : Keeps s0 (State.noteCause s bit) := by
  unfold State.noteCause
  refine Keeps.upd ?_
  exact h

theorem State.followPerst_keeps {s0 : State} {s : State} (h : Keeps s0 s) : Keeps s0 (State.followPerst s) := by
  unfold State.followPerst
  extract_lets -merge -underBinder +onlyGivenNames x1
  have hx1 : Keeps s0 x1 := by
    refine Keeps.ite ?_ ?_
    · exact State.noteCause_keeps _ h
    · exact h
  refine Keeps.upd ?_
  exact hx1

theorem State.resetAon_keeps {s0 s : State} (h : Keeps s0 s) : Keeps s0 s.resetAon := by
  have hx := State.followPerst_keeps h
  exact ⟨hx.pending, hx.now, hx.draws, hx.out,
    fun w => ⟨RegFile.wf_filter _ (hx.wf w).1, (hx.wf w).2.1, (hx.wf w).2.2.1, RegFile.wf_filter _ (hx.wf w).2.2.2⟩, hx.ids⟩

theorem State.setReleased_keeps {s0 : State} {s : State} (d : Domain) (n : Nat) (h : Keeps s0 s) : Keeps s0 (State.setReleased s d n) := by
  unfold State.setReleased
  split
  · exact h
  · refine Keeps.upd ?_
    exact h
  · refine Keeps.upd ?_
    exact h
  · refine Keeps.upd ?_
    exact h

theorem State.loseDomain_keeps {s0 : State} {s : State} (d : Domain) (h : Keeps s0 s) : Keeps s0 (State.loseDomain s d) := by
  unfold State.loseDomain
  extract_lets -merge -underBinder +onlyGivenNames x1
  extract_lets -merge -underBinder +onlyGivenNames x2
  have hx2 : Keeps s0 x2 := by
    refine Keeps.ite ?_ ?_
    · exact State.failTwin_keeps _ h
    · exact h
  extract_lets -merge -underBinder +onlyGivenNames x3
  have hx3 : Keeps s0 x3 := by
    refine Keeps.foldl (fun _ _ h4 => ?_) ?_
    · exact State.resetBlk_keeps _ _ h4
    · exact hx2
  extract_lets -merge -underBinder +onlyGivenNames x5
  have hx5 : Keeps s0 x5 := by
    refine Keeps.ite ?_ ?_
    · exact State.resetAon_keeps hx3
    · exact hx3
  exact State.setReleased_keeps _ _ hx5

theorem State.loseWide_keeps {s0 : State} {s : State} (h : Keeps s0 s) : Keeps s0 (State.loseWide s) := by
  unfold State.loseWide
  refine Keeps.ite ?_ ?_
  · exact h
  · refine State.clearRegs_keeps _ _ _ ?_
    extract_lets -merge -underBinder +onlyGivenNames x1
    have hx1 : Keeps s0 x1 := State.loseDram_keeps h
    refine Keeps.upd ?_
    exact hx1

theorem State.setDomain_keeps {s0 : State} {s : State} (d : Domain) (u : UnitState) (h : Keeps s0 s) : Keeps s0 (State.setDomain s d u) := by
  unfold State.setDomain
  split
  · refine Keeps.upd ?_
    exact h
  · refine Keeps.upd ?_
    exact h
  · refine Keeps.upd ?_
    exact h
  · refine Keeps.upd ?_
    exact h

theorem State.settleDomain_keeps {s0 : State} {s : State} (d : Domain) (h : Keeps s0 s) : Keeps s0 (State.settleDomain s d) := by
  unfold State.settleDomain
  extract_lets -merge -underBinder +onlyGivenNames x1
  extract_lets -merge -underBinder +onlyGivenNames x2
  refine Keeps.ite ?_ ?_
  · exact h
  · refine Keeps.ite ?_ ?_
    · exact State.setDomain_keeps _ _ (State.loseDomain_keeps _ h)
    · exact State.setDomain_keeps _ _ h

theorem State.targetsFromGains_keeps {s0 : State} {s : State} (h : Keeps s0 s) : Keeps s0 (State.targetsFromGains s) := by
  unfold State.targetsFromGains
  refine Keeps.foldl (fun _ _ h1 => ?_) ?_
  · refine Keeps.ite ?_ ?_
    · exact State.writeTable_keeps _ _ _ h1
    · exact h1
  · exact h

theorem State.restartBoot_keeps {s0 : State} {s : State} (h : Keeps s0 s) : Keeps s0 (State.restartBoot s) := by
  unfold State.restartBoot
  refine Keeps.ite ?_ ?_
  · extract_lets -merge -underBinder +onlyGivenNames x1
    have hx1 : Keeps s0 x1 := State.loseWide_keeps h
    extract_lets -merge -underBinder +onlyGivenNames x2
    have hx2 : Keeps s0 x2 := by
      refine Keeps.ite ?_ ?_
      · exact State.pullBalls_keeps hx1
      · exact hx1
    extract_lets -merge -underBinder +onlyGivenNames x3
    extract_lets -merge -underBinder +onlyGivenNames x4
    extract_lets -merge -underBinder +onlyGivenNames x5
    refine Keeps.upd ?_
    exact hx2
  · exact h

theorem State.releaseBlk_keeps {s0 : State} {s : State} (b : Blk) (h : Keeps s0 s) : Keeps s0 (State.releaseBlk s b) := by
  unfold State.releaseBlk
  split
  · exact State.setField_keeps _ _ _ _ h
  · refine Keeps.upd ?_
    exact h
  · refine Keeps.upd ?_
    exact h
  · refine Keeps.foldl (fun _ _ h1 => ?_) ?_
    · exact State.bringUp_keeps _ (State.setField_keeps _ _ _ _ h1)
    · exact h
  · refine Keeps.upd ?_
    exact h
  · exact State.targetsFromGains_keeps h
  · exact State.realignFir_keeps h
  · exact h
  · exact h
  · exact h
  · exact h
  · exact h
  · exact h
  · exact h
  · exact h
  · exact h
  · exact h
  · exact h
  · exact h
  · exact h
  · exact h

theorem State.putLink_keeps {s0 : State} {s : State} (n : Fin 32) (u : UnitState) (h : Keeps s0 s) : Keeps s0 (State.putLink s n u) := by
  unfold State.putLink
  refine Keeps.upd ?_
  exact h

theorem State.bootFail_keeps {s0 : State} {s : State} (code : Nat) (h : Keeps s0 s) : Keeps s0 (State.bootFail s code) := by
  unfold State.bootFail
  refine Keeps.upd ?_
  exact h

theorem State.putHeld_keeps {s0 : State} {s : State} (k : Fin 13) (u : UnitState) (h : Keeps s0 s) : Keeps s0 (State.putHeld s k u) := by
  unfold State.putHeld
  refine Keeps.upd ?_
  exact h

theorem State.settleBlock_keeps {s0 : State} {s : State} (k : Fin 13) (h : Keeps s0 s) : Keeps s0 (State.settleBlock s k) := by
  unfold State.settleBlock
  extract_lets -merge -underBinder +onlyGivenNames x1
  extract_lets -merge -underBinder +onlyGivenNames x2
  refine Keeps.ite ?_ ?_
  · extract_lets -merge -underBinder +onlyGivenNames x3
    refine Keeps.ite ?_ ?_
    · exact h
    · exact State.putHeld_keeps _ _ h
  · extract_lets -merge -underBinder +onlyGivenNames x4
    refine Keeps.ite ?_ ?_
    · exact h
    · refine Keeps.ite ?_ ?_
      · exact State.putHeld_keeps _ _ (State.resetBlk_keeps _ _ h)
      · exact State.putHeld_keeps _ _ h

theorem State.settleLink_keeps {s0 : State} {s : State} (n : Fin 32) (h : Keeps s0 s) : Keeps s0 (State.settleLink s n) := by
  unfold State.settleLink
  extract_lets -merge -underBinder +onlyGivenNames x1
  refine Keeps.ite ?_ ?_
  · extract_lets -merge -underBinder +onlyGivenNames x2
    refine Keeps.ite ?_ ?_
    · exact h
    · exact State.putLink_keeps _ _ h
  · extract_lets -merge -underBinder +onlyGivenNames x3
    refine Keeps.ite ?_ ?_
    · exact h
    · refine Keeps.ite ?_ ?_
      · refine Keeps.ite ?_ ?_
        · extract_lets -merge -underBinder +onlyGivenNames x4
          extract_lets -merge -underBinder +onlyGivenNames x5
          have hx5 : Keeps s0 x5 := by
            refine Keeps.ite ?_ ?_
            · exact h
            · exact State.log_keeps _ _ _ _ (State.draw_keeps h)
          exact State.putLink_keeps _ _ (State.resetLink_keeps _ _ hx5)
        · exact State.putLink_keeps _ _ (State.resetLink_keeps _ _ h)
      · exact State.putLink_keeps _ _ h

theorem State.settlePass_keeps {s0 : State} {s : State} (h : Keeps s0 s) : Keeps s0 (State.settlePass s) := by
  unfold State.settlePass
  extract_lets -merge -underBinder +onlyGivenNames x1
  have hx1 : Keeps s0 x1 := State.settleDomain_keeps _ (State.settleDomain_keeps _ (State.settleDomain_keeps _ (State.settleDomain_keeps _ h)))
  extract_lets -merge -underBinder +onlyGivenNames x2
  have hx2 : Keeps s0 x2 := by
    refine Keeps.foldl (fun _ _ h3 => ?_) ?_
    · exact State.settleBlock_keeps _ h3
    · exact hx1
  refine Keeps.foldl (fun _ _ h4 => ?_) ?_
  · exact State.settleLink_keeps _ h4
  · exact hx2

theorem State.settleResets_keeps {s0 : State} {s : State} (h : Keeps s0 s) : Keeps s0 (State.settleResets s) := by
  unfold State.settleResets
  exact State.settlePass_keeps (State.restartBoot_keeps (State.settlePass_keeps (State.restartBoot_keeps h)))

theorem State.superviseReset_keeps {s0 : State} {s : State} (n : Fin 32) (h : Keeps s0 s) : Keeps s0 (State.superviseReset s n) := by
  unfold State.superviseReset
  refine State.settleResets_keeps ?_
  refine State.noteCause_keeps _ ?_
  refine Keeps.upd ?_
  exact h

theorem State.twinFails_keeps {s0 : State} {s : State} (cause : Nat) (h : Keeps s0 s) : Keeps s0 (State.twinFails s cause) := by
  unfold State.twinFails
  exact State.settleResets_keeps (State.failTwin_keeps _ h)

theorem State.shutdown_keeps {s0 : State} {s : State} (h : Keeps s0 s) : Keeps s0 (State.shutdown s) := by
  unfold State.shutdown
  refine State.settleResets_keeps ?_
  refine State.noteCause_keeps _ ?_
  refine Keeps.upd ?_
  exact h

theorem State.setUnit_keeps {s0 : State} {s : State} (u : ResetUnit) (v : UnitState) (h : Keeps s0 s) : Keeps s0 (State.setUnit s u v) := by
  unfold State.setUnit
  split
  · exact State.setDomain_keeps _ _ h
  · split
    · refine Keeps.upd ?_
      exact h
    · exact h
  · refine Keeps.upd ?_
    exact h

theorem State.stageFour_keeps {s0 : State} {s : State} (h : Keeps s0 s) : Keeps s0 (State.stageFour s) := by
  unfold State.stageFour
  refine Keeps.ite ?_ ?_
  · refine Keeps.upd ?_
    exact h
  · exact h

end Sys2Proof.Machine
end

