-- ==== Sys2Proof/Laws/KeepsDataMover.lean ====
section
/-! SUPPORT. What the operations of Machine/DataMover.lean keep. -/

set_option Elab.async false

namespace Sys2Proof.Machine

theorem State.dropXfer_keeps {s0 : State} {s : State} (id : Nat) (h : Keeps s0 s) : Keeps s0 (State.dropXfer s id) := by
  unfold State.dropXfer
  exact State.dropXfers_keeps _ h

theorem State.faultEnds_keeps {s0 : State} {s : State} (id : Nat) (h : Keeps s0 s) : Keeps s0 (State.faultEnds s id) := by
  unfold State.faultEnds
  split
  · exact h
  · refine Keeps.ite ?_ ?_
    · exact State.completeFault_keeps _ _ (State.dropXfer_keeps _ h)
    · exact h

theorem State.acceptCopy_keeps {s0 : State} {s : State} (f : Flight) (h : Keeps s0 s) : Keeps s0 (State.acceptCopy s f) := by
  unfold State.acceptCopy
  extract_lets -merge -underBinder +onlyGivenNames x1
  split
  · exact State.complete_keeps _ _ _ h
  · extract_lets -merge -underBinder +onlyGivenNames z_2 x3
    have hx3 : Keeps s0 x3 := by
      refine Keeps.upd ?_
      exact h
    extract_lets -merge -underBinder +onlyGivenNames x4
    have hx4 : Keeps s0 x4 := by
      unfold x4
      split
      · exact State.modChamber_keeps _ _ hx3
      · exact hx3
    exact State.complete_keeps _ _ _ hx4

theorem State.modXfer_keeps {s0 : State} {s : State} (id : Nat) (g : Xfer → Xfer) (h : Keeps s0 s) : Keeps s0 (State.modXfer s id g) := by
  unfold State.modXfer
  refine Keeps.upd ?_
  exact h

theorem State.moverFault_keeps {s0 : State} {s : State} (x : Xfer) (kind : Nat) (level : Nat) (job : Nat) (write : Bool) (h : Keeps s0 s) : Keeps s0 (State.moverFault s x kind level job write) := by
  unfold State.moverFault
  split
  · exact h
  · exact State.faultEnds_keeps _ (State.modXfer_keeps _ _ (State.recordFault_keeps _ _ _ _ _ _ h))

theorem State.putComp_keeps {s0 : State} {s : State} (k : Fin 4) (c : Option CompJob) (h : Keeps s0 s) : Keeps s0 (State.putComp s k c) := by
  unfold State.putComp
  refine Keeps.upd ?_
  exact h

theorem State.askHost_keeps {s0 : State} {s : State} (a : Nat) (len : Nat) (h : Keeps s0 s) : Keeps s0 (State.askHost s a len) := by
  unfold State.askHost
  refine Keeps.foldl (fun _ _ h1 => ?_) ?_
  · exact State.emit_keeps _ h1
  · exact h

theorem State.putPiece_keeps {s0 : State} {s : State} (p : Piece) (h : Keeps s0 s) : Keeps s0 (State.putPiece s p) := by
  unfold State.putPiece
  refine Keeps.upd ?_
  exact h

theorem State.compInPiece_keeps {s0 : State} {s : State} (x : Xfer) (k : Fin 4) (c : CompJob) (h : Keeps s0 s) : Keeps s0 (State.compInPiece s x k c) := by
  unfold State.compInPiece
  extract_lets -merge -underBinder +onlyGivenNames x1
  extract_lets -merge -underBinder +onlyGivenNames x2
  split
  · split
    · rename_i v3 v4 v5 e6
      have hv5 : Keeps s0 v5 := (congrArg (fun r => Keeps s0 r.2) e6).mp (State.translate_keeps _ _ _ h)
      exact State.moverFault_keeps _ _ _ _ _ hv5
    · rename_i v7 v8 e9
      have hv8 : Keeps s0 v8 := (congrArg (fun r => Keeps s0 r.2) e9).mp (State.translate_keeps _ _ _ h)
      split
      · rename_i v10 v11 v12 e13
        have hv12 : Keeps s0 v12 := (congrArg (fun r => Keeps s0 r.2.2) e13).mp (State.dramRead_keeps _ _ _ _ hv8)
        exact State.putComp_keeps _ _ (State.modXfer_keeps _ _ (State.modXfer_keeps _ _ hv12))
  · exact State.askHost_keeps _ _ (State.putPiece_keeps _ (State.modXfer_keeps _ _ h))

theorem State.issued_keeps {s0 : State} {s : State} (x : Xfer) (n : Nat) (h : Keeps s0 s) : Keeps s0 (State.issued s x n) := by
  unfold State.issued
  exact State.modXfer_keeps _ _ h

theorem State.copyDone_keeps {s0 : State} {s : State} (c : CopyRun) (h : Keeps s0 s) : Keeps s0 (State.copyDone s c) := by
  unfold State.copyDone
  extract_lets -merge -underBinder +onlyGivenNames x1
  extract_lets -merge -underBinder +onlyGivenNames x2
  extract_lets -merge -underBinder +onlyGivenNames x3
  have hx3 : Keeps s0 x3 := by
    refine State.copyTouch_keeps _ _ _ ?_
    refine Keeps.ite ?_ ?_
    · exact h
    · exact State.copyDest_keeps _ _ h
  extract_lets -merge -underBinder +onlyGivenNames x4
  have hx4 : Keeps s0 x4 := State.endRun_keeps _ hx3
  exact State.settle_keeps _ (State.copyEvent_keeps _ _ (State.countEvent_keeps _ _ _ (State.setReg_keeps _ _ hx4)))

theorem execCopyDone_keeps {s0 : State} {s : State} (h : Keeps s0 s) : OKeeps s0 (execCopyDone s) := by
  unfold execCopyDone
  refine OKeeps.next ?_
  split
  · refine Keeps.ite ?_ ?_
    · exact State.copyDone_keeps _ h
    · exact h
  · exact h

theorem State.landPiece_keeps {s0 : State} {s : State} (x : Xfer) (p : Piece) (bs : List Sys2Proof.Byte) (h : Keeps s0 s) : Keeps s0 (State.landPiece s x p bs) := by
  unfold State.landPiece
  split
  · exact State.countEvent_keeps _ _ _ (State.dramPut_keeps _ _ _ _ h)
  · exact State.countEvent_keeps _ _ _ (State.dramPut_keeps _ _ _ _ h)
  · refine State.countEvent_keeps _ _ _ ?_
    refine Keeps.ite ?_ ?_
    · exact State.writeTable_keeps _ _ _ h
    · refine Keeps.ite ?_ ?_
      · exact State.stageUnits_keeps _ _ _ _ _ h
      · exact h
  · exact h
  · split
    · refine Keeps.ite ?_ ?_
      · exact h
      · exact State.countEvent_keeps _ _ _ (State.putComp_keeps _ _ h)
    · exact h

theorem State.uncover_keeps {s0 : State} {s : State} (old : Quire) (h : Keeps s0 s) : Keeps s0 (State.uncover s old) := by
  unfold State.uncover
  refine Keeps.ite ?_ ?_
  · exact h
  · extract_lets -merge -underBinder +onlyGivenNames x1
    refine Keeps.upd ?_
    exact h

theorem State.stopDecode_keeps {s0 : State} {s : State} (j : EngineJob) (h : Keeps s0 s) : Keeps s0 (State.stopDecode s j) := by
  unfold State.stopDecode
  refine Keeps.upd ?_
  exact h

theorem State.replaceQuire_keeps {s0 : State} {s : State} (old : Quire) (q : Quire) (h : Keeps s0 s) : Keeps s0 (State.replaceQuire s old q) := by
  unfold State.replaceQuire
  extract_lets -merge -underBinder +onlyGivenNames x1
  have hx1 : Keeps s0 x1 := State.uncover_keeps _ (State.stopDecode_keeps _ h)
  refine Keeps.upd ?_
  exact hx1

theorem State.indexQuire_keeps {s0 : State} {s : State} (q : Quire) (seals : Bool) (h : Keeps s0 s) : Keeps s0 (State.indexQuire s q seals) := by
  unfold State.indexQuire
  refine Keeps.upd ?_
  exact h

theorem State.checkQuire_keeps {s0 : State} {s : State} (f : Flight) (h : Keeps s0 s) : Keeps s0 (State.checkQuire s f).2 := by
  unfold State.checkQuire
  split
  · rename_i v1 v2 e3
    have hv2 : Keeps s0 v2 := (congrArg (fun r => Keeps s0 r.2.2) e3).mp (State.jobRead_keeps _ _ _ _ h)
    exact hv2
  · rename_i v4 v5 e6
    have hv5 : Keeps s0 v5 := (congrArg (fun r => Keeps s0 r.2.2) e6).mp (State.jobRead_keeps _ _ _ _ h)
    extract_lets -merge -underBinder +onlyGivenNames x7
    extract_lets -merge -underBinder +onlyGivenNames x8
    split
    · exact hv5
    · split
      · split
        · exact hv5
        · split
          · exact hv5
          · split
            · exact hv5
            · split
              · refine Keeps.upd ?_
                exact hv5
              · exact State.replaceQuire_keeps _ _ hv5
      · split
        · exact hv5
        · split
          · exact hv5
          · exact State.indexQuire_keeps _ _ hv5

theorem State.xferEnds_keeps {s0 : State} {s : State} (x : Xfer) (h : Keeps s0 s) : Keeps s0 (State.xferEnds s x) := by
  unfold State.xferEnds
  extract_lets -merge -underBinder +onlyGivenNames x1
  have hx1 : Keeps s0 x1 := State.dropXfer_keeps _ h
  split
  · exact hx1
  · split
    · extract_lets -merge -underBinder +onlyGivenNames x2
      exact State.settle_keeps _ (State.complete_keeps _ _ _ (State.checkQuire_keeps _ hx1))
    · refine Keeps.ite ?_ ?_
      · exact State.complete_keeps _ _ _ hx1
      · extract_lets -merge -underBinder +onlyGivenNames x3
        have hx3 : Keeps s0 x3 := State.liveChanged_keeps _ _ _ _ hx1
        refine Keeps.ite ?_ ?_
        · exact State.settle_keeps _ (State.modFlight_keeps _ _ hx3)
        · exact State.settle_keeps _ (State.complete_keeps _ _ _ hx3)
    · exact State.complete_keeps _ _ _ hx1
    · exact State.complete_keeps _ _ _ hx1
    · exact hx1

theorem State.pieceDone_keeps {s0 : State} {s : State} (k : Nat) (p : Piece) (bs : List Sys2Proof.Byte) (h : Keeps s0 s) : Keeps s0 (State.pieceDone s k p bs) := by
  unfold State.pieceDone
  split
  · refine Keeps.upd ?_
    exact h
  · extract_lets -merge -underBinder +onlyGivenNames z_1 x2
    have hx2 : Keeps s0 x2 := by
      refine Keeps.upd ?_
      exact h
    extract_lets -merge -underBinder +onlyGivenNames x3
    extract_lets -merge -underBinder +onlyGivenNames x4
    have hx4 : Keeps s0 x4 := State.modXfer_keeps _ _ (State.landPiece_keeps _ _ _ hx2)
    extract_lets -merge -underBinder +onlyGivenNames x5
    refine Keeps.ite ?_ ?_
    · exact State.faultEnds_keeps _ hx4
    · refine Keeps.ite ?_ ?_
      · exact State.xferEnds_keeps _ hx4
      · exact hx4

theorem State.compOutPiece_keeps {s0 : State} {s : State} (x : Xfer) (k : Fin 4) (c : CompJob) (h : Keeps s0 s) : Keeps s0 (State.compOutPiece s x k c) := by
  unfold State.compOutPiece
  extract_lets -merge -underBinder +onlyGivenNames x1
  extract_lets -merge -underBinder +onlyGivenNames x2
  split
  · split
    · rename_i v3 v4 v5 e6
      have hv5 : Keeps s0 v5 := (congrArg (fun r => Keeps s0 r.2) e6).mp (State.translate_keeps _ _ _ h)
      extract_lets -merge -underBinder +onlyGivenNames x7
      exact State.moverFault_keeps _ _ _ _ _ (State.modXfer_keeps _ _ (State.draw_keeps hv5))
    · rename_i v8 v9 e10
      have hv9 : Keeps s0 v9 := (congrArg (fun r => Keeps s0 r.2) e10).mp (State.translate_keeps _ _ _ h)
      exact State.putComp_keeps _ _ (State.modXfer_keeps _ _ (State.dramPut_keeps _ _ _ _ hv9))
  · exact State.countEvent_keeps _ _ _ (State.emit_keeps _ (State.putPiece_keeps _ (State.putComp_keeps _ _ (State.modXfer_keeps _ _ h))))

theorem State.issuePiece_keeps {s0 : State} {s : State} (x : Xfer) (h : Keeps s0 s) : Keeps s0 (State.issuePiece s x) := by
  unfold State.issuePiece
  extract_lets -merge -underBinder +onlyGivenNames x1
  split
  · split
    · rename_i v2 v3 v4 e5
      have hv4 : Keeps s0 v4 := (congrArg (fun r => Keeps s0 r.2) e5).mp (State.translate_keeps _ _ _ h)
      exact State.moverFault_keeps _ _ _ _ _ hv4
    · rename_i v6 v7 e8
      have hv7 : Keeps s0 v7 := (congrArg (fun r => Keeps s0 r.2) e8).mp (State.translate_keeps _ _ _ h)
      exact State.askHost_keeps _ _ (State.putPiece_keeps _ (State.issued_keeps _ _ hv7))
  · exact State.askHost_keeps _ _ (State.putPiece_keeps _ (State.issued_keeps _ _ h))
  · exact State.askHost_keeps _ _ (State.putPiece_keeps _ (State.issued_keeps _ _ h))
  · extract_lets -merge -underBinder +onlyGivenNames x9
    exact State.countEvent_keeps _ _ _ (State.emit_keeps _ (State.putPiece_keeps _ (State.issued_keeps _ _ (State.readView_keeps _ _ _ _ h))))
  · split
    · exact h
    · refine Keeps.ite ?_ ?_
      · exact State.compInPiece_keeps _ _ _ h
      · exact State.compOutPiece_keeps _ _ _ h

theorem execDataMoverPieceIssue_keeps {s0 : State} {s : State} (h : Keeps s0 s) : OKeeps s0 (execDataMoverPieceIssue s) := by
  unfold execDataMoverPieceIssue
  refine OKeeps.next ?_
  refine Keeps.ite ?_ ?_
  · split
    · exact State.issuePiece_keeps _ h
    · exact h
  · exact h

theorem State.invalidate_keeps {s0 : State} {s : State} (id : Nat) (a : Nat) (len : Nat) (h : Keeps s0 s) : Keeps s0 (State.invalidate s id a len) := by
  unfold State.invalidate
  refine Keeps.upd ?_
  exact h

theorem execMmuInvalidate_keeps {s0 : State} (ring : Fin 16) {s : State} (h : Keeps s0 s) : OKeeps s0 (execMmuInvalidate ring s) := by
  unfold execMmuInvalidate
  refine OKeeps.next ?_
  refine State.withEntryAt_keeps _ _ _ (fun _ _ h1 => ?_) ?_
  · exact State.invalidatesEnd_keeps (State.waitFlight_keeps _ (State.invalidate_keeps _ _ _ h1))
  · exact h

theorem State.beginXfer_keeps {s0 : State} {s : State} (f : Flight) (h : Keeps s0 s) : Keeps s0 (State.beginXfer s f) := by
  unfold State.beginXfer
  refine Keeps.ite ?_ ?_
  · exact State.complete_keeps _ _ _ h
  · exact State.startXfer_keeps _ h

theorem State.writeMmuCfg_keeps {s0 : State} {s : State} (v : Sys2Proof.Word) (h : Keeps s0 s) : Keeps s0 (State.writeMmuCfg s v) := by
  unfold State.writeMmuCfg
  refine Keeps.ite ?_ ?_
  · refine Keeps.ite ?_ ?_
    · exact State.hostWrite_keeps _ _ h
    · exact h
  · extract_lets -merge -underBinder +onlyGivenNames x1
    have hx1 : Keeps s0 x1 := State.hostWrite_keeps _ _ h
    refine Keeps.upd ?_
    exact hx1

theorem execMmuEnableWrite_keeps {s0 : State} (enable : Bool) {s : State} (h : Keeps s0 s) : OKeeps s0 (execMmuEnableWrite enable s) := by
  unfold execMmuEnableWrite
  refine OKeeps.next ?_
  refine State.onWrite_keeps _ _ (fun _ h1 => ?_) ?_
  · exact State.writeMmuCfg_keeps _ h1
  · exact h

theorem execTableRead_keeps {s0 : State} (ring : Fin 16) {s : State} (h : Keeps s0 s) : OKeeps s0 (execTableRead ring s) := by
  unfold execTableRead
  refine OKeeps.next ?_
  refine State.withEntryAt_keeps _ _ _ (fun _ _ h1 => ?_) ?_
  · exact State.beginXfer_keeps _ h1
  · exact h

theorem execCopyQueueAdmit_keeps {s0 : State} {s : State} (h : Keeps s0 s) : OKeeps s0 (execCopyQueueAdmit s) := by
  unfold execCopyQueueAdmit
  refine OKeeps.next ?_
  refine Keeps.ite ?_ ?_
  · split
    · exact State.acceptCopy_keeps _ h
    · exact h
  · exact h

theorem execDataMoverPieceDone_keeps {s0 : State} (piece : Nat) (bytes : List Sys2Proof.Byte) {s : State} (h : Keeps s0 s) : OKeeps s0 (execDataMoverPieceDone piece bytes s) := by
  unfold execDataMoverPieceDone
  refine OKeeps.next ?_
  split
  · exact h
  · exact State.invalidatesEnd_keeps (State.pieceDone_keeps _ _ _ h)

theorem execTableLoad_keeps {s0 : State} (ring : Fin 16) {s : State} (h : Keeps s0 s) : OKeeps s0 (execTableLoad ring s) := by
  unfold execTableLoad
  refine OKeeps.next ?_
  refine State.withEntryAt_keeps _ _ _ (fun _ _ h1 => ?_) ?_
  · extract_lets -merge -underBinder +onlyGivenNames x2
    refine Keeps.ite ?_ ?_
    · refine Keeps.ite ?_ ?_
      · exact State.beginXfer_keeps _ h1
      · exact State.complete_keeps _ _ _ h1
    · refine Keeps.ite ?_ ?_
      · exact State.beginXfer_keeps _ h1
      · exact State.complete_keeps _ _ _ h1
  · exact h

theorem execQuireLoad_keeps {s0 : State} (ring : Fin 16) {s : State} (h : Keeps s0 s) : OKeeps s0 (execQuireLoad ring s) := by
  unfold execQuireLoad
  refine OKeeps.next ?_
  refine State.withEntryAt_keeps _ _ _ (fun _ _ h1 => ?_) ?_
  · exact State.startXfer_keeps _ h1
  · exact h

theorem execMmuWrite_keeps {s0 : State} (ring : Fin 16) {s : State} (h : Keeps s0 s) : OKeeps s0 (execMmuWrite ring s) := by
  unfold execMmuWrite
  refine OKeeps.next ?_
  refine State.withEntryAt_keeps _ _ _ (fun _ _ h1 => ?_) ?_
  · exact State.startXfer_keeps _ h1
  · exact h

theorem execHostReadError_keeps {s0 : State} (piece : Nat) {s : State} (h : Keeps s0 s) : OKeeps s0 (execHostReadError piece s) := by
  unfold execHostReadError
  refine OKeeps.next ?_
  split
  · exact h
  · split
    · exact h
    · split
      · exact h
      · refine Keeps.ite ?_ ?_
        · exact h
        · exact State.complete_keeps _ _ _ (State.dropXfer_keeps _ h)

theorem execCopy_keeps {s0 : State} (ring : Fin 16) {s : State} (h : Keeps s0 s) : OKeeps s0 (execCopy ring s) := by
  unfold execCopy
  refine OKeeps.next ?_
  refine State.withEntryAt_keeps _ _ _ (fun _ _ h1 => ?_) ?_
  · refine Keeps.ite ?_ ?_
    · exact State.acceptCopy_keeps _ h1
    · exact State.waitFlight_keeps _ h1
  · exact h

theorem State.copyFail_keeps {s0 : State} {s : State} (c : CopyRun) (cause : Sys2Proof.CopyFault) (at_ : Nat) (h : Keeps s0 s) : Keeps s0 (State.copyFail s c cause at_) := by
  unfold State.copyFail
  extract_lets -merge -underBinder +onlyGivenNames x1
  extract_lets -merge -underBinder +onlyGivenNames x2
  extract_lets -merge -underBinder +onlyGivenNames z_3 z_4 z_5 x6
  have hx6 : Keeps s0 x6 := by
    refine Keeps.ite ?_ ?_
    · exact h
    · exact State.copyDest_keeps _ _ (State.draw_keeps h)
  extract_lets -merge -underBinder +onlyGivenNames x7
  have hx7 : Keeps s0 x7 := by
    refine Keeps.ite ?_ ?_
    · exact State.recordUe_keeps _ _ hx6
    · exact hx6
  extract_lets -merge -underBinder +onlyGivenNames x8
  extract_lets -merge -underBinder +onlyGivenNames x9
  extract_lets -merge -underBinder +onlyGivenNames x10
  have hx10 : Keeps s0 x10 := State.setReg_keeps _ _ (State.setReg_keeps _ _ (State.setReg_keeps _ _ (State.endRun_keeps _ hx7)))
  exact State.settle_keeps _ (State.copyEvent_keeps _ _ (State.twinError_keeps _ hx10))

theorem execCopyFail_keeps {s0 : State} (cause : Sys2Proof.CopyFault) (beat : Nat) {s : State} (h : Keeps s0 s) : OKeeps s0 (execCopyFail cause beat s) := by
  unfold execCopyFail
  refine OKeeps.next ?_
  split
  · refine Keeps.ite ?_ ?_
    · exact State.copyFail_keeps _ _ _ h
    · exact h
  · exact h

theorem execTableLoadChannelDone_keeps {s0 : State} {s : State} (h : Keeps s0 s) : OKeeps s0 (execTableLoadChannelDone s) := by
  unfold execTableLoadChannelDone
  refine OKeeps.next ?_
  refine Keeps.foldl (fun _ _ h1 => ?_) ?_
  · exact State.complete_keeps _ _ _ h1
  · exact h

theorem execCopyStart_keeps {s0 : State} {s : State} (h : Keeps s0 s) : OKeeps s0 (execCopyStart s) := by
  unfold execCopyStart
  refine OKeeps.next ?_
  split
  · refine Keeps.ite ?_ ?_
    · refine Keeps.upd ?_
      exact h
    · exact h
  · exact h

end Sys2Proof.Machine
end

