-- ==== Sys2Proof/Laws/KeepsCodec.lean ====
section
/-! SUPPORT. What the operations of Machine/Codec.lean keep. -/

set_option Elab.async false

namespace Sys2Proof.Machine

theorem State.retireQuires_keeps {s0 : State} {s : State} (h : Keeps s0 s) : Keeps s0 (State.retireQuires s) := by
  unfold State.retireQuires
  extract_lets -merge -underBinder +onlyGivenNames x1
  extract_lets -merge -underBinder +onlyGivenNames x2
  extract_lets -merge -underBinder +onlyGivenNames x3
  have hx3 : Keeps s0 x3 := by
    refine Keeps.foldl (fun _ _ h4 => ?_) ?_
    · exact State.stopDecode_keeps _ h4
    · exact h
  extract_lets -merge -underBinder +onlyGivenNames x5
  have hx5 : Keeps s0 x5 := by
    refine Keeps.foldl (fun _ _ h6 => ?_) ?_
    · exact State.stopDecode_keeps _ h6
    · exact hx3
  refine Keeps.upd ?_
  exact hx5

theorem State.quireBad_keeps {s0 : State} {s : State} (q : Quire) (origin : Int) (cause : Nat) (h : Keeps s0 s) : Keeps s0 (State.quireBad s q origin cause) := by
  unfold State.quireBad
  refine State.log_keeps _ _ _ _ ?_
  extract_lets -merge -underBinder +onlyGivenNames x1
  have hx1 : Keeps s0 x1 := State.twinError_keeps _ h
  refine Keeps.upd ?_
  exact hx1

theorem State.modQuire_keeps {s0 : State} {s : State} (id : Nat) (f : Quire → Quire) (h : Keeps s0 s) : Keeps s0 (State.modQuire s id f) := by
  unfold State.modQuire
  refine Keeps.upd ?_
  exact h

theorem State.modPlate_keeps {s0 : State} {s : State} (id : Nat) (f : Quire → Quire) (h : Keeps s0 s) : Keeps s0 (State.modPlate s id f) := by
  unfold State.modPlate
  refine Keeps.upd ?_
  exact h

theorem State.modJob_keeps {s0 : State} {s : State} (j : EngineJob) (f : Quire → Quire) (h : Keeps s0 s) : Keeps s0 (State.modJob s j f) := by
  unfold State.modJob
  split
  · exact State.modQuire_keeps _ _ h
  · exact State.modPlate_keeps _ _ h

theorem State.readChunk_keeps {s0 : State} {s : State} (j : EngineJob) (q : Quire) (h : Keeps s0 s) : Keeps s0 (State.readChunk s j q) := by
  unfold State.readChunk
  extract_lets -merge -underBinder +onlyGivenNames x1
  split
  · rename_i v2 v3 v4 e5
    have hv4 : Keeps s0 v4 := (congrArg (fun r => Keeps s0 r.2.2) e5).mp (State.jobRead_keeps _ _ _ _ h)
    exact State.modJob_keeps _ _ hv4

theorem State.readUntil_keeps {s0 : State} {s : State} (j : EngineJob) (need k : Nat) (h : Keeps s0 s) : Keeps s0 (s.readUntil j need k) := by
  induction k generalizing s with
  | zero => exact h
  | succ k ih =>
    unfold State.readUntil
    split
    · exact h
    · exact Keeps.ite h (ih (State.readChunk_keeps _ _ h))

theorem State.decodeTo_keeps {s0 : State} {s : State} (j : EngineJob) (need : Nat) (h : Keeps s0 s) : Keeps s0 (State.decodeTo s j need) := by
  unfold State.decodeTo
  split
  · exact h
  · exact State.readUntil_keeps _ _ _ h

theorem State.decodeOn_keeps {s0 : State} {s : State} (h : Keeps s0 s) : Keeps s0 (State.decodeOn s) := by
  unfold State.decodeOn
  refine Keeps.ite ?_ ?_
  · refine Keeps.foldl (fun _ _ h1 => ?_) ?_
    · split
      · split
        · exact State.readUntil_keeps _ _ _ h1
        · exact h1
      · exact h1
    · exact h
  · exact h

theorem State.startCompress_keeps {s0 : State} {s : State} (h : Keeps s0 s) : Keeps s0 (State.startCompress s) := by
  unfold State.startCompress
  extract_lets -merge -underBinder +onlyGivenNames x1
  clear_value x1
  split
  · extract_lets -merge -underBinder +onlyGivenNames z_2 x3
    have hx3 : Keeps s0 x3 := by
      refine Keeps.upd ?_
      exact h
    split
    · exact State.addXfer_keeps _ (State.modFlight_keeps _ _ hx3)
    · exact hx3
  · refine Keeps.upd ?_
    exact h

theorem execCompressEngineStart_keeps {s0 : State} {s : State} (h : Keeps s0 s) : OKeeps s0 (execCompressEngineStart s) := by
  unfold execCompressEngineStart
  refine OKeeps.next ?_
  refine Keeps.ite ?_ ?_
  · exact State.startCompress_keeps (State.archiveArrives_keeps h)
  · exact h

theorem State.readPlate_keeps {s0 : State} {s : State} (r : Repeat) (q : Quire) (h : Keeps s0 s) : Keeps s0 (State.readPlate s r q).2 := by
  unfold State.readPlate
  split
  · rename_i v1 v2 v3 e4
    have hv3 : Keeps s0 v3 := (congrArg (fun r => Keeps s0 r.2.2) e4).mp (State.jobRead_keeps _ _ _ _ h)
    extract_lets -merge -underBinder +onlyGivenNames x5
    extract_lets -merge -underBinder +onlyGivenNames x6
    extract_lets -merge -underBinder +onlyGivenNames z_7 x8
    refine Keeps.upd ?_
    exact hv3

theorem State.takeDecode_keeps {s0 : State} {s : State} (e : Fin 16) (c : DecodeCand) (h : Keeps s0 s) : Keeps s0 (State.takeDecode s e c) := by
  unfold State.takeDecode
  split
  · extract_lets -merge -underBinder +onlyGivenNames x1
    have hx1 : Keeps s0 x1 := State.modQuire_keeps _ _ h
    refine Keeps.upd ?_
    exact hx1
  · split
    · rename_i v2 v3 e4
      have hv3 : Keeps s0 v3 := (congrArg (fun r => Keeps s0 r.2) e4).mp (State.readPlate_keeps _ _ h)
      refine Keeps.upd ?_
      exact hv3

theorem State.blankBands_keeps {s0 : State} {s : State} (q : Quire) (origin : Int) (h : Keeps s0 s) : Keeps s0 (State.blankBands s q origin) := by
  unfold State.blankBands
  extract_lets -merge -underBinder +onlyGivenNames x1
  refine Keeps.upd ?_
  exact h

theorem State.blank_keeps {s0 : State} {s : State} (src : LineSource) (plane : Fin 8) (h : Keeps s0 s) : Keeps s0 (State.blank s src plane) := by
  unfold State.blank
  refine Keeps.upd ?_
  exact h

theorem State.blankDue_keeps {s0 : State} {s : State} (h : Keeps s0 s) : Keeps s0 (State.blankDue s) := by
  unfold State.blankDue
  refine Keeps.foldl (fun _ _ h1 => ?_) ?_
  · exact State.blankBands_keeps _ _ (State.blank_keeps _ _ (State.modQuire_keeps _ _ h1))
  · exact h

theorem execReplaceDeadline_keeps {s0 : State} {s : State} (h : Keeps s0 s) : OKeeps s0 (execReplaceDeadline s) := by
  unfold execReplaceDeadline
  refine OKeeps.next ?_
  exact State.settle_keeps _ (State.blankDue_keeps h)

theorem State.idle_keeps {s0 : State} {s : State} (h : Keeps s0 s) : Keeps s0 (State.idle s) := by
  unfold State.idle
  exact State.settle_keeps _ (State.decodeOn_keeps (State.copyBurst_keeps h))

theorem execCompress_keeps {s0 : State} (ring : Fin 16) {s : State} (h : Keeps s0 s) : OKeeps s0 (execCompress ring s) := by
  unfold execCompress
  refine OKeeps.next ?_
  refine State.withEntryAt_keeps _ _ _ (fun _ _ h1 => ?_) ?_
  · exact State.queueCompress_keeps _ h1
  · exact h

theorem State.blurOutput_keeps {s0 : State} {s : State} (r : CompReq) (d fuel a len : Nat) (h : Keeps s0 s) : Keeps s0 (s.blurOutput r d fuel a len) := by
  induction fuel generalizing s a len with
  | zero => exact h
  | succ fuel ih =>
    unfold State.blurOutput
    refine Keeps.ite h (ih _ _ ?_)
    split
    · exact h
    · exact State.dramPut_keeps _ _ _ _ h
    · split
      · exact State.dramPut_keeps _ _ _ _ h
      · exact h

theorem State.compSettles_keeps {s0 : State} {s : State} (k : Fin 4) (c : CompJob) (h : Keeps s0 s) : Keeps s0 (State.compSettles s k c) := by
  unfold State.compSettles
  extract_lets -merge -underBinder +onlyGivenNames x1
  have hx1 : Keeps s0 x1 := State.countEvent_keeps _ _ _ (State.putComp_keeps _ _ h)
  refine Keeps.ite ?_ ?_
  · exact State.blurOutput_keeps _ _ _ _ _ (State.draw_keeps hx1)
  · exact hx1

theorem State.archiveEnds_keeps {s0 : State} {s : State} (k : Fin 4) (r : CompReq) (h : Keeps s0 s) : Keeps s0 (State.archiveEnds s k r) := by
  unfold State.archiveEnds
  split
  · rename_i v1 v2 v3 e4
    have hv3 : Keeps s0 v3 := (congrArg (fun r => Keeps s0 r.2.2) e4).mp (State.dramRead_keeps _ _ _ _ h)
    extract_lets -merge -underBinder +onlyGivenNames x5
    extract_lets -merge -underBinder +onlyGivenNames x6
    have hx6 : Keeps s0 x6 := State.compSettles_keeps _ _ hv3
    refine Keeps.ite ?_ ?_
    · exact hx6
    · exact State.dramPut_keeps _ _ _ _ hx6

theorem State.compEnds_keeps {s0 : State} {s : State} (k : Fin 4) (c : CompJob) (id : Nat) (h : Keeps s0 s) : Keeps s0 (State.compEnds s k c id) := by
  unfold State.compEnds
  exact State.complete_keeps _ _ _ (State.dropXfer_keeps _ (State.compSettles_keeps _ _ h))

theorem execCompressEnd_keeps {s0 : State} (engine : Fin 4) {s : State} (h : Keeps s0 s) : OKeeps s0 (execCompressEnd engine s) := by
  unfold execCompressEnd
  refine OKeeps.next ?_
  split
  · exact h
  · split
    · exact State.archiveEnds_keeps _ _ h
    · split
      · exact State.putComp_keeps _ _ h
      · refine Keeps.ite ?_ ?_
        · exact State.compEnds_keeps _ _ _ h
        · exact h

theorem execDecodeDispatch_keeps {s0 : State} (engine : Fin 16) {s : State} (h : Keeps s0 s) : OKeeps s0 (execDecodeDispatch engine s) := by
  unfold execDecodeDispatch
  refine OKeeps.next ?_
  refine Keeps.ite ?_ ?_
  · split
    · exact State.takeDecode_keeps _ _ h
    · exact h
  · exact h

theorem State.decodeEnds_keeps {s0 : State} {s : State} (e : Fin 16) (j : EngineJob) (q : Quire) (h : Keeps s0 s) : Keeps s0 (State.decodeEnds s e j q) := by
  unfold State.decodeEnds
  extract_lets -merge -underBinder +onlyGivenNames z_1 x2
  have hx2 : Keeps s0 x2 := by
    refine Keeps.upd ?_
    exact h
  split
  · exact State.settle_keeps _ (State.countEvent_keeps _ _ _ (State.countEvent_keeps _ _ _ (State.modJob_keeps _ _ hx2)))
  · extract_lets -merge -underBinder +onlyGivenNames x3
    have hx3 : Keeps s0 x3 := State.quireBad_keeps _ _ _ hx2
    split
    · exact State.modQuire_keeps _ _ hx3
    · exact State.settle_keeps _ (State.blankBands_keeps _ _ (State.blank_keeps _ _ (State.modPlate_keeps _ _ hx3)))

theorem execDecodeEnd_keeps {s0 : State} (engine : Fin 16) {s : State} (h : Keeps s0 s) : OKeeps s0 (execDecodeEnd engine s) := by
  unfold execDecodeEnd
  refine OKeeps.next ?_
  refine Keeps.ite ?_ ?_
  · split
    · exact h
    · split
      · refine Keeps.upd ?_
        exact h
      · extract_lets -merge -underBinder +onlyGivenNames x1
        have hx1 : Keeps s0 x1 := State.decodeTo_keeps _ _ h
        split
        · refine Keeps.ite ?_ ?_
          · exact State.decodeEnds_keeps _ _ _ hx1
          · exact hx1
        · exact hx1
  · exact h

theorem execQuireRetire_keeps {s0 : State} {s : State} (h : Keeps s0 s) : OKeeps s0 (execQuireRetire s) := by
  unfold execQuireRetire
  refine OKeeps.next ?_
  refine Keeps.ite ?_ ?_
  · exact State.retireQuires_keeps h
  · exact h

end Sys2Proof.Machine
end

