-- ==== Sys2Proof/Laws/KeepsDram.lean ====
section
/-! SUPPORT. What the operations of Machine/Dram.lean keep. -/

set_option Elab.async false

namespace Sys2Proof.Machine

theorem execCaParityAlert_keeps {s0 : State} (channel : Fin 2) {s : State} (h : Keeps s0 s) : OKeeps s0 (execCaParityAlert channel s) := by
  unfold execCaParityAlert
  refine OKeeps.next ?_
  refine Keeps.ite ?_ ?_
  · refine Keeps.upd ?_
    exact h
  · exact h

theorem State.startRetrain_keeps {s0 : State} {s : State} (chs : List (Fin 2)) (h : Keeps s0 s) : Keeps s0 (State.startRetrain s chs) := by
  unfold State.startRetrain
  extract_lets -merge -underBinder +onlyGivenNames x1
  refine Keeps.ite ?_ ?_
  · exact h
  · refine Keeps.upd ?_
    exact h

theorem State.retrainNow_keeps {s0 : State} {s : State} (h : Keeps s0 s) : Keeps s0 (State.retrainNow s) := by
  unfold State.retrainNow
  refine Keeps.ite ?_ ?_
  · exact h
  · exact State.startRetrain_keeps _ h

theorem execDmcRetrainNow_keeps {s0 : State} {s : State} (h : Keeps s0 s) : OKeeps s0 (execDmcRetrainNow s) := by
  unfold execDmcRetrainNow
  refine OKeeps.next ?_
  refine State.onWrite_keeps _ _ (fun _ h1 => ?_) ?_
  · exact State.retrainNow_keeps h1
  · exact h

theorem State.driftRetrain_keeps {s0 : State} {s : State} (h : Keeps s0 s) : Keeps s0 (State.driftRetrain s) := by
  unfold State.driftRetrain
  extract_lets -merge -underBinder +onlyGivenNames x1
  extract_lets -merge -underBinder +onlyGivenNames x2
  refine Keeps.ite ?_ ?_
  · exact State.startRetrain_keeps _ h
  · exact h

theorem execDramSchedulePick_keeps {s0 : State} (sub : Fin 4) (at_ : Nat) {s : State} (h : Keeps s0 s) : OKeeps s0 (execDramSchedulePick sub at_ s) := by
  unfold execDramSchedulePick
  extract_lets -merge -underBinder +onlyGivenNames x1
  have hx1 : Keeps s0 x1 := State.advance_keeps _ h
  refine OKeeps.next ?_
  refine Keeps.ite ?_ ?_
  · exact State.pickIssue_keeps _ hx1
  · exact hx1

theorem State.returnData_keeps {s0 : State} {s : State} (r : DramReq) (h : Keeps s0 s) : Keeps s0 (State.returnData s r) := by
  unfold State.returnData
  extract_lets -merge -underBinder +onlyGivenNames x1
  refine State.emit_keeps _ ?_
  refine Keeps.ite ?_ ?_
  · exact State.recordUe_keeps _ _ h
  · exact h

theorem State.readBack_keeps {s0 : State} {s : State} (k : Fin 4) (r : DramReq) (ecc : Sys2Proof.EccOutcome) (h : Keeps s0 s) : Keeps s0 (State.readBack s k r ecc) := by
  unfold State.readBack
  extract_lets -merge -underBinder +onlyGivenNames x1
  have hx1 : Keeps s0 x1 := State.modSub_keeps _ _ h
  refine Keeps.ite ?_ ?_
  · exact State.returnData_keeps _ hx1
  · split
    · exact State.returnData_keeps _ hx1
    · refine State.returnData_keeps _ ?_
      refine Keeps.upd ?_
      exact hx1
    · refine State.returnData_keeps _ ?_
      refine Keeps.ite ?_ ?_
      · exact hx1
      · exact State.spoilUnit_keeps _ hx1

theorem execDramReadReturn_keeps {s0 : State} (sub : Fin 4) (seq : Nat) (ecc : Sys2Proof.EccOutcome) {s : State} (h : Keeps s0 s) : OKeeps s0 (execDramReadReturn sub seq ecc s) := by
  unfold execDramReadReturn
  refine OKeeps.next ?_
  split
  · exact h
  · exact State.readBack_keeps _ _ _ h

theorem execRefreshDue_keeps {s0 : State} (sub : Fin 4) (at_ : Nat) (refreshTime : Nat) {s : State} (h : Keeps s0 s) : OKeeps s0 (execRefreshDue sub at_ refreshTime s) := by
  unfold execRefreshDue
  extract_lets -merge -underBinder +onlyGivenNames x1
  have hx1 : Keeps s0 x1 := State.advance_keeps _ h
  refine OKeeps.next ?_
  refine Keeps.ite ?_ ?_
  · exact State.emit_keeps _ (State.modSub_keeps _ _ hx1)
  · exact hx1

theorem State.rankDone_keeps {s0 : State} {s : State} (c : Fin 2) (h : Keeps s0 s) : Keeps s0 (State.rankDone s c) := by
  unfold State.rankDone
  extract_lets -merge -underBinder +onlyGivenNames x1
  refine Keeps.ite ?_ ?_
  · refine Keeps.upd ?_
    exact h
  · extract_lets -merge -underBinder +onlyGivenNames x2
    refine Keeps.upd ?_
    exact h

theorem State.retrainStep_keeps {s0 : State} {s : State} (k : Fin 4) (last : Bool) (h : Keeps s0 s) : Keeps s0 (State.retrainStep s k last) := by
  unfold State.retrainStep
  extract_lets -merge -underBinder +onlyGivenNames x1
  extract_lets -merge -underBinder +onlyGivenNames x2
  refine Keeps.ite ?_ ?_
  · exact h
  · extract_lets -merge -underBinder +onlyGivenNames x3
    have hx3 : Keeps s0 x3 := State.modSub_keeps _ _ h
    refine Keeps.ite ?_ ?_
    · exact State.rankDone_keeps _ hx3
    · exact hx3

theorem State.startFill_keeps {s0 : State} {s : State} (h : Keeps s0 s) : Keeps s0 (State.startFill s) := by
  unfold State.startFill
  extract_lets -merge -underBinder +onlyGivenNames x1
  refine Keeps.ite ?_ ?_
  · exact h
  · refine Keeps.upd ?_
    exact h

theorem execFillStart_keeps {s0 : State} {s : State} (h : Keeps s0 s) : OKeeps s0 (execFillStart s) := by
  unfold execFillStart
  refine OKeeps.next ?_
  refine State.onWrite_keeps _ _ (fun _ h1 => ?_) ?_
  · exact State.startFill_keeps h1
  · exact h

theorem execRetrainStep_keeps {s0 : State} (sub : Fin 4) (at_ : Nat) (last : Bool) {s : State} (h : Keeps s0 s) : OKeeps s0 (execRetrainStep sub at_ last s) := by
  unfold execRetrainStep
  extract_lets -merge -underBinder +onlyGivenNames x1
  have hx1 : Keeps s0 x1 := State.advance_keeps _ h
  refine OKeeps.next ?_
  refine Keeps.ite ?_ ?_
  · exact State.retrainStep_keeps _ _ hx1
  · exact hx1

theorem State.acceptRead_keeps {s0 : State} {s : State} (r0 : DramReq) (h : Keeps s0 s) : Keeps s0 (State.acceptRead s r0) := by
  unfold State.acceptRead
  extract_lets -merge -underBinder +onlyGivenNames x1
  extract_lets -merge -underBinder +onlyGivenNames x2
  refine Keeps.ite ?_ ?_
  · exact State.returnData_keeps _ (State.accepted_keeps _ h)
  · exact State.accepted_keeps _ (State.modSub_keeps _ _ h)

theorem execDramRequestArrive_keeps {s0 : State} (port : Fin 10) (access : Sys2Proof.DramAccess) (at_ : Nat) {s : State} (h : Keeps s0 s) : OKeeps s0 (execDramRequestArrive port access at_ s) := by
  unfold execDramRequestArrive
  extract_lets -merge -underBinder +onlyGivenNames x1
  have hx1 : Keeps s0 x1 := State.advance_keeps _ h
  extract_lets -merge -underBinder +onlyGivenNames x2
  refine OKeeps.next ?_
  refine Keeps.ite ?_ ?_
  · exact hx1
  · refine Keeps.ite ?_ ?_
    · exact State.putWrite_keeps _ _ hx1
    · exact State.acceptRead_keeps _ hx1

theorem execDramAgePromotion_keeps {s0 : State} (sub : Fin 4) (at_ : Nat) {s : State} (h : Keeps s0 s) : OKeeps s0 (execDramAgePromotion sub at_ s) := by
  unfold execDramAgePromotion
  extract_lets -merge -underBinder +onlyGivenNames x1
  have hx1 : Keeps s0 x1 := State.advance_keeps _ h
  extract_lets -merge -underBinder +onlyGivenNames x2
  refine OKeeps.next ?_
  refine Keeps.foldl (fun _ _ h3 => ?_) ?_
  · exact State.countEvent_keeps _ _ _ h3
  · exact State.modSub_keeps _ _ hx1

theorem State.scrubPassEnds_keeps {s0 : State} {s : State} (h : Keeps s0 s) : Keeps s0 (State.scrubPassEnds s) := by
  unfold State.scrubPassEnds
  refine Keeps.ite ?_ ?_
  · refine Keeps.upd ?_
    exact h
  · exact h

theorem State.fillUnit_keeps {s0 : State} {s : State} (k : Fin 4) (h : Keeps s0 s) : Keeps s0 (State.fillUnit s k) := by
  unfold State.fillUnit
  split
  · refine Keeps.ite ?_ ?_
    · refine State.fillEnds_keeps ?_
      refine State.putWrite_keeps _ _ ?_
      refine Keeps.upd ?_
      exact h
    · exact h
  · exact h

theorem State.scrubUnit_keeps {s0 : State} {s : State} (c : Fin 2) (u : Nat) (ecc : Sys2Proof.EccOutcome) (h : Keeps s0 s) : Keeps s0 (State.scrubUnit s c u ecc) := by
  unfold State.scrubUnit
  extract_lets -merge -underBinder +onlyGivenNames z_1 x2
  have hx2 : Keeps s0 x2 := by
    refine Keeps.upd ?_
    exact h
  extract_lets -merge -underBinder +onlyGivenNames x3
  have hx3 : Keeps s0 x3 := State.dramReadUnit_keeps _ _ _ _ hx2
  extract_lets -merge -underBinder +onlyGivenNames x4
  have hx4 : Keeps s0 x4 := by
    refine Keeps.ite ?_ ?_
    · exact hx3
    · split
      · exact hx3
      · refine State.dramPutUnit_keeps _ _ _ _ ?_
        refine Keeps.upd ?_
        exact hx3
      · exact State.recordUe_keeps _ _ (State.spoilUnit_keeps _ hx3)
  exact State.scrubPassEnds_keeps hx4

theorem execScrubUnitRead_keeps {s0 : State} (channel : Fin 2) (ecc : Sys2Proof.EccOutcome) {s : State} (h : Keeps s0 s) : OKeeps s0 (execScrubUnitRead channel ecc s) := by
  unfold execScrubUnitRead
  refine OKeeps.next ?_
  refine Keeps.ite ?_ ?_
  · extract_lets -merge -underBinder +onlyGivenNames x1
    have hx1 : Keeps s0 x1 := State.scrubPassEnds_keeps h
    split
    · exact State.scrubUnit_keeps _ _ _ hx1
    · exact hx1
  · exact h

theorem execMr4Poll_keeps {s0 : State} (channel : Fin 2) (rank : Fin 2) (value : BitVec 3) {s : State} (h : Keeps s0 s) : OKeeps s0 (execMr4Poll channel rank value s) := by
  unfold execMr4Poll
  refine OKeeps.next ?_
  refine Keeps.ite ?_ ?_
  · refine Keeps.upd ?_
    exact h
  · exact h

theorem execFillUnitIssue_keeps {s0 : State} (sub : Fin 4) {s : State} (h : Keeps s0 s) : OKeeps s0 (execFillUnitIssue sub s) := by
  unfold execFillUnitIssue
  refine OKeeps.next ?_
  refine Keeps.ite ?_ ?_
  · exact State.fillUnit_keeps _ h
  · exact h

end Sys2Proof.Machine
end

