-- ==== Sys2Proof/Laws/KeepsEncoders.lean ====
section
/-! SUPPORT. What the operations of Machine/Encoders.lean keep. -/

set_option Elab.async false

namespace Sys2Proof.Machine

theorem State.modChannel_keeps {s0 : State} {s : State} (k : Fin 8) (f : Channel → Channel) (h : Keeps s0 s) : Keeps s0 (State.modChannel s k f) := by
  unfold State.modChannel
  refine Keeps.upd ?_
  exact h

theorem State.correctCount_keeps {s0 : State} {s : State} (k : Fin 8) (by_ : Int) (h : Keeps s0 s) : Keeps s0 (State.correctCount s k by_) := by
  unfold State.correctCount
  extract_lets -merge -underBinder +onlyGivenNames x1
  have hx1 : Keeps s0 x1 := State.modChannel_keeps _ _ h
  refine Keeps.ite ?_ ?_
  · extract_lets -merge -underBinder +onlyGivenNames z_2 x3
    have hx3 : Keeps s0 x3 := by
      refine Keeps.upd ?_
      exact hx1
    refine Keeps.ite ?_ ?_
    · exact hx3
    · exact State.settle_keeps _ (State.followPosition_keeps hx3)
  · exact hx1

theorem State.encoderFault_keeps {s0 : State} {s : State} (k : Fin 8) (dev : Int) (h : Keeps s0 s) : Keeps s0 (State.encoderFault s k dev) := by
  unfold State.encoderFault
  extract_lets -merge -underBinder +onlyGivenNames x1
  have hx1 : Keeps s0 x1 := State.log_keeps _ _ _ _ (State.modChannel_keeps _ _ h)
  refine Keeps.ite ?_ ?_
  · exact State.settle_keeps _ (State.assertCause_keeps _ _ hx1)
  · exact hx1

theorem State.takeDev_keeps {s0 : State} {s : State} (k : Fin 8) (dev : Int) (h : Keeps s0 s) : Keeps s0 (State.takeDev s k dev) := by
  unfold State.takeDev
  extract_lets -merge -underBinder +onlyGivenNames x1
  have hx1 : Keeps s0 x1 := by
    refine Keeps.ite ?_ ?_
    · exact h
    · exact State.modChannel_keeps _ _ h
  refine Keeps.ite ?_ ?_
  · exact State.modChannel_keeps _ _ hx1
  · refine Keeps.ite ?_ ?_
    · exact State.encoderFault_keeps _ _ hx1
    · exact State.modChannel_keeps _ _ hx1

theorem State.indexAt_keeps {s0 : State} {s : State} (k : Fin 8) (ref : Nat) (dir : Int) (h : Keeps s0 s) : Keeps s0 (State.indexAt s k ref dir) := by
  unfold State.indexAt
  extract_lets -merge -underBinder +onlyGivenNames x1
  extract_lets -merge -underBinder +onlyGivenNames x2
  extract_lets -merge -underBinder +onlyGivenNames x3
  extract_lets -merge -underBinder +onlyGivenNames x4
  have hx4 : Keeps s0 x4 := by
    refine Keeps.ite ?_ ?_
    · exact State.correctCount_keeps _ _ h
    · exact h
  exact State.takeDev_keeps _ _ (State.modChannel_keeps _ _ hx4)

theorem State.indexEvent_keeps {s0 : State} {s : State} (k : Fin 8) (h : Keeps s0 s) : Keeps s0 (State.indexEvent s k) := by
  unfold State.indexEvent
  extract_lets -merge -underBinder +onlyGivenNames x1
  split
  · exact State.modChannel_keeps _ _ h
  · exact State.indexAt_keeps _ _ _ h

theorem execIndexEvent_keeps {s0 : State} (k : Fin 8) (pin : Sys2Proof.IndexPin) (at_ : Nat) {s : State} (h : Keeps s0 s) : OKeeps s0 (execIndexEvent k pin at_ s) := by
  unfold execIndexEvent
  refine OKeeps.next ?_
  extract_lets -merge -underBinder +onlyGivenNames x1
  have hx1 : Keeps s0 x1 := State.advance_keeps _ h
  extract_lets -merge -underBinder +onlyGivenNames x2
  extract_lets -merge -underBinder +onlyGivenNames x3
  refine Keeps.ite ?_ ?_
  · exact State.indexEvent_keeps _ hx1
  · exact hx1

theorem execMissingIndex_keeps {s0 : State} (k : Fin 8) {s : State} (h : Keeps s0 s) : OKeeps s0 (execMissingIndex k s) := by
  unfold execMissingIndex
  refine OKeeps.next ?_
  split
  · exact h
  · extract_lets -merge -underBinder +onlyGivenNames x1
    refine Keeps.ite ?_ ?_
    · exact State.takeDev_keeps _ _ (State.modChannel_keeps _ _ h)
    · exact h

theorem State.updateSpeed_keeps {s0 : State} {s : State} (k : Fin 8) (h : Keeps s0 s) : Keeps s0 (State.updateSpeed s k) := by
  unfold State.updateSpeed
  refine Keeps.ite ?_ ?_
  · split
    · exact State.modChannel_keeps _ _ h
    · exact h
  · exact h

theorem State.dropWindows_keeps {s0 : State} {s : State} (h : Keeps s0 s) : Keeps s0 (State.dropWindows s) := by
  unfold State.dropWindows
  refine Keeps.upd ?_
  exact h

theorem State.standStill_keeps {s0 : State} {s : State} (k : Fin 8) (h : Keeps s0 s) : Keeps s0 (State.standStill s k) := by
  unfold State.standStill
  extract_lets -merge -underBinder +onlyGivenNames x1
  have hx1 : Keeps s0 x1 := State.modChannel_keeps _ _ h
  refine Keeps.ite ?_ ?_
  · refine Keeps.ite ?_ ?_
    · exact State.dropWindows_keeps hx1
    · exact State.settle_keeps _ (State.overEnds_keeps (State.dropWindows_keeps hx1))
  · exact hx1

theorem State.moveDirection_keeps {s0 : State} {s : State} (h : Keeps s0 s) : Keeps s0 (State.moveDirection s) := by
  unfold State.moveDirection
  extract_lets -merge -underBinder +onlyGivenNames x1
  extract_lets -merge -underBinder +onlyGivenNames x2
  refine Keeps.ite ?_ ?_
  · refine Keeps.ite ?_ ?_
    · refine Keeps.upd ?_
      exact h
    · refine Keeps.ite ?_ ?_
      · refine State.dropWindows_keeps ?_
        refine Keeps.upd ?_
        exact h
      · exact h
  · refine Keeps.ite ?_ ?_
    · refine Keeps.upd ?_
      exact h
    · refine Keeps.ite ?_ ?_
      · refine State.dropWindows_keeps ?_
        refine Keeps.upd ?_
        exact h
      · exact h

theorem execSpeedUpdate_keeps {s0 : State} (at_ : Nat) {s : State} (h : Keeps s0 s) : OKeeps s0 (execSpeedUpdate at_ s) := by
  unfold execSpeedUpdate
  refine OKeeps.next ?_
  extract_lets -merge -underBinder +onlyGivenNames x1
  have hx1 : Keeps s0 x1 := State.advance_keeps _ h
  refine Keeps.ite ?_ ?_
  · refine State.settle_keeps _ ?_
    refine State.sendTide_keeps ?_
    refine Keeps.foldl (fun _ _ h2 => ?_) ?_
    · exact State.updateSpeed_keeps _ h2
    · exact hx1
  · exact hx1

theorem State.writeIstat_keeps {s0 : State} {s : State} (k : Fin 8) (v : Sys2Proof.Word) (h : Keeps s0 s) : Keeps s0 (State.writeIstat s k v) := by
  unfold State.writeIstat
  extract_lets -merge -underBinder +onlyGivenNames x1
  have hx1 : Keeps s0 x1 := State.modChannel_keeps _ _ h
  refine Keeps.ite ?_ ?_
  · exact State.settle_keeps _ (State.clearCause_keeps _ _ hx1)
  · exact hx1

theorem execPosFaultClear_keeps {s0 : State} (k : Fin 8) {s : State} (h : Keeps s0 s) : OKeeps s0 (execPosFaultClear k s) := by
  unfold execPosFaultClear
  refine OKeeps.next ?_
  refine State.onWrite_keeps _ _ (fun _ h1 => ?_) ?_
  · exact State.writeIstat_keeps _ _ h1
  · exact h

theorem State.writePosCfg_keeps {s0 : State} {s : State} (v : Sys2Proof.Word) (h : Keeps s0 s) : Keeps s0 (State.writePosCfg s v) := by
  unfold State.writePosCfg
  extract_lets -merge -underBinder +onlyGivenNames x1
  have hx1 : Keeps s0 x1 := State.hostWrite_keeps _ _ h
  refine Keeps.ite ?_ ?_
  · exact hx1
  · extract_lets -merge -underBinder +onlyGivenNames x2
    extract_lets -merge -underBinder +onlyGivenNames z_3 x4
    have hx4 : Keeps s0 x4 := by
      refine State.modChannel_keeps _ _ ?_
      refine State.dropWindows_keeps ?_
      refine Keeps.upd ?_
      exact hx1
    refine Keeps.ite ?_ ?_
    · exact hx4
    · refine State.settle_keeps _ ?_
      refine State.followPosition_keeps ?_
      refine Keeps.upd ?_
      exact hx4

theorem execPosMainWrite_keeps {s0 : State} (value : Sys2Proof.Word) {s : State} (h : Keeps s0 s) : OKeeps s0 (execPosMainWrite value s) := by
  unfold execPosMainWrite
  refine OKeeps.next ?_
  refine State.onWrite_keeps _ _ (fun _ h1 => ?_) ?_
  · exact State.writePosCfg_keeps _ h1
  · exact h

theorem State.writeChCfg_keeps {s0 : State} {s : State} (k : Fin 8) (v : Sys2Proof.Word) (h : Keeps s0 s) : Keeps s0 (State.writeChCfg s k v) := by
  unfold State.writeChCfg
  extract_lets -merge -underBinder +onlyGivenNames x1
  exact State.modChannel_keeps _ _ (State.hostWrite_keeps _ _ h)

theorem State.openWindows_keeps {s0 : State} {s : State} (h : Keeps s0 s) : Keeps s0 (State.openWindows s) := by
  unfold State.openWindows
  extract_lets -merge -underBinder +onlyGivenNames x1
  refine Keeps.foldl (fun _ _ h2 => ?_) ?_
  · refine Keeps.ite ?_ ?_
    · exact State.modChannel_keeps _ _ h2
    · exact h2
  · exact h

theorem State.leftForward_keeps {s0 : State} {s : State} (old : State) (h : Keeps s0 s) : Keeps s0 (State.leftForward s old) := by
  unfold State.leftForward
  refine Keeps.ite ?_ ?_
  · exact State.overEnds_keeps h
  · exact h

theorem State.followMain_keeps {s0 : State} {s : State} (h : Keeps s0 s) : Keeps s0 (State.followMain s) := by
  unfold State.followMain
  refine Keeps.ite ?_ ?_
  · exact h
  · refine State.followPosition_keeps ?_
    refine Keeps.upd ?_
    exact h

theorem State.mainEdge_keeps {s0 : State} {s : State} (d : Int) (h : Keeps s0 s) : Keeps s0 (State.mainEdge s d) := by
  unfold State.mainEdge
  refine Keeps.ite ?_ ?_
  · exact h
  · extract_lets -merge -underBinder +onlyGivenNames x1
    have hx1 : Keeps s0 x1 := State.moveDirection_keeps h
    extract_lets -merge -underBinder +onlyGivenNames x2
    have hx2 : Keeps s0 x2 := by
      refine Keeps.ite ?_ ?_
      · exact State.openWindows_keeps hx1
      · exact hx1
    exact State.settle_keeps _ (State.leftForward_keeps _ (State.followMain_keeps hx2))

theorem State.encoderStep_keeps {s0 : State} {s : State} (k : Fin 8) (pair : BitVec 2) (h : Keeps s0 s) : Keeps s0 (State.encoderStep s k pair) := by
  unfold State.encoderStep
  extract_lets -merge -underBinder +onlyGivenNames x1
  split
  · exact State.modChannel_keeps _ _ h
  · extract_lets -merge -underBinder +onlyGivenNames x2
    have hx2 : Keeps s0 x2 := State.modChannel_keeps _ _ h
    split
    · exact State.modChannel_keeps _ _ hx2
    · extract_lets -merge -underBinder +onlyGivenNames x3
      refine Keeps.ite ?_ ?_
      · exact hx2
      · extract_lets -merge -underBinder +onlyGivenNames x4
        have hx4 : Keeps s0 x4 := State.modChannel_keeps _ _ hx2
        refine Keeps.ite ?_ ?_
        · exact State.mainEdge_keeps _ hx4
        · exact hx4

theorem State.writeLpr_keeps {s0 : State} {s : State} (k : Fin 8) (v : Sys2Proof.Word) (h : Keeps s0 s) : Keeps s0 (State.writeLpr s k v) := by
  unfold State.writeLpr
  exact State.modChannel_keeps _ _ (State.hostWrite_keeps _ _ h)

theorem execStandstill_keeps {s0 : State} (instant : Sys2Proof.ChannelInstant) {s : State} (h : Keeps s0 s) : OKeeps s0 (execStandstill instant s) := by
  unfold execStandstill
  refine OKeeps.next ?_
  extract_lets -merge -underBinder +onlyGivenNames x1
  have hx1 : Keeps s0 x1 := State.advance_keeps _ h
  extract_lets -merge -underBinder +onlyGivenNames x2
  refine Keeps.ite ?_ ?_
  · exact State.standStill_keeps _ hx1
  · exact hx1

theorem execPosLprWrite_keeps {s0 : State} (k : Fin 8) (value : Sys2Proof.Word) {s : State} (h : Keeps s0 s) : OKeeps s0 (execPosLprWrite k value s) := by
  unfold execPosLprWrite
  refine OKeeps.next ?_
  refine State.onWrite_keeps _ _ (fun _ h1 => ?_) ?_
  · exact State.writeLpr_keeps _ _ h1
  · exact h

theorem State.closeStretch_keeps {s0 : State} {s : State} (k : Fin 8) (h : Keeps s0 s) : Keeps s0 (State.closeStretch s k) := by
  unfold State.closeStretch
  split
  · exact h
  · extract_lets -merge -underBinder +onlyGivenNames x1
    refine Keeps.ite ?_ ?_
    · exact State.modChannel_keeps _ _ h
    · exact h

theorem execStretchWindowClose_keeps {s0 : State} {s : State} (h : Keeps s0 s) : OKeeps s0 (execStretchWindowClose s) := by
  unfold execStretchWindowClose
  refine OKeeps.next ?_
  refine Keeps.ite ?_ ?_
  · refine Keeps.foldl (fun _ _ h1 => ?_) ?_
    · exact State.closeStretch_keeps _ h1
    · exact h
  · exact h

theorem execEncoderStep_keeps {s0 : State} (k : Fin 8) (pins : Sys2Proof.EncoderPins) (at_ : Nat) {s : State} (h : Keeps s0 s) : OKeeps s0 (execEncoderStep k pins at_ s) := by
  unfold execEncoderStep
  refine OKeeps.next ?_
  extract_lets -merge -underBinder +onlyGivenNames x1
  have hx1 : Keeps s0 x1 := State.advance_keeps _ h
  refine Keeps.ite ?_ ?_
  · split
    · exact State.encoderStep_keeps _ _ hx1
    · exact hx1
  · exact hx1

theorem execPosChannelEnable_keeps {s0 : State} (k : Fin 8) (value : Sys2Proof.Word) {s : State} (h : Keeps s0 s) : OKeeps s0 (execPosChannelEnable k value s) := by
  unfold execPosChannelEnable
  refine OKeeps.next ?_
  refine State.onWrite_keeps _ _ (fun _ h1 => ?_) ?_
  · exact State.writeChCfg_keeps _ _ h1
  · exact h

theorem execPosZEnWrite_keeps {s0 : State} (k : Fin 8) (value : Sys2Proof.Word) {s : State} (h : Keeps s0 s) : OKeeps s0 (execPosZEnWrite k value s) := by
  unfold execPosZEnWrite
  refine OKeeps.next ?_
  refine State.onWrite_keeps _ _ (fun _ h1 => ?_) ?_
  · exact State.writeChCfg_keeps _ _ h1
  · exact h

end Sys2Proof.Machine
end

