-- ==== Sys2Proof/Laws/KeepsLinkCommands.lean ====
section
/-! SUPPORT. What the operations of Machine/LinkCommands.lean keep. -/

set_option Elab.async false

namespace Sys2Proof.Machine

theorem execAckFrameRx_keeps {s0 : State} (link : Fin 32) (frame : Sys2Proof.LinkFrame) {s : State} (h : Keeps s0 s) : OKeeps s0 (execAckFrameRx link frame s) := by
  unfold execAckFrameRx
  refine OKeeps.next ?_
  split
  · exact State.ackIn_keeps _ _ h
  · exact h

theorem execLinkCtrlDisable_keeps {s0 : State} (ring : Fin 16) {s : State} (h : Keeps s0 s) : OKeeps s0 (execLinkCtrlDisable ring s) := by
  unfold execLinkCtrlDisable
  refine OKeeps.next ?_
  refine State.withEntry_keeps _ _ (fun _ _ h1 => ?_) ?_
  · extract_lets -merge -underBinder +onlyGivenNames x2
    exact State.complete_keeps _ _ _ (State.disableLink_keeps _ (State.setField_keeps _ _ _ _ h1))
  · exact h

theorem execT0Timeout_keeps {s0 : State} (link : Fin 32) {s : State} (h : Keeps s0 s) : OKeeps s0 (execT0Timeout link s) := by
  unfold execT0Timeout
  refine OKeeps.next ?_
  refine Keeps.ite ?_ ?_
  · exact State.linkFault_keeps _ _ h
  · exact h

theorem execLinkBackoffExpiry_keeps {s0 : State} (link : Fin 32) {s : State} (h : Keeps s0 s) : OKeeps s0 (execLinkBackoffExpiry link s) := by
  unfold execLinkBackoffExpiry
  refine OKeeps.next ?_
  refine Keeps.ite ?_ ?_
  · exact State.superviseReset_keeps _ h
  · exact h

theorem execCapFrameRx_keeps {s0 : State} (link : Fin 32) (frame : Sys2Proof.LinkFrame) {s : State} (h : Keeps s0 s) : OKeeps s0 (execCapFrameRx link frame s) := by
  unfold execCapFrameRx
  refine OKeeps.next ?_
  split
  · exact State.capIn_keeps _ _ h
  · exact h

theorem execCfgBankUpload_keeps {s0 : State} (link : Fin 32) {s : State} (h : Keeps s0 s) : OKeeps s0 (execCfgBankUpload link s) := by
  unfold execCfgBankUpload
  refine OKeeps.next ?_
  exact State.startUpload_keeps _ h

theorem State.linkCtrl_keeps {s0 : State} {s : State} (ring : Fin 16) (action : Nat) (refuse : Link → Option Nat) {act : Fin 32 → State → State}
    (ha : ∀ n t, Keeps s0 t → Keeps s0 (act n t)) (h : Keeps s0 s) : Keeps s0 (s.linkCtrl ring action refuse act) := by
  unfold State.linkCtrl
  refine State.withEntry_keeps _ _ (fun f t ht => ?_) h
  extract_lets n
  split
  · exact State.complete_keeps _ _ _ ht
  · refine Keeps.ite (State.complete_keeps _ _ _ ht) ?_
    split
    · exact State.complete_keeps _ _ _ ht
    · exact State.complete_keeps _ _ _ (ha _ _ ht)

theorem execLinkCtrlRetrain_keeps {s0 : State} (ring : Fin 16) {s : State} (h : Keeps s0 s) : OKeeps s0 (execLinkCtrlRetrain ring s) := by
  unfold execLinkCtrlRetrain
  refine OKeeps.next ?_
  refine State.linkCtrl_keeps _ _ _ (fun _ _ h1 => ?_) ?_
  · refine Keeps.ite ?_ ?_
    · exact State.superviseReset_keeps _ h1
    · exact State.startT0_keeps _ h1
  · exact h

theorem execLinkCtrlTrain_keeps {s0 : State} (ring : Fin 16) {s : State} (h : Keeps s0 s) : OKeeps s0 (execLinkCtrlTrain ring s) := by
  unfold execLinkCtrlTrain
  refine OKeeps.next ?_
  refine State.linkCtrl_keeps _ _ _ (fun _ _ h1 => ?_) ?_
  · extract_lets -merge -underBinder +onlyGivenNames x2
    have hx2 : Keeps s0 x2 := State.setField_keeps _ _ _ _ h1
    refine Keeps.ite ?_ ?_
    · exact State.superviseReset_keeps _ hx2
    · exact State.bringUp_keeps _ hx2
  · exact h

theorem State.sendIdle_keeps {s0 : State} {s : State} (n : Fin 32) (h : Keeps s0 s) : Keeps s0 (State.sendIdle s n) := by
  unfold State.sendIdle
  exact State.sendBlock_keeps _ _ _ h

theorem execSyncSend_keeps {s0 : State} (link : Fin 32) (departure : BitVec 52) {s : State} (h : Keeps s0 s) : OKeeps s0 (execSyncSend link departure s) := by
  unfold execSyncSend
  refine OKeeps.next ?_
  refine Keeps.ite ?_ ?_
  · exact State.sendSync_keeps _ _ h
  · exact h

theorem State.writePlkAuth_keeps {s0 : State} {s : State} (n : Fin 32) (v : Sys2Proof.Word) (h : Keeps s0 s) : Keeps s0 (State.writePlkAuth s n v) := by
  unfold State.writePlkAuth
  exact State.hostWrite_keeps _ _ h

theorem State.takeStatus_keeps {s0 : State} {s : State} (n : Fin 32) (status : BitVec 56) (h : Keeps s0 s) : Keeps s0 (State.takeStatus s n status) := by
  unfold State.takeStatus
  extract_lets -merge -underBinder +onlyGivenNames x1
  have hx1 : Keeps s0 x1 := State.statusIn_keeps _ _ h
  refine Keeps.ite ?_ ?_
  · exact State.twinFails_keeps _ hx1
  · exact hx1

theorem execAuthTimeout_keeps {s0 : State} (link : Fin 32) {s : State} (h : Keeps s0 s) : OKeeps s0 (execAuthTimeout link s) := by
  unfold execAuthTimeout
  refine OKeeps.next ?_
  refine Keeps.ite ?_ ?_
  · exact State.linkFault_keeps _ _ (State.modLink_keeps _ _ h)
  · exact h

theorem execPrbsPhaseEnd_keeps {s0 : State} (link : Fin 32) (errors : Nat) {s : State} (h : Keeps s0 s) : OKeeps s0 (execPrbsPhaseEnd link errors s) := by
  unfold execPrbsPhaseEnd
  refine OKeeps.next ?_
  refine Keeps.ite ?_ ?_
  · exact State.sendIdle_keeps _ (State.modLink_keeps _ _ h)
  · exact h

theorem execStatusRx_keeps {s0 : State} (link : Fin 32) (block : BitVec 64) {s : State} (h : Keeps s0 s) : OKeeps s0 (execStatusRx link block s) := by
  unfold execStatusRx
  refine OKeeps.next ?_
  refine Keeps.ite ?_ ?_
  · refine Keeps.ite ?_ ?_
    · exact State.takeStatus_keeps _ _ h
    · refine Keeps.ite ?_ ?_
      · exact h
      · exact State.modLink_keeps _ _ h
  · exact h

theorem execBlockLockLoss_keeps {s0 : State} (taken : Sys2Proof.LinkHeaders) {s : State} (h : Keeps s0 s) : OKeeps s0 (execBlockLockLoss taken s) := by
  unfold execBlockLockLoss
  refine OKeeps.next ?_
  extract_lets -merge -underBinder +onlyGivenNames x1
  refine Keeps.ite ?_ ?_
  · exact State.linkFault_keeps _ _ (State.modLink_keeps _ _ h)
  · exact h

theorem execAuthResponseRx_keeps {s0 : State} (link : Fin 32) (kind : BitVec 4) (index : BitVec 4) (bytes : BitVec 48) {s : State} (h : Keeps s0 s) : OKeeps s0 (execAuthResponseRx link kind index bytes s) := by
  unfold execAuthResponseRx
  refine OKeeps.next ?_
  exact State.authIn_keeps _ _ _ _ h

theorem State.writePlkCfg_keeps {s0 : State} {s : State} (n : Fin 32) (v : Sys2Proof.Word) (h : Keeps s0 s) : Keeps s0 (State.writePlkCfg s n v) := by
  unfold State.writePlkCfg
  extract_lets -merge -underBinder +onlyGivenNames x1
  have hx1 : Keeps s0 x1 := State.hostWrite_keeps _ _ h
  refine Keeps.ite ?_ ?_
  · exact State.bringUp_keeps _ hx1
  · exact State.disableLink_keeps _ hx1

theorem execPlkEnableWrite_keeps {s0 : State} (link : Fin 32) (value : Sys2Proof.Word) {s : State} (h : Keeps s0 s) : OKeeps s0 (execPlkEnableWrite link value s) := by
  unfold execPlkEnableWrite
  refine OKeeps.next ?_
  refine State.onWrite_keeps _ _ (fun _ h1 => ?_) ?_
  · exact State.writePlkCfg_keeps _ _ h1
  · exact h

theorem execLinkCtrlPrbsStop_keeps {s0 : State} (ring : Fin 16) {s : State} (h : Keeps s0 s) : OKeeps s0 (execLinkCtrlPrbsStop ring s) := by
  unfold execLinkCtrlPrbsStop
  refine OKeeps.next ?_
  refine State.linkCtrl_keeps _ _ _ (fun _ _ h1 => ?_) ?_
  · extract_lets -merge -underBinder +onlyGivenNames x2
    exact State.enterEcho_keeps _ (State.sendIdle_keeps _ (State.modLink_keeps _ _ (State.draw_keeps h1)))
  · exact h

theorem execLockTimeout_keeps {s0 : State} (link : Fin 32) {s : State} (h : Keeps s0 s) : OKeeps s0 (execLockTimeout link s) := by
  unfold execLockTimeout
  refine OKeeps.next ?_
  exact State.lockFail_keeps _ h

theorem execEchoReplyRx_keeps {s0 : State} (link : Fin 32) (id : BitVec 8) (turn : BitVec 24) (r1 : BitVec 24) (arrival : BitVec 52) {s : State} (h : Keeps s0 s) : OKeeps s0 (execEchoReplyRx link id turn r1 arrival s) := by
  unfold execEchoReplyRx
  refine OKeeps.next ?_
  exact State.echoIn_keeps _ _ _ _ _ h

theorem execStatusTimeout_keeps {s0 : State} (link : Fin 32) {s : State} (h : Keeps s0 s) : OKeeps s0 (execStatusTimeout link s) := by
  unfold execStatusTimeout
  refine OKeeps.next ?_
  split
  · refine Keeps.ite ?_ ?_
    · exact State.linkFault_keeps _ _ h
    · exact h
  · exact State.linkFault_keeps _ _ h
  · exact h

theorem execEchoSend_keeps {s0 : State} (link : Fin 32) (departure : BitVec 52) {s : State} (h : Keeps s0 s) : OKeeps s0 (execEchoSend link departure s) := by
  unfold execEchoSend
  refine OKeeps.next ?_
  refine Keeps.ite ?_ ?_
  · exact State.sendEcho_keeps _ _ h
  · exact h

theorem execEchoPhaseTimeout_keeps {s0 : State} (link : Fin 32) {s : State} (h : Keeps s0 s) : OKeeps s0 (execEchoPhaseTimeout link s) := by
  unfold execEchoPhaseTimeout
  refine OKeeps.next ?_
  split
  · exact State.linkFault_keeps _ _ h
  · exact State.linkFault_keeps _ _ h
  · exact h

theorem execLinkCtrlAuthenticate_keeps {s0 : State} (ring : Fin 16) {s : State} (h : Keeps s0 s) : OKeeps s0 (execLinkCtrlAuthenticate ring s) := by
  unfold execLinkCtrlAuthenticate
  refine OKeeps.next ?_
  refine State.linkCtrl_keeps _ _ _ (fun _ _ h1 => ?_) ?_
  · refine Keeps.ite ?_ ?_
    · exact h1
    · exact State.sendChallenge_keeps _ h1
  · exact h

theorem execLinkCtrlPrbsStart_keeps {s0 : State} (ring : Fin 16) {s : State} (h : Keeps s0 s) : OKeeps s0 (execLinkCtrlPrbsStart ring s) := by
  unfold execLinkCtrlPrbsStart
  refine OKeeps.next ?_
  refine State.linkCtrl_keeps _ _ _ (fun _ _ h1 => ?_) ?_
  · exact State.startPrbs_keeps _ _ h1
  · exact h

theorem execLinkResetExpiry_keeps {s0 : State} (link : Fin 32) {s : State} (h : Keeps s0 s) : OKeeps s0 (execLinkResetExpiry link s) := by
  unfold execLinkResetExpiry
  refine OKeeps.next ?_
  refine Keeps.ite ?_ ?_
  · extract_lets -merge -underBinder +onlyGivenNames z_1 x2
    have hx2 : Keeps s0 x2 := by
      refine Keeps.upd ?_
      exact h
    refine Keeps.ite ?_ ?_
    · exact hx2
    · refine State.bringUp_keeps _ ?_
      refine Keeps.upd ?_
      exact hx2
  · exact h

theorem execEchoReplyTimeout_keeps {s0 : State} (link : Fin 32) (id : BitVec 8) {s : State} (h : Keeps s0 s) : OKeeps s0 (execEchoReplyTimeout link id s) := by
  unfold execEchoReplyTimeout
  refine OKeeps.next ?_
  exact State.modLink_keeps _ _ h

theorem execBlockLockAcquire_keeps {s0 : State} (taken : Sys2Proof.LinkHeaders) {s : State} (h : Keeps s0 s) : OKeeps s0 (execBlockLockAcquire taken s) := by
  unfold execBlockLockAcquire
  refine OKeeps.next ?_
  refine Keeps.ite ?_ ?_
  · exact State.lockIn_keeps _ h
  · exact h

theorem execCfgConfirmTimeout_keeps {s0 : State} (link : Fin 32) {s : State} (h : Keeps s0 s) : OKeeps s0 (execCfgConfirmTimeout link s) := by
  unfold execCfgConfirmTimeout
  refine OKeeps.next ?_
  split
  · exact h
  · refine Keeps.ite ?_ ?_
    · exact State.linkFault_keeps _ _ h
    · exact h

end Sys2Proof.Machine
end

