-- ==== Sys2Proof/Laws/KeepsTwinOps.lean ====
section
/-! SUPPORT. What the operations of Machine/TwinOps.lean keep. -/

set_option Elab.async false

namespace Sys2Proof.Machine

theorem State.joinCheck_keeps {s0 : State} {s : State} (h : Keeps s0 s) : Keeps s0 (State.joinCheck s) := by
  unfold State.joinCheck
  extract_lets -merge -underBinder +onlyGivenNames x1
  refine Keeps.ite ?_ ?_
  · refine Keeps.upd ?_
    exact h
  · exact h

theorem State.unblock_keeps {s0 : State} {s : State} (h : Keeps s0 s) : Keeps s0 (State.unblock s) := by
  unfold State.unblock
  extract_lets -merge -underBinder +onlyGivenNames x1
  extract_lets -merge -underBinder +onlyGivenNames z_2 x3
  have hx3 : Keeps s0 x3 := by
    refine Keeps.upd ?_
    exact h
  exact State.stopPlanes_keeps _ _ (State.stopPlanes_keeps _ _ (State.stopPlanes_keeps _ _ (State.stopPlanes_keeps _ _ hx3)))

theorem State.idleAll_keeps {s0 : State} {s : State} (h : Keeps s0 s) : Keeps s0 (State.idleAll s) := by
  unfold State.idleAll
  refine Keeps.foldl (fun _ _ h1 => ?_) ?_
  · refine Keeps.ite ?_ ?_
    · exact State.sendIdle_keeps _ h1
    · exact h1
  · exact h

theorem State.takeOver_keeps {s0 : State} {s : State} (first : Vector Nat 8) (h : Keeps s0 s) : Keeps s0 (State.takeOver s first) := by
  unfold State.takeOver
  extract_lets -merge -underBinder +onlyGivenNames x1
  extract_lets -merge -underBinder +onlyGivenNames x2
  extract_lets -merge -underBinder +onlyGivenNames z_3 z_4 z_5 x6
  have hx6 : Keeps s0 x6 := by
    refine Keeps.upd ?_
    exact h
  extract_lets -merge -underBinder +onlyGivenNames x7
  have hx7 : Keeps s0 x7 := State.unblock_keeps (State.clearCause_keeps _ _ (State.idleAll_keeps (State.twinSend_keeps _ hx6)))
  refine State.settle_keeps _ ?_
  refine Keeps.foldl (fun _ _ h8 => ?_) ?_
  · exact State.loopsOff_keeps _ h8
  · exact hx7

theorem State.twinDisagree_keeps {s0 : State} {s : State} (p : Fin 8) (n : Nat) (k : Fin 32) (h : Keeps s0 s) : Keeps s0 (State.twinDisagree s p n k) := by
  unfold State.twinDisagree
  refine Keeps.ite ?_ ?_
  · exact h
  · refine State.log_keeps _ _ _ _ ?_
    refine Keeps.upd ?_
    exact h

theorem State.judge_keeps {s0 : State} {s : State} (own : Sig) (peer : Sig) (ks : List (Fin 32)) (h : Keeps s0 s) : Keeps s0 (State.judge s own peer ks) := by
  unfold State.judge
  extract_lets -merge -underBinder +onlyGivenNames x1
  split
  · refine Keeps.ite ?_ ?_
    · exact State.twinFails_keeps _ h
    · exact State.takeOver_keeps _ h
  · refine Keeps.ite ?_ ?_
    · exact h
    · exact State.twinFails_keeps _ h
  · refine Keeps.foldl (fun _ _ h2 => ?_) ?_
    · exact State.twinDisagree_keeps _ _ _ h2
    · refine Keeps.upd ?_
      exact h

theorem State.compareSig_keeps {s0 : State} {s : State} (own : Sig) (peer : Sig) (h : Keeps s0 s) : Keeps s0 (State.compareSig s own peer) := by
  unfold State.compareSig
  extract_lets -merge -underBinder +onlyGivenNames x1
  refine Keeps.ite ?_ ?_
  · exact h
  · split
    · exact State.joinCheck_keeps (State.modTwin_keeps _ _ h)
    · extract_lets -merge -underBinder +onlyGivenNames x2
      have hx2 : Keeps s0 x2 := State.modTwin_keeps _ _ h
      refine Keeps.ite ?_ ?_
      · exact hx2
      · exact State.judge_keeps _ _ _ hx2

theorem State.closeSig_keeps {s0 : State} {s : State} (p : Fin 8) (n : Nat) (h : Keeps s0 s) : Keeps s0 (State.closeSig s p n) := by
  unfold State.closeSig
  split
  · exact h
  · extract_lets -merge -underBinder +onlyGivenNames z_1 x2
    have hx2 : Keeps s0 x2 := by
      refine State.twinSend_keeps _ ?_
      refine Keeps.upd ?_
      exact h
    split
    · refine State.compareSig_keeps _ _ ?_
      refine Keeps.upd ?_
      exact hx2
    · refine Keeps.upd ?_
      exact hx2

theorem State.swapCheck_keeps {s0 : State} {s : State} (h : Keeps s0 s) : Keeps s0 (State.swapCheck s) := by
  unfold State.swapCheck
  split
  · exact h
  · extract_lets -merge -underBinder +onlyGivenNames x1
    extract_lets -merge -underBinder +onlyGivenNames x2
    extract_lets -merge -underBinder +onlyGivenNames z_3 x4
    have hx4 : Keeps s0 x4 := by
      refine Keeps.ite ?_ ?_
      · refine State.idleAll_keeps ?_
        refine Keeps.upd ?_
        exact h
      · exact h
    refine Keeps.ite ?_ ?_
    · refine State.complete_keeps _ _ _ ?_
      refine Keeps.upd ?_
      exact hx4
    · exact hx4

theorem State.signLine_keeps {s0 : State} {s : State} (p : Fin 8) (n : Nat) (k : Fin 32) (crc : BitVec 32) (h : Keeps s0 s) : Keeps s0 (State.signLine s p n k crc) := by
  unfold State.signLine
  refine Keeps.upd ?_
  exact h

end Sys2Proof.Machine
end

