-- ==== Sys2Proof/Laws/KeepsFireCommands.lean ====
section
/-! SUPPORT. What the operations of Machine/FireCommands.lean keep. -/

set_option Elab.async false

namespace Sys2Proof.Machine

theorem State.writeFirCtrl_keeps {s0 : State} {s : State} (v : Sys2Proof.Word) (h : Keeps s0 s) : Keeps s0 (State.writeFirCtrl s v) := by
  unfold State.writeFirCtrl
  extract_lets -merge -underBinder +onlyGivenNames x1
  extract_lets -merge -underBinder +onlyGivenNames z_2 x3
  have hx3 : Keeps s0 x3 := by
    refine Keeps.upd ?_
    exact h
  extract_lets -merge -underBinder +onlyGivenNames x4
  have hx4 : Keeps s0 x4 := State.clearCause_keeps _ _ (State.assertCause_keeps _ _ hx3)
  refine State.settle_keeps _ ?_
  refine Keeps.foldl (fun _ _ h5 => ?_) ?_
  · exact State.resumeForward_keeps _ h5
  · exact hx4

theorem execFirCtrlStopWrite_keeps {s0 : State} (value : Sys2Proof.Word) {s : State} (h : Keeps s0 s) : OKeeps s0 (execFirCtrlStopWrite value s) := by
  unfold execFirCtrlStopWrite
  refine OKeeps.next ?_
  refine State.onWrite_keeps _ _ (fun _ h1 => ?_) ?_
  · exact State.writeFirCtrl_keeps _ h1
  · exact h

theorem execJobClose_keeps {s0 : State} (ring : Fin 16) {s : State} (h : Keeps s0 s) : OKeeps s0 (execJobClose ring s) := by
  unfold execJobClose
  refine OKeeps.next ?_
  refine State.withEntryAt_keeps _ _ _ (fun _ _ h1 => ?_) ?_
  · extract_lets -merge -underBinder +onlyGivenNames x2
    have hx2 : Keeps s0 x2 := by
      refine Keeps.foldl (fun _ _ h3 => ?_) ?_
      · exact State.closePlane_keeps _ _ _ h3
      · exact State.waitFlight_keeps _ h1
    exact State.settle_keeps _ (State.closeDone_keeps _ hx2)
  · exact h

theorem execLineCommit_keeps {s0 : State} (plane : Fin 8) (at_ : Nat) {s : State} (h : Keeps s0 s) : OKeeps s0 (execLineCommit plane at_ s) := by
  unfold execLineCommit
  refine OKeeps.next ?_
  extract_lets -merge -underBinder +onlyGivenNames x1
  have hx1 : Keeps s0 x1 := State.advance_keeps _ h
  exact State.settle_keeps _ (State.commitDue_keeps _ hx1)

theorem execFirNowDiscipline_keeps {s0 : State} (at_ : Nat) {s : State} (h : Keeps s0 s) : OKeeps s0 (execFirNowDiscipline at_ s) := by
  unfold execFirNowDiscipline
  refine OKeeps.next ?_
  extract_lets -merge -underBinder +onlyGivenNames x1
  have hx1 : Keeps s0 x1 := State.advance_keeps _ h
  refine Keeps.ite ?_ ?_
  · refine Keeps.ite ?_ ?_
    · exact State.realignFir_keeps hx1
    · exact State.disciplineFir_keeps hx1
  · exact hx1

theorem execLineLaunch_keeps {s0 : State} (plane : Fin 8) (at_ : Nat) {s : State} (h : Keeps s0 s) : OKeeps s0 (execLineLaunch plane at_ s) := by
  unfold execLineLaunch
  refine OKeeps.next ?_
  extract_lets -merge -underBinder +onlyGivenNames x1
  have hx1 : Keeps s0 x1 := State.advance_keeps _ h
  exact State.swapCheck_keeps (State.settle_keeps _ (State.launchDue_keeps _ hx1))

theorem execJobOpen_keeps {s0 : State} (ring : Fin 16) {s : State} (h : Keeps s0 s) : OKeeps s0 (execJobOpen ring s) := by
  unfold execJobOpen
  refine OKeeps.next ?_
  refine State.withEntryAt_keeps _ _ _ (fun _ _ h1 => ?_) ?_
  · exact State.complete_keeps _ _ _ (State.openPlanes_keeps _ _ h1)
  · exact h

theorem execFirCtrlResumeFwd_keeps {s0 : State} (value : Sys2Proof.Word) {s : State} (h : Keeps s0 s) : OKeeps s0 (execFirCtrlResumeFwd value s) := by
  unfold execFirCtrlResumeFwd
  refine OKeeps.next ?_
  refine State.onWrite_keeps _ _ (fun _ h1 => ?_) ?_
  · exact State.writeFirCtrl_keeps _ h1
  · exact h

end Sys2Proof.Machine
end

