-- ==== Sys2Proof/Laws/KeepsScreening.lean ====
section
/-! SUPPORT. What the operations of Machine/Screening.lean keep. -/

set_option Elab.async false

namespace Sys2Proof.Machine

theorem State.useChambers_keeps {s0 : State} {s : State} (p : Fin 8) (n : Nat) (h : Keeps s0 s) : Keeps s0 (State.useChambers s p n) := by
  unfold State.useChambers
  refine Keeps.foldl (fun _ _ h1 => ?_) ?_
  · extract_lets -merge -underBinder +onlyGivenNames x2
    split
    · refine Keeps.ite ?_ ?_
      · exact State.modChamber_keeps _ _ h1
      · exact h1
    · exact h1
  · exact h

theorem State.markWritten_keeps {s0 : State} {s : State} (p : Fin 8) (n : Nat) (src : LineSource) (issued : Bool) (h : Keeps s0 s) : Keeps s0 (State.markWritten s p n src issued) := by
  unfold State.markWritten
  extract_lets -merge -underBinder +onlyGivenNames x1
  extract_lets -merge -underBinder +onlyGivenNames x2
  refine Keeps.upd ?_
  exact h

theorem State.readSource_keeps {s0 : State} {s : State} (src : LineSource) (n : Nat) (h : Keeps s0 s) : Keeps s0 (State.readSource s src n) := by
  unfold State.readSource
  split
  · exact h
  · split
    · split
      · refine Keeps.ite ?_ ?_
        · exact State.decodeTo_keeps _ _ h
        · exact h
      · exact h
    · exact h

theorem State.writeSlotUnit_keeps {s0 : State} {s : State} (b : Nat) (a : Nat) (u : Nat) (lv : Nat → Option Nat) (h : Keeps s0 s) : Keeps s0 (State.writeSlotUnit s b a u lv) := by
  unfold State.writeSlotUnit
  extract_lets -merge -underBinder +onlyGivenNames x1
  refine Keeps.ite ?_ ?_
  · exact h
  · extract_lets -merge -underBinder +onlyGivenNames x2
    extract_lets -merge -underBinder +onlyGivenNames x3
    extract_lets -merge -underBinder +onlyGivenNames x4
    extract_lets -merge -underBinder +onlyGivenNames x5
    extract_lets -merge -underBinder +onlyGivenNames x6
    have hx6 : Keeps s0 x6 := State.dramPutUnit_keeps _ _ _ _ h
    extract_lets -merge -underBinder +onlyGivenNames z_7 x8
    have hx8 : Keeps s0 x8 := by
      refine Keeps.ite ?_ ?_
      · refine Keeps.upd ?_
        exact hx6
      · exact hx6
    refine Keeps.ite ?_ ?_
    · exact State.spoilUnit_keeps _ (State.recordUe_keeps _ _ hx8)
    · exact hx8

theorem State.writeSlot_keeps {s0 : State} {s : State} (p : Fin 8) (n : Nat) (ws : List (Nat × Nat)) (h : Keeps s0 s) : Keeps s0 (State.writeSlot s p n ws) := by
  unfold State.writeSlot
  extract_lets -merge -underBinder +onlyGivenNames x1
  refine Keeps.foldl (fun _ _ h2 => ?_) ?_
  · exact State.writeSlotUnit_keeps _ _ _ _ h2
  · exact h

theorem State.writeLine_keeps {s0 : State} {s : State} (p : Fin 8) (n : Nat) (x : Source) (ws : List (Nat × Nat)) (h : Keeps s0 s) : Keeps s0 (State.writeLine s p n x ws) := by
  unfold State.writeLine
  extract_lets -merge -underBinder +onlyGivenNames x1
  extract_lets -merge -underBinder +onlyGivenNames x2
  extract_lets -merge -underBinder +onlyGivenNames x3
  extract_lets -merge -underBinder +onlyGivenNames x4
  have hx4 : Keeps s0 x4 := by
    refine Keeps.ite ?_ ?_
    · exact h
    · exact State.useChambers_keeps _ _ (State.writeSlot_keeps _ _ _ h)
  extract_lets -merge -underBinder +onlyGivenNames z_5 x6
  have hx6 : Keeps s0 x6 := by
    refine State.countEvent_keeps _ _ _ ?_
    refine Keeps.upd ?_
    exact hx4
  exact State.settle_keeps _ (State.advanceReady_keeps _ (State.markWritten_keeps _ _ _ _ hx6))

theorem execScreenLineWrite_keeps {s0 : State} (plane : Fin 8) (line : Nat) (source : LineSource) {s : State} (h : Keeps s0 s) : OKeeps s0 (execScreenLineWrite plane line source s) := by
  unfold execScreenLineWrite
  refine OKeeps.next ?_
  refine Keeps.ite ?_ ?_
  · extract_lets -merge -underBinder +onlyGivenNames x1
    have hx1 : Keeps s0 x1 := State.readSource_keeps _ _ h
    split
    · exact h
    · refine Keeps.ite ?_ ?_
      · exact h
      · split
        · exact State.writeLine_keeps _ _ _ _ hx1
        · exact hx1
  · exact h

theorem State.writeScrCfg_keeps {s0 : State} {s : State} (v : Sys2Proof.Word) (h : Keeps s0 s) : Keeps s0 (State.writeScrCfg s v) := by
  unfold State.writeScrCfg
  extract_lets -merge -underBinder +onlyGivenNames x1
  have hx1 : Keeps s0 x1 := State.hostWrite_keeps _ _ h
  refine Keeps.ite ?_ ?_
  · exact hx1
  · refine Keeps.foldl (fun _ _ h2 => ?_) ?_
    · exact State.linkFault_keeps _ _ h2
    · exact hx1

theorem execScrCfgBitsWrite_keeps {s0 : State} (value : Sys2Proof.Word) {s : State} (h : Keeps s0 s) : OKeeps s0 (execScrCfgBitsWrite value s) := by
  unfold execScrCfgBitsWrite
  refine OKeeps.next ?_
  refine State.onWrite_keeps _ _ (fun _ h1 => ?_) ?_
  · exact State.writeScrCfg_keeps _ h1
  · exact h

end Sys2Proof.Machine
end

