-- ==== Sys2Proof/Laws/KeepsGutter.lean ====
section
/-! SUPPORT. What the operations of Machine/Gutter.lean keep. -/

set_option Elab.async false

namespace Sys2Proof.Machine

theorem State.noteSample_keeps {s0 : State} {s : State} (p : Fin 8) (f : Nat) (live : BitVec 32) (h : Keeps s0 s) : Keeps s0 (State.noteSample s p f live) := by
  unfold State.noteSample
  split
  · refine Keeps.ite ?_ ?_
    · exact h
    · refine Keeps.upd ?_
      exact h
  · refine Keeps.upd ?_
    exact h

theorem State.modGutter_keeps {s0 : State} {s : State} (n : Fin 32) (f : LinkGutter → LinkGutter) (h : Keeps s0 s) : Keeps s0 (State.modGutter s n f) := by
  unfold State.modGutter
  refine Keeps.upd ?_
  exact h

theorem State.fillSlot_keeps {s0 : State} {s : State} (n : Fin 32) (f : Nat) (ls : List (Nat × Nat)) (h : Keeps s0 s) : Keeps s0 (State.fillSlot s n f ls) := by
  unfold State.fillSlot
  exact State.modGutter_keeps _ _ h

theorem State.modBuf_keeps {s0 : State} {s : State} (n : Fin 32) (f : Nat) (g : FetchBuf → FetchBuf) (h : Keeps s0 s) : Keeps s0 (State.modBuf s n f g) := by
  unfold State.modBuf
  exact State.modGutter_keeps _ _ h

theorem State.openBuf_keeps {s0 : State} {s : State} (n : Fin 32) (p : Fin 8) (f : Nat) (h : Keeps s0 s) : Keeps s0 (State.openBuf s n p f) := by
  unfold State.openBuf
  refine Keeps.ite ?_ ?_
  · exact h
  · exact State.noteSample_keeps _ _ _ (State.modGutter_keeps _ _ h)

theorem State.readUnits_keeps {s0 : State} {s : State} (port : Fin 10) (us : List Nat) (h : Keeps s0 s) : Keeps s0 (State.readUnits s port us) := by
  unfold State.readUnits
  refine Keeps.foldl (fun _ _ h1 => ?_) ?_
  · exact State.dramReadUnit_keeps _ _ _ _ h1
  · exact h

theorem State.startFetch_keeps {s0 : State} {s : State} (n : Fin 32) (p : Fin 8) (j : Fin 16) (g : Seg) (f : Nat) (h : Keeps s0 s) : Keeps s0 (State.startFetch s n p j g f) := by
  unfold State.startFetch
  refine Keeps.ite ?_ ?_
  · exact State.modBuf_keeps _ _ _ (State.openBuf_keeps _ _ _ h)
  · extract_lets -merge -underBinder +onlyGivenNames x1
    extract_lets -merge -underBinder +onlyGivenNames x2
    extract_lets -merge -underBinder +onlyGivenNames x3
    have hx3 : Keeps s0 x3 := State.openBuf_keeps _ _ _ h
    extract_lets -merge -underBinder +onlyGivenNames x4
    extract_lets -merge -underBinder +onlyGivenNames x5
    exact State.readUnits_keeps _ _ (State.modBuf_keeps _ _ _ hx3)

theorem State.spoilBands_keeps {s0 : State} {s : State} (p : Fin 8) (m : Nat) (h : Keeps s0 s) : Keeps s0 (State.spoilBands s p m) := by
  unfold State.spoilBands
  extract_lets -merge -underBinder +onlyGivenNames x1
  refine Keeps.upd ?_
  exact h

theorem State.refillSlot_keeps {s0 : State} {s : State} (n : Fin 32) (p : Fin 8) (f : Nat) (h : Keeps s0 s) : Keeps s0 (State.refillSlot s n p f) := by
  unfold State.refillSlot
  extract_lets -merge -underBinder +onlyGivenNames x1
  refine Keeps.ite ?_ ?_
  · extract_lets -merge -underBinder +onlyGivenNames x2
    have hx2 : Keeps s0 x2 := by
      refine Keeps.foldl (fun _ _ h3 => ?_) ?_
      · exact State.spoilBands_keeps _ _ h3
      · exact h
    refine State.fillSlot_keeps _ _ _ ?_
    refine Keeps.upd ?_
    exact hx2
  · extract_lets -merge -underBinder +onlyGivenNames x4
    extract_lets -merge -underBinder +onlyGivenNames x5
    extract_lets -merge -underBinder +onlyGivenNames x6
    refine State.fillSlot_keeps _ _ _ ?_
    refine Keeps.foldl (fun _ _ h7 => ?_) ?_
    · exact State.readUnits_keeps _ _ h7
    · exact h

theorem execRefillDone_keeps {s0 : State} (link : Fin 32) {s : State} (h : Keeps s0 s) : OKeeps s0 (execRefillDone link s) := by
  unfold execRefillDone
  refine OKeeps.next ?_
  split
  · extract_lets -merge -underBinder +onlyGivenNames x1
    extract_lets -merge -underBinder +onlyGivenNames x2
    refine Keeps.ite ?_ ?_
    · refine State.modGutter_keeps _ _ ?_
      refine Keeps.foldl (fun _ _ h3 => ?_) ?_
      · exact State.refillSlot_keeps _ _ _ h3
      · exact h
    · exact h
  · exact h

theorem State.openGates_keeps {s0 : State} {s : State} (v : BitVec 32) (h : Keeps s0 s) : Keeps s0 (State.openGates s v) := by
  unfold State.openGates
  refine Keeps.upd ?_
  exact h

theorem State.linkDone_keeps {s0 : State} {s : State} (n : Fin 32) (p : Fin 8) (l : FireLine) (h : Keeps s0 s) : Keeps s0 (State.linkDone s n p l) := by
  unfold State.linkDone
  extract_lets -merge -underBinder +onlyGivenNames x1
  extract_lets -merge -underBinder +onlyGivenNames x2
  have hx2 : Keeps s0 x2 := State.modPlane_keeps _ _ h
  refine Keeps.ite ?_ ?_
  · exact State.closeSig_keeps _ _ hx2
  · exact hx2

theorem State.takeIn_keeps {s0 : State} {s : State} (n : Fin 32) (f : Nat) (buf : List (Nat × Nat)) (h : Keeps s0 s) : Keeps s0 (State.takeIn s n f buf) := by
  unfold State.takeIn
  exact State.modGutter_keeps _ _ h

theorem execFetchComplete_keeps {s0 : State} (link : Fin 32) (seg : Fin 16) {s : State} (h : Keeps s0 s) : OKeeps s0 (execFetchComplete link seg s) := by
  unfold execFetchComplete
  refine OKeeps.next ?_
  split
  · refine Keeps.ite ?_ ?_
    · extract_lets -merge -underBinder +onlyGivenNames x1
      have hx1 : Keeps s0 x1 := State.modBuf_keeps _ _ _ h
      refine State.countEvent_keeps _ _ _ ?_
      refine Keeps.upd ?_
      exact hx1
    · exact h
  · exact h

theorem State.closeGates_keeps {s0 : State} {s : State} (v : BitVec 32) (h : Keeps s0 s) : Keeps s0 (State.closeGates s v) := by
  unfold State.closeGates
  extract_lets -merge -underBinder +onlyGivenNames z_1 x2
  have hx2 : Keeps s0 x2 := by
    refine Keeps.upd ?_
    exact h
  refine Keeps.foldl (fun _ _ h3 => ?_) ?_
  · refine Keeps.ite ?_ ?_
    · exact State.gutterSilent_keeps _ h3
    · exact h3
  · exact hx2

theorem execCsmGateCloseWrite_keeps {s0 : State} (value : Sys2Proof.Word) {s : State} (h : Keeps s0 s) : OKeeps s0 (execCsmGateCloseWrite value s) := by
  unfold execCsmGateCloseWrite
  refine OKeeps.next ?_
  refine State.onWrite_keeps _ _ (fun _ h1 => ?_) ?_
  · exact State.closeGates_keeps _ h1
  · exact h

theorem State.discardLine_keeps {s0 : State} {s : State} (h : Keeps s0 s) : Keeps s0 (State.discardLine s) := by
  unfold State.discardLine
  refine State.countEvent_keeps _ _ _ ?_
  refine Keeps.upd ?_
  exact h

theorem execCsmGateOpenWrite_keeps {s0 : State} (value : Sys2Proof.Word) {s : State} (h : Keeps s0 s) : OKeeps s0 (execCsmGateOpenWrite value s) := by
  unfold execCsmGateOpenWrite
  refine OKeeps.next ?_
  refine State.onWrite_keeps _ _ (fun _ h1 => ?_) ?_
  · exact State.openGates_keeps _ h1
  · exact h

theorem execRasterFetchStart_keeps {s0 : State} (link : Fin 32) (seg : Fin 16) {s : State} (h : Keeps s0 s) : OKeeps s0 (execRasterFetchStart link seg s) := by
  unfold execRasterFetchStart
  refine OKeeps.next ?_
  split
  · refine Keeps.ite ?_ ?_
    · split
      · refine Keeps.ite ?_ ?_
        · exact State.startFetch_keeps _ _ _ _ _ h
        · exact h
      · exact h
    · exact h
  · exact h

theorem execRefillStart_keeps {s0 : State} (link : Fin 32) {s : State} (h : Keeps s0 s) : OKeeps s0 (execRefillStart link s) := by
  unfold execRefillStart
  refine OKeeps.next ?_
  split
  · refine Keeps.ite ?_ ?_
    · exact State.modGutter_keeps _ _ h
    · exact h
  · exact h

theorem State.sendLine_keeps {s0 : State} {s : State} (n : Fin 32) (p : Fin 8) (l : FireLine) (level : Nat → Nat) (h : Keeps s0 s) : Keeps s0 (State.sendLine s n p l level) := by
  unfold State.sendLine
  extract_lets -merge -underBinder +onlyGivenNames x1
  extract_lets -merge -underBinder +onlyGivenNames x2
  have hx2 : Keeps s0 x2 := State.modLink_keeps _ _ h
  extract_lets -merge -underBinder +onlyGivenNames x3
  extract_lets -merge -underBinder +onlyGivenNames x4
  extract_lets -merge -underBinder +onlyGivenNames x5
  have hx5 : Keeps s0 x5 := State.signLine_keeps _ _ _ _ hx2
  refine Keeps.ite ?_ ?_
  · exact State.countEvent_keeps _ _ _ (State.emit_keeps _ (State.modLink_keeps _ _ hx5))
  · exact hx5

theorem State.gutterLine_keeps {s0 : State} {s : State} (n : Fin 32) (p : Fin 8) (l : FireLine) (h : Keeps s0 s) : Keeps s0 (State.gutterLine s n p l) := by
  unfold State.gutterLine
  extract_lets -merge -underBinder +onlyGivenNames x1
  extract_lets -merge -underBinder +onlyGivenNames x2
  split
  · exact State.discardLine_keeps h
  · exact State.discardLine_keeps (State.takeIn_keeps _ _ _ h)
  · extract_lets -merge -underBinder +onlyGivenNames x3
    split
    · extract_lets -merge -underBinder +onlyGivenNames x4
      have hx4 : Keeps s0 x4 := State.modGutter_keeps _ _ h
      refine Keeps.ite ?_ ?_
      · exact hx4
      · refine Keeps.ite ?_ ?_
        · exact State.sendLine_keeps _ _ _ _ hx4
        · exact State.discardLine_keeps hx4
    · refine Keeps.ite ?_ ?_
      · exact State.takeIn_keeps _ _ _ h
      · refine Keeps.ite ?_ ?_
        · exact State.modGutter_keeps _ _ (State.takeIn_keeps _ _ _ (State.sendLine_keeps _ _ _ _ h))
        · exact State.discardLine_keeps (State.takeIn_keeps _ _ _ h)

theorem execGutterEmit_keeps {s0 : State} (link : Fin 32) (at_ : Nat) {s : State} (h : Keeps s0 s) : OKeeps s0 (execGutterEmit link at_ s) := by
  unfold execGutterEmit
  refine OKeeps.next ?_
  extract_lets -merge -underBinder +onlyGivenNames x1
  have hx1 : Keeps s0 x1 := State.advance_keeps _ h
  split
  · refine Keeps.ite ?_ ?_
    · exact State.settleBank_keeps _ (State.linkDone_keeps _ _ _ (State.gutterLine_keeps _ _ _ hx1))
    · exact hx1
  · exact hx1

end Sys2Proof.Machine
end

