-- ==== Sys2Proof/Laws/KeepsLockCommands.lean ====
section
/-! SUPPORT. What the operations of Machine/LockCommands.lean keep. -/

set_option Elab.async false

namespace Sys2Proof.Machine

theorem execChamberCheckEnd_keeps {s0 : State} (chamber : Fin 4) {s : State} (h : Keeps s0 s) : OKeeps s0 (execChamberCheckEnd chamber s) := by
  unfold execChamberCheckEnd
  refine OKeeps.next ?_
  refine Keeps.ite ?_ ?_
  · exact State.settle_keeps _ (State.endCheck_keeps _ (State.readStore_keeps _ _ h))
  · exact h

theorem State.commitIn_keeps {s0 : State} {s : State} (k : Fin 4) (h : Keeps s0 s) : Keeps s0 (State.commitIn s k) := by
  unfold State.commitIn
  extract_lets -merge -underBinder +onlyGivenNames x1
  have hx1 : Keeps s0 x1 := State.modChamber_keeps _ _ h
  split
  · exact h
  · refine Keeps.ite ?_ ?_
    · exact State.rejectChamber_keeps _ _ hx1
    · exact State.beginApply_keeps _ hx1

theorem execLockCommitRx_keeps {s0 : State} (node : BitVec 10) (chamber : Fin 4) {s : State} (h : Keeps s0 s) : OKeeps s0 (execLockCommitRx node chamber s) := by
  unfold execLockCommitRx
  refine OKeeps.next ?_
  extract_lets -merge -underBinder +onlyGivenNames x1
  refine Keeps.ite ?_ ?_
  · exact State.settle_keeps _ (State.commitIn_keeps _ h)
  · exact h

theorem execRingLockWaitTimeout_keeps {s0 : State} (chamber : Fin 4) {s : State} (h : Keeps s0 s) : OKeeps s0 (execRingLockWaitTimeout chamber s) := by
  unfold execRingLockWaitTimeout
  refine OKeeps.next ?_
  split
  · refine Keeps.ite ?_ ?_
    · exact State.rejectChamber_keeps _ _ h
    · exact h
  · exact h

theorem State.lockReplyIn_keeps {s0 : State} {s : State} (node : BitVec 10) (k : Fin 4) (armed : Bool) (h : Keeps s0 s) : Keeps s0 (State.lockReplyIn s node k armed) := by
  unfold State.lockReplyIn
  split
  · exact h
  · refine Keeps.ite ?_ ?_
    · exact h
    · refine Keeps.ite ?_ ?_
      · exact State.rejectChamber_keeps _ _ h
      · extract_lets -merge -underBinder +onlyGivenNames x1
        extract_lets -merge -underBinder +onlyGivenNames x2
        have hx2 : Keeps s0 x2 := State.modChamber_keeps _ _ h
        refine Keeps.ite ?_ ?_
        · exact State.ringCommit_keeps _ hx2
        · exact hx2

theorem execLockOpen_keeps {s0 : State} (ring : Fin 16) {s : State} (h : Keeps s0 s) : OKeeps s0 (execLockOpen ring s) := by
  unfold execLockOpen
  refine OKeeps.next ?_
  refine State.withEntryAt_keeps _ _ _ (fun _ _ h1 => ?_) ?_
  · refine Keeps.ite ?_ ?_
    · exact State.complete_keeps _ _ _ (State.openChamber_keeps _ h1)
    · exact State.complete_keeps _ _ _ h1
  · exact h

theorem State.appendEntry_keeps {s0 : State} {s : State} (k : Fin 4) (v : Sys2Proof.Word) (h : Keeps s0 s) : Keeps s0 (State.appendEntry s k v) := by
  unfold State.appendEntry
  exact State.modChamber_keeps _ _ h

theorem execLckSdataWrite_keeps {s0 : State} (chamber : Fin 4) (value : Sys2Proof.Word) {s : State} (h : Keeps s0 s) : OKeeps s0 (execLckSdataWrite chamber value s) := by
  unfold execLckSdataWrite
  refine OKeeps.next ?_
  refine State.onWrite_keeps _ _ (fun _ h1 => ?_) ?_
  · exact State.appendEntry_keeps _ _ h1
  · exact h

theorem execLockArmRx_keeps {s0 : State} (node : BitVec 10) (group : BitVec 8) (chamber : Fin 4) (kind : Fin 4) (plane : Fin 8) (instant : BitVec 64) {s : State} (h : Keeps s0 s) : OKeeps s0 (execLockArmRx node group chamber kind plane instant s) := by
  unfold execLockArmRx
  refine OKeeps.next ?_
  refine Keeps.ite ?_ ?_
  · refine Keeps.ite ?_ ?_
    · exact State.modChamber_keeps _ _ h
    · exact State.ringSend_keeps _ h
  · exact h

theorem execLockAbortRx_keeps {s0 : State} (node : BitVec 10) (chamber : Fin 4) {s : State} (h : Keeps s0 s) : OKeeps s0 (execLockAbortRx node chamber s) := by
  unfold execLockAbortRx
  refine OKeeps.next ?_
  extract_lets -merge -underBinder +onlyGivenNames x1
  refine Keeps.ite ?_ ?_
  · exact h
  · refine Keeps.ite ?_ ?_
    · exact State.rejectChamber_keeps _ _ (State.modChamber_keeps _ _ h)
    · exact State.modChamber_keeps _ _ h

theorem execChamberCheckStart_keeps {s0 : State} (chamber : Fin 4) {s : State} (h : Keeps s0 s) : OKeeps s0 (execChamberCheckStart chamber s) := by
  unfold execChamberCheckStart
  refine OKeeps.next ?_
  refine Keeps.ite ?_ ?_
  · exact State.startCheck_keeps _ h
  · exact h

theorem State.askLock_keeps {s0 : State} {s : State} (f : Flight) (a : LockAsk) (h : Keeps s0 s) : Keeps s0 (State.askLock s f a) := by
  unfold State.askLock
  extract_lets -merge -underBinder +onlyGivenNames x1
  refine Keeps.ite ?_ ?_
  · exact State.waitFlight_keeps _ (State.modChamber_keeps _ _ h)
  · exact State.complete_keeps _ _ _ h

theorem execLockArm_keeps {s0 : State} (ring : Fin 16) {s : State} (h : Keeps s0 s) : OKeeps s0 (execLockArm ring s) := by
  unfold execLockArm
  refine OKeeps.next ?_
  refine State.withEntryAt_keeps _ _ _ (fun _ _ h1 => ?_) ?_
  · exact State.askLock_keeps _ _ h1
  · exact h

theorem execLockReplyRx_keeps {s0 : State} (node : BitVec 10) (chamber : Fin 4) (armed : Bool) {s : State} (h : Keeps s0 s) : OKeeps s0 (execLockReplyRx node chamber armed s) := by
  unfold execLockReplyRx
  refine OKeeps.next ?_
  refine Keeps.ite ?_ ?_
  · exact State.settle_keeps _ (State.lockReplyIn_keeps _ _ _ h)
  · exact h

theorem execLockDiscard_keeps {s0 : State} (ring : Fin 16) {s : State} (h : Keeps s0 s) : OKeeps s0 (execLockDiscard ring s) := by
  unfold execLockDiscard
  refine OKeeps.next ?_
  refine State.withEntryAt_keeps _ _ _ (fun _ _ h1 => ?_) ?_
  · extract_lets -merge -underBinder +onlyGivenNames x2
    refine Keeps.ite ?_ ?_
    · exact State.complete_keeps _ _ _ h1
    · refine Keeps.ite ?_ ?_
      · exact State.complete_keeps _ _ _ h1
      · exact State.complete_keeps _ _ _ (State.discardChamber_keeps _ h1)
  · exact h

theorem execLockCheck_keeps {s0 : State} (ring : Fin 16) {s : State} (h : Keeps s0 s) : OKeeps s0 (execLockCheck ring s) := by
  unfold execLockCheck
  refine OKeeps.next ?_
  refine State.withEntryAt_keeps _ _ _ (fun _ _ h1 => ?_) ?_
  · exact State.askLock_keeps _ _ h1
  · exact h

theorem execChamberApplyInstant_keeps {s0 : State} (chamber : Fin 4) (at_ : Nat) {s : State} (h : Keeps s0 s) : OKeeps s0 (execChamberApplyInstant chamber at_ s) := by
  unfold execChamberApplyInstant
  refine OKeeps.next ?_
  extract_lets -merge -underBinder +onlyGivenNames x1
  have hx1 : Keeps s0 x1 := State.advance_keeps _ h
  split
  · refine Keeps.ite ?_ ?_
    · exact State.settle_keeps _ (State.instantCome_keeps _ hx1)
    · exact hx1
  · exact hx1

theorem execChamberApplyCopyDone_keeps {s0 : State} (chamber : Fin 4) {s : State} (h : Keeps s0 s) : OKeeps s0 (execChamberApplyCopyDone chamber s) := by
  unfold execChamberApplyCopyDone
  refine OKeeps.next ?_
  extract_lets -merge -underBinder +onlyGivenNames x1
  refine Keeps.ite ?_ ?_
  · exact State.settle_keeps _ (State.copyEnded_keeps _ (State.readStore_keeps _ _ h))
  · exact h

theorem execLockOutcomeRx_keeps {s0 : State} (node : BitVec 10) (chamber : Fin 4) (applied : Bool) {s : State} (h : Keeps s0 s) : OKeeps s0 (execLockOutcomeRx node chamber applied s) := by
  unfold execLockOutcomeRx
  refine OKeeps.next ?_
  extract_lets -merge -underBinder +onlyGivenNames x1
  refine Keeps.ite ?_ ?_
  · exact h
  · refine Keeps.ite ?_ ?_
    · exact State.settle_keeps _ (State.ringDone_keeps _ (State.modChamber_keeps _ _ h))
    · exact State.modChamber_keeps _ _ h

end Sys2Proof.Machine
end

