-- ==== Sys2Proof/Laws/KeepsLoops.lean ====
section
/-! SUPPORT. What the operations of Machine/Loops.lean keep. -/

set_option Elab.async false

namespace Sys2Proof.Machine

theorem State.admitBand_keeps {s0 : State} {s : State} (f : Flight) (h : Keeps s0 s) : Keeps s0 (State.admitBand s f) := by
  unfold State.admitBand
  extract_lets -merge -underBinder +onlyGivenNames x1
  refine Keeps.ite ?_ ?_
  · exact State.complete_keeps _ _ _ h
  · refine Keeps.ite ?_ ?_
    · exact State.waitFlight_keeps _ h
    · refine State.complete_keeps _ _ _ ?_
      refine Keeps.upd ?_
      exact h

theorem execServiceBandAdmit_keeps {s0 : State} (ring : Fin 16) {s : State} (h : Keeps s0 s) : OKeeps s0 (execServiceBandAdmit ring s) := by
  unfold execServiceBandAdmit
  refine OKeeps.next ?_
  split
  · refine Keeps.ite ?_ ?_
    · exact State.admitBand_keeps _ h
    · exact h
  · exact h

theorem State.takeBaseline_keeps {s0 : State} {s : State} (loop : Nat) (p : Fin 8) (h : Keeps s0 s) : Keeps s0 (State.takeBaseline s loop p) := by
  unfold State.takeBaseline
  extract_lets -merge -underBinder +onlyGivenNames x1
  extract_lets -merge -underBinder +onlyGivenNames x2
  exact State.modLoop_keeps _ _ h

theorem State.runLoop_keeps {s0 : State} {s : State} (loop : Nat) (p : Fin 8) (h : Keeps s0 s) : Keeps s0 (State.runLoop s loop p) := by
  unfold State.runLoop
  extract_lets -merge -underBinder +onlyGivenNames x1
  extract_lets -merge -underBinder +onlyGivenNames x2
  have hx2 : Keeps s0 x2 := by
    unfold x2
    split
    · exact State.loopEvent_keeps _ _ _ _ (State.takeBaseline_keeps _ _ (State.modLoop_keeps _ _ h))
    · exact State.modLoop_keeps _ _ (State.modLoop_keeps _ _ h)
    · exact h
  refine Keeps.ite ?_ ?_
  · exact State.placeWindows_keeps _ hx2
  · exact hx2

theorem execChamberBusyTimeout_keeps {s0 : State} (loop : Fin 3) {s : State} (h : Keeps s0 s) : OKeeps s0 (execChamberBusyTimeout loop s) := by
  unfold execChamberBusyTimeout
  refine OKeeps.next ?_
  split
  · exact h
  · refine Keeps.foldl (fun _ _ h1 => ?_) ?_
    · exact State.loopEvent_keeps _ _ _ _ h1
    · refine Keeps.upd ?_
      exact h

theorem State.loopCtrl_keeps {s0 : State} {s : State} (ring : Fin 16) (action : Nat) {act : Nat → Fin 8 → State → State}
    (ha : ∀ l p t, Keeps s0 t → Keeps s0 (act l p t)) (h : Keeps s0 s) : Keeps s0 (s.loopCtrl ring action act) := by
  unfold State.loopCtrl
  refine State.withEntryAt_keeps _ _ _ (fun f t ht => ?_) h
  extract_lets loop ps
  split
  · exact State.complete_keeps _ _ _ ht
  · exact State.complete_keeps _ _ _ (Keeps.foldl (fun _ _ hk => ha _ _ _ hk) ht)

theorem State.freezeLoop_keeps {s0 : State} {s : State} (loop : Nat) (p : Fin 8) (h : Keeps s0 s) : Keeps s0 (State.freezeLoop s loop p) := by
  unfold State.freezeLoop
  refine Keeps.ite ?_ ?_
  · exact State.loopEvent_keeps _ _ _ _ (State.modLoop_keeps _ _ (State.dropChanges_keeps _ _ h))
  · exact h

theorem execLoopCtrlFreeze_keeps {s0 : State} (ring : Fin 16) {s : State} (h : Keeps s0 s) : OKeeps s0 (execLoopCtrlFreeze ring s) := by
  unfold execLoopCtrlFreeze
  refine OKeeps.next ?_
  refine State.loopCtrl_keeps _ _ (fun _ _ _ h1 => ?_) ?_
  · exact State.freezeLoop_keeps _ _ h1
  · exact h

theorem State.takeWhite_keeps {s0 : State} {s : State} (p : Fin 8) (bins : List Bin) (h : Keeps s0 s) : Keeps s0 (State.takeWhite s p bins) := by
  unfold State.takeWhite
  split
  · exact h
  · exact State.modLoop_keeps _ _ h

theorem State.pickClears_keeps {s0 : State} {s : State} (staged xs : List (Nat × Nat)) (left : Nat) (out : List (Nat × Nat)) (h : Keeps s0 s) :
    Keeps s0 (s.pickClears staged xs left out).2 := by
  induction xs generalizing s left out with
  | nil => exact h
  | cons x xs ih =>
    unfold State.pickClears
    extract_lets gone others
    split
    · exact ih _ _ (State.loopEvent_keeps _ _ _ _ h)
    · split
      · exact ih _ _ h
      · exact ih _ _ h

theorem State.dropBand_keeps {s0 : State} {s : State} (b : Band) (h : Keeps s0 s) : Keeps s0 (State.dropBand s b) := by
  unfold State.dropBand
  refine Keeps.upd ?_
  exact h

theorem State.collNote_keeps {s0 : State} {s : State} (p : Fin 8) (c : CollStep) (h : Keeps s0 s) : Keeps s0 (State.collNote s p c) := by
  unfold State.collNote
  extract_lets -merge -underBinder +onlyGivenNames x1
  have hx1 : Keeps s0 x1 := State.modLoop_keeps _ _ h
  extract_lets -merge -underBinder +onlyGivenNames z_2 x3
  have hx3 : Keeps s0 x3 := by
    refine Keeps.ite ?_ ?_
    · refine State.loopEvent_keeps _ _ _ _ ?_
      refine Keeps.upd ?_
      exact hx1
    · exact hx1
  extract_lets -merge -underBinder +onlyGivenNames z_4 x5
  have hx5 : Keeps s0 x5 := by
    refine Keeps.ite ?_ ?_
    · refine State.loopEvent_keeps _ _ _ _ ?_
      refine Keeps.upd ?_
      exact hx3
    · exact hx3
  split
  · exact State.loopEvent_keeps _ _ _ _ hx5
  · exact hx5

theorem State.submitLoop_keeps {s0 : State} {s : State} (a : LoopApply) (h : Keeps s0 s) : Keeps s0 (State.submitLoop s a) := by
  unfold State.submitLoop
  refine State.admitLoops_keeps ?_
  refine Keeps.upd ?_
  exact h

theorem State.collCycle_keeps {s0 : State} {s : State} (h : Keeps s0 s) : Keeps s0 (State.collCycle s) := by
  unfold State.collCycle
  extract_lets -merge -underBinder +onlyGivenNames x1
  extract_lets -merge -underBinder +onlyGivenNames z_2 x3
  have hx3 : Keeps s0 x3 := by
    refine Keeps.upd ?_
    exact h
  refine Keeps.ite ?_ ?_
  · exact hx3
  · extract_lets -merge -underBinder +onlyGivenNames x4
    extract_lets -merge -underBinder +onlyGivenNames x5
    extract_lets -merge -underBinder +onlyGivenNames x6
    have hx6 : Keeps s0 x6 := by
      refine Keeps.foldl (fun _ _ h7 => ?_) ?_
      · exact State.collNote_keeps _ _ h7
      · exact hx3
    extract_lets -merge -underBinder +onlyGivenNames x8
    refine Keeps.ite ?_ ?_
    · exact hx6
    · exact State.submitLoop_keeps _ hx6

theorem State.densColumn_keeps {s0 : State} {s : State} (p : Fin 8) (c : Nat) (e : Frac) (h : Keeps s0 s) : Keeps s0 (State.densColumn s p c e).2 := by
  unfold State.densColumn
  split
  · extract_lets -merge -underBinder +onlyGivenNames x1
    have hx1 : Keeps s0 x1 := State.modLoop_keeps _ _ h
    extract_lets -merge -underBinder +onlyGivenNames z_2 x3
    have hx3 : Keeps s0 x3 := by
      refine Keeps.ite ?_ ?_
      · refine Keeps.upd ?_
        exact hx1
      · exact hx1
    extract_lets -merge -underBinder +onlyGivenNames z_4 x5
    have hx5 : Keeps s0 x5 := by
      refine Keeps.ite ?_ ?_
      · refine State.loopEvent_keeps _ _ _ _ ?_
        refine Keeps.upd ?_
        exact hx3
      · exact hx3
    exact hx5

theorem State.densPlane_keeps {s0 : State} {s : State} (b : Band) (p : Fin 8) (bins : List Bin) (draw : Nat) (h : Keeps s0 s) :
    Keeps s0 (s.densPlane b p bins draw) := by
  unfold State.densPlane
  extract_lets raw smooth errs
  split
  rename_i ts s1 e
  have hf : ∀ (l : List (Nat × Frac)) (a : List (Nat × BitVec 8) × State), Keeps s0 a.2 →
      Keeps s0 (l.foldl (fun (a : List (Nat × BitVec 8) × State) x => let r := a.2.densColumn p x.1 x.2; (a.1 ++ [r.1], r.2)) a).2 := by
    intro l
    induction l with
    | nil => intro a ha; exact ha
    | cons x l ih => intro a ha; exact ih _ (State.densColumn_keeps _ _ _ ha)
  have h1 : Keeps s0 s1 := (congrArg (fun r => Keeps s0 r.2) e).mp (hf errs _ h)
  exact Keeps.ite h1 (Keeps.ite (State.targetsLive_keeps _ h1) (State.submitLoop_keeps _ h1))

theorem State.measureDensity_keeps {s0 : State} {s : State} (b : Band) (h : Keeps s0 s) : Keeps s0 (State.measureDensity s b) := by
  unfold State.measureDensity
  extract_lets -merge -underBinder +onlyGivenNames x1
  refine Keeps.foldl (fun _ _ h2 => ?_) ?_
  · extract_lets -merge -underBinder +onlyGivenNames x3
    extract_lets -merge -underBinder +onlyGivenNames x4
    have hx4 : Keeps s0 x4 := State.takeWhite_keeps _ _ h2
    refine Keeps.ite ?_ ?_
    · exact State.densPlane_keeps _ _ _ _ hx4
    · exact hx4
  · exact State.draw_keeps h

theorem State.nozPlane_keeps {s0 : State} {s : State} (p : Fin 8) (ds : List (Nat × Option (Nat × Nat) × DashClass)) (h : Keeps s0 s) : Keeps s0 (State.nozPlane s p ds) := by
  unfold State.nozPlane
  extract_lets -merge -underBinder +onlyGivenNames x1
  extract_lets -merge -underBinder +onlyGivenNames x2
  extract_lets -merge -underBinder +onlyGivenNames x3
  split
  · exact State.selfFreeze_keeps _ _ _ h
  · extract_lets -merge -underBinder +onlyGivenNames x4
    extract_lets -merge -underBinder +onlyGivenNames x5
    extract_lets -merge -underBinder +onlyGivenNames z_6 x7
    have hx7 : Keeps s0 x7 := by
      refine State.modLoop_keeps _ _ ?_
      refine Keeps.upd ?_
      exact h
    extract_lets -merge -underBinder +onlyGivenNames x8
    extract_lets -merge -underBinder +onlyGivenNames x9
    split
    · rename_i v10 v11 e12
      have hv11 : Keeps s0 v11 := (congrArg (fun r => Keeps s0 r.2) e12).mp (State.pickClears_keeps _ _ _ _ hx7)
      refine Keeps.ite ?_ ?_
      · exact hv11
      · exact State.submitLoop_keeps _ hv11

theorem State.measureNozzle_keeps {s0 : State} {s : State} (b : Band) (h : Keeps s0 s) : Keeps s0 (State.measureNozzle s b) := by
  unfold State.measureNozzle
  extract_lets -merge -underBinder +onlyGivenNames x1
  refine Keeps.foldl (fun _ _ h2 => ?_) ?_
  · extract_lets -merge -underBinder +onlyGivenNames x3
    extract_lets -merge -underBinder +onlyGivenNames x4
    extract_lets -merge -underBinder +onlyGivenNames z_5 x6
    have hx6 : Keeps s0 x6 := by
      refine Keeps.upd ?_
      exact h2
    refine Keeps.ite ?_ ?_
    · exact State.nozPlane_keeps _ _ hx6
    · exact hx6
  · exact State.draw_keeps h

theorem State.targetsToGains_keeps {s0 : State} {s : State} (p : Fin 8) (h : Keeps s0 s) : Keeps s0 (State.targetsToGains s p) := by
  unfold State.targetsToGains
  extract_lets -merge -underBinder +onlyGivenNames x1
  extract_lets -merge -underBinder +onlyGivenNames x2
  have hx2 : Keeps s0 x2 := State.eraseBytes_keeps _ h
  refine Keeps.foldl (fun _ _ h3 => ?_) ?_
  · exact State.writeTable_keeps _ _ _ h3
  · exact hx2

theorem State.zeroLoop_keeps {s0 : State} {s : State} (loop : Nat) (p : Fin 8) (h : Keeps s0 s) : Keeps s0 (State.zeroLoop s loop p) := by
  unfold State.zeroLoop
  extract_lets -merge -underBinder +onlyGivenNames x1
  have hx1 : Keeps s0 x1 := State.takeBaseline_keeps _ _ (State.dropChanges_keeps _ _ h)
  refine State.loopEvent_keeps _ _ _ _ ?_
  refine Keeps.ite ?_ ?_
  · exact State.targetsToGains_keeps _ hx1
  · exact hx1

theorem State.applyMarks_keeps {s0 : State} {s : State} (h : Keeps s0 s) : Keeps s0 (State.applyMarks s) := by
  unfold State.applyMarks
  extract_lets -merge -underBinder +onlyGivenNames z_1 x2
  have hx2 : Keeps s0 x2 := by
    refine Keeps.foldl (fun _ _ h3 => ?_) ?_
    · exact State.hostWrite_keeps _ _ h3
    · refine Keeps.upd ?_
      exact h
  refine Keeps.ite ?_ ?_
  · exact hx2
  · exact State.placeWindows_keeps _ hx2

theorem execLoopCtrlZero_keeps {s0 : State} (ring : Fin 16) {s : State} (h : Keeps s0 s) : OKeeps s0 (execLoopCtrlZero ring s) := by
  unfold execLoopCtrlZero
  refine OKeeps.next ?_
  refine State.loopCtrl_keeps _ _ (fun _ _ _ h1 => ?_) ?_
  · exact State.zeroLoop_keeps _ _ h1
  · exact h

theorem State.measureBand_keeps {s0 : State} {s : State} (b : Band) (h : Keeps s0 s) : Keeps s0 (State.measureBand s b) := by
  unfold State.measureBand
  extract_lets -merge -underBinder +onlyGivenNames x1
  have hx1 : Keeps s0 x1 := State.dropBand_keeps _ h
  split
  · exact State.missBand_keeps _ _ hx1
  · extract_lets -merge -underBinder +onlyGivenNames z_2 x3
    have hx3 : Keeps s0 x3 := by
      refine Keeps.upd ?_
      exact hx1
    refine Keeps.ite ?_ ?_
    · exact State.measureDensity_keeps _ hx3
    · exact State.measureNozzle_keeps _ hx3

theorem execServiceBand_keeps {s0 : State} (ring : Fin 16) {s : State} (h : Keeps s0 s) : OKeeps s0 (execServiceBand ring s) := by
  unfold execServiceBand
  refine OKeeps.next ?_
  refine State.withEntryAt_keeps _ _ _ (fun _ _ h1 => ?_) ?_
  · exact State.admitBand_keeps _ h1
  · exact h

theorem execBandMeasure_keeps {s0 : State} {s : State} (h : Keeps s0 s) : OKeeps s0 (execBandMeasure s) := by
  unfold execBandMeasure
  refine OKeeps.next ?_
  split
  · refine Keeps.ite ?_ ?_
    · exact State.measureBand_keeps _ h
    · exact h
  · exact h

theorem execLoopCtrlRun_keeps {s0 : State} (ring : Fin 16) {s : State} (h : Keeps s0 s) : OKeeps s0 (execLoopCtrlRun ring s) := by
  unfold execLoopCtrlRun
  refine OKeeps.next ?_
  refine State.loopCtrl_keeps _ _ (fun _ _ _ h1 => ?_) ?_
  · exact State.runLoop_keeps _ _ h1
  · exact h

theorem execBandMissedTimeout_keeps {s0 : State} (at_ : Nat) {s : State} (h : Keeps s0 s) : OKeeps s0 (execBandMissedTimeout at_ s) := by
  unfold execBandMissedTimeout
  refine OKeeps.next ?_
  extract_lets -merge -underBinder +onlyGivenNames x1
  have hx1 : Keeps s0 x1 := State.advance_keeps _ h
  split
  · exact State.missBand_keeps _ _ (State.dropBand_keeps _ hx1)
  · exact hx1

theorem execCollationCycle_keeps {s0 : State} {s : State} (h : Keeps s0 s) : OKeeps s0 (execCollationCycle s) := by
  unfold execCollationCycle
  refine OKeeps.next ?_
  refine Keeps.ite ?_ ?_
  · exact State.collCycle_keeps (State.applyMarks_keeps h)
  · exact h

end Sys2Proof.Machine
end

