-- ==== Sys2Proof/Laws/KeepsPowerCommands.lean ====
section
/-! SUPPORT. What the operations of Machine/PowerCommands.lean keep. -/

set_option Elab.async false

namespace Sys2Proof.Machine

theorem State.releaseUnit_keeps {s0 : State} {s : State} (unit : ResetUnit) (h : Keeps s0 s) : Keeps s0 (State.releaseUnit s unit) := by
  unfold State.releaseUnit
  split
  · refine Keeps.upd ?_
    exact h
  · exact State.setReleased_keeps _ _ h
  · exact State.releaseBlk_keeps _ h
  · exact State.bringUp_keeps _ h

theorem execDomainClocksStable_keeps {s0 : State} (unit : ResetUnit) {s : State} (h : Keeps s0 s) : OKeeps s0 (execDomainClocksStable unit s) := by
  unfold execDomainClocksStable
  refine OKeeps.next ?_
  refine Keeps.ite ?_ ?_
  · exact State.settleResets_keeps (State.releaseUnit_keeps _ (State.setUnit_keeps _ _ h))
  · exact h

theorem execOtpReadDone_keeps {s0 : State} (record : Option Otp) {s : State} (h : Keeps s0 s) : OKeeps s0 (execOtpReadDone record s) := by
  unfold execOtpReadDone
  refine OKeeps.next ?_
  refine Keeps.ite ?_ ?_
  · split
    · exact State.bootFail_keeps _ h
    · refine State.settleResets_keeps ?_
      refine Keeps.upd ?_
      exact h
  · exact h

theorem State.writeBar_keeps {s0 : State} {s : State} (n : Fin 6) (v : Sys2Proof.Word) (h : Keeps s0 s) : Keeps s0 (State.writeBar s n v) := by
  unfold State.writeBar
  extract_lets -merge -underBinder +onlyGivenNames x1
  refine Keeps.upd ?_
  exact h

theorem State.configWrite_keeps {s0 : State} {s : State} (r : Sys2Proof.ConfigReg) (v : Sys2Proof.Word) (h : Keeps s0 s) : Keeps s0 (State.configWrite s r v) := by
  unfold State.configWrite
  split
  · refine Keeps.ite ?_ ?_
    · exact State.writeBar_keeps _ _ h
    · exact h
  · refine Keeps.upd ?_
    exact h
  · exact h
  · exact h

theorem execConfigRequest_keeps {s0 : State} (access : Sys2Proof.ConfigAccess) {s : State} (h : Keeps s0 s) : OKeeps s0 (execConfigRequest access s) := by
  unfold execConfigRequest
  refine OKeeps.next ?_
  refine Keeps.ite ?_ ?_
  · refine Keeps.ite ?_ ?_
    · split
      · exact State.emit_keeps _ h
      · exact State.emit_keeps _ (State.configWrite_keeps _ _ h)
    · exact State.emit_keeps _ h
  · exact h

theorem State.holdData_keeps {s0 : State} {s : State} (hold : Bool) (h : Keeps s0 s) : Keeps s0 (State.holdData s hold) := by
  unfold State.holdData
  extract_lets -merge -underBinder +onlyGivenNames z_1 x2
  have hx2 : Keeps s0 x2 := by
    refine Keeps.upd ?_
    exact h
  refine State.settleResets_keeps ?_
  refine Keeps.ite ?_ ?_
  · exact State.noteCause_keeps _ hx2
  · exact hx2

theorem execRstDataHoldWrite_keeps {s0 : State} (hold : Bool) {s : State} (h : Keeps s0 s) : OKeeps s0 (execRstDataHoldWrite hold s) := by
  unfold execRstDataHoldWrite
  refine OKeeps.next ?_
  refine State.onWrite_keeps _ _ (fun _ h1 => ?_) ?_
  · exact State.holdData_keeps _ h1
  · exact h

theorem execHeartbeatHalfPeriod_keeps {s0 : State} {s : State} (h : Keeps s0 s) : OKeeps s0 (execHeartbeatHalfPeriod s) := by
  unfold execHeartbeatHalfPeriod
  refine OKeeps.next ?_
  refine Keeps.ite ?_ ?_
  · refine Keeps.upd ?_
    exact h
  · exact h

theorem execPowerOnRelease_keeps {s0 : State} {s : State} (h : Keeps s0 s) : OKeeps s0 (execPowerOnRelease s) := by
  unfold execPowerOnRelease
  refine OKeeps.next ?_
  refine Keeps.ite ?_ ?_
  · refine State.settleResets_keeps ?_
    refine Keeps.upd ?_
    exact h
  · exact h

theorem State.releaseNext_keeps {s0 : State} {s : State} (d : Domain) (h : Keeps s0 s) : Keeps s0 (State.releaseNext s d) := by
  unfold State.releaseNext
  extract_lets -merge -underBinder +onlyGivenNames x1
  split
  · exact h
  · extract_lets -merge -underBinder +onlyGivenNames x2
    have hx2 : Keeps s0 x2 := State.setReleased_keeps _ _ h
    refine State.stageFour_keeps ?_
    refine Keeps.ite ?_ ?_
    · exact State.releaseBlk_keeps _ hx2
    · exact hx2

theorem execCsiClockLaneChange_keeps {s0 : State} (port : Fin 4) (running : Bool) {s : State} (h : Keeps s0 s) : OKeeps s0 (execCsiClockLaneChange port running s) := by
  unfold execCsiClockLaneChange
  refine OKeeps.next ?_
  refine Keeps.upd ?_
  exact h

theorem execRailDipDetect_keeps {s0 : State} {s : State} (h : Keeps s0 s) : OKeeps s0 (execRailDipDetect s) := by
  unfold execRailDipDetect
  refine OKeeps.next ?_
  refine State.settleResets_keeps ?_
  refine State.noteCause_keeps _ ?_
  refine Keeps.upd ?_
  exact h

theorem execPendingClockTimeout_keeps {s0 : State} (unit : ResetUnit) {s : State} (h : Keeps s0 s) : OKeeps s0 (execPendingClockTimeout unit s) := by
  unfold execPendingClockTimeout
  refine OKeeps.next ?_
  refine Keeps.ite ?_ ?_
  · refine Keeps.ite ?_ ?_
    · exact State.bootFail_keeps _ h
    · refine Keeps.ite ?_ ?_
      · exact h
      · refine Keeps.upd ?_
        exact h
  · exact h

theorem State.writeSleep_keeps {s0 : State} {s : State} (v : Sys2Proof.Word) (h : Keeps s0 s) : Keeps s0 (State.writeSleep s v) := by
  unfold State.writeSleep
  refine Keeps.ite ?_ ?_
  · refine Keeps.upd ?_
    exact h
  · extract_lets -merge -underBinder +onlyGivenNames z_1 x2
    have hx2 : Keeps s0 x2 := by
      refine Keeps.upd ?_
      exact h
    refine Keeps.ite ?_ ?_
    · extract_lets -merge -underBinder +onlyGivenNames x3
      refine Keeps.ite ?_ ?_
      · refine Keeps.upd ?_
        exact hx2
      · refine Keeps.upd ?_
        exact hx2
    · exact hx2

theorem State.enterSleep_keeps {s0 : State} {s : State} (h : Keeps s0 s) : Keeps s0 (State.enterSleep s) := by
  unfold State.enterSleep
  extract_lets -merge -underBinder +onlyGivenNames x1
  have hx1 : Keeps s0 x1 := State.hopSend_keeps _ _ (State.hopSend_keeps _ _ h)
  refine State.settleResets_keeps ?_
  refine Keeps.upd ?_
  exact hx1

theorem execSleepEntryTimeout_keeps {s0 : State} {s : State} (h : Keeps s0 s) : OKeeps s0 (execSleepEntryTimeout s) := by
  unfold execSleepEntryTimeout
  refine OKeeps.next ?_
  refine Keeps.ite ?_ ?_
  · exact State.enterSleep_keeps h
  · exact h

theorem State.setFire_keeps {s0 : State} {s : State} (on : Bool) (h : Keeps s0 s) : Keeps s0 (State.setFire s on) := by
  unfold State.setFire
  refine Keeps.ite ?_ ?_
  · exact h
  · extract_lets -merge -underBinder +onlyGivenNames z_1 x2
    have hx2 : Keeps s0 x2 := by
      refine Keeps.upd ?_
      exact h
    refine State.settle_keeps _ ?_
    refine Keeps.ite ?_ ?_
    · exact State.clearCause_keeps _ _ hx2
    · exact State.assertCause_keeps _ _ hx2

theorem State.fireEdge_keeps {s0 : State} {s : State} (h : Keeps s0 s) : Keeps s0 (State.fireEdge s) := by
  unfold State.fireEdge
  extract_lets -merge -underBinder +onlyGivenNames x1
  extract_lets -merge -underBinder +onlyGivenNames z_2 x3
  have hx3 : Keeps s0 x3 := by
    refine Keeps.upd ?_
    exact h
  refine Keeps.ite ?_ ?_
  · exact State.setFire_keeps _ hx3
  · refine Keeps.ite ?_ ?_
    · exact State.setFire_keeps _ hx3
    · exact hx3

theorem State.netDown_keeps {s0 : State} {s : State} (h : Keeps s0 s) : Keeps s0 (State.netDown s) := by
  unfold State.netDown
  refine Keeps.upd ?_
  exact h

theorem State.losePll_keeps {s0 : State} {s : State} (pll : Fin 11) (h : Keeps s0 s) : Keeps s0 (State.losePll s pll) := by
  unfold State.losePll
  extract_lets -merge -underBinder +onlyGivenNames z_1 x2
  have hx2 : Keeps s0 x2 := by
    refine Keeps.upd ?_
    exact h
  refine Keeps.ite ?_ ?_
  · exact State.netDown_keeps hx2
  · refine Keeps.ite ?_ ?_
    · refine Keeps.upd ?_
      exact hx2
    · exact hx2

theorem execPllLosesLock_keeps {s0 : State} (pll : Fin 11) {s : State} (h : Keeps s0 s) : OKeeps s0 (execPllLosesLock pll s) := by
  unfold execPllLosesLock
  refine OKeeps.next ?_
  exact State.losePll_keeps _ h

theorem execFireEnableTimeout_keeps {s0 : State} (at_ : Nat) {s : State} (h : Keeps s0 s) : OKeeps s0 (execFireEnableTimeout at_ s) := by
  unfold execFireEnableTimeout
  extract_lets -merge -underBinder +onlyGivenNames x1
  have hx1 : Keeps s0 x1 := State.advance_keeps _ h
  refine OKeeps.next ?_
  split
  · refine Keeps.ite ?_ ?_
    · refine State.setFire_keeps _ ?_
      refine Keeps.upd ?_
      exact hx1
    · exact hx1
  · exact hx1

theorem State.wakeUp_keeps {s0 : State} {s : State} (bit : Option Nat) (h : Keeps s0 s) : Keeps s0 (State.wakeUp s bit) := by
  unfold State.wakeUp
  extract_lets -merge -underBinder +onlyGivenNames x1
  have hx1 : Keeps s0 x1 := State.pullBalls_keeps (State.followPerst_keeps h)
  refine State.settleResets_keeps ?_
  refine Keeps.upd ?_
  exact hx1

theorem State.wakeEvent_keeps {s0 : State} {s : State} (bit : Nat) (h : Keeps s0 s) : Keeps s0 (State.wakeEvent s bit) := by
  unfold State.wakeEvent
  refine Keeps.ite ?_ ?_
  · exact State.wakeUp_keeps _ h
  · refine Keeps.ite ?_ ?_
    · refine Keeps.upd ?_
      exact h
    · exact h

theorem execPciePerstDeassert_keeps {s0 : State} {s : State} (h : Keeps s0 s) : OKeeps s0 (execPciePerstDeassert s) := by
  unfold execPciePerstDeassert
  extract_lets -merge -underBinder +onlyGivenNames z_1 x2
  have hx2 : Keeps s0 x2 := by
    refine Keeps.upd ?_
    exact h
  extract_lets -merge -underBinder +onlyGivenNames x3
  have hx3 : Keeps s0 x3 := by
    refine Keeps.ite ?_ ?_
    · exact State.wakeUp_keeps _ hx2
    · exact State.settleResets_keeps (State.wakeEvent_keeps _ hx2)
  refine OKeeps.next ?_
  refine Keeps.upd ?_
  exact hx3

theorem execD3hotEntry_keeps {s0 : State} {s : State} (h : Keeps s0 s) : OKeeps s0 (execD3hotEntry s) := by
  unfold execD3hotEntry
  refine OKeeps.next ?_
  refine Keeps.ite ?_ ?_
  · refine Keeps.upd ?_
    exact h
  · exact h

theorem State.holdLinks_keeps {s0 : State} {s : State} (hold : BitVec 32) (h : Keeps s0 s) : Keeps s0 (State.holdLinks s hold) := by
  unfold State.holdLinks
  extract_lets -merge -underBinder +onlyGivenNames z_1 x2
  have hx2 : Keeps s0 x2 := by
    refine Keeps.upd ?_
    exact h
  refine State.settleResets_keeps ?_
  refine Keeps.ite ?_ ?_
  · exact hx2
  · exact State.noteCause_keeps _ hx2

theorem execRstLinkWrite_keeps {s0 : State} (hold : BitVec 32) {s : State} (h : Keeps s0 s) : OKeeps s0 (execRstLinkWrite hold s) := by
  unfold execRstLinkWrite
  refine OKeeps.next ?_
  refine State.onWrite_keeps _ _ (fun _ h1 => ?_) ?_
  · exact State.holdLinks_keeps _ h1
  · exact h

theorem State.measStart_keeps {s0 : State} {s : State} (v : Sys2Proof.Word) (h : Keeps s0 s) : Keeps s0 (State.measStart s v) := by
  unfold State.measStart
  extract_lets -merge -underBinder +onlyGivenNames x1
  have hx1 : Keeps s0 x1 := State.hostWrite_keeps _ _ h
  refine Keeps.ite ?_ ?_
  · refine Keeps.upd ?_
    exact hx1
  · exact hx1

theorem execPciePerstAssert_keeps {s0 : State} {s : State} (h : Keeps s0 s) : OKeeps s0 (execPciePerstAssert s) := by
  unfold execPciePerstAssert
  extract_lets -merge -underBinder +onlyGivenNames z_1 x2
  have hx2 : Keeps s0 x2 := by
    refine Keeps.upd ?_
    exact h
  refine OKeeps.next ?_
  refine Keeps.ite ?_ ?_
  · exact hx2
  · refine Keeps.ite ?_ ?_
    · exact State.enterSleep_keeps hx2
    · refine State.settleResets_keeps ?_
      refine State.noteCause_keeps _ ?_
      refine Keeps.upd ?_
      exact hx2

theorem execWatchdogSourceRelease_keeps {s0 : State} {s : State} (h : Keeps s0 s) : OKeeps s0 (execWatchdogSourceRelease s) := by
  unfold execWatchdogSourceRelease
  refine OKeeps.next ?_
  refine State.settleResets_keeps ?_
  refine Keeps.upd ?_
  exact h

theorem execClkMeasStart_keeps {s0 : State} (value : Sys2Proof.Word) {s : State} (h : Keeps s0 s) : OKeeps s0 (execClkMeasStart value s) := by
  unfold execClkMeasStart
  refine OKeeps.next ?_
  refine State.onWrite_keeps _ _ (fun _ h1 => ?_) ?_
  · exact State.measStart_keeps _ h1
  · exact h

theorem execSleepDrainDone_keeps {s0 : State} {s : State} (h : Keeps s0 s) : OKeeps s0 (execSleepDrainDone s) := by
  unfold execSleepDrainDone
  refine OKeeps.next ?_
  refine Keeps.ite ?_ ?_
  · refine Keeps.upd ?_
    exact h
  · exact h

theorem State.bootSlots_keeps {s0 : State} {s : State} (a : Sys2Proof.SlotCheck) (b : Sys2Proof.SlotCheck) (h : Keeps s0 s) : Keeps s0 (State.bootSlots s a b) := by
  unfold State.bootSlots
  extract_lets -merge -underBinder +onlyGivenNames x1
  split
  · refine State.settleResets_keeps ?_
    refine Keeps.upd ?_
    exact h
  · refine State.settleResets_keeps ?_
    refine Keeps.upd ?_
    exact h
  · refine State.settleResets_keeps ?_
    refine Keeps.upd ?_
    exact h
  · exact State.bootFail_keeps _ h

theorem State.holdCtrl_keeps {s0 : State} {s : State} (hold : Bool) (h : Keeps s0 s) : Keeps s0 (State.holdCtrl s hold) := by
  unfold State.holdCtrl
  extract_lets -merge -underBinder +onlyGivenNames z_1 x2
  have hx2 : Keeps s0 x2 := by
    refine Keeps.upd ?_
    exact h
  refine State.settleResets_keeps ?_
  refine Keeps.ite ?_ ?_
  · exact State.noteCause_keeps _ hx2
  · exact hx2

theorem execSecureBootDone_keeps {s0 : State} (slotA : Sys2Proof.SlotCheck) (slotB : Sys2Proof.SlotCheck) {s : State} (h : Keeps s0 s) : OKeeps s0 (execSecureBootDone slotA slotB s) := by
  unfold execSecureBootDone
  refine OKeeps.next ?_
  refine Keeps.ite ?_ ?_
  · exact State.bootSlots_keeps _ _ h
  · exact h

theorem execPowerOnAssert_keeps {s0 : State} {s : State} (h : Keeps s0 s) : OKeeps s0 (execPowerOnAssert s) := by
  unfold execPowerOnAssert
  refine OKeeps.next ?_
  refine State.settleResets_keeps ?_
  refine Keeps.upd ?_
  exact h

theorem execRstCtrlHoldWrite_keeps {s0 : State} (hold : Bool) {s : State} (h : Keeps s0 s) : OKeeps s0 (execRstCtrlHoldWrite hold s) := by
  unfold execRstCtrlHoldWrite
  refine OKeeps.next ?_
  refine State.onWrite_keeps _ _ (fun _ h1 => ?_) ?_
  · exact State.holdCtrl_keeps _ h1
  · exact h

theorem execBlockRelease_keeps {s0 : State} (domain : Domain) {s : State} (h : Keeps s0 s) : OKeeps s0 (execBlockRelease domain s) := by
  unfold execBlockRelease
  refine OKeeps.next ?_
  refine Keeps.ite ?_ ?_
  · exact State.releaseNext_keeps _ h
  · exact h

theorem State.holdBlocks_keeps {s0 : State} {s : State} (hold : BitVec 12) (h : Keeps s0 s) : Keeps s0 (State.holdBlocks s hold) := by
  unfold State.holdBlocks
  extract_lets -merge -underBinder +onlyGivenNames z_1 x2
  have hx2 : Keeps s0 x2 := by
    refine Keeps.upd ?_
    exact h
  refine State.settleResets_keeps ?_
  refine Keeps.ite ?_ ?_
  · exact hx2
  · exact State.noteCause_keeps _ hx2

theorem execRstBlockHoldWrite_keeps {s0 : State} (hold : BitVec 12) {s : State} (h : Keeps s0 s) : OKeeps s0 (execRstBlockHoldWrite hold s) := by
  unfold execRstBlockHoldWrite
  refine OKeeps.next ?_
  refine State.onWrite_keeps _ _ (fun _ h1 => ?_) ?_
  · exact State.holdBlocks_keeps _ h1
  · exact h

theorem State.stageFive_keeps {s0 : State} {s : State} (h : Keeps s0 s) : Keeps s0 (State.stageFive s) := by
  unfold State.stageFive
  refine Keeps.ite ?_ ?_
  · refine Keeps.upd ?_
    exact h
  · exact h

theorem execSerdesCalibrationDone_keeps {s0 : State} (bank : Bank) (ok : Bool) {s : State} (h : Keeps s0 s) : OKeeps s0 (execSerdesCalibrationDone bank ok s) := by
  unfold execSerdesCalibrationDone
  extract_lets -merge -underBinder +onlyGivenNames x1
  refine OKeeps.next ?_
  split
  · refine Keeps.ite ?_ ?_
    · refine Keeps.upd ?_
      exact h
    · exact h
  · refine Keeps.ite ?_ ?_
    · refine State.stageFive_keeps ?_
      refine Keeps.upd ?_
      exact h
    · exact h
  · refine Keeps.ite ?_ ?_
    · refine State.stageFive_keeps ?_
      refine Keeps.upd ?_
      exact h
    · exact h
  · refine Keeps.ite ?_ ?_
    · extract_lets -merge -underBinder +onlyGivenNames x2
      have hx2 : Keeps s0 x2 := by
        refine State.stageFive_keeps ?_
        refine Keeps.upd ?_
        exact h
      refine Keeps.ite ?_ ?_
      · exact hx2
      · exact State.netDown_keeps hx2
    · exact h
  · refine Keeps.ite ?_ ?_
    · refine State.stageFive_keeps ?_
      refine Keeps.upd ?_
      exact h
    · exact h

theorem execRailRecoverRelease_keeps {s0 : State} {s : State} (h : Keeps s0 s) : OKeeps s0 (execRailRecoverRelease s) := by
  unfold execRailRecoverRelease
  refine OKeeps.next ?_
  refine State.settleResets_keeps ?_
  refine Keeps.upd ?_
  exact h

theorem execDmcZqCalDone_keeps {s0 : State} {s : State} (h : Keeps s0 s) : OKeeps s0 (execDmcZqCalDone s) := by
  unfold execDmcZqCalDone
  refine OKeeps.next ?_
  refine Keeps.ite ?_ ?_
  · refine Keeps.upd ?_
    exact h
  · exact h

theorem execGpioWakeEdge_keeps {s0 : State} (gpio : Fin 16) (rising : Bool) {s : State} (h : Keeps s0 s) : OKeeps s0 (execGpioWakeEdge gpio rising s) := by
  unfold execGpioWakeEdge
  extract_lets -merge -underBinder +onlyGivenNames x1
  refine OKeeps.next ?_
  refine Keeps.ite ?_ ?_
  · exact State.wakeEvent_keeps _ h
  · exact h

theorem execOscillatorStart_keeps {s0 : State} {s : State} (h : Keeps s0 s) : OKeeps s0 (execOscillatorStart s) := by
  unfold execOscillatorStart
  refine OKeeps.next ?_
  refine Keeps.upd ?_
  exact h

theorem execResetNRelease_keeps {s0 : State} {s : State} (h : Keeps s0 s) : OKeeps s0 (execResetNRelease s) := by
  unfold execResetNRelease
  extract_lets -merge -underBinder +onlyGivenNames z_1 x2
  have hx2 : Keeps s0 x2 := by
    refine Keeps.upd ?_
    exact h
  refine OKeeps.next ?_
  refine Keeps.ite ?_ ?_
  · exact State.wakeUp_keeps _ hx2
  · exact State.settleResets_keeps hx2

theorem execFireEnableEdge_keeps {s0 : State} (at_ : Nat) {s : State} (h : Keeps s0 s) : OKeeps s0 (execFireEnableEdge at_ s) := by
  unfold execFireEnableEdge
  extract_lets -merge -underBinder +onlyGivenNames x1
  have hx1 : Keeps s0 x1 := State.advance_keeps _ h
  refine OKeeps.next ?_
  refine Keeps.ite ?_ ?_
  · exact State.fireEdge_keeps hx1
  · exact hx1

theorem execRegAccessAbandoned_keeps {s0 : State} (write : Bool) (offset : BitVec 25) {s : State} (h : Keeps s0 s) : OKeeps s0 (execRegAccessAbandoned write offset s) := by
  unfold execRegAccessAbandoned
  extract_lets -merge -underBinder +onlyGivenNames x1
  extract_lets -merge -underBinder +onlyGivenNames x2
  refine OKeeps.next ?_
  refine Keeps.ite ?_ ?_
  · split
    · refine State.log_keeps _ _ _ _ ?_
      refine State.discardWrite_keeps ?_
      refine Keeps.upd ?_
      exact h
    · exact h
  · refine Keeps.ite ?_ ?_
    · refine State.log_keeps _ _ _ _ ?_
      refine State.completeReads_keeps ?_
      refine Keeps.upd ?_
      exact h
    · exact h

theorem execBar2Access_keeps {s0 : State} (write : Bool) (offset : BitVec 28) (bytes : List Sys2Proof.Byte) {s : State} (h : Keeps s0 s) : OKeeps s0 (execBar2Access write offset bytes s) := by
  unfold execBar2Access
  extract_lets -merge -underBinder +onlyGivenNames x1
  refine OKeeps.next ?_
  refine Keeps.ite ?_ ?_
  · exact h
  · refine Keeps.ite ?_ ?_
    · refine Keeps.ite ?_ ?_
      · exact State.discardWrite_keeps h
      · exact State.emit_keeps _ h
    · refine Keeps.ite ?_ ?_
      · exact State.dramPut_keeps _ _ _ _ h
      · split
        · rename_i v2 v3 v4 e5
          have hv4 : Keeps s0 v4 := (congrArg (fun r => Keeps s0 r.2.2) e5).mp (State.dramRead_keeps _ _ _ _ h)
          exact State.emit_keeps _ hv4

theorem State.takeTraining_keeps {s0 : State} {s : State} (h : Keeps s0 s) : Keeps s0 (State.takeTraining s) := by
  unfold State.takeTraining
  split
  · extract_lets -merge -underBinder +onlyGivenNames x1
    extract_lets -merge -underBinder +onlyGivenNames x2
    extract_lets -merge -underBinder +onlyGivenNames x3
    extract_lets -merge -underBinder +onlyGivenNames x4
    refine Keeps.upd ?_
    exact h
  · exact h

theorem execDramTrainingDone_keeps {s0 : State} (channel : Fin 2) (result : TrainResult) {s : State} (h : Keeps s0 s) : OKeeps s0 (execDramTrainingDone channel result s) := by
  unfold execDramTrainingDone
  refine OKeeps.next ?_
  refine Keeps.ite ?_ ?_
  · extract_lets -merge -underBinder +onlyGivenNames x1
    extract_lets -merge -underBinder +onlyGivenNames z_2 x3
    have hx3 : Keeps s0 x3 := by
      refine Keeps.upd ?_
      exact h
    refine Keeps.ite ?_ ?_
    · exact State.bootFail_keeps _ hx3
    · exact State.stageFive_keeps (State.takeTraining_keeps hx3)
  · exact h

theorem State.driveHearts_keeps {s0 : State} {s : State} (h : Keeps s0 s) : Keeps s0 (State.driveHearts s) := by
  unfold State.driveHearts
  extract_lets -merge -underBinder +onlyGivenNames x1
  refine Keeps.upd ?_
  exact h

theorem execWatchdogExpiry_keeps {s0 : State} {s : State} (h : Keeps s0 s) : OKeeps s0 (execWatchdogExpiry s) := by
  unfold execWatchdogExpiry
  refine OKeeps.next ?_
  refine Keeps.ite ?_ ?_
  · refine State.settleResets_keeps ?_
    refine State.noteCause_keeps _ ?_
    refine Keeps.upd ?_
    exact h
  · exact h

theorem execPcieLinkUp_keeps {s0 : State} {s : State} (h : Keeps s0 s) : OKeeps s0 (execPcieLinkUp s) := by
  unfold execPcieLinkUp
  refine OKeeps.next ?_
  refine Keeps.ite ?_ ?_
  · refine Keeps.upd ?_
    exact h
  · exact h

theorem execSleepEnterWrite_keeps {s0 : State} (value : Sys2Proof.Word) {s : State} (h : Keeps s0 s) : OKeeps s0 (execSleepEnterWrite value s) := by
  unfold execSleepEnterWrite
  refine OKeeps.next ?_
  refine State.onWrite_keeps _ _ (fun _ h1 => ?_) ?_
  · exact State.writeSleep_keeps _ h1
  · exact h

theorem execFirmwareSelfTestDone_keeps {s0 : State} (ok : Bool) (elapsedMs : Nat) {s : State} (h : Keeps s0 s) : OKeeps s0 (execFirmwareSelfTestDone ok elapsedMs s) := by
  unfold execFirmwareSelfTestDone
  refine OKeeps.next ?_
  refine Keeps.ite ?_ ?_
  · refine Keeps.ite ?_ ?_
    · refine State.driveHearts_keeps ?_
      refine State.loadStandard_keeps ?_
      refine Keeps.upd ?_
      exact h
    · exact State.bootFail_keeps _ h
  · exact h

theorem execClkMeasDone_keeps {s0 : State} (count : BitVec 31) {s : State} (h : Keeps s0 s) : OKeeps s0 (execClkMeasDone count s) := by
  unfold execClkMeasDone
  refine OKeeps.next ?_
  split
  · exact h
  · extract_lets -merge -underBinder +onlyGivenNames x1
    refine Keeps.upd ?_
    exact h

theorem execResetNAssert_keeps {s0 : State} {s : State} (h : Keeps s0 s) : OKeeps s0 (execResetNAssert s) := by
  unfold execResetNAssert
  refine OKeeps.next ?_
  refine State.settleResets_keeps ?_
  refine State.noteCause_keeps _ ?_
  refine Keeps.upd ?_
  exact h

theorem execIsolationDrained_keeps {s0 : State} (unit : ResetUnit) {s : State} (h : Keeps s0 s) : OKeeps s0 (execIsolationDrained unit s) := by
  unfold execIsolationDrained
  refine OKeeps.next ?_
  refine Keeps.ite ?_ ?_
  · exact State.settleResets_keeps (State.setUnit_keeps _ _ h)
  · exact h

end Sys2Proof.Machine
end

