-- ==== Sys2Proof/Laws/KeepsTime.lean ====
section
/-! SUPPORT. What the operations of Machine/Time.lean keep. -/

set_option Elab.async false

namespace Sys2Proof.Machine

theorem State.modPtp_keeps {s0 : State} {s : State} (f : PtpExchange → PtpExchange) (h : Keeps s0 s) : Keeps s0 (State.modPtp s f) := by
  unfold State.modPtp
  refine Keeps.upd ?_
  exact h

theorem State.stepTime_keeps {s0 : State} {s : State} (d : Int) (h : Keeps s0 s) : Keeps s0 (State.stepTime s d) := by
  unfold State.stepTime
  refine Keeps.upd ?_
  exact h

theorem State.setRate_keeps {s0 : State} {s : State} (r : Int) (h : Keeps s0 s) : Keeps s0 (State.setRate s r) := by
  unfold State.setRate
  refine Keeps.upd ?_
  exact h

theorem State.servo_keeps {s0 : State} {s : State} (e : Int) (h : Keeps s0 s) : Keeps s0 (State.servo s e) := by
  unfold State.servo
  refine Keeps.ite ?_ ?_
  · exact State.stepTime_keeps _ h
  · extract_lets -merge -underBinder +onlyGivenNames x1
    exact State.setRate_keeps _ (State.draw_keeps h)

theorem State.timeUpdate_keeps {s0 : State} {s : State} (e : Int) (h : Keeps s0 s) : Keeps s0 (State.timeUpdate s e) := by
  unfold State.timeUpdate
  extract_lets -merge -underBinder +onlyGivenNames z_1 x2
  have hx2 : Keeps s0 x2 := by
    refine Keeps.upd ?_
    exact h
  split
  · refine State.servo_keeps _ ?_
    refine Keeps.upd ?_
    exact hx2
  · extract_lets -merge -underBinder +onlyGivenNames x3
    refine Keeps.ite ?_ ?_
    · refine State.servo_keeps _ ?_
      refine Keeps.upd ?_
      exact hx2
    · refine State.servo_keeps _ ?_
      refine Keeps.upd ?_
      exact hx2
  · extract_lets -merge -underBinder +onlyGivenNames x4
    refine Keeps.ite ?_ ?_
    · refine State.servo_keeps _ ?_
      refine Keeps.upd ?_
      exact hx2
    · refine State.servo_keeps _ ?_
      refine Keeps.upd ?_
      exact hx2
  · refine Keeps.ite ?_ ?_
    · refine State.servo_keeps _ ?_
      refine Keeps.upd ?_
      exact hx2
    · refine Keeps.upd ?_
      exact hx2

theorem State.syncResult_keeps {s0 : State} {s : State} (master : Int) (arrival : Int) (h : Keeps s0 s) : Keeps s0 (State.syncResult s master arrival) := by
  unfold State.syncResult
  extract_lets -merge -underBinder +onlyGivenNames x1
  have hx1 : Keeps s0 x1 := State.modPtp_keeps _ h
  refine Keeps.ite ?_ ?_
  · exact State.timeUpdate_keeps _ hx1
  · exact hx1

theorem State.ptpIn_keeps {s0 : State} {s : State} (m : PtpRx) (h : Keeps s0 s) : Keeps s0 (State.ptpIn s m) := by
  unfold State.ptpIn
  extract_lets -merge -underBinder +onlyGivenNames x1
  split
  · refine Keeps.ite ?_ ?_
    · exact h
    · refine Keeps.ite ?_ ?_
      · exact State.modPtp_keeps _ h
      · exact State.syncResult_keeps _ _ h
  · split
    · refine Keeps.ite ?_ ?_
      · exact State.syncResult_keeps _ _ h
      · exact h
    · exact h
  · split
    · refine Keeps.ite ?_ ?_
      · exact State.modPtp_keeps _ h
      · exact h
    · exact h
  · split
    · refine Keeps.ite ?_ ?_
      · exact State.modPtp_keeps _ h
      · exact h
    · exact h
  · refine Keeps.ite ?_ ?_
    · exact State.emit_keeps _ h
    · exact h
  · refine Keeps.ite ?_ ?_
    · exact State.emit_keeps _ h
    · exact h
  · refine Keeps.upd ?_
    exact h
  · exact State.emit_keeps _ h
  · exact h

theorem execHoldoverExpiry_keeps {s0 : State} {s : State} (h : Keeps s0 s) : OKeeps s0 (execHoldoverExpiry s) := by
  unfold execHoldoverExpiry
  refine OKeeps.next ?_
  refine Keeps.ite ?_ ?_
  · refine Keeps.upd ?_
    exact h
  · exact h

theorem execTimRateWrite_keeps {s0 : State} (value : Sys2Proof.Word) (at_ : Nat) {s : State} (h : Keeps s0 s) : OKeeps s0 (execTimRateWrite value at_ s) := by
  unfold execTimRateWrite
  refine OKeeps.next ?_
  refine State.onWrite_keeps _ _ (fun _ h1 => ?_) ?_
  · refine Keeps.ite ?_ ?_
    · exact State.setRate_keeps _ h1
    · exact h1
  · exact State.advance_keeps _ h

theorem State.writeGpioCfg_keeps {s0 : State} {s : State} (g : Fin 16) (v : Sys2Proof.Word) (h : Keeps s0 s) : Keeps s0 (State.writeGpioCfg s g v) := by
  unfold State.writeGpioCfg
  extract_lets -merge -underBinder +onlyGivenNames x1
  have hx1 : Keeps s0 x1 := State.hostWrite_keeps _ _ h
  split
  · refine Keeps.upd ?_
    exact hx1
  · refine State.driveGpio_keeps _ _ ?_
    refine Keeps.upd ?_
    exact hx1
  · exact State.driveGpio_keeps _ _ hx1

theorem execGpioModeWrite_keeps {s0 : State} (g : Fin 16) (value : Sys2Proof.Word) {s : State} (h : Keeps s0 s) : OKeeps s0 (execGpioModeWrite g value s) := by
  unfold execGpioModeWrite
  refine OKeeps.next ?_
  refine State.onWrite_keeps _ _ (fun _ h1 => ?_) ?_
  · exact State.writeGpioCfg_keeps _ _ h1
  · exact h

theorem execGpioPulseEnd_keeps {s0 : State} (g : Fin 16) (at_ : Nat) {s : State} (h : Keeps s0 s) : OKeeps s0 (execGpioPulseEnd g at_ s) := by
  unfold execGpioPulseEnd
  refine OKeeps.next ?_
  extract_lets -merge -underBinder +onlyGivenNames x1
  have hx1 : Keeps s0 x1 := State.advance_keeps _ h
  split
  · refine Keeps.ite ?_ ?_
    · refine State.driveGpio_keeps _ _ ?_
      refine Keeps.upd ?_
      exact hx1
    · exact hx1
  · exact hx1

theorem State.writeTimCfg_keeps {s0 : State} {s : State} (v : Sys2Proof.Word) (h : Keeps s0 s) : Keeps s0 (State.writeTimCfg s v) := by
  unfold State.writeTimCfg
  extract_lets -merge -underBinder +onlyGivenNames x1
  have hx1 : Keeps s0 x1 := State.hostWrite_keeps _ _ h
  refine Keeps.upd ?_
  exact hx1

theorem execEthernetLinkChange_keeps {s0 : State} (port : Fin 2) (up : Bool) {s : State} (h : Keeps s0 s) : OKeeps s0 (execEthernetLinkChange port up s) := by
  unfold execEthernetLinkChange
  refine OKeeps.next ?_
  refine Keeps.upd ?_
  exact h

theorem State.pulseGpios_keeps {s0 : State} {s : State} (k : Fin 16) (h : Keeps s0 s) : Keeps s0 (State.pulseGpios s k) := by
  unfold State.pulseGpios
  refine Keeps.foldl (fun _ _ h1 => ?_) ?_
  · refine Keeps.ite ?_ ?_
    · extract_lets -merge -underBinder +onlyGivenNames z_2 x3
      have hx3 : Keeps s0 x3 := by
        refine Keeps.upd ?_
        exact h1
      exact State.driveGpio_keeps _ _ hx3
    · exact h1
  · exact h

theorem State.driveMatch_keeps {s0 : State} {s : State} (k : Fin 16) (h : Keeps s0 s) : Keeps s0 (State.driveMatch s k) := by
  unfold State.driveMatch
  extract_lets -merge -underBinder +onlyGivenNames x1
  have hx1 : Keeps s0 x1 := State.timeTriggers_keeps _ h
  extract_lets -merge -underBinder +onlyGivenNames x2
  have hx2 : Keeps s0 x2 := by
    refine Keeps.ite ?_ ?_
    · exact State.pulseGpios_keeps _ hx1
    · exact hx1
  extract_lets -merge -underBinder +onlyGivenNames x3
  have hx3 : Keeps s0 x3 := by
    refine Keeps.ite ?_ ?_
    · exact State.emit_keeps _ hx2
    · exact hx2
  refine Keeps.ite ?_ ?_
  · exact State.wakeEvent_keeps _ hx3
  · exact hx3

theorem State.modCmp_keeps {s0 : State} {s : State} (k : Fin 16) (f : Comparator → Comparator) (h : Keeps s0 s) : Keeps s0 (State.modCmp s k f) := by
  unfold State.modCmp
  refine Keeps.upd ?_
  exact h

theorem State.matchCmp_keeps {s0 : State} {s : State} (k : Fin 16) (h : Keeps s0 s) : Keeps s0 (State.matchCmp s k) := by
  unfold State.matchCmp
  extract_lets -merge -underBinder +onlyGivenNames x1
  extract_lets -merge -underBinder +onlyGivenNames x2
  refine Keeps.ite ?_ ?_
  · exact State.driveMatch_keeps _ (State.modCmp_keeps _ _ h)
  · exact h

theorem State.writeCmpCfg_keeps {s0 : State} {s : State} (k : Fin 16) (v : Sys2Proof.Word) (h : Keeps s0 s) : Keeps s0 (State.writeCmpCfg s k v) := by
  unfold State.writeCmpCfg
  extract_lets -merge -underBinder +onlyGivenNames x1
  have hx1 : Keeps s0 x1 := State.hostWrite_keeps _ _ h
  refine Keeps.ite ?_ ?_
  · extract_lets -merge -underBinder +onlyGivenNames x2
    extract_lets -merge -underBinder +onlyGivenNames x3
    exact State.matchCmp_keeps _ (State.modCmp_keeps _ _ hx1)
  · exact State.modCmp_keeps _ _ hx1

theorem execComparatorEnableWrite_keeps {s0 : State} (k : Fin 16) (value : Sys2Proof.Word) (at_ : Nat) {s : State} (h : Keeps s0 s) : OKeeps s0 (execComparatorEnableWrite k value at_ s) := by
  unfold execComparatorEnableWrite
  refine OKeeps.next ?_
  refine State.onWrite_keeps _ _ (fun _ h1 => ?_) ?_
  · exact State.writeCmpCfg_keeps _ _ h1
  · exact State.advance_keeps _ h

theorem execComparatorMatch_keeps {s0 : State} (k : Fin 16) (at_ : Nat) {s : State} (h : Keeps s0 s) : OKeeps s0 (execComparatorMatch k at_ s) := by
  unfold execComparatorMatch
  refine OKeeps.next ?_
  exact State.matchCmp_keeps _ (State.advance_keeps _ h)

theorem execPtpMessageSend_keeps {s0 : State} (kind : PtpKind) (at_ : Nat) {s : State} (h : Keeps s0 s) : OKeeps s0 (execPtpMessageSend kind at_ s) := by
  unfold execPtpMessageSend
  refine OKeeps.next ?_
  extract_lets -merge -underBinder +onlyGivenNames x1
  have hx1 : Keeps s0 x1 := State.advance_keeps _ h
  refine Keeps.ite ?_ ?_
  · refine State.emit_keeps _ ?_
    refine Keeps.ite ?_ ?_
    · exact State.modPtp_keeps _ hx1
    · exact hx1
  · exact hx1

theorem execHoldoverEntry_keeps {s0 : State} {s : State} (h : Keeps s0 s) : OKeeps s0 (execHoldoverEntry s) := by
  unfold execHoldoverEntry
  refine OKeeps.next ?_
  refine Keeps.ite ?_ ?_
  · refine Keeps.upd ?_
    exact h
  · exact h

theorem execPtpMessageRx_keeps {s0 : State} (msg : PtpFrame) (at_ : Nat) {s : State} (h : Keeps s0 s) : OKeeps s0 (execPtpMessageRx msg at_ s) := by
  unfold execPtpMessageRx
  refine OKeeps.next ?_
  extract_lets -merge -underBinder +onlyGivenNames x1
  have hx1 : Keeps s0 x1 := State.advance_keeps _ h
  refine Keeps.ite ?_ ?_
  · exact State.ptpIn_keeps _ hx1
  · exact hx1

theorem State.writePtpCfg_keeps {s0 : State} {s : State} (v : Sys2Proof.Word) (h : Keeps s0 s) : Keeps s0 (State.writePtpCfg s v) := by
  unfold State.writePtpCfg
  extract_lets -merge -underBinder +onlyGivenNames x1
  extract_lets -merge -underBinder +onlyGivenNames x2
  have hx2 : Keeps s0 x2 := State.hostWrite_keeps _ _ h
  refine Keeps.ite ?_ ?_
  · refine Keeps.upd ?_
    exact hx2
  · refine Keeps.ite ?_ ?_
    · refine Keeps.upd ?_
      exact hx2
    · exact hx2

theorem execTimSrcWrite_keeps {s0 : State} (value : Sys2Proof.Word) {s : State} (h : Keeps s0 s) : OKeeps s0 (execTimSrcWrite value s) := by
  unfold execTimSrcWrite
  refine OKeeps.next ?_
  refine State.onWrite_keeps _ _ (fun _ h1 => ?_) ?_
  · exact State.writeTimCfg_keeps _ h1
  · exact h

theorem State.writeStep_keeps {s0 : State} {s : State} (hi : Sys2Proof.Word) (h : Keeps s0 s) : Keeps s0 (State.writeStep s hi) := by
  unfold State.writeStep
  refine Keeps.ite ?_ ?_
  · refine Keeps.upd ?_
    exact h
  · exact State.stepTime_keeps _ h

theorem execTimStepWrite_keeps {s0 : State} (hi : Sys2Proof.Word) (at_ : Nat) {s : State} (h : Keeps s0 s) : OKeeps s0 (execTimStepWrite hi at_ s) := by
  unfold execTimStepWrite
  refine OKeeps.next ?_
  refine State.onWrite_keeps _ _ (fun _ h1 => ?_) ?_
  · exact State.writeStep_keeps _ h1
  · exact State.advance_keeps _ h

end Sys2Proof.Machine
end

