-- ==== Sys2Proof/Laws/KeepsRing.lean ====
section
/-! SUPPORT. What the operations of Machine/Ring.lean keep. -/

set_option Elab.async false

namespace Sys2Proof.Machine

theorem State.dropStop_keeps {s0 : State} {s : State} (node : BitVec 10) (h : Keeps s0 s) : Keeps s0 (State.dropStop s node) := by
  unfold State.dropStop
  extract_lets -merge -underBinder +onlyGivenNames x1
  extract_lets -merge -underBinder +onlyGivenNames z_2 x3
  have hx3 : Keeps s0 x3 := by
    refine Keeps.upd ?_
    exact h
  refine Keeps.ite ?_ ?_
  · exact State.settle_keeps _ (State.clearCause_keeps _ _ hx3)
  · exact hx3

theorem execStateRx_keeps {s0 : State} (node : BitVec 10) (group : BitVec 8) (planes : Vector PlanePhase 8) {s : State} (h : Keeps s0 s) : OKeeps s0 (execStateRx node group planes s) := by
  unfold execStateRx
  refine OKeeps.next ?_
  refine Keeps.ite ?_ ?_
  · exact State.dropStop_keeps _ h
  · exact h

theorem State.elect_keeps {s0 : State} {s : State} (h : Keeps s0 s) : Keeps s0 (State.elect s) := by
  unfold State.elect
  extract_lets -merge -underBinder +onlyGivenNames x1
  extract_lets -merge -underBinder +onlyGivenNames x2
  refine Keeps.upd ?_
  exact h

theorem execNodeLivenessExpiry_keeps {s0 : State} (node : BitVec 10) {s : State} (h : Keeps s0 s) : OKeeps s0 (execNodeLivenessExpiry node s) := by
  unfold execNodeLivenessExpiry
  refine OKeeps.next ?_
  refine Keeps.ite ?_ ?_
  · refine State.elect_keeps ?_
    refine Keeps.upd ?_
    exact h
  · exact h

theorem State.modRing_keeps {s0 : State} {s : State} (p : Fin 2) (f : RingPort → RingPort) (h : Keeps s0 s) : Keeps s0 (State.modRing s p f) := by
  unfold State.modRing
  refine Keeps.upd ?_
  exact h

theorem execRingPortLock_keeps {s0 : State} (port : Fin 2) {s : State} (h : Keeps s0 s) : OKeeps s0 (execRingPortLock port s) := by
  unfold execRingPortLock
  refine OKeeps.next ?_
  refine Keeps.ite ?_ ?_
  · exact State.modRing_keeps _ _ h
  · exact h

theorem State.forwardFrame_keeps {s0 : State} {s : State} (port : Fin 2) (f : RingFrame) (good : Bool) (h : Keeps s0 s) : Keeps s0 (State.forwardFrame s port f good) := by
  unfold State.forwardFrame
  extract_lets -merge -underBinder +onlyGivenNames x1
  refine Keeps.ite ?_ ?_
  · exact h
  · exact State.countEvent_keeps _ _ _ (State.emit_keeps _ h)

theorem State.hopAon_keeps {s0 : State} {s : State} (port : Fin 2) (m : RingMsg) (h : Keeps s0 s) : Keeps s0 (State.hopAon s port m) := by
  unfold State.hopAon
  refine Keeps.ite ?_ ?_
  · exact State.emit_keeps _ (State.nextSeq_keeps h)
  · exact h

theorem execHelloSend_keeps {s0 : State} (port : Fin 2) {s : State} (h : Keeps s0 s) : OKeeps s0 (execHelloSend port s) := by
  unfold execHelloSend
  refine OKeeps.next ?_
  exact State.hopAon_keeps _ _ h

theorem execStateSend_keeps {s0 : State} {s : State} (h : Keeps s0 s) : OKeeps s0 (execStateSend s) := by
  unfold execStateSend
  refine OKeeps.next ?_
  refine Keeps.ite ?_ ?_
  · exact State.ringSend_keeps _ h
  · exact h

theorem State.backToActive_keeps {s0 : State} {s : State} (h : Keeps s0 s) : Keeps s0 (State.backToActive s) := by
  unfold State.backToActive
  refine Keeps.ite ?_ ?_
  · exact h
  · refine Keeps.foldl (fun _ _ h1 => ?_) ?_
    · split
      · refine Keeps.ite ?_ ?_
        · exact State.modPlane_keeps _ _ h1
        · exact h1
      · exact h1
    · exact h

theorem State.noteSeq_keeps {s0 : State} {s : State} (src : BitVec 10) (seq : BitVec 16) (h : Keeps s0 s) : Keeps s0 (State.noteSeq s src seq).2 := by
  unfold State.noteSeq
  extract_lets -merge -underBinder +onlyGivenNames x1
  refine Keeps.upd ?_
  exact h

theorem State.clearRing_keeps {s0 : State} {s : State} (h : Keeps s0 s) : Keeps s0 (State.clearRing s) := by
  unfold State.clearRing
  refine State.settle_keeps _ ?_
  refine State.clearCause_keeps _ _ ?_
  refine Keeps.upd ?_
  exact h

theorem State.writeUrgCtrl_keeps {s0 : State} {s : State} (v : Sys2Proof.Word) (h : Keeps s0 s) : Keeps s0 (State.writeUrgCtrl s v) := by
  unfold State.writeUrgCtrl
  extract_lets -merge -underBinder +onlyGivenNames x1
  have hx1 : Keeps s0 x1 := by
    refine Keeps.ite ?_ ?_
    · exact State.clearRing_keeps h
    · exact h
  refine Keeps.ite ?_ ?_
  · exact State.ringSend_keeps _ hx1
  · exact hx1

theorem execWakeRx_keeps {s0 : State} {s : State} (h : Keeps s0 s) : OKeeps s0 (execWakeRx s) := by
  unfold execWakeRx
  refine OKeeps.next ?_
  refine Keeps.ite ?_ ?_
  · exact State.wakeEvent_keeps _ h
  · exact h

theorem execUrgClrRing_keeps {s0 : State} (value : Sys2Proof.Word) {s : State} (h : Keeps s0 s) : OKeeps s0 (execUrgClrRing value s) := by
  unfold execUrgClrRing
  refine OKeeps.next ?_
  refine State.onWrite_keeps _ _ (fun _ h1 => ?_) ?_
  · exact State.writeUrgCtrl_keeps _ h1
  · exact h

theorem execUrgSendWake_keeps {s0 : State} (value : Sys2Proof.Word) {s : State} (h : Keeps s0 s) : OKeeps s0 (execUrgSendWake value s) := by
  unfold execUrgSendWake
  refine OKeeps.next ?_
  refine State.onWrite_keeps _ _ (fun _ h1 => ?_) ?_
  · exact State.writeUrgCtrl_keeps _ h1
  · exact h

theorem State.countStrange_keeps {s0 : State} {s : State} (port : Fin 2) (blocks : List RingBlock) (h : Keeps s0 s) : Keeps s0 (State.countStrange s port blocks) := by
  unfold State.countStrange
  exact State.modRing_keeps _ _ h

theorem State.writeUrgCfg_keeps {s0 : State} {s : State} (v : Sys2Proof.Word) (h : Keeps s0 s) : Keeps s0 (State.writeUrgCfg s v) := by
  unfold State.writeUrgCfg
  extract_lets -merge -underBinder +onlyGivenNames x1
  have hx1 : Keeps s0 x1 := State.hostWrite_keeps _ _ h
  refine Keeps.upd ?_
  exact hx1

theorem execHelloRx_keeps {s0 : State} (port : Fin 2) (node : BitVec 10) (sleep : Bool) {s : State} (h : Keeps s0 s) : OKeeps s0 (execHelloRx port node sleep s) := by
  unfold execHelloRx
  refine OKeeps.next ?_
  refine Keeps.ite ?_ ?_
  · exact State.modRing_keeps _ _ h
  · exact h

theorem State.ringTime_keeps {s0 : State} {s : State} (port : Fin 2) (src : BitVec 10) (hops : BitVec 10) (origin : Int) (correction : Int) (h : Keeps s0 s) : Keeps s0 (State.ringTime s port src hops origin correction) := by
  unfold State.ringTime
  extract_lets -merge -underBinder +onlyGivenNames x1
  refine Keeps.ite ?_ ?_
  · refine State.timeUpdate_keeps _ ?_
    refine Keeps.upd ?_
    exact h
  · exact h

theorem execTimeRx_keeps {s0 : State} (port : Fin 2) (src : BitVec 10) (seq : BitVec 16) (hops : BitVec 10) (origin : Int) (correction : Int) (residence : Nat) (at_ : Nat) {s : State} (h : Keeps s0 s) : OKeeps s0 (execTimeRx port src seq hops origin correction residence at_ s) := by
  unfold execTimeRx
  refine OKeeps.next ?_
  extract_lets -merge -underBinder +onlyGivenNames x1
  have hx1 : Keeps s0 x1 := State.advance_keeps _ h
  refine Keeps.ite ?_ ?_
  · exact hx1
  · split
    · rename_i v2 e3
      have hv2 : Keeps s0 v2 := (congrArg (fun r => Keeps s0 r.2) e3).mp (State.noteSeq_keeps _ _ hx1)
      exact hv2
    · rename_i v4 e5
      have hv4 : Keeps s0 v4 := (congrArg (fun r => Keeps s0 r.2) e5).mp (State.noteSeq_keeps _ _ hx1)
      extract_lets -merge -underBinder +onlyGivenNames x6
      exact State.ringTime_keeps _ _ _ _ _ (State.countEvent_keeps _ _ _ (State.emit_keeps _ hv4))

theorem execAnnounceSend_keeps {s0 : State} {s : State} (h : Keeps s0 s) : OKeeps s0 (execAnnounceSend s) := by
  unfold execAnnounceSend
  refine OKeeps.next ?_
  refine Keeps.ite ?_ ?_
  · exact State.ringSend_keeps _ (State.elect_keeps h)
  · exact h

theorem execDelayReqRx_keeps {s0 : State} (port : Fin 2) (departure : Int) (turnaround : Int) {s : State} (h : Keeps s0 s) : OKeeps s0 (execDelayReqRx port departure turnaround s) := by
  unfold execDelayReqRx
  refine OKeeps.next ?_
  exact State.hopAon_keeps _ _ h

theorem State.takeFrame_keeps {s0 : State} {s : State} (port : Fin 2) (f : RingFrame) (good : Bool) (h : Keeps s0 s) : Keeps s0 (State.takeFrame s port f good) := by
  unfold State.takeFrame
  refine Keeps.ite ?_ ?_
  · exact h
  · extract_lets -merge -underBinder +onlyGivenNames x1
    refine Keeps.ite ?_ ?_
    · extract_lets -merge -underBinder +onlyGivenNames x2
      have hx2 : Keeps s0 x2 := State.modRing_keeps _ _ h
      refine Keeps.ite ?_ ?_
      · exact hx2
      · exact State.forwardFrame_keeps _ _ _ hx2
    · split
      · rename_i v3 e4
        have hv3 : Keeps s0 v3 := (congrArg (fun r => Keeps s0 r.2) e4).mp (State.noteSeq_keeps _ _ h)
        exact hv3
      · rename_i v5 e6
        have hv5 : Keeps s0 v5 := (congrArg (fun r => Keeps s0 r.2) e6).mp (State.noteSeq_keeps _ _ h)
        refine Keeps.ite ?_ ?_
        · exact hv5
        · exact State.forwardFrame_keeps _ _ _ hv5

theorem execRingFrameForward_keeps {s0 : State} (port : Fin 2) (first : RingBlock) (rest : List RingBlock) {s : State} (h : Keeps s0 s) : OKeeps s0 (execRingFrameForward port first rest s) := by
  unfold execRingFrameForward
  refine OKeeps.next ?_
  refine Keeps.ite ?_ ?_
  · exact h
  · extract_lets -merge -underBinder +onlyGivenNames x1
    have hx1 : Keeps s0 x1 := State.countStrange_keeps _ _ h
    split
    · exact State.takeFrame_keeps _ _ _ hx1
    · exact hx1

theorem execRingPortRateAlternate_keeps {s0 : State} (port : Fin 2) {s : State} (h : Keeps s0 s) : OKeeps s0 (execRingPortRateAlternate port s) := by
  unfold execRingPortRateAlternate
  refine OKeeps.next ?_
  refine Keeps.ite ?_ ?_
  · exact State.modRing_keeps _ _ h
  · exact h

theorem execTideSourceExpiry_keeps {s0 : State} (node : BitVec 10) {s : State} (h : Keeps s0 s) : OKeeps s0 (execTideSourceExpiry node s) := by
  unfold execTideSourceExpiry
  refine OKeeps.next ?_
  refine Keeps.ite ?_ ?_
  · exact State.expireTide_keeps _ h
  · exact h

theorem execTideRx_keeps {s0 : State} (word : TideWord) (at_ : Nat) {s : State} (h : Keeps s0 s) : OKeeps s0 (execTideRx word at_ s) := by
  unfold execTideRx
  refine OKeeps.next ?_
  extract_lets -merge -underBinder +onlyGivenNames x1
  have hx1 : Keeps s0 x1 := State.advance_keeps _ h
  refine Keeps.ite ?_ ?_
  · exact State.receiveTide_keeps _ hx1
  · exact hx1

theorem execStopRx_keeps {s0 : State} (node : BitVec 10) (group : BitVec 8) (y38 : BitVec 8) {s : State} (h : Keeps s0 s) : OKeeps s0 (execStopRx node group y38 s) := by
  unfold execStopRx
  refine OKeeps.next ?_
  refine Keeps.ite ?_ ?_
  · extract_lets -merge -underBinder +onlyGivenNames z_1 x2
    have hx2 : Keeps s0 x2 := by
      refine Keeps.upd ?_
      exact h
    exact State.settle_keeps _ (State.assertCause_keeps _ _ (State.backToActive_keeps hx2))
  · exact h

theorem execHelloTimeout_keeps {s0 : State} (port : Fin 2) {s : State} (h : Keeps s0 s) : OKeeps s0 (execHelloTimeout port s) := by
  unfold execHelloTimeout
  refine OKeeps.next ?_
  refine Keeps.ite ?_ ?_
  · exact h
  · exact State.modRing_keeps _ _ h

theorem execRingPortLockLoss_keeps {s0 : State} (port : Fin 2) {s : State} (h : Keeps s0 s) : OKeeps s0 (execRingPortLockLoss port s) := by
  unfold execRingPortLockLoss
  refine OKeeps.next ?_
  refine Keeps.ite ?_ ?_
  · exact h
  · exact State.modRing_keeps _ _ h

theorem execDelayReqSend_keeps {s0 : State} (port : Fin 2) (at_ : Nat) {s : State} (h : Keeps s0 s) : OKeeps s0 (execDelayReqSend port at_ s) := by
  unfold execDelayReqSend
  refine OKeeps.next ?_
  extract_lets -merge -underBinder +onlyGivenNames x1
  have hx1 : Keeps s0 x1 := State.advance_keeps _ h
  exact State.hopAon_keeps _ _ hx1

theorem execDelayRespRx_keeps {s0 : State} (port : Fin 2) (rtt : Nat) (turnaround : Nat) {s : State} (h : Keeps s0 s) : OKeeps s0 (execDelayRespRx port rtt turnaround s) := by
  unfold execDelayRespRx
  refine OKeeps.next ?_
  refine Keeps.ite ?_ ?_
  · exact State.modRing_keeps _ _ h
  · exact h

theorem execAnnounceRx_keeps {s0 : State} (node : BitVec 10) (group : BitVec 8) (prio : BitVec 8) (accepts : Bool) {s : State} (h : Keeps s0 s) : OKeeps s0 (execAnnounceRx node group prio accepts s) := by
  unfold execAnnounceRx
  refine OKeeps.next ?_
  refine Keeps.ite ?_ ?_
  · exact h
  · refine Keeps.ite ?_ ?_
    · refine State.elect_keeps ?_
      refine Keeps.upd ?_
      exact h
    · refine State.elect_keeps ?_
      refine Keeps.upd ?_
      exact h

theorem execTimeSend_keeps {s0 : State} (at_ : Nat) {s : State} (h : Keeps s0 s) : OKeeps s0 (execTimeSend at_ s) := by
  unfold execTimeSend
  refine OKeeps.next ?_
  extract_lets -merge -underBinder +onlyGivenNames x1
  have hx1 : Keeps s0 x1 := State.advance_keeps _ h
  refine Keeps.ite ?_ ?_
  · exact State.ringSend_keeps _ hx1
  · exact hx1

end Sys2Proof.Machine
end

