-- ==== Sys2Proof/Laws/KeepsTwin.lean ====
section
/-! SUPPORT. What the operations of Machine/Twin.lean keep. -/

set_option Elab.async false

namespace Sys2Proof.Machine

theorem State.fromPeer_keeps {s0 : State} {s : State} (node : BitVec 10) {run : State → State}
    (hr : ∀ t, Keeps s0 t → Keeps s0 (run t)) (h : Keeps s0 s) : Keeps s0 (s.fromPeer node run) :=
  Keeps.ite (hr _ (Keeps.upd h)) h

theorem State.takeAll_keeps {s0 : State} {s : State} (h : Keeps s0 s) : Keeps s0 (State.takeAll s) := by
  unfold State.takeAll
  refine Keeps.upd ?_
  exact h

theorem State.stampIn_keeps {s0 : State} {s : State} (p : Fin 8) (n : Nat) (stamp : Nat) (tf : Nat) (h : Keeps s0 s) : Keeps s0 (State.stampIn s p n stamp tf) := by
  unfold State.stampIn
  extract_lets -merge -underBinder +onlyGivenNames x1
  have hx1 : Keeps s0 x1 := State.modTwin_keeps _ _ h
  exact State.modPlane_keeps _ _ hx1

theorem execStampRx_keeps {s0 : State} (node : BitVec 10) (plane : Fin 8) (line : BitVec 48) (stamp : BitVec 48) (tf : BitVec 24) {s : State} (h : Keeps s0 s) : OKeeps s0 (execStampRx node plane line stamp tf s) := by
  unfold execStampRx
  refine OKeeps.next ?_
  refine State.fromPeer_keeps _ (fun _ h1 => ?_) ?_
  · refine Keeps.ite ?_ ?_
    · exact State.stampIn_keeps _ _ _ _ h1
    · exact h1
  · exact h

theorem State.heartbeatIn_keeps {s0 : State} {s : State} (role : TwinRole) (epoch : BitVec 16) (lats : Vector Nat 8) (blocked : Bool) (h : Keeps s0 s) : Keeps s0 (State.heartbeatIn s role epoch lats blocked) := by
  unfold State.heartbeatIn
  extract_lets -merge -underBinder +onlyGivenNames x1
  refine Keeps.upd ?_
  exact h

theorem execStageRx_keeps {s0 : State} (node : BitVec 10) (chamber : Fin 4) (units : List (Nat × BitVec 512)) (entries : List (Nat × Sys2Proof.Word)) (targets : List (Nat × BitVec 8)) {s : State} (h : Keeps s0 s) : OKeeps s0 (execStageRx node chamber units entries targets s) := by
  unfold execStageRx
  refine OKeeps.next ?_
  refine State.fromPeer_keeps _ (fun _ h1 => ?_) ?_
  · refine Keeps.ite ?_ ?_
    · refine State.modChamber_keeps _ _ ?_
      refine Keeps.foldl (fun _ _ h2 => ?_) ?_
      · exact State.dramPutUnit_keeps _ _ _ _ h2
      · exact h1
    · exact h1
  · exact h

theorem State.swapSeen_keeps {s0 : State} {s : State} (g : Sig) (h : Keeps s0 s) : Keeps s0 (State.swapSeen s g) := by
  unfold State.swapSeen
  split
  · refine Keeps.ite ?_ ?_
    · refine State.swapCheck_keeps ?_
      refine Keeps.upd ?_
      exact h
    · exact h
  · exact h

theorem State.clearFailed_keeps {s0 : State} {s : State} (h : Keeps s0 s) : Keeps s0 (State.clearFailed s) := by
  unfold State.clearFailed
  refine State.twinSend_keeps _ ?_
  refine State.settleResets_keeps ?_
  refine Keeps.upd ?_
  exact h

theorem execTwinCtrlClearFailed_keeps {s0 : State} (ring : Fin 16) {s : State} (h : Keeps s0 s) : OKeeps s0 (execTwinCtrlClearFailed ring s) := by
  unfold execTwinCtrlClearFailed
  refine OKeeps.next ?_
  refine State.withEntryAt_keeps _ _ _ (fun _ _ h1 => ?_) ?_
  · refine Keeps.ite ?_ ?_
    · exact State.settle_keeps _ (State.complete_keeps _ _ _ (State.clearFailed_keeps h1))
    · exact State.complete_keeps _ _ _ h1
  · exact h

theorem execPeerLossTimeout_keeps {s0 : State} {s : State} (h : Keeps s0 s) : OKeeps s0 (execPeerLossTimeout s) := by
  unfold execPeerLossTimeout
  refine OKeeps.next ?_
  refine Keeps.ite ?_ ?_
  · exact h
  · extract_lets -merge -underBinder +onlyGivenNames z_1 x2
    have hx2 : Keeps s0 x2 := by
      refine Keeps.upd ?_
      exact h
    refine Keeps.ite ?_ ?_
    · exact State.takeOver_keeps _ hx2
    · exact hx2

theorem execTwinHeartbeatSend_keeps {s0 : State} {s : State} (h : Keeps s0 s) : OKeeps s0 (execTwinHeartbeatSend s) := by
  unfold execTwinHeartbeatSend
  refine OKeeps.next ?_
  refine Keeps.ite ?_ ?_
  · exact State.twinSend_keeps _ h
  · exact h

theorem State.writeTwnEpoch_keeps {s0 : State} {s : State} (v : Sys2Proof.Word) (h : Keeps s0 s) : Keeps s0 (State.writeTwnEpoch s v) := by
  unfold State.writeTwnEpoch
  refine Keeps.ite ?_ ?_
  · exact h
  · extract_lets -merge -underBinder +onlyGivenNames x1
    refine State.idleAll_keeps ?_
    refine Keeps.upd ?_
    exact h

theorem State.writeTwnCtrl_keeps {s0 : State} {s : State} (v : Sys2Proof.Word) (h : Keeps s0 s) : Keeps s0 (State.writeTwnCtrl s v) := by
  unfold State.writeTwnCtrl
  refine Keeps.ite ?_ ?_
  · exact State.twinFails_keeps _ h
  · exact h

theorem State.countLate_keeps {s0 : State} {s : State} (h : Keeps s0 s) : Keeps s0 (State.countLate s) := by
  unfold State.countLate
  refine Keeps.upd ?_
  exact h

theorem State.peerSig_keeps {s0 : State} {s : State} (g : Sig) (h : Keeps s0 s) : Keeps s0 (State.peerSig s g) := by
  unfold State.peerSig
  extract_lets -merge -underBinder +onlyGivenNames x1
  extract_lets -merge -underBinder +onlyGivenNames x2
  split
  · extract_lets -merge -underBinder +onlyGivenNames z_3 x4
    have hx4 : Keeps s0 x4 := by
      refine Keeps.upd ?_
      exact h
    refine Keeps.ite ?_ ?_
    · exact State.countLate_keeps hx4
    · exact State.compareSig_keeps _ _ hx4
  · refine Keeps.ite ?_ ?_
    · refine Keeps.upd ?_
      exact h
    · exact h

theorem State.toSingle_keeps {s0 : State} {s : State} (h : Keeps s0 s) : Keeps s0 (State.toSingle s) := by
  unfold State.toSingle
  extract_lets -merge -underBinder +onlyGivenNames x1
  have hx1 : Keeps s0 x1 := State.abandonSwap_keeps h
  extract_lets -merge -underBinder +onlyGivenNames z_2 z_3 x4
  have hx4 : Keeps s0 x4 := by
    refine Keeps.upd ?_
    exact hx1
  exact State.settle_keeps _ (State.followPosition_keeps (State.settleResets_keeps (State.idleAll_keeps hx4)))

theorem State.writeTwnCfg_keeps {s0 : State} {s : State} (v : Sys2Proof.Word) (h : Keeps s0 s) : Keeps s0 (State.writeTwnCfg s v) := by
  unfold State.writeTwnCfg
  extract_lets -merge -underBinder +onlyGivenNames x1
  extract_lets -merge -underBinder +onlyGivenNames x2
  have hx2 : Keeps s0 x2 := State.hostWrite_keeps _ _ h
  refine Keeps.ite ?_ ?_
  · exact State.toSingle_keeps hx2
  · exact hx2

theorem execTwnEnableWrite_keeps {s0 : State} (value : Sys2Proof.Word) {s : State} (h : Keeps s0 s) : OKeeps s0 (execTwnEnableWrite value s) := by
  unfold execTwnEnableWrite
  refine OKeeps.next ?_
  refine State.onWrite_keeps _ _ (fun _ h1 => ?_) ?_
  · exact State.writeTwnCfg_keeps _ h1
  · exact h

theorem State.adoptPlane_keeps {s0 : State} {s : State} (p : Fin 8) (xa : Int) (phia : Int) (print : Int) (ofs : Sys2Proof.Word) (stretch : Sys2Proof.Word) (epoch : Nat) (h : Keeps s0 s) : Keeps s0 (State.adoptPlane s p xa phia print ofs stretch epoch) := by
  unfold State.adoptPlane
  extract_lets -merge -underBinder +onlyGivenNames x1
  have hx1 : Keeps s0 x1 := State.setReg_keeps _ _ (State.setReg_keeps _ _ h)
  extract_lets -merge -underBinder +onlyGivenNames x2
  have hx2 : Keeps s0 x2 := State.modPlane_keeps _ _ hx1
  extract_lets -merge -underBinder +onlyGivenNames x3
  have hx3 : Keeps s0 x3 := State.modTwin_keeps _ _ hx2
  exact State.lineFollow_keeps _ hx3

theorem State.withdrawAll_keeps {s0 : State} {s : State} (h : Keeps s0 s) : Keeps s0 (State.withdrawAll s) := by
  unfold State.withdrawAll
  refine Keeps.upd ?_
  exact h

theorem execJoinRx_keeps {s0 : State} (node : BitVec 10) {s : State} (h : Keeps s0 s) : OKeeps s0 (execJoinRx node s) := by
  unfold execJoinRx
  refine OKeeps.next ?_
  refine State.fromPeer_keeps _ (fun _ h1 => ?_) ?_
  · refine Keeps.ite ?_ ?_
    · refine Keeps.foldl (fun _ _ h2 => ?_) ?_
      · exact State.sendPlaneState_keeps _ _ h2
      · exact h1
    · exact h1
  · exact h

theorem State.startSwap_keeps {s0 : State} {s : State} (id : Nat) (h : Keeps s0 s) : Keeps s0 (State.startSwap s id) := by
  unfold State.startSwap
  extract_lets -merge -underBinder +onlyGivenNames x1
  extract_lets -merge -underBinder +onlyGivenNames x2
  refine State.swapCheck_keeps ?_
  refine State.twinSend_keeps _ ?_
  refine State.waitFlight_keeps _ ?_
  refine Keeps.upd ?_
  exact h

theorem execTwinCtrlPlannedSwap_keeps {s0 : State} (ring : Fin 16) {s : State} (h : Keeps s0 s) : OKeeps s0 (execTwinCtrlPlannedSwap ring s) := by
  unfold execTwinCtrlPlannedSwap
  refine OKeeps.next ?_
  refine State.withEntryAt_keeps _ _ _ (fun _ _ h1 => ?_) ?_
  · refine Keeps.ite ?_ ?_
    · exact State.complete_keeps _ _ _ h1
    · refine Keeps.ite ?_ ?_
      · exact State.complete_keeps _ _ _ h1
      · refine Keeps.ite ?_ ?_
        · exact State.complete_keeps _ _ _ h1
        · exact State.startSwap_keeps _ h1
  · exact h

theorem execTakeoverRx_keeps {s0 : State} (node : BitVec 10) (epoch : BitVec 16) {s : State} (h : Keeps s0 s) : OKeeps s0 (execTakeoverRx node epoch s) := by
  unfold execTakeoverRx
  refine OKeeps.next ?_
  refine State.fromPeer_keeps _ (fun _ h1 => ?_) ?_
  · extract_lets -merge -underBinder +onlyGivenNames z_2 x3
    have hx3 : Keeps s0 x3 := by
      refine Keeps.upd ?_
      exact h1
    refine Keeps.ite ?_ ?_
    · exact h1
    · refine Keeps.ite ?_ ?_
      · refine State.withdrawAll_keeps ?_
        refine Keeps.upd ?_
        exact hx3
      · refine State.settle_keeps _ ?_
        refine State.swapCheck_keeps ?_
        refine Keeps.upd ?_
        exact hx3
  · exact h

theorem State.formPair_keeps {s0 : State} {s : State} (r : TwinRole) (h : Keeps s0 s) : Keeps s0 (State.formPair s r) := by
  unfold State.formPair
  extract_lets -merge -underBinder +onlyGivenNames z_1 x2
  have hx2 : Keeps s0 x2 := by
    refine State.followPosition_keeps ?_
    refine State.idleAll_keeps ?_
    refine Keeps.upd ?_
    exact h
  refine State.settle_keeps _ ?_
  refine Keeps.ite ?_ ?_
  · exact hx2
  · exact State.assertCause_keeps _ _ hx2

theorem execTwinHeartbeatRx_keeps {s0 : State} (node : BitVec 10) (role : TwinRole) (epoch : BitVec 16) (prefer : Bool) (peer : BitVec 10) (group : BitVec 8) (stops : Bool) (locked : Bool) (settings : List Nat) (lats : Vector (BitVec 24) 8) (blocked : Bool) {s : State} (h : Keeps s0 s) : OKeeps s0 (execTwinHeartbeatRx node role epoch prefer peer group stops locked settings lats blocked s) := by
  unfold execTwinHeartbeatRx
  refine OKeeps.next ?_
  refine State.fromPeer_keeps _ (fun _ h1 => ?_) ?_
  · extract_lets -merge -underBinder +onlyGivenNames x2
    have hx2 : Keeps s0 x2 := State.heartbeatIn_keeps _ _ _ _ h1
    extract_lets -merge -underBinder +onlyGivenNames x3
    refine Keeps.ite ?_ ?_
    · exact State.formPair_keeps _ hx2
    · exact hx2
  · exact h

theorem execTwnCtrlFailWrite_keeps {s0 : State} (value : Sys2Proof.Word) {s : State} (h : Keeps s0 s) : OKeeps s0 (execTwnCtrlFailWrite value s) := by
  unfold execTwnCtrlFailWrite
  refine OKeeps.next ?_
  refine State.onWrite_keeps _ _ (fun _ h1 => ?_) ?_
  · exact State.writeTwnCtrl_keeps _ h1
  · exact h

theorem execFailedRx_keeps {s0 : State} (node : BitVec 10) (y19 : BitVec 4) {s : State} (h : Keeps s0 s) : OKeeps s0 (execFailedRx node y19 s) := by
  unfold execFailedRx
  refine OKeeps.next ?_
  refine State.fromPeer_keeps _ (fun _ h1 => ?_) ?_
  · extract_lets -merge -underBinder +onlyGivenNames z_2 x3
    have hx3 : Keeps s0 x3 := by
      refine Keeps.upd ?_
      exact h1
    refine Keeps.ite ?_ ?_
    · exact State.takeOver_keeps _ hx3
    · exact State.takeAll_keeps hx3
  · exact h

theorem State.lateKnown_keeps {s0 : State} {s : State} (g : Sig) (h : Keeps s0 s) : Keeps s0 (State.lateKnown s g) := by
  unfold State.lateKnown
  refine Keeps.ite ?_ ?_
  · refine Keeps.upd ?_
    exact h
  · exact h

theorem execSwapRx_keeps {s0 : State} (node : BitVec 10) (first : Vector (BitVec 48) 8) {s : State} (h : Keeps s0 s) : OKeeps s0 (execSwapRx node first s) := by
  unfold execSwapRx
  refine OKeeps.next ?_
  refine State.fromPeer_keeps _ (fun _ h1 => ?_) ?_
  · refine Keeps.ite ?_ ?_
    · exact State.takeOver_keeps _ h1
    · exact h1
  · exact h

theorem execPlaneStateRx_keeps {s0 : State} (node : BitVec 10) (plane : Fin 8) (xa : Int) (phia : Int) (print : Int) (ofs : Sys2Proof.Word) (stretch : Sys2Proof.Word) (epoch : BitVec 48) {s : State} (h : Keeps s0 s) : OKeeps s0 (execPlaneStateRx node plane xa phia print ofs stretch epoch s) := by
  unfold execPlaneStateRx
  refine OKeeps.next ?_
  refine State.fromPeer_keeps _ (fun _ h1 => ?_) ?_
  · refine Keeps.ite ?_ ?_
    · exact State.settle_keeps _ (State.adoptPlane_keeps _ _ _ _ _ _ _ h1)
    · exact h1
  · exact h

theorem execTwnEpochWrite_keeps {s0 : State} (value : Sys2Proof.Word) {s : State} (h : Keeps s0 s) : OKeeps s0 (execTwnEpochWrite value s) := by
  unfold execTwnEpochWrite
  refine OKeeps.next ?_
  refine State.onWrite_keeps _ _ (fun _ h1 => ?_) ?_
  · exact State.writeTwnEpoch_keeps _ h1
  · exact h

theorem execSigRx_keeps {s0 : State} (node : BitVec 10) (bytes : List Sys2Proof.Byte) {s : State} (h : Keeps s0 s) : OKeeps s0 (execSigRx node bytes s) := by
  unfold execSigRx
  refine OKeeps.next ?_
  refine State.fromPeer_keeps _ (fun _ h1 => ?_) ?_
  · extract_lets -merge -underBinder +onlyGivenNames x2
    refine Keeps.ite ?_ ?_
    · exact State.settle_keeps _ (State.peerSig_keeps _ (State.swapSeen_keeps _ (State.lateKnown_keeps _ h1)))
    · exact h1
  · exact h

end Sys2Proof.Machine
end

