-- ==== Sys2Proof/Laws/KeepsRegisterRead.lean ====
section
/-! SUPPORT. What the operations of Machine/RegisterRead.lean keep. -/

set_option Elab.async false

namespace Sys2Proof.Machine

theorem State.prbsRead_keeps {s0 : State} {s : State} (o : Nat) (h : Keeps s0 s) : Keeps s0 (State.prbsRead s o) := by
  unfold State.prbsRead
  split
  · exact h
  · refine Keeps.ite ?_ ?_
    · extract_lets -merge -underBinder +onlyGivenNames x1
      exact State.modLink_keeps _ _ (State.draw_keeps h)
    · exact h

theorem State.capture_keeps {s0 s : State} (o : Nat) (h : Keeps s0 s) : Keeps s0 (s.capture o) :=
  ⟨h.pending, h.now, h.draws, h.out, fun w => ⟨(h.wf w).1, (h.wf w).2.1, (h.wf w).2.2.1, RegFile.wf_set _ _ (h.wf w).2.2.2⟩, h.ids⟩

theorem State.readWord_keeps {s0 : State} {s : State} (o : Nat) (h : Keeps s0 s) : Keeps s0 (State.readWord s o).2 := by
  unfold State.readWord
  split
  · exact h
  · extract_lets -merge -underBinder +onlyGivenNames x1
    have hx1 : Keeps s0 x1 := State.prbsRead_keeps _ h
    refine Keeps.foldl (fun _ _ h2 => ?_) ?_
    · exact State.capture_keeps _ h2
    · exact hx1

theorem State.readBytes_keeps {s0 : State} {s : State} (o : Nat) (len : Nat) (h : Keeps s0 s) : Keeps s0 (State.readBytes s o len).2 := by
  unfold State.readBytes
  extract_lets -merge -underBinder +onlyGivenNames x1
  exact State.readWord_keeps _ h

end Sys2Proof.Machine
end

