-- ==== Sys2Proof/Laws/KeepsThermal.lean ====
section
/-! SUPPORT. What the operations of Machine/Thermal.lean keep. -/

set_option Elab.async false

namespace Sys2Proof.Machine

theorem State.writeThm_keeps {s0 : State} {s : State} (o : Nat) (v : Sys2Proof.Word) (h : Keeps s0 s) : Keeps s0 (State.writeThm s o v) := by
  unfold State.writeThm
  extract_lets -merge -underBinder +onlyGivenNames x1
  have hx1 : Keeps s0 x1 := State.hostWrite_keeps _ _ h
  refine Keeps.upd ?_
  exact hx1

theorem execThmCfgWrite_keeps {s0 : State} (rate : Bool) (value : Sys2Proof.Word) {s : State} (h : Keeps s0 s) : OKeeps s0 (execThmCfgWrite rate value s) := by
  unfold execThmCfgWrite
  refine OKeeps.next ?_
  extract_lets -merge -underBinder +onlyGivenNames x1
  refine State.onWrite_keeps _ _ (fun _ h2 => ?_) ?_
  · exact State.writeThm_keeps _ _ h2
  · exact h

theorem execProgressBlockWrite_keeps {s0 : State} {s : State} (h : Keeps s0 s) : OKeeps s0 (execProgressBlockWrite s) := by
  unfold execProgressBlockWrite
  refine OKeeps.next ?_
  refine Keeps.ite ?_ ?_
  · exact State.countEvent_keeps _ _ _ (State.emit_keeps _ h)
  · exact h

theorem execThermalHistoryEntry_keeps {s0 : State} {s : State} (h : Keeps s0 s) : OKeeps s0 (execThermalHistoryEntry s) := by
  unfold execThermalHistoryEntry
  refine OKeeps.next ?_
  refine Keeps.ite ?_ ?_
  · exact State.appendHistory_keeps h
  · exact h

theorem State.writePeak_keeps {s0 : State} {s : State} (v : Sys2Proof.Word) (h : Keeps s0 s) : Keeps s0 (State.writePeak s v) := by
  unfold State.writePeak
  refine Keeps.ite ?_ ?_
  · refine Keeps.upd ?_
    exact h
  · exact h

theorem execThmPeakClear_keeps {s0 : State} {s : State} (h : Keeps s0 s) : OKeeps s0 (execThmPeakClear s) := by
  unfold execThmPeakClear
  refine OKeeps.next ?_
  refine State.onWrite_keeps _ _ (fun _ h1 => ?_) ?_
  · exact State.writePeak_keeps _ h1
  · exact h

theorem State.convert_keeps {s0 : State} {s : State} (readings : Vector (Option Int) 12) (h : Keeps s0 s) : Keeps s0 (State.convert s readings) := by
  unfold State.convert
  extract_lets -merge -underBinder +onlyGivenNames x1
  extract_lets -merge -underBinder +onlyGivenNames z_2 x3
  have hx3 : Keeps s0 x3 := by
    refine Keeps.upd ?_
    exact h
  exact State.driftRetrain_keeps (State.moveLevel_keeps (State.recordFaults_keeps _ hx3))

theorem execSleepSensorSample_keeps {s0 : State} (reading : Option Int) {s : State} (h : Keeps s0 s) : OKeeps s0 (execSleepSensorSample reading s) := by
  unfold execSleepSensorSample
  refine OKeeps.next ?_
  refine Keeps.ite ?_ ?_
  · exact State.shutdown_keeps h
  · exact h

theorem execProgEnableWrite_keeps {s0 : State} (value : Sys2Proof.Word) {s : State} (h : Keeps s0 s) : OKeeps s0 (execProgEnableWrite value s) := by
  unfold execProgEnableWrite
  refine OKeeps.next ?_
  refine State.onWrite_keeps _ _ (fun _ h1 => ?_) ?_
  · exact State.hostWrite_keeps _ _ h1
  · exact h

theorem execSensorConversion_keeps {s0 : State} (readings : Vector (Option Int) 12) {s : State} (h : Keeps s0 s) : OKeeps s0 (execSensorConversion readings s) := by
  unfold execSensorConversion
  refine OKeeps.next ?_
  refine Keeps.ite ?_ ?_
  · exact h
  · refine Keeps.ite ?_ ?_
    · exact State.shutdown_keeps h
    · exact State.convert_keeps _ h

end Sys2Proof.Machine
end

