-- ==== Sys2Proof/Laws/KeepsRegisterWrite.lean ====
section
/-! SUPPORT. What the operations of Machine/RegisterWrite.lean keep. -/

set_option Elab.async false

namespace Sys2Proof.Machine

theorem State.writeThmReg_keeps {s0 : State} {s : State} (o : Nat) (v : Sys2Proof.Word) (h : Keeps s0 s) : Keeps s0 (State.writeThmReg s o v) := by
  unfold State.writeThmReg
  refine Keeps.ite ?_ ?_
  · exact State.writeThm_keeps _ _ h
  · refine Keeps.ite ?_ ?_
    · exact State.writePeak_keeps _ h
    · exact State.hostWrite_keeps _ _ h

theorem State.writeRstBlock_keeps {s0 : State} {s : State} (v : Sys2Proof.Word) (h : Keeps s0 s) : Keeps s0 (State.writeRstBlock s v) := by
  unfold State.writeRstBlock
  extract_lets -merge -underBinder +onlyGivenNames x1
  extract_lets -merge -underBinder +onlyGivenNames x2
  extract_lets -merge -underBinder +onlyGivenNames x3
  have hx3 : Keeps s0 x3 := by
    refine Keeps.upd ?_
    exact h
  extract_lets -merge -underBinder +onlyGivenNames x4
  refine State.settleResets_keeps ?_
  refine Keeps.ite ?_ ?_
  · exact State.noteCause_keeps _ hx3
  · exact hx3

theorem State.writeRst_keeps {s0 : State} {s : State} (o : Nat) (v : Sys2Proof.Word) (h : Keeps s0 s) : Keeps s0 (State.writeRst s o v) := by
  unfold State.writeRst
  refine Keeps.ite ?_ ?_
  · refine Keeps.upd ?_
    exact h
  · refine Keeps.ite ?_ ?_
    · exact State.writeRstBlock_keeps _ h
    · refine Keeps.ite ?_ ?_
      · exact State.holdLinks_keeps _ h
      · refine Keeps.ite ?_ ?_
        · exact State.writeSleep_keeps _ h
        · refine Keeps.ite ?_ ?_
          · refine Keeps.upd ?_
            exact h
          · exact h

theorem State.writeMrCfg_keeps {s0 : State} {s : State} (n : Fin 16) (v : Sys2Proof.Word) (h : Keeps s0 s) : Keeps s0 (State.writeMrCfg s n v) := by
  unfold State.writeMrCfg
  refine Keeps.ite ?_ ?_
  · exact State.mrEnable_keeps _ _ h
  · exact State.mrDisable_keeps _ _ h

theorem State.writeHif_keeps {s0 : State} {s : State} (o : Nat) (v : Sys2Proof.Word) (h : Keeps s0 s) : Keeps s0 (State.writeHif s o v) := by
  unfold State.writeHif
  refine Keeps.ite ?_ ?_
  · exact State.logWrite_keeps _ h
  · split
    · exact State.writeMrCfg_keeps _ _ h
    · split
      · exact State.crWrite_keeps _ _ h
      · exact State.hostWrite_keeps _ _ h

theorem State.writeMmu_keeps {s0 : State} {s : State} (o : Nat) (v : Sys2Proof.Word) (h : Keeps s0 s) : Keeps s0 (State.writeMmu s o v) := by
  unfold State.writeMmu
  refine Keeps.ite ?_ ?_
  · exact State.writeMmuCfg_keeps _ h
  · refine Keeps.ite ?_ ?_
    · refine Keeps.upd ?_
      exact h
    · exact State.hostWrite_keeps _ _ h

theorem State.writeDmc_keeps {s0 : State} {s : State} (o : Nat) (v : Sys2Proof.Word) (h : Keeps s0 s) : Keeps s0 (State.writeDmc s o v) := by
  unfold State.writeDmc
  extract_lets -merge -underBinder +onlyGivenNames x1
  refine Keeps.ite ?_ ?_
  · extract_lets -merge -underBinder +onlyGivenNames x2
    have hx2 : Keeps s0 x2 := State.hostWrite_keeps _ _ h
    refine Keeps.ite ?_ ?_
    · exact State.retrainNow_keeps hx2
    · exact hx2
  · refine Keeps.ite ?_ ?_
    · refine Keeps.upd ?_
      exact h
    · refine Keeps.ite ?_ ?_
      · extract_lets -merge -underBinder +onlyGivenNames x3
        have hx3 : Keeps s0 x3 := by
          refine Keeps.upd ?_
          exact h
        refine Keeps.ite ?_ ?_
        · exact State.startFill_keeps hx3
        · exact hx3
      · refine Keeps.ite ?_ ?_
        · refine Keeps.upd ?_
          exact h
        · exact State.hostWrite_keeps _ _ h

theorem State.writeCsm_keeps {s0 : State} {s : State} (o : Nat) (v : Sys2Proof.Word) (h : Keeps s0 s) : Keeps s0 (State.writeCsm s o v) := by
  unfold State.writeCsm
  refine Keeps.ite ?_ ?_
  · exact State.closeGates_keeps _ h
  · refine Keeps.ite ?_ ?_
    · exact State.openGates_keeps _ h
    · exact State.hostWrite_keeps _ _ h

theorem State.writePos_keeps {s0 : State} {s : State} (o : Nat) (v : Sys2Proof.Word) (h : Keeps s0 s) : Keeps s0 (State.writePos s o v) := by
  unfold State.writePos
  refine Keeps.ite ?_ ?_
  · exact State.writePosCfg_keeps _ h
  · split
    · exact State.writeChCfg_keeps _ _ h
    · split
      · exact State.writeLpr_keeps _ _ h
      · split
        · exact State.writeIstat_keeps _ _ h
        · exact State.settle_keeps _ (State.followPosition_keeps (State.hostWrite_keeps _ _ h))

theorem State.writeFir_keeps {s0 : State} {s : State} (o : Nat) (v : Sys2Proof.Word) (h : Keeps s0 s) : Keeps s0 (State.writeFir s o v) := by
  unfold State.writeFir
  refine Keeps.ite ?_ ?_
  · exact State.writeFirCtrl_keeps _ h
  · split
    · refine Keeps.ite ?_ ?_
      · exact h
      · exact State.settle_keeps _ (State.hostWrite_keeps _ _ (State.anchor_keeps _ h))
    · exact State.settle_keeps _ (State.hostWrite_keeps _ _ h)

theorem State.writeCam_keeps {s0 : State} {s : State} (o : Nat) (v : Sys2Proof.Word) (h : Keeps s0 s) : Keeps s0 (State.writeCam s o v) := by
  unfold State.writeCam
  refine Keeps.ite ?_ ?_
  · exact State.writePortEn_keeps _ h
  · split
    · exact State.writeTrigCfg_keeps _ _ h
    · split
      · exact State.writeCtxCfg_keeps _ _ h
      · split
        · exact State.writeCamRing_keeps _ _ _ h
        · split
          · exact State.writeCamRing_keeps _ _ _ h
          · exact State.hostWrite_keeps _ _ h

theorem State.writeLop_keeps {s0 : State} {s : State} (o : Nat) (v : Sys2Proof.Word) (h : Keeps s0 s) : Keeps s0 (State.writeLop s o v) := by
  unfold State.writeLop
  split
  · refine Keeps.ite ?_ ?_
    · refine Keeps.upd ?_
      exact h
    · exact State.hostWrite_keeps _ _ h
  · exact State.hostWrite_keeps _ _ h

theorem State.writeLck_keeps {s0 : State} {s : State} (o : Nat) (v : Sys2Proof.Word) (h : Keeps s0 s) : Keeps s0 (State.writeLck s o v) := by
  unfold State.writeLck
  split
  · exact State.appendEntry_keeps _ _ h
  · exact State.hostWrite_keeps _ _ h

theorem State.writeTim_keeps {s0 : State} {s : State} (o : Nat) (v : Sys2Proof.Word) (h : Keeps s0 s) : Keeps s0 (State.writeTim s o v) := by
  unfold State.writeTim
  refine Keeps.ite ?_ ?_
  · exact State.writeTimCfg_keeps _ h
  · refine Keeps.ite ?_ ?_
    · refine Keeps.upd ?_
      exact h
    · refine Keeps.ite ?_ ?_
      · refine Keeps.ite ?_ ?_
        · exact State.setRate_keeps _ h
        · exact h
      · refine Keeps.ite ?_ ?_
        · refine Keeps.upd ?_
          exact h
        · refine Keeps.ite ?_ ?_
          · exact State.writeStep_keeps _ h
          · refine Keeps.ite ?_ ?_
            · exact State.writePtpCfg_keeps _ h
            · split
              · exact State.writeCmpCfg_keeps _ _ h
              · split
                · exact State.modCmp_keeps _ _ h
                · split
                  · exact State.writeGpioCfg_keeps _ _ h
                  · exact State.hostWrite_keeps _ _ h

theorem State.writeUrg_keeps {s0 : State} {s : State} (o : Nat) (v : Sys2Proof.Word) (h : Keeps s0 s) : Keeps s0 (State.writeUrg s o v) := by
  unfold State.writeUrg
  refine Keeps.ite ?_ ?_
  · exact State.writeUrgCfg_keeps _ h
  · refine Keeps.ite ?_ ?_
    · exact State.writeUrgCtrl_keeps _ h
    · exact State.hostWrite_keeps _ _ h

theorem State.writeTwn_keeps {s0 : State} {s : State} (o : Nat) (v : Sys2Proof.Word) (h : Keeps s0 s) : Keeps s0 (State.writeTwn s o v) := by
  unfold State.writeTwn
  refine Keeps.ite ?_ ?_
  · exact State.writeTwnCfg_keeps _ h
  · refine Keeps.ite ?_ ?_
    · exact State.writeTwnEpoch_keeps _ h
    · refine Keeps.ite ?_ ?_
      · exact State.writeTwnCtrl_keeps _ h
      · exact State.hostWrite_keeps _ _ h

theorem State.writeDoorbell_keeps {s0 : State} {s : State} (o : Nat) (v : Sys2Proof.Word) (h : Keeps s0 s) : Keeps s0 (State.writeDoorbell s o v) := by
  unfold State.writeDoorbell
  extract_lets -merge -underBinder +onlyGivenNames x1
  split
  · exact State.writeTail_keeps _ _ h
  · refine Keeps.ite ?_ ?_
    · exact State.resumeRing_keeps _ h
    · exact h
  · refine Keeps.ite ?_ ?_
    · exact State.writeHead_keeps _ _ h
    · exact h
  · refine Keeps.ite ?_ ?_
    · exact State.writeLogHead_keeps _ h
    · exact h
  · exact h

theorem State.routeWrite_keeps {s0 : State} {s : State} (o : Nat) (v : Sys2Proof.Word) (h : Keeps s0 s) : Keeps s0 (State.routeWrite s o v) := by
  unfold State.routeWrite
  refine Keeps.ite ?_ ?_
  · exact State.writeRst_keeps _ _ h
  · refine Keeps.ite ?_ ?_
    · exact State.measStart_keeps _ h
    · refine Keeps.ite ?_ ?_
      · exact State.writeThmReg_keeps _ _ h
      · refine Keeps.ite ?_ ?_
        · exact State.writeHif_keeps _ _ h
        · refine Keeps.ite ?_ ?_
          · exact State.writeMmu_keeps _ _ h
          · refine Keeps.ite ?_ ?_
            · exact State.writeDmc_keeps _ _ h
            · refine Keeps.ite ?_ ?_
              · exact State.writeScrCfg_keeps _ h
              · refine Keeps.ite ?_ ?_
                · exact State.writeCsm_keeps _ _ h
                · refine Keeps.ite ?_ ?_
                  · exact State.writePos_keeps _ _ h
                  · refine Keeps.ite ?_ ?_
                    · exact State.writeFir_keeps _ _ h
                    · split
                      · exact State.writePlkCfg_keeps _ _ h
                      · split
                        · exact State.writePlkAuth_keeps _ _ h
                        · refine Keeps.ite ?_ ?_
                          · exact State.writeCam_keeps _ _ h
                          · refine Keeps.ite ?_ ?_
                            · exact State.writeLop_keeps _ _ h
                            · refine Keeps.ite ?_ ?_
                              · exact State.writeLck_keeps _ _ h
                              · refine Keeps.ite ?_ ?_
                                · exact State.writeTim_keeps _ _ h
                                · refine Keeps.ite ?_ ?_
                                  · exact State.writeUrg_keeps _ _ h
                                  · refine Keeps.ite ?_ ?_
                                    · exact State.writeTwn_keeps _ _ h
                                    · refine Keeps.ite ?_ ?_
                                      · exact State.writeDoorbell_keeps _ _ h
                                      · exact State.hostWrite_keeps _ _ h

theorem State.releaseOne_keeps {s0 : State} {s : State} (h : Keeps s0 s) : Keeps s0 (State.releaseOne s) := by
  unfold State.releaseOne
  split
  · exact h
  · split
    · refine State.routeWrite_keeps _ _ ?_
      refine Keeps.upd ?_
      exact h
    · extract_lets -merge -underBinder +onlyGivenNames x1
      refine State.completeReads_keeps ?_
      extract_lets -merge -underBinder +onlyGivenNames x2
      have hx2 : Keeps s0 x2 := State.readBytes_keeps _ _ h
      refine Keeps.upd ?_
      exact hx2

theorem State.stopLinkClock_keeps {s0 : State} {s : State} (n : Fin 32) (h : Keeps s0 s) : Keeps s0 (State.stopLinkClock s n) := by
  unfold State.stopLinkClock
  extract_lets -merge -underBinder +onlyGivenNames x1
  have hx1 : Keeps s0 x1 := State.setReg_keeps _ _ h
  refine Keeps.ite ?_ ?_
  · exact hx1
  · extract_lets -merge -underBinder +onlyGivenNames z_2 x3
    have hx3 : Keeps s0 x3 := by
      refine State.log_keeps _ _ _ _ ?_
      refine Keeps.upd ?_
      exact hx1
    split
    · exact hx3
    · exact hx3
    · exact State.linkFault_keeps _ _ hx3

theorem State.stopClock_keeps {s0 : State} {s : State} (k : Fin 9) (h : Keeps s0 s) : Keeps s0 (State.stopClock s k) := by
  unfold State.stopClock
  extract_lets -merge -underBinder +onlyGivenNames x1
  have hx1 : Keeps s0 x1 := State.setReg_keeps _ _ h
  refine Keeps.ite ?_ ?_
  · exact hx1
  · extract_lets -merge -underBinder +onlyGivenNames z_2 x3
    have hx3 : Keeps s0 x3 := by
      refine State.log_keeps _ _ _ _ ?_
      refine Keeps.upd ?_
      exact hx1
    refine Keeps.ite ?_ ?_
    · refine Keeps.upd ?_
      exact hx3
    · refine Keeps.ite ?_ ?_
      · refine Keeps.upd ?_
        exact hx3
      · refine Keeps.ite ?_ ?_
        · refine Keeps.upd ?_
          exact hx3
        · exact hx3

theorem State.monitorClock_keeps {s0 : State} {s : State} (k : Fin 48) (count : Nat) (h : Keeps s0 s) : Keeps s0 (State.monitorClock s k count) := by
  unfold State.monitorClock
  split
  · exact h
  · refine Keeps.ite ?_ ?_
    · extract_lets -merge -underBinder +onlyGivenNames x1
      refine Keeps.ite ?_ ?_
      · exact State.stopLinkClock_keeps _ h
      · refine Keeps.upd ?_
        exact h
    · refine Keeps.ite ?_ ?_
      · exact State.stopClock_keeps _ h
      · refine Keeps.upd ?_
        exact h

theorem State.releaseHeld_keeps {s0 : State} {s : State} (h : Keeps s0 s) : Keeps s0 (State.releaseHeld s) := by
  unfold State.releaseHeld
  refine Keeps.foldl (fun _ _ h1 => ?_) ?_
  · exact State.releaseOne_keeps h1
  · exact h

theorem execPllLock_keeps {s0 : State} (pll : Fin 11) {s : State} (h : Keeps s0 s) : OKeeps s0 (execPllLock pll s) := by
  unfold execPllLock
  refine OKeeps.next ?_
  refine State.releaseHeld_keeps ?_
  refine State.drainTide_keeps ?_
  refine Keeps.upd ?_
  exact h

theorem execClockMonitorWindow_keeps {s0 : State} (window : Sys2Proof.ClockWindow) {s : State} (h : Keeps s0 s) : OKeeps s0 (execClockMonitorWindow window s) := by
  unfold execClockMonitorWindow
  refine OKeeps.next ?_
  extract_lets -merge -underBinder +onlyGivenNames x1
  have hx1 : Keeps s0 x1 := State.advance_keeps _ h
  refine Keeps.ite ?_ ?_
  · refine State.releaseHeld_keeps ?_
    refine State.drainTide_keeps ?_
    refine Keeps.foldl (fun _ _ h2 => ?_) ?_
    · exact State.monitorClock_keeps _ _ h2
    · exact hx1
  · exact hx1

theorem State.takeRead_keeps {s0 : State} {s : State} (o : Nat) (len : Nat) (h : Keeps s0 s) : Keeps s0 (State.takeRead s o len) := by
  unfold State.takeRead
  extract_lets -merge -underBinder +onlyGivenNames x1
  exact State.completeReads_keeps (State.addAccess_keeps _ (State.readBytes_keeps _ _ h))

theorem execBarAccessUnsupported_keeps {s0 : State} (write : Bool) (offset : BitVec 25) (length : Nat) {s : State} (h : Keeps s0 s) : OKeeps s0 (execBarAccessUnsupported write offset length s) := by
  unfold execBarAccessUnsupported
  extract_lets -merge -underBinder +onlyGivenNames x1
  refine OKeeps.next ?_
  refine Keeps.ite ?_ ?_
  · exact h
  · refine Keeps.ite ?_ ?_
    · refine Keeps.ite ?_ ?_
      · exact h
      · refine Keeps.ite ?_ ?_
        · exact State.addAccess_keeps _ h
        · exact State.takeRead_keeps _ _ h
    · refine Keeps.ite ?_ ?_
      · exact State.discardWrite_keeps h
      · exact State.readUnsupported_keeps _ _ h

theorem execRegisterWrite_keeps {s0 : State} (offset : BitVec 25) (value : Sys2Proof.Word) {s : State} (h : Keeps s0 s) : OKeeps s0 (execRegisterWrite offset value s) := by
  unfold execRegisterWrite
  refine OKeeps.next ?_
  refine Keeps.ite ?_ ?_
  · refine State.onWrite_keeps _ _ (fun _ h1 => ?_) ?_
    · exact State.routeWrite_keeps _ _ h1
    · exact h
  · exact State.discardWrite_keeps h

end Sys2Proof.Machine
end

