-- ==== Sys2Proof/Laws/PerInstr.lean ====
section
/-! SUPPORT. Per-command family WritesAligned: the register offset that a command writes for the host, whatever its operands, is a register of the 32 MiB BAR0 space, aligned to 4 bytes (R7, R20). -/

namespace Sys2Proof.Laws.WritesAligned

open Sys2Proof.Machine

/-- The BAR0 offset a command spells is aligned and within BAR0. -/
def Statement (i : Instr) : Prop := ∀ s t o v, registerWritten s i = some (t, o, v) → o % 4 = 0 ∧ o < 0x2000000

/-- A command that spells no register offset. -/
theorem of_none {i : Instr} (h : ∀ s, registerWritten s i = none) : Statement i := fun s t o v e => by simp [h s] at e

/-- A command that spells one offset. -/
theorem of_some {i : Instr} {n : Nat} (hn : n % 4 = 0 ∧ n < 0x2000000) (h : ∀ s, ∃ t v, registerWritten s i = some (t, n, v)) : Statement i :=
  fun s t o v e => by
    obtain ⟨_, _, h⟩ := h s
    rw [h] at e
    cases e
    exact hn

theorem powerOnAssert : Statement (.powerOnAssert) := of_none fun _ => rfl

theorem powerOnRelease : Statement (.powerOnRelease) := of_none fun _ => rfl

theorem railDipDetect : Statement (.railDipDetect) := of_none fun _ => rfl

theorem railRecoverRelease : Statement (.railRecoverRelease) := of_none fun _ => rfl

theorem resetNAssert : Statement (.resetNAssert) := of_none fun _ => rfl

theorem resetNRelease : Statement (.resetNRelease) := of_none fun _ => rfl

theorem pciePerstAssert : Statement (.pciePerstAssert) := of_none fun _ => rfl

theorem pciePerstDeassert : Statement (.pciePerstDeassert) := of_none fun _ => rfl

theorem watchdogExpiry : Statement (.watchdogExpiry) := of_none fun _ => rfl

theorem watchdogSourceRelease : Statement (.watchdogSourceRelease) := of_none fun _ => rfl

theorem linkResetExpiry : ∀ link, Statement (.linkResetExpiry link) := fun _ => of_none fun _ => rfl

theorem rstBlockHoldWrite : ∀ hold, Statement (.rstBlockHoldWrite hold) := fun _ => of_some (n := 0x10010) (by decide) fun _ => ⟨_, _, rfl⟩

theorem rstDataHoldWrite : ∀ hold, Statement (.rstDataHoldWrite hold) := fun _ => of_some (n := 0x10010) (by decide) fun _ => ⟨_, _, rfl⟩

theorem rstCtrlHoldWrite : ∀ hold, Statement (.rstCtrlHoldWrite hold) := fun _ => of_some (n := 0x10010) (by decide) fun _ => ⟨_, _, rfl⟩

theorem rstLinkWrite : ∀ hold, Statement (.rstLinkWrite hold) := fun _ => of_some (n := 0x10014) (by decide) fun _ => ⟨_, _, rfl⟩

theorem isolationDrained : ∀ unit, Statement (.isolationDrained unit) := fun _ => of_none fun _ => rfl

theorem domainClocksStable : ∀ unit, Statement (.domainClocksStable unit) := fun _ => of_none fun _ => rfl

theorem pendingClockTimeout : ∀ unit, Statement (.pendingClockTimeout unit) := fun _ => of_none fun _ => rfl

theorem blockRelease : ∀ domain, Statement (.blockRelease domain) := fun _ => of_none fun _ => rfl

theorem dmcZqCalDone : Statement (.dmcZqCalDone) := of_none fun _ => rfl

theorem pllLock : ∀ pll, Statement (.pllLock pll) := fun _ => of_none fun _ => rfl

theorem oscillatorStart : Statement (.oscillatorStart) := of_none fun _ => rfl

theorem otpReadDone : ∀ record, Statement (.otpReadDone record) := fun _ => of_none fun _ => rfl

theorem secureBootDone : ∀ slotA slotB, Statement (.secureBootDone slotA slotB) := fun _ _ => of_none fun _ => rfl

theorem dramTrainingDone : ∀ channel result, Statement (.dramTrainingDone channel result) := fun _ _ => of_none fun _ => rfl

theorem serdesCalibrationDone : ∀ bank ok, Statement (.serdesCalibrationDone bank ok) := fun _ _ => of_none fun _ => rfl

theorem firmwareSelfTestDone : ∀ ok elapsedMs, Statement (.firmwareSelfTestDone ok elapsedMs) := fun _ _ => of_none fun _ => rfl

theorem pcieLinkUp : Statement (.pcieLinkUp) := of_none fun _ => rfl

theorem configRequest : ∀ access, Statement (.configRequest access) := fun _ => of_none fun _ => rfl

theorem barAccessUnsupported : ∀ write offset length, Statement (.barAccessUnsupported write offset length) := fun _ _ _ => of_none fun _ => rfl

theorem registerWrite : ∀ offset value, Statement (.registerWrite offset value) := fun offset value s t o v h => by
  have e : registerWritten s (.registerWrite offset value) = if offset.toNat % 4 = 0 then some (s, offset.toNat, value) else none := rfl
  rw [e] at h
  by_cases c : offset.toNat % 4 = 0
  · rw [if_pos c] at h
    cases h
    exact ⟨c, offset.isLt⟩
  · rw [if_neg c] at h
    cases h

theorem regAccessAbandoned : ∀ write offset, Statement (.regAccessAbandoned write offset) := fun _ _ => of_none fun _ => rfl

theorem bar2Access : ∀ write offset bytes, Statement (.bar2Access write offset bytes) := fun _ _ _ => of_none fun _ => rfl

theorem sleepEnterWrite : ∀ value, Statement (.sleepEnterWrite value) := fun _ => of_some (n := 0x10030) (by decide) fun _ => ⟨_, _, rfl⟩

theorem sleepDrainDone : Statement (.sleepDrainDone) := of_none fun _ => rfl

theorem d3hotEntry : Statement (.d3hotEntry) := of_none fun _ => rfl

theorem sleepEntryTimeout : Statement (.sleepEntryTimeout) := of_none fun _ => rfl

theorem gpioWakeEdge : ∀ gpio rising, Statement (.gpioWakeEdge gpio rising) := fun _ _ => of_none fun _ => rfl

theorem heartbeatHalfPeriod : Statement (.heartbeatHalfPeriod) := of_none fun _ => rfl

theorem fireEnableEdge : ∀ at_, Statement (.fireEnableEdge at_) := fun _ => of_none fun _ => rfl

theorem fireEnableTimeout : ∀ at_, Statement (.fireEnableTimeout at_) := fun _ => of_none fun _ => rfl

theorem clockMonitorWindow : ∀ window, Statement (.clockMonitorWindow window) := fun _ => of_none fun _ => rfl

theorem clkMeasStart : ∀ value, Statement (.clkMeasStart value) := fun _ => of_some (n := 0x20010) (by decide) fun _ => ⟨_, _, rfl⟩

theorem clkMeasDone : ∀ count, Statement (.clkMeasDone count) := fun _ => of_none fun _ => rfl

theorem mrEnableWrite : ∀ ring value, Statement (.mrEnableWrite ring value) := fun n _ => of_some (n := mrCfg n) (by simp only [mrCfg]; omega) fun _ => ⟨_, _, rfl⟩

theorem mrDisableWrite : ∀ ring value, Statement (.mrDisableWrite ring value) := fun n _ => of_some (n := mrCfg n) (by simp only [mrCfg]; omega) fun _ => ⟨_, _, rfl⟩

theorem mrDrained : ∀ ring, Statement (.mrDrained ring) := fun _ => of_none fun _ => rfl

theorem crEnableWrite : ∀ ring value, Statement (.crEnableWrite ring value) := fun m _ => of_some (n := crCfg m) (by simp only [crCfg]; omega) fun _ => ⟨_, _, rfl⟩

theorem logEnableWrite : ∀ value, Statement (.logEnableWrite value) := fun _ => of_some (n := logCfg) (by decide) fun _ => ⟨_, _, rfl⟩

theorem progEnableWrite : ∀ value, Statement (.progEnableWrite value) := fun _ => of_some (n := 0x40008) (by decide) fun _ => ⟨_, _, rfl⟩

theorem progressBlockWrite : Statement (.progressBlockWrite) := of_none fun _ => rfl

theorem dblMtailWrite : ∀ ring tail, Statement (.dblMtailWrite ring tail) := fun n _ => of_some (n := dblPage n) (by simp only [dblPage]; omega) fun _ => ⟨_, _, rfl⟩

theorem dblMctrlResume : ∀ ring, Statement (.dblMctrlResume ring) := fun n => of_some (n := dblPage n + 4) (by simp only [dblPage]; omega) fun _ => ⟨_, _, rfl⟩

theorem dblCheadWrite : ∀ ring head, Statement (.dblCheadWrite ring head) := fun m _ => of_some (n := dblPage m + 8) (by simp only [dblPage]; omega) fun _ => ⟨_, _, rfl⟩

theorem dblLheadWrite : ∀ head, Statement (.dblLheadWrite head) := fun _ => of_some (n := dblPage 0 + 0xC) (by decide) fun _ => ⟨_, _, rfl⟩

theorem manifestFetch : ∀ ring entry, Statement (.manifestFetch ring entry) := fun _ _ => of_none fun _ => rfl

theorem manifestReadFail : ∀ ring, Statement (.manifestReadFail ring) := fun _ => of_none fun _ => rfl

theorem coalTimerExpiry : ∀ ring, Statement (.coalTimerExpiry ring) := fun _ => of_none fun _ => rfl

theorem msixUnmask : ∀ write, Statement (.msixUnmask write) := fun _ => of_none fun _ => rfl

theorem lostRecordWrite : Statement (.lostRecordWrite) := of_none fun _ => rfl

theorem dataMoverPieceIssue : Statement (.dataMoverPieceIssue) := of_none fun _ => rfl

theorem dataMoverPieceDone : ∀ piece bytes, Statement (.dataMoverPieceDone piece bytes) := fun _ _ => of_none fun _ => rfl

theorem hostReadError : ∀ piece, Statement (.hostReadError piece) := fun _ => of_none fun _ => rfl

theorem nop : ∀ ring, Statement (.nop ring) := fun _ => of_none fun _ => rfl

theorem quireLoad : ∀ ring, Statement (.quireLoad ring) := fun _ => of_none fun _ => rfl

theorem tableLoad : ∀ ring, Statement (.tableLoad ring) := fun _ => of_none fun _ => rfl

theorem tableLoadChannelDone : Statement (.tableLoadChannelDone) := of_none fun _ => rfl

theorem tableRead : ∀ ring, Statement (.tableRead ring) := fun _ => of_none fun _ => rfl

theorem mmuWrite : ∀ ring, Statement (.mmuWrite ring) := fun _ => of_none fun _ => rfl

theorem mmuInvalidate : ∀ ring, Statement (.mmuInvalidate ring) := fun _ => of_none fun _ => rfl

theorem copy : ∀ ring, Statement (.copy ring) := fun _ => of_none fun _ => rfl

theorem copyQueueAdmit : Statement (.copyQueueAdmit) := of_none fun _ => rfl

theorem compress : ∀ ring, Statement (.compress ring) := fun _ => of_none fun _ => rfl

theorem lockOpen : ∀ ring, Statement (.lockOpen ring) := fun _ => of_none fun _ => rfl

theorem lockCheck : ∀ ring, Statement (.lockCheck ring) := fun _ => of_none fun _ => rfl

theorem lockArm : ∀ ring, Statement (.lockArm ring) := fun _ => of_none fun _ => rfl

theorem lockDiscard : ∀ ring, Statement (.lockDiscard ring) := fun _ => of_none fun _ => rfl

theorem jobOpen : ∀ ring, Statement (.jobOpen ring) := fun _ => of_none fun _ => rfl

theorem jobClose : ∀ ring, Statement (.jobClose ring) := fun _ => of_none fun _ => rfl

theorem serviceBand : ∀ ring, Statement (.serviceBand ring) := fun _ => of_none fun _ => rfl

theorem serviceBandAdmit : ∀ ring, Statement (.serviceBandAdmit ring) := fun _ => of_none fun _ => rfl

theorem loopCtrlRun : ∀ ring, Statement (.loopCtrlRun ring) := fun _ => of_none fun _ => rfl

theorem loopCtrlFreeze : ∀ ring, Statement (.loopCtrlFreeze ring) := fun _ => of_none fun _ => rfl

theorem loopCtrlZero : ∀ ring, Statement (.loopCtrlZero ring) := fun _ => of_none fun _ => rfl

theorem linkCtrlTrain : ∀ ring, Statement (.linkCtrlTrain ring) := fun _ => of_none fun _ => rfl

theorem linkCtrlRetrain : ∀ ring, Statement (.linkCtrlRetrain ring) := fun _ => of_none fun _ => rfl

theorem linkCtrlPrbsStart : ∀ ring, Statement (.linkCtrlPrbsStart ring) := fun _ => of_none fun _ => rfl

theorem linkCtrlPrbsStop : ∀ ring, Statement (.linkCtrlPrbsStop ring) := fun _ => of_none fun _ => rfl

theorem linkCtrlAuthenticate : ∀ ring, Statement (.linkCtrlAuthenticate ring) := fun _ => of_none fun _ => rfl

theorem linkCtrlDisable : ∀ ring, Statement (.linkCtrlDisable ring) := fun _ => of_none fun _ => rfl

theorem twinCtrlClearFailed : ∀ ring, Statement (.twinCtrlClearFailed ring) := fun _ => of_none fun _ => rfl

theorem twinCtrlPlannedSwap : ∀ ring, Statement (.twinCtrlPlannedSwap ring) := fun _ => of_none fun _ => rfl

theorem counterRead : ∀ ring, Statement (.counterRead ring) := fun _ => of_none fun _ => rfl

theorem mmuEnableWrite : ∀ enable, Statement (.mmuEnableWrite enable) := fun _ => of_some (n := 0x50000) (by decide) fun _ => ⟨_, _, rfl⟩

theorem copyStart : Statement (.copyStart) := of_none fun _ => rfl

theorem copyDone : Statement (.copyDone) := of_none fun _ => rfl

theorem copyFail : ∀ cause beat, Statement (.copyFail cause beat) := fun _ _ => of_none fun _ => rfl

theorem dramRequestArrive : ∀ port access at_, Statement (.dramRequestArrive port access at_) := fun _ _ _ => of_none fun _ => rfl

theorem dramSchedulePick : ∀ sub at_, Statement (.dramSchedulePick sub at_) := fun _ _ => of_none fun _ => rfl

theorem dramAgePromotion : ∀ sub at_, Statement (.dramAgePromotion sub at_) := fun _ _ => of_none fun _ => rfl

theorem dramReadReturn : ∀ sub seq ecc, Statement (.dramReadReturn sub seq ecc) := fun _ _ _ => of_none fun _ => rfl

theorem refreshDue : ∀ sub at_ refreshTime, Statement (.refreshDue sub at_ refreshTime) := fun _ _ _ => of_none fun _ => rfl

theorem mr4Poll : ∀ channel rank value, Statement (.mr4Poll channel rank value) := fun _ _ _ => of_none fun _ => rfl

theorem dmcRetrainNow : Statement (.dmcRetrainNow) := of_some (n := 0x80018) (by decide) fun _ => ⟨_, _, rfl⟩

theorem retrainStep : ∀ sub at_ last, Statement (.retrainStep sub at_ last) := fun _ _ _ => of_none fun _ => rfl

theorem caParityAlert : ∀ channel, Statement (.caParityAlert channel) := fun _ => of_none fun _ => rfl

theorem scrubUnitRead : ∀ channel ecc, Statement (.scrubUnitRead channel ecc) := fun _ _ => of_none fun _ => rfl

theorem fillStart : Statement (.fillStart) := of_some (n := 0x80048) (by decide) fun _ => ⟨_, _, rfl⟩

theorem fillUnitIssue : ∀ sub, Statement (.fillUnitIssue sub) := fun _ => of_none fun _ => rfl

theorem decodeDispatch : ∀ engine, Statement (.decodeDispatch engine) := fun _ => of_none fun _ => rfl

theorem decodeEnd : ∀ engine, Statement (.decodeEnd engine) := fun _ => of_none fun _ => rfl

theorem replaceDeadline : Statement (.replaceDeadline) := of_none fun _ => rfl

theorem quireRetire : Statement (.quireRetire) := of_none fun _ => rfl

theorem compressEngineStart : Statement (.compressEngineStart) := of_none fun _ => rfl

theorem compressEnd : ∀ engine, Statement (.compressEnd engine) := fun _ => of_none fun _ => rfl

theorem screenLineWrite : ∀ plane line source, Statement (.screenLineWrite plane line source) := fun _ _ _ => of_none fun _ => rfl

theorem rasterFetchStart : ∀ link seg, Statement (.rasterFetchStart link seg) := fun _ _ => of_none fun _ => rfl

theorem fetchComplete : ∀ link seg, Statement (.fetchComplete link seg) := fun _ _ => of_none fun _ => rfl

theorem gutterEmit : ∀ link at_, Statement (.gutterEmit link at_) := fun _ _ => of_none fun _ => rfl

theorem refillStart : ∀ link, Statement (.refillStart link) := fun _ => of_none fun _ => rfl

theorem refillDone : ∀ link, Statement (.refillDone link) := fun _ => of_none fun _ => rfl

theorem csmGateCloseWrite : ∀ value, Statement (.csmGateCloseWrite value) := fun _ => of_some (n := 0x100014) (by decide) fun _ => ⟨_, _, rfl⟩

theorem csmGateOpenWrite : ∀ value, Statement (.csmGateOpenWrite value) := fun _ => of_some (n := 0x100018) (by decide) fun _ => ⟨_, _, rfl⟩

theorem encoderStep : ∀ k pins at_, Statement (.encoderStep k pins at_) := fun _ _ _ => of_none fun _ => rfl

theorem indexEvent : ∀ k pin at_, Statement (.indexEvent k pin at_) := fun _ _ _ => of_none fun _ => rfl

theorem missingIndex : ∀ k, Statement (.missingIndex k) := fun _ => of_none fun _ => rfl

theorem speedUpdate : ∀ at_, Statement (.speedUpdate at_) := fun _ => of_none fun _ => rfl

theorem standstill : ∀ instant, Statement (.standstill instant) := fun _ => of_none fun _ => rfl

theorem stretchWindowClose : Statement (.stretchWindowClose) := of_none fun _ => rfl

theorem posFaultClear : ∀ k, Statement (.posFaultClear k) := fun k => of_some (n := posReg k 0x14) (by simp only [posReg]; omega) fun _ => ⟨_, _, rfl⟩

theorem posMainWrite : ∀ value, Statement (.posMainWrite value) := fun _ => of_some (n := 0x140000) (by decide) fun _ => ⟨_, _, rfl⟩

theorem posChannelEnable : ∀ k value, Statement (.posChannelEnable k value) := fun k _ => of_some (n := posReg k 0) (by simp only [posReg]; omega) fun _ => ⟨_, _, rfl⟩

theorem posZEnWrite : ∀ k value, Statement (.posZEnWrite k value) := fun k _ => of_some (n := posReg k 0) (by simp only [posReg]; omega) fun _ => ⟨_, _, rfl⟩

theorem posLprWrite : ∀ k value, Statement (.posLprWrite k value) := fun k _ => of_some (n := posReg k 4) (by simp only [posReg]; omega) fun _ => ⟨_, _, rfl⟩

theorem lineCommit : ∀ plane at_, Statement (.lineCommit plane at_) := fun _ _ => of_none fun _ => rfl

theorem lineLaunch : ∀ plane at_, Statement (.lineLaunch plane at_) := fun _ _ => of_none fun _ => rfl

theorem firCtrlStopWrite : ∀ value, Statement (.firCtrlStopWrite value) := fun _ => of_some (n := 0x160010) (by decide) fun _ => ⟨_, _, rfl⟩

theorem firCtrlResumeFwd : ∀ value, Statement (.firCtrlResumeFwd value) := fun _ => of_some (n := 0x160010) (by decide) fun _ => ⟨_, _, rfl⟩

theorem firNowDiscipline : ∀ at_, Statement (.firNowDiscipline at_) := fun _ => of_none fun _ => rfl

theorem capFrameRx : ∀ link frame, Statement (.capFrameRx link frame) := fun _ _ => of_none fun _ => rfl

theorem ackFrameRx : ∀ link frame, Statement (.ackFrameRx link frame) := fun _ _ => of_none fun _ => rfl

theorem t0Timeout : ∀ link, Statement (.t0Timeout link) := fun _ => of_none fun _ => rfl

theorem blockLockAcquire : ∀ taken, Statement (.blockLockAcquire taken) := fun _ => of_none fun _ => rfl

theorem blockLockLoss : ∀ taken, Statement (.blockLockLoss taken) := fun _ => of_none fun _ => rfl

theorem lockTimeout : ∀ link, Statement (.lockTimeout link) := fun _ => of_none fun _ => rfl

theorem prbsPhaseEnd : ∀ link errors, Statement (.prbsPhaseEnd link errors) := fun _ _ => of_none fun _ => rfl

theorem echoSend : ∀ link departure, Statement (.echoSend link departure) := fun _ _ => of_none fun _ => rfl

theorem echoReplyRx : ∀ link id turn r1 arrival, Statement (.echoReplyRx link id turn r1 arrival) := fun _ _ _ _ _ => of_none fun _ => rfl

theorem echoReplyTimeout : ∀ link id, Statement (.echoReplyTimeout link id) := fun _ _ => of_none fun _ => rfl

theorem echoPhaseTimeout : ∀ link, Statement (.echoPhaseTimeout link) := fun _ => of_none fun _ => rfl

theorem syncSend : ∀ link departure, Statement (.syncSend link departure) := fun _ _ => of_none fun _ => rfl

theorem statusRx : ∀ link block, Statement (.statusRx link block) := fun _ _ => of_none fun _ => rfl

theorem statusTimeout : ∀ link, Statement (.statusTimeout link) := fun _ => of_none fun _ => rfl

theorem authResponseRx : ∀ link kind index bytes, Statement (.authResponseRx link kind index bytes) := fun _ _ _ _ => of_none fun _ => rfl

theorem authTimeout : ∀ link, Statement (.authTimeout link) := fun _ => of_none fun _ => rfl

theorem cfgBankUpload : ∀ link, Statement (.cfgBankUpload link) := fun _ => of_none fun _ => rfl

theorem cfgConfirmTimeout : ∀ link, Statement (.cfgConfirmTimeout link) := fun _ => of_none fun _ => rfl

theorem linkBackoffExpiry : ∀ link, Statement (.linkBackoffExpiry link) := fun _ => of_none fun _ => rfl

theorem plkEnableWrite : ∀ link value, Statement (.plkEnableWrite link value) := fun n _ => of_some (n := linkReg n 0) (by simp only [linkReg]; omega) fun _ => ⟨_, _, rfl⟩

theorem csiFrameStart : ∀ port vc vcx ecc number, Statement (.csiFrameStart port vc vcx ecc number) := fun _ _ _ _ _ => of_none fun _ => rfl

theorem csiFrameEnd : ∀ port vc vcx ecc, Statement (.csiFrameEnd port vc vcx ecc) := fun _ _ _ _ => of_none fun _ => rfl

theorem csiLongPacket : ∀ port vc vcx ecc dt payload crcOk, Statement (.csiLongPacket port vc vcx ecc dt payload crcOk) := fun _ _ _ _ _ _ _ => of_none fun _ => rfl

theorem frameEndTimeout : ∀ ctx, Statement (.frameEndTimeout ctx) := fun _ => of_none fun _ => rfl

theorem streamStageTake : ∀ at_, Statement (.streamStageTake at_) := fun _ => of_none fun _ => rfl

theorem triggerFire : ∀ trigger at_, Statement (.triggerFire trigger at_) := fun _ _ => of_none fun _ => rfl

theorem triggerRecordExpire : ∀ ctx at_, Statement (.triggerRecordExpire ctx at_) := fun _ _ => of_none fun _ => rfl

theorem cameraDropRecord : ∀ ctx at_, Statement (.cameraDropRecord ctx at_) := fun _ _ => of_none fun _ => rfl

theorem camPortEnWrite : ∀ value, Statement (.camPortEnWrite value) := fun _ => of_some (n := 0x200000) (by decide) fun _ => ⟨_, _, rfl⟩

theorem camContextEnableWrite : ∀ ctx value, Statement (.camContextEnableWrite ctx value) := fun c _ => of_some (n := ctxReg c 0) (by simp only [ctxReg]; omega) fun _ => ⟨_, _, rfl⟩

theorem bandMeasure : Statement (.bandMeasure) := of_none fun _ => rfl

theorem bandMissedTimeout : ∀ at_, Statement (.bandMissedTimeout at_) := fun _ => of_none fun _ => rfl

theorem collationCycle : Statement (.collationCycle) := of_none fun _ => rfl

theorem chamberBusyTimeout : ∀ loop, Statement (.chamberBusyTimeout loop) := fun _ => of_none fun _ => rfl

theorem lckSdataWrite : ∀ chamber value, Statement (.lckSdataWrite chamber value) := fun c _ => of_some (n := 0x260108 + 0x20 * c.val) (by omega) fun _ => ⟨_, _, rfl⟩

theorem chamberCheckStart : ∀ chamber, Statement (.chamberCheckStart chamber) := fun _ => of_none fun _ => rfl

theorem chamberCheckEnd : ∀ chamber, Statement (.chamberCheckEnd chamber) := fun _ => of_none fun _ => rfl

theorem chamberApplyInstant : ∀ chamber at_, Statement (.chamberApplyInstant chamber at_) := fun _ _ => of_none fun _ => rfl

theorem chamberApplyCopyDone : ∀ chamber, Statement (.chamberApplyCopyDone chamber) := fun _ => of_none fun _ => rfl

theorem lockArmRx : ∀ node group chamber kind plane instant, Statement (.lockArmRx node group chamber kind plane instant) := fun _ _ _ _ _ _ => of_none fun _ => rfl

theorem lockReplyRx : ∀ node chamber armed, Statement (.lockReplyRx node chamber armed) := fun _ _ _ => of_none fun _ => rfl

theorem ringLockWaitTimeout : ∀ chamber, Statement (.ringLockWaitTimeout chamber) := fun _ => of_none fun _ => rfl

theorem lockCommitRx : ∀ node chamber, Statement (.lockCommitRx node chamber) := fun _ _ => of_none fun _ => rfl

theorem lockAbortRx : ∀ node chamber, Statement (.lockAbortRx node chamber) := fun _ _ => of_none fun _ => rfl

theorem lockOutcomeRx : ∀ node chamber applied, Statement (.lockOutcomeRx node chamber applied) := fun _ _ _ => of_none fun _ => rfl

theorem timRateWrite : ∀ value at_, Statement (.timRateWrite value at_) := fun _ _ => of_some (n := 0x280008) (by decide) fun _ => ⟨_, _, rfl⟩

theorem timStepWrite : ∀ hi at_, Statement (.timStepWrite hi at_) := fun _ _ => of_some (n := 0x280014) (by decide) fun _ => ⟨_, _, rfl⟩

theorem timSrcWrite : ∀ value, Statement (.timSrcWrite value) := fun _ => of_some (n := 0x280000) (by decide) fun _ => ⟨_, _, rfl⟩

theorem comparatorMatch : ∀ k at_, Statement (.comparatorMatch k at_) := fun _ _ => of_none fun _ => rfl

theorem comparatorEnableWrite : ∀ k value at_, Statement (.comparatorEnableWrite k value at_) := fun k _ _ => of_some (n := cmpReg k 0) (by simp only [cmpReg]; omega) fun _ => ⟨_, _, rfl⟩

theorem gpioModeWrite : ∀ g value, Statement (.gpioModeWrite g value) := fun g _ => of_some (n := gpioReg g) (by simp only [gpioReg]; omega) fun _ => ⟨_, _, rfl⟩

theorem ptpMessageRx : ∀ msg at_, Statement (.ptpMessageRx msg at_) := fun _ _ => of_none fun _ => rfl

theorem holdoverEntry : Statement (.holdoverEntry) := of_none fun _ => rfl

theorem holdoverExpiry : Statement (.holdoverExpiry) := of_none fun _ => rfl

theorem ringPortLock : ∀ port, Statement (.ringPortLock port) := fun _ => of_none fun _ => rfl

theorem ringPortRateAlternate : ∀ port, Statement (.ringPortRateAlternate port) := fun _ => of_none fun _ => rfl

theorem helloSend : ∀ port, Statement (.helloSend port) := fun _ => of_none fun _ => rfl

theorem helloRx : ∀ port node sleep, Statement (.helloRx port node sleep) := fun _ _ _ => of_none fun _ => rfl

theorem helloTimeout : ∀ port, Statement (.helloTimeout port) := fun _ => of_none fun _ => rfl

theorem ringFrameForward : ∀ port first rest, Statement (.ringFrameForward port first rest) := fun _ _ _ => of_none fun _ => rfl

theorem announceSend : Statement (.announceSend) := of_none fun _ => rfl

theorem announceRx : ∀ node group prio accepts, Statement (.announceRx node group prio accepts) := fun _ _ _ _ => of_none fun _ => rfl

theorem nodeLivenessExpiry : ∀ node, Statement (.nodeLivenessExpiry node) := fun _ => of_none fun _ => rfl

theorem delayReqSend : ∀ port at_, Statement (.delayReqSend port at_) := fun _ _ => of_none fun _ => rfl

theorem delayReqRx : ∀ port departure turnaround, Statement (.delayReqRx port departure turnaround) := fun _ _ _ => of_none fun _ => rfl

theorem delayRespRx : ∀ port rtt turnaround, Statement (.delayRespRx port rtt turnaround) := fun _ _ _ => of_none fun _ => rfl

theorem timeSend : ∀ at_, Statement (.timeSend at_) := fun _ => of_none fun _ => rfl

theorem timeRx : ∀ port src seq hops origin correction residence at_, Statement (.timeRx port src seq hops origin correction residence at_) := fun _ _ _ _ _ _ _ _ => of_none fun _ => rfl

theorem tideRx : ∀ word at_, Statement (.tideRx word at_) := fun _ _ => of_none fun _ => rfl

theorem tideSourceExpiry : ∀ node, Statement (.tideSourceExpiry node) := fun _ => of_none fun _ => rfl

theorem stopRx : ∀ node group mask, Statement (.stopRx node group mask) := fun _ _ _ => of_none fun _ => rfl

theorem stateSend : Statement (.stateSend) := of_none fun _ => rfl

theorem stateRx : ∀ node group planes, Statement (.stateRx node group planes) := fun _ _ _ => of_none fun _ => rfl

theorem urgSendWake : ∀ value, Statement (.urgSendWake value) := fun _ => of_some (n := 0x2A000C) (by decide) fun _ => ⟨_, _, rfl⟩

theorem wakeRx : Statement (.wakeRx) := of_none fun _ => rfl

theorem urgClrRing : ∀ value, Statement (.urgClrRing value) := fun _ => of_some (n := 0x2A000C) (by decide) fun _ => ⟨_, _, rfl⟩

theorem twinHeartbeatSend : Statement (.twinHeartbeatSend) := of_none fun _ => rfl

theorem twinHeartbeatRx : ∀ node role epoch prefer peer group stops locked settings lats blocked, Statement (.twinHeartbeatRx node role epoch prefer peer group stops locked settings lats blocked) := fun _ _ _ _ _ _ _ _ _ _ _ => of_none fun _ => rfl

theorem stampRx : ∀ node plane line stamp tf, Statement (.stampRx node plane line stamp tf) := fun _ _ _ _ _ => of_none fun _ => rfl

theorem sigRx : ∀ node bytes, Statement (.sigRx node bytes) := fun _ _ => of_none fun _ => rfl

theorem takeoverRx : ∀ node epoch, Statement (.takeoverRx node epoch) := fun _ _ => of_none fun _ => rfl

theorem failedRx : ∀ node cause, Statement (.failedRx node cause) := fun _ _ => of_none fun _ => rfl

theorem swapRx : ∀ node first, Statement (.swapRx node first) := fun _ _ => of_none fun _ => rfl

theorem planeStateRx : ∀ node plane xa phia print ofs stretch epoch, Statement (.planeStateRx node plane xa phia print ofs stretch epoch) := fun _ _ _ _ _ _ _ _ => of_none fun _ => rfl

theorem stageRx : ∀ node chamber units entries targets, Statement (.stageRx node chamber units entries targets) := fun _ _ _ _ _ => of_none fun _ => rfl

theorem joinRx : ∀ node, Statement (.joinRx node) := fun _ => of_none fun _ => rfl

theorem peerLossTimeout : Statement (.peerLossTimeout) := of_none fun _ => rfl

theorem twnCtrlFailWrite : ∀ value, Statement (.twnCtrlFailWrite value) := fun _ => of_some (n := 0x2C0010) (by decide) fun _ => ⟨_, _, rfl⟩

theorem twnEnableWrite : ∀ value, Statement (.twnEnableWrite value) := fun _ => of_some (n := 0x2C0000) (by decide) fun _ => ⟨_, _, rfl⟩

theorem twnEpochWrite : ∀ value, Statement (.twnEpochWrite value) := fun _ => of_some (n := 0x2C000C) (by decide) fun _ => ⟨_, _, rfl⟩

theorem sensorConversion : ∀ readings, Statement (.sensorConversion readings) := fun _ => of_none fun _ => rfl

theorem thermalHistoryEntry : Statement (.thermalHistoryEntry) := of_none fun _ => rfl

theorem thmCfgWrite : ∀ rate value, Statement (.thmCfgWrite rate value) := fun rate _ s t o v h => by
  cases rate <;> cases h <;> decide

theorem thmPeakClear : Statement (.thmPeakClear) := of_some (n := 0x30010) (by decide) fun _ => ⟨_, _, rfl⟩

theorem sleepSensorSample : ∀ reading, Statement (.sleepSensorSample reading) := fun _ => of_none fun _ => rfl

theorem pmcFreezeWrite : ∀ freeze, Statement (.pmcFreezeWrite freeze) := fun _ => of_none fun _ => rfl

theorem pmcSnapWrite : Statement (.pmcSnapWrite) := of_none fun _ => rfl

theorem pmcSnapshot : Statement (.pmcSnapshot) := of_none fun _ => rfl

theorem pmcWindowClose : Statement (.pmcWindowClose) := of_none fun _ => rfl

theorem pmcCounterWrite : ∀ k high value, Statement (.pmcCounterWrite k high value) := fun _ _ _ => of_none fun _ => rfl

theorem pmcWinWrite : ∀ ns, Statement (.pmcWinWrite ns) := fun _ => of_none fun _ => rfl

theorem ringPortLockLoss : ∀ port, Statement (.ringPortLockLoss port) := fun _ => of_none fun _ => rfl

theorem pllLosesLock : ∀ pll, Statement (.pllLosesLock pll) := fun _ => of_none fun _ => rfl

theorem csiClockLaneChange : ∀ port running, Statement (.csiClockLaneChange port running) := fun _ _ => of_none fun _ => rfl

theorem triggerPulseEnd : ∀ trigger, Statement (.triggerPulseEnd trigger) := fun _ => of_none fun _ => rfl

theorem gpioPulseEnd : ∀ g at_, Statement (.gpioPulseEnd g at_) := fun _ _ => of_none fun _ => rfl

theorem ptpMessageSend : ∀ kind at_, Statement (.ptpMessageSend kind at_) := fun _ _ => of_none fun _ => rfl

theorem ethernetLinkChange : ∀ port up, Statement (.ethernetLinkChange port up) := fun _ _ => of_none fun _ => rfl

theorem scrCfgBitsWrite : ∀ value, Statement (.scrCfgBitsWrite value) := fun _ => of_some (n := 0xC0000) (by decide) fun _ => ⟨_, _, rfl⟩

end Sys2Proof.Laws.WritesAligned
end

