-- ==== Sys2Proof/Laws/Registers.lean ====
section
/-! SUPPORT. What a register reads after a write: the value written at its own offset, its old value at every other. -/

namespace Sys2Proof.Machine

theorem sparseGet_sparseErase_same {α : Type} (d : α) (m : List (Nat × α)) (a : Nat) : sparseGet d (sparseErase m a) a = d := by
  induction m with
  | nil => rfl
  | cons c m ih =>
    obtain ⟨k, v⟩ := c
    by_cases h : k = a <;> simp [sparseErase, sparseGet, h, ih]

theorem sparseGet_sparseErase_ne {α : Type} (d : α) (m : List (Nat × α)) {a b : Nat} (hb : b ≠ a) :
    sparseGet d (sparseErase m a) b = sparseGet d m b := by
  induction m with
  | nil => rfl
  | cons c m ih =>
    obtain ⟨k, v⟩ := c
    by_cases h : k = a
    · subst h
      simp [sparseErase, sparseGet, ih, Ne.symm hb]
    · simp [sparseErase, sparseGet, h, ih]

theorem sparseGet_sparseInsert_same {α : Type} (d : α) (m : List (Nat × α)) (a : Nat) (x : α) : sparseGet d (sparseInsert m a x) a = x := by
  induction m with
  | nil => simp [sparseInsert, sparseGet]
  | cons c m ih =>
    obtain ⟨k, v⟩ := c
    unfold sparseInsert
    split
    · simp [sparseGet]
    · split <;> rename_i h
      · simp [sparseGet, h]
      · simp [sparseGet, h, ih]

theorem sparseGet_sparseInsert_ne {α : Type} (d : α) (m : List (Nat × α)) {a b : Nat} (hb : b ≠ a) (x : α) :
    sparseGet d (sparseInsert m a x) b = sparseGet d m b := by
  induction m with
  | nil => simp [sparseInsert, sparseGet, Ne.symm hb]
  | cons c m ih =>
    obtain ⟨k, v⟩ := c
    unfold sparseInsert
    split
    · simp [sparseGet, Ne.symm hb]
    · split <;> rename_i h
      · subst h
        simp [sparseGet, Ne.symm hb]
      · simp [sparseGet, ih]

theorem sparseGet_sparseSet_same {α : Type} [DecidableEq α] (d : α) (m : List (Nat × α)) (a : Nat) (x : α) :
    sparseGet d (sparseSet d m a x) a = x := by
  unfold sparseSet
  split
  · rename_i h
    rw [sparseGet_sparseErase_same, h]
  · exact sparseGet_sparseInsert_same _ _ _ _

theorem sparseGet_sparseSet_ne {α : Type} [DecidableEq α] (d e : α) (m : List (Nat × α)) {a b : Nat} (hb : b ≠ a) (x : α) :
    sparseGet e (sparseSet d m a x) b = sparseGet e m b := by
  unfold sparseSet
  split
  · exact sparseGet_sparseErase_ne _ _ hb
  · exact sparseGet_sparseInsert_ne _ _ hb _

@[simp] theorem State.reg_setReg_same (s : State) (o : Nat) (v : BitVec 32) : (s.setReg o v).reg o = v :=
  sparseGet_sparseSet_same _ _ _ _

theorem State.reg_setReg_ne (s : State) {o p : Nat} (h : p ≠ o) (v : BitVec 32) : (s.setReg o v).reg p = s.reg p :=
  sparseGet_sparseSet_ne _ _ _ h _

/-- A host write changes no register but its own. -/
theorem State.reg_hostWrite_ne (s : State) {o p : Nat} (h : p ≠ o) (v : BitVec 32) : (s.hostWrite o v).reg p = s.reg p := by
  unfold State.hostWrite
  split
  · rfl
  · exact State.reg_setReg_ne s h _

/-- What a register holds after a host write: every field by its access code. -/
theorem State.reg_hostWrite_same (s : State) (o : Nat) (v : BitVec 32) {d : RegDef} (h : regDefAt o = some d) :
    (s.hostWrite o v).reg o = d.fields.foldl (writeField s o v) (s.reg o) := by
  unfold State.hostWrite
  rw [h]
  exact State.reg_setReg_same _ _ _

end Sys2Proof.Machine
end

