-- ==== Sys2Proof/Laws/ResetSources.lean ====
section
/-! SUPPORT. What a change of the reset sources leaves of the reset controller (R53 to R57): while the power-on source and RESET_N at L0 are off, settling moves unit states alone, and RST_CAUSE only gains bits. -/

namespace Sys2Proof.Machine

/-- The reset controller without what settling moves: unit states, counts of released blocks, the PCIe link, DRAM_SR, the twin fault source and RST_CAUSE. -/
def RstState.strip (r : RstState) : RstState :=
  { r with
    aon := .up, mgmt := .up, data := .up, ctrl := .up, relMgmt := 0, relData := 0, relCtrl := 0
    held := Vector.replicate 13 .up, link := Vector.replicate 32 .up, pcieUp := false, dramSr := false, twinFault := false, cause := 0 }

/-- The sources that every settling keeps, and the bits of RST_CAUSE. -/
structure Src (r t : RstState) : Prop where
  por : t.por = r.por
  rail : t.rail = r.rail
  resetN : t.resetN = r.resetN
  perstLow : t.perstLow = r.perstLow
  perst : t.perst = r.perst ∨ t.perst = r.perstLow
  therm : t.therm = r.therm
  osc : t.osc = r.osc
  reach : t.otp.reachResetN = r.otp.reachResetN
  wdog : t.wdog = true → r.wdog = true
  missed : t.wdogMissed = true → r.wdogMissed = true
  cause : r.cause &&& t.cause = r.cause

theorem Src.refl (r : RstState) : Src r r := ⟨rfl, rfl, rfl, rfl, .inl rfl, rfl, rfl, rfl, id, id, by simp⟩

theorem Src.trans {a b c : RstState} (h : Src a b) (k : Src b c) : Src a c :=
  ⟨k.por.trans h.por, k.rail.trans h.rail, k.resetN.trans h.resetN, k.perstLow.trans h.perstLow,
    k.perst.elim (fun e => h.perst.imp e.trans e.trans) fun e => .inr (e.trans h.perstLow),
    k.therm.trans h.therm, k.osc.trans h.osc, k.reach.trans h.reach, h.wdog ∘ k.wdog, h.missed ∘ k.missed, by
    rw [← h.cause, BitVec.and_assoc, k.cause]⟩

theorem Src.of_eq {a b : RstState} (h : b = a) : Src a b := h ▸ Src.refl a

/-- What settling keeps of the reset controller: its sources always, and all but the unit states where AON is not reset. -/
structure Settled (s t : State) : Prop where
  src : Src s.rst t.rst
  strip : s.reachL0 = false → t.rst.strip = s.rst.strip

theorem Settled.refl (s : State) : Settled s s := ⟨Src.refl _, fun _ => rfl⟩

theorem reachL0_of_src {s t : State} (h : Src s.rst t.rst) : t.reachL0 = s.reachL0 := by
  simp [State.reachL0, h.por, h.resetN, h.reach]

theorem Settled.trans {a b c : State} (h : Settled a b) (k : Settled b c) : Settled a c :=
  ⟨h.src.trans k.src, fun e => (k.strip (reachL0_of_src h.src ▸ e)).trans (h.strip e)⟩

/-- An operation whose frame leaves the reset controller alone settles nothing. -/
theorem Settled.of_rst {s t : State} (h : t.rst = s.rst) : Settled s t := ⟨Src.of_eq h, fun _ => by rw [h]⟩

/-- Every piece but the reset controller. -/
def Touch.noRst : Touch := 0xFFFFFFD

theorem Settled.of_same {s t : State} (h : Same Touch.noRst s t) : Settled s t :=
  Settled.of_rst (h.rst.resolve_left (Touch.not_le rfl))

theorem Settled.foldl {α : Type} {s0 s : State} {f : State → α → State} {l : List α}
    (hf : ∀ t x, Settled t (f t x)) (h : Settled s0 s) : Settled s0 (l.foldl f s) := by
  induction l generalizing s with
  | nil => exact h
  | cons x l ih => exact ih (h.trans (hf _ _))

theorem State.setDomain_settled (s : State) (d : Domain) (u : UnitState) : Settled s (s.setDomain d u) := by
  cases d <;> exact ⟨⟨rfl, rfl, rfl, rfl, .inl rfl, rfl, rfl, rfl, id, id, by simp [State.setDomain]⟩, fun _ => rfl⟩

theorem State.setReleased_settled (s : State) (d : Domain) (n : Nat) : Settled s (s.setReleased d n) := by
  cases d <;> exact ⟨⟨rfl, rfl, rfl, rfl, .inl rfl, rfl, rfl, rfl, id, id, by simp [State.setReleased]⟩, fun _ => rfl⟩

theorem State.putHeld_settled (s : State) (k : Fin 13) (u : UnitState) : Settled s (s.putHeld k u) :=
  ⟨⟨rfl, rfl, rfl, rfl, .inl rfl, rfl, rfl, rfl, id, id, by simp [State.putHeld]⟩, fun _ => rfl⟩

theorem State.putLink_settled (s : State) (n : Fin 32) (u : UnitState) : Settled s (s.putLink n u) :=
  ⟨⟨rfl, rfl, rfl, rfl, .inl rfl, rfl, rfl, rfl, id, id, by simp [State.putLink]⟩, fun _ => rfl⟩

theorem State.clearRegs_rst (s : State) (lo hi : Nat) (keep : Nat → Bool) : (s.clearRegs lo hi keep).rst = s.rst := rfl

theorem cause_or (a b : BitVec 9) : a &&& (a ||| b) = a := by
  ext i
  simp only [BitVec.getElem_and, BitVec.getElem_or]
  cases a[i] <;> rfl

theorem State.failTwin_settled (s : State) (cause : Nat) : Settled s (s.failTwin cause) := by
  have hs : (s.abandonSwap).rst = s.rst :=
    ((State.abandonSwap_frame (M := Touch.noRst) .of (Same.refl _ s)).rst).resolve_left (Touch.not_le rfl)
  unfold State.failTwin
  split
  · exact Settled.refl s
  · refine Settled.trans ?_ (Settled.of_same (State.twinSend_frame (M := Touch.noRst) .of _ (Same.refl _ _)))
    refine ⟨⟨?_, ?_, ?_, ?_, ?_, ?_, ?_, ?_, ?_, ?_, ?_⟩, ?_⟩ <;> simp only [hs, true_or]
    · exact id
    · exact id
    · exact cause_or _ _
    · intro _
      rfl

/-- What the stripped reset controller shows. -/
theorem RstState.of_strip {α : Type} (f : RstState → α) {r t : RstState} (hf : ∀ r, f (RstState.strip r) = f r) (h : t.strip = r.strip) :
    f t = f r := by rw [← hf t, h, hf r]

/-- A change of the reset controller that its source bits do not see. -/
theorem Settled.set_rst {s t : State} (hs : t.rst.strip = s.rst.strip) (hc : s.rst.cause &&& t.rst.cause = s.rst.cause) : Settled s t :=
  ⟨⟨RstState.of_strip RstState.por (fun _ => rfl) hs, RstState.of_strip RstState.rail (fun _ => rfl) hs,
    RstState.of_strip RstState.resetN (fun _ => rfl) hs, RstState.of_strip RstState.perstLow (fun _ => rfl) hs,
    .inl (RstState.of_strip RstState.perst (fun _ => rfl) hs), RstState.of_strip RstState.therm (fun _ => rfl) hs,
    RstState.of_strip RstState.osc (fun _ => rfl) hs, RstState.of_strip (fun r => r.otp.reachResetN) (fun _ => rfl) hs,
    fun h => (RstState.of_strip RstState.wdog (fun _ => rfl) hs) ▸ h, fun h => (RstState.of_strip RstState.wdogMissed (fun _ => rfl) hs) ▸ h, hc⟩, fun _ => hs⟩

theorem State.resetBlk_settled (s : State) (b : Blk) (wide : Bool) : Settled s (s.resetBlk b wide) := by
  unfold State.resetBlk
  have h1 : Settled s ((((s.stickCopy b).cutEntries b).rejectTouched b).dropHeld b) :=
    Settled.of_same (State.dropHeld_frame .of _ (State.rejectTouched_frame .of _ (State.cutEntries_frame .of _ (State.stickCopy_frame .of _ (Same.refl _ s)))))
  refine h1.trans ?_
  generalize (((s.stickCopy b).cutEntries b).rejectTouched b).dropHeld b = x
  cases b
  case hif => exact Settled.set_rst rfl (by simp [State.clearRegs])
  case twn => exact Settled.set_rst rfl (by simp [State.clearRegs])
  case dmc =>
    cases wide
    · exact Settled.set_rst rfl (by simp [State.clearRegs, State.followLevel])
    · exact Settled.set_rst rfl (by simp [State.clearRegs, State.followLevel, State.loseDram])
  case plk =>
    refine Settled.trans (Settled.foldl (fun t n => ?_) (Settled.refl x)) (Settled.of_rst (State.clearRegs_rst _ _ _ _))
    exact Settled.of_same (State.resetLink_frame .of _ _ (Same.refl _ t))
  case cpy =>
    refine Settled.trans (Settled.foldl (s := { x with cpy := {} }) (fun t n => ?_) (Settled.of_rst rfl)) (Settled.of_rst (State.clearRegs_rst _ _ _ _))
    exact Settled.of_same (State.copyEvent_frame .of _ _ (Same.refl _ t))
  case scr =>
    refine Settled.trans (Settled.of_same (State.openRestore_frame .of _ (Same.refl _ x))) (Settled.of_rst rfl)
  case csm =>
    refine Settled.trans (Settled.of_same (State.openRestore_frame .of _ (Same.refl _ x))) (Settled.of_rst rfl)
  case tim => exact Settled.trans (Settled.of_same (State.resetGpios_frame .of (Same.refl _ x))) (Settled.of_rst rfl)
  case cam => exact Settled.trans (Settled.of_same (State.resetTrigs_frame .of (Same.refl _ x))) (Settled.of_rst rfl)
  case lop => exact Settled.of_rst rfl
  all_goals exact Settled.of_rst rfl

theorem State.followPerst_cause (s : State) : s.rst.cause &&& s.followPerst.rst.cause = s.rst.cause := by
  unfold State.followPerst
  cases s.rst.perstLow && !s.rst.perst
  · exact BitVec.and_self
  · exact cause_or s.rst.cause (BitVec.ofNat 9 (2 ^ 3))

theorem State.followPerst_src (s : State) : Src s.rst s.followPerst.rst := by
  have hc := State.followPerst_cause s
  unfold State.followPerst at hc ⊢
  extract_lets s1 at hc ⊢
  have h : s1.rst.strip = s.rst.strip ∧ s1.rst.wdog = s.rst.wdog ∧ s1.rst.wdogMissed = s.rst.wdogMissed := by
    unfold s1
    split <;> exact ⟨rfl, rfl, rfl⟩
  have e := RstState.of_strip (fun r => (r.por, r.rail, r.resetN, r.perstLow, r.therm, r.osc, r.otp.reachResetN)) (fun _ => rfl) h.1
  simp only [Prod.mk.injEq] at e
  exact ⟨e.1, e.2.1, e.2.2.1, e.2.2.2.1, .inr rfl, e.2.2.2.2.1, e.2.2.2.2.2.1, e.2.2.2.2.2.2, fun k => h.2.1 ▸ k, fun k => h.2.2 ▸ k, hc⟩

theorem State.resetAon_src (s : State) : Src s.rst s.resetAon.rst :=
  (State.followPerst_src s).trans
    ⟨rfl, rfl, rfl, rfl, .inl rfl, rfl, rfl, rfl, (fun h => nomatch h), (fun h => nomatch h), by simp [State.resetAon]⟩

theorem State.loseDomain_settled (s : State) (d : Domain) (hd : d = .aon → s.reachL0 = true) : Settled s (s.loseDomain d) := by
  unfold State.loseDomain
  extract_lets wide s1 s2 s3
  refine Settled.trans ?_ (State.setReleased_settled _ _ _)
  have h1 : Settled s s1 := by
    unfold s1
    split
    · exact State.failTwin_settled s 2
    · exact Settled.refl s
  have h2 : Settled s s2 := Settled.foldl (fun t b => State.resetBlk_settled t b wide) h1
  unfold s3
  split
  · rename_i h
    exact ⟨h2.src.trans (State.resetAon_src _), fun e => absurd (hd h) (by simp [e])⟩
  · exact h2

theorem State.settleDomain_settled (s : State) (d : Domain) : Settled s (s.settleDomain d) := by
  unfold State.settleDomain
  extract_lets old new
  split
  · exact Settled.refl s
  · rename_i hne
    split
    · rename_i hup
      refine Settled.trans (State.loseDomain_settled s d ?_) (State.setDomain_settled _ _ _)
      intro hd
      subst hd
      have : new = nextUnit (s.domainCovered .aon) (s.bootHolds .aon) old := rfl
      rw [hup] at this
      rw [hup, this] at hne
      simp only [nextUnit, State.domainCovered] at hne
      cases h : s.reachL0 with
      | true => rfl
      | false => simp [h] at hne
    · exact State.setDomain_settled _ _ _

theorem State.settleBlock_settled (s : State) (k : Fin 13) : Settled s (s.settleBlock k) := by
  unfold State.settleBlock
  extract_lets b old n1 n2
  split
  · split
    · exact Settled.refl s
    · exact State.putHeld_settled _ _ _
  · split
    · exact Settled.refl s
    · split
      · exact (State.resetBlk_settled _ _ _).trans (State.putHeld_settled _ _ _)
      · exact State.putHeld_settled _ _ _

theorem State.settleLink_settled (s : State) (n : Fin 32) : Settled s (s.settleLink n) := by
  unfold State.settleLink
  extract_lets old n1 n2 st s1
  split
  · split
    · exact Settled.refl s
    · exact State.putLink_settled _ _ _
  · split
    · exact Settled.refl s
    · split
      · split
        · refine Settled.trans ?_ (State.putLink_settled _ _ _)
          refine Settled.of_same (State.resetLink_frame .of _ _ ?_)
          unfold s1
          split
          · exact Same.refl _ s
          · exact State.log_frame .of _ _ _ _ (State.draw_frame .of (Same.refl _ s))
        · exact Settled.trans (Settled.of_same (State.resetLink_frame .of _ _ (Same.refl _ s))) (State.putLink_settled _ _ _)
      · exact State.putLink_settled _ _ _

theorem State.settlePass_settled (s : State) : Settled s s.settlePass := by
  unfold State.settlePass
  refine Settled.foldl State.settleLink_settled (Settled.foldl State.settleBlock_settled ?_)
  exact (((State.settleDomain_settled _ _).trans (State.settleDomain_settled _ _)).trans (State.settleDomain_settled _ _)).trans
    (State.settleDomain_settled _ _)

theorem State.loseWide_settled (s : State) : Settled s s.loseWide := by
  unfold State.loseWide
  split
  · exact Settled.refl s
  · exact Settled.set_rst rfl (by simp [State.clearRegs, State.loseDram])

theorem State.restartBoot_src (s : State) : Src s.rst s.restartBoot.rst := by
  unfold State.restartBoot
  split
  · extract_lets s1 t r r1 r2
    have h : Src s.rst t.rst := by
      unfold t
      split <;> exact (State.loseWide_settled s).src
    refine h.trans ?_
    unfold r2
    split <;> exact ⟨rfl, rfl, rfl, rfl, .inl rfl, rfl, rfl, rfl, id, id, by simp [r1, r]⟩
  · exact Src.refl _

theorem State.settleResets_src (s : State) : Src s.rst s.settleResets.rst :=
  ((State.restartBoot_src s).trans (State.settlePass_settled _).src).trans ((State.restartBoot_src _).trans (State.settlePass_settled _).src)

/-- The states of the four domains. -/
def RstState.doms (r : RstState) : UnitState × UnitState × UnitState × UnitState := (r.aon, r.mgmt, r.data, r.ctrl)

/-- Two states agree on the states of the domains. -/
def Doms (s t : State) : Prop := t.rst.doms = s.rst.doms

theorem Doms.refl (s : State) : Doms s s := rfl

theorem Doms.trans {a b c : State} (h : Doms a b) (k : Doms b c) : Doms a c := Eq.trans k h

theorem Doms.of_same {s t : State} (h : Same Touch.noRst s t) : Doms s t := congrArg RstState.doms (h.rst.resolve_left (Touch.not_le rfl))

theorem Doms.foldl {α : Type} {s0 s : State} {f : State → α → State} {l : List α}
    (hf : ∀ t x, Doms t (f t x)) (h : Doms s0 s) : Doms s0 (l.foldl f s) := by
  induction l generalizing s with
  | nil => exact h
  | cons x l ih => exact ih (h.trans (hf _ _))

theorem State.failTwin_doms (s : State) (cause : Nat) : Doms s (s.failTwin cause) := by
  have hs : (s.abandonSwap).rst = s.rst :=
    ((State.abandonSwap_frame (M := Touch.noRst) .of (Same.refl _ s)).rst).resolve_left (Touch.not_le rfl)
  unfold State.failTwin
  split
  · exact Doms.refl s
  · refine Doms.trans ?_ (Doms.of_same (State.twinSend_frame (M := Touch.noRst) .of _ (Same.refl _ _)))
    simp only [Doms, RstState.doms, hs]

theorem State.resetBlk_doms (s : State) (b : Blk) (wide : Bool) : Doms s (s.resetBlk b wide) := by
  unfold State.resetBlk
  have h1 : Doms s ((((s.stickCopy b).cutEntries b).rejectTouched b).dropHeld b) :=
    Doms.of_same (State.dropHeld_frame .of _ (State.rejectTouched_frame .of _ (State.cutEntries_frame .of _ (State.stickCopy_frame .of _ (Same.refl _ s)))))
  refine h1.trans ?_
  generalize (((s.stickCopy b).cutEntries b).rejectTouched b).dropHeld b = x
  cases b
  case dmc => cases wide <;> rfl
  case plk =>
    exact Doms.trans (Doms.foldl (fun t n => Doms.of_same (State.resetLink_frame .of _ _ (Same.refl _ t))) (Doms.refl x))
      (congrArg RstState.doms (State.clearRegs_rst _ _ _ _))
  case cpy =>
    exact Doms.trans (Doms.foldl (s := { x with cpy := {} }) (fun t n => Doms.of_same (State.copyEvent_frame .of _ _ (Same.refl _ t))) rfl)
      (congrArg RstState.doms (State.clearRegs_rst _ _ _ _))
  case scr => exact Doms.trans (Doms.of_same (State.openRestore_frame .of _ (Same.refl _ x))) rfl
  case csm => exact Doms.trans (Doms.of_same (State.openRestore_frame .of _ (Same.refl _ x))) rfl
  case tim => exact Doms.trans (Doms.of_same (State.resetGpios_frame .of (Same.refl _ x))) rfl
  case cam => exact Doms.trans (Doms.of_same (State.resetTrigs_frame .of (Same.refl _ x))) rfl
  all_goals rfl

theorem State.setReleased_doms (s : State) (d : Domain) (n : Nat) : Doms s (s.setReleased d n) := by cases d <;> rfl

theorem State.resetAon_doms (s : State) : Doms s s.resetAon := by
  unfold State.resetAon State.followPerst
  extract_lets s1 t
  have h : s1.rst.doms = s.rst.doms := by
    unfold s1
    split <;> rfl
  exact h

theorem State.loseDomain_doms (s : State) (d : Domain) : Doms s (s.loseDomain d) := by
  unfold State.loseDomain
  extract_lets wide s1 s2 s3
  refine Doms.trans ?_ (State.setReleased_doms _ _ _)
  have h1 : Doms s s1 := by
    unfold s1
    split
    · exact State.failTwin_doms s 2
    · exact Doms.refl s
  have h2 : Doms s s2 := Doms.foldl (fun t b => State.resetBlk_doms t b wide) h1
  unfold s3
  split
  · exact h2.trans (State.resetAon_doms _)
  · exact h2

theorem State.putHeld_doms (s : State) (k : Fin 13) (u : UnitState) : Doms s (s.putHeld k u) := rfl

theorem State.putLink_doms (s : State) (n : Fin 32) (u : UnitState) : Doms s (s.putLink n u) := rfl

theorem State.settleBlock_doms (s : State) (k : Fin 13) : Doms s (s.settleBlock k) := by
  unfold State.settleBlock
  extract_lets b old n1 n2
  split
  · split <;> rfl
  · split
    · rfl
    · split
      · exact (State.resetBlk_doms _ _ _).trans (State.putHeld_doms _ _ _)
      · rfl

theorem State.settleLink_doms (s : State) (n : Fin 32) : Doms s (s.settleLink n) := by
  unfold State.settleLink
  extract_lets old n1 n2 st s1
  split
  · split <;> rfl
  · split
    · rfl
    · split
      · split
        · refine Doms.trans (Doms.of_same (State.resetLink_frame .of _ _ ?_)) (State.putLink_doms _ _ _)
          unfold s1
          split
          · exact Same.refl _ s
          · exact State.log_frame .of _ _ _ _ (State.draw_frame .of (Same.refl _ s))
        · exact Doms.trans (Doms.of_same (State.resetLink_frame .of _ _ (Same.refl _ s))) (State.putLink_doms _ _ _)
      · rfl

/-- A covered domain does not stay UP. -/
theorem nextUnit_covered (held : Bool) (u : UnitState) : nextUnit true held u ≠ .up := by
  cases u <;> simp [nextUnit]

theorem State.domainState_of_doms {s t : State} (h : Doms s t) (d : Domain) : t.domainState d = s.domainState d := by
  simp only [Doms, RstState.doms, Prod.mk.injEq] at h
  cases d
  · exact h.1
  · exact h.2.1
  · exact h.2.2.1
  · exact h.2.2.2

theorem State.setDomain_state (s : State) (d : Domain) (u : UnitState) : (s.setDomain d u).domainState d = u := by cases d <;> rfl

theorem State.setDomain_other (s : State) (d e : Domain) (u : UnitState) (h : d ≠ e) : (s.setDomain d u).domainState e = s.domainState e := by
  cases d <;> cases e <;> first | exact absurd rfl h | rfl

theorem State.settleDomain_state (s : State) (d : Domain) :
    (s.settleDomain d).domainState d = nextUnit (s.domainCovered d) (s.bootHolds d) (s.domainState d) := by
  unfold State.settleDomain
  extract_lets old new
  split
  · rename_i h
    exact h
  · split <;> exact State.setDomain_state _ _ _

/-- Settling one domain leaves the states of the others. -/
theorem State.settleDomain_other (s : State) (d e : Domain) (h : d ≠ e) : (s.settleDomain d).domainState e = s.domainState e := by
  unfold State.settleDomain
  extract_lets old new
  split
  · rfl
  · split
    · exact (State.setDomain_other _ _ _ _ h).trans (State.domainState_of_doms (State.loseDomain_doms s d) e)
    · exact State.setDomain_other _ _ _ _ h

/-- After a pass: AON under L0, MGMT under its coverage, DATA and CTRL under their holds and under MGMT are not UP. -/
structure Down (t : State) : Prop where
  aon : t.reachL0 = true → t.rst.aon ≠ .up
  mgmt : t.domainCovered .mgmt = true → t.rst.mgmt ≠ .up
  data : t.rst.mgmt ≠ .up ∨ t.rst.dataHold = true ∨ (t.rst.wdog && decide (t.rst.otp.reachWdog ≠ 1)) = true → t.rst.data ≠ .up
  ctrl : t.rst.mgmt ≠ .up ∨ t.rst.ctrlHold = true ∨ (t.rst.wdog && decide (t.rst.otp.reachWdog ≠ 1)) = true → t.rst.ctrl ≠ .up

theorem State.settleDomain_down (s : State) (d : Domain) (h : s.domainCovered d = true) : (s.settleDomain d).domainState d ≠ .up := by
  rw [State.settleDomain_state, h]
  exact nextUnit_covered _ _

/-- A hold that a settled state shows was there before it. -/
theorem Settled.hold {s t : State} (h : Settled s t) (f : RstState → Bool) (hf : ∀ r, f (RstState.strip r) = f r) (hl : s.reachL0 = false) :
    f t.rst = f s.rst := RstState.of_strip f hf (h.strip hl)

theorem State.settlePass_down (s : State) : Down s.settlePass := by
  have hL : s.settlePass.reachL0 = s.reachL0 := reachL0_of_src (State.settlePass_settled s).src
  have hd : ∀ d, s.settlePass.domainState d = ((((s.settleDomain .aon).settleDomain .mgmt).settleDomain .ctrl).settleDomain .data).domainState d := by
    intro d
    exact State.domainState_of_doms (Doms.foldl State.settleLink_doms (Doms.foldl State.settleBlock_doms (Doms.refl _))) d
  have s1 := State.settleDomain_settled s .aon
  have s2 := State.settleDomain_settled (s.settleDomain .aon) .mgmt
  have s3 := State.settleDomain_settled ((s.settleDomain .aon).settleDomain .mgmt) .ctrl
  have s4 := State.settleDomain_settled (((s.settleDomain .aon).settleDomain .mgmt).settleDomain .ctrl) .data
  have sR : Settled ((((s.settleDomain .aon).settleDomain .mgmt).settleDomain .ctrl).settleDomain .data) s.settlePass :=
    Settled.foldl State.settleLink_settled (Settled.foldl State.settleBlock_settled (Settled.refl _))
  have haon : s.settlePass.rst.aon = (s.settleDomain .aon).rst.aon := by
    rw [show s.settlePass.rst.aon = _ from hd .aon]
    rw [State.settleDomain_other _ _ _ (by decide), State.settleDomain_other _ _ _ (by decide), State.settleDomain_other _ _ _ (by decide)]
    rfl
  have hmgmt : s.settlePass.rst.mgmt = ((s.settleDomain .aon).settleDomain .mgmt).rst.mgmt := by
    rw [show s.settlePass.rst.mgmt = _ from hd .mgmt]
    rw [State.settleDomain_other _ _ _ (by decide), State.settleDomain_other _ _ _ (by decide)]
    rfl
  have hctrl : s.settlePass.rst.ctrl = (((s.settleDomain .aon).settleDomain .mgmt).settleDomain .ctrl).rst.ctrl := by
    rw [show s.settlePass.rst.ctrl = _ from hd .ctrl, State.settleDomain_other _ _ _ (by decide)]
    rfl
  have hdata : s.settlePass.rst.data = ((((s.settleDomain .aon).settleDomain .mgmt).settleDomain .ctrl).settleDomain .data).rst.data := hd .data
  have ha : s.reachL0 = true → s.settlePass.rst.aon ≠ .up := by
    intro h
    rw [haon]
    exact State.settleDomain_down s .aon h
  have hm : s.settlePass.domainCovered .mgmt = true → s.settlePass.rst.mgmt ≠ .up := by
    intro h
    rw [hmgmt]
    refine State.settleDomain_down _ .mgmt ?_
    cases hl : s.reachL0 with
    | true =>
      have := ha hl
      rw [haon] at this
      simp [State.domainCovered, this]
    | false =>
      have e := ((s2.trans (s3.trans (s4.trans sR))).strip (reachL0_of_src s1.src ▸ hl))
      have e1 := RstState.of_strip (fun r => (r.rail, r.resetN, r.otp, r.perst, r.therm, r.wdog, r.asleep)) (fun _ => rfl) e
      simp only [Prod.mk.injEq] at e1
      simp only [State.domainCovered, State.reachL1, e1, haon] at h
      simpa [State.domainCovered, State.reachL1] using h
  refine ⟨fun h => ha (hL ▸ h), hm, ?_, ?_⟩
  · intro h
    rw [hdata]
    refine State.settleDomain_down _ .data ?_
    rcases h with h | h | h
    · have : ((((s.settleDomain .aon).settleDomain .mgmt).settleDomain .ctrl)).rst.mgmt = s.settlePass.rst.mgmt := by
        rw [hmgmt]
        exact State.settleDomain_other _ _ .mgmt (by decide)
      simp [State.domainCovered, this, h]
    · cases hl : s.reachL0 with
      | true =>
        have h1 := hm (by simp [State.domainCovered, ha hl])
        have : ((((s.settleDomain .aon).settleDomain .mgmt).settleDomain .ctrl)).rst.mgmt = s.settlePass.rst.mgmt := by
          rw [hmgmt]
          exact State.settleDomain_other _ _ .mgmt (by decide)
        simp [State.domainCovered, this, h1]
      | false =>
        have e := (s4.trans sR).hold RstState.dataHold (fun _ => rfl) (reachL0_of_src (s1.trans (s2.trans s3)).src ▸ hl)
        simp [State.domainCovered, ← e, h]
    · cases hl : s.reachL0 with
      | true =>
        have h1 := hm (by simp [State.domainCovered, ha hl])
        have : ((((s.settleDomain .aon).settleDomain .mgmt).settleDomain .ctrl)).rst.mgmt = s.settlePass.rst.mgmt := by
          rw [hmgmt]
          exact State.settleDomain_other _ _ .mgmt (by decide)
        simp [State.domainCovered, this, h1]
      | false =>
        have e := (s4.trans sR).hold (fun r => r.wdog && decide (r.otp.reachWdog ≠ 1)) (fun _ => rfl) (reachL0_of_src (s1.trans (s2.trans s3)).src ▸ hl)
        rw [e] at h
        simp only [State.domainCovered, State.reachL2, h, Bool.true_or, Bool.or_true]
  · intro h
    rw [hctrl]
    refine State.settleDomain_down _ .ctrl ?_
    rcases h with h | h | h
    · simp [State.domainCovered, ← hmgmt, h]
    · cases hl : s.reachL0 with
      | true =>
        have h1 := hm (by simp [State.domainCovered, ha hl])
        simp [State.domainCovered, ← hmgmt, h1]
      | false =>
        have e := (s3.trans (s4.trans sR)).hold RstState.ctrlHold (fun _ => rfl) (reachL0_of_src (s1.trans s2).src ▸ hl)
        simp [State.domainCovered, ← e, h]
    · cases hl : s.reachL0 with
      | true =>
        have h1 := hm (by simp [State.domainCovered, ha hl])
        simp [State.domainCovered, ← hmgmt, h1]
      | false =>
        have e := (s3.trans (s4.trans sR)).hold (fun r => r.wdog && decide (r.otp.reachWdog ≠ 1)) (fun _ => rfl) (reachL0_of_src (s1.trans s2).src ▸ hl)
        rw [e] at h
        simp only [State.domainCovered, State.reachL2, h, Bool.true_or, Bool.or_true]

/-- What every settling of the reset sources brings about (R54, R57). -/
theorem State.settleResets_down (s : State) : Down s.settleResets := State.settlePass_down _

theorem State.restartBoot_calm {s : State} (h : s.calm) : s.restartBoot = s := by
  unfold State.restartBoot
  rw [if_neg (by simp [h.1, h.2.1, h.2.2])]

theorem State.calm_of_strip {s t : State} (h : s.calm) (hs : Settled s t) : t.calm := by
  have e := RstState.of_strip (fun r => (r.rail, r.resetN, r.otp, r.perst, r.therm, r.wdog, r.asleep)) (fun _ => rfl) (hs.strip h.1)
  simp only [Prod.mk.injEq] at e
  refine ⟨(reachL0_of_src hs.src).trans h.1, ?_, e.2.2.2.2.2.2.trans h.2.2⟩
  have h1 := h.2.1
  simp only [State.reachL1, e] at h1 ⊢
  exact h1

/-- While no source of L1 or L0 asserts and the device is awake, settling moves unit states alone. -/
theorem State.settleResets_calm {s : State} (h : s.calm) : Settled s s.settleResets := by
  unfold State.settleResets
  rw [State.restartBoot_calm h, State.restartBoot_calm (State.calm_of_strip h (State.settlePass_settled s))]
  exact (State.settlePass_settled _).trans (State.settlePass_settled _)

end Sys2Proof.Machine
end

