-- ==== Sys2Proof/Laws/State.lean ====
section
/-! SUPPORT. What each shared update of the state leaves in each field: one lemma per field per update, so that no proof unfolds a record update. -/

namespace Sys2Proof.Machine.State

/-! setReg -/

@[simp] theorem setReg_regs (s : State) (o : Nat) (v : BitVec 32) : (s.setReg o v).regs = sparseSet (regReset o) s.regs o v := rfl
@[simp] theorem setReg_rst (s : State) (o : Nat) (v : BitVec 32) : (s.setReg o v).rst = s.rst := rfl
@[simp] theorem setReg_pins (s : State) (o : Nat) (v : BitVec 32) : (s.setReg o v).pins = s.pins := rfl
@[simp] theorem setReg_clk (s : State) (o : Nat) (v : BitVec 32) : (s.setReg o v).clk = s.clk := rfl
@[simp] theorem setReg_hif (s : State) (o : Nat) (v : BitVec 32) : (s.setReg o v).hif = s.hif := rfl
@[simp] theorem setReg_mmu (s : State) (o : Nat) (v : BitVec 32) : (s.setReg o v).mmu = s.mmu := rfl
@[simp] theorem setReg_cpy (s : State) (o : Nat) (v : BitVec 32) : (s.setReg o v).cpy = s.cpy := rfl
@[simp] theorem setReg_dmc (s : State) (o : Nat) (v : BitVec 32) : (s.setReg o v).dmc = s.dmc := rfl
@[simp] theorem setReg_qdc (s : State) (o : Nat) (v : BitVec 32) : (s.setReg o v).qdc = s.qdc := rfl
@[simp] theorem setReg_scr (s : State) (o : Nat) (v : BitVec 32) : (s.setReg o v).scr = s.scr := rfl
@[simp] theorem setReg_csm (s : State) (o : Nat) (v : BitVec 32) : (s.setReg o v).csm = s.csm := rfl
@[simp] theorem setReg_pos (s : State) (o : Nat) (v : BitVec 32) : (s.setReg o v).pos = s.pos := rfl
@[simp] theorem setReg_fir (s : State) (o : Nat) (v : BitVec 32) : (s.setReg o v).fir = s.fir := rfl
@[simp] theorem setReg_plk (s : State) (o : Nat) (v : BitVec 32) : (s.setReg o v).plk = s.plk := rfl
@[simp] theorem setReg_cam (s : State) (o : Nat) (v : BitVec 32) : (s.setReg o v).cam = s.cam := rfl
@[simp] theorem setReg_lop (s : State) (o : Nat) (v : BitVec 32) : (s.setReg o v).lop = s.lop := rfl
@[simp] theorem setReg_lck (s : State) (o : Nat) (v : BitVec 32) : (s.setReg o v).lck = s.lck := rfl
@[simp] theorem setReg_tim (s : State) (o : Nat) (v : BitVec 32) : (s.setReg o v).tim = s.tim := rfl
@[simp] theorem setReg_urg (s : State) (o : Nat) (v : BitVec 32) : (s.setReg o v).urg = s.urg := rfl
@[simp] theorem setReg_twn (s : State) (o : Nat) (v : BitVec 32) : (s.setReg o v).twn = s.twn := rfl
@[simp] theorem setReg_thm (s : State) (o : Nat) (v : BitVec 32) : (s.setReg o v).thm = s.thm := rfl
@[simp] theorem setReg_pmc (s : State) (o : Nat) (v : BitVec 32) : (s.setReg o v).pmc = s.pmc := rfl
@[simp] theorem setReg_latch (s : State) (o : Nat) (v : BitVec 32) : (s.setReg o v).latch = s.latch := rfl
@[simp] theorem setReg_dram (s : State) (o : Nat) (v : BitVec 32) : (s.setReg o v).dram = s.dram := rfl
@[simp] theorem setReg_tables (s : State) (o : Nat) (v : BitVec 32) : (s.setReg o v).tables = s.tables := rfl
@[simp] theorem setReg_now (s : State) (o : Nat) (v : BitVec 32) : (s.setReg o v).now = s.now := rfl
@[simp] theorem setReg_draws (s : State) (o : Nat) (v : BitVec 32) : (s.setReg o v).draws = s.draws := rfl
@[simp] theorem setReg_out (s : State) (o : Nat) (v : BitVec 32) : (s.setReg o v).out = s.out := rfl
@[simp] theorem setReg_pending (s : State) (o : Nat) (v : BitVec 32) : (s.setReg o v).pending = s.pending := rfl

/-! writeTable -/

@[simp] theorem writeTable_tables (s : State) (t off : Nat) (bs : List Byte) : (s.writeTable t off bs).tables = writeRange (some 0) s.tables (tableKey t off) bs := rfl
@[simp] theorem writeTable_regs (s : State) (t off : Nat) (bs : List Byte) : (s.writeTable t off bs).regs = s.regs := rfl
@[simp] theorem writeTable_rst (s : State) (t off : Nat) (bs : List Byte) : (s.writeTable t off bs).rst = s.rst := rfl
@[simp] theorem writeTable_pins (s : State) (t off : Nat) (bs : List Byte) : (s.writeTable t off bs).pins = s.pins := rfl
@[simp] theorem writeTable_clk (s : State) (t off : Nat) (bs : List Byte) : (s.writeTable t off bs).clk = s.clk := rfl
@[simp] theorem writeTable_hif (s : State) (t off : Nat) (bs : List Byte) : (s.writeTable t off bs).hif = s.hif := rfl
@[simp] theorem writeTable_mmu (s : State) (t off : Nat) (bs : List Byte) : (s.writeTable t off bs).mmu = s.mmu := rfl
@[simp] theorem writeTable_cpy (s : State) (t off : Nat) (bs : List Byte) : (s.writeTable t off bs).cpy = s.cpy := rfl
@[simp] theorem writeTable_dmc (s : State) (t off : Nat) (bs : List Byte) : (s.writeTable t off bs).dmc = s.dmc := rfl
@[simp] theorem writeTable_qdc (s : State) (t off : Nat) (bs : List Byte) : (s.writeTable t off bs).qdc = s.qdc := rfl
@[simp] theorem writeTable_scr (s : State) (t off : Nat) (bs : List Byte) : (s.writeTable t off bs).scr = s.scr := rfl
@[simp] theorem writeTable_csm (s : State) (t off : Nat) (bs : List Byte) : (s.writeTable t off bs).csm = s.csm := rfl
@[simp] theorem writeTable_pos (s : State) (t off : Nat) (bs : List Byte) : (s.writeTable t off bs).pos = s.pos := rfl
@[simp] theorem writeTable_fir (s : State) (t off : Nat) (bs : List Byte) : (s.writeTable t off bs).fir = s.fir := rfl
@[simp] theorem writeTable_plk (s : State) (t off : Nat) (bs : List Byte) : (s.writeTable t off bs).plk = s.plk := rfl
@[simp] theorem writeTable_cam (s : State) (t off : Nat) (bs : List Byte) : (s.writeTable t off bs).cam = s.cam := rfl
@[simp] theorem writeTable_lop (s : State) (t off : Nat) (bs : List Byte) : (s.writeTable t off bs).lop = s.lop := rfl
@[simp] theorem writeTable_lck (s : State) (t off : Nat) (bs : List Byte) : (s.writeTable t off bs).lck = s.lck := rfl
@[simp] theorem writeTable_tim (s : State) (t off : Nat) (bs : List Byte) : (s.writeTable t off bs).tim = s.tim := rfl
@[simp] theorem writeTable_urg (s : State) (t off : Nat) (bs : List Byte) : (s.writeTable t off bs).urg = s.urg := rfl
@[simp] theorem writeTable_twn (s : State) (t off : Nat) (bs : List Byte) : (s.writeTable t off bs).twn = s.twn := rfl
@[simp] theorem writeTable_thm (s : State) (t off : Nat) (bs : List Byte) : (s.writeTable t off bs).thm = s.thm := rfl
@[simp] theorem writeTable_pmc (s : State) (t off : Nat) (bs : List Byte) : (s.writeTable t off bs).pmc = s.pmc := rfl
@[simp] theorem writeTable_latch (s : State) (t off : Nat) (bs : List Byte) : (s.writeTable t off bs).latch = s.latch := rfl
@[simp] theorem writeTable_dram (s : State) (t off : Nat) (bs : List Byte) : (s.writeTable t off bs).dram = s.dram := rfl
@[simp] theorem writeTable_now (s : State) (t off : Nat) (bs : List Byte) : (s.writeTable t off bs).now = s.now := rfl
@[simp] theorem writeTable_draws (s : State) (t off : Nat) (bs : List Byte) : (s.writeTable t off bs).draws = s.draws := rfl
@[simp] theorem writeTable_out (s : State) (t off : Nat) (bs : List Byte) : (s.writeTable t off bs).out = s.out := rfl
@[simp] theorem writeTable_pending (s : State) (t off : Nat) (bs : List Byte) : (s.writeTable t off bs).pending = s.pending := rfl

/-! emit -/

@[simp] theorem emit_out (s : State) (o : Out) : (s.emit o).out = s.out ++ [o] := rfl
@[simp] theorem emit_regs (s : State) (o : Out) : (s.emit o).regs = s.regs := rfl
@[simp] theorem emit_rst (s : State) (o : Out) : (s.emit o).rst = s.rst := rfl
@[simp] theorem emit_pins (s : State) (o : Out) : (s.emit o).pins = s.pins := rfl
@[simp] theorem emit_clk (s : State) (o : Out) : (s.emit o).clk = s.clk := rfl
@[simp] theorem emit_hif (s : State) (o : Out) : (s.emit o).hif = s.hif := rfl
@[simp] theorem emit_mmu (s : State) (o : Out) : (s.emit o).mmu = s.mmu := rfl
@[simp] theorem emit_cpy (s : State) (o : Out) : (s.emit o).cpy = s.cpy := rfl
@[simp] theorem emit_dmc (s : State) (o : Out) : (s.emit o).dmc = s.dmc := rfl
@[simp] theorem emit_qdc (s : State) (o : Out) : (s.emit o).qdc = s.qdc := rfl
@[simp] theorem emit_scr (s : State) (o : Out) : (s.emit o).scr = s.scr := rfl
@[simp] theorem emit_csm (s : State) (o : Out) : (s.emit o).csm = s.csm := rfl
@[simp] theorem emit_pos (s : State) (o : Out) : (s.emit o).pos = s.pos := rfl
@[simp] theorem emit_fir (s : State) (o : Out) : (s.emit o).fir = s.fir := rfl
@[simp] theorem emit_plk (s : State) (o : Out) : (s.emit o).plk = s.plk := rfl
@[simp] theorem emit_cam (s : State) (o : Out) : (s.emit o).cam = s.cam := rfl
@[simp] theorem emit_lop (s : State) (o : Out) : (s.emit o).lop = s.lop := rfl
@[simp] theorem emit_lck (s : State) (o : Out) : (s.emit o).lck = s.lck := rfl
@[simp] theorem emit_tim (s : State) (o : Out) : (s.emit o).tim = s.tim := rfl
@[simp] theorem emit_urg (s : State) (o : Out) : (s.emit o).urg = s.urg := rfl
@[simp] theorem emit_twn (s : State) (o : Out) : (s.emit o).twn = s.twn := rfl
@[simp] theorem emit_thm (s : State) (o : Out) : (s.emit o).thm = s.thm := rfl
@[simp] theorem emit_pmc (s : State) (o : Out) : (s.emit o).pmc = s.pmc := rfl
@[simp] theorem emit_latch (s : State) (o : Out) : (s.emit o).latch = s.latch := rfl
@[simp] theorem emit_dram (s : State) (o : Out) : (s.emit o).dram = s.dram := rfl
@[simp] theorem emit_tables (s : State) (o : Out) : (s.emit o).tables = s.tables := rfl
@[simp] theorem emit_now (s : State) (o : Out) : (s.emit o).now = s.now := rfl
@[simp] theorem emit_draws (s : State) (o : Out) : (s.emit o).draws = s.draws := rfl
@[simp] theorem emit_pending (s : State) (o : Out) : (s.emit o).pending = s.pending := rfl

/-! modPlane -/

@[simp] theorem modPlane_fir (s : State) (p : Fin 8) (f : Plane → Plane) : (s.modPlane p f).fir = { s.fir with plane := modAt s.fir.plane p f } := rfl
@[simp] theorem modPlane_regs (s : State) (p : Fin 8) (f : Plane → Plane) : (s.modPlane p f).regs = s.regs := rfl
@[simp] theorem modPlane_rst (s : State) (p : Fin 8) (f : Plane → Plane) : (s.modPlane p f).rst = s.rst := rfl
@[simp] theorem modPlane_pins (s : State) (p : Fin 8) (f : Plane → Plane) : (s.modPlane p f).pins = s.pins := rfl
@[simp] theorem modPlane_clk (s : State) (p : Fin 8) (f : Plane → Plane) : (s.modPlane p f).clk = s.clk := rfl
@[simp] theorem modPlane_hif (s : State) (p : Fin 8) (f : Plane → Plane) : (s.modPlane p f).hif = s.hif := rfl
@[simp] theorem modPlane_mmu (s : State) (p : Fin 8) (f : Plane → Plane) : (s.modPlane p f).mmu = s.mmu := rfl
@[simp] theorem modPlane_cpy (s : State) (p : Fin 8) (f : Plane → Plane) : (s.modPlane p f).cpy = s.cpy := rfl
@[simp] theorem modPlane_dmc (s : State) (p : Fin 8) (f : Plane → Plane) : (s.modPlane p f).dmc = s.dmc := rfl
@[simp] theorem modPlane_qdc (s : State) (p : Fin 8) (f : Plane → Plane) : (s.modPlane p f).qdc = s.qdc := rfl
@[simp] theorem modPlane_scr (s : State) (p : Fin 8) (f : Plane → Plane) : (s.modPlane p f).scr = s.scr := rfl
@[simp] theorem modPlane_csm (s : State) (p : Fin 8) (f : Plane → Plane) : (s.modPlane p f).csm = s.csm := rfl
@[simp] theorem modPlane_pos (s : State) (p : Fin 8) (f : Plane → Plane) : (s.modPlane p f).pos = s.pos := rfl
@[simp] theorem modPlane_plk (s : State) (p : Fin 8) (f : Plane → Plane) : (s.modPlane p f).plk = s.plk := rfl
@[simp] theorem modPlane_cam (s : State) (p : Fin 8) (f : Plane → Plane) : (s.modPlane p f).cam = s.cam := rfl
@[simp] theorem modPlane_lop (s : State) (p : Fin 8) (f : Plane → Plane) : (s.modPlane p f).lop = s.lop := rfl
@[simp] theorem modPlane_lck (s : State) (p : Fin 8) (f : Plane → Plane) : (s.modPlane p f).lck = s.lck := rfl
@[simp] theorem modPlane_tim (s : State) (p : Fin 8) (f : Plane → Plane) : (s.modPlane p f).tim = s.tim := rfl
@[simp] theorem modPlane_urg (s : State) (p : Fin 8) (f : Plane → Plane) : (s.modPlane p f).urg = s.urg := rfl
@[simp] theorem modPlane_twn (s : State) (p : Fin 8) (f : Plane → Plane) : (s.modPlane p f).twn = s.twn := rfl
@[simp] theorem modPlane_thm (s : State) (p : Fin 8) (f : Plane → Plane) : (s.modPlane p f).thm = s.thm := rfl
@[simp] theorem modPlane_pmc (s : State) (p : Fin 8) (f : Plane → Plane) : (s.modPlane p f).pmc = s.pmc := rfl
@[simp] theorem modPlane_latch (s : State) (p : Fin 8) (f : Plane → Plane) : (s.modPlane p f).latch = s.latch := rfl
@[simp] theorem modPlane_dram (s : State) (p : Fin 8) (f : Plane → Plane) : (s.modPlane p f).dram = s.dram := rfl
@[simp] theorem modPlane_tables (s : State) (p : Fin 8) (f : Plane → Plane) : (s.modPlane p f).tables = s.tables := rfl
@[simp] theorem modPlane_now (s : State) (p : Fin 8) (f : Plane → Plane) : (s.modPlane p f).now = s.now := rfl
@[simp] theorem modPlane_draws (s : State) (p : Fin 8) (f : Plane → Plane) : (s.modPlane p f).draws = s.draws := rfl
@[simp] theorem modPlane_out (s : State) (p : Fin 8) (f : Plane → Plane) : (s.modPlane p f).out = s.out := rfl
@[simp] theorem modPlane_pending (s : State) (p : Fin 8) (f : Plane → Plane) : (s.modPlane p f).pending = s.pending := rfl

/-! modChannel -/

@[simp] theorem modChannel_pos (s : State) (k : Fin 8) (f : Channel → Channel) : (s.modChannel k f).pos = { s.pos with ch := modAt s.pos.ch k f } := rfl
@[simp] theorem modChannel_regs (s : State) (k : Fin 8) (f : Channel → Channel) : (s.modChannel k f).regs = s.regs := rfl
@[simp] theorem modChannel_rst (s : State) (k : Fin 8) (f : Channel → Channel) : (s.modChannel k f).rst = s.rst := rfl
@[simp] theorem modChannel_pins (s : State) (k : Fin 8) (f : Channel → Channel) : (s.modChannel k f).pins = s.pins := rfl
@[simp] theorem modChannel_clk (s : State) (k : Fin 8) (f : Channel → Channel) : (s.modChannel k f).clk = s.clk := rfl
@[simp] theorem modChannel_hif (s : State) (k : Fin 8) (f : Channel → Channel) : (s.modChannel k f).hif = s.hif := rfl
@[simp] theorem modChannel_mmu (s : State) (k : Fin 8) (f : Channel → Channel) : (s.modChannel k f).mmu = s.mmu := rfl
@[simp] theorem modChannel_cpy (s : State) (k : Fin 8) (f : Channel → Channel) : (s.modChannel k f).cpy = s.cpy := rfl
@[simp] theorem modChannel_dmc (s : State) (k : Fin 8) (f : Channel → Channel) : (s.modChannel k f).dmc = s.dmc := rfl
@[simp] theorem modChannel_qdc (s : State) (k : Fin 8) (f : Channel → Channel) : (s.modChannel k f).qdc = s.qdc := rfl
@[simp] theorem modChannel_scr (s : State) (k : Fin 8) (f : Channel → Channel) : (s.modChannel k f).scr = s.scr := rfl
@[simp] theorem modChannel_csm (s : State) (k : Fin 8) (f : Channel → Channel) : (s.modChannel k f).csm = s.csm := rfl
@[simp] theorem modChannel_fir (s : State) (k : Fin 8) (f : Channel → Channel) : (s.modChannel k f).fir = s.fir := rfl
@[simp] theorem modChannel_plk (s : State) (k : Fin 8) (f : Channel → Channel) : (s.modChannel k f).plk = s.plk := rfl
@[simp] theorem modChannel_cam (s : State) (k : Fin 8) (f : Channel → Channel) : (s.modChannel k f).cam = s.cam := rfl
@[simp] theorem modChannel_lop (s : State) (k : Fin 8) (f : Channel → Channel) : (s.modChannel k f).lop = s.lop := rfl
@[simp] theorem modChannel_lck (s : State) (k : Fin 8) (f : Channel → Channel) : (s.modChannel k f).lck = s.lck := rfl
@[simp] theorem modChannel_tim (s : State) (k : Fin 8) (f : Channel → Channel) : (s.modChannel k f).tim = s.tim := rfl
@[simp] theorem modChannel_urg (s : State) (k : Fin 8) (f : Channel → Channel) : (s.modChannel k f).urg = s.urg := rfl
@[simp] theorem modChannel_twn (s : State) (k : Fin 8) (f : Channel → Channel) : (s.modChannel k f).twn = s.twn := rfl
@[simp] theorem modChannel_thm (s : State) (k : Fin 8) (f : Channel → Channel) : (s.modChannel k f).thm = s.thm := rfl
@[simp] theorem modChannel_pmc (s : State) (k : Fin 8) (f : Channel → Channel) : (s.modChannel k f).pmc = s.pmc := rfl
@[simp] theorem modChannel_latch (s : State) (k : Fin 8) (f : Channel → Channel) : (s.modChannel k f).latch = s.latch := rfl
@[simp] theorem modChannel_dram (s : State) (k : Fin 8) (f : Channel → Channel) : (s.modChannel k f).dram = s.dram := rfl
@[simp] theorem modChannel_tables (s : State) (k : Fin 8) (f : Channel → Channel) : (s.modChannel k f).tables = s.tables := rfl
@[simp] theorem modChannel_now (s : State) (k : Fin 8) (f : Channel → Channel) : (s.modChannel k f).now = s.now := rfl
@[simp] theorem modChannel_draws (s : State) (k : Fin 8) (f : Channel → Channel) : (s.modChannel k f).draws = s.draws := rfl
@[simp] theorem modChannel_out (s : State) (k : Fin 8) (f : Channel → Channel) : (s.modChannel k f).out = s.out := rfl
@[simp] theorem modChannel_pending (s : State) (k : Fin 8) (f : Channel → Channel) : (s.modChannel k f).pending = s.pending := rfl

/-! modLink -/

@[simp] theorem modLink_plk (s : State) (n : Fin 32) (f : Link → Link) : (s.modLink n f).plk = { s.plk with link := modAt s.plk.link n f } := rfl
@[simp] theorem modLink_regs (s : State) (n : Fin 32) (f : Link → Link) : (s.modLink n f).regs = s.regs := rfl
@[simp] theorem modLink_rst (s : State) (n : Fin 32) (f : Link → Link) : (s.modLink n f).rst = s.rst := rfl
@[simp] theorem modLink_pins (s : State) (n : Fin 32) (f : Link → Link) : (s.modLink n f).pins = s.pins := rfl
@[simp] theorem modLink_clk (s : State) (n : Fin 32) (f : Link → Link) : (s.modLink n f).clk = s.clk := rfl
@[simp] theorem modLink_hif (s : State) (n : Fin 32) (f : Link → Link) : (s.modLink n f).hif = s.hif := rfl
@[simp] theorem modLink_mmu (s : State) (n : Fin 32) (f : Link → Link) : (s.modLink n f).mmu = s.mmu := rfl
@[simp] theorem modLink_cpy (s : State) (n : Fin 32) (f : Link → Link) : (s.modLink n f).cpy = s.cpy := rfl
@[simp] theorem modLink_dmc (s : State) (n : Fin 32) (f : Link → Link) : (s.modLink n f).dmc = s.dmc := rfl
@[simp] theorem modLink_qdc (s : State) (n : Fin 32) (f : Link → Link) : (s.modLink n f).qdc = s.qdc := rfl
@[simp] theorem modLink_scr (s : State) (n : Fin 32) (f : Link → Link) : (s.modLink n f).scr = s.scr := rfl
@[simp] theorem modLink_csm (s : State) (n : Fin 32) (f : Link → Link) : (s.modLink n f).csm = s.csm := rfl
@[simp] theorem modLink_pos (s : State) (n : Fin 32) (f : Link → Link) : (s.modLink n f).pos = s.pos := rfl
@[simp] theorem modLink_fir (s : State) (n : Fin 32) (f : Link → Link) : (s.modLink n f).fir = s.fir := rfl
@[simp] theorem modLink_cam (s : State) (n : Fin 32) (f : Link → Link) : (s.modLink n f).cam = s.cam := rfl
@[simp] theorem modLink_lop (s : State) (n : Fin 32) (f : Link → Link) : (s.modLink n f).lop = s.lop := rfl
@[simp] theorem modLink_lck (s : State) (n : Fin 32) (f : Link → Link) : (s.modLink n f).lck = s.lck := rfl
@[simp] theorem modLink_tim (s : State) (n : Fin 32) (f : Link → Link) : (s.modLink n f).tim = s.tim := rfl
@[simp] theorem modLink_urg (s : State) (n : Fin 32) (f : Link → Link) : (s.modLink n f).urg = s.urg := rfl
@[simp] theorem modLink_twn (s : State) (n : Fin 32) (f : Link → Link) : (s.modLink n f).twn = s.twn := rfl
@[simp] theorem modLink_thm (s : State) (n : Fin 32) (f : Link → Link) : (s.modLink n f).thm = s.thm := rfl
@[simp] theorem modLink_pmc (s : State) (n : Fin 32) (f : Link → Link) : (s.modLink n f).pmc = s.pmc := rfl
@[simp] theorem modLink_latch (s : State) (n : Fin 32) (f : Link → Link) : (s.modLink n f).latch = s.latch := rfl
@[simp] theorem modLink_dram (s : State) (n : Fin 32) (f : Link → Link) : (s.modLink n f).dram = s.dram := rfl
@[simp] theorem modLink_tables (s : State) (n : Fin 32) (f : Link → Link) : (s.modLink n f).tables = s.tables := rfl
@[simp] theorem modLink_now (s : State) (n : Fin 32) (f : Link → Link) : (s.modLink n f).now = s.now := rfl
@[simp] theorem modLink_draws (s : State) (n : Fin 32) (f : Link → Link) : (s.modLink n f).draws = s.draws := rfl
@[simp] theorem modLink_out (s : State) (n : Fin 32) (f : Link → Link) : (s.modLink n f).out = s.out := rfl
@[simp] theorem modLink_pending (s : State) (n : Fin 32) (f : Link → Link) : (s.modLink n f).pending = s.pending := rfl

/-! modGutter -/

@[simp] theorem modGutter_csm (s : State) (n : Fin 32) (f : LinkGutter → LinkGutter) : (s.modGutter n f).csm = { s.csm with link := modAt s.csm.link n f } := rfl
@[simp] theorem modGutter_regs (s : State) (n : Fin 32) (f : LinkGutter → LinkGutter) : (s.modGutter n f).regs = s.regs := rfl
@[simp] theorem modGutter_rst (s : State) (n : Fin 32) (f : LinkGutter → LinkGutter) : (s.modGutter n f).rst = s.rst := rfl
@[simp] theorem modGutter_pins (s : State) (n : Fin 32) (f : LinkGutter → LinkGutter) : (s.modGutter n f).pins = s.pins := rfl
@[simp] theorem modGutter_clk (s : State) (n : Fin 32) (f : LinkGutter → LinkGutter) : (s.modGutter n f).clk = s.clk := rfl
@[simp] theorem modGutter_hif (s : State) (n : Fin 32) (f : LinkGutter → LinkGutter) : (s.modGutter n f).hif = s.hif := rfl
@[simp] theorem modGutter_mmu (s : State) (n : Fin 32) (f : LinkGutter → LinkGutter) : (s.modGutter n f).mmu = s.mmu := rfl
@[simp] theorem modGutter_cpy (s : State) (n : Fin 32) (f : LinkGutter → LinkGutter) : (s.modGutter n f).cpy = s.cpy := rfl
@[simp] theorem modGutter_dmc (s : State) (n : Fin 32) (f : LinkGutter → LinkGutter) : (s.modGutter n f).dmc = s.dmc := rfl
@[simp] theorem modGutter_qdc (s : State) (n : Fin 32) (f : LinkGutter → LinkGutter) : (s.modGutter n f).qdc = s.qdc := rfl
@[simp] theorem modGutter_scr (s : State) (n : Fin 32) (f : LinkGutter → LinkGutter) : (s.modGutter n f).scr = s.scr := rfl
@[simp] theorem modGutter_pos (s : State) (n : Fin 32) (f : LinkGutter → LinkGutter) : (s.modGutter n f).pos = s.pos := rfl
@[simp] theorem modGutter_fir (s : State) (n : Fin 32) (f : LinkGutter → LinkGutter) : (s.modGutter n f).fir = s.fir := rfl
@[simp] theorem modGutter_plk (s : State) (n : Fin 32) (f : LinkGutter → LinkGutter) : (s.modGutter n f).plk = s.plk := rfl
@[simp] theorem modGutter_cam (s : State) (n : Fin 32) (f : LinkGutter → LinkGutter) : (s.modGutter n f).cam = s.cam := rfl
@[simp] theorem modGutter_lop (s : State) (n : Fin 32) (f : LinkGutter → LinkGutter) : (s.modGutter n f).lop = s.lop := rfl
@[simp] theorem modGutter_lck (s : State) (n : Fin 32) (f : LinkGutter → LinkGutter) : (s.modGutter n f).lck = s.lck := rfl
@[simp] theorem modGutter_tim (s : State) (n : Fin 32) (f : LinkGutter → LinkGutter) : (s.modGutter n f).tim = s.tim := rfl
@[simp] theorem modGutter_urg (s : State) (n : Fin 32) (f : LinkGutter → LinkGutter) : (s.modGutter n f).urg = s.urg := rfl
@[simp] theorem modGutter_twn (s : State) (n : Fin 32) (f : LinkGutter → LinkGutter) : (s.modGutter n f).twn = s.twn := rfl
@[simp] theorem modGutter_thm (s : State) (n : Fin 32) (f : LinkGutter → LinkGutter) : (s.modGutter n f).thm = s.thm := rfl
@[simp] theorem modGutter_pmc (s : State) (n : Fin 32) (f : LinkGutter → LinkGutter) : (s.modGutter n f).pmc = s.pmc := rfl
@[simp] theorem modGutter_latch (s : State) (n : Fin 32) (f : LinkGutter → LinkGutter) : (s.modGutter n f).latch = s.latch := rfl
@[simp] theorem modGutter_dram (s : State) (n : Fin 32) (f : LinkGutter → LinkGutter) : (s.modGutter n f).dram = s.dram := rfl
@[simp] theorem modGutter_tables (s : State) (n : Fin 32) (f : LinkGutter → LinkGutter) : (s.modGutter n f).tables = s.tables := rfl
@[simp] theorem modGutter_now (s : State) (n : Fin 32) (f : LinkGutter → LinkGutter) : (s.modGutter n f).now = s.now := rfl
@[simp] theorem modGutter_draws (s : State) (n : Fin 32) (f : LinkGutter → LinkGutter) : (s.modGutter n f).draws = s.draws := rfl
@[simp] theorem modGutter_out (s : State) (n : Fin 32) (f : LinkGutter → LinkGutter) : (s.modGutter n f).out = s.out := rfl
@[simp] theorem modGutter_pending (s : State) (n : Fin 32) (f : LinkGutter → LinkGutter) : (s.modGutter n f).pending = s.pending := rfl

/-! modChamber -/

@[simp] theorem modChamber_lck (s : State) (k : Fin 4) (f : Chamber → Chamber) : (s.modChamber k f).lck = { s.lck with ch := modAt s.lck.ch k f } := rfl
@[simp] theorem modChamber_regs (s : State) (k : Fin 4) (f : Chamber → Chamber) : (s.modChamber k f).regs = s.regs := rfl
@[simp] theorem modChamber_rst (s : State) (k : Fin 4) (f : Chamber → Chamber) : (s.modChamber k f).rst = s.rst := rfl
@[simp] theorem modChamber_pins (s : State) (k : Fin 4) (f : Chamber → Chamber) : (s.modChamber k f).pins = s.pins := rfl
@[simp] theorem modChamber_clk (s : State) (k : Fin 4) (f : Chamber → Chamber) : (s.modChamber k f).clk = s.clk := rfl
@[simp] theorem modChamber_hif (s : State) (k : Fin 4) (f : Chamber → Chamber) : (s.modChamber k f).hif = s.hif := rfl
@[simp] theorem modChamber_mmu (s : State) (k : Fin 4) (f : Chamber → Chamber) : (s.modChamber k f).mmu = s.mmu := rfl
@[simp] theorem modChamber_cpy (s : State) (k : Fin 4) (f : Chamber → Chamber) : (s.modChamber k f).cpy = s.cpy := rfl
@[simp] theorem modChamber_dmc (s : State) (k : Fin 4) (f : Chamber → Chamber) : (s.modChamber k f).dmc = s.dmc := rfl
@[simp] theorem modChamber_qdc (s : State) (k : Fin 4) (f : Chamber → Chamber) : (s.modChamber k f).qdc = s.qdc := rfl
@[simp] theorem modChamber_scr (s : State) (k : Fin 4) (f : Chamber → Chamber) : (s.modChamber k f).scr = s.scr := rfl
@[simp] theorem modChamber_csm (s : State) (k : Fin 4) (f : Chamber → Chamber) : (s.modChamber k f).csm = s.csm := rfl
@[simp] theorem modChamber_pos (s : State) (k : Fin 4) (f : Chamber → Chamber) : (s.modChamber k f).pos = s.pos := rfl
@[simp] theorem modChamber_fir (s : State) (k : Fin 4) (f : Chamber → Chamber) : (s.modChamber k f).fir = s.fir := rfl
@[simp] theorem modChamber_plk (s : State) (k : Fin 4) (f : Chamber → Chamber) : (s.modChamber k f).plk = s.plk := rfl
@[simp] theorem modChamber_cam (s : State) (k : Fin 4) (f : Chamber → Chamber) : (s.modChamber k f).cam = s.cam := rfl
@[simp] theorem modChamber_lop (s : State) (k : Fin 4) (f : Chamber → Chamber) : (s.modChamber k f).lop = s.lop := rfl
@[simp] theorem modChamber_tim (s : State) (k : Fin 4) (f : Chamber → Chamber) : (s.modChamber k f).tim = s.tim := rfl
@[simp] theorem modChamber_urg (s : State) (k : Fin 4) (f : Chamber → Chamber) : (s.modChamber k f).urg = s.urg := rfl
@[simp] theorem modChamber_twn (s : State) (k : Fin 4) (f : Chamber → Chamber) : (s.modChamber k f).twn = s.twn := rfl
@[simp] theorem modChamber_thm (s : State) (k : Fin 4) (f : Chamber → Chamber) : (s.modChamber k f).thm = s.thm := rfl
@[simp] theorem modChamber_pmc (s : State) (k : Fin 4) (f : Chamber → Chamber) : (s.modChamber k f).pmc = s.pmc := rfl
@[simp] theorem modChamber_latch (s : State) (k : Fin 4) (f : Chamber → Chamber) : (s.modChamber k f).latch = s.latch := rfl
@[simp] theorem modChamber_dram (s : State) (k : Fin 4) (f : Chamber → Chamber) : (s.modChamber k f).dram = s.dram := rfl
@[simp] theorem modChamber_tables (s : State) (k : Fin 4) (f : Chamber → Chamber) : (s.modChamber k f).tables = s.tables := rfl
@[simp] theorem modChamber_now (s : State) (k : Fin 4) (f : Chamber → Chamber) : (s.modChamber k f).now = s.now := rfl
@[simp] theorem modChamber_draws (s : State) (k : Fin 4) (f : Chamber → Chamber) : (s.modChamber k f).draws = s.draws := rfl
@[simp] theorem modChamber_out (s : State) (k : Fin 4) (f : Chamber → Chamber) : (s.modChamber k f).out = s.out := rfl
@[simp] theorem modChamber_pending (s : State) (k : Fin 4) (f : Chamber → Chamber) : (s.modChamber k f).pending = s.pending := rfl

/-! modSub -/

@[simp] theorem modSub_dmc (s : State) (k : Fin 4) (f : Subchannel → Subchannel) : (s.modSub k f).dmc = { s.dmc with sub := modAt s.dmc.sub k f } := rfl
@[simp] theorem modSub_regs (s : State) (k : Fin 4) (f : Subchannel → Subchannel) : (s.modSub k f).regs = s.regs := rfl
@[simp] theorem modSub_rst (s : State) (k : Fin 4) (f : Subchannel → Subchannel) : (s.modSub k f).rst = s.rst := rfl
@[simp] theorem modSub_pins (s : State) (k : Fin 4) (f : Subchannel → Subchannel) : (s.modSub k f).pins = s.pins := rfl
@[simp] theorem modSub_clk (s : State) (k : Fin 4) (f : Subchannel → Subchannel) : (s.modSub k f).clk = s.clk := rfl
@[simp] theorem modSub_hif (s : State) (k : Fin 4) (f : Subchannel → Subchannel) : (s.modSub k f).hif = s.hif := rfl
@[simp] theorem modSub_mmu (s : State) (k : Fin 4) (f : Subchannel → Subchannel) : (s.modSub k f).mmu = s.mmu := rfl
@[simp] theorem modSub_cpy (s : State) (k : Fin 4) (f : Subchannel → Subchannel) : (s.modSub k f).cpy = s.cpy := rfl
@[simp] theorem modSub_qdc (s : State) (k : Fin 4) (f : Subchannel → Subchannel) : (s.modSub k f).qdc = s.qdc := rfl
@[simp] theorem modSub_scr (s : State) (k : Fin 4) (f : Subchannel → Subchannel) : (s.modSub k f).scr = s.scr := rfl
@[simp] theorem modSub_csm (s : State) (k : Fin 4) (f : Subchannel → Subchannel) : (s.modSub k f).csm = s.csm := rfl
@[simp] theorem modSub_pos (s : State) (k : Fin 4) (f : Subchannel → Subchannel) : (s.modSub k f).pos = s.pos := rfl
@[simp] theorem modSub_fir (s : State) (k : Fin 4) (f : Subchannel → Subchannel) : (s.modSub k f).fir = s.fir := rfl
@[simp] theorem modSub_plk (s : State) (k : Fin 4) (f : Subchannel → Subchannel) : (s.modSub k f).plk = s.plk := rfl
@[simp] theorem modSub_cam (s : State) (k : Fin 4) (f : Subchannel → Subchannel) : (s.modSub k f).cam = s.cam := rfl
@[simp] theorem modSub_lop (s : State) (k : Fin 4) (f : Subchannel → Subchannel) : (s.modSub k f).lop = s.lop := rfl
@[simp] theorem modSub_lck (s : State) (k : Fin 4) (f : Subchannel → Subchannel) : (s.modSub k f).lck = s.lck := rfl
@[simp] theorem modSub_tim (s : State) (k : Fin 4) (f : Subchannel → Subchannel) : (s.modSub k f).tim = s.tim := rfl
@[simp] theorem modSub_urg (s : State) (k : Fin 4) (f : Subchannel → Subchannel) : (s.modSub k f).urg = s.urg := rfl
@[simp] theorem modSub_twn (s : State) (k : Fin 4) (f : Subchannel → Subchannel) : (s.modSub k f).twn = s.twn := rfl
@[simp] theorem modSub_thm (s : State) (k : Fin 4) (f : Subchannel → Subchannel) : (s.modSub k f).thm = s.thm := rfl
@[simp] theorem modSub_pmc (s : State) (k : Fin 4) (f : Subchannel → Subchannel) : (s.modSub k f).pmc = s.pmc := rfl
@[simp] theorem modSub_latch (s : State) (k : Fin 4) (f : Subchannel → Subchannel) : (s.modSub k f).latch = s.latch := rfl
@[simp] theorem modSub_dram (s : State) (k : Fin 4) (f : Subchannel → Subchannel) : (s.modSub k f).dram = s.dram := rfl
@[simp] theorem modSub_tables (s : State) (k : Fin 4) (f : Subchannel → Subchannel) : (s.modSub k f).tables = s.tables := rfl
@[simp] theorem modSub_now (s : State) (k : Fin 4) (f : Subchannel → Subchannel) : (s.modSub k f).now = s.now := rfl
@[simp] theorem modSub_draws (s : State) (k : Fin 4) (f : Subchannel → Subchannel) : (s.modSub k f).draws = s.draws := rfl
@[simp] theorem modSub_out (s : State) (k : Fin 4) (f : Subchannel → Subchannel) : (s.modSub k f).out = s.out := rfl
@[simp] theorem modSub_pending (s : State) (k : Fin 4) (f : Subchannel → Subchannel) : (s.modSub k f).pending = s.pending := rfl

/-! modFlight -/

@[simp] theorem modFlight_hif (s : State) (id : Nat) (g : Flight → Flight) : (s.modFlight id g).hif = { s.hif with flights := s.hif.flights.map fun f => if f.id = id then g f else f } := rfl
@[simp] theorem modFlight_regs (s : State) (id : Nat) (g : Flight → Flight) : (s.modFlight id g).regs = s.regs := rfl
@[simp] theorem modFlight_rst (s : State) (id : Nat) (g : Flight → Flight) : (s.modFlight id g).rst = s.rst := rfl
@[simp] theorem modFlight_pins (s : State) (id : Nat) (g : Flight → Flight) : (s.modFlight id g).pins = s.pins := rfl
@[simp] theorem modFlight_clk (s : State) (id : Nat) (g : Flight → Flight) : (s.modFlight id g).clk = s.clk := rfl
@[simp] theorem modFlight_mmu (s : State) (id : Nat) (g : Flight → Flight) : (s.modFlight id g).mmu = s.mmu := rfl
@[simp] theorem modFlight_cpy (s : State) (id : Nat) (g : Flight → Flight) : (s.modFlight id g).cpy = s.cpy := rfl
@[simp] theorem modFlight_dmc (s : State) (id : Nat) (g : Flight → Flight) : (s.modFlight id g).dmc = s.dmc := rfl
@[simp] theorem modFlight_qdc (s : State) (id : Nat) (g : Flight → Flight) : (s.modFlight id g).qdc = s.qdc := rfl
@[simp] theorem modFlight_scr (s : State) (id : Nat) (g : Flight → Flight) : (s.modFlight id g).scr = s.scr := rfl
@[simp] theorem modFlight_csm (s : State) (id : Nat) (g : Flight → Flight) : (s.modFlight id g).csm = s.csm := rfl
@[simp] theorem modFlight_pos (s : State) (id : Nat) (g : Flight → Flight) : (s.modFlight id g).pos = s.pos := rfl
@[simp] theorem modFlight_fir (s : State) (id : Nat) (g : Flight → Flight) : (s.modFlight id g).fir = s.fir := rfl
@[simp] theorem modFlight_plk (s : State) (id : Nat) (g : Flight → Flight) : (s.modFlight id g).plk = s.plk := rfl
@[simp] theorem modFlight_cam (s : State) (id : Nat) (g : Flight → Flight) : (s.modFlight id g).cam = s.cam := rfl
@[simp] theorem modFlight_lop (s : State) (id : Nat) (g : Flight → Flight) : (s.modFlight id g).lop = s.lop := rfl
@[simp] theorem modFlight_lck (s : State) (id : Nat) (g : Flight → Flight) : (s.modFlight id g).lck = s.lck := rfl
@[simp] theorem modFlight_tim (s : State) (id : Nat) (g : Flight → Flight) : (s.modFlight id g).tim = s.tim := rfl
@[simp] theorem modFlight_urg (s : State) (id : Nat) (g : Flight → Flight) : (s.modFlight id g).urg = s.urg := rfl
@[simp] theorem modFlight_twn (s : State) (id : Nat) (g : Flight → Flight) : (s.modFlight id g).twn = s.twn := rfl
@[simp] theorem modFlight_thm (s : State) (id : Nat) (g : Flight → Flight) : (s.modFlight id g).thm = s.thm := rfl
@[simp] theorem modFlight_pmc (s : State) (id : Nat) (g : Flight → Flight) : (s.modFlight id g).pmc = s.pmc := rfl
@[simp] theorem modFlight_latch (s : State) (id : Nat) (g : Flight → Flight) : (s.modFlight id g).latch = s.latch := rfl
@[simp] theorem modFlight_dram (s : State) (id : Nat) (g : Flight → Flight) : (s.modFlight id g).dram = s.dram := rfl
@[simp] theorem modFlight_tables (s : State) (id : Nat) (g : Flight → Flight) : (s.modFlight id g).tables = s.tables := rfl
@[simp] theorem modFlight_now (s : State) (id : Nat) (g : Flight → Flight) : (s.modFlight id g).now = s.now := rfl
@[simp] theorem modFlight_draws (s : State) (id : Nat) (g : Flight → Flight) : (s.modFlight id g).draws = s.draws := rfl
@[simp] theorem modFlight_out (s : State) (id : Nat) (g : Flight → Flight) : (s.modFlight id g).out = s.out := rfl
@[simp] theorem modFlight_pending (s : State) (id : Nat) (g : Flight → Flight) : (s.modFlight id g).pending = s.pending := rfl

/-! modXfer -/

@[simp] theorem modXfer_hif (s : State) (id : Nat) (g : Xfer → Xfer) : (s.modXfer id g).hif = { s.hif with xfers := s.hif.xfers.map fun x => if x.id = id then g x else x } := rfl
@[simp] theorem modXfer_regs (s : State) (id : Nat) (g : Xfer → Xfer) : (s.modXfer id g).regs = s.regs := rfl
@[simp] theorem modXfer_rst (s : State) (id : Nat) (g : Xfer → Xfer) : (s.modXfer id g).rst = s.rst := rfl
@[simp] theorem modXfer_pins (s : State) (id : Nat) (g : Xfer → Xfer) : (s.modXfer id g).pins = s.pins := rfl
@[simp] theorem modXfer_clk (s : State) (id : Nat) (g : Xfer → Xfer) : (s.modXfer id g).clk = s.clk := rfl
@[simp] theorem modXfer_mmu (s : State) (id : Nat) (g : Xfer → Xfer) : (s.modXfer id g).mmu = s.mmu := rfl
@[simp] theorem modXfer_cpy (s : State) (id : Nat) (g : Xfer → Xfer) : (s.modXfer id g).cpy = s.cpy := rfl
@[simp] theorem modXfer_dmc (s : State) (id : Nat) (g : Xfer → Xfer) : (s.modXfer id g).dmc = s.dmc := rfl
@[simp] theorem modXfer_qdc (s : State) (id : Nat) (g : Xfer → Xfer) : (s.modXfer id g).qdc = s.qdc := rfl
@[simp] theorem modXfer_scr (s : State) (id : Nat) (g : Xfer → Xfer) : (s.modXfer id g).scr = s.scr := rfl
@[simp] theorem modXfer_csm (s : State) (id : Nat) (g : Xfer → Xfer) : (s.modXfer id g).csm = s.csm := rfl
@[simp] theorem modXfer_pos (s : State) (id : Nat) (g : Xfer → Xfer) : (s.modXfer id g).pos = s.pos := rfl
@[simp] theorem modXfer_fir (s : State) (id : Nat) (g : Xfer → Xfer) : (s.modXfer id g).fir = s.fir := rfl
@[simp] theorem modXfer_plk (s : State) (id : Nat) (g : Xfer → Xfer) : (s.modXfer id g).plk = s.plk := rfl
@[simp] theorem modXfer_cam (s : State) (id : Nat) (g : Xfer → Xfer) : (s.modXfer id g).cam = s.cam := rfl
@[simp] theorem modXfer_lop (s : State) (id : Nat) (g : Xfer → Xfer) : (s.modXfer id g).lop = s.lop := rfl
@[simp] theorem modXfer_lck (s : State) (id : Nat) (g : Xfer → Xfer) : (s.modXfer id g).lck = s.lck := rfl
@[simp] theorem modXfer_tim (s : State) (id : Nat) (g : Xfer → Xfer) : (s.modXfer id g).tim = s.tim := rfl
@[simp] theorem modXfer_urg (s : State) (id : Nat) (g : Xfer → Xfer) : (s.modXfer id g).urg = s.urg := rfl
@[simp] theorem modXfer_twn (s : State) (id : Nat) (g : Xfer → Xfer) : (s.modXfer id g).twn = s.twn := rfl
@[simp] theorem modXfer_thm (s : State) (id : Nat) (g : Xfer → Xfer) : (s.modXfer id g).thm = s.thm := rfl
@[simp] theorem modXfer_pmc (s : State) (id : Nat) (g : Xfer → Xfer) : (s.modXfer id g).pmc = s.pmc := rfl
@[simp] theorem modXfer_latch (s : State) (id : Nat) (g : Xfer → Xfer) : (s.modXfer id g).latch = s.latch := rfl
@[simp] theorem modXfer_dram (s : State) (id : Nat) (g : Xfer → Xfer) : (s.modXfer id g).dram = s.dram := rfl
@[simp] theorem modXfer_tables (s : State) (id : Nat) (g : Xfer → Xfer) : (s.modXfer id g).tables = s.tables := rfl
@[simp] theorem modXfer_now (s : State) (id : Nat) (g : Xfer → Xfer) : (s.modXfer id g).now = s.now := rfl
@[simp] theorem modXfer_draws (s : State) (id : Nat) (g : Xfer → Xfer) : (s.modXfer id g).draws = s.draws := rfl
@[simp] theorem modXfer_out (s : State) (id : Nat) (g : Xfer → Xfer) : (s.modXfer id g).out = s.out := rfl
@[simp] theorem modXfer_pending (s : State) (id : Nat) (g : Xfer → Xfer) : (s.modXfer id g).pending = s.pending := rfl

/-! modQuire -/

@[simp] theorem modQuire_qdc (s : State) (id : Nat) (f : Quire → Quire) : (s.modQuire id f).qdc = { s.qdc with quires := s.qdc.quires.map fun q => if q.id = id then f q else q } := rfl
@[simp] theorem modQuire_regs (s : State) (id : Nat) (f : Quire → Quire) : (s.modQuire id f).regs = s.regs := rfl
@[simp] theorem modQuire_rst (s : State) (id : Nat) (f : Quire → Quire) : (s.modQuire id f).rst = s.rst := rfl
@[simp] theorem modQuire_pins (s : State) (id : Nat) (f : Quire → Quire) : (s.modQuire id f).pins = s.pins := rfl
@[simp] theorem modQuire_clk (s : State) (id : Nat) (f : Quire → Quire) : (s.modQuire id f).clk = s.clk := rfl
@[simp] theorem modQuire_hif (s : State) (id : Nat) (f : Quire → Quire) : (s.modQuire id f).hif = s.hif := rfl
@[simp] theorem modQuire_mmu (s : State) (id : Nat) (f : Quire → Quire) : (s.modQuire id f).mmu = s.mmu := rfl
@[simp] theorem modQuire_cpy (s : State) (id : Nat) (f : Quire → Quire) : (s.modQuire id f).cpy = s.cpy := rfl
@[simp] theorem modQuire_dmc (s : State) (id : Nat) (f : Quire → Quire) : (s.modQuire id f).dmc = s.dmc := rfl
@[simp] theorem modQuire_scr (s : State) (id : Nat) (f : Quire → Quire) : (s.modQuire id f).scr = s.scr := rfl
@[simp] theorem modQuire_csm (s : State) (id : Nat) (f : Quire → Quire) : (s.modQuire id f).csm = s.csm := rfl
@[simp] theorem modQuire_pos (s : State) (id : Nat) (f : Quire → Quire) : (s.modQuire id f).pos = s.pos := rfl
@[simp] theorem modQuire_fir (s : State) (id : Nat) (f : Quire → Quire) : (s.modQuire id f).fir = s.fir := rfl
@[simp] theorem modQuire_plk (s : State) (id : Nat) (f : Quire → Quire) : (s.modQuire id f).plk = s.plk := rfl
@[simp] theorem modQuire_cam (s : State) (id : Nat) (f : Quire → Quire) : (s.modQuire id f).cam = s.cam := rfl
@[simp] theorem modQuire_lop (s : State) (id : Nat) (f : Quire → Quire) : (s.modQuire id f).lop = s.lop := rfl
@[simp] theorem modQuire_lck (s : State) (id : Nat) (f : Quire → Quire) : (s.modQuire id f).lck = s.lck := rfl
@[simp] theorem modQuire_tim (s : State) (id : Nat) (f : Quire → Quire) : (s.modQuire id f).tim = s.tim := rfl
@[simp] theorem modQuire_urg (s : State) (id : Nat) (f : Quire → Quire) : (s.modQuire id f).urg = s.urg := rfl
@[simp] theorem modQuire_twn (s : State) (id : Nat) (f : Quire → Quire) : (s.modQuire id f).twn = s.twn := rfl
@[simp] theorem modQuire_thm (s : State) (id : Nat) (f : Quire → Quire) : (s.modQuire id f).thm = s.thm := rfl
@[simp] theorem modQuire_pmc (s : State) (id : Nat) (f : Quire → Quire) : (s.modQuire id f).pmc = s.pmc := rfl
@[simp] theorem modQuire_latch (s : State) (id : Nat) (f : Quire → Quire) : (s.modQuire id f).latch = s.latch := rfl
@[simp] theorem modQuire_dram (s : State) (id : Nat) (f : Quire → Quire) : (s.modQuire id f).dram = s.dram := rfl
@[simp] theorem modQuire_tables (s : State) (id : Nat) (f : Quire → Quire) : (s.modQuire id f).tables = s.tables := rfl
@[simp] theorem modQuire_now (s : State) (id : Nat) (f : Quire → Quire) : (s.modQuire id f).now = s.now := rfl
@[simp] theorem modQuire_draws (s : State) (id : Nat) (f : Quire → Quire) : (s.modQuire id f).draws = s.draws := rfl
@[simp] theorem modQuire_out (s : State) (id : Nat) (f : Quire → Quire) : (s.modQuire id f).out = s.out := rfl
@[simp] theorem modQuire_pending (s : State) (id : Nat) (f : Quire → Quire) : (s.modQuire id f).pending = s.pending := rfl

/-! modCtx -/

@[simp] theorem modCtx_cam (s : State) (c : Fin 16) (f : CamCtx → CamCtx) : (s.modCtx c f).cam = { s.cam with ctx := modAt s.cam.ctx c f } := rfl
@[simp] theorem modCtx_regs (s : State) (c : Fin 16) (f : CamCtx → CamCtx) : (s.modCtx c f).regs = s.regs := rfl
@[simp] theorem modCtx_rst (s : State) (c : Fin 16) (f : CamCtx → CamCtx) : (s.modCtx c f).rst = s.rst := rfl
@[simp] theorem modCtx_pins (s : State) (c : Fin 16) (f : CamCtx → CamCtx) : (s.modCtx c f).pins = s.pins := rfl
@[simp] theorem modCtx_clk (s : State) (c : Fin 16) (f : CamCtx → CamCtx) : (s.modCtx c f).clk = s.clk := rfl
@[simp] theorem modCtx_hif (s : State) (c : Fin 16) (f : CamCtx → CamCtx) : (s.modCtx c f).hif = s.hif := rfl
@[simp] theorem modCtx_mmu (s : State) (c : Fin 16) (f : CamCtx → CamCtx) : (s.modCtx c f).mmu = s.mmu := rfl
@[simp] theorem modCtx_cpy (s : State) (c : Fin 16) (f : CamCtx → CamCtx) : (s.modCtx c f).cpy = s.cpy := rfl
@[simp] theorem modCtx_dmc (s : State) (c : Fin 16) (f : CamCtx → CamCtx) : (s.modCtx c f).dmc = s.dmc := rfl
@[simp] theorem modCtx_qdc (s : State) (c : Fin 16) (f : CamCtx → CamCtx) : (s.modCtx c f).qdc = s.qdc := rfl
@[simp] theorem modCtx_scr (s : State) (c : Fin 16) (f : CamCtx → CamCtx) : (s.modCtx c f).scr = s.scr := rfl
@[simp] theorem modCtx_csm (s : State) (c : Fin 16) (f : CamCtx → CamCtx) : (s.modCtx c f).csm = s.csm := rfl
@[simp] theorem modCtx_pos (s : State) (c : Fin 16) (f : CamCtx → CamCtx) : (s.modCtx c f).pos = s.pos := rfl
@[simp] theorem modCtx_fir (s : State) (c : Fin 16) (f : CamCtx → CamCtx) : (s.modCtx c f).fir = s.fir := rfl
@[simp] theorem modCtx_plk (s : State) (c : Fin 16) (f : CamCtx → CamCtx) : (s.modCtx c f).plk = s.plk := rfl
@[simp] theorem modCtx_lop (s : State) (c : Fin 16) (f : CamCtx → CamCtx) : (s.modCtx c f).lop = s.lop := rfl
@[simp] theorem modCtx_lck (s : State) (c : Fin 16) (f : CamCtx → CamCtx) : (s.modCtx c f).lck = s.lck := rfl
@[simp] theorem modCtx_tim (s : State) (c : Fin 16) (f : CamCtx → CamCtx) : (s.modCtx c f).tim = s.tim := rfl
@[simp] theorem modCtx_urg (s : State) (c : Fin 16) (f : CamCtx → CamCtx) : (s.modCtx c f).urg = s.urg := rfl
@[simp] theorem modCtx_twn (s : State) (c : Fin 16) (f : CamCtx → CamCtx) : (s.modCtx c f).twn = s.twn := rfl
@[simp] theorem modCtx_thm (s : State) (c : Fin 16) (f : CamCtx → CamCtx) : (s.modCtx c f).thm = s.thm := rfl
@[simp] theorem modCtx_pmc (s : State) (c : Fin 16) (f : CamCtx → CamCtx) : (s.modCtx c f).pmc = s.pmc := rfl
@[simp] theorem modCtx_latch (s : State) (c : Fin 16) (f : CamCtx → CamCtx) : (s.modCtx c f).latch = s.latch := rfl
@[simp] theorem modCtx_dram (s : State) (c : Fin 16) (f : CamCtx → CamCtx) : (s.modCtx c f).dram = s.dram := rfl
@[simp] theorem modCtx_tables (s : State) (c : Fin 16) (f : CamCtx → CamCtx) : (s.modCtx c f).tables = s.tables := rfl
@[simp] theorem modCtx_now (s : State) (c : Fin 16) (f : CamCtx → CamCtx) : (s.modCtx c f).now = s.now := rfl
@[simp] theorem modCtx_draws (s : State) (c : Fin 16) (f : CamCtx → CamCtx) : (s.modCtx c f).draws = s.draws := rfl
@[simp] theorem modCtx_out (s : State) (c : Fin 16) (f : CamCtx → CamCtx) : (s.modCtx c f).out = s.out := rfl
@[simp] theorem modCtx_pending (s : State) (c : Fin 16) (f : CamCtx → CamCtx) : (s.modCtx c f).pending = s.pending := rfl

/-! modTwin -/

@[simp] theorem modTwin_twn (s : State) (p : Fin 8) (f : TwinPlane → TwinPlane) : (s.modTwin p f).twn = { s.twn with plane := modAt s.twn.plane p f } := rfl
@[simp] theorem modTwin_regs (s : State) (p : Fin 8) (f : TwinPlane → TwinPlane) : (s.modTwin p f).regs = s.regs := rfl
@[simp] theorem modTwin_rst (s : State) (p : Fin 8) (f : TwinPlane → TwinPlane) : (s.modTwin p f).rst = s.rst := rfl
@[simp] theorem modTwin_pins (s : State) (p : Fin 8) (f : TwinPlane → TwinPlane) : (s.modTwin p f).pins = s.pins := rfl
@[simp] theorem modTwin_clk (s : State) (p : Fin 8) (f : TwinPlane → TwinPlane) : (s.modTwin p f).clk = s.clk := rfl
@[simp] theorem modTwin_hif (s : State) (p : Fin 8) (f : TwinPlane → TwinPlane) : (s.modTwin p f).hif = s.hif := rfl
@[simp] theorem modTwin_mmu (s : State) (p : Fin 8) (f : TwinPlane → TwinPlane) : (s.modTwin p f).mmu = s.mmu := rfl
@[simp] theorem modTwin_cpy (s : State) (p : Fin 8) (f : TwinPlane → TwinPlane) : (s.modTwin p f).cpy = s.cpy := rfl
@[simp] theorem modTwin_dmc (s : State) (p : Fin 8) (f : TwinPlane → TwinPlane) : (s.modTwin p f).dmc = s.dmc := rfl
@[simp] theorem modTwin_qdc (s : State) (p : Fin 8) (f : TwinPlane → TwinPlane) : (s.modTwin p f).qdc = s.qdc := rfl
@[simp] theorem modTwin_scr (s : State) (p : Fin 8) (f : TwinPlane → TwinPlane) : (s.modTwin p f).scr = s.scr := rfl
@[simp] theorem modTwin_csm (s : State) (p : Fin 8) (f : TwinPlane → TwinPlane) : (s.modTwin p f).csm = s.csm := rfl
@[simp] theorem modTwin_pos (s : State) (p : Fin 8) (f : TwinPlane → TwinPlane) : (s.modTwin p f).pos = s.pos := rfl
@[simp] theorem modTwin_fir (s : State) (p : Fin 8) (f : TwinPlane → TwinPlane) : (s.modTwin p f).fir = s.fir := rfl
@[simp] theorem modTwin_plk (s : State) (p : Fin 8) (f : TwinPlane → TwinPlane) : (s.modTwin p f).plk = s.plk := rfl
@[simp] theorem modTwin_cam (s : State) (p : Fin 8) (f : TwinPlane → TwinPlane) : (s.modTwin p f).cam = s.cam := rfl
@[simp] theorem modTwin_lop (s : State) (p : Fin 8) (f : TwinPlane → TwinPlane) : (s.modTwin p f).lop = s.lop := rfl
@[simp] theorem modTwin_lck (s : State) (p : Fin 8) (f : TwinPlane → TwinPlane) : (s.modTwin p f).lck = s.lck := rfl
@[simp] theorem modTwin_tim (s : State) (p : Fin 8) (f : TwinPlane → TwinPlane) : (s.modTwin p f).tim = s.tim := rfl
@[simp] theorem modTwin_urg (s : State) (p : Fin 8) (f : TwinPlane → TwinPlane) : (s.modTwin p f).urg = s.urg := rfl
@[simp] theorem modTwin_thm (s : State) (p : Fin 8) (f : TwinPlane → TwinPlane) : (s.modTwin p f).thm = s.thm := rfl
@[simp] theorem modTwin_pmc (s : State) (p : Fin 8) (f : TwinPlane → TwinPlane) : (s.modTwin p f).pmc = s.pmc := rfl
@[simp] theorem modTwin_latch (s : State) (p : Fin 8) (f : TwinPlane → TwinPlane) : (s.modTwin p f).latch = s.latch := rfl
@[simp] theorem modTwin_dram (s : State) (p : Fin 8) (f : TwinPlane → TwinPlane) : (s.modTwin p f).dram = s.dram := rfl
@[simp] theorem modTwin_tables (s : State) (p : Fin 8) (f : TwinPlane → TwinPlane) : (s.modTwin p f).tables = s.tables := rfl
@[simp] theorem modTwin_now (s : State) (p : Fin 8) (f : TwinPlane → TwinPlane) : (s.modTwin p f).now = s.now := rfl
@[simp] theorem modTwin_draws (s : State) (p : Fin 8) (f : TwinPlane → TwinPlane) : (s.modTwin p f).draws = s.draws := rfl
@[simp] theorem modTwin_out (s : State) (p : Fin 8) (f : TwinPlane → TwinPlane) : (s.modTwin p f).out = s.out := rfl
@[simp] theorem modTwin_pending (s : State) (p : Fin 8) (f : TwinPlane → TwinPlane) : (s.modTwin p f).pending = s.pending := rfl

/-! modRing -/

@[simp] theorem modRing_urg (s : State) (p : Fin 2) (f : RingPort → RingPort) : (s.modRing p f).urg = { s.urg with port := modAt s.urg.port p f } := rfl
@[simp] theorem modRing_regs (s : State) (p : Fin 2) (f : RingPort → RingPort) : (s.modRing p f).regs = s.regs := rfl
@[simp] theorem modRing_rst (s : State) (p : Fin 2) (f : RingPort → RingPort) : (s.modRing p f).rst = s.rst := rfl
@[simp] theorem modRing_pins (s : State) (p : Fin 2) (f : RingPort → RingPort) : (s.modRing p f).pins = s.pins := rfl
@[simp] theorem modRing_clk (s : State) (p : Fin 2) (f : RingPort → RingPort) : (s.modRing p f).clk = s.clk := rfl
@[simp] theorem modRing_hif (s : State) (p : Fin 2) (f : RingPort → RingPort) : (s.modRing p f).hif = s.hif := rfl
@[simp] theorem modRing_mmu (s : State) (p : Fin 2) (f : RingPort → RingPort) : (s.modRing p f).mmu = s.mmu := rfl
@[simp] theorem modRing_cpy (s : State) (p : Fin 2) (f : RingPort → RingPort) : (s.modRing p f).cpy = s.cpy := rfl
@[simp] theorem modRing_dmc (s : State) (p : Fin 2) (f : RingPort → RingPort) : (s.modRing p f).dmc = s.dmc := rfl
@[simp] theorem modRing_qdc (s : State) (p : Fin 2) (f : RingPort → RingPort) : (s.modRing p f).qdc = s.qdc := rfl
@[simp] theorem modRing_scr (s : State) (p : Fin 2) (f : RingPort → RingPort) : (s.modRing p f).scr = s.scr := rfl
@[simp] theorem modRing_csm (s : State) (p : Fin 2) (f : RingPort → RingPort) : (s.modRing p f).csm = s.csm := rfl
@[simp] theorem modRing_pos (s : State) (p : Fin 2) (f : RingPort → RingPort) : (s.modRing p f).pos = s.pos := rfl
@[simp] theorem modRing_fir (s : State) (p : Fin 2) (f : RingPort → RingPort) : (s.modRing p f).fir = s.fir := rfl
@[simp] theorem modRing_plk (s : State) (p : Fin 2) (f : RingPort → RingPort) : (s.modRing p f).plk = s.plk := rfl
@[simp] theorem modRing_cam (s : State) (p : Fin 2) (f : RingPort → RingPort) : (s.modRing p f).cam = s.cam := rfl
@[simp] theorem modRing_lop (s : State) (p : Fin 2) (f : RingPort → RingPort) : (s.modRing p f).lop = s.lop := rfl
@[simp] theorem modRing_lck (s : State) (p : Fin 2) (f : RingPort → RingPort) : (s.modRing p f).lck = s.lck := rfl
@[simp] theorem modRing_tim (s : State) (p : Fin 2) (f : RingPort → RingPort) : (s.modRing p f).tim = s.tim := rfl
@[simp] theorem modRing_twn (s : State) (p : Fin 2) (f : RingPort → RingPort) : (s.modRing p f).twn = s.twn := rfl
@[simp] theorem modRing_thm (s : State) (p : Fin 2) (f : RingPort → RingPort) : (s.modRing p f).thm = s.thm := rfl
@[simp] theorem modRing_pmc (s : State) (p : Fin 2) (f : RingPort → RingPort) : (s.modRing p f).pmc = s.pmc := rfl
@[simp] theorem modRing_latch (s : State) (p : Fin 2) (f : RingPort → RingPort) : (s.modRing p f).latch = s.latch := rfl
@[simp] theorem modRing_dram (s : State) (p : Fin 2) (f : RingPort → RingPort) : (s.modRing p f).dram = s.dram := rfl
@[simp] theorem modRing_tables (s : State) (p : Fin 2) (f : RingPort → RingPort) : (s.modRing p f).tables = s.tables := rfl
@[simp] theorem modRing_now (s : State) (p : Fin 2) (f : RingPort → RingPort) : (s.modRing p f).now = s.now := rfl
@[simp] theorem modRing_draws (s : State) (p : Fin 2) (f : RingPort → RingPort) : (s.modRing p f).draws = s.draws := rfl
@[simp] theorem modRing_out (s : State) (p : Fin 2) (f : RingPort → RingPort) : (s.modRing p f).out = s.out := rfl
@[simp] theorem modRing_pending (s : State) (p : Fin 2) (f : RingPort → RingPort) : (s.modRing p f).pending = s.pending := rfl

/-! modCmp -/

@[simp] theorem modCmp_tim (s : State) (k : Fin 16) (f : Comparator → Comparator) : (s.modCmp k f).tim = { s.tim with cmp := modAt s.tim.cmp k f } := rfl
@[simp] theorem modCmp_regs (s : State) (k : Fin 16) (f : Comparator → Comparator) : (s.modCmp k f).regs = s.regs := rfl
@[simp] theorem modCmp_rst (s : State) (k : Fin 16) (f : Comparator → Comparator) : (s.modCmp k f).rst = s.rst := rfl
@[simp] theorem modCmp_pins (s : State) (k : Fin 16) (f : Comparator → Comparator) : (s.modCmp k f).pins = s.pins := rfl
@[simp] theorem modCmp_clk (s : State) (k : Fin 16) (f : Comparator → Comparator) : (s.modCmp k f).clk = s.clk := rfl
@[simp] theorem modCmp_hif (s : State) (k : Fin 16) (f : Comparator → Comparator) : (s.modCmp k f).hif = s.hif := rfl
@[simp] theorem modCmp_mmu (s : State) (k : Fin 16) (f : Comparator → Comparator) : (s.modCmp k f).mmu = s.mmu := rfl
@[simp] theorem modCmp_cpy (s : State) (k : Fin 16) (f : Comparator → Comparator) : (s.modCmp k f).cpy = s.cpy := rfl
@[simp] theorem modCmp_dmc (s : State) (k : Fin 16) (f : Comparator → Comparator) : (s.modCmp k f).dmc = s.dmc := rfl
@[simp] theorem modCmp_qdc (s : State) (k : Fin 16) (f : Comparator → Comparator) : (s.modCmp k f).qdc = s.qdc := rfl
@[simp] theorem modCmp_scr (s : State) (k : Fin 16) (f : Comparator → Comparator) : (s.modCmp k f).scr = s.scr := rfl
@[simp] theorem modCmp_csm (s : State) (k : Fin 16) (f : Comparator → Comparator) : (s.modCmp k f).csm = s.csm := rfl
@[simp] theorem modCmp_pos (s : State) (k : Fin 16) (f : Comparator → Comparator) : (s.modCmp k f).pos = s.pos := rfl
@[simp] theorem modCmp_fir (s : State) (k : Fin 16) (f : Comparator → Comparator) : (s.modCmp k f).fir = s.fir := rfl
@[simp] theorem modCmp_plk (s : State) (k : Fin 16) (f : Comparator → Comparator) : (s.modCmp k f).plk = s.plk := rfl
@[simp] theorem modCmp_cam (s : State) (k : Fin 16) (f : Comparator → Comparator) : (s.modCmp k f).cam = s.cam := rfl
@[simp] theorem modCmp_lop (s : State) (k : Fin 16) (f : Comparator → Comparator) : (s.modCmp k f).lop = s.lop := rfl
@[simp] theorem modCmp_lck (s : State) (k : Fin 16) (f : Comparator → Comparator) : (s.modCmp k f).lck = s.lck := rfl
@[simp] theorem modCmp_urg (s : State) (k : Fin 16) (f : Comparator → Comparator) : (s.modCmp k f).urg = s.urg := rfl
@[simp] theorem modCmp_twn (s : State) (k : Fin 16) (f : Comparator → Comparator) : (s.modCmp k f).twn = s.twn := rfl
@[simp] theorem modCmp_thm (s : State) (k : Fin 16) (f : Comparator → Comparator) : (s.modCmp k f).thm = s.thm := rfl
@[simp] theorem modCmp_pmc (s : State) (k : Fin 16) (f : Comparator → Comparator) : (s.modCmp k f).pmc = s.pmc := rfl
@[simp] theorem modCmp_latch (s : State) (k : Fin 16) (f : Comparator → Comparator) : (s.modCmp k f).latch = s.latch := rfl
@[simp] theorem modCmp_dram (s : State) (k : Fin 16) (f : Comparator → Comparator) : (s.modCmp k f).dram = s.dram := rfl
@[simp] theorem modCmp_tables (s : State) (k : Fin 16) (f : Comparator → Comparator) : (s.modCmp k f).tables = s.tables := rfl
@[simp] theorem modCmp_now (s : State) (k : Fin 16) (f : Comparator → Comparator) : (s.modCmp k f).now = s.now := rfl
@[simp] theorem modCmp_draws (s : State) (k : Fin 16) (f : Comparator → Comparator) : (s.modCmp k f).draws = s.draws := rfl
@[simp] theorem modCmp_out (s : State) (k : Fin 16) (f : Comparator → Comparator) : (s.modCmp k f).out = s.out := rfl
@[simp] theorem modCmp_pending (s : State) (k : Fin 16) (f : Comparator → Comparator) : (s.modCmp k f).pending = s.pending := rfl

end Sys2Proof.Machine.State
end

