-- ==== Sys2Proof/WellFormed.lean ====
section
/-! DEFINITION. Which commands are well formed: operands that the types alone leave too wide. -/

namespace Sys2Proof

/-- A BAR0 offset is aligned to a register (R7). -/
def aligned (offset : BitVec 25) : Bool := decide (offset.toNat % 4 = 0)

/-- A DRAM access lies within one 64-byte unit and carries the bytes it writes (R129, R133). -/
def DramAccess.wf (a : DramAccess) : Bool :=
  decide (0 < a.len) && decide (a.addr.toNat % 64 + a.len ≤ 64) && (!a.write || decide (a.bytes.length = a.len))

/-- A SIG payload is as long as its mask of links says (R376). -/
def sigWf (bytes : List Byte) : Bool :=
  match bytes.drop 8 with
  | a :: b :: c :: d :: rest =>
    decide (rest.length = 4 * ((List.range 32).filter fun k => ((d ++ c ++ b ++ a : BitVec 32)).getLsbD k).length)
  | _ => false

/-- A sensor reading fits the 16 bits of THM_SENSn.TEMP (R401). -/
def readingWf (r : Option Int) : Bool :=
  match r with
  | none => true
  | some t => decide (-32768 ≤ t) && decide (t < 32768)

/-- Operands are as the spec lays them out: register offsets aligned (R7), byte strings no longer than their carriers allow (R21, R118, R355), clock numbers of monitored clocks (R82), web lines of 48 bits (R107). -/
def Instr.wf : Instr → Bool
  | .barAccessUnsupported write offset length => decide (0 < length) && (!write || !aligned offset || decide (length ≠ 4))
  | .registerWrite offset _ => aligned offset
  | .regAccessAbandoned _ offset => aligned offset
  | .bar2Access _ offset bytes => decide (0 < bytes.length) && decide (offset.toNat + bytes.length ≤ 2 ^ 28)
  | .clockMonitorWindow window => window.counts.all fun c => decide (c.1.val ≤ 8 ∨ 16 ≤ c.1.val)
  | .dataMoverPieceDone _ bytes => decide (bytes.length ≤ 4096)
  | .dramRequestArrive _ access _ => access.wf
  | .screenLineWrite _ line _ => decide (line < 2 ^ 48)
  | .csiLongPacket _ _ _ _ _ payload _ => decide (payload.length ≤ 65535)
  | .ringFrameForward _ _ rest => decide (rest ≠ [])
  | .twinHeartbeatRx _ _ _ _ _ _ _ _ settings _ _ => decide (settings.length = 4)
  | .sigRx _ bytes => sigWf bytes
  | .stageRx _ _ units entries targets => units.all (fun u => decide (u.1 < 2 ^ 34)) && decide (entries.length ≤ 64) && targets.all fun t => decide (t.1 < 262144)
  | .sensorConversion readings => readings.toList.all readingWf
  | .sleepSensorSample reading => readingWf reading
  | .powerOnAssert .. | .powerOnRelease .. | .railDipDetect .. | .railRecoverRelease .. | .resetNAssert .. | .resetNRelease .. | .pciePerstAssert ..
  | .pciePerstDeassert .. | .watchdogExpiry .. | .watchdogSourceRelease .. | .linkResetExpiry .. | .rstBlockHoldWrite .. | .rstDataHoldWrite ..
  | .rstCtrlHoldWrite .. | .rstLinkWrite .. | .isolationDrained .. | .domainClocksStable .. | .pendingClockTimeout .. | .blockRelease ..
  | .dmcZqCalDone .. | .pllLock .. | .oscillatorStart .. | .otpReadDone .. | .secureBootDone .. | .dramTrainingDone .. | .serdesCalibrationDone ..
  | .firmwareSelfTestDone .. | .pcieLinkUp .. | .configRequest .. | .sleepEnterWrite .. | .sleepDrainDone .. | .d3hotEntry .. | .sleepEntryTimeout ..
  | .gpioWakeEdge .. | .heartbeatHalfPeriod .. | .fireEnableEdge .. | .fireEnableTimeout .. | .clkMeasStart .. | .clkMeasDone .. | .mrEnableWrite ..
  | .mrDisableWrite .. | .mrDrained .. | .crEnableWrite .. | .logEnableWrite .. | .progEnableWrite .. | .progressBlockWrite .. | .dblMtailWrite ..
  | .dblMctrlResume .. | .dblCheadWrite .. | .dblLheadWrite .. | .manifestFetch .. | .manifestReadFail .. | .coalTimerExpiry .. | .msixUnmask ..
  | .lostRecordWrite .. | .dataMoverPieceIssue .. | .hostReadError .. | .nop .. | .quireLoad .. | .tableLoad .. | .tableLoadChannelDone ..
  | .tableRead .. | .mmuWrite .. | .mmuInvalidate .. | .copy .. | .copyQueueAdmit .. | .compress .. | .lockOpen .. | .lockCheck .. | .lockArm ..
  | .lockDiscard .. | .jobOpen .. | .jobClose .. | .serviceBand .. | .serviceBandAdmit .. | .loopCtrlRun .. | .loopCtrlFreeze .. | .loopCtrlZero ..
  | .linkCtrlTrain .. | .linkCtrlRetrain .. | .linkCtrlPrbsStart .. | .linkCtrlPrbsStop .. | .linkCtrlAuthenticate .. | .linkCtrlDisable ..
  | .twinCtrlClearFailed .. | .twinCtrlPlannedSwap .. | .counterRead .. | .mmuEnableWrite .. | .copyStart .. | .copyDone .. | .copyFail ..
  | .dramSchedulePick .. | .dramAgePromotion .. | .dramReadReturn .. | .refreshDue .. | .mr4Poll .. | .dmcRetrainNow .. | .retrainStep ..
  | .caParityAlert .. | .scrubUnitRead .. | .fillStart .. | .fillUnitIssue .. | .decodeDispatch .. | .decodeEnd .. | .replaceDeadline ..
  | .quireRetire .. | .compressEngineStart .. | .compressEnd .. | .rasterFetchStart .. | .fetchComplete .. | .gutterEmit .. | .refillStart ..
  | .refillDone .. | .csmGateCloseWrite .. | .csmGateOpenWrite .. | .encoderStep .. | .indexEvent .. | .missingIndex .. | .speedUpdate ..
  | .standstill .. | .stretchWindowClose .. | .posFaultClear .. | .posMainWrite .. | .posChannelEnable .. | .posZEnWrite .. | .posLprWrite ..
  | .lineCommit .. | .lineLaunch .. | .firCtrlStopWrite .. | .firCtrlResumeFwd .. | .firNowDiscipline .. | .capFrameRx .. | .ackFrameRx ..
  | .t0Timeout .. | .blockLockAcquire .. | .blockLockLoss .. | .lockTimeout .. | .prbsPhaseEnd .. | .echoSend .. | .echoReplyRx ..
  | .echoReplyTimeout .. | .echoPhaseTimeout .. | .syncSend .. | .statusRx .. | .statusTimeout .. | .authResponseRx .. | .authTimeout ..
  | .cfgBankUpload .. | .cfgConfirmTimeout .. | .linkBackoffExpiry .. | .plkEnableWrite .. | .csiFrameStart .. | .csiFrameEnd ..
  | .frameEndTimeout .. | .streamStageTake .. | .triggerFire .. | .triggerRecordExpire .. | .cameraDropRecord .. | .camPortEnWrite ..
  | .camContextEnableWrite .. | .bandMeasure .. | .bandMissedTimeout .. | .collationCycle .. | .chamberBusyTimeout .. | .lckSdataWrite ..
  | .chamberCheckStart .. | .chamberCheckEnd .. | .chamberApplyInstant .. | .chamberApplyCopyDone .. | .lockArmRx .. | .lockReplyRx ..
  | .ringLockWaitTimeout .. | .lockCommitRx .. | .lockAbortRx .. | .lockOutcomeRx .. | .timRateWrite .. | .timStepWrite .. | .timSrcWrite ..
  | .comparatorMatch .. | .comparatorEnableWrite .. | .gpioModeWrite .. | .ptpMessageRx .. | .holdoverEntry .. | .holdoverExpiry ..
  | .ringPortLock .. | .ringPortRateAlternate .. | .helloSend .. | .helloRx .. | .helloTimeout .. | .announceSend .. | .announceRx ..
  | .nodeLivenessExpiry .. | .delayReqSend .. | .delayReqRx .. | .delayRespRx .. | .timeSend .. | .timeRx .. | .tideRx .. | .tideSourceExpiry ..
  | .stopRx .. | .stateSend .. | .stateRx .. | .urgSendWake .. | .wakeRx .. | .urgClrRing .. | .twinHeartbeatSend .. | .stampRx .. | .takeoverRx ..
  | .failedRx .. | .swapRx .. | .planeStateRx .. | .joinRx .. | .peerLossTimeout .. | .twnCtrlFailWrite .. | .twnEnableWrite .. | .twnEpochWrite ..
  | .thermalHistoryEntry .. | .thmCfgWrite .. | .thmPeakClear .. | .pmcFreezeWrite .. | .pmcSnapWrite .. | .pmcSnapshot .. | .pmcWindowClose ..
  | .pmcCounterWrite .. | .pmcWinWrite .. | .ringPortLockLoss .. | .pllLosesLock .. | .csiClockLaneChange .. | .triggerPulseEnd .. | .gpioPulseEnd ..
  | .ptpMessageSend .. | .ethernetLinkChange .. | .scrCfgBitsWrite .. => true

end Sys2Proof
end

