-- ==== Sys2Proof/Tests/Slice0.lean ====
section
/-! SUPPORT. Small tests: ill-formed commands are refused, single steps against figures of the spec, and for every statement of Obligations.lean with hypotheses a state and operands that meet them. -/

namespace Sys2Proof.Tests

set_option Elab.async false
set_option linter.unusedVariables false

open Sys2Proof.Machine

/-- A booted device: every reset released, every PLL locked, the PCIe link up (R57, R64). -/
def up : State := {
  rst := {
    por := false, rail := false, stage := 7, aon := .up, mgmt := .up, data := .up, ctrl := .up, relMgmt := 8, relData := 7, relCtrl := 6
    osc := true, pcieUp := true }
  clk := { lock := 0x7FF } }


/-- `up` with its reset controller changed. -/
def rstOf (f : RstState → RstState) : State := { up with rst := f up.rst }

/-- Powered, AON still PENDING in stage 1. -/
def early : State := { rst := { por := false, rail := false, osc := true, aon := .pending }, clk := { lock := 0x7FF } }

theorem test_hyps_StepRunsTheFrontCommand :
    (let c : Instr := .oscillatorStart
     let rest : List Instr := [.nop 3]
     let s : State := { up with pending := [.oscillatorStart, .nop 3] }
     s.pending = c :: rest) :=
  by decide +kernel

theorem test_hyps_StepIdlesOnEmptyQueue :
    (let s : State := up
     s.pending = [] ∧ up.cpy.run = none ∧ (∀ e : Fin 16, up.qdc.dec[e] = none) ∧ ∀ p : Fin 8, (up.fir.plane[p]).cause = 0 ∧
       (up.fir.plane[p]).peerOf = none ∧ (up.fir.plane[p]).phase ≠ .hold ∧ up.twn.block[p] = 0) :=
  by decide +kernel

theorem test_hyps_StepKeepsCanonicalMemories : ({ up with pending := [.fillStart], dram := [(5, 7), (9, 1)], tables := [(0x4000000, 1)], regs := [(0xC0110, 4)] } : State).wf ∧ ∃ t, step { up with pending := [.fillStart], dram := [(5, 7), (9, 1)], tables := [(0x4000000, 1)], regs := [(0xC0110, 4)] } = .next t := ⟨by unfold State.wf; decide +kernel, _, rfl⟩

theorem test_hyps_AssertedResetSourceTakesItsDomains :
    (let s : State := up
     up.rst.otp.reachResetN ≠ 1) ∧
    (let s : State := up
     s.rst.asleep = false ∧ s.rst.sleep ≠ .ready ∧ up.rst.otp.reachPerst ≠ 4) ∧
    (let s : State := up
     s.calm ∧ s.rst.otp.reachWdog ≠ 1 ∧ s.blkUp .cores = true) :=
  ⟨by decide +kernel, by decide +kernel, by decide +kernel⟩

theorem test_hyps_ReleasedResetSourceLetsGo :
    (let s : State := { rstOf (fun r => { r with por := true, cause := 1 }) with pending := [] }
     s.rst.osc = true) :=
  by decide +kernel

theorem test_hyps_HeldUnitsStayUnderReset :
    (let s : State := up
     let hold : BitVec 12 := 1
     s.calm ∧ s.takesWrite 0x10010 ∧ hold &&& ~~~s.rst.blockHold ≠ 0) ∧
    (let s : State := up
     let hold : Bool := true
     s.calm ∧ s.takesWrite 0x10010 ∧ s.rst.dataHold = false) ∧
    (let s : State := up
     let hold : Bool := true
     s.calm ∧ s.takesWrite 0x10010 ∧ s.rst.ctrlHold = false) ∧
    (let s : State := up
     let hold : BitVec 32 := 0x80000000
     s.calm ∧ s.takesWrite 0x10014 ∧ hold &&& ~~~s.rst.linkHold ≠ 0) :=
  ⟨by decide +kernel, by decide +kernel, by decide +kernel, by decide +kernel⟩

theorem test_hyps_ResetUnitsAndBlocksAreReleased :
    (let s : State := rstOf fun r => { r with data := .isolating }
     let d : Domain := .data
     s.domainState d = .isolating) ∧
    (let s : State := rstOf fun r => { r with held := r.held.set 9 .isolating }
     let b : Blk := .cam
     let k : Fin 13 := 9
     b.heldIndex = some k ∧ s.rst.held[k] = .isolating) ∧
    (let s : State := rstOf fun r => { r with link := r.link.set 31 .isolating }
     let n : Fin 32 := 31
     s.rst.link[n] = .isolating) ∧
    (let s : State := early
     s.calm ∧ s.rst.aon = .pending ∧ s.pllsLocked (.domain .aon) = true ∧ s.rst.osc = true ∧ s.rst.stage = 1) ∧
    (let s : State := { early with rst := { early.rst with aon := .up, mgmt := .pending, stage := 4 } }
     s.calm ∧ s.rst.aon = .up ∧ s.rst.mgmt = .pending ∧ s.bootHolds .mgmt = false ∧ s.pllsLocked (.domain .mgmt) = true) ∧
    (let s : State := { early with rst := { early.rst with aon := .up, mgmt := .up, data := .pending, stage := 5 } }
     let d : Domain := .data
     (d = .data ∨ d = .ctrl) ∧ (∀ e, s.domainCovered e = false) ∧ s.domainState d = .pending ∧ s.bootHolds d = false ∧
       s.pllsLocked (.domain d) = true) ∧
    (let s : State := rstOf fun r => { r with held := r.held.set 9 .pending }
     let b : Blk := .cam
     let k : Fin 13 := 9
     b.heldIndex = some k ∧ (∀ e, s.domainCovered e = false) ∧ s.domainState b.domain = .up ∧ s.rst.held[k] = .pending ∧
       s.blockCovered k = false ∧ s.pllsLocked (.block b) = true) ∧
    (let s : State := rstOf fun r => { r with link := r.link.set 31 .pending }
     let n : Fin 32 := 31
     (∀ e, s.domainCovered e = false) ∧ s.rst.data = .up ∧ s.rst.link[n] = .pending ∧ s.linkCovered n = false ∧ s.pllsLocked (.link n) = true) ∧
    (let s : State := { early with rst := { early.rst with aon := .up, mgmt := .pending, stage := 4 }, clk := {} }
     let u : ResetUnit := .domain .mgmt
     s.unitState u = .pending ∧ s.pllsLocked u = false ∧ s.rst.stage = 4) ∧
    (let s : State := { early with clk := {} }
     let u : ResetUnit := .domain .aon
     s.unitState u = .pending ∧ s.pllsLocked u = false ∧ s.rst.stage ≠ 4 ∧ s.rst.stage ≠ 7 ∧ s.rst.stage ≠ 0xF) ∧
    (let s : State := up
     let u : ResetUnit := .domain .data
     (s.rst.stage = 7 ∨ s.rst.stage = 0xF)) ∧
    (let s : State := rstOf fun r => { r with relCtrl := 5 }
     let d : Domain := .ctrl
     let b : Blk := .cam
     s.domainState d = .up ∧ (domainBlks d)[s.released d]? = some b ∧ Blk.cam.heldIndex = some 9 ∧ s.rst.held[9] = .up) ∧
    (let s : State := rstOf fun r => { r with dramSr := true }
     s.blkUp .dmc = true ∧ s.rst.dramSr = true) :=
  ⟨by decide +kernel, by decide +kernel, by decide +kernel, by decide +kernel, by decide +kernel,
   by (repeat' refine And.intro ?_ ?_) <;> first | decide +kernel | (intro e; cases e <;> decide +kernel),
   by (repeat' refine And.intro ?_ ?_) <;> first | decide +kernel | (intro e; cases e <;> decide +kernel),
   by (repeat' refine And.intro ?_ ?_) <;> first | decide +kernel | (intro e; cases e <;> decide +kernel), by decide +kernel,
   by decide +kernel, by decide +kernel, by decide +kernel, by decide +kernel⟩

theorem test_hyps_BringUpStagesFollowInOrder :
    (let s : State := { early with rst := { early.rst with aon := .up, stage := 2 } }
     let o : Otp := { bar2 := true }
     s.rst.stage = 2 ∧ s.rst.aon = .up ∧ State.calm { s with rst := { s.rst with otp := o } }) ∧
    (let s : State := { early with rst := { early.rst with aon := .up, stage := 2 } }
     s.rst.stage = 2 ∧ s.rst.aon = .up) ∧
    (let s : State := { early with rst := { early.rst with aon := .up, stage := 3, otp := { rollback := 5 } } }
     let a : SlotCheck := ⟨true, true, 5, 9⟩
     let b : SlotCheck := ⟨true, true, 4, 9⟩
     s.rst.stage = 3 ∧ s.calm ∧ (a.signature = true ∧ a.digest = true ∧ s.rst.otp.rollback ≤ a.rollback) ∧ ¬ (b.signature = true ∧
       b.digest = true ∧ s.rst.otp.rollback ≤ b.rollback)) ∧
    (let s : State := { early with rst := { early.rst with aon := .up, stage := 3, otp := { rollback := 5 } } }
     let a : SlotCheck := ⟨true, true, 5, 8⟩
     let b : SlotCheck := ⟨true, true, 5, 9⟩
     s.rst.stage = 3 ∧ s.calm ∧ (b.signature = true ∧ b.digest = true ∧ s.rst.otp.rollback ≤ b.rollback) ∧ a.version < b.version) ∧
    (let s : State := { early with rst := { early.rst with aon := .up, stage := 3, otp := { rollback := 5 } } }
     let a : SlotCheck := ⟨true, true, 4, 8⟩
     let b : SlotCheck := ⟨false, true, 5, 9⟩
     s.rst.stage = 3 ∧ s.calm ∧ (a.signature = true ∧ a.digest = true ∧ a.rollback < s.rst.otp.rollback) ∧ b.signature = false) ∧
    (let s : State := rstOf fun r => { r with stage := 5 }
     let c : Fin 2 := 0
     let r : TrainResult := (.failed)
     s.rst.stage = 5 ∧ s.blkUp .dmc = true) ∧
    (let s : State := rstOf fun r => { r with stage := 5 }
     let c : Fin 2 := 1
     let r : TrainResult := (.failed)
     s.rst.stage = 5 ∧ s.blkUp .dmc = true) ∧
    (let s : State := rstOf (fun r => { r with stage := 5 })
     let ok : Bool := false
     s.rst.stage = 5) ∧
    (let s : State := rstOf (fun r => { r with stage := 5 })
     let ok : Bool := true
     s.rst.stage = 5) ∧
    (let s : State := rstOf (fun r => { r with stage := 5 })
     let ok : Bool := false
     s.rst.stage = 5) ∧
    (let s : State := rstOf (fun r => { r with stage := 5 })
     let ok : Bool := true
     s.rst.stage = 5) ∧
    (let s : State := rstOf (fun r => { r with stage := 6 })
     let ms : Nat := 1024
     s.rst.stage = 6) ∧
    (let s : State := rstOf (fun r => { r with stage := 6 })
     let ms : Nat := 5
     s.rst.stage = 6) ∧
    (let s : State := rstOf (fun r => { r with pcieUp := false, stage := 3 })
     s.calm ∧ 3 ≤ s.rst.stage.toNat ∧ s.rst.pcieOff = false ∧ s.rst.perst = false ∧ s.rst.perstLow = false) :=
  ⟨by decide +kernel, by decide +kernel, by decide +kernel, by decide +kernel, by decide +kernel, by decide +kernel, by decide +kernel,
   by decide +kernel, by decide +kernel, by decide +kernel, by decide +kernel, by decide +kernel, by decide +kernel, by decide +kernel⟩

theorem test_hyps_SleepIsEnteredAndLeft :
    (let s : State := up
     let v : Word := 3
     s.takesWrite 0x10030 ∧ s.rst.sleep ≠ .draining ∧ s.rst.sleep ≠ .ready ∧ v.getLsbD 0 = true ∧ s.sleepReason = 0) ∧
    (let s : State := { up with fir := { plane := up.fir.plane.set 0 { phase := .run } } }
     let v : Word := 1
     s.takesWrite 0x10030 ∧ s.rst.sleep ≠ .draining ∧ s.rst.sleep ≠ .ready ∧ v.getLsbD 0 = true ∧ s.sleepReason ≠ 0 ∧ s.firingPlanes ≠ []) ∧
    (let s : State := rstOf fun r => { r with sleep := .draining }
     s.rst.sleep = .draining ∧ (∀ f ∈ s.hif.flights, f.phase = .faulted)) ∧
    (let s : State := up
     s.rst.pcieUp = true ∧ s.bootDone = true) ∧
    (let s : State := rstOf fun r => { r with d3hot := true, sleep := .ready }
     s.rst.d3hot = true ∧ s.rst.asleep = false ∧ s.rst.sleep = .ready ∧ s.reachL0 = false) ∧
    (let s : State := rstOf fun r => { r with sleep := .ready }
     s.rst.asleep = false ∧ s.rst.sleep = .ready ∧ s.reachL0 = false) ∧
    (let s : State := rstOf (fun r => { r with asleep := true, sleepCfg := 0x7F#9 })
     let g : Fin 16 := 15
     let rising : Bool := true
     s.rst.asleep = true ∧ s.reachL0 = false ∧ s.rst.sleepCfg.getLsbD 1 = true ∧ s.rst.sleepCfg.getLsbD 2 = rising ∧
       s.rst.sleepCfg.extractLsb' 3 4 = BitVec.ofNat 4 g.val) :=
  ⟨by decide +kernel, by decide +kernel, by decide +kernel, by decide +kernel, by decide +kernel, by decide +kernel, by decide +kernel⟩

theorem test_hyps_HostAccessesReachOpenRegistersAlone :
    (let s : State := rstOf (fun r => { r with stage := 4 })
     let r : ConfigReg := .header 0
     let w : Option Word := none
     s.rst.pcieUp = true ∧ s.rst.stage ≠ 7 ∧ s.rst.stage ≠ 0xF) ∧
    (let s : State := up
     s.rst.pcieUp = true ∧ s.bootDone = true) ∧
    (let s : State := up
     let o : BitVec 25 := 0x60003
     let n : Nat := 1
     s.barOpen o.toNat = true ∧ s.clockStopped o.toNat = false ∧ o.toNat % 4 + n ≤ 4 ∧ s.hif.accesses = []) ∧
    (let s : State := up
     let o : BitVec 25 := 0x140008
     let n : Nat := 4
     s.barOpen o.toNat = true ∧ s.clockStopped o.toNat = false ∧ o.toNat % 4 + n ≤ 4 ∧ s.hif.accesses = []) ∧
    (let s : State := up
     let o : BitVec 25 := 0x10040
     s.barOpen o.toNat = true ∧ s.hif.accesses = [] ∧ 0x10040 ≤ o.toNat ∧ o.toNat < 0x20000 ∧ o.toNat % 4 = 0) ∧
    (let s : State := up
     let o : BitVec 25 := 0x1FFFC
     s.barOpen o.toNat = true ∧ s.hif.accesses = [] ∧ 0x10040 ≤ o.toNat ∧ o.toNat < 0x20000 ∧ o.toNat % 4 = 0) ∧
    (let s : State := { up with tim := { up.tim with count := 0x123456789 } }
     let o : BitVec 25 := 0x280028
     let a : Nat := 0x28002C
     s.barOpen o.toNat = true ∧ s.clockStopped o.toNat = false ∧ s.hif.accesses = [] ∧ a ∈ capturedBy o.toNat) ∧
    (let s : State := up
     let o : BitVec 25 := 0x28001C
     let a : Nat := 0x280020
     s.barOpen o.toNat = true ∧ s.clockStopped o.toNat = false ∧ s.hif.accesses = [] ∧ a ∈ capturedBy o.toNat) ∧
    (let s : State := up
     let o : BitVec 25 := 0x60001
     let n : Nat := 4
     s.rst.pcieUp = true ∧ ((4 < o.toNat % 4 + n ∨ s.barOpen o.toNat = false)) ∧ s.hif.accesses = []) ∧
    (let s : State := rstOf (fun r => { r with stage := 4 })
     let o : BitVec 25 := 0xA0000
     let n : Nat := 4
     s.rst.pcieUp = true ∧ ((4 < o.toNat % 4 + n ∨ s.barOpen o.toNat = false)) ∧ s.hif.accesses = []) ∧
    (let s : State := up
     let o : BitVec 25 := 0x60001
     let n : Nat := 4
     s.rst.pcieUp = true ∧ ((4 < o.toNat % 4 + n ∨ s.barOpen o.toNat = false))) ∧
    (let s : State := up
     let o : BitVec 25 := 0x60001
     let v : Word := 0
     o.toNat % 4 ≠ 0) ∧
    (let s : State := up
     let o : BitVec 25 := 0x60008
     let v : Word := 0xFFFFFFFF
     let d : RegDef := (regDefAt 0x60008).getD ⟨"", 0, [], 1, 4⟩
     o.toNat % 4 = 0 ∧ ((0x60000 ≤ o.toNat ∧ o.toNat < 0x70000 ∨ 0xA0000 ≤ o.toNat ∧ o.toNat < 0xC0000)) ∧ s.takesWrite o.toNat ∧
       regDefAt o.toNat = some d) ∧
    (let s : State := up
     let o : BitVec 25 := 0xA0004
     let v : Word := 0xFFFFFFFF
     let d : RegDef := (regDefAt 0xA0004).getD ⟨"", 0, [], 1, 4⟩
     o.toNat % 4 = 0 ∧ ((0x60000 ≤ o.toNat ∧ o.toNat < 0x70000 ∨ 0xA0000 ≤ o.toNat ∧ o.toNat < 0xC0000)) ∧ s.takesWrite o.toNat ∧
       regDefAt o.toNat = some d) ∧
    (let s : State := up
     let o : BitVec 25 := 0x6FFFC
     let v : Word := 1
     o.toNat % 4 = 0 ∧ ((0x60000 ≤ o.toNat ∧ o.toNat < 0x70000 ∨ 0xA0000 ≤ o.toNat ∧ o.toNat < 0xC0000)) ∧ s.takesWrite o.toNat ∧
       regDefAt o.toNat = none) ∧
    (let s : State := { up with hif := { up.hif with accesses := [⟨0x60000, 4, none, none⟩] }, clk := { lock := 0x7EF } }
     let o : BitVec 25 := 0x60000
     let n : Nat := 4
     s.hif.accesses = [⟨o.toNat, n, none, none⟩]) ∧
    (let s : State := { up with hif := { up.hif with accesses := [⟨0x60004, 4, some 1, none⟩, ⟨0x60004, 4, some 2, none⟩] }, clk := { lock := 0x7EF } }
     let o : BitVec 25 := 0x60004
     let u : Word := 1
     let v : Word := 2
     s.hif.accesses = [⟨o.toNat, 4, some u, none⟩, ⟨o.toNat, 4, some v, none⟩]) ∧
    (let s : State := { rstOf (fun r => { r with otp := { bar2 := true } }) with dmc := { geom := 0x1000, ready := true } }
     let o : BitVec 28 := 60
     let bs : List Byte := [1, 2, 3, 4, 5]
     s.bar2Open = true ∧ s.regField 0x20 0 8 * 2 ^ 28 + o.toNat + bs.length ≤ s.capacity ∧ (∀ c : Fin 2, s.dmc.chFault[c] = false) ∧
       (∀ i < bs.length, s.rgnAdmits 6 (s.regField 0x20 0 8 * 2 ^ 28 + o.toNat + i) = true)) ∧
    (let s : State := { rstOf (fun r => { r with otp := { bar2 := true } }) with dmc := { geom := 0x1000, ready := true }, dram := [(64, 7)] }
     let o : BitVec 28 := 60
     let bs : List Byte := [1, 2, 3, 4, 5]
     s.bar2Open = true ∧ s.regField 0x20 0 8 * 2 ^ 28 + o.toNat + bs.length ≤ s.capacity ∧
       s.badIn (s.regField 0x20 0 8 * 2 ^ 28 + o.toNat) bs.length = none) :=
  ⟨by decide +kernel, by decide +kernel, by decide +kernel, by decide +kernel, by decide +kernel, by decide +kernel, by decide +kernel,
   by decide +kernel, by decide +kernel, by decide +kernel, by decide +kernel, by decide +kernel, by decide +kernel, by decide +kernel,
   by decide +kernel, by decide +kernel, by decide +kernel, by decide +kernel, by decide +kernel⟩

theorem test_hyps_PinsAndClocksFollowTheirEvents :
    (let s : State := up
     s.rst.aon = .up ∧ s.aonClkRuns = true ∧ s.driveGood = true) ∧
    (let s : State := rstOf fun r => { r with therm := true }
     s.rst.aon = .up ∧ s.driveGood = false) ∧
    (let s : State := { up with pins := { fireLast := some 1000000, fireGood := 3 }, now := 1000000 }
     let a : Nat := 1400000
     let e : Nat := 1000000
     s.now ≤ a ∧ s.rst.aon = .up ∧ s.pins.fireLast = some e ∧ e + 400000 ≤ a ∧ a ≤ e + 4000000 ∧ s.pins.fireGood < 4) ∧
    (let s : State := { up with pins := { fireLast := some 1000000, fireGood := 3 }, now := 1000000 }
     let a : Nat := 1399999
     let e : Nat := 1000000
     s.now ≤ a ∧ s.rst.aon = .up ∧ s.pins.fireLast = some e ∧ ((a < e + 400000 ∨ e + 4000000 < a))) ∧
    (let s : State := { up with pins := { fireLast := some 1000000, fireGood := 4, fireEnable := true }, now := 1000000 }
     let a : Nat := 5000000
     let e : Nat := 1000000
     s.now ≤ a ∧ s.pins.fireLast = some e ∧ e + 4000000 ≤ a) ∧
    (let s : State := up
     let k : Fin 11 := 10
     s.hif.accesses = [] ∧ s.urg.tideWait = []) ∧
    (let s : State := up
     let v : Word := 0x8000000C
     s.takesWrite 0x20010 ∧ v.getLsbD 31 = true) ∧
    (let s : State := { up with clk := { up.clk with meas := some (12, 6) } }
     let k : BitVec 6 := 12
     let l : BitVec 4 := 6
     let n : BitVec 31 := 640
     s.clk.meas = some (k, l) ∧ ((k.toNat < 13 ∨ 16 ≤ k.toNat ∧ k.toNat < 48))) ∧
    (let s : State := { up with clk := { up.clk with down := 1 } }
     let n : Nat := 502
     let a : Nat := 10
     s.blkUp .clk = true ∧ s.aonClkRuns = true ∧ s.hif.accesses = [] ∧ s.urg.tideWait = [] ∧ 502 ≤ n ∧ n ≤ 522) ∧
    (let s : State := up
     let a : Nat := 10
     s.blkUp .clk = true ∧ s.aonClkRuns = true ∧ s.hif.accesses = [] ∧ s.urg.tideWait = []) :=
  ⟨by decide +kernel, by decide +kernel, by decide +kernel, by decide +kernel, by decide +kernel, by decide +kernel, by decide +kernel,
   by decide +kernel, by decide +kernel, by decide +kernel⟩

/-- `up` with host-written registers. -/
def regsOf (l : RegFile) : State := { up with regs := l }

/-- An entry with an opcode, a SUB and its first operands. -/
def entryOf (op : BitVec 8) (sub : BitVec 16) (a0 a1 a2 a3 : BitVec 64) : Entry :=
  { op := op, flags := 0, sub := sub, tag := 7, a := #v[a0, a1, a2, a3, 0, 0, 0] }

/-- An entry on chip from ring 0. -/
def flightOf (id : Nat) (e : Entry) (ph : FlightPhase) : Flight :=
  { id := id, ring := 0, index := 0, e := e, phase := ph, done := 0, faultNo := 0 }

/-- Entry 5 in a phase. -/
def f5 (e : Entry) (ph : FlightPhase) : Flight := flightOf 5 e ph

/-- A state with entry 5 queued on chip. -/
def queued (s : State) (e : Entry) : State := { s with hif := { s.hif with flights := [f5 e .queued], nextId := 6 } }

/-- A state with entry 5 on chip in a phase. -/
def onChip (s : State) (e : Entry) (ph : FlightPhase) : State :=
  { s with hif := { s.hif with flights := [f5 e ph], nextId := 6 } }

/-- Completion ring 0 and manifest ring 0 enabled with 256 entries each, one entry to fetch. -/
def ringsOn : State := { up with
  regs := [(0x40108, 0x11), (0x40208, 0x11)]
  hif := { up.hif with mr := up.hif.mr.set 0 { state := .running, tail := 1 } } }

theorem test_hyps_RingsAreEnabled :
    (let s : State := regsOf [(0x40208, 0x11)]
     let n : Fin 16 := 0
     let v : Word := 0xD
     s.takesWrite (mrCfg n) ∧ s.regBit (mrCfg n) 0 = false ∧ 6 ≤ bitsOf v.toNat 1 5 ∧ bitsOf v.toNat 1 5 ≤ 16 ∧
       s.regBit (crCfg (Fin.ofNat 8 (bitsOf v.toNat 9 3))) 0 = true) ∧
    (let s : State := regsOf [(0x40208, 0x11)]
     let n : Fin 16 := 15
     let v : Word := 0x21
     s.takesWrite (mrCfg n) ∧ s.regBit (mrCfg n) 0 = false ∧ 6 ≤ bitsOf v.toNat 1 5 ∧ bitsOf v.toNat 1 5 ≤ 16 ∧
       s.regBit (crCfg (Fin.ofNat 8 (bitsOf v.toNat 9 3))) 0 = true) ∧
    (let s : State := up
     let n : Fin 16 := 15
     let v : Word := 0xB
     s.takesWrite (mrCfg n) ∧ s.regBit (mrCfg n) 0 = false ∧
       ((bitsOf v.toNat 1 5 < 6 ∨ 16 < bitsOf v.toNat 1 5 ∨ s.regBit (crCfg (Fin.ofNat 8 (bitsOf v.toNat 9 3))) 0 = false))) ∧
    (let s : State := up
     let n : Fin 16 := 15
     let v : Word := 0x23
     s.takesWrite (mrCfg n) ∧ s.regBit (mrCfg n) 0 = false ∧
       ((bitsOf v.toNat 1 5 < 6 ∨ 16 < bitsOf v.toNat 1 5 ∨ s.regBit (crCfg (Fin.ofNat 8 (bitsOf v.toNat 9 3))) 0 = false))) ∧
    (let s : State := up
     let n : Fin 16 := 15
     let v : Word := 0xD
     s.takesWrite (mrCfg n) ∧ s.regBit (mrCfg n) 0 = false ∧
       ((bitsOf v.toNat 1 5 < 6 ∨ 16 < bitsOf v.toNat 1 5 ∨ s.regBit (crCfg (Fin.ofNat 8 (bitsOf v.toNat 9 3))) 0 = false))) ∧
    (let s : State := up
     let m : Fin 8 := 7
     let v : Word := 0x11
     s.takesWrite (crCfg m) ∧ s.regBit (crCfg m) 0 = false ∧ v.getLsbD 0 = true ∧ 8 ≤ bitsOf v.toNat 1 5 ∧ bitsOf v.toNat 1 5 ≤ 16) ∧
    (let s : State := up
     let m : Fin 8 := 7
     let v : Word := 0x21
     s.takesWrite (crCfg m) ∧ s.regBit (crCfg m) 0 = false ∧ v.getLsbD 0 = true ∧ 8 ≤ bitsOf v.toNat 1 5 ∧ bitsOf v.toNat 1 5 ≤ 16) ∧
    (let s : State := ringsOn
     let m : Fin 8 := 0
     let v : Word := 0
     s.takesWrite (crCfg m) ∧ s.regBit (crCfg m) 0 = true ∧ s.crNamed m = true) ∧
    (let s : State := up
     let v : Word := 0x21
     s.takesWrite logCfg ∧ s.regBit logCfg 0 = false ∧ v.getLsbD 0 = true ∧ 8 ≤ bitsOf v.toNat 1 5 ∧ bitsOf v.toNat 1 5 ≤ 16) ∧
    (let s : State := up
     let v : Word := 0x7FFF
     s.takesWrite 0x40008) :=
  ⟨by decide +kernel, by decide +kernel, by decide +kernel, by decide +kernel, by decide +kernel, by decide +kernel, by decide +kernel,
   by decide +kernel, by decide +kernel, by decide +kernel⟩

theorem test_hyps_RingsAreDisabledAndDrain :
    (let s : State := { onChip ringsOn (entryOf 0x10 1 0x1000 0 256 0) .queued with pending := [] }
     let n : Fin 16 := 0
     let v : Word := 0
     s.takesWrite (mrCfg n)) ∧
    (let s : State := ringsOn
     let n : Fin 16 := 0
     let v : Word := 0
     s.takesWrite (mrCfg n)) ∧
    (let s : State := up
     let n : Fin 16 := 0
     s.regBit (mrCfg n) 0 = false ∧ (∀ f ∈ s.hif.flights, f.ring ≠ n)) :=
  ⟨by decide +kernel, by decide +kernel, by decide +kernel⟩

theorem test_hyps_DoorbellsMoveTheRings :
    (let s : State := ringsOn
     let n : Fin 16 := 0
     let v : BitVec 16 := 255
     s.takesWrite (dblPage n) ∧ v.toNat < s.ringSize (mrCfg n)) ∧
    (let s : State := ringsOn
     let n : Fin 16 := 0
     let v : BitVec 16 := 256
     s.takesWrite (dblPage n) ∧ s.ringSize (mrCfg n) ≤ v.toNat) ∧
    (let s : State := { ringsOn with hif := { ringsOn.hif with mr := ringsOn.hif.mr.set 0 { state := .halted } } }
     let n : Fin 16 := 0
     s.takesWrite (dblPage n + 4) ∧ s.hif.mr[n].state = .halted) ∧
    (let s : State := ringsOn
     let n : Fin 16 := 0
     s.takesWrite (dblPage n + 4) ∧ s.hif.mr[n].state ≠ .halted) ∧
    (let s : State := ringsOn
     let m : Fin 8 := 0
     let v : BitVec 16 := 255
     s.takesWrite (dblPage m + 8) ∧ v.toNat < s.ringSize (crCfg m)) ∧
    (let s : State := ringsOn
     let m : Fin 8 := 0
     let v : BitVec 16 := 256
     s.takesWrite (dblPage m + 8) ∧ s.ringSize (crCfg m) ≤ v.toNat) ∧
    (let s : State := regsOf [(0x40018, 0x11)]
     let v : BitVec 16 := 255
     s.takesWrite (dblPage 0 + 0xC) ∧ v.toNat < s.ringSize logCfg) :=
  ⟨by decide +kernel, by decide +kernel, by decide +kernel, by decide +kernel, by decide +kernel, by decide +kernel, by decide +kernel⟩

theorem test_hyps_EntriesAreFetchedAndChecked :
    (let s : State := ringsOn
     let n : Fin 16 := 0
     let w : BitVec 512 := 0
     s.nextFetch = some n) ∧
    (let s : State := ringsOn
     let n : Fin 16 := 0
     let w : BitVec 512 := 0
     s.nextFetch = some n ∧ s.entryCheck (s.regBit (mrCfg n) 8) (parseEntry w) = none) ∧
    (let s : State := ringsOn
     let n : Fin 16 := 0
     let w : BitVec 512 := 0xFF
     let st : BitVec 8 := stBadOpcode
     s.numbered ∧ s.nextFetch = some n ∧ s.entryCheck (s.regBit (mrCfg n) 8) (parseEntry w) = some st) ∧
    (let s : State := ringsOn
     let n : Fin 16 := 0
     s.nextFetch = some n) ∧
    (let s : State := queued ringsOn (entryOf 0x00 0 0 0 0 0)
     let n : Fin 16 := 0
     let f : Flight := f5 (entryOf 0x00 0 0 0 0 0) .queued
     s.starts n f ∧ f.e.op = 0x00) :=
  ⟨by decide +kernel, by decide +kernel, by decide +kernel, by decide +kernel, by decide +kernel⟩

theorem test_hyps_InterruptsAndLostRecordsGoOut :
    (let s : State := { regsOf [(0x40208, 0x01000011)] with hif := { up.hif with cr := up.hif.cr.set 0 { unsig := 1 } } }
     let m : Fin 8 := 0
     s.blkUp .hif = true ∧ s.hif.cr[m].unsig ≠ 0 ∧ s.regField (crCfg m) 24 8 ≠ 0) ∧
    (let s : State := { regsOf [(0x40018, 0x01000011)] with hif := { up.hif with log := { unsig := 1 } } }
     s.blkUp .hif = true ∧ s.hif.log.unsig ≠ 0 ∧ s.regField logCfg 24 8 ≠ 0) ∧
    (let s : State := { up with hif := { up.hif with msixPend := BitVec.twoPow 64 63 } }
     let v : Fin 64 := 63
     let x : Word := 0
     s.bar4Open = true ∧ x.getLsbD 0 = false) ∧
    (let s : State := { up with hif := { up.hif with msixMask := 0 } }
     let v : Fin 64 := 63
     let x : Word := 1
     s.bar4Open = true ∧ x.getLsbD 0 = true) ∧
    (let s : State := up
     let v : Fin 64 := 63
     let x : Word := 0xFFFFFFFF
     s.bar4Open = true) ∧
    (let s : State := rstOf (fun r => { r with stage := 4 })
     let o : BitVec 12 := 0
     let x : Word := 0
     s.rst.pcieUp = true ∧ s.bar4Open = false) ∧
    (let s : State := { regsOf [(0x40018, 0x01000011)] with hif := { up.hif with lostPending := 3 } }
     s.hif.lostPending ≠ 0 ∧ s.logRoom = true) ∧
    (let s : State := regsOf [(0x40008, 1)]
     s.blkUp .hif = true ∧ s.regBit 0x40008 0 = true) :=
  ⟨by decide +kernel, by decide +kernel, by decide +kernel, by decide +kernel, by decide +kernel, by decide +kernel, by decide +kernel,
   by decide +kernel⟩

/-- Plane 0 prints: a ring of 16 slots, one head segment of 8 columns on link 0, everything sealed and screened to line 16. -/
def press : State := { up with
  regs := [(0xC0110, 4)]
  tables := [(0x4000000, 1), (0x4000004, 8), (0x4000008, 8)]
  dmc := { geom := 0x1000, ready := true, chUp := Vector.replicate 2 true }
  qdc := { sealed := Vector.replicate 8 64 }
  scr := { ready := Vector.replicate 8 16 }
  fir := { plane := up.fir.plane.set 0 { phase := .run, origin := some 0 } }
  csm := { link := up.csm.link.set 0 { state := .running, joined := true } }
  plk := { link := up.plk.link.set 0 { st := .run, rate := .r10, lock := true } } }

/-- A base quire of plane 0 in a state: 8 columns of one bit on one line, payload 0xAA as one stored block. -/
def quireOf (line : Nat) (st : QuireState) (read : List Byte) : Quire :=
  { id := 5, plane := 0, kind := 1, overlay := none, first := line, count := 1, colFirst := 0, colCount := 8, rawLen := 1, compLen := 6
    crc := crc32c [0xAA], job := 0x1000, state := st, read := read }

/-- `press` with one quire in the index. -/
def withQuire (q : Quire) : State := { press with qdc := { press.qdc with quires := [q], nextId := 6 } }

/-- A transfer of entry 5. -/
def xferOf (kind : XferKind) (dev host left : Nat) : Xfer := ⟨5, 0, kind, dev, host, left, 0, false, 0⟩

/-- A state with one transfer of entry 5 and some pieces. -/
def moving (s : State) (x : Xfer) (ps : List Piece) : State := { s with hif := { s.hif with xfers := [x], pieces := ps } }

/-- A page table that maps job page 0x40001000 to 0x201000 (R110). -/
def mapped : State := { regsOf [(0x50000, 1), (0x50008, 0x4000), (0x50018, 1)] with
  dmc := { geom := 0x1000, ready := true }
  dram := (List.range 8).map (fun i => (0x4008 + i, if i = 0 then 1 else if i = 1 then 0x60 else 0)) ++
    (List.range 8).map (fun i => (0x6000 + i, if i = 0 then 7 else if i = 2 then 0x20 else 0)) }

/-- A compression of 4 bytes from and to the host. -/
def compOf (srcAt dstAt : CompSpace) : CompReq := ⟨some 5, 0x40001000, 0x40001000, 64, 64, 4, 12, srcAt, dstAt⟩

/-- A state whose engine 0 runs a compression with its input so far and the bytes sent. -/
def compressing (s : State) (r : CompReq) (input : List Byte) (sent : Nat) : State :=
  { s with qdc := { s.qdc with comp := s.qdc.comp.set 0 (some ⟨r, input, [], sent⟩) } }

/-- A copy within device DRAM. -/
def copyOf : CopyReq := ⟨0, 0x1000, 128, 0⟩

/-- `up` with 1 GiB of DRAM serving. -/
def withDram : State := { up with dmc := { geom := 0x1000, ready := true, chUp := Vector.replicate 2 true } }

/-- The plate quire that empty job space reads as. -/
def plateOf : Quire :=
  { id := 0, plane := 0, kind := 0, overlay := none, first := 0, count := 8, colFirst := 0, colCount := 0, rawLen := 0, compLen := 0
    crc := 0, job := 0, state := .indexed, read := [] }

/-- `press` with engine 0 decoding a quire. -/
def decoding (q : Quire) : State :=
  { withQuire q with qdc := { (withQuire q).qdc with dec := (withQuire q).qdc.dec.set 0 (some (.quire 5)) } }

/-- `press` with engine 0 decoding a repeat of a plate quire. -/
def plating (q : Quire) : State :=
  { press with qdc := { press.qdc with plates := [⟨0, 0, 0, q⟩], dec := press.qdc.dec.set 0 (some (.plate 5)) } }

/-- A quire whose lines overrun the output buffer of its engine. -/
def bigQuire : Quire :=
  let word : List Bool := [true, true, false, false, false, true, false, true, false, false, false, false, false]
  let stream := packBits false 500 ([true, true, false, false, false, true, true, false, false, false, false] ++
    (List.replicate 255 word).flatten ++ List.replicate 7 false)
  { quireOf 3 .decoding stream with rawLen := 65791, compLen := stream.length }

/-- A request of the firmware for the camera archive. -/
def archived : CompReq := archiveReq ⟨0x1000, 0x2000, 64, 64, 3, 2⟩

/-- A pair from its first part. -/
theorem pair_of_fst {α β : Type} {p : α × β} {a : α} (h : p.1 = a) : p = (a, p.2) := h ▸ rfl

theorem test_hyps_TransfersStartFromTheirEntries :
    (let s : State := queued up (entryOf 0x10 1 0x1000 0 256 0)
     let n : Fin 16 := 0
     let f : Flight := f5 (entryOf 0x10 1 0x1000 0 256 0) .queued
     s.starts n f ∧ f.e.op = 0x10 ∧ f.done = 0 ∧ ((f.e.sub.getLsbD 0 = true ∨ s.indexRoom = true)) ∧ (∀ b ∈ f.e.blocks, s.blkUp b = true)) ∧
    (let s : State := queued up (entryOf 0x10 0 0x1000 0 256 0)
     let n : Fin 16 := 0
     let f : Flight := f5 (entryOf 0x10 0 0x1000 0 256 0) .queued
     s.starts n f ∧ f.e.op = 0x10 ∧ f.done = 0 ∧ ((f.e.sub.getLsbD 0 = true ∨ s.indexRoom = true)) ∧ (∀ b ∈ f.e.blocks, s.blkUp b = true)) ∧
    (let s : State := queued up (entryOf 0x20 0x11 0x1000 0 64 0)
     let n : Fin 16 := 0
     let f : Flight := f5 (entryOf 0x20 0x11 0x1000 0 64 0) .queued
     s.starts n f ∧ f.e.op = 0x20 ∧ f.done = 0 ∧ f.e.num 2 ≠ 0 ∧ (∀ b ∈ f.e.blocks, s.blkUp b = true) ∧
       (if f.e.num 3 = 0 then s.liveOpen f.e.sub.toNat = true else s.viewOpen (f.e.num 3) = true)) ∧
    (let s : State := queued { up with lck := { ch := up.lck.ch.set 0 { st := .open_ } } } (entryOf 0x20 0x11 0x1000 0 64 1)
     let n : Fin 16 := 0
     let f : Flight := f5 (entryOf 0x20 0x11 0x1000 0 64 1) .queued
     s.starts n f ∧ f.e.op = 0x20 ∧ f.done = 0 ∧ f.e.num 2 ≠ 0 ∧ (∀ b ∈ f.e.blocks, s.blkUp b = true) ∧
       (if f.e.num 3 = 0 then s.liveOpen f.e.sub.toNat = true else s.viewOpen (f.e.num 3) = true)) ∧
    (let s : State := queued { up with fir := { plane := up.fir.plane.set 0 { phase := .run } } } (entryOf 0x20 0x01 0x1000 0 64 0)
     let n : Fin 16 := 0
     let f : Flight := f5 (entryOf 0x20 0x01 0x1000 0 64 0) .queued
     s.starts n f ∧ f.e.op = 0x20 ∧ (∀ b ∈ f.e.blocks, s.blkUp b = true) ∧
       (if f.e.num 3 = 0 then s.liveOpen f.e.sub.toNat = false else s.viewOpen (f.e.num 3) = false)) ∧
    (let s : State := queued up (entryOf 0x20 0x11 0x1000 0 64 1)
     let n : Fin 16 := 0
     let f : Flight := f5 (entryOf 0x20 0x11 0x1000 0 64 1) .queued
     s.starts n f ∧ f.e.op = 0x20 ∧ (∀ b ∈ f.e.blocks, s.blkUp b = true) ∧
       (if f.e.num 3 = 0 then s.liveOpen f.e.sub.toNat = false else s.viewOpen (f.e.num 3) = false)) ∧
    (let s : State := queued up (entryOf 0x21 0x11 0x1000 0 64 1)
     let n : Fin 16 := 0
     let f : Flight := f5 (entryOf 0x21 0x11 0x1000 0 64 1) .queued
     s.starts n f ∧ f.e.op = 0x21 ∧ f.done = 0 ∧ f.e.num 2 ≠ 0 ∧ (∀ b ∈ f.e.blocks, s.blkUp b = true)) ∧
    (let s : State := queued up (entryOf 0x30 0 0x1000 0 4096 0)
     let n : Fin 16 := 0
     let f : Flight := f5 (entryOf 0x30 0 0x1000 0 4096 0) .queued
     s.starts n f ∧ f.e.op = 0x30 ∧ f.done = 0 ∧ (∀ b ∈ f.e.blocks, s.blkUp b = true)) :=
  ⟨by decide +kernel, by decide +kernel, by decide +kernel, by decide +kernel, by decide +kernel, by decide +kernel, by decide +kernel,
   by decide +kernel⟩

theorem test_hyps_EntriesIntoResetAreRefused :
    (let s : State := queued (rstOf fun r => { r with held := Vector.replicate 13 .inReset }) (entryOf 0x10 1 0 0 0 0)
     let n : Fin 16 := 0
     let f : Flight := f5 (entryOf 0x10 1 0 0 0 0) .queued
     let c : Instr := .quireLoad 0
     s.starts n f ∧ (f.e.blocks.any fun b => !s.blkUp b) = true ∧ ((c = .quireLoad n ∧ f.e.op = 0x10 ∧
       f.e.sub.getLsbD 0 = true ∨ c = .tableLoad n ∧ f.e.op = 0x20 ∨ c = .tableRead n ∧ f.e.op = 0x21 ∨ c = .mmuWrite n ∧
       f.e.op = 0x30 ∨ c = .mmuInvalidate n ∧ f.e.op = 0x31 ∨ c = .copy n ∧ f.e.op = 0x40 ∨ c = .compress n ∧ f.e.op = 0x48 ∨ c = .counterRead n ∧
       f.e.op = 0x78))) ∧
    (let s : State := queued (rstOf fun r => { r with held := Vector.replicate 13 .inReset }) (entryOf 0x20 1 0 0 0 0)
     let n : Fin 16 := 0
     let f : Flight := f5 (entryOf 0x20 1 0 0 0 0) .queued
     let c : Instr := .tableLoad 0
     s.starts n f ∧ (f.e.blocks.any fun b => !s.blkUp b) = true ∧ ((c = .quireLoad n ∧ f.e.op = 0x10 ∧
       f.e.sub.getLsbD 0 = true ∨ c = .tableLoad n ∧ f.e.op = 0x20 ∨ c = .tableRead n ∧ f.e.op = 0x21 ∨ c = .mmuWrite n ∧
       f.e.op = 0x30 ∨ c = .mmuInvalidate n ∧ f.e.op = 0x31 ∨ c = .copy n ∧ f.e.op = 0x40 ∨ c = .compress n ∧ f.e.op = 0x48 ∨ c = .counterRead n ∧
       f.e.op = 0x78))) ∧
    (let s : State := queued (rstOf fun r => { r with held := Vector.replicate 13 .inReset }) (entryOf 0x21 1 0 0 0 0)
     let n : Fin 16 := 0
     let f : Flight := f5 (entryOf 0x21 1 0 0 0 0) .queued
     let c : Instr := .tableRead 0
     s.starts n f ∧ (f.e.blocks.any fun b => !s.blkUp b) = true ∧ ((c = .quireLoad n ∧ f.e.op = 0x10 ∧
       f.e.sub.getLsbD 0 = true ∨ c = .tableLoad n ∧ f.e.op = 0x20 ∨ c = .tableRead n ∧ f.e.op = 0x21 ∨ c = .mmuWrite n ∧
       f.e.op = 0x30 ∨ c = .mmuInvalidate n ∧ f.e.op = 0x31 ∨ c = .copy n ∧ f.e.op = 0x40 ∨ c = .compress n ∧ f.e.op = 0x48 ∨ c = .counterRead n ∧
       f.e.op = 0x78))) ∧
    (let s : State := queued (rstOf fun r => { r with held := Vector.replicate 13 .inReset }) (entryOf 0x30 1 0 0 0 0)
     let n : Fin 16 := 0
     let f : Flight := f5 (entryOf 0x30 1 0 0 0 0) .queued
     let c : Instr := .mmuWrite 0
     s.starts n f ∧ (f.e.blocks.any fun b => !s.blkUp b) = true ∧ ((c = .quireLoad n ∧ f.e.op = 0x10 ∧
       f.e.sub.getLsbD 0 = true ∨ c = .tableLoad n ∧ f.e.op = 0x20 ∨ c = .tableRead n ∧ f.e.op = 0x21 ∨ c = .mmuWrite n ∧
       f.e.op = 0x30 ∨ c = .mmuInvalidate n ∧ f.e.op = 0x31 ∨ c = .copy n ∧ f.e.op = 0x40 ∨ c = .compress n ∧ f.e.op = 0x48 ∨ c = .counterRead n ∧
       f.e.op = 0x78))) ∧
    (let s : State := queued (rstOf fun r => { r with held := Vector.replicate 13 .inReset }) (entryOf 0x31 1 0 0 0 0)
     let n : Fin 16 := 0
     let f : Flight := f5 (entryOf 0x31 1 0 0 0 0) .queued
     let c : Instr := .mmuInvalidate 0
     s.starts n f ∧ (f.e.blocks.any fun b => !s.blkUp b) = true ∧ ((c = .quireLoad n ∧ f.e.op = 0x10 ∧
       f.e.sub.getLsbD 0 = true ∨ c = .tableLoad n ∧ f.e.op = 0x20 ∨ c = .tableRead n ∧ f.e.op = 0x21 ∨ c = .mmuWrite n ∧
       f.e.op = 0x30 ∨ c = .mmuInvalidate n ∧ f.e.op = 0x31 ∨ c = .copy n ∧ f.e.op = 0x40 ∨ c = .compress n ∧ f.e.op = 0x48 ∨ c = .counterRead n ∧
       f.e.op = 0x78))) ∧
    (let s : State := queued (rstOf fun r => { r with held := Vector.replicate 13 .inReset }) (entryOf 0x40 1 0 0 0 0)
     let n : Fin 16 := 0
     let f : Flight := f5 (entryOf 0x40 1 0 0 0 0) .queued
     let c : Instr := .copy 0
     s.starts n f ∧ (f.e.blocks.any fun b => !s.blkUp b) = true ∧ ((c = .quireLoad n ∧ f.e.op = 0x10 ∧
       f.e.sub.getLsbD 0 = true ∨ c = .tableLoad n ∧ f.e.op = 0x20 ∨ c = .tableRead n ∧ f.e.op = 0x21 ∨ c = .mmuWrite n ∧
       f.e.op = 0x30 ∨ c = .mmuInvalidate n ∧ f.e.op = 0x31 ∨ c = .copy n ∧ f.e.op = 0x40 ∨ c = .compress n ∧ f.e.op = 0x48 ∨ c = .counterRead n ∧
       f.e.op = 0x78))) ∧
    (let s : State := queued (rstOf fun r => { r with held := Vector.replicate 13 .inReset }) (entryOf 0x48 1 0 0 0 0)
     let n : Fin 16 := 0
     let f : Flight := f5 (entryOf 0x48 1 0 0 0 0) .queued
     let c : Instr := .compress 0
     s.starts n f ∧ (f.e.blocks.any fun b => !s.blkUp b) = true ∧ ((c = .quireLoad n ∧ f.e.op = 0x10 ∧
       f.e.sub.getLsbD 0 = true ∨ c = .tableLoad n ∧ f.e.op = 0x20 ∨ c = .tableRead n ∧ f.e.op = 0x21 ∨ c = .mmuWrite n ∧
       f.e.op = 0x30 ∨ c = .mmuInvalidate n ∧ f.e.op = 0x31 ∨ c = .copy n ∧ f.e.op = 0x40 ∨ c = .compress n ∧ f.e.op = 0x48 ∨ c = .counterRead n ∧
       f.e.op = 0x78))) ∧
    (let s : State := queued (rstOf fun r => { r with relMgmt := 7 }) (entryOf 0x78 0 0 0 0 0)
     let n : Fin 16 := 0
     let f : Flight := f5 (entryOf 0x78 0 0 0 0 0) .queued
     let c : Instr := .counterRead 0
     s.starts n f ∧ (f.e.blocks.any fun b => !s.blkUp b) = true ∧ ((c = .quireLoad n ∧ f.e.op = 0x10 ∧
       f.e.sub.getLsbD 0 = true ∨ c = .tableLoad n ∧ f.e.op = 0x20 ∨ c = .tableRead n ∧ f.e.op = 0x21 ∨ c = .mmuWrite n ∧
       f.e.op = 0x30 ∨ c = .mmuInvalidate n ∧ f.e.op = 0x31 ∨ c = .copy n ∧ f.e.op = 0x40 ∨ c = .compress n ∧ f.e.op = 0x48 ∨ c = .counterRead n ∧
       f.e.op = 0x78))) :=
  ⟨by decide +kernel, by decide +kernel, by decide +kernel, by decide +kernel, by decide +kernel, by decide +kernel, by decide +kernel,
   by decide +kernel⟩

theorem test_hyps_MoverIssuesPieces :
    (let s : State := moving up (xferOf .pte 0x2FC0 0x1000 128) []
     let x : Xfer := xferOf .pte 0x2FC0 0x1000 128
     s.blkUp .hif = true ∧ s.hif.pieces.length < 8 ∧ s.nextXfer = some x ∧ ((x.kind = .pte ∨ ∃ tb v, x.kind = .table tb v))) ∧
    (let s : State := moving up (xferOf (.table 0x11 0) 0 0x1000 64) []
     let x : Xfer := xferOf (.table 0x11 0) 0 0x1000 64
     s.blkUp .hif = true ∧ s.hif.pieces.length < 8 ∧ s.nextXfer = some x ∧ ((x.kind = .pte ∨ ∃ tb v, x.kind = .table tb v))) ∧
    (let most : Nat := 128
     let fuel : Nat := 10
     let a : Nat := 0x1000
     let len : Nat := 300
     let o : Out := .hostRead 0x1100 44
     o ∈ readRequests most fuel a len) ∧
    (let s : State := moving up (xferOf (.tableRead 0x11 0) 0 0x1000 64) []
     let x : Xfer := xferOf (.tableRead 0x11 0) 0 0x1000 64
     let tb : BitVec 16 := 0x11
     let v : Fin 5 := 0
     s.blkUp .hif = true ∧ s.hif.pieces.length < 8 ∧ s.nextXfer = some x ∧ x.kind = .tableRead tb v) ∧
    (let s : State := moving mapped (xferOf .quire 0x40001000 0x1000 64) []
     let u : State := ((moving mapped (xferOf .quire 0x40001000 0x1000 64) []).translate 6 (xferOf .quire 0x40001000 0x1000 64).dev true).2
     let x : Xfer := xferOf .quire 0x40001000 0x1000 64
     let ph : Nat := 0x201000
     s.blkUp .hif = true ∧ s.hif.pieces.length < 8 ∧ s.nextXfer = some x ∧ x.kind = .quire ∧ s.translate 6 x.dev true = (.ok ph, u)) ∧
    (let s : State := moving (onChip up (entryOf 0x10 1 0 0 0 0) .running) (xferOf .quire 0x40001000 0x1000 64) []
     let u : State := moving (onChip up (entryOf 0x10 1 0 0 0 0) .running) (xferOf .quire 0x40001000 0x1000 64) []
     let x : Xfer := xferOf .quire 0x40001000 0x1000 64
     let f : Flight := f5 (entryOf 0x10 1 0 0 0 0) .running
     let k : Nat := 6
     let l : Nat := 0
     s.blkUp .hif = true ∧ s.hif.pieces.length < 8 ∧ s.nextXfer = some x ∧ x.kind = .quire ∧ s.flight? x.id = some f ∧
       s.translate 6 x.dev true = (.fault k l, u)) ∧
    (let s : State := moving (compressing (onChip up (entryOf 0x48 0 0 0 0 0) .running) (compOf .host .host) [] 0) (xferOf .compress 0x40001000 0x1000 64) []
     let x : Xfer := xferOf .compress 0x40001000 0x1000 64
     let k : Fin 4 := 0
     let c : CompJob := ⟨compOf .host .host, [], [], 0⟩
     s.blkUp .hif = true ∧ s.hif.pieces.length < 8 ∧ s.nextXfer = some x ∧ x.kind = .compress ∧ s.compJob x.id = some (k, c) ∧
       c.req.srcAt = .host ∧ c.req.dstAt = .host) ∧
    (let s : State := moving (compressing (onChip mapped (entryOf 0x48 0x1000 0 0 0 0) .running) (compOf .job .host) [] 0) (xferOf .compress 0x40001000 0x1000 64) []
     let u : State := ((moving (compressing (onChip mapped (entryOf 0x48 0x1000 0 0 0 0) .running) (compOf .job .host) [] 0) (xferOf .compress 0x40001000 0x1000 64) []).translate 6 (xferOf .compress 0x40001000 0x1000 64).dev false).2
     let x : Xfer := xferOf .compress 0x40001000 0x1000 64
     let k : Fin 4 := 0
     let c : CompJob := ⟨compOf .job .host, [], [], 0⟩
     let ph : Nat := 0x201000
     s.blkUp .hif = true ∧ s.hif.pieces.length < 8 ∧ s.nextXfer = some x ∧ x.kind = .compress ∧ s.compJob x.id = some (k, c) ∧ c.due = [] ∧
       c.req.srcAt = .job ∧ s.translate 6 x.dev false = (.ok ph, u)) ∧
    (let s : State := up
     let job : Nat := 0
     let w : Bool := true
     s.regBit 0x50000 0 = false) :=
  ⟨
   by (repeat' refine And.intro ?_ ?_) <;> first | exact Or.inl rfl | exact Or.inr ⟨_, _, rfl⟩ | exact fun _ _ h => XferKind.noConfusion h | decide +kernel,
   by (repeat' refine And.intro ?_ ?_) <;> first | exact Or.inl rfl | exact Or.inr ⟨_, _, rfl⟩ | exact fun _ _ h => XferKind.noConfusion h | decide +kernel,
   by decide +kernel, by decide +kernel,
   by (repeat' refine And.intro ?_ ?_) <;> first | exact pair_of_fst (by decide +kernel) | decide +kernel, by decide +kernel,
   by decide +kernel, by (repeat' refine And.intro ?_ ?_) <;> first | exact pair_of_fst (by decide +kernel) | decide +kernel,
   by decide +kernel⟩

theorem test_hyps_PiecesLandAndTransfersEnd :
    (let s : State := moving (onChip withDram (entryOf 0x30 0 0 0 0 0) .running) (xferOf .pte 0x2040 0x1040 64) [{ id := 5, dev := 0x2000, host := 0x1000, len := 64 }]
     let k : Nat := 0
     let p : Piece := { id := 5, dev := 0x2000, host := 0x1000, len := 64 }
     let x : Xfer := xferOf .pte 0x2040 0x1040 64
     let bs : List Byte := List.replicate 64 9
     s.hif.pieces[k]? = some p ∧ p.out = false ∧ bs.length = p.len ∧ s.hif.xfers.find? (fun y => decide (y.id = p.id)) = some x ∧
       x.faulted = false ∧ x.left ≠ 0) ∧
    (let s : State := moving (onChip up (entryOf 0x20 0x11 0 0 0 0) .running) (xferOf (.table 0x11 0) 0x40 0x1040 64) [{ id := 5, dev := 0, host := 0x1000, len := 64 }]
     let k : Nat := 0
     let p : Piece := { id := 5, dev := 0, host := 0x1000, len := 64 }
     let x : Xfer := xferOf (.table 0x11 0) 0x40 0x1040 64
     let bs : List Byte := List.replicate 64 9
     s.hif.pieces[k]? = some p ∧ p.out = false ∧ bs.length = p.len ∧ s.hif.xfers.find? (fun y => decide (y.id = p.id)) = some x ∧
       x.faulted = false ∧ x.left ≠ 0) ∧
    (let s : State := moving (onChip withDram (entryOf 0x30 0 0 0 0 0) .running) (xferOf .pte 0x2040 0x1040 0) [{ id := 5, dev := 0x2000, host := 0x1000, len := 64 }]
     let k : Nat := 0
     let p : Piece := { id := 5, dev := 0x2000, host := 0x1000, len := 64 }
     let x : Xfer := xferOf .pte 0x2040 0x1040 0
     let f : Flight := f5 (entryOf 0x30 0 0 0 0 0) .running
     let bs : List Byte := List.replicate 64 9
     s.numbered ∧ s.hif.pieces[k]? = some p ∧ p.out = false ∧ bs.length = p.len ∧ s.hif.xfers.find? (fun y => decide (y.id = p.id)) = some x ∧
       x.faulted = false ∧ x.left = 0 ∧ (∀ q ∈ s.hif.pieces.eraseIdx k, q.id ≠ p.id) ∧ s.flight? p.id = some f ∧
       ((x.kind = .pte ∨ ∃ tb v, x.kind = .tableRead tb v)) ∧ ((∀ g ∈ s.hif.flights, g.e.op = 0x31 → g.phase ≠ .waiting))) ∧
    (let s : State := moving (onChip withDram (entryOf 0x30 0 0 0 0 0) .running) (xferOf .pte 0x2040 0x1040 0) [{ id := 5, dev := 0x2000, host := 0x1000, len := 64 }]
     let k : Nat := 0
     let p : Piece := { id := 5, dev := 0x2000, host := 0x1000, len := 64 }
     let x : Xfer := xferOf .pte 0x2040 0x1040 0
     let f : Flight := f5 (entryOf 0x30 0 0 0 0 0) .running
     s.numbered ∧ s.hif.pieces[k]? = some p ∧ p.out = false ∧ s.hif.xfers.find? (fun y => decide (y.id = p.id)) = some x ∧
       (∀ tb v, x.kind ≠ .tableRead tb v) ∧ s.flight? p.id = some f ∧ ((∀ g ∈ s.hif.flights, g.e.op = 0x31 → g.phase ≠ .waiting))) ∧
    (let s : State := onChip up (entryOf 0x20 0x10 0 0 64 0) .waiting
     let f : Flight := f5 (entryOf 0x20 0x10 0 0 64 0) .waiting
     s.numbered ∧ f ∈ s.hif.flights ∧ f.e.op = 0x20 ∧ f.phase = .waiting ∧ ((∀ g ∈ s.hif.flights, g.e.op = 0x20 → g.phase = .waiting → g = f)) ∧
       ((∀ l ∈ s.plk.link.toList, ∀ u ∈ l.uploads, u.who = .table f.id → u.valid = true))) :=
  ⟨
   by (repeat' refine And.intro ?_ ?_) <;> first | exact Or.inl rfl | exact Or.inr ⟨_, _, rfl⟩ | exact fun _ _ h => XferKind.noConfusion h | decide +kernel,
   by (repeat' refine And.intro ?_ ?_) <;> first | exact Or.inl rfl | exact Or.inr ⟨_, _, rfl⟩ | exact fun _ _ h => XferKind.noConfusion h | decide +kernel,
   by (repeat' refine And.intro ?_ ?_) <;> first | exact Or.inl rfl | exact Or.inr ⟨_, _, rfl⟩ | exact fun _ _ h => XferKind.noConfusion h | decide +kernel,
   by (repeat' refine And.intro ?_ ?_) <;> first | exact Or.inl rfl | exact Or.inr ⟨_, _, rfl⟩ | exact fun _ _ h => XferKind.noConfusion h | decide +kernel,
   by decide +kernel⟩

theorem test_hyps_TranslationsAreInvalidated :
    (let s : State := queued up (entryOf 0x31 0 0 0 0 0)
     let n : Fin 16 := 0
     let f : Flight := f5 (entryOf 0x31 0 0 0 0 0) .queued
     s.starts n f ∧ f.e.op = 0x31 ∧ s.blkUp .mmu = true) ∧
    (let s : State := { queued up (entryOf 0x31 0 0 4096 0 0) with hif := { (queued up (entryOf 0x31 0 0 4096 0 0)).hif with pieces := [{ id := 4, dev := 0, host := 0, len := 64, job := some 64 }] } }
     let n : Fin 16 := 0
     let f : Flight := f5 (entryOf 0x31 0 0 4096 0 0) .queued
     s.starts n f ∧ f.e.op = 0x31 ∧ s.blkUp .mmu = true ∧ (∃ p ∈ s.hif.pieces, p.within (f.e.num 0) (f.e.num 1) = true)) ∧
    (let s : State := regsOf [(0x50008, 0x4000), (0x50018, 1)]
     let on : Bool := true
     s.takesWrite 0x50000 ∧ ((on = true → s.inPt s.ptRoot 8192 = true))) ∧
    (let s : State := regsOf [(0x50000, 1), (0x50008, 0x4000), (0x50018, 1)]
     let on : Bool := false
     s.takesWrite 0x50000 ∧ ((on = true → s.inPt s.ptRoot 8192 = true))) ∧
    (let s : State := up
     s.takesWrite 0x50000 ∧ s.inPt s.ptRoot 8192 = false) :=
  ⟨by decide +kernel, by decide +kernel, by decide +kernel, by decide +kernel, by decide +kernel⟩

theorem test_hyps_CopierTakesRunsAndEnds :
    (let s : State := queued withDram (entryOf 0x40 0 0 0x1000 64 0)
     let n : Fin 16 := 0
     let f : Flight := f5 (entryOf 0x40 0 0 0x1000 64 0) .queued
     s.starts n f ∧ f.e.op = 0x40 ∧ s.blkUp .cpy = true ∧ s.cpy.queue.length < 16) ∧
    (let s : State := queued up (entryOf 0x40 0 0 0x1000 60 0)
     let n : Fin 16 := 0
     let f : Flight := f5 (entryOf 0x40 0 0 0x1000 60 0) .queued
     s.starts n f ∧ f.e.op = 0x40 ∧ s.blkUp .cpy = true ∧ s.cpy.queue.length < 16 ∧ (s.copyCheck f.e.copyReq).isSome = true) ∧
    (let s : State := queued { withDram with cpy := { queue := List.replicate 16 copyOf } } (entryOf 0x40 0 0 0x1000 64 0)
     let n : Fin 16 := 0
     let f : Flight := f5 (entryOf 0x40 0 0 0x1000 64 0) .queued
     s.starts n f ∧ f.e.op = 0x40 ∧ s.blkUp .cpy = true ∧ 16 ≤ s.cpy.queue.length) ∧
    (let s : State := onChip withDram (entryOf 0x40 0 0 0x1000 64 0) .waiting
     let f : Flight := f5 (entryOf 0x40 0 0 0x1000 64 0) .waiting
     s.numbered ∧ s.cpy.queue.length < 16 ∧ s.hif.flights.find? (fun g => decide (g.e.op = 0x40 ∧ g.phase = .waiting)) = some f ∧
       s.copyCheck f.e.copyReq = none) ∧
    (let s : State := { withDram with cpy := { queue := [copyOf] } }
     let r : CopyReq := copyOf
     let rest : List CopyReq := []
     s.cpy.run = none ∧ s.cpy.queue = r :: rest ∧ s.blkUp .cpy = true ∧ s.clkRuns 4 = true ∧
       (∀ b ∈ s.rangeBlk r.src r.len ++ s.rangeBlk r.dst r.len, s.blkUp b = true)) ∧
    (let s : State := { withDram with cpy := { run := some ⟨copyOf, 0, [], false⟩ } }
     let c : CopyRun := ⟨copyOf, 0, [], false⟩
     let b : Nat := 0x1000
     let bs : List Byte := withDram.dramGet 0 128
     s.cpy.run = some c ∧ c.stuck = false ∧ s.copyGood c.req = true ∧
       bs = c.ahead.flatten ++ s.copySource (c.req.src + c.readTo) (c.req.len - c.readTo) ∧ bs ≠ [] ∧
       s.devRange (c.req.dst + 64 * c.moved) bs.length = some (.dram b)) ∧
    (let s : State := { withDram with cpy := { run := some ⟨copyOf, 1, [List.replicate 64 7], false⟩ } }
     let c : CopyRun := ⟨copyOf, 1, [List.replicate 64 7], false⟩
     let b : Nat := 0x1040
     let bs : List Byte := List.replicate 64 7
     s.cpy.run = some c ∧ c.stuck = false ∧ s.copyGood c.req = true ∧
       bs = c.ahead.flatten ++ s.copySource (c.req.src + c.readTo) (c.req.len - c.readTo) ∧ bs ≠ [] ∧
       s.devRange (c.req.dst + 64 * c.moved) bs.length = some (.dram b)) ∧
    (let s : State := { withDram with cpy := { run := some ⟨copyOf, 0, [List.replicate 64 7], false⟩ } }
     let c : CopyRun := ⟨copyOf, 0, [List.replicate 64 7], false⟩
     let cause : CopyFault := .sourceEcc
     let beat : Nat := 1
     let k : Nat := 1
     let good : List Byte := List.replicate 64 7
     s.cpy.run = some c ∧ k = c.failsAt cause beat ∧ 64 * k < c.req.len ∧ s.copyFails c.req cause = true ∧
       good = (c.ahead.flatten ++ s.copySource (c.req.src + c.readTo) (64 * k - c.readTo)).take (64 * k - 64 * c.moved)) ∧
    (let s : State := { withDram with cpy := { run := some ⟨⟨0, 0x10101000000, 64, 0⟩, 0, [], false⟩ } }
     let c : CopyRun := ⟨⟨0, 0x10101000000, 64, 0⟩, 0, [], false⟩
     let cause : CopyFault := .chamberClosed
     let beat : Nat := 0
     let k : Nat := 0
     let good : List Byte := []
     s.cpy.run = some c ∧ k = c.failsAt cause beat ∧ 64 * k < c.req.len ∧ s.copyFails c.req cause = true ∧
       good = (c.ahead.flatten ++ s.copySource (c.req.src + c.readTo) (64 * k - c.readTo)).take (64 * k - 64 * c.moved)) :=
  ⟨by decide +kernel, by decide +kernel, by decide +kernel, by decide +kernel, by decide +kernel,
   by (repeat' refine And.intro ?_ ?_) <;> first | decide +kernel | rfl, by decide +kernel, by decide +kernel, by decide +kernel⟩

theorem test_hyps_QuiresAreDecodedReplacedAndRetired :
    (let s : State := withQuire (quireOf 3 .indexed [])
     let e : Fin 16 := 0
     let c : DecodeCand := ⟨-510, 0, 0, 0, 0, .inl 5⟩
     let id : Nat := 5
     s.qdcRuns = true ∧ s.jobAnswers = true ∧ s.regBit 0xA0004 e.val = true ∧ s.qdc.dec[e] = none ∧
       firstCand (s.quireCands ++ s.plateCands) = some c ∧ c.job = .inl id) ∧
    (let s : State := { press with tables := press.tables ++ [(0x14000000, 1), (0x14000004, 8)] ++ (List.range 6).map fun k => (0x14000010 + k, 0xFF) }
     let e : Fin 16 := 0
     let c : DecodeCand := ⟨-513, 0, 0, 0, 0, .inr (⟨0, 0, 0⟩, plateOf)⟩
     let r : Repeat := ⟨0, 0, 0⟩
     let q : Quire := plateOf
     s.qdcRuns = true ∧ s.jobAnswers = true ∧ s.regBit 0xA0004 e.val = true ∧ s.qdc.dec[e] = none ∧
       firstCand (s.quireCands ++ s.plateCands) = some c ∧ c.job = .inr (r, q)) ∧
    (let s : State := decoding (quireOf 3 .decoding [1, 1, 0, 0xFE, 0xFF, 0xAA])
     let e : Fin 16 := 0
     let id : Nat := 5
     let q : Quire := quireOf 3 .decoding [1, 1, 0, 0xFE, 0xFF, 0xAA]
     s.qdcRuns = true ∧ s.qdc.dec[e] = some (.quire id) ∧ s.jobQuire (.quire id) = some q ∧ q.readOut = true ∧
       s.decodeOver (.quire id) q = true) ∧
    (let s : State := decoding (quireOf 3 .decoding [1, 1, 0, 0xFE, 0xFF, 0xAB])
     let e : Fin 16 := 0
     let id : Nat := 5
     let q : Quire := quireOf 3 .decoding [1, 1, 0, 0xFE, 0xFF, 0xAB]
     s.qdcRuns = true ∧ s.qdc.dec[e] = some (.quire id) ∧ s.jobQuire (.quire id) = some q ∧ q.readOut = true ∧
       s.decodeOver (.quire id) q = true ∧ decodeCause q.rawLen q.crc q.read true = some 4) ∧
    (let s : State := plating (quireOf 3 .decoding [1, 1, 0, 0xFE, 0xFF, 0xAA])
     let e : Fin 16 := 0
     let id : Nat := 5
     let q : Quire := quireOf 3 .decoding [1, 1, 0, 0xFE, 0xFF, 0xAA]
     s.qdcRuns = true ∧ s.qdc.dec[e] = some (.plate id) ∧ s.jobQuire (.plate id) = some q ∧ q.readOut = true ∧
       s.decodeOver (.plate id) q = true) ∧
    (let s : State := plating (quireOf 3 .decoding [7, 1, 0, 0xFE, 0xFF, 0xAA])
     let e : Fin 16 := 0
     let id : Nat := 5
     let q : Quire := quireOf 3 .decoding [7, 1, 0, 0xFE, 0xFF, 0xAA]
     s.qdcRuns = true ∧ s.qdc.dec[e] = some (.plate id) ∧ s.jobQuire (.plate id) = some q ∧ q.readOut = true ∧
       s.decodeOver (.plate id) q = true) ∧
    (let s : State := decoding bigQuire
     let e : Fin 16 := 0
     let j : EngineJob := .quire 5
     let q : Quire := bigQuire
     s.qdc.dec[e] = some j ∧ s.jobQuire j = some q ∧ q.readOut = true ∧ s.decodeOver j q = false) ∧
    (let s : State := withQuire (quireOf 3 .bad [])
     let q : Quire := quireOf 3 .bad []
     q ∈ s.qdc.quires ∧ q.state = .bad ∧ s.deadlinePassed q = true) ∧
    (let s : State := { withQuire (quireOf 3 .verified []) with fir := { press.fir with plane := press.fir.plane.set 0 { phase := .run, retired := 4 } } }
     s.blkUp .qdc = true ∧ 3 + 1 ≤ s.fir.plane[0].retired) ∧
    (let s : State := withQuire (quireOf 3 .verified [])
     s.blkUp .qdc = true ∧ (∀ x ∈ s.qdc.quires, x.id = 5 → s.fir.plane[x.plane].retired < x.first + x.count)) :=
  ⟨by decide +kernel, by decide +kernel, by decide +kernel, by decide +kernel, by decide +kernel, by decide +kernel, by decide +kernel,
   by decide +kernel, by decide +kernel, by decide +kernel⟩

theorem test_hyps_CompressionRunsInOrder :
    (let s : State := queued up (entryOf 0x48 0 0 0 0 0)
     let n : Fin 16 := 0
     let f : Flight := f5 (entryOf 0x48 0 0 0 0 0) .queued
     s.starts n f ∧ f.e.op = 0x48 ∧ (∀ b ∈ f.e.blocks, s.blkUp b = true)) ∧
    (let s : State := onChip { up with qdc := { compQueue := [compOf .host .host] } } (entryOf 0x48 0 0 0 0 0) .waiting
     let r : CompReq := compOf .host .host
     let rest : List CompReq := []
     let f : Flight := f5 (entryOf 0x48 0 0 0 0 0) .waiting
     let k : Fin 4 := 0
     s.numbered ∧ s.blkUp .qdc = true ∧ s.clkRuns 4 = true ∧ s.qdc.compQueue = r :: rest ∧ r.flight = some f.id ∧ s.flight? f.id = some f ∧
       s.freeComp = some k) ∧
    (let s : State := { up with qdc := { compQueue := [archived] } }
     let r : CompReq := archived
     let rest : List CompReq := []
     let k : Fin 4 := 0
     s.blkUp .qdc = true ∧ s.clkRuns 4 = true ∧ s.qdc.compQueue = r :: rest ∧ r.flight = none ∧ s.freeComp = some k) ∧
    (let s : State := { up with qdc := { compQueue := [archived], comp := Vector.replicate 4 (some ⟨archived, [], [], 0⟩) } }
     s.blkUp .qdc = true ∧ s.clkRuns 4 = true ∧ s.blkUp .cores = true ∧ s.freeComp = none) ∧
    (let s : State := moving (compressing (onChip press (entryOf 0x48 0 0 0 0 0) .running) { compOf .host .host with cap := 0 } (List.replicate 64 7) 0) (xferOf .compress 0 0 0) []
     let k : Fin 4 := 0
     let c : CompJob := ⟨{ compOf .host .host with cap := 0 }, List.replicate 64 7, [], 0⟩
     let f : Flight := f5 (entryOf 0x48 0 0 0 0 0) .running
     let x : Xfer := xferOf .compress 0 0 0
     s.numbered ∧ s.qdc.comp[k] = some c ∧ c.req.flight = some f.id ∧ s.flight? f.id = some f ∧
       s.hif.xfers.find? (fun y => decide (y.id = f.id)) = some x ∧ x.left = 0 ∧ x.faulted = false ∧ s.piecesOf f.id = false ∧ c.due = [] ∧
       ((∀ g ∈ s.hif.flights, g.e.op = 0x31 → g.phase ≠ .waiting))) ∧
    (let s : State := compressing { press with dram := [] } archived [] 0
     let k : Fin 4 := 0
     let c : CompJob := ⟨archived, [], [], 0⟩
     let out : List Byte := deflated 4 12 64 ((compressing press archived [] 0).dramGet 0x1000 64)
     s.qdc.comp[k] = some c ∧ c.req.flight = none ∧ out = deflated c.req.depth c.req.hash c.req.len (s.dramGet c.req.src c.req.len)) :=
  ⟨by decide +kernel, by decide +kernel, by decide +kernel, by decide +kernel, by decide +kernel,
   by (repeat' refine And.intro ?_ ?_) <;> first | decide +kernel | rfl⟩

/-- A queued write or read of 64 bytes at address 0 from a port of class 2, accepted at time 0. -/
def reqOf (seq : Nat) (write : Bool) : DramReq :=
  { seq := seq, port := 2, cls := 2, write := write, unit := 0, lo := 0, len := 64, bank := 0, row := 0, promoted := false, lift := 4
    limit := 20, at_ := 0, waits := [], data := [], bad := false, fill := false, covered := false }

/-- `press` with subchannel 0 changed. -/
def subOf0 (q : Subchannel) : State := { press with dmc := { press.dmc with sub := press.dmc.sub.set 0 q, nextSeq := 9 } }

/-- `press` with channel 0 retraining, its last step at 7. -/
def retraining : State :=
  { subOf0 { lastStep := some 7 } with dmc := { (subOf0 { lastStep := some 7 }).dmc with retrain := #v[true, false] } }

/-- A write of the last byte of unit 0, a read that starts in it. -/
def lastByte : DramAccess := { write := true, addr := 0x3F, len := 64, bytes := List.replicate 64 7, chamber := false }

/-- A read of the second half of unit 0. -/
def halfUnit : DramAccess := { write := false, addr := 0x20, len := 64, bytes := [], chamber := false }

/-- `press` with host-written registers. -/
def pressRegs (l : RegFile) : State := { press with regs := l }

theorem test_hyps_DramRequestsAreAccepted :
    (let s : State := subOf0 {}
     let port : Fin 10 := 2
     let a : DramAccess := lastByte
     let at_ : Nat := 10
     s.dmcServes = true ∧ portDirects port true = true ∧ a.write = true ∧ a.bytes ≠ [] ∧ s.unserved a.addr.toNat = false ∧
       s.rgnAdmits port a.addr.toNat = true) ∧
    (let s : State := pressRegs [(0x80104, 1), (0x80108, 2)]
     let port : Fin 10 := 2
     let a : DramAccess := lastByte
     let at_ : Nat := 10
     s.dmcServes = true ∧ portDirects port true = true ∧ a.write = true ∧ a.bytes ≠ [] ∧ a.addr.toNat < s.capacity ∧
       s.rgnAdmits port a.addr.toNat = false) ∧
    (let s : State := { press with dmc := { press.dmc with chFault := #v[true, true] } }
     let port : Fin 10 := 2
     let a : DramAccess := lastByte
     let at_ : Nat := 10
     s.dmcServes = true ∧ portDirects port true = true ∧ a.write = true ∧ a.bytes ≠ [] ∧ a.addr.toNat < s.capacity ∧
       s.unserved a.addr.toNat = true ∧ s.rgnAdmits port a.addr.toNat = true) ∧
    (let s : State := subOf0 { writes := [reqOf 3 true] }
     let port : Fin 10 := 0
     let a : DramAccess := halfUnit
     let at_ : Nat := 10
     s.dmcServes = true ∧ portDirects port false = true ∧ a.write = false ∧ a.len ≠ 0 ∧ portForwards port = false ∧
       s.unserved a.addr.toNat = false ∧ reqOf 3 true ∈ (s.dmc.sub[s.subOf a.addr.toNat]).writes ∧ (reqOf 3 true).unit = a.addr.toNat / 64 * 64) ∧
    (let s : State := { press with dmc := { press.dmc with chFault := #v[true, true] } }
     let port : Fin 10 := 0
     let a : DramAccess := halfUnit
     let at_ : Nat := 10
     s.dmcServes = true ∧ portDirects port false = true ∧ a.write = false ∧ a.len ≠ 0 ∧ s.unserved a.addr.toNat = true) ∧
    (let s : State := pressRegs [(0x80044, 1)]
     s.takesWrite 0x80048 ∧ s.dmcServes = true ∧ s.dmc.fill = none ∧ s.regField 0x80044 0 20 ≠ 0) ∧
    (let s : State := { press with dmc := { press.dmc with fill := some (0x1000, 0 + 64) } }
     let k : Fin 4 := 0
     let a : Nat := 0x1000
     let n : Nat := 0
     s.dmcServes = true ∧ s.dmc.fill = some (a, n + 64) ∧ a % 64 = 0 ∧ s.unserved a = false ∧ s.subOf a = k ∧ (s.dmc.sub[k]).writes.length < 64) :=
  ⟨by decide +kernel, by decide +kernel, by decide +kernel, by decide +kernel, by decide +kernel, by decide +kernel, by decide +kernel⟩

theorem test_hyps_SchedulerTakesTheLowestTier :
    (let q : Subchannel := { reads := [reqOf 3 false], writes := [reqOf 4 true], openRows := [(0, 0)] }
     let cap : Nat := 16
     let r : DramReq := reqOf 3 false
     q.pick cap = some r) ∧
    (let q : Subchannel := { reads := [reqOf 3 false], writes := [reqOf 4 true], openRows := [(0, 0)], draining := true }
     let cap : Nat := 16
     let r : DramReq := reqOf 4 true
     q.pick cap = some r) ∧
    (let q : Subchannel := { reads := [reqOf 3 false], writes := [reqOf 4 true], openRows := [(0, 0)] }
     let r : DramReq := reqOf 3 false
     r ∈ q.candidates) ∧
    (let s : State := subOf0 { reads := [reqOf 3 false] }
     let k : Fin 4 := 0
     let at_ : Nat := 10
     let r : DramReq := reqOf 3 false
     (s.advance at_).subOpen k = true ∧ (s.dmc.sub[k]).pick (max 1 (s.regField 0x80010 24 5)) = some r) ∧
    (let s : State := subOf0 { writes := List.replicate 32 (reqOf 3 true), draining := true }
     let k : Fin 4 := 0
     let at_ : Nat := 10
     let r : DramReq := reqOf 3 true
     (s.advance at_).subOpen k = true ∧ (s.dmc.sub[k]).pick (max 1 (s.regField 0x80010 24 5)) = some r) ∧
    (let s : State := subOf0 { reads := [{ reqOf 5 false with waits := [3] }], writes := [reqOf 3 true] }
     let k : Fin 4 := 0
     let at_ : Nat := 4001
     let r : DramReq := { reqOf 5 false with waits := [3] }
     s.now ≤ at_ ∧ r ∈ (s.dmc.sub[k]).reads ∧ r.promoted = false ∧ 0 < r.limit ∧ r.at_ + 200 * r.limit < at_) ∧
    (let s : State := subOf0 { writes := [reqOf 3 true] }
     let k : Fin 4 := 0
     let at_ : Nat := 4001
     let r : DramReq := reqOf 3 true
     s.now ≤ at_ ∧ r ∈ (s.dmc.sub[k]).writes ∧ r.promoted = false ∧ 0 < r.limit ∧ r.at_ + 200 * r.limit < at_) :=
  ⟨by decide +kernel, by decide +kernel, by decide +kernel, by decide +kernel, by decide +kernel, by decide +kernel, by decide +kernel⟩

theorem test_hyps_ReadsReturnWithTheirCheck :
    (let s : State := subOf0 { issued := [reqOf 3 false] }
     let k : Fin 4 := 0
     let n : Nat := 3
     let r : DramReq := reqOf 3 false
     (s.dmc.sub[k]).issued.find? (fun x => decide (x.seq = n)) = some r ∧ r.bad = false ∧ s.unserved r.addr = false) ∧
    (let s : State := subOf0 { issued := [reqOf 3 false] }
     let k : Fin 4 := 0
     let n : Nat := 3
     let r : DramReq := reqOf 3 false
     (s.dmc.sub[k]).issued.find? (fun x => decide (x.seq = n)) = some r ∧ r.bad = false ∧ s.unserved r.addr = false) ∧
    (let s : State := subOf0 { issued := [reqOf 3 false] }
     let k : Fin 4 := 0
     let n : Nat := 3
     let r : DramReq := reqOf 3 false
     (s.dmc.sub[k]).issued.find? (fun x => decide (x.seq = n)) = some r ∧ s.unserved r.addr = false) ∧
    (let s : State := subOf0 { issued := [{ reqOf 3 false with covered := true, port := 0 }] }
     let k : Fin 4 := 0
     let n : Nat := 3
     let r : DramReq := { reqOf 3 false with covered := true, port := 0 }
     (s.dmc.sub[k]).issued.find? (fun x => decide (x.seq = n)) = some r ∧ s.unserved r.addr = false) ∧
    (let s : State := pressRegs [(0x80020, 1), (0x80104, 1), (0x80108, 1)]
     let c : Fin 2 := 0
     let u : Nat := 0
     s.dmcServes = true ∧ s.regBit 0x80020 0 = true ∧ s.dmc.scrubHeld = false ∧ s.nextScrub c = some u) ∧
    (let s : State := pressRegs [(0x80020, 1), (0x80104, 1), (0x80108, 1)]
     let c : Fin 2 := 0
     let u : Nat := 0
     s.dmcServes = true ∧ s.regBit 0x80020 0 = true ∧ s.dmc.scrubHeld = false ∧ s.nextScrub c = some u ∧ s.unitBad u = false) ∧
    (let s : State := pressRegs [(0x80020, 1), (0x80104, 1), (0x80108, 1)]
     let c : Fin 2 := 0
     let u : Nat := 0
     s.dmcServes = true ∧ s.regBit 0x80020 0 = true ∧ s.dmc.scrubHeld = false ∧ s.nextScrub c = some u ∧ s.unitBad u = false) ∧
    (let s : State := { press with dmc := { press.dmc with badUnits := [64] } }
     let port : Fin 10 := 2
     let u : Nat := 64
     let bs : List Byte := List.replicate 64 1
     u % 64 = 0 ∧ bs.length = 64 ∧ s.blkUp .dmc = true ∧ s.rgnAdmits port u = true ∧ s.unserved u = false) ∧
    (let s : State := press
     let c : Fin 2 := 1
     s.dmcServes = true ∧ s.dmc.chUp[c] = true) ∧
    (let s : State := press
     let c : Fin 2 := 1
     s.dmcServes = true ∧ s.dmc.chUp[c] = true) ∧
    (let s : State := press
     let c : Fin 2 := 1
     s.dmcServes = true ∧ s.dmc.chUp[c] = true) ∧
    (let s : State := press
     let c : Fin 2 := 1
     s.dmcServes = true ∧ s.dmc.chUp[c] = true) :=
  ⟨by decide +kernel, by decide +kernel, by decide +kernel, by decide +kernel, by decide +kernel, by decide +kernel, by decide +kernel,
   by decide +kernel, by decide +kernel, by decide +kernel, by decide +kernel, by decide +kernel⟩

theorem test_hyps_DramIsRefreshedAndRetrained :
    (let s : State := press
     let k : Fin 4 := 3
     let at_ : Nat := 100
     let d : Nat := 600
     s.now ≤ at_ ∧ s.dmcServes = true ∧ s.dmc.chUp[channelOf k] = true) ∧
    (let s : State := press
     let c : Fin 2 := 1
     let r : Fin 2 := 1
     let v : BitVec 3 := 5
     s.dmcServes = true ∧ s.dmc.chUp[c] = true) ∧
    (let s : State := pressRegs [(0x80018, 1)]
     let c : Fin 2 := 0
     s.takesWrite 0x80018 ∧ s.regBit 0x80018 0 = true ∧ s.dmcServes = true ∧ s.dmc.retrain = Vector.replicate 2 false ∧ s.dmc.chUp[c] = true ∧
       s.dmc.chFault[c] = false) ∧
    (let s : State := retraining
     let k : Fin 4 := 0
     let at_ : Nat := 100007
     let last : Bool := true
     s.now ≤ at_ ∧ s.dmcServes = true ∧ s.dmc.retrain[channelOf k] = true ∧ k = s.retrainSub (channelOf k) ∧
       (∀ x ∈ (s.dmc.sub[k]).lastStep, x + 100000 ≤ at_)) ∧
    (let s : State := retraining
     let k : Fin 4 := 0
     let at_ : Nat := 100007
     let last : Bool := false
     s.now ≤ at_ ∧ s.dmcServes = true ∧ s.dmc.retrain[channelOf k] = true ∧ k = s.retrainSub (channelOf k) ∧
       (∀ x ∈ (s.dmc.sub[k]).lastStep, x + 100000 ≤ at_)) :=
  ⟨by decide +kernel, by decide +kernel, by decide +kernel, by decide +kernel, by decide +kernel⟩

theorem test_hyps_CountersSnapshotAndWindow :
    (let s : State := queued up (entryOf 0x78 0 0x1000 0xFF 0 0)
     let n : Fin 16 := 0
     let f : Flight := f5 (entryOf 0x78 0 0x1000 0xFF 0 0) .queued
     s.starts n f ∧ f.e.op = 0x78 ∧ s.blkUp .pmc = true) ∧
    (let s : State := up
     let on : Bool := true
     s.blkUp .pmc = true) ∧
    (let s : State := up
     s.blkUp .pmc = true) ∧
    (let s : State := { up with pmc := { requests := [none], cnt := up.pmc.cnt.set 63 7 } }
     let rest : List (Option Nat) := []
     s.blkUp .pmc = true ∧ s.pmc.requests = none :: rest) ∧
    (let s : State := onChip { up with pmc := { requests := [some 5] } } (entryOf 0x78 0 0x1000 0xFF 0 0) .running
     let f : Flight := f5 (entryOf 0x78 0 0x1000 0xFF 0 0) .running
     let rest : List (Option Nat) := []
     s.numbered ∧ s.blkUp .pmc = true ∧ s.pmc.requests = some f.id :: rest ∧ f ∈ s.hif.flights) ∧
    (let s : State := { up with pmc := { ev := up.pmc.ev.set 0 0x60, winBytes := up.pmc.winBytes.set 0 77 } }
     let k : Fin 64 := 0
     s.blkUp .pmc = true ∧ s.pmc.freeze = false) ∧
    (let s : State := { up with pmc := { ev := up.pmc.ev.set 0 0x61, winBytes := up.pmc.winBytes.set 0 77 } }
     let k : Fin 64 := 0
     s.blkUp .pmc = true ∧ s.pmc.freeze = false) ∧
    (let s : State := up
     let k : Fin 64 := 63
     s.blkUp .pmc = true ∧ s.pmc.freeze = false) ∧
    (let s : State := up
     let k : Fin 64 := 63
     let v : Word := 0x12345
     s.blkUp .pmc = true) ∧
    (let s : State := { up with pmc := { hi := up.pmc.hi.set 63 0xABCD } }
     let k : Fin 64 := 63
     let v : Word := 0x12345
     s.blkUp .pmc = true) ∧
    (let s : State := { up with pmc := { ev := up.pmc.ev.set 0 0x53, throttled := 9 } }
     let k : Fin 64 := 0
     s.blkUp .pmc = true) ∧
    (let s : State := { up with pmc := { freeze := true } }
     let k : Fin 64 := 0
     s.blkUp .pmc = true) ∧
    (let s : State := { up with thm := { up.thm with level := .throttle } }
     let d : Nat := 9
     s.thm.level = .throttle ∧ s.clkRuns 4 = true ∧ s.blkUp .pmc = true ∧ s.pmc.freeze = false) ∧
    (let s : State := up
     let ns : BitVec 30 := 1000
     s.blkUp .pmc = true) :=
  ⟨by decide +kernel, by decide +kernel, by decide +kernel, by decide +kernel, by decide +kernel, by decide +kernel, by decide +kernel,
   by decide +kernel, by decide +kernel, by decide +kernel, by decide +kernel, by decide +kernel, by decide +kernel, by decide +kernel⟩

theorem test_hyps_ThermalLevelsFollowTheSensors :
    (let s : State := up
     let v : Vector (Option Int) 12 := Vector.replicate 12 (some 1520)
     let x : Int := 1520
     let i : Fin 12 := 0
     s.blkUp .thm = true ∧ s.shutdownNow v = false ∧ hottest (Vector.ofFn fun j : Fin 12 => (s.thm.sensor[j]).convert v[j]) = some (x, i)) ∧
    (let s : State := { up with thm := { up.thm with level := .warn } }
     let v : Vector (Option Int) 12 := Vector.replicate 12 (some 1520)
     let x : Int := 1520
     let i : Fin 12 := 0
     s.blkUp .thm = true ∧ s.shutdownNow v = false ∧ hottest (Vector.ofFn fun j : Fin 12 => (s.thm.sensor[j]).convert v[j]) = some (x, i)) ∧
    (let s : State := { up with thm := { up.thm with level := .throttle, hold := some 3 } }
     let v : Vector (Option Int) 12 := Vector.replicate 12 (some 400)
     let x : Int := 400
     let i : Fin 12 := 0
     s.blkUp .thm = true ∧ s.shutdownNow v = false ∧ hottest (Vector.ofFn fun j : Fin 12 => (s.thm.sensor[j]).convert v[j]) = some (x, i)) ∧
    (let s : State := up
     let v : Vector (Option Int) 12 := Vector.replicate 12 (some 1888)
     s.blkUp .thm = true ∧ s.shutdownNow v = true) ∧
    (let s : State := { up with thm := { up.thm with allFaulty := 9 } }
     let v : Vector (Option Int) 12 := Vector.replicate 12 none
     s.blkUp .thm = true ∧ s.shutdownNow v = true) ∧
    (let s : State := rstOf (fun r => { r with asleep := true })
     let x : Int := 1888
     s.rst.asleep = true ∧ 1888 ≤ x ∧ x ≤ 2400) ∧
    (let s : State := { up with regs := [(0x30004, 0x100000)], thm := { up.thm with history := [0, 0, 0, 0, 0, 0, 0, 0], sum := 400, samples := 1 } }
     s.blkUp .thm = true ∧ rateExceeds ((s.thm.mean :: s.thm.history).take 9) s.rateLimit = true ∧ s.regBit 0x30004 20 = true ∧
       s.thm.hold = none) ∧
    (let s : State := up
     let rate : Bool := true
     let v : Word := 0xFFF
     s.takesWrite (if rate then 0x30008 else 0x30004)) ∧
    (let s : State := up
     let rate : Bool := false
     let v : Word := 0x1F5F0A
     s.takesWrite (if rate then 0x30008 else 0x30004)) ∧
    (let s : State := up
     s.takesWrite 0x30010) :=
  ⟨by decide +kernel, by decide +kernel, by decide +kernel, by decide +kernel, by decide +kernel, by decide +kernel, by decide +kernel,
   by decide +kernel, by decide +kernel, by decide +kernel⟩

/-- `press` with some web lines under work on plane 0. -/
def lined (s : State) (w : List LineWork) : State := { s with scr := { s.scr with lines := s.scr.lines.set 0 w } }

/-- `press` with plane 0 changed. -/
def planeOf (p : Plane) : State := { press with fir := { press.fir with plane := press.fir.plane.set 0 p } }

/-- The one segment of link 0 of `press`, at an offset. -/
def segOf (offset : Int) : Seg := ⟨0, 0, 8, 0, 8, offset⟩

/-- A blanked quire as a source of its line. -/
def baseSource : Source := ⟨.quire 5, 1, some (quireOf 3 .blanked []), 0⟩

/-- A launched line for some links. -/
def launchedOf (links : List (Fin 32 × Nat)) : FireLine :=
  { line := 0, stamp := 0, tf := 100, deadline := 0, links := links, sends := true, on := 0xF }

/-- A fetch of line 0 that has started. -/
def buf0 : FetchBuf := ⟨0, 1, [0], [], []⟩

/-- `press` with the gutter of link 0 changed. -/
def gutterOf (g : LinkGutter) : State := { press with csm := { press.csm with link := press.csm.link.set 0 g } }

/-- `press` refilling link 0 for fire line 4 with Q = 2. -/
def refilling : State := { gutterOf { state := .refilling, f0 := 4 } with
  tables := press.tables ++ [(0x4002000, 2)]
  fir := { press.fir with plane := press.fir.plane.set 0 { phase := .run, next := 4 } } }

/-- A board with a T_MIN of 1 tick at R5. -/
def capsOf (bits : BitVec 8) : Caps :=
  { pver := 1, rates := 3, dual := false, portB := false, auth := false, tmin := 1, proc := 1, channels := 8, maxBits := bits, nbuf := 4 }

/-- `press` with links 0 and 1 on plane 0, a fetch running on each. -/
def twoFetches : State := { press with
  tables := press.tables ++ [(0x4000100, 1), (0x4000104, 8), (0x4000108, 8)]
  csm := { press.csm with link := (press.csm.link.set 0 { state := .running, fetch := [buf0] }).set 1 { state := .running, fetch := [buf0] } } }

theorem test_hyps_CrcIsTheReflectedCastagnoli :
    (let bs : List Byte := List.replicate 64 0
     let c : BitVec 32 := 0
     let d : BitVec 32 := 0
     (bs.drop 28).take 4 = leBytes 4 c.toNat ∧ (bs.drop 60).take 4 = leBytes 4 d.toNat) :=
  by decide +kernel

theorem test_hyps_ContoneTonesBecomeLevels :
    (let curve : Nat := 4095
     let g : Int := 127
     (-128 ≤ g) ∧ g ≤ 127) ∧
    (let curve : Nat := 4095
     let g : Int := -128
     (-128 ≤ g) ∧ g ≤ 127) :=
  ⟨by decide +kernel, by decide +kernel⟩

theorem test_hyps_ContoneTonesBecomeLevels_4 : (1 : Nat) ≠ 0 ∧ press.bits = ({ press with now := 1 } : State).bits ∧ (∀ o, o < 131584 → press.viewAt 3 (tableKey 0x0013 o) = ({ press with now := 1 } : State).viewAt 3 (tableKey 0x0013 o)) ∧ (32767 : Nat) < 32768 ∧ (15 : Nat) < 16 := ⟨by decide, rfl, fun _ _ => rfl, by decide, by decide⟩

theorem test_hyps_LinesAreScreenedInRankOrder :
    (let s : State := lined (withQuire (quireOf 3 .blanked [])) [⟨3, [.fill]⟩]
     let p : Fin 8 := 0
     let n : Nat := 3
     let x : Source := baseSource
     let ws : List (Nat × Nat) := (List.range 8).map fun c => (c, 0)
     let u : State := s.readSource x.src n
     s.scrRuns = true ∧ s.slotOpen p n = true ∧ (u.sourcesAt p n).find? (fun y => decide (y.src = x.src)) = some x ∧
       u.hasWritten p n x.src = false ∧ u.lowerWritten p n x.rank = true ∧ u.sourceReady x.src n = true ∧ u.sourceWrites p n x = some ws) ∧
    (let s : State := withQuire (quireOf 3 .blanked [])
     let p : Fin 8 := 0
     let n : Nat := 3
     let x : Source := baseSource
     let u : State := s.readSource x.src n
     (u.sourcesAt p n).find? (fun y => decide (y.src = x.src)) = some x ∧
       ((u.hasWritten p n x.src = true ∨ u.lowerWritten p n x.rank = false ∨ u.sourceReady x.src n = false))) ∧
    (let s : State := lined press [⟨3, [.fill]⟩]
     let p : Fin 8 := 0
     let n : Nat := 3
     let x : Source := ⟨.fill, 0, none, 0⟩
     let u : State := s.readSource x.src n
     (u.sourcesAt p n).find? (fun y => decide (y.src = x.src)) = some x ∧
       ((u.hasWritten p n x.src = true ∨ u.lowerWritten p n x.rank = false ∨ u.sourceReady x.src n = false))) :=
  ⟨by decide +kernel, by decide +kernel, by decide +kernel⟩

theorem test_hyps_BitDepthIsWrittenBetweenJobs :
    (let s : State := { up with plk := { link := up.plk.link.set 2 { st := .lock, rate := .r5, caps := some (capsOf 1) } } }
     let v : Word := 4
     s.takesWrite 0xC0000 ∧ s.printing = false ∧ 1 ≤ bitsOf v.toNat 0 3 ∧ bitsOf v.toNat 0 3 ≤ 4 ∧
       (∀ n ∈ s.shortLinks (bitsOf v.toNat 0 3), (s.plk.link[n]).st ≠ .run) ∧ s.shortLinks (bitsOf v.toNat 0 3) = [2] ∧
       bitsOf v.toNat 0 3 ≠ s.bits) ∧
    (let s : State := up
     let v : Word := 1
     s.takesWrite 0xC0000 ∧ s.printing = false ∧ 1 ≤ bitsOf v.toNat 0 3 ∧ bitsOf v.toNat 0 3 ≤ 4 ∧
       (∀ n ∈ s.shortLinks (bitsOf v.toNat 0 3), (s.plk.link[n]).st ≠ .run)) ∧
    (let s : State := press
     let v : Word := 2
     s.takesWrite 0xC0000 ∧ ((s.printing = true ∨ bitsOf v.toNat 0 3 = 0 ∨ 4 < bitsOf v.toNat 0 3))) ∧
    (let s : State := up
     let v : Word := 0
     s.takesWrite 0xC0000 ∧ ((s.printing = true ∨ bitsOf v.toNat 0 3 = 0 ∨ 4 < bitsOf v.toNat 0 3))) ∧
    (let s : State := up
     let v : Word := 5
     s.takesWrite 0xC0000 ∧ ((s.printing = true ∨ bitsOf v.toNat 0 3 = 0 ∨ 4 < bitsOf v.toNat 0 3))) :=
  ⟨by decide +kernel, by decide +kernel, by decide +kernel, by decide +kernel, by decide +kernel⟩

theorem test_hyps_ColumnsPrintThroughALiveSlot :
    (let v : TableView := State.liveView { up with tables := [(0x1000002, 0x1C)] }
     let coll : Bool := true
     let live : BitVec 32 := 0
     let col : Nat := 0
     let x : Nat := 5
     let y : Nat := 6
     let k : Nat := 0
     chosenSlot v coll live col x y = some k) ∧
    (let v : TableView := State.liveView { up with tables := [(0x1000002, 0x1C)] }
     let coll : Bool := true
     let live : BitVec 32 := 0
     let col : Nat := 0
     let x : Nat := 5
     let y : Nat := 6
     slotLive v coll live (slotWord v col (patternSelect v (viewNum v 0x0001 (16 * col + 12) 1) x y)) = true) :=
  ⟨by decide +kernel, by decide +kernel⟩

theorem test_hyps_LinesAreFetchedForTheGutter :
    (let s : State := lined press [⟨0, [.fill]⟩]
     let n : Fin 32 := 0
     let j : Fin 16 := 0
     let p : Fin 8 := 0
     let g : Seg := segOf 0
     let f : Nat := 0
     s.segNow n j = some (p, g) ∧ s.csmRuns = true ∧ (s.csm.link[n]).state ≠ .silent ∧ s.planePrints p = true ∧ s.nextFireFetch n p j = some f ∧
       s.readsNothing p g f = false ∧ s.canFetch p g f = true ∧
       firstServed ⟨s.fetchDeadline p f, n.val⟩ ((List.finRange 32).flatMap s.fetchCands) = true ∧ s.fetchBuf n f = none) ∧
    (let s : State := { press with tables := press.tables ++ [(0x400000C, 5)] }
     let n : Fin 32 := 0
     let j : Fin 16 := 0
     let p : Fin 8 := 0
     let g : Seg := segOf 5
     let f : Nat := 0
     s.segNow n j = some (p, g) ∧ s.csmRuns = true ∧ (s.csm.link[n]).state ≠ .silent ∧ s.planePrints p = true ∧ s.nextFireFetch n p j = some f ∧
       (((f : Int) - g.offset < 0 ∨ s.pastClose p ((f : Int) - g.offset) = true)) ∧
       firstServed ⟨s.fetchDeadline p f, n.val⟩ ((List.finRange 32).flatMap s.fetchCands) = true) ∧
    (let s : State := planeOf { phase := .closing, origin := some 0, next := 4, close := some ⟨3, []⟩ }
     let n : Fin 32 := 0
     let j : Fin 16 := 0
     let p : Fin 8 := 0
     let g : Seg := segOf 0
     let f : Nat := 4
     s.segNow n j = some (p, g) ∧ s.csmRuns = true ∧ (s.csm.link[n]).state ≠ .silent ∧ s.planePrints p = true ∧ s.nextFireFetch n p j = some f ∧
       (((f : Int) - g.offset < 0 ∨ s.pastClose p ((f : Int) - g.offset) = true)) ∧
       firstServed ⟨s.fetchDeadline p f, n.val⟩ ((List.finRange 32).flatMap s.fetchCands) = true) ∧
    (let s : State := gutterOf { state := .running, fetch := [buf0] }
     let n : Fin 32 := 0
     let j : Fin 16 := 0
     let p : Fin 8 := 0
     let g : Seg := segOf 0
     let b : FetchBuf := buf0
     s.segNow n j = some (p, g) ∧ s.csmRuns = true ∧ (s.csm.link[n]).fetch.find? (fun b => b.started.contains j && !b.done.contains j) = some b ∧
       firstServed ⟨s.fetchDeadline p b.line, n.val⟩ ((List.finRange 32).flatMap s.fetchesRunning) = true) ∧
    (let s : State := twoFetches
     let n : Fin 32 := 1
     let j : Fin 16 := 0
     let p : Fin 8 := 0
     let g : Seg := segOf 0
     let b : FetchBuf := buf0
     s.segNow n j = some (p, g) ∧ (s.csm.link[n]).fetch.find? (fun b => b.started.contains j && !b.done.contains j) = some b ∧
       firstServed ⟨s.fetchDeadline p b.line, n.val⟩ ((List.finRange 32).flatMap s.fetchesRunning) = false) :=
  ⟨by decide +kernel, by decide +kernel, by decide +kernel, by decide +kernel, by decide +kernel⟩

theorem test_hyps_GuttersEmitRefillAndGate :
    (let s : State := planeOf { phase := .run, launched := [launchedOf [(0, 0)]] }
     let n : Fin 32 := 0
     let at_ : Nat := 10
     let p : Fin 8 := 0
     let l : FireLine := launchedOf [(0, 0)]
     let u : State := s.advance at_
     u.lineDue n = some (p, l) ∧ u.blkUp .csm = true ∧ u.clkRuns 0 = true ∧ u.clkRuns 4 = true ∧ (u.csm.link[n]).state = .running ∧
       l.on.getLsbD n.val = true ∧ (u.plk.link[n]).st = .run ∧ u.linkClkRuns n = true ∧ (u.csm.link[n]).owed = [] ∧ l.sends = true) ∧
    (let s : State := planeOf { phase := .run, launched := [launchedOf [(1, 0), (2, 0)]] }
     let n : Fin 32 := 1
     let at_ : Nat := 10
     let p : Fin 8 := 0
     let l : FireLine := launchedOf [(1, 0), (2, 0)]
     let u : State := s.advance at_
     u.lineDue n = some (p, l) ∧ u.blkUp .csm = true ∧ u.clkRuns 0 = true ∧ u.clkRuns 4 = true ∧
       (((u.csm.link[n]).state = .silent ∨ (u.csm.link[n]).state = .refilling)) ∧ (∃ k ∈ l.links, k.1 ≠ n)) ∧
    (let s : State := gutterOf {}
     let n : Fin 32 := 0
     let p : Fin 8 := 0
     s.refillPlane n = some p ∧ s.csmRuns = true ∧ (s.csm.link[n]).state = .silent) ∧
    (let s : State := refilling
     let n : Fin 32 := 0
     let p : Fin 8 := 0
     s.refillPlane n = some p ∧ s.csmRuns = true ∧ (s.csm.link[n]).state = .refilling ∧
       ((∀ f ∈ s.refillNeeds n, ∀ x ∈ s.refillLines n p f, s.refillBlocked p x.2.2 = true ∨ s.lineReadable p x.2.2 = true ∧
       s.unitsServed (s.fetchUnits (s.reg (planeCfg p)) p x.2.1 x.2.2) = true)) ∧ s.refillNeeds 0 = [2, 3]) ∧
    (let s : State := press
     let v : Word := 1
     s.takesWrite 0x100014 ∧ v.getLsbD 0 = true ∧ s.gateOpen 0 = true) ∧
    (let s : State := press
     let v : Word := 1
     s.takesWrite 0x100018) :=
  ⟨by decide +kernel, by decide +kernel, by decide +kernel, by decide +kernel, by decide +kernel, by decide +kernel⟩

/-- Encoder channel 0, the main channel, enabled with its index on, 250 lines a revolution, and a channel record. -/
def encoder (c : Channel) : State := { press with
  regs := [(0xC0110, 4), (0x140400, 0xA0005), (0x140404, 250), (0x140440, 1)], pos := { ch := press.pos.ch.set 0 c } }

/-- A device whose main channel reads a speed, with an edge at tick 0 and one plane record. -/
def running (v : Int) (p : Plane) : State := { press with
  pos := { ch := press.pos.ch.set 0 { valid := true, speed := (v, 1), lastEdge := some 0 } }
  fir := { edge := some 0, plane := press.fir.plane.set 0 p } }

/-- A committed line whose only link is link 0, its deadlines at tick 0. -/
def lineAt0 : FireLine := { line := 0, stamp := 500, tf := 100, deadline := 0, links := [(0, 0)], sends := true }

/-- A plane in RUN with one committed line. -/
def oneLine : Plane := { phase := .run, origin := some 0, commit := 1, committed := [lineAt0] }

theorem test_hyps_EncodersCountAndCheckTheIndex :
    (let s : State := encoder { pair := some 0 }
     let k : Fin 8 := 0
     let x : EncoderPins := ⟨2, 1, 1⟩
     s.regField (posReg k 0) 8 6 < x.shownA ∧ s.regField (posReg k 0) 8 6 < x.shownB) ∧
    (let s : State := encoder { pair := some 0 }
     let k : Fin 8 := 0
     let x : EncoderPins := ⟨2, 0, 0⟩
     x.shownA ≤ s.regField (posReg k 0) 8 6 ∧ x.shownB ≤ s.regField (posReg k 0) 8 6) ∧
    (let s : State := encoder { pair := some 0, step := -1, valid := true }
     let k : Fin 8 := 0
     let x : EncoderPins := ⟨2, 1, 1⟩
     let pair : BitVec 2 := 2
     let old : BitVec 2 := 0
     let at_ : Nat := 10
     let n : Int := 1
     let u : State := s.advance at_
     let d : Int := (if u.regBit (posReg k 0) 1 then -n else n)
     u.channelRuns k = true ∧ (u.pos.ch[k]).pair = some old ∧ u.filterPair k x = some pair ∧ pairStep old pair = some n ∧ d ≠ 0 ∧
       k = u.mainChannel ∧ u.blkUp .pos = true ∧ u.regBit (posReg 1 0) 0 = true) ∧
    (let s : State := encoder { pair := some 2, step := 1 }
     let k : Fin 8 := 0
     let x : EncoderPins := ⟨0, 1, 1⟩
     let pair : BitVec 2 := 0
     let old : BitVec 2 := 2
     let at_ : Nat := 10
     let n : Int := -1
     let u : State := s.advance at_
     let d : Int := (if u.regBit (posReg k 0) 1 then -n else n)
     u.channelRuns k = true ∧ (u.pos.ch[k]).pair = some old ∧ u.filterPair k x = some pair ∧ pairStep old pair = some n ∧ d ≠ 0) ∧
    (let s : State := encoder { pair := some 0 }
     let k : Fin 8 := 0
     let x : EncoderPins := ⟨3, 1, 1⟩
     let pair : BitVec 2 := 3
     let old : BitVec 2 := 0
     let at_ : Nat := 10
     let u : State := s.advance at_
     u.channelRuns k = true ∧ (u.pos.ch[k]).pair = some old ∧ u.filterPair k x = some pair ∧ pairStep old pair = none) ∧
    (let s : State := encoder { pair := some 0 }
     let k : Fin 8 := 7
     let x : EncoderPins := ⟨2, 1, 1⟩
     let at_ : Nat := 10
     let u : State := s.advance at_
     (u.channelRuns k = false ∨ u.filterPair k x = none)) ∧
    (let s : State := encoder {}
     let k : Fin 8 := 0
     let x : EncoderPins := ⟨2, 0, 1⟩
     let at_ : Nat := 10
     let u : State := s.advance at_
     (u.channelRuns k = false ∨ u.filterPair k x = none)) ∧
    (let s : State := encoder { step := 1, count := 1010, ref := some (0, 1), run := 1 }
     let k : Fin 8 := 0
     let z : IndexPin := ⟨true, 1⟩
     let at_ : Nat := 10
     let u : State := s.advance at_
     u.channelRuns k = true ∧ u.regField (posReg k 0) 8 6 < z.shown ∧ u.regBit (posReg k 0) 2 = true ∧ u.revCounts k ≠ 0 ∧
       (u.pos.ch[k]).step = (if z.rising != u.regBit (posReg k 0) 3 then 1 else -1) ∧ (1 : Int) * diff48 1010 0 - u.revCounts 0 = u.tol 0) ∧
    (let s : State := encoder { step := 1, count := 1011, ref := some (0, 1), run := 1 }
     let k : Fin 8 := 0
     let z : IndexPin := ⟨true, 1⟩
     let at_ : Nat := 10
     let u : State := s.advance at_
     u.channelRuns k = true ∧ u.regField (posReg k 0) 8 6 < z.shown ∧ u.regBit (posReg k 0) 2 = true ∧ u.revCounts k ≠ 0 ∧
       (u.pos.ch[k]).step = (if z.rising != u.regBit (posReg k 0) 3 then 1 else -1) ∧ (1 : Int) * diff48 1011 0 - u.revCounts 0 = u.tol 0 + 1) ∧
    (let s : State := encoder { step := 1, count := 1011, ref := some (0, 1), run := 0 }
     let k : Fin 8 := 0
     let z : IndexPin := ⟨true, 1⟩
     let at_ : Nat := 10
     let u : State := s.advance at_
     u.channelRuns k = true ∧ u.regField (posReg k 0) 8 6 < z.shown ∧ u.regBit (posReg k 0) 2 = true ∧ u.revCounts k ≠ 0 ∧
       (u.pos.ch[k]).step = (if z.rising != u.regBit (posReg k 0) 3 then 1 else -1)) ∧
    (let s : State := encoder { step := 1 }
     let k : Fin 8 := 0
     let z : IndexPin := ⟨true, 1⟩
     let at_ : Nat := 10
     let u : State := s.advance at_
     u.channelRuns k = true ∧ u.regField (posReg k 0) 8 6 < z.shown ∧ u.regBit (posReg k 0) 2 = true ∧ u.revCounts k ≠ 0 ∧
       (u.pos.ch[k]).step = (if z.rising != u.regBit (posReg k 0) 3 then 1 else -1) ∧ (u.pos.ch[k]).ref = none) ∧
    (let s : State := encoder { step := 1, count := 1011, ref := some (0, 1) }
     let k : Fin 8 := 0
     let r : Nat := 0
     let d : Int := 1
     s.channelRuns k = true ∧ s.regBit (posReg k 0) 2 = true ∧ s.revCounts k ≠ 0 ∧ (s.pos.ch[k]).ref = some (r, d) ∧
       s.revCounts k + s.tol k + 1 ≤ d * diff48 (s.pos.ch[k]).count r) ∧
    (let s : State := up
     let k : Fin 8 := 7
     let v : Word := 5
     let c : Instr := .posChannelEnable 7 5
     (c = .posChannelEnable k v ∨ c = .posZEnWrite k v) ∧ s.takesWrite (posReg k 0) ∧ v.getLsbD 0 = true ∧ s.regBit (posReg k 0) 0 = false) ∧
    (let s : State := up
     let k : Fin 8 := 7
     let v : Word := 5
     let c : Instr := .posZEnWrite 7 5
     (c = .posChannelEnable k v ∨ c = .posZEnWrite k v) ∧ s.takesWrite (posReg k 0)) ∧
    (let s : State := { up with pos := { ch := up.pos.ch.set 0 { ref := some (4, 1) } } }
     let k : Fin 8 := 0
     let v : Word := 0xFFFFFFFF
     s.takesWrite (posReg k 4)) ∧
    (let s : State := { up with pos := { ch := up.pos.ch.set 0 { fault := true } } }
     let k : Fin 8 := 0
     s.takesWrite (posReg k 0x14)) ∧
    (let s : State := { up with pos := { ch := up.pos.ch.set 7 { count := 9 } } }
     let v : Word := 7
     s.takesWrite 0x140000 ∧ s.printing = false) :=
  ⟨by decide +kernel, by decide +kernel, by decide +kernel, by decide +kernel, by decide +kernel, by decide +kernel, by decide +kernel,
   by decide +kernel, by decide +kernel, by decide +kernel, by decide +kernel, by decide +kernel, by decide +kernel, by decide +kernel,
   by decide +kernel, by decide +kernel, by decide +kernel⟩

theorem test_hyps_SpeedAndStretchAreMeasured :
    (let e : Nat := 40
     let m : Nat := 3
     let w : Nat := 256
     let dir : Int := 1
     let now : Nat := 180
     1 ≤ e ∧ (m + 1) * e ≤ now ∧ now ≤ (m + 2) * e) ∧
    (let edges : List Nat := [160, 120, 80]
     let w : Nat := 256
     let now : Nat := 200
     let d : Nat := 80
     let dir : Int := 1
     let v : Int := 800000000
     (dir = 1 ∨ dir = -1) ∧ runSpeed edges dir w now = some (v, d)) ∧
    (let edges : List Nat := [160, 120, 80]
     let w : Nat := 256
     let now : Nat := 1000
     let d : Nat := 840
     let dir : Int := -1
     let v : Int := -400000000
     (dir = 1 ∨ dir = -1) ∧ runSpeed edges dir w now = some (v, d)) ∧
    (let s : State := encoder { edges := [160, 120], step := 1 }
     let at_ : Nat := 1000
     let u : State := s.advance at_
     u.blkUp .pos = true ∧ u.clkRuns 0 = true) ∧
    (let s : State := encoder {}
     let at_ : Nat := 1000
     let u : State := s.advance at_
     u.blkUp .pos = true ∧ u.clkRuns 0 = true) ∧
    (let s : State := encoder { edges := [160, 120], step := 1, quiet := (0, 1) }
     let k : Fin 8 := 0
     let at_ : Nat := 3000000
     let u : State := s.advance at_
     u.channelRuns k = true ∧ u.blkUp .pos = true) ∧
    (let s : State := encoder { edges := [160, 120], step := 1, quiet := (0, 1) }
     let k : Fin 8 := 0
     let at_ : Nat := 1999995
     let u : State := s.advance at_
     u.channelRuns k = true ∧ u.blkUp .pos = true) ∧
    (let s : State := encoder { window := some (0, 0, 8), count := 256 }
     let k : Fin 8 := 0
     let m : Nat := 0
     let a : Nat := 0
     let l : Nat := 8
     let dm : Int := diff48 (s.pos.ch[s.mainChannel]).count m
     s.blkUp .pos = true ∧ s.clkRuns 0 = true ∧ (s.pos.ch[k]).window = some (m, a, l) ∧ ((2 ^ (l + 32) : Nat) : Int) ≤ dm * s.ratio) ∧
    (let s : State := encoder { window := some (0, 0, 8), count := 255 }
     let k : Fin 8 := 0
     let m : Nat := 0
     let a : Nat := 0
     let l : Nat := 8
     let dm : Int := diff48 (s.pos.ch[s.mainChannel]).count m
     s.blkUp .pos = true ∧ s.clkRuns 0 = true ∧ (s.pos.ch[k]).window = some (m, a, l) ∧ dm * s.ratio < ((2 ^ (l + 32) : Nat) : Int)) ∧
    (let r : Nat := 4294967296
     0 < r) :=
  ⟨by decide +kernel, by decide +kernel, by decide +kernel, by decide +kernel, by decide +kernel, by decide +kernel, by decide +kernel,
   by decide +kernel, by decide +kernel, by decide +kernel⟩

theorem test_hyps_LinesAreCommittedLaunchedOrStopThePlane :
    (let s : State := running 10000 { phase := .run, origin := some 0 }
     let p : Fin 8 := 0
     let at_ : Nat := 0
     let v : Int × Nat := (10000, 1)
     let rel : Int := 0
     let u : State := s.advance at_
     u.blkUp .fir = true ∧ u.clkRuns 0 = true ∧ u.twn.yielded = false ∧ u.twn.role = .single ∧ u.forwardSpeed = some v ∧
       u.predict p (u.fir.plane[p]).commit v = some rel ∧ rel ≤ u.launchLead p ∧ (u.fir.plane[p]).mayCommit = true) ∧
    (let s : State := running 10000 { phase := .armed, origin := some 0 }
     let p : Fin 8 := 0
     let at_ : Nat := 0
     let v : Int × Nat := (10000, 1)
     let rel : Int := 0
     let u : State := s.advance at_
     u.blkUp .fir = true ∧ u.clkRuns 0 = true ∧ u.twn.yielded = false ∧ u.twn.role = .single ∧ u.forwardSpeed = some v ∧
       u.predict p (u.fir.plane[p]).commit v = some rel ∧ rel ≤ u.launchLead p ∧ (u.fir.plane[p]).mayCommit = true ∧
       (u.fir.plane[p]).phase = .armed ∧ (u.fir.plane[p]).close = none) ∧
    (let s : State := running 1000000 { phase := .run, origin := some 0 }
     let p : Fin 8 := 0
     let at_ : Nat := 0
     let v : Int × Nat := (1000000, 1)
     let rel : Int := 0
     let u : State := s.advance at_
     u.blkUp .fir = true ∧ u.clkRuns 0 = true ∧ u.twn.yielded = false ∧ u.twn.role = .single ∧ u.forwardSpeed = some v ∧
       u.predict p (u.fir.plane[p]).commit v = some rel ∧ rel ≤ u.launchLead p ∧ (u.fir.plane[p]).mayCommit = true ∧
       32768 < u.predictCoord p (u.dueStamp p rel) v - ((u.fir.plane[p]).commit * 65536 : Nat) ∧ (u.fir.plane[p]).cause.getLsbD 1 = false ∧
       ∀ q : Fin 8, u.lineDueNow q = none) ∧
    (let s : State := running 10000 { phase := .run, origin := some 0, behind := true }
     let p : Fin 8 := 0
     let at_ : Nat := 0
     let u : State := s.advance at_
     (u.fir.plane[p]).mayCommit = false) ∧
    (let s : State := running 10000 oneLine
     let p : Fin 8 := 0
     let rel : Int := 0
     (s.fir.plane[p]).committed.getLast? = some lineAt0) ∧
    (let s : State := { running 10000 oneLine with csm := {} }
     let p : Fin 8 := 0
     let at_ : Nat := 5
     let l : FireLine := lineAt0
     let ls : List FireLine := []
     let u : State := s.advance at_
     u.blkUp .fir = true ∧ u.clkRuns 0 = true ∧ u.twn.role = .single ∧ (u.fir.plane[p]).committed = l :: ls ∧ diff48 l.deadline u.fireTick ≤ 0 ∧
       (∀ k ∈ l.links, u.linkLate p k.1 l.line = false) ∧ u.clkRuns 4 = true ∧ l.links ≠ []) ∧
    (let s : State := running 10000 oneLine
     let p : Fin 8 := 0
     let at_ : Nat := 5
     let l : FireLine := lineAt0
     let ls : List FireLine := []
     let u : State := s.advance at_
     u.blkUp .fir = true ∧ u.clkRuns 0 = true ∧ u.twn.role = .single ∧ (u.fir.plane[p]).committed = l :: ls ∧ diff48 l.deadline u.fireTick ≤ 0 ∧
       ((∃ k ∈ l.links, u.linkLate p k.1 l.line = true) ∧ (∀ q : Fin 8, q ≠ p → u.lineDueNow q = none) ∧
       ((u.fir.plane[p]).cause).getLsbD 0 = false)) ∧
    (let s : State := press
     let at_ : Nat := 1000
     let u : State := s.advance at_
     u.blkUp .fir = true ∧ u.clkRuns 0 = true) ∧
    (let s : State := { press with fir := { press.fir with realign := true } }
     let at_ : Nat := 1000
     let u : State := s.advance at_
     u.blkUp .fir = true ∧ u.clkRuns 0 = true ∧ u.fir.realign = true) :=
  ⟨by decide +kernel, by decide +kernel, by decide +kernel, by decide +kernel, by decide +kernel, by decide +kernel, by decide +kernel,
   by decide +kernel, by decide +kernel⟩

theorem test_hyps_PlanesOpenStopResumeAndClose :
    (let s : State := queued up (entryOf 0x60 0 0 1 0 0)
     let n : Fin 16 := 0
     let f : Flight := f5 (entryOf 0x60 0 0 1 0 0) .queued
     s.starts n f ∧ f.e.op = 0x60 ∧ (∀ b ∈ f.e.blocks, s.blkUp b = true) ∧ (∀ q : Fin 8, s.lineDueNow q = none) ∧ f.e.planes = [0] ∧
       s.direction = some (0, false) ∧ s.pins.fireEnable = false ∧ s.twn.role = .single) ∧
    (let s : State := press
     let v : Word := 1
     let c : Instr := .firCtrlStopWrite 1
     (c = .firCtrlStopWrite v ∨ c = .firCtrlResumeFwd v) ∧ s.takesWrite 0x160010 ∧ (∀ q : Fin 8, s.lineDueNow q = none) ∧
       (1 : Word).getLsbD 0 = true ∧ s.fir.stop.getLsbD 0 = false ∧ s.planePrints 0 = true ∧ ((s.fir.plane[0]).cause).getLsbD 5 = false) ∧
    (let s : State := planeOf { phase := .hold, origin := some 0 }
     let v : Word := 0x100
     let c : Instr := .firCtrlResumeFwd 0x100
     (c = .firCtrlStopWrite v ∨ c = .firCtrlResumeFwd v) ∧ s.takesWrite 0x160010 ∧ (∀ q : Fin 8, s.lineDueNow q = none) ∧
       v.extractLsb' 0 8 = s.fir.stop ∧ v.extractLsb' 8 8 = BitVec.twoPow 8 0 ∧ (s.fir.plane[0]).cause = 0 ∧ (s.fir.plane[0]).close = none) ∧
    (let s : State := { press with fir := { press.fir with stop := 0x80 } }
     let v : Word := 0
     let c : Instr := .firCtrlStopWrite 0
     (c = .firCtrlStopWrite v ∨ c = .firCtrlResumeFwd v) ∧ s.takesWrite 0x160010 ∧ (∀ q : Fin 8, s.lineDueNow q = none)) ∧
    (let s : State := queued press (entryOf 0x61 0 9 1 0 0)
     let n : Fin 16 := 0
     let f : Flight := f5 (entryOf 0x61 0 9 1 0 0) .queued
     s.starts n f ∧ f.e.op = 0x61 ∧ (∀ b ∈ f.e.blocks, s.blkUp b = true) ∧ f.e.planes = [0] ∧ (s.fir.plane[0]).phase = .run) ∧
    (let s : State := queued (planeOf { phase := .armed, origin := some 0 }) (entryOf 0x61 0 9 1 0 0)
     let n : Fin 16 := 0
     let f : Flight := f5 (entryOf 0x61 0 9 1 0 0) .queued
     s.starts n f ∧ f.e.op = 0x61 ∧ (∀ b ∈ f.e.blocks, s.blkUp b = true) ∧ (s.fir.plane[0]).phase = .armed ∧ (s.fir.plane[0]).close = none) ∧
    (let s : State := queued up (entryOf 0x61 0 9 0xFF 0 0)
     let n : Fin 16 := 0
     let f : Flight := f5 (entryOf 0x61 0 9 0xFF 0 0) .queued
     s.starts n f ∧ f.e.op = 0x61 ∧ (∀ b ∈ f.e.blocks, s.blkUp b = true) ∧ (∀ p ∈ f.e.planes, (s.fir.plane[p]).phase = .idle) ∧
       ∀ p : Fin 8, (s.fir.plane[p]).close = none) :=
  ⟨by decide +kernel, by decide +kernel, by decide +kernel, by decide +kernel, by decide +kernel, by decide +kernel, by decide +kernel⟩

/-- `up` with link 3 and registers. -/
def linkIn (l : Link) (regs : RegFile) : State := { up with regs := regs, plk := { link := up.plk.link.set 3 l } }

/-- A board's CAP word: version 1, both rates, a secure element, 2 bits a channel, 4 buffers. -/
def capWord : BitVec 96 := 0x040200080001000104030101

/-- A frame with its CRC. -/
def frameOf (w : BitVec 96) : LinkFrame := ⟨crc32c (leBytes 12 w.toNat) ++ w, true⟩

/-- An exchange that lacks the last group of its response. -/
def authOf (policy : Nat) : AuthRun :=
  ⟨0, policy, 0, (48, 0) :: ((List.range 2).map fun i => (32 + i, 0)) ++ (List.range 5).map fun i => (64 + i, 0)⟩

/-- The exchange with its last group. -/
def authDone (a : AuthRun) : AuthRun := { a with got := (69, 0) :: a.got.filter fun g => decide (g.1 ≠ 69) }

/-- A bank for LOAD. -/
def loadBank (bank : Option Bool) : Upload := ⟨.load, [(0, 1)], bank, false, none⟩

/-- LINK_CTRL on link 3. -/
def ctrlOf (k : BitVec 64) : Entry := entryOf 0x71 3 k 0 0 0

/-- A ring lock's or LOCK entry's ARM in chamber 0. -/
def askOf (who : LockFor) (kind at_ : Nat) (ring : Bool) : LockAsk := { who := who, arm := true, kind := kind, plane := 0, at_ := at_, ring := ring }

/-- `up` with chamber 0. -/
def chamberIn (c : Chamber) : State := { up with lck := { ch := up.lck.ch.set 0 c } }

/-- A ring lock with two members to answer. -/
def ringOf (waiting : List (BitVec 10)) : RingLock :=
  { waiting := waiting, all := [9, 10], committed := false, outcomes := [9, 10], failed := false, ask := askOf (.entry 5) 2 1000000 true }

theorem test_hyps_LinksTrainStepByStep :
    (let s : State := linkIn { st := .t0 } []
     let n : Fin 32 := 3
     let x : LinkFrame := ⟨0, true⟩
     crc32c ((leBytes 16 x.bytes.toNat).take 12) ≠ x.bytes.extractLsb' 96 32) ∧
    (let s : State := linkIn { st := .t0 } []
     let n : Fin 32 := 3
     let x : LinkFrame := frameOf capWord
     crc32c ((leBytes 16 x.bytes.toNat).take 12) = x.bytes.extractLsb' 96 32) ∧
    (let s : State := linkIn { st := .t0, seen := some (capWord, 2), maxRate := 2 } [(0x183000, 0xD)]
     let n : Fin 32 := 3
     let x : LinkFrame := frameOf capWord
     let w : BitVec 96 := capWord
     frameContent x.bytes x.clean = some w ∧ (s.plk.link[n]).st = .t0 ∧ w.extractLsb' 0 8 = 1 ∧ (s.plk.link[n]).seen = some (w, 2) ∧
       (s.plk.link[n]).bestRate (parseCaps w) = some .r10 ∧ (parseCaps w).pver = 1 ∧ s.bits ≤ (parseCaps w).maxBits.toNat ∧
       3 ≤ (parseCaps w).nbuf.toNat) ∧
    (let s : State := linkIn { st := .t0, seen := some (0x040200080001000104030201, 2), maxRate := 2 } []
     let n : Fin 32 := 3
     let x : LinkFrame := frameOf 0x040200080001000104030201
     let w : BitVec 96 := 0x040200080001000104030201
     frameContent x.bytes x.clean = some w ∧ (s.plk.link[n]).st = .t0 ∧ w.extractLsb' 0 8 = 1 ∧ (parseCaps w).pver ≠ 1) ∧
    (let s : State := linkIn { st := .t0, seen := some (capWord, 1) } []
     let n : Fin 32 := 3
     let x : LinkFrame := frameOf capWord
     let w : BitVec 96 := capWord
     frameContent x.bytes x.clean = some w ∧ (s.plk.link[n]).st = .t0 ∧ w.extractLsb' 0 8 = 1) ∧
    (let s : State := linkIn { st := .rate, goRate := some .r10 } []
     let n : Fin 32 := 3
     let x : LinkFrame := frameOf 0x000203
     let w : BitVec 96 := 0x000203
     let r : LinkRate := .r10
     frameContent x.bytes x.clean = some w ∧ (s.plk.link[n]).st = .rate ∧ (s.plk.link[n]).goRate = some r ∧ w.extractLsb' 0 8 = 3 ∧
       w.extractLsb' 8 8 = 2) ∧
    (let s : State := linkIn { st := .rate, goRate := some .r10 } []
     let n : Fin 32 := 3
     let x : LinkFrame := frameOf 0x000103
     let w : BitVec 96 := 0x000103
     let r : LinkRate := .r10
     frameContent x.bytes x.clean = some w ∧ (s.plk.link[n]).st = .rate ∧ (s.plk.link[n]).goRate = some r) ∧
    (let s : State := linkIn { st := .rate } []
     let n : Fin 32 := 3
     ((s.plk.link[n]).st = .t0 ∨ (s.plk.link[n]).st = .rate)) ∧
    (let s : State := linkIn { st := .t0 } []
     let n : Fin 32 := 3
     ((s.plk.link[n]).st = .t0 ∨ (s.plk.link[n]).st = .rate)) ∧
    (let s : State := linkIn { st := .lock } []
     let n : Fin 32 := 3
     let before : List (BitVec 2) := [0]
     let last : List (BitVec 2) := List.replicate 64 1
     last.length = 64 ∧ (s.plk.link[n]).st = .lock ∧ (∀ h ∈ last, h = 1 ∨ h = 2)) ∧
    (let s : State := linkIn { st := .lock, prbsMs := 7 } []
     let n : Fin 32 := 3
     let before : List (BitVec 2) := []
     let last : List (BitVec 2) := List.replicate 64 2
     last.length = 64 ∧ (s.plk.link[n]).st = .lock) ∧
    (let s : State := linkIn { st := .lock } []
     let n : Fin 32 := 3
     let before : List (BitVec 2) := []
     let last : List (BitVec 2) := List.replicate 63 1 ++ [3]
     last.length = 64 ∧ (s.plk.link[n]).st = .lock ∧ (∃ h ∈ last, h ≠ 1 ∧ h ≠ 2)) ∧
    (let s : State := linkIn { st := .lock } []
     let n : Fin 32 := 3
     (s.plk.link[n]).st = .lock) ∧
    (let s : State := linkIn { st := .lock, lockFails := 2, rate := .r10 } []
     let n : Fin 32 := 3
     (s.plk.link[n]).st = .lock) ∧
    (let s : State := linkIn { st := .lock, lockFails := 2, rate := .r5 } []
     let n : Fin 32 := 3
     (s.plk.link[n]).st = .lock) ∧
    (let s : State := linkIn { st := .prbs, prbsDev := 65535 } []
     let n : Fin 32 := 3
     let e : Nat := 1
     (s.plk.link[n]).st = .prbs ∧ (s.plk.link[n]).prbsOver = false) ∧
    (let s : State := linkIn { st := .prbs, prbsOver := true } []
     let n : Fin 32 := 3
     let w : BitVec 56 := 1
     s.twn.role = .single ∧ (s.plk.link[n]).st = .prbs ∧ (s.plk.link[n]).prbsOver = true) ∧
    (let s : State := linkIn { st := .prbs, prbsOver := true } []
     let n : Fin 32 := 3
     let w : BitVec 56 := BitVec.ofNat 56 (2 ^ 40)
     s.twn.role = .single ∧ (s.plk.link[n]).st = .prbs ∧ (s.plk.link[n]).prbsOver = true) ∧
    (let s : State := linkIn { st := .prbs, prbsOver := true } []
     let n : Fin 32 := 3
     (s.plk.link[n]).st = .prbs ∧ (s.plk.link[n]).prbsOver = true) ∧
    (let s : State := linkIn { st := .run } []
     let n : Fin 32 := 3
     let b : BitVec 64 := 0xFF
     (s.plk.link[n]).st.locked = true ∧ (∀ x ∈ blockTypes, b.extractLsb' 0 8 ≠ x)) ∧
    (let s : State := linkIn { st := .echo, echoes := [(7, 0)] } []
     let n : Fin 32 := 3
     let d : BitVec 52 := 127999
     (s.plk.link[n]).st.echoes = true ∧ (s.plk.link[n]).st ≠ .run ∧ (∃ e ∈ (s.plk.link[n]).echoes, (d - BitVec.ofNat 52 e.2).toNat < 128000)) ∧
    (let s : State := linkIn { st := .echo, echoes := [(7, 0)] } []
     let n : Fin 32 := 3
     let d : BitVec 52 := 128000
     (s.plk.link[n]).st.echoes = true ∧ (((s.plk.link[n]).st = .run ∨ ∀ e ∈ (s.plk.link[n]).echoes, 128000 ≤ (d - BitVec.ofNat 52 e.2).toNat))) ∧
    (let s : State := linkIn { st := .run, echoes := [(7, 0)] } []
     let n : Fin 32 := 3
     let d : BitVec 52 := 5
     (s.plk.link[n]).st.echoes = true ∧ (((s.plk.link[n]).st = .run ∨ ∀ e ∈ (s.plk.link[n]).echoes, 128000 ≤ (d - BitVec.ofNat 52 e.2).toNat))) ∧
    (let s : State := linkIn { st := .sync, dfwd := 3 } []
     let n : Fin 32 := 3
     let d : BitVec 52 := 5
     (s.plk.link[n]).st.syncs = true) ∧
    (let s : State := linkIn { st := .run, echoes := [(7, 0)] } []
     let n : Fin 32 := 3
     let id : BitVec 8 := 8
     let turn : BitVec 24 := 0
     let r1 : BitVec 24 := 0
     let at_ : BitVec 52 := 0
     (∀ e ∈ (s.plk.link[n]).echoes, e.1 ≠ id)) ∧
    (let s : State := linkIn { st := .run, echoes := [(7, 0)], caps := some (parseCaps capWord) } []
     let n : Fin 32 := 3
     let id : BitVec 8 := 7
     let turn : BitVec 24 := 0
     let r1 : BitVec 24 := 0
     let at_ : BitVec 52 := 128001
     let dep : Nat := 0
     let c : Caps := parseCaps capWord
     let gone : Nat := (at_.toNat + 2 ^ 52 - dep % 2 ^ 52) % 2 ^ 52
     let e : Int := signed 24 (unsigned 24 ((r1.toNat : Int) - (dep + (s.plk.link[n]).dfwd : Nat)))
     let rt : List Int := (((gone : Int) - turn.toNat) :: (s.plk.link[n]).rtts).take 64
     (s.plk.link[n]).echoes.find? (fun e => decide (e.1 = id)) = some (id, dep) ∧ (s.plk.link[n]).caps = some c ∧ 128000 < gone) ∧
    (let s : State := linkIn { st := .echo, rate := .r10, echoes := [(7, 0)], caps := some (parseCaps capWord), rtts := List.replicate 63 900 } []
     let n : Fin 32 := 3
     let id : BitVec 8 := 7
     let turn : BitVec 24 := 100
     let r1 : BitVec 24 := 0
     let at_ : BitVec 52 := 1000
     let dep : Nat := 0
     let c : Caps := parseCaps capWord
     let gone : Nat := (at_.toNat + 2 ^ 52 - dep % 2 ^ 52) % 2 ^ 52
     let e : Int := signed 24 (unsigned 24 ((r1.toNat : Int) - (dep + (s.plk.link[n]).dfwd : Nat)))
     let rt : List Int := (((gone : Int) - turn.toNat) :: (s.plk.link[n]).rtts).take 64
     (s.plk.link[n]).echoes.find? (fun e => decide (e.1 = id)) = some (id, dep) ∧ (s.plk.link[n]).caps = some c ∧ rt.length = 64 ∧
       spreadOk rt = true ∧ s.linkLatency c .r10 (meanHalf rt) ≤ 8000) ∧
    (let s : State := linkIn { st := .echo, rate := .r10, echoes := [(7, 0)], caps := some (parseCaps capWord), rtts := List.replicate 63 100000 } []
     let n : Fin 32 := 3
     let id : BitVec 8 := 7
     let turn : BitVec 24 := 100
     let r1 : BitVec 24 := 0
     let at_ : BitVec 52 := 1000
     let dep : Nat := 0
     let c : Caps := parseCaps capWord
     let gone : Nat := (at_.toNat + 2 ^ 52 - dep % 2 ^ 52) % 2 ^ 52
     let e : Int := signed 24 (unsigned 24 ((r1.toNat : Int) - (dep + (s.plk.link[n]).dfwd : Nat)))
     let rt : List Int := (((gone : Int) - turn.toNat) :: (s.plk.link[n]).rtts).take 64
     (s.plk.link[n]).echoes.find? (fun e => decide (e.1 = id)) = some (id, dep) ∧ (s.plk.link[n]).caps = some c ∧ rt.length = 64 ∧
       spreadOk rt = false) ∧
    (let s : State := linkIn { st := .echo, rate := .r10, echoes := [(7, 0)], caps := some { parseCaps capWord with proc := 8000 }, rtts := List.replicate 63 100000 } []
     let n : Fin 32 := 3
     let id : BitVec 8 := 7
     let turn : BitVec 24 := 100
     let r1 : BitVec 24 := 0
     let at_ : BitVec 52 := 100100
     let dep : Nat := 0
     let c : Caps := { parseCaps capWord with proc := 8000 }
     let gone : Nat := (at_.toNat + 2 ^ 52 - dep % 2 ^ 52) % 2 ^ 52
     let e : Int := signed 24 (unsigned 24 ((r1.toNat : Int) - (dep + (s.plk.link[n]).dfwd : Nat)))
     let rt : List Int := (((gone : Int) - turn.toNat) :: (s.plk.link[n]).rtts).take 64
     (s.plk.link[n]).echoes.find? (fun e => decide (e.1 = id)) = some (id, dep) ∧ (s.plk.link[n]).caps = some c ∧ rt.length = 64 ∧
       spreadOk rt = true ∧ 8000 < s.linkLatency c .r10 (meanHalf rt)) ∧
    (let s : State := linkIn { st := .sync, rate := .r10, echoes := [(7, 0)], caps := some (parseCaps capWord), syncs := 1, streak := 15, ready := true } [(0x183040, 1)]
     let n : Fin 32 := 3
     let id : BitVec 8 := 7
     let turn : BitVec 24 := 0
     let r1 : BitVec 24 := 0
     let at_ : BitVec 52 := 0
     let dep : Nat := 0
     let c : Caps := parseCaps capWord
     let gone : Nat := (at_.toNat + 2 ^ 52 - dep % 2 ^ 52) % 2 ^ 52
     let e : Int := signed 24 (unsigned 24 ((r1.toNat : Int) - (dep + (s.plk.link[n]).dfwd : Nat)))
     let rt : List Int := (((gone : Int) - turn.toNat) :: (s.plk.link[n]).rtts).take 64
     (s.plk.link[n]).echoes.find? (fun e => decide (e.1 = id)) = some (id, dep) ∧ (s.plk.link[n]).caps = some c ∧ 0 < (s.plk.link[n]).syncs ∧
       15 ≤ (s.plk.link[n]).streak ∧ (s.plk.link[n]).ready = true ∧ s.authPolicy n ≠ 0 ∧ c.auth = true ∧ e.natAbs ≤ 16) ∧
    (let s : State := linkIn { st := .sync, rate := .r10, echoes := [(7, 0)], caps := some (parseCaps capWord), syncs := 1, streak := 15, ready := true } []
     let n : Fin 32 := 3
     let id : BitVec 8 := 7
     let turn : BitVec 24 := 0
     let r1 : BitVec 24 := 0
     let at_ : BitVec 52 := 0
     let dep : Nat := 0
     let c : Caps := parseCaps capWord
     let gone : Nat := (at_.toNat + 2 ^ 52 - dep % 2 ^ 52) % 2 ^ 52
     let e : Int := signed 24 (unsigned 24 ((r1.toNat : Int) - (dep + (s.plk.link[n]).dfwd : Nat)))
     let rt : List Int := (((gone : Int) - turn.toNat) :: (s.plk.link[n]).rtts).take 64
     (s.plk.link[n]).echoes.find? (fun e => decide (e.1 = id)) = some (id, dep) ∧ (s.plk.link[n]).caps = some c ∧ s.authPolicy n = 0) ∧
    (let s : State := linkIn { st := .sync, rate := .r10, echoes := [(7, 0)], caps := some (capsOf 1), syncs := 1, streak := 15, ready := true } [(0x183040, 1)]
     let n : Fin 32 := 3
     let id : BitVec 8 := 7
     let turn : BitVec 24 := 0
     let r1 : BitVec 24 := 0
     let at_ : BitVec 52 := 0
     let dep : Nat := 0
     let c : Caps := capsOf 1
     let gone : Nat := (at_.toNat + 2 ^ 52 - dep % 2 ^ 52) % 2 ^ 52
     let e : Int := signed 24 (unsigned 24 ((r1.toNat : Int) - (dep + (s.plk.link[n]).dfwd : Nat)))
     let rt : List Int := (((gone : Int) - turn.toNat) :: (s.plk.link[n]).rtts).take 64
     (s.plk.link[n]).echoes.find? (fun e => decide (e.1 = id)) = some (id, dep) ∧ (s.plk.link[n]).caps = some c ∧ s.authPolicy n = 1 ∧
       c.auth = false) ∧
    (let s : State := linkIn { st := .sync, rate := .r10, echoes := [(7, 0)], caps := some (capsOf 1), syncs := 1, streak := 15, ready := true } [(0x183040, 2)]
     let n : Fin 32 := 3
     let id : BitVec 8 := 7
     let turn : BitVec 24 := 0
     let r1 : BitVec 24 := 0
     let at_ : BitVec 52 := 0
     let dep : Nat := 0
     let c : Caps := capsOf 1
     let gone : Nat := (at_.toNat + 2 ^ 52 - dep % 2 ^ 52) % 2 ^ 52
     let e : Int := signed 24 (unsigned 24 ((r1.toNat : Int) - (dep + (s.plk.link[n]).dfwd : Nat)))
     let rt : List Int := (((gone : Int) - turn.toNat) :: (s.plk.link[n]).rtts).take 64
     (s.plk.link[n]).echoes.find? (fun e => decide (e.1 = id)) = some (id, dep) ∧ (s.plk.link[n]).caps = some c ∧ s.authPolicy n = 2 ∧
       c.auth = false) :=
  ⟨by decide +kernel, by decide +kernel, by decide +kernel, by decide +kernel, by decide +kernel, by decide +kernel, by decide +kernel,
   by decide +kernel, by decide +kernel, by decide +kernel, by decide +kernel, by decide +kernel, by decide +kernel, by decide +kernel,
   by decide +kernel, by decide +kernel, by decide +kernel, by decide +kernel, by decide +kernel, by decide +kernel, by decide +kernel,
   by decide +kernel, by decide +kernel, by decide +kernel, by decide +kernel, by decide +kernel, by decide +kernel, by decide +kernel,
   by decide +kernel, by decide +kernel, by decide +kernel, by decide +kernel, by decide +kernel⟩

theorem test_hyps_LinksAuthenticateLoadRunAndRecover :
    (let s : State := linkIn { st := .auth, caps := some (parseCaps capWord), auth := some (authOf 1) } [(0x183040, 1)]
     let n : Fin 32 := 3
     let kind : BitVec 4 := 4
     let index : BitVec 4 := 5
     let bytes : BitVec 48 := 0
     let a : AuthRun := authOf 1
     let b : AuthRun := { a with got := (16 * kind.toNat + index.toNat, bytes) :: a.got.filter fun g => decide (g.1 ≠ 16 * kind.toNat + index.toNat) }
     (s.plk.link[n]).auth = some a ∧ b = authDone a ∧ b.value 2 8 = some (List.replicate 8 0) ∧ b.value 3 6 = some (List.replicate 6 0) ∧
       b.value 4 32 = some (List.replicate 32 0) ∧ s.headPasses n b (List.replicate 8 0) (List.replicate 6 0) (List.replicate 32 0) = false) ∧
    (let s : State := linkIn { st := .auth, caps := some (parseCaps capWord), auth := some (authOf 2) } [(0x183040, 2)]
     let n : Fin 32 := 3
     let kind : BitVec 4 := 4
     let index : BitVec 4 := 5
     let bytes : BitVec 48 := 0
     let a : AuthRun := authOf 2
     let b : AuthRun := { a with got := (16 * kind.toNat + index.toNat, bytes) :: a.got.filter fun g => decide (g.1 ≠ 16 * kind.toNat + index.toNat) }
     (s.plk.link[n]).auth = some a ∧ a.policy = 2 ∧ s.headPasses n b (List.replicate 8 0) (List.replicate 6 0) (List.replicate 32 0) = false) ∧
    (let s : State := linkIn { st := .auth, auth := some ⟨0, 1, 0, []⟩ } []
     let n : Fin 32 := 3
     let kind : BitVec 4 := 4
     let index : BitVec 4 := 5
     let bytes : BitVec 48 := 0
     let a : AuthRun := ⟨0, 1, 0, []⟩
     let b : AuthRun := { a with got := (16 * kind.toNat + index.toNat, bytes) :: a.got.filter fun g => decide (g.1 ≠ 16 * kind.toNat + index.toNat) }
     (s.plk.link[n]).auth = some a ∧ b.value 2 8 = none ∧
       s.headPasses n ⟨0, 0, 0, []⟩ [1] [2] (hmac (hmac (s.rst.otp.keys[0]) [1]) (leBytes 16 0 ++ [1] ++ [2])) = true) ∧
    (let s : State := linkIn { st := .auth, auth := some (authOf 1) } []
     let n : Fin 32 := 3
     (s.plk.link[n]).auth.isSome = true) ∧
    (let s : State := linkIn { st := .load, uploads := [loadBank none] } []
     let n : Fin 32 := 3
     let u : Upload := loadBank none
     let us : List Upload := []
     (s.plk.link[n]).uploads = u :: us ∧ u.bank = none ∧ ((s.plk.link[n]).st = .load ∨ (s.plk.link[n]).st = .run)) ∧
    (let s : State := linkIn { st := .run, uploads := [loadBank none] } []
     let n : Fin 32 := 3
     let u : Upload := loadBank none
     let us : List Upload := []
     (s.plk.link[n]).uploads = u :: us ∧ u.bank = none ∧ ((s.plk.link[n]).st = .load ∨ (s.plk.link[n]).st = .run)) ∧
    (let s : State := linkIn { st := .load, uploads := [loadBank (some false)] } []
     let n : Fin 32 := 3
     let u : Upload := loadBank (some false)
     let us : List Upload := []
     (s.plk.link[n]).uploads = u :: us ∧ u.bank.isSome = true ∧ u.valid = false) ∧
    (let s : State := linkIn { st := .load, uploads := [loadBank (some false)] } []
     let n : Fin 32 := 3
     let w : BitVec 56 := 0xFF
     s.twn.role = .single ∧ (s.plk.link[n]).st = .load ∧ bankFlag (w.extractLsb' 0 8) false = true) ∧
    (let s : State := linkIn { st := .run } []
     let n : Fin 32 := 3
     let w : BitVec 56 := 1
     s.twn.role = .single) ∧
    (let s : State := linkIn { st := .run } []
     let n : Fin 32 := 3
     let w : BitVec 56 := 0
     s.twn.role = .single) ∧
    (let s : State := linkIn { st := .run } []
     let n : Fin 32 := 3
     (s.plk.link[n]).st = .run) ∧
    (let s : State := linkIn { st := .run, rate := .r10, echoes := [(7, 0)], caps := some (parseCaps capWord), streak := 1 } []
     let n : Fin 32 := 3
     let id : BitVec 8 := 7
     let turn : BitVec 24 := 100
     let r1 : BitVec 24 := 70
     let at_ : BitVec 52 := 1000
     let dep : Nat := 0
     let c : Caps := parseCaps capWord
     let gone : Nat := (at_.toNat + 2 ^ 52 - dep % 2 ^ 52) % 2 ^ 52
     let e : Int := signed 24 (unsigned 24 ((r1.toNat : Int) - (dep + (s.plk.link[n]).dfwd : Nat)))
     let rt : List Int := (((gone : Int) - turn.toNat) :: (s.plk.link[n]).rtts).take 64
     (s.plk.link[n]).echoes.find? (fun e => decide (e.1 = id)) = some (id, dep) ∧ gone ≤ 128000 ∧ (s.plk.link[n]).caps = some c ∧
       (s.plk.link[n]).st = .run ∧ s.linkLatency c (s.plk.link[n]).rate (meanHalf (rt.take 16)) ≤ 8000 ∧ linkPlane s.liveView n = none ∧
       64 < e.natAbs ∧ 1 ≤ (s.plk.link[n]).streak) ∧
    (let s : State := linkIn { st := .run, rate := .r10, echoes := [(7, 0)], caps := some { parseCaps capWord with proc := 8000 }, streak := 1 } []
     let n : Fin 32 := 3
     let id : BitVec 8 := 7
     let turn : BitVec 24 := 0
     let r1 : BitVec 24 := 70
     let at_ : BitVec 52 := 100000
     let dep : Nat := 0
     let c : Caps := { parseCaps capWord with proc := 8000 }
     let gone : Nat := (at_.toNat + 2 ^ 52 - dep % 2 ^ 52) % 2 ^ 52
     let e : Int := signed 24 (unsigned 24 ((r1.toNat : Int) - (dep + (s.plk.link[n]).dfwd : Nat)))
     let rt : List Int := (((gone : Int) - turn.toNat) :: (s.plk.link[n]).rtts).take 64
     (s.plk.link[n]).echoes.find? (fun e => decide (e.1 = id)) = some (id, dep) ∧ gone ≤ 128000 ∧ (s.plk.link[n]).caps = some c ∧
       (s.plk.link[n]).st = .run ∧ 8000 < s.linkLatency c (s.plk.link[n]).rate (meanHalf (rt.take 16))) ∧
    (let s : State := linkIn { st := .run, lock := true } []
     let n : Fin 32 := 3
     let before : List (BitVec 2) := []
     let last : List (BitVec 2) := List.replicate 48 1 ++ List.replicate 16 0
     last.length = 64 ∧ (s.plk.link[n]).st.locked = true) ∧
    (let s : State := linkIn { st := .run, lock := true } []
     let n : Fin 32 := 3
     let before : List (BitVec 2) := [0, 0]
     let last : List (BitVec 2) := List.replicate 49 1 ++ List.replicate 15 3
     last.length = 64 ∧ (s.plk.link[n]).st.locked = true) ∧
    (let s : State := linkIn { st := .fault } [(0x183000, 0xD)]
     let n : Fin 32 := 3
     s.calm ∧ (s.plk.link[n]).st = .fault ∧ (s.plk.link[n]).refused = false ∧ s.regBit (linkReg n 0) 3 = true ∧ s.regBit (linkReg n 0) 0 = true) ∧
    (let s : State := { linkIn { restart := true } [(0x183000, 0xD)] with rst := { up.rst with linkAuto := 8, link := up.rst.link.set 3 .inReset } }
     let n : Fin 32 := 3
     s.rst.linkAuto.getLsbD n = true ∧ s.rst.linkHold.getLsbD n = false ∧ s.rst.data = .up) ∧
    (let s : State := up
     let n : Fin 32 := 31
     let v : Word := 1
     s.takesWrite (linkReg n 0) ∧ s.linkUp n = true ∧ (s.plk.link[n]).st = .disabled) ∧
    (let s : State := linkIn { st := .echo } [(0x183000, 1)]
     let n : Fin 32 := 3
     let v : Word := 0
     s.takesWrite (linkReg n 0)) ∧
    (let s : State := queued (linkIn {} []) (ctrlOf 0)
     let ring : Fin 16 := 0
     let f : Flight := f5 (ctrlOf 0) .queued
     let n : Fin 32 := 3
     s.starts ring f ∧ f.e.op = 0x71 ∧ n = Fin.ofNat 32 f.e.sub.toNat ∧ f.e.num 0 = 0 ∧ s.linkRefusal n = none ∧ s.blkUp .plk = true ∧
       (s.plk.link[n]).st = .disabled) ∧
    (let s : State := queued (linkIn { st := .echo } []) (ctrlOf 1)
     let ring : Fin 16 := 0
     let f : Flight := f5 (ctrlOf 1) .queued
     let n : Fin 32 := 3
     s.starts ring f ∧ f.e.op = 0x71 ∧ n = Fin.ofNat 32 f.e.sub.toNat ∧ f.e.num 0 = 1 ∧ (s.plk.link[n]).st ≠ .disabled ∧
       (s.plk.link[n]).st ≠ .fault) ∧
    (let s : State := queued (linkIn { st := .run } []) (ctrlOf 2)
     let ring : Fin 16 := 0
     let f : Flight := f5 (ctrlOf 2) .queued
     let n : Fin 32 := 3
     s.starts ring f ∧ f.e.op = 0x71 ∧ n = Fin.ofNat 32 f.e.sub.toNat ∧ f.e.num 0 = 2 ∧ s.linkRefusal n = none ∧ s.blkUp .plk = true ∧
       (s.plk.link[n]).st = .run) ∧
    (let s : State := queued (linkIn { st := .test } []) (ctrlOf 3)
     let ring : Fin 16 := 0
     let f : Flight := f5 (ctrlOf 3) .queued
     let n : Fin 32 := 3
     s.starts ring f ∧ f.e.op = 0x71 ∧ n = Fin.ofNat 32 f.e.sub.toNat ∧ f.e.num 0 = 3 ∧ s.linkRefusal n = none ∧ s.blkUp .plk = true ∧
       (s.plk.link[n]).st = .test) ∧
    (let s : State := queued (linkIn { st := .echo } []) (ctrlOf 2)
     let ring : Fin 16 := 0
     let f : Flight := f5 (ctrlOf 2) .queued
     let n : Fin 32 := 3
     s.starts ring f ∧ f.e.op = 0x71 ∧ n = Fin.ofNat 32 f.e.sub.toNat ∧ f.e.num 0 = 2 ∧ s.linkRefusal n = none ∧ s.blkUp .plk = true ∧
       (s.plk.link[n]).st ≠ .run) ∧
    (let s : State := queued (linkIn { st := .run, caps := some (parseCaps capWord) } [(0x183040, 1)]) (ctrlOf 4)
     let ring : Fin 16 := 0
     let f : Flight := f5 (ctrlOf 4) .queued
     let n : Fin 32 := 3
     s.starts ring f ∧ f.e.op = 0x71 ∧ n = Fin.ofNat 32 f.e.sub.toNat ∧ f.e.num 0 = 4 ∧ s.linkRefusal n = none ∧ s.blkUp .plk = true ∧
       (s.plk.link[n]).st = .run ∧ (parseCaps capWord).auth = true ∧ s.authPolicy n ≠ 0) ∧
    (let s : State := queued (linkIn { st := .run, caps := some (parseCaps capWord) } []) (ctrlOf 4)
     let ring : Fin 16 := 0
     let f : Flight := f5 (ctrlOf 4) .queued
     let n : Fin 32 := 3
     s.starts ring f ∧ f.e.op = 0x71 ∧ n = Fin.ofNat 32 f.e.sub.toNat ∧ f.e.num 0 = 4 ∧ s.linkRefusal n = none ∧ s.blkUp .plk = true ∧
       (s.plk.link[n]).st = .run ∧ s.authPolicy n = 0) ∧
    (let s : State := queued (linkIn { st := .fault } [(0x183000, 1)]) (ctrlOf 1)
     let ring : Fin 16 := 0
     let f : Flight := f5 (ctrlOf 1) .queued
     let n : Fin 32 := 3
     s.starts ring f ∧ f.e.op = 0x71 ∧ n = Fin.ofNat 32 f.e.sub.toNat ∧ f.e.num 0 = 1 ∧ s.linkRefusal n = none ∧ s.blkUp .plk = true ∧
       (s.plk.link[n]).st = .fault ∧ s.calm) ∧
    (let s : State := queued (linkIn { st := .run, caps := some (capsOf 1) } [(0x183040, 1)]) (ctrlOf 4)
     let ring : Fin 16 := 0
     let f : Flight := f5 (ctrlOf 4) .queued
     let n : Fin 32 := 3
     s.starts ring f ∧ f.e.op = 0x71 ∧ n = Fin.ofNat 32 f.e.sub.toNat ∧ f.e.num 0 = 4 ∧ s.linkRefusal n = none ∧ s.blkUp .plk = true ∧
       (s.plk.link[n]).st = .run ∧ ((s.plk.link[n]).caps.all fun x => !x.auth) = true ∧
       ∀ k : Fin 4, (ctrlOf (BitVec.ofNat 64 k.val)).num 0 = k.val) ∧
    (let s : State := queued (linkIn { st := .echo } [(0x183000, 1)]) (ctrlOf 5)
     let ring : Fin 16 := 0
     let f : Flight := f5 (ctrlOf 5) .queued
     let n : Fin 32 := 3
     s.starts ring f ∧ f.e.op = 0x71 ∧ n = Fin.ofNat 32 f.e.sub.toNat ∧ f.e.num 0 = 5) ∧
    (let s : State := queued { linkIn {} [] with rst := { up.rst with linkHold := 8, link := up.rst.link.set 3 .inReset } } (ctrlOf 2)
     let ring : Fin 16 := 0
     let f : Flight := f5 (ctrlOf 2) .queued
     let n : Fin 32 := 3
     s.starts ring f ∧ f.e.op = 0x71 ∧ n = Fin.ofNat 32 f.e.sub.toNat ∧ s.linkRefusal n = some 0x10) :=
  ⟨by decide +kernel, by decide +kernel, by decide +kernel, by decide +kernel, by decide +kernel, by decide +kernel, by decide +kernel,
   by decide +kernel, by decide +kernel, by decide +kernel, by decide +kernel, by decide +kernel, by decide +kernel, by decide +kernel,
   by decide +kernel, by decide +kernel, by decide +kernel, by decide +kernel, by decide +kernel, by decide +kernel, by decide +kernel,
   by decide +kernel, by decide +kernel, by decide +kernel, by decide +kernel, by decide +kernel, by decide +kernel, by decide +kernel,
   by decide +kernel, by decide +kernel⟩

theorem test_hyps_ChambersFillAndAreChecked :
    (let s : State := queued up (entryOf 0x50 0x10 0 0 0 0)
     let n : Fin 16 := 0
     let f : Flight := f5 (entryOf 0x50 0x10 0 0 0 0) .queued
     let k : Fin 4 := 0
     s.starts n f ∧ f.e.op = 0x50 ∧ k = f.e.chamber ∧ (∀ b ∈ f.e.blocks, s.blkUp b = true) ∧ (s.lck.ch[k]).st = .applied) ∧
    (let s : State := queued (chamberIn { st := .armed }) (entryOf 0x50 0x10 0 0 0 0)
     let n : Fin 16 := 0
     let f : Flight := f5 (entryOf 0x50 0x10 0 0 0 0) .queued
     let k : Fin 4 := 0
     s.starts n f ∧ f.e.op = 0x50 ∧ k = f.e.chamber ∧ (∀ b ∈ f.e.blocks, s.blkUp b = true)) ∧
    (let s : State := queued (chamberIn { st := .open_ }) (entryOf 0x50 0x20 0 0 0 0)
     let n : Fin 16 := 0
     let f : Flight := f5 (entryOf 0x50 0x20 0 0 0 0) .queued
     let k : Fin 4 := 0
     s.starts n f ∧ f.e.op = 0x50 ∧ k = f.e.chamber ∧ (∀ b ∈ f.e.blocks, s.blkUp b = true)) ∧
    (let s : State := queued (chamberIn { st := .open_ }) (entryOf 0x50 0x30 2 1000 0 0)
     let n : Fin 16 := 0
     let f : Flight := f5 (entryOf 0x50 0x30 2 1000 0 0) .queued
     let k : Fin 4 := 0
     s.starts n f ∧ f.e.op = 0x50 ∧ k = f.e.chamber ∧ (∀ b ∈ f.e.blocks, s.blkUp b = true) ∧ (s.lck.ch[k]).st = .open_) ∧
    (let s : State := queued (chamberIn { st := .open_ }) (entryOf 0x50 0x40 0 0 0 0)
     let n : Fin 16 := 0
     let f : Flight := f5 (entryOf 0x50 0x40 0 0 0 0) .queued
     let k : Fin 4 := 0
     s.starts n f ∧ f.e.op = 0x50 ∧ k = f.e.chamber ∧ (∀ b ∈ f.e.blocks, s.blkUp b = true) ∧ (s.lck.ch[k]).free = false ∧
       (s.lck.ch[k]).used = false ∧ s.lop.waiting = []) ∧
    (let s : State := queued (chamberIn { st := .armed, used := true }) (entryOf 0x50 0x40 0 0 0 0)
     let n : Fin 16 := 0
     let f : Flight := f5 (entryOf 0x50 0x40 0 0 0 0) .queued
     let k : Fin 4 := 0
     s.starts n f ∧ f.e.op = 0x50 ∧ k = f.e.chamber ∧ (∀ b ∈ f.e.blocks, s.blkUp b = true) ∧ (s.lck.ch[k]).free = false) ∧
    (let s : State := { chamberIn { st := .open_ } with regs := [(0x260104, 0x160104)] }
     let k : Fin 4 := 0
     let v : Word := 77
     let o : Nat := s.regField (0x260104 + 0x20 * k.val) 2 22 * 4
     s.takesWrite (0x260108 + 0x20 * k.val)) ∧
    (let s : State := { chamberIn { st := .open_ } with regs := [(0x260104, 0x160100)] }
     let k : Fin 4 := 0
     let v : Word := 77
     let o : Nat := s.regField (0x260104 + 0x20 * k.val) 2 22 * 4
     s.takesWrite (0x260108 + 0x20 * k.val) ∧ (stReg o).isNone = true) ∧
    (let s : State := up
     let k : Fin 4 := 3
     let v : Word := 77
     let o : Nat := s.regField (0x260104 + 0x20 * k.val) 2 22 * 4
     s.takesWrite (0x260108 + 0x20 * k.val)) ∧
    (let s : State := chamberIn { st := .open_, waiting := [{ askOf (.entry 5) 2 1000 false with arm := false, who := .loop 1 1 }, askOf (.entry 5) 2 1000 false] }
     let k : Fin 4 := 0
     let a : LockAsk := { askOf (.entry 5) 2 1000 false with arm := false, who := .loop 1 1 }
     let as : List LockAsk := []
     s.blkUp .lck = true ∧ (s.lck.ch[k]).st = .open_ ∧ (s.lck.ch[k]).pending = 0 ∧ (s.lck.ch[k]).waiting.filter s.askLives = a :: as) ∧
    (let s : State := chamberIn { st := .checking, ask := some (askOf (.entry 5) 2 1000 false), copyFailed := true }
     let k : Fin 4 := 0
     let a : LockAsk := askOf (.entry 5) 2 1000 false
     let code : Nat := s.checkCode k s.lck.ch[k] a
     s.blkUp .lck = true ∧ (s.lck.ch[k]).st = .checking ∧ (s.lck.ch[k]).ask = some a ∧ code ≠ 0 ∧ s.lop.waiting = []) ∧
    (let s : State := chamberIn { st := .checking, ask := some (askOf (.entry 5) 2 1000 false) }
     let k : Fin 4 := 0
     let a : LockAsk := askOf (.entry 5) 2 1000 false
     let code : Nat := s.checkCode k s.lck.ch[k] a
     s.blkUp .lck = true ∧ (s.lck.ch[k]).st = .checking ∧ (s.lck.ch[k]).ask = some a ∧ code = 0 ∧ a.arm = true ∧ a.ring = false ∧ a.kind = 2) ∧
    (let s : State := chamberIn { st := .checking, ask := some { askOf (.ring 9) 2 1000 false with arm := false } }
     let k : Fin 4 := 0
     let a : LockAsk := { askOf (.ring 9) 2 1000 false with arm := false }
     let code : Nat := s.checkCode k s.lck.ch[k] a
     s.blkUp .lck = true ∧ (s.lck.ch[k]).st = .checking ∧ (s.lck.ch[k]).ask = some a ∧ code = 0 ∧ a.arm = false) ∧
    (let s : State := chamberIn { st := .checking, ask := some (askOf (.ring 9) 2 1000 false) }
     let k : Fin 4 := 0
     let a : LockAsk := askOf (.ring 9) 2 1000 false
     let code : Nat := s.checkCode k s.lck.ch[k] a
     s.blkUp .lck = true ∧ (s.lck.ch[k]).st = .checking ∧ (s.lck.ch[k]).ask = some a ∧ code = 0 ∧ a.arm = true ∧ a.who = .ring 9 ∧
       s.blkUp .urg = true) ∧
    (let s : State := { chamberIn { st := .checking, ask := some (askOf (.entry 5) 2 1000 true) } with urg := { nodes := [⟨9, 0, 1, true⟩] } }
     let k : Fin 4 := 0
     let a : LockAsk := askOf (.entry 5) 2 1000 true
     let code : Nat := s.checkCode k s.lck.ch[k] a
     s.blkUp .lck = true ∧ (s.lck.ch[k]).st = .checking ∧ (s.lck.ch[k]).ask = some a ∧ code = 0 ∧ a.ring = true ∧ s.participants ≠ [] ∧
       s.blkUp .urg = true) :=
  ⟨by decide +kernel, by decide +kernel, by decide +kernel, by decide +kernel, by decide +kernel, by decide +kernel, by decide +kernel,
   by decide +kernel, by decide +kernel, by decide +kernel, by decide +kernel, by decide +kernel, by decide +kernel, by decide +kernel,
   by decide +kernel⟩

theorem test_hyps_ChambersApplyAndRingLocksEnd :
    (let s : State := chamberIn { st := .armed, ask := some (askOf (.entry 5) 2 0 false), entries := [(0x160104, 7), (0x160108, 8)] }
     let k : Fin 4 := 0
     let at_ : Nat := 10
     let a : LockAsk := askOf (.entry 5) 2 0 false
     let u : State := s.advance at_
     u.blkUp .lck = true ∧ (u.lck.ch[k]).st = .armed ∧ (u.lck.ch[k]).ask = some a ∧ (u.lck.ch[k]).held = false ∧ (u.lck.ch[k]).regsDone = false ∧
       (a.kind = 0 ∨ a.kind = 2) ∧ u.instantReached a = true ∧ risingKeys (u.lck.ch[k]).entries = true ∧ inCtrl 0x160104 = true ∧
       (u.lck.ch[k]).banks = [] ∧ (u.lck.ch[k]).copying = false) ∧
    (let s : State := chamberIn { st := .armed, ask := some (askOf (.entry 5) 2 0 false), units := [(0x40000, 1)], copying := true, regsDone := true }
     let k : Fin 4 := 0
     let a : LockAsk := askOf (.entry 5) 2 0 false
     s.blkUp .lck = true ∧ (s.lck.ch[k]).st = .armed ∧ (s.lck.ch[k]).ask = some a ∧ (s.lck.ch[k]).copying = true ∧ (s.lck.ch[k]).copied = false ∧
       (a.kind = 0 ∨ a.kind = 2) ∧ risingKeys (s.lck.ch[k]).units = true ∧ unitTable 0x40000 < 0x0020 ∧ (s.lck.ch[k]).held = false ∧
       (s.lck.ch[k]).regsDone = true ∧ (s.lck.ch[k]).ring = none ∧ s.lop.waiting = []) ∧
    (let s : State := { chamberIn { st := .open_ } with regs := [(0x260000, 1)] }
     let x : BitVec 10 := 9
     let k : Fin 4 := 0
     let kind : Fin 4 := 2
     let p : Fin 8 := 0
     let v : BitVec 64 := 1000
     s.blkUp .urg = true ∧ s.blkUp .lck = true ∧ x ≠ s.node ∧ s.regBit 0x260000 0 = true) ∧
    (let s : State := regsOf [(0x260000, 1)]
     let x : BitVec 10 := 9
     let k : Fin 4 := 3
     let kind : Fin 4 := 2
     let p : Fin 8 := 0
     let v : BitVec 64 := 1000
     s.blkUp .urg = true ∧ s.blkUp .lck = true ∧ x ≠ s.node ∧ s.regBit 0x260000 0 = true) ∧
    (let s : State := chamberIn { st := .armed, ask := some (askOf (.entry 5) 2 1000000 true), ring := some (ringOf [9, 10]) }
     let x : BitVec 10 := 9
     let k : Fin 4 := 0
     let r : RingLock := ringOf [9, 10]
     s.blkUp .urg = true ∧ s.blkUp .lck = true ∧ (s.lck.ch[k]).ring = some r ∧ r.committed = false ∧ x ∈ r.waiting ∧ s.lop.waiting = [] ∧
       ∃ y ∈ r.waiting, y ≠ x) ∧
    (let s : State := chamberIn { st := .armed, ask := some (askOf (.entry 5) 2 1000000 true), ring := some (ringOf [9]) }
     let x : BitVec 10 := 9
     let k : Fin 4 := 0
     let r : RingLock := ringOf [9]
     s.blkUp .urg = true ∧ s.blkUp .lck = true ∧ (s.lck.ch[k]).ring = some r ∧ r.committed = false ∧ x ∈ r.waiting ∧
       s.timeNs + 1000 * s.regField 0x260000 16 16 ≤ 1000000 ∧ ∀ y ∈ r.waiting, y = x) ∧
    (let s : State := chamberIn { st := .armed, ask := some (askOf (.entry 5) 2 1000000 true), ring := some (ringOf [9]) }
     let k : Fin 4 := 0
     let r : RingLock := ringOf [9]
     s.blkUp .urg = true ∧ s.blkUp .lck = true ∧ (s.lck.ch[k]).ring = some r ∧ r.committed = false ∧ s.lop.waiting = []) ∧
    (let s : State := chamberIn { st := .armed, ask := some (askOf (.ring 9) 2 1000000 false), held := true }
     let x : BitVec 10 := 9
     let k : Fin 4 := 0
     let a : LockAsk := askOf (.ring 9) 2 1000000 false
     s.blkUp .urg = true ∧ s.blkUp .lck = true ∧ (s.lck.ch[k]).st = .armed ∧ (s.lck.ch[k]).held = true ∧ (s.lck.ch[k]).ask = some a ∧
       a.who = .ring x ∧ s.instantPassed s.lck.ch[0] a false = false ∧ a.kind = 2) ∧
    (let s : State := { chamberIn { st := .armed, ask := some (askOf (.ring 9) 2 0 false), held := true } with tim := { up.tim with count := 1000 } }
     let x : BitVec 10 := 9
     let k : Fin 4 := 0
     let a : LockAsk := askOf (.ring 9) 2 0 false
     s.blkUp .urg = true ∧ s.blkUp .lck = true ∧ (s.lck.ch[k]).st = .armed ∧ (s.lck.ch[k]).held = true ∧ (s.lck.ch[k]).ask = some a ∧
       a.who = .ring x ∧ s.instantPassed s.lck.ch[0] a false = true ∧ s.lop.waiting = []) ∧
    (let s : State := chamberIn { st := .armed, ask := some (askOf (.ring 9) 2 1000000 false), held := true }
     let x : BitVec 10 := 9
     let k : Fin 4 := 0
     let a : LockAsk := askOf (.ring 9) 2 1000000 false
     s.blkUp .urg = true ∧ s.blkUp .lck = true ∧ (s.lck.ch[k]).held = true ∧ (s.lck.ch[k]).ask = some a ∧ a.who = .ring x ∧ s.lop.waiting = []) ∧
    (let s : State := chamberIn { waiting := [askOf (.ring 9) 2 1000000 false] }
     let x : BitVec 10 := 9
     let k : Fin 4 := 0
     let a : LockAsk := askOf (.ring 9) 2 1000000 false
     s.blkUp .urg = true ∧ s.blkUp .lck = true ∧ (s.lck.ch[k]).ask = none) ∧
    (let s : State := { chamberIn { ended := [{ ringOf [] with committed := true, all := [9], outcomes := [9] }] } with hif := { up.hif with flights := [f5 (entryOf 0x50 0x30 0 0 0 0) .waiting], nextId := 6 } }
     let x : BitVec 10 := 9
     let k : Fin 4 := 0
     let r : RingLock := { ringOf [] with committed := true, all := [9], outcomes := [9] }
     let f : Flight := f5 (entryOf 0x50 0x30 0 0 0 0) .waiting
     let ok : Bool := true
     s.blkUp .urg = true ∧ s.blkUp .lck = true ∧ s.numbered ∧ (s.lck.ch[k]).ended = [r] ∧ r.outcomes = [x] ∧ r.ask.who = .entry f.id ∧
       f ∈ s.hif.flights) ∧
    (let s : State := { chamberIn { ended := [{ ringOf [] with committed := true, all := [9], outcomes := [9] }] } with hif := { up.hif with flights := [f5 (entryOf 0x50 0x30 0 0 0 0) .waiting], nextId := 6 } }
     let x : BitVec 10 := 9
     let k : Fin 4 := 0
     let r : RingLock := { ringOf [] with committed := true, all := [9], outcomes := [9] }
     let f : Flight := f5 (entryOf 0x50 0x30 0 0 0 0) .waiting
     let ok : Bool := false
     s.blkUp .urg = true ∧ s.blkUp .lck = true ∧ s.numbered ∧ (s.lck.ch[k]).ended = [r] ∧ r.outcomes = [x] ∧ r.ask.who = .entry f.id ∧
       f ∈ s.hif.flights) :=
  ⟨by decide +kernel, by decide +kernel, by decide +kernel, by decide +kernel, by decide +kernel, by decide +kernel, by decide +kernel,
   by decide +kernel, by decide +kernel, by decide +kernel, by decide +kernel, by decide +kernel, by decide +kernel⟩

/-- Camera port 0 takes packets and context 0 receives RAW8 frames of 4 lines by trigger output 0; S0 keeps 16 pixels in a ring of 64. -/
def camera (c : CamCtx) : State := { press with
  regs := [(0xC0110, 4), (0x200000, 1), (0x200200, 0x3201), (0x200400, 0x400A9), (0x200420, 0x100000), (0x20042C, 6), (0x200434, 0x80000)]
  clk := { up.clk with csiRun := Vector.replicate 4 true }, cam := { ctx := up.cam.ctx.set 0 c } }

/-- `camera` in compatibility mode. -/
def camCompat (c : CamCtx) : State := { camera c with regs := [(0x200000, 1), (0x200400, 0x400AB)] }

/-- An open frame with lines received. -/
def camFrame (lines : Nat) : CamFrame := ⟨9, lines, false, false, false⟩

/-- A trigger record at time 0 for plane 0 with the coordinates of an anchor at 0. -/
def recordOf (tag : Int) : TrigRecord :=
  { seq := 4, time := 0, at_ := 0, tag := tag, valid := true, plane := 0, fix := (Vector.replicate 8 none).set 0 (some ⟨0, 0, 0, 0, 0⟩) }

/-- `camera` with a speed on plane 0 and trigger output 0. -/
def trigger (t : CamTrig) (regs : RegFile) : State := { camera {} with
  regs := (camera {}).regs ++ regs, pos := (running 10000 {}).pos, cam := { (camera {}).cam with trig := up.cam.trig.set 0 t } }

/-- A line of 16 pixels in port 0's buffer. -/
def camLine0 : CamLine := ⟨0, .received, List.replicate 16 7, false, false, 9, 0⟩

/-- `camera` with that line waiting and one record of the line. -/
def staged : State := { camera { records := [recordOf 5] } with
  cam := { (camera { records := [recordOf 5] }).cam with port := up.cam.port.set 0 { lines := [camLine0] } } }

/-- A density band of 1,024 lines from line 100 on plane 0. -/
def bandEntry : Entry := entryOf 0x62 1 100 0x100000400 0 0

/-- `press` with a state of the loops. -/
def loops (l : LopState) : State := { press with lop := l }

/-- A device with a camera and one band all of its cameras have passed. -/
def banded (passed : Option Nat) : State := { camera { lastTag := some (recordOf 2000) } with
  lop := { up.lop with bands := [{ (camera {}).bandOf bandEntry with passedAt := passed }] } }

/-- LOOP_CTRL for plane 0. -/
def loopEntry (loop : BitVec 16) (action : BitVec 64) : Entry := entryOf 0x70 loop (0x100 + action) 0 0 0

/-- A waiting change of loop 1. -/
def change1 : LoopApply := ⟨1, 1, [], [], []⟩

theorem test_hyps_CameraFramesAndLinesAreReceived :
    (let s : State := camera {}
     let p : Fin 4 := 0
     let v : Fin 4 := 0
     let x : Bool := false
     let dt : BitVec 6 := 0x2A
     let bs : List Byte := [1]
     let ok : Bool := true
     let e : EccOutcome := .uncorrectable
     let k : BitVec 16 := 5
     let i : Instr := .csiFrameStart 0 0 false .uncorrectable 5
     s.portTakes p = true ∧ ((i = .csiFrameStart p v x e k ∨ i = .csiFrameEnd p v x e ∨ i = .csiLongPacket p v x e dt bs ok))) ∧
    (let s : State := camera {}
     let p : Fin 4 := 0
     let v : Fin 4 := 0
     let x : Bool := true
     let dt : BitVec 6 := 0x2A
     let bs : List Byte := [1]
     let ok : Bool := true
     let e : EccOutcome := .clean
     let k : BitVec 16 := 5
     let i : Instr := .csiFrameEnd 0 0 true .clean
     s.portTakes p = true ∧ ((i = .csiFrameStart p v x e k ∨ i = .csiFrameEnd p v x e ∨ i = .csiLongPacket p v x e dt bs ok))) ∧
    (let s : State := camera {}
     let p : Fin 4 := 0
     let v : Fin 4 := 3
     let x : Bool := false
     let dt : BitVec 6 := 0x2A
     let bs : List Byte := [1]
     let ok : Bool := true
     let e : EccOutcome := .clean
     let k : BitVec 16 := 5
     let i : Instr := .csiLongPacket 0 3 false .clean 0x2A [1] true
     s.portTakes p = true ∧ ((i = .csiFrameStart p v x e k ∨ i = .csiFrameEnd p v x e ∨ i = .csiLongPacket p v x e dt bs ok)) ∧
       s.ctxOn (ctxOf p v) = false) ∧
    (let s : State := camera { frame := some (camFrame 0) }
     let p : Fin 4 := 0
     let v : Fin 4 := 0
     let x : Bool := false
     let dt : BitVec 6 := 0x24
     let bs : List Byte := [1]
     let ok : Bool := true
     let e : EccOutcome := .clean
     let k : BitVec 16 := 5
     let i : Instr := .csiLongPacket 0 0 false .clean 0x24 [1] true
     s.portTakes p = true ∧ ((i = .csiFrameStart p v x e k ∨ i = .csiFrameEnd p v x e ∨ i = .csiLongPacket p v x e dt bs ok)) ∧
       s.camDt (ctxOf p v) ≠ dt.toNat) ∧
    (let s : State := camera {}
     let p : Fin 4 := 0
     let v : Fin 4 := 0
     let x : Bool := false
     let dt : BitVec 6 := 0x2A
     let bs : List Byte := [1]
     let ok : Bool := true
     let e : EccOutcome := .clean
     let k : BitVec 16 := 5
     let i : Instr := .csiLongPacket 0 0 false .clean 0x2A [1] true
     s.portTakes p = true ∧ ((i = .csiFrameStart p v x e k ∨ i = .csiFrameEnd p v x e ∨ i = .csiLongPacket p v x e dt bs ok)) ∧
       (s.cam.ctx[ctxOf p v]).frame = none ∧ s.camDt (ctxOf p v) = dt.toNat) ∧
    (let s : State := camera { frame := some (camFrame 3) }
     let p : Fin 4 := 0
     let v : Fin 4 := 0
     let c : Fin 16 := 0
     let k : BitVec 16 := 7
     c = ctxOf p v ∧ s.portTakes p = true ∧ s.ctxOn c = true) ∧
    (let s : State := camera {}
     let p : Fin 4 := 0
     let v : Fin 4 := 0
     let c : Fin 16 := 0
     let k : BitVec 16 := 7
     c = ctxOf p v ∧ s.portTakes p = true ∧ s.ctxOn c = true) ∧
    (let s : State := camera { frame := some (camFrame 3) }
     let p : Fin 4 := 0
     let v : Fin 4 := 0
     let c : Fin 16 := 0
     let f : CamFrame := camFrame 3
     let i : Instr := .csiFrameEnd 0 0 false .clean
     let m : Nat := 1
     c = ctxOf p v ∧ (s.cam.ctx[c]).frame = some f ∧ ((i = .csiFrameEnd p v false .clean ∧ s.portTakes p = true ∧
       s.ctxOn c = true ∨ i = .frameEndTimeout c ∧ s.blkUp .cam = true)) ∧ m = (if s.compat c then 0 else s.camHeight c - f.lines)) ∧
    (let s : State := camera { frame := some (camFrame 4) }
     let p : Fin 4 := 0
     let v : Fin 4 := 0
     let c : Fin 16 := 0
     let f : CamFrame := camFrame 4
     let i : Instr := .csiFrameEnd 0 0 false .clean
     let m : Nat := 0
     c = ctxOf p v ∧ (s.cam.ctx[c]).frame = some f ∧ ((i = .csiFrameEnd p v false .clean ∧ s.portTakes p = true ∧
       s.ctxOn c = true ∨ i = .frameEndTimeout c ∧ s.blkUp .cam = true)) ∧ m = (if s.compat c then 0 else s.camHeight c - f.lines)) ∧
    (let s : State := camera { frame := some (camFrame 3) }
     let p : Fin 4 := 0
     let v : Fin 4 := 0
     let c : Fin 16 := 0
     let f : CamFrame := camFrame 3
     let i : Instr := .frameEndTimeout 0
     let m : Nat := 1
     c = ctxOf p v ∧ (s.cam.ctx[c]).frame = some f ∧ ((i = .csiFrameEnd p v false .clean ∧ s.portTakes p = true ∧
       s.ctxOn c = true ∨ i = .frameEndTimeout c ∧ s.blkUp .cam = true)) ∧ m = (if s.compat c then 0 else s.camHeight c - f.lines)) ∧
    (let s : State := camera { frame := some (camFrame 3) }
     let p : Fin 4 := 0
     let v : Fin 4 := 0
     let c : Fin 16 := 0
     let dt : BitVec 6 := 0x2A
     let bs : List Byte := List.replicate 16 7
     let ok : Bool := false
     let f : CamFrame := camFrame 3
     let gb : Nat := 1
     let gp : Nat := 1
     let per : Nat := 1
     let whole : List Byte := bs.take (bs.length / gb * gb)
     c = ctxOf p v ∧ s.portTakes p = true ∧ s.ctxOn c = true ∧ s.camDt c = dt.toNat ∧ (s.cam.ctx[c]).frame = some f ∧
       s.camGroup c = (gb, gp, per) ∧ s.compat c = false ∧ f.lines < s.camHeight c ∧ (s.cam.port[p]).used + whole.length ≤ 0x100000) ∧
    (let s : State := camera { frame := some (camFrame 4) }
     let p : Fin 4 := 0
     let v : Fin 4 := 0
     let c : Fin 16 := 0
     let dt : BitVec 6 := 0x2A
     let bs : List Byte := List.replicate 16 7
     let ok : Bool := true
     let f : CamFrame := camFrame 4
     let gb : Nat := 1
     let gp : Nat := 1
     let per : Nat := 1
     let whole : List Byte := bs.take (bs.length / gb * gb)
     c = ctxOf p v ∧ s.portTakes p = true ∧ s.ctxOn c = true ∧ s.camDt c = dt.toNat ∧ (s.cam.ctx[c]).frame = some f ∧
       s.camGroup c = (gb, gp, per) ∧ s.compat c = false ∧ s.camHeight c ≤ f.lines) ∧
    (let s : State := camCompat { frame := some (camFrame 3) }
     let p : Fin 4 := 0
     let v : Fin 4 := 0
     let c : Fin 16 := 0
     let dt : BitVec 6 := 0x2A
     let bs : List Byte := List.replicate 16 7
     let ok : Bool := false
     let f : CamFrame := camFrame 3
     let gb : Nat := 1
     let gp : Nat := 1
     let per : Nat := 1
     let whole : List Byte := bs.take (bs.length / gb * gb)
     c = ctxOf p v ∧ s.portTakes p = true ∧ s.ctxOn c = true ∧ s.camDt c = dt.toNat ∧ (s.cam.ctx[c]).frame = some f ∧
       s.camGroup c = (gb, gp, per) ∧ s.compat c = true) ∧
    (let s : State := camera { frame := some (camFrame 3) }
     let v : Word := 0
     s.takesWrite 0x200000 ∧ s.rst.csiOff = false ∧ s.regBit 0x200000 ((3 : Fin 16).val / 4) = true) ∧
    (let s : State := camera { frame := some (camFrame 3) }
     let c : Fin 16 := 0
     let v : Word := 0
     s.takesWrite (ctxReg c 0) ∧ s.regBit (ctxReg c 0) 0 = true) ∧
    (let s : State := camera {}
     let c : Fin 16 := 15
     let v : Word := 1
     s.takesWrite (ctxReg c 0) ∧ s.regBit (ctxReg c 0) 0 = false) :=
  ⟨by decide +kernel, by decide +kernel, by decide +kernel, by decide +kernel, by decide +kernel, by decide +kernel, by decide +kernel,
   by decide +kernel, by decide +kernel, by decide +kernel, by decide +kernel, by decide +kernel, by decide +kernel, by decide +kernel,
   by decide +kernel, by decide +kernel⟩

theorem test_hyps_TriggersTagTheCameraLines :
    (let s : State := trigger {} []
     let k : Fin 4 := 0
     let at_ : Nat := 10
     let u : State := s.advance at_
     u.blkUp .cam = true ∧ u.trigMode k = 1 ∧ u.recordValid (u.trigPlane 0) = true ∧ u.clkRuns 1 = true ∧ (u.cam.trig[0]).grid = none ∧
       (u.cam.trig[0]).last = none ∧ u.regBit (ctxReg 0 0) 0 = true ∧ u.regField (ctxReg 0 0) 8 2 = 0 ∧ (u.cam.ctx[0]).records.length < 256) ∧
    (let s : State := trigger { last := some 0 } []
     let k : Fin 4 := 0
     let at_ : Nat := 3999
     let u : State := s.advance at_
     u.blkUp .cam = true ∧ u.trigMode k = 1 ∧ u.recordValid (u.trigPlane 0) = true ∧ u.clkRuns 1 = true ∧ (u.cam.trig[0]).last = some 0 ∧
       max 2000 (2 * u.trigWidth 0) = 4000) ∧
    (let s : State := camera {}
     let k : Fin 4 := 0
     let at_ : Nat := 10
     let u : State := s.advance at_
     u.blkUp .cam = true ∧ u.trigMode k = 1 ∧ u.recordValid (u.trigPlane 0) = false) ∧
    (let s : State := trigger { pulse := true } []
     let k : Fin 4 := 0
     (s.cam.trig[k]).pulse = true) ∧
    (let s : State := camera { records := [recordOf 5] }
     let c : Fin 16 := 0
     let at_ : Nat := 2000000
     let u : State := s.advance at_
     u.blkUp .cam = true) ∧
    (let s : State := staged
     let p : Fin 4 := 0
     let l : CamLine := camLine0
     let at_ : Nat := 1000
     let u : State := s.advance at_
     let rs : List TrigRecord := (u.cam.ctx[l.ctx]).records.filter (fun r => decide (u.now ≤ r.at_ + u.maxAge l.ctx))
     u.blkUp .cam = true ∧ u.clkRuns 5 = true ∧ (rotation u.cam.lastPort).find? (fun p => !(u.cam.port[p]).lines.isEmpty) = some p ∧
       (u.cam.port[p]).next = some l ∧ rs = [recordOf 5] ∧ u.camRingOn l.ctx 0x44 = false ∧ u.camRingOn l.ctx 0x24 = true ∧
       (u.cropOf l.ctx 0x20).2 ≠ 0 ∧ u.blkUp .dmc = true ∧ u.unserved 0x100000 = false ∧ u.rgnAdmits 5 0x100000 = true) ∧
    (let s : State := camera { unreported := 2, reported := some 0 }
     let c : Fin 16 := 0
     let at_ : Nat := 2000000
     let u : State := s.advance at_
     u.blkUp .cam = true ∧ (u.cam.ctx[c]).unreported ≠ 0 ∧ ((∀ x, (u.cam.ctx[c]).reported = some x → x + 2000000 ≤ u.now))) :=
  ⟨by decide +kernel, by decide +kernel, by decide +kernel, by decide +kernel, by decide +kernel, by decide +kernel, by decide +kernel⟩

theorem test_hyps_BandsAndLoopsRunWithinTheirLimits :
    (let s : State := queued press bandEntry
     let n : Fin 16 := 0
     let f : Flight := f5 bandEntry .queued
     s.starts n f ∧ f.e.op = 0x62 ∧ (∀ b ∈ f.e.blocks, s.blkUp b = true) ∧ s.bandGood (s.bandOf f.e) = true ∧ s.lop.bands.length < 64) ∧
    (let s : State := queued press (entryOf 0x62 3 100 0x100000400 0 0)
     let n : Fin 16 := 0
     let f : Flight := f5 (entryOf 0x62 3 100 0x100000400 0 0) .queued
     s.starts n f ∧ f.e.op = 0x62 ∧ (∀ b ∈ f.e.blocks, s.blkUp b = true) ∧ s.bandGood (s.bandOf f.e) = false) ∧
    (let s : State := queued (loops { up.lop with bands := List.replicate 64 { press.bandOf (entryOf 0x62 2 9000 0x8000000400 0 0) with first := 5000 } }) bandEntry
     let n : Fin 16 := 0
     let f : Flight := f5 bandEntry .queued
     s.starts n f ∧ f.e.op = 0x62 ∧ (∀ b ∈ f.e.blocks, s.blkUp b = true) ∧ s.bandGood (s.bandOf f.e) = true ∧ 64 ≤ s.lop.bands.length) ∧
    (let s : State := onChip press bandEntry .waiting
     let n : Fin 16 := 0
     let f : Flight := f5 bandEntry .waiting
     s.numbered ∧ s.lop.bands.length < 64 ∧ s.bandGood (s.bandOf f.e) = true ∧ s.hif.flights.find? (fun f => decide (f.ring = n ∧ f.e.op = 0x62 ∧
       f.phase = .waiting)) = some f) ∧
    (let s : State := press
     let b : Band := press.bandOf bandEntry
     s.bandGood b = true) ∧
    (let s : State := queued (camera {}) (loopEntry 0 0)
     let n : Fin 16 := 0
     let f : Flight := f5 (loopEntry 0 0) .queued
     let loop : Nat := 0
     s.starts n f ∧ f.e.op = 0x70 ∧ loop = f.e.sub.toNat ∧ (∀ b ∈ f.e.blocks, s.blkUp b = true) ∧ s.loopRefusal 0 [0] = none ∧
       planesOf (f.e.a[0].extractLsb' 8 8) = [0] ∧ f.e.num 0 % 256 = 0 ∧ (s.lop.plane[0]).phase 0 = .off) ∧
    (let s : State := queued up (loopEntry 0 0)
     let n : Fin 16 := 0
     let f : Flight := f5 (loopEntry 0 0) .queued
     let loop : Nat := 0
     s.starts n f ∧ f.e.op = 0x70 ∧ loop = f.e.sub.toNat ∧ (∀ b ∈ f.e.blocks, s.blkUp b = true) ∧ s.loopRefusal 0 [0] = some 1) ∧
    (let s : State := queued (loops { up.lop with plane := up.lop.plane.set 0 { noz := .run } }) (loopEntry 2 1)
     let n : Fin 16 := 0
     let f : Flight := f5 (loopEntry 2 1) .queued
     let loop : Nat := 2
     s.starts n f ∧ f.e.op = 0x70 ∧ loop = f.e.sub.toNat ∧ (∀ b ∈ f.e.blocks, s.blkUp b = true) ∧ s.loopRefusal 2 [0] = none ∧
       (s.lop.plane[0]).phase 2 = .run ∧ f.e.num 0 % 256 = 1) ∧
    (let s : State := queued (loops { up.lop with plane := up.lop.plane.set 0 { noz := .frozen } }) (loopEntry 2 2)
     let n : Fin 16 := 0
     let f : Flight := f5 (loopEntry 2 2) .queued
     let loop : Nat := 2
     s.starts n f ∧ f.e.op = 0x70 ∧ loop = f.e.sub.toNat ∧ (∀ b ∈ f.e.blocks, s.blkUp b = true) ∧ s.loopRefusal 2 [0] = none ∧
       (s.lop.plane[0]).phase 2 = .frozen ∧ f.e.num 0 % 256 = 2) ∧
    (let s : State := queued { camera {} with lop := { up.lop with plane := up.lop.plane.set 0 { dens := .frozen, integral := [(3, 9)] } } } (loopEntry 0 2)
     let n : Fin 16 := 0
     let f : Flight := f5 (loopEntry 0 2) .queued
     let loop : Nat := 0
     s.starts n f ∧ f.e.op = 0x70 ∧ loop = f.e.sub.toNat ∧ (∀ b ∈ f.e.blocks, s.blkUp b = true) ∧ s.loopRefusal 0 [0] = none ∧
       f.e.num 0 % 256 = 2) ∧
    (let s : State := banded none
     let b : Band := (camera {}).bandOf bandEntry
     s.blkUp .lop = true ∧ s.lop.bands.find? s.bandPassed = some b) ∧
    (let s : State := banded (some 0)
     let b : Band := { (camera {}).bandOf bandEntry with passedAt := some 0 }
     let at_ : Nat := 20000000000
     let u : State := s.advance at_
     u.lop.bands.find? (fun b => match b.passedAt with | some x => decide (x + 20000000000 ≤ u.now) | none => false) = some b) ∧
    (let s : State := loops { up.lop with marks := [⟨0, 5, 10, 20⟩, ⟨1, 5, 30, 50⟩], plane := up.lop.plane.set 1 { coll := .run } }
     s.blkUp .lop = true ∧ s.lop.later = [] ∧ (s.lop.plane[1]).coll = .run ∧ s.standsBy = false ∧ (1 : Fin 8) ≠ s.refPlane ∧
       (meanOf s.lop.marks 1 Mark.ey).isSome = true ∧ (meanOf s.lop.marks s.refPlane Mark.ey).isSome = true ∧ (s.lop.plane[0]).coll ≠ .run) ∧
    (let s : State := loops { up.lop with waiting := [change1] }
     let loop : Fin 3 := 1
     let a : LoopApply := change1
     s.lop.waiting.find? (fun a => decide (a.loop = loop.val)) = some a) ∧
    (let old : Int := 5
     let base : Int := 5
     let change : Int := 20
     let step : Int := 2
     let total : Int := 9
     0 ≤ step ∧ 0 ≤ total) :=
  ⟨by decide +kernel, by decide +kernel, by decide +kernel, by decide +kernel, by decide +kernel, by decide +kernel, by decide +kernel,
   by decide +kernel, by decide +kernel, by decide +kernel, by decide +kernel, by decide +kernel, by decide +kernel, by decide +kernel,
   by decide +kernel⟩

/-- Comparator 2 armed at a target, with its registers. -/
def comparing (target period : Nat) : State := { up with
  regs := [(0x280140, 3), (0x280400, 0x3226)]
  tim := { up.tim with cmp := up.tim.cmp.set 2 { armed := true, target := target, period := period } } }

/-- Comparator 2's target registers at 1,000 clocks, TIME_CLK having counted some. -/
def aiming (count : Nat) : State := { up with regs := [(0x280144, 1000)], tim := { up.tim with count := count } }

/-- A PTP ordinary clock that is a slave on port 0, PTP being the source of time. -/
def ptpSlave (x : PtpExchange) : State := { up with
  regs := [(0x280000, 1), (0x280040, 1), (0x280044, 77)], tim := { up.tim with ptpState := 9, ethLink := Vector.replicate 2 true, ptp := x } }

/-- `up` with both ring ports UP. -/
def ringUp (f : UrgState → UrgState) : State := { up with urg := f { up.urg with port := Vector.replicate 2 { state := .up } } }

/-- A tide word of a node. -/
def tideWord (node : BitVec 10) (count : BitVec 48) : TideWord :=
  { source := node, group := 0, valid := true, still := false, rev := false, timeOk := true, count := count, extreme := count, edgeTime := 0, speed := 0 }

/-- A plane prints on tide words: the source in use is node 3, the device follows ring time. -/
def tide (srcs : List TideSource) (f : UrgState → UrgState) : State := { press with
  regs := [(0x160000, 0x70000), (0x280000, 2), (0x2A0000, 9)], tim := { up.tim with state := .locked }
  urg := f { up.urg with sources := srcs, inUse := some 3 } }

/-- A live tide source. -/
def sourceOf (node : BitVec 10) (words : Nat) : TideSource := { node := node, live := true, words := words, word := tideWord node 100 }

/-- A timebase. -/
def timed (t : TimState) : State := { up with tim := t }

/-- `up` with ring port 0 and others, in a reset state. -/
def asleepWith (f : RstState → RstState) : State := { rstOf f with urg := { up.urg with port := Vector.replicate 2 { state := .up } } }

/-- Ring frames from node 9: one for node 0, one TIDE for all. -/
def frameOne : RingFrame := { type_ := 0x20, src := 9, dst := 0, all := false, hops := 1022, seq := 3, payload := [] }
def frameAll : RingFrame := { type_ := 0x10, src := 9, dst := 5, all := true, hops := 0, seq := 4, payload := [] }

theorem test_hyps_TheTimebaseIsSteeredWithoutJumps :
    (let s : State := up
     let v : Word := 9
     let at_ : Nat := 100
     let u : State := s.advance at_
     u.takesWrite 0x280008 ∧ u.timeSrc = 0 ∧ u.printing = false) ∧
    (let s : State := { up with regs := [(0x280000, 1)] }
     let v : Word := 9
     let at_ : Nat := 100
     let u : State := s.advance at_
     u.takesWrite 0x280008 ∧ u.timeSrc ≠ 0) ∧
    (let s : State := { press with tim := { up.tim with rate := 1099512, rateHist := [(0, 0)] } }
     let v : Word := 5
     let at_ : Nat := 100
     let u : State := s.advance at_
     u.takesWrite 0x280008 ∧ u.printing = true ∧ u.recentRates = [1099512, 0]) ∧
    (let s : State := { press with tim := { up.tim with rate := 1099512, rateHist := [(0, 0)] } }
     let v : Word := 0x7FFFFFFF
     let at_ : Nat := 100
     let u : State := s.advance at_
     u.takesWrite 0x280008) ∧
    (let s : State := up
     let hi : Word := 1
     let at_ : Nat := 5
     let u : State := s.advance at_
     u.takesWrite 0x280014 ∧ u.timeSrc = 0 ∧ u.printing = false) ∧
    (let s : State := press
     let hi : Word := 1
     let at_ : Nat := 5
     let u : State := s.advance at_
     u.takesWrite 0x280014 ∧ u.printing = true) ∧
    (let s : State := { press with tim := { up.tim with state := .locked, rate := 9 } }
     let v : Word := 0x1402
     s.takesWrite 0x280000) :=
  ⟨by decide +kernel, by decide +kernel, by decide +kernel, by decide +kernel, by decide +kernel, by decide +kernel, by decide +kernel⟩

theorem test_hyps_ComparatorsGpiosAndPtpFollowTheTimebase :
    (let s : State := aiming 1000
     let k : Fin 16 := 2
     let v : Word := 3
     let at_ : Nat := 0
     let u : State := s.advance at_
     u.takesWrite (cmpReg k 0) ∧ (v.getLsbD 0) = true ∧ 0 ≤ u.pastTarget (1000 * 16) ∧ u.cmpRuns 2 = true ∧ u.clkRuns 1 = true) ∧
    (let s : State := aiming 999
     let k : Fin 16 := 2
     let v : Word := 1
     let at_ : Nat := 0
     let u : State := s.advance at_
     u.takesWrite (cmpReg k 0) ∧ u.pastTarget (1000 * 16) < 0) ∧
    (let s : State := aiming 9
     let k : Fin 16 := 2
     let v : Word := 0
     let at_ : Nat := 0
     let u : State := s.advance at_
     u.takesWrite (cmpReg k 0)) ∧
    (let s : State := comparing 16 5
     let k : Fin 16 := 2
     let at_ : Nat := 32
     let u : State := s.advance at_
     u.tim.cmp[2].armed = true ∧ u.cmpRuns 2 = true ∧ u.clkRuns 1 = true ∧ 0 ≤ u.pastTarget u.tim.cmp[2].target ∧ u.rst.asleep = false ∧
       u.regBit (cmpReg 2 0) 1 = true ∧ u.blkUp .tim = true ∧ u.gpioMode 0 = 2 ∧ u.regField (gpioReg 0) 4 4 = 2 ∧ u.gpioMode 1 ≠ 2) ∧
    (let s : State := comparing 320 5
     let k : Fin 16 := 2
     let at_ : Nat := 32
     let u : State := s.advance at_
     u.pastTarget u.tim.cmp[2].target < 0) ∧
    (let c : Comparator := { period := 5, armed := true }
     let past : Int := 12
     0 ≤ past) ∧
    (let c : Comparator := { period := 0, armed := true }
     let past : Int := 0
     0 ≤ past) ∧
    (let s : State := up
     let g : Fin 16 := 15
     let v : Word := 3
     s.takesWrite (gpioReg g)) ∧
    (let s : State := up
     let g : Fin 16 := 15
     let v : Word := 5
     s.takesWrite (gpioReg g)) ∧
    (let s : State := up
     let g : Fin 16 := 15
     let v : Word := 6
     s.takesWrite (gpioReg g)) ∧
    (let s : State := timed { up.tim with gpioPulse := up.tim.gpioPulse.set 15 (some 80) }
     let g : Fin 16 := 15
     let v : Word := 0
     s.takesWrite (gpioReg g)) ∧
    (let s : State := timed { up.tim with gpioPulse := up.tim.gpioPulse.set 4 (some 80) }
     let g : Fin 16 := 4
     let at_ : Nat := 80
     let e : Nat := 80
     let u : State := s.advance at_
     u.tim.gpioPulse[g] = some e) ∧
    (let s : State := timed { up.tim with gpioPulse := up.tim.gpioPulse.set 4 (some 80) }
     let g : Fin 16 := 4
     let at_ : Nat := 79
     let e : Nat := 80
     let u : State := s.advance at_
     u.tim.gpioPulse[g] = some e) ∧
    (let s : State := ptpSlave {}
     let kind : PtpKind := .delayReq
     let at_ : Nat := 10
     let u : State := s.advance at_
     u.ptpRuns = true ∧ u.ptpSends .delayReq = true) ∧
    (let s : State := ptpSlave {}
     let kind : PtpKind := .sync
     let at_ : Nat := 10
     let u : State := s.advance at_
     u.ptpSends .sync = false) ∧
    (let s : State := up
     let kind : PtpKind := .delayReq
     let at_ : Nat := 10
     let u : State := s.advance at_
     u.ptpRuns = false) ∧
    (let s : State := ptpSlave {}
     let m : PtpFrame := { body := .arp 77 }
     let at_ : Nat := 10
     let u : State := s.advance at_
     u.regBit 0x280040 2 = false ∧ (77 : Word) = u.reg 0x280044) ∧
    (let s : State := up
     let p : Fin 2 := 1
     let up : Bool := true
     s.rst.netOff = false ∧ s.clkRuns 3 = true ∧ s.rst.aon = .up ∧ s.rst.asleep = false) :=
  ⟨by decide +kernel, by decide +kernel, by decide +kernel, by decide +kernel, by decide +kernel, by decide +kernel, by decide +kernel,
   by decide +kernel, by decide +kernel, by decide +kernel, by decide +kernel, by decide +kernel, by decide +kernel, by decide +kernel,
   by decide +kernel, by decide +kernel, by decide +kernel, by decide +kernel⟩

theorem test_hyps_RingPortsFramesMasterAndTimeFollowTheirRules :
    (let s : State := up
     let p : Fin 2 := 0
     s.ringRuns = true ∧ (s.urg.port[0]).state = .down) ∧
    (let s : State := early
     let p : Fin 2 := 0
     s.ringRuns = false) ∧
    (let s : State := ringUp id
     let p : Fin 2 := 1
     let b : RingBlock := ⟨true, 0x1E⟩
     let bs : List RingBlock := [⟨true, 0x77⟩, ⟨true, 0x3C⟩]
     s.ringRuns = true) ∧
    (let s : State := up
     let p : Fin 2 := 0
     let b : RingBlock := ⟨true, 0x3C⟩
     let bs : List RingBlock := []
     s.ringRuns = true) ∧
    (let s : State := ringUp id
     let p : Fin 2 := 0
     let b : RingBlock := ⟨true, 0x1E⟩
     let bs : List RingBlock := (frameOne : RingFrame).blocks true
     let f : RingFrame := frameOne
     let ok : Bool := true
     frameIn (b :: bs) = some (f, ok) ∧ f.type_ ≠ 0x01 ∧ f.type_ ≠ 0x03 ∧ f.type_ ≠ 0x04 ∧ f.type_ ≠ 0x05 ∧ s.ringRuns = true ∧
       (!f.all && decide (f.dst = s.node)) = true ∧ f.src ≠ s.node ∧ (s.noteSeq f.src f.seq).1 = false) ∧
    (let s : State := ringUp id
     let p : Fin 2 := 0
     let b : RingBlock := ⟨true, 0x1E⟩
     let bs : List RingBlock := (frameAll : RingFrame).blocks true
     let f : RingFrame := frameAll
     let ok : Bool := true
     frameIn (b :: bs) = some (f, ok) ∧ f.type_ ≠ 0x01 ∧ f.type_ ≠ 0x03 ∧ f.type_ ≠ 0x04 ∧ f.type_ ≠ 0x05 ∧ s.ringRuns = true ∧
       (!f.all && decide (f.dst = s.node)) = false ∧ (s.noteSeq f.src f.seq).1 = false) ∧
    (let s : State := ringUp id
     let p : Fin 2 := 1
     let b : RingBlock := ⟨true, 0x1E⟩
     let bs : List RingBlock := (frameAll : RingFrame).blocks false
     let f : RingFrame := frameAll
     let ok : Bool := false
     frameIn (b :: bs) = some (f, ok) ∧ f.type_ ≠ 0x01 ∧ f.type_ ≠ 0x03 ∧ f.type_ ≠ 0x04 ∧ f.type_ ≠ 0x05 ∧ s.ringRuns = true) ∧
    (let s : State := ringUp id
     let p : Fin 2 := 1
     let b : RingBlock := ⟨true, 0x1E⟩
     let bs : List RingBlock := ({ frameAll with hops := 1023 } : RingFrame).blocks true
     let f : RingFrame := { frameAll with hops := 1023 }
     let ok : Bool := true
     frameIn (b :: bs) = some (f, ok) ∧ f.type_ ≠ 0x01 ∧ f.type_ ≠ 0x03 ∧ f.type_ ≠ 0x04 ∧ f.type_ ≠ 0x05 ∧ s.ringRuns = true) ∧
    (let s : State := ringUp fun x => { x with port := Vector.replicate 2 { state := .up, low := true } }
     let p : Fin 2 := 1
     let b : RingBlock := ⟨true, 0x1E⟩
     let bs : List RingBlock := ({ frameAll with seq := 5 } : RingFrame).blocks true
     let f : RingFrame := { frameAll with seq := 5 }
     let ok : Bool := true
     frameIn (b :: bs) = some (f, ok) ∧ f.type_ ≠ 0x01 ∧ f.type_ ≠ 0x03 ∧ f.type_ ≠ 0x04 ∧ f.type_ ≠ 0x05 ∧ s.ringRuns = true) ∧
    (let s : State := (up.noteSeq 9 4).2
     let p : Fin 2 := 1
     let b : RingBlock := ⟨true, 0x1E⟩
     let bs : List RingBlock := (frameAll : RingFrame).blocks true
     let f : RingFrame := frameAll
     let ok : Bool := true
     frameIn (b :: bs) = some (f, ok) ∧ f.type_ ≠ 0x01 ∧ f.type_ ≠ 0x03 ∧ f.type_ ≠ 0x04 ∧ f.type_ ≠ 0x05 ∧ s.ringRuns = true ∧
       (s.noteSeq f.src f.seq).1 = true) ∧
    (let top : BitVec 16 := 69
     let seq : BitVec 16 := 5
     let x : BitVec 16 := 6
     let recent : List (BitVec 16) := [5, 6]
     (-64 ≤ signed 16 (seq - top).toNat ∧ signed 16 (seq - top).toNat < 0)) ∧
    (let top : BitVec 16 := 69
     let seq : BitVec 16 := 70
     let x : BitVec 16 := 6
     let recent : List (BitVec 16) := [5, 6]
     0 < signed 16 (seq - top).toNat ∧ ((windowAfter (some (top, recent)) seq).2.1 - x).toNat ≤ 64) ∧
    (let top : BitVec 16 := 69
     let seq : BitVec 16 := 70
     let x : BitVec 16 := 5
     let recent : List (BitVec 16) := [5, 6]
     64 < ((windowAfter (some (top, recent)) seq).2.1 - x).toNat) ∧
    (let top : BitVec 16 := 69
     let seq : BitVec 16 := 4
     let x : BitVec 16 := 69
     let recent : List (BitVec 16) := [5, 6]
     signed 16 (seq - top).toNat < -64) ∧
    (let s : State := ringUp fun x => { x with master := some 0 }
     let at_ : Nat := 9
     let u : State := s.advance at_
     u.isMaster = true ∧ u.urg.dup = false ∧ u.blkUp .urg = true) ∧
    (let s : State := { ringUp fun x => { x with master := some 7 } with regs := [(0x280000, 2)] }
     let at_ : Nat := 9
     let u : State := s.advance at_
     u.isMaster = false ∧ u.ringRuns = true ∧ (7 : BitVec 10) ≠ u.node ∧ (u.noteSeq 7 5).1 = false ∧ u.timeSrc = 2 ∧ u.urg.master = some 7) :=
  ⟨by decide +kernel, by decide +kernel, by decide +kernel, by decide +kernel, by decide +kernel, by decide +kernel, by decide +kernel,
   by decide +kernel, by decide +kernel, by decide +kernel, by decide +kernel, by decide +kernel, by decide +kernel, by decide +kernel,
   by decide +kernel, by decide +kernel⟩

theorem test_hyps_TideSourcesStopsAndWakesTravelTheRing :
    (let s : State := tide [sourceOf 3 1] id
     let w : TideWord := tideWord 3 120
     let at_ : Nat := 4
     let u : State := s.advance at_
     u.blkUp .urg = true ∧ u.clkRuns 0 = true ∧ w.group = u.group ∧ w.timeOk = true ∧ u.timeOk = true ∧ u.urg.inUse = some w.source ∧
       u.usesTide = true ∧ u.blkUp .pos = true) ∧
    (let s : State := tide [sourceOf 3 2, sourceOf 2 1] fun x => { x with delta := some (20, 15) }
     let w : TideWord := tideWord 2 120
     let at_ : Nat := 4
     let u : State := s.advance at_
     u.timeOk = true ∧ u.urg.inUse = some 3 ∧ (3 : BitVec 10) ≠ w.source ∧ u.liveSource = some (sourceOf 3 2) ∧
       diff48 w.count.toNat ((sourceOf 3 2).word.countAt w.edgeTime u.urg.offset) = 20 ∧ w.source < 3) ∧
    (let s : State := tide [] fun x => { x with inUse := none }
     let w : TideWord := tideWord 2 120
     let at_ : Nat := 4
     let u : State := s.advance at_
     u.timeOk = true ∧ u.urg.inUse = none) ∧
    (let s : State := { tide [] id with clk := { up.clk with lock := 0 } }
     let w : TideWord := tideWord 2 120
     let at_ : Nat := 4
     let u : State := s.advance at_
     u.blkUp .urg = true ∧ u.clkRuns 0 = false) ∧
    (let s : State := tide [sourceOf 3 2, sourceOf 2 1] fun x => { x with delta := some (20, 16) }
     let n : BitVec 10 := 3
     s.blkUp .urg = true ∧ s.validDelta = some 20 ∧ (∃ x ∈ s.urg.sources, x.node ≠ 3 ∧ x.live = true) ∧ s.urg.inUse = some n) ∧
    (let s : State := tide [sourceOf 3 2] id
     let n : BitVec 10 := 3
     s.blkUp .urg = true ∧ s.urg.inUse = some 3 ∧ s.validDelta = none ∧ s.usesTide = true ∧ s.standsBy = false ∧ s.planePrints 0 = true ∧
       ∀ q : Fin 8, s.lineDueNow q = none) ∧
    (let s : State := tide [sourceOf 3 2] id
     let n : BitVec 10 := 2
     s.blkUp .urg = true) ∧
    (let s : State := tide [] id
     let node : BitVec 10 := 4
     let group : BitVec 8 := 0
     let mask : BitVec 8 := 0xFF
     s.blkUp .urg = true ∧ s.regBit 0x160000 18 = true ∧ group = s.group ∧ node ≠ s.node ∧ s.planePrints 0 = true ∧
       (s.fir.plane[0]).phase = .run ∧ s.twn.role = .single ∧ ∀ q : Fin 8, s.lineDueNow q = none) ∧
    (let s : State := tide [] id
     s.tellsRing = true ∧ s.blkUp .urg = true) ∧
    (let s : State := up
     s.tellsRing = false) ∧
    (let s : State := tide [] fun x => { x with stops := [4] }
     let node : BitVec 10 := 4
     let group : BitVec 8 := 0
     let planes : Vector PlanePhase 8 := Vector.replicate 8 PlanePhase.armed
     s.blkUp .urg = true) ∧
    (let s : State := tide [] fun x => { x with stops := [4, 5] }
     let node : BitVec 10 := 4
     let group : BitVec 8 := 0
     let planes : Vector PlanePhase 8 := Vector.replicate 8 PlanePhase.run
     s.blkUp .urg = true) ∧
    (let s : State := tide [] fun x => { x with stops := [4, 5] }
     let node : BitVec 10 := 4
     let group : BitVec 8 := 0
     let planes : Vector PlanePhase 8 := Vector.replicate 8 PlanePhase.hold
     s.blkUp .urg = true) ∧
    (let s : State := tide [] fun x => { x with stops := [4, 5] }
     let v : Word := 0x40000000
     let c : Instr := .urgClrRing 0x40000000
     (c = .urgSendWake v ∨ c = .urgClrRing v) ∧ s.takesWrite 0x2A000C) ∧
    (let s : State := tide [] fun x => { x with stops := [4, 5] }
     let v : Word := 0x80000005
     let c : Instr := .urgSendWake 0x80000005
     (c = .urgSendWake v ∨ c = .urgClrRing v) ∧ s.takesWrite 0x2A000C) ∧
    (let s : State := rstOf fun r => { r with sleepCfg := 0x80, asleep := true }
     s.reachL0 = false) :=
  ⟨by decide +kernel, by decide +kernel, by decide +kernel, by decide +kernel, by decide +kernel, by decide +kernel, by decide +kernel,
   by decide +kernel, by decide +kernel, by decide +kernel, by decide +kernel, by decide +kernel, by decide +kernel, by decide +kernel,
   by decide +kernel, by decide +kernel⟩

/-- A twin of node 9 whose peer is node 3, following ring time, with chapter 17's stops on. -/
def twin (role : TwinRole) (f : TwnState → TwnState) : State := { press with
  regs := [(0x160000, 0x507D0), (0x260000, 1), (0x280000, 2), (0x2A0000, 9), (0x2C0000, 0x3000D)]
  tim := { up.tim with state := .locked }
  twn := f { up.twn with role := role, plane := up.twn.plane.map fun x => { x with valid := true, match_ := 4095 } } }

/-- Own and peer signatures of line 5 of plane 0, on link 0. -/
def sigOf (err : Bool) (crc : BitVec 32) : Sig := { plane := 0, line := 5, err := err, sums := [(0, crc)] }

/-- A twin whose own signature of line 5 is held, and what the peer sends. -/
def compared (role : TwinRole) (own : Sig) (f : TwnState → TwnState) : State := twin role fun x => f { x with own := [own] }

/-- A twin with plane 0 in RUN at line `next`. -/
def twinAt (next : Nat) (s : State) : State := { s with fir := { s.fir with plane := s.fir.plane.set 0 { phase := .run, next := next } } }

/-- A twin with no plane printing. -/
def quietTwin (role : TwinRole) (f : TwnState → TwnState) : State := { twin role f with fir := {} }

/-- A TWIN_CTRL entry. -/
def twinEntry (action : BitVec 64) : Entry := entryOf 0x72 0 action 0 0 0

/-- CORE_CLK stopped. -/
def stoppedCore : State := { up with clk := { lock := 0x7EF } }

theorem test_hyps_TwinsPairCompareAndFail_1 : ((twin .standby id).blkUp .twn = false ∨ (8 : BitVec 10) ≠ (twin .standby id).peerNode ∨ (8 : BitVec 10) = (twin .standby id).node) ∧ (Instr.joinRx 8 = .joinRx 8 ∨ ∃ e, Instr.joinRx 8 = .takeoverRx 8 e) := ⟨.inr (.inl (by decide +kernel)), .inl rfl⟩

theorem test_hyps_TwinsPairCompareAndFail :
    (let s : State := twin .single id
     s.twinOn = true ∧ s.blkUp .urg = true) ∧
    (let s : State := up
     s.twinOn = false) ∧
    (let s : State := twin .single id
     let node : BitVec 10 := 3
     let role : TwinRole := .single
     let epoch : BitVec 16 := 7
     let prefer : Bool := false
     let peer : BitVec 10 := 9
     let group : BitVec 8 := 0
     let stops : Bool := true
     let locked : Bool := true
     let settings : List Nat := (twin .single id).twinSettings
     let lats : Vector (BitVec 24) 8 := Vector.replicate 8 5
     let blocked : Bool := false
     s.blkUp .twn = true ∧ node = s.peerNode ∧ node ≠ s.node ∧ s.twinOn = true ∧ s.twn.role = .single ∧ peer = s.node ∧ group = s.group ∧
       s.groupStops = true ∧ s.ringLocked = true ∧ s.regBit 0x2C0000 1 = prefer) ∧
    (let s : State := twin .single id
     let node : BitVec 10 := 3
     let role : TwinRole := .active
     let epoch : BitVec 16 := 7
     let prefer : Bool := false
     let peer : BitVec 10 := 9
     let group : BitVec 8 := 0
     let stops : Bool := true
     let locked : Bool := true
     let settings : List Nat := (twin .single id).twinSettings
     let lats : Vector (BitVec 24) 8 := Vector.replicate 8 5
     let blocked : Bool := true
     s.blkUp .twn = true ∧ node = s.peerNode ∧ node ≠ s.node) ∧
    (let s : State := twin .single id
     let node : BitVec 10 := 3
     let role : TwinRole := .single
     let epoch : BitVec 16 := 7
     let prefer : Bool := true
     let peer : BitVec 10 := 9
     let group : BitVec 8 := 0
     let stops : Bool := true
     let locked : Bool := true
     let settings : List Nat := (twin .single id).twinSettings
     let lats : Vector (BitVec 24) 8 := Vector.replicate 8 5
     let blocked : Bool := true
     s.blkUp .twn = true ∧ node = s.peerNode ∧ node ≠ s.node ∧ s.regBit 0x2C0000 1 ≠ prefer) ∧
    (let s : State := twin .joining id
     let node : BitVec 10 := 3
     let role : TwinRole := .active
     let epoch : BitVec 16 := 7
     let prefer : Bool := true
     let peer : BitVec 10 := 9
     let group : BitVec 8 := 0
     let stops : Bool := true
     let locked : Bool := true
     let settings : List Nat := (twin .single id).twinSettings
     let lats : Vector (BitVec 24) 8 := Vector.replicate 8 5
     let blocked : Bool := true
     s.blkUp .twn = true ∧ node = s.peerNode ∧ node ≠ s.node) ∧
    (let s : State := { twin .standby fun x => { x with plane := x.plane.map fun y => { y with stamps := [(0, 1, 2)] } } with fir := (running 0 oneLine).fir }
     let node : BitVec 10 := 3
     let p : Fin 8 := 0
     let line : BitVec 48 := 0
     let stamp : BitVec 48 := 7
     let tf : BitVec 24 := 8
     s.blkUp .twn = true ∧ node = s.peerNode ∧ node ≠ s.node ∧ s.standsBy = true ∧ s.fireLine p ≤ line.toNat) ∧
    (let s : State := twin .joining id
     let node : BitVec 10 := 3
     let p : Fin 8 := 0
     let line : BitVec 48 := 5
     let stamp : BitVec 48 := 7
     let tf : BitVec 24 := 8
     s.blkUp .twn = true ∧ node = s.peerNode ∧ node ≠ s.node ∧ s.standsBy = true) ∧
    (let s : State := twinAt 11 (compared .active (sigOf false 7) id)
     let node : BitVec 10 := 3
     let bytes : List Byte := sigBytes (sigOf false 7)
     let own : Sig := sigOf false 7
     let g : Sig := parseSig bytes
     s.blkUp .twn = true ∧ node = s.peerNode ∧ node ≠ s.node ∧ s.paired = true ∧ (s.fir.plane[g.plane]).swapAt = none ∧
       (¬(s.twn.role = .standby ∧ (s.twn.plane[g.plane]).late = some g.line)) ∧ s.twn.own.find? (fun x => sameLine x g) = some own ∧
       s.fireLine g.plane > g.line + 5) ∧
    (let s : State := compared .active (sigOf false 7) fun x => { x with plane := up.twn.plane }
     let node : BitVec 10 := 3
     let bytes : List Byte := sigBytes (sigOf false 7)
     let own : Sig := sigOf false 7
     let g : Sig := parseSig bytes
     s.blkUp .twn = true ∧ node = s.peerNode ∧ node ≠ s.node ∧ s.paired = true ∧ (s.fir.plane[g.plane]).swapAt = none ∧
       (¬(s.twn.role = .standby ∧ (s.twn.plane[g.plane]).late = some g.line)) ∧ s.twn.own.find? (fun x => sameLine x g) = some own ∧
       s.compares g.plane g.line = false ∧ s.fireLine g.plane ≤ g.line + 5) ∧
    (let s : State := twinAt 10 (compared .joining (sigOf false 7) id)
     let node : BitVec 10 := 3
     let bytes : List Byte := sigBytes (sigOf false 7)
     let own : Sig := sigOf false 7
     let g : Sig := parseSig bytes
     s.blkUp .twn = true ∧ node = s.peerNode ∧ node ≠ s.node ∧ s.paired = true ∧ (s.fir.plane[g.plane]).swapAt = none ∧
       (¬(s.twn.role = .standby ∧ (s.twn.plane[g.plane]).late = some g.line)) ∧ s.twn.own.find? (fun x => sameLine x g) = some own ∧
       (s.fireLine g.plane ≤ g.line + 5 ∧ s.compares g.plane g.line = true ∧ mismatches own g = [] ∧ s.planePrints g.plane = true ∧
       4095 ≤ s.twn.plane[g.plane].match_ ∧ ∀ q : Fin 8, q ≠ g.plane → s.planePrints q = true → s.twn.plane[q].match_ = 4096)) ∧
    (let s : State := compared .joining (sigOf false 7) id
     let node : BitVec 10 := 3
     let bytes : List Byte := sigBytes (sigOf false 8)
     let own : Sig := sigOf false 7
     let g : Sig := parseSig bytes
     s.blkUp .twn = true ∧ node = s.peerNode ∧ node ≠ s.node ∧ s.paired = true ∧ (s.fir.plane[g.plane]).swapAt = none ∧
       (¬(s.twn.role = .standby ∧ (s.twn.plane[g.plane]).late = some g.line)) ∧ s.twn.own.find? (fun x => sameLine x g) = some own ∧
       mismatches own g ≠ [] ∧ s.twn.role = .joining) ∧
    (let s : State := compared .active (sigOf true 7) fun x => { x with peerRole := some .standby }
     let node : BitVec 10 := 3
     let bytes : List Byte := sigBytes (sigOf false 8)
     let own : Sig := sigOf true 7
     let g : Sig := parseSig bytes
     s.blkUp .twn = true ∧ node = s.peerNode ∧ node ≠ s.node ∧ s.paired = true ∧ (s.fir.plane[g.plane]).swapAt = none ∧
       (¬(s.twn.role = .standby ∧ (s.twn.plane[g.plane]).late = some g.line)) ∧ s.twn.own.find? (fun x => sameLine x g) = some own ∧
       mismatches own g ≠ [] ∧ s.compares g.plane g.line = true ∧ s.twn.peerRole ≠ some .joining ∧ s.calm ∧ own.err = true ∧ g.err = false) ∧
    (let s : State := compared .active (sigOf false 7) fun x => { x with peerRole := some .standby }
     let node : BitVec 10 := 3
     let bytes : List Byte := sigBytes (sigOf true 8)
     let own : Sig := sigOf false 7
     let g : Sig := parseSig bytes
     s.blkUp .twn = true ∧ node = s.peerNode ∧ node ≠ s.node ∧ s.paired = true ∧ (s.fir.plane[g.plane]).swapAt = none ∧
       (¬(s.twn.role = .standby ∧ (s.twn.plane[g.plane]).late = some g.line)) ∧ s.twn.own.find? (fun x => sameLine x g) = some own ∧
       mismatches own g ≠ [] ∧ s.compares g.plane g.line = true ∧ g.err = true ∧ s.calm) ∧
    (let s : State := compared .active (sigOf false 7) fun x => { x with peerRole := some .standby }
     let node : BitVec 10 := 3
     let bytes : List Byte := sigBytes (sigOf false 8)
     let own : Sig := sigOf false 7
     let g : Sig := parseSig bytes
     s.blkUp .twn = true ∧ node = s.peerNode ∧ node ≠ s.node ∧ s.paired = true ∧ (s.fir.plane[g.plane]).swapAt = none ∧
       (¬(s.twn.role = .standby ∧ (s.twn.plane[g.plane]).late = some g.line)) ∧ s.twn.own.find? (fun x => sameLine x g) = some own ∧
       mismatches own g ≠ [] ∧ s.compares g.plane g.line = true ∧ g.err = false ∧ s.calm) ∧
    (let s : State := compared .standby (sigOf false 7) fun x => { x with peerRole := some .active }
     let node : BitVec 10 := 3
     let bytes : List Byte := sigBytes (sigOf true 8)
     let own : Sig := sigOf false 7
     let g : Sig := parseSig bytes
     s.blkUp .twn = true ∧ node = s.peerNode ∧ node ≠ s.node ∧ s.paired = true ∧ (s.fir.plane[g.plane]).swapAt = none ∧
       (¬(s.twn.role = .standby ∧ (s.twn.plane[g.plane]).late = some g.line)) ∧ s.twn.own.find? (fun x => sameLine x g) = some own ∧
       mismatches own g ≠ [] ∧ s.compares g.plane g.line = true ∧ s.twn.role = .standby ∧ s.calm) ∧
    (let s : State := compared .standby (sigOf true 7) fun x => { x with peerRole := some .active }
     let node : BitVec 10 := 3
     let bytes : List Byte := sigBytes (sigOf false 8)
     let own : Sig := sigOf true 7
     let g : Sig := parseSig bytes
     s.blkUp .twn = true ∧ node = s.peerNode ∧ node ≠ s.node ∧ s.paired = true ∧ (s.fir.plane[g.plane]).swapAt = none ∧
       (¬(s.twn.role = .standby ∧ (s.twn.plane[g.plane]).late = some g.line)) ∧ s.twn.own.find? (fun x => sameLine x g) = some own ∧
       mismatches own g ≠ [] ∧ s.compares g.plane g.line = true ∧ s.twn.role = .standby ∧ s.calm) ∧
    (let s : State := compared .standby (sigOf false 7) fun x => { x with peerRole := some .active }
     let node : BitVec 10 := 3
     let bytes : List Byte := sigBytes (sigOf false 8)
     let own : Sig := sigOf false 7
     let g : Sig := parseSig bytes
     s.blkUp .twn = true ∧ node = s.peerNode ∧ node ≠ s.node ∧ s.paired = true ∧ (s.fir.plane[g.plane]).swapAt = none ∧
       (¬(s.twn.role = .standby ∧ (s.twn.plane[g.plane]).late = some g.line)) ∧ s.twn.own.find? (fun x => sameLine x g) = some own ∧
       mismatches own g ≠ [] ∧ s.compares g.plane g.line = true ∧ s.twn.role = .standby ∧ s.calm) ∧
    (let s : State := twin .standby fun x => { x with plane := up.twn.plane.set 0 { late := some 5 } }
     let node : BitVec 10 := 3
     let bytes : List Byte := sigBytes (sigOf false 7)
     let g := parseSig bytes
     s.blkUp .twn = true ∧ node = s.peerNode ∧ node ≠ s.node ∧ s.paired = true ∧ s.twn.role = .standby ∧
       (s.twn.plane[g.plane]).late = some g.line) ∧
    (let s : State := { up with plk := { link := up.plk.link.set 3 { st := .run } } }
     let v : Word := 0
     s.takesWrite 0x2C000C ∧ s.printing = false) ∧
    (let s : State := up
     let v : Word := 0xFFFF
     s.takesWrite 0x2C000C) ∧
    (let s : State := twin .active id
     let v : Word := 5
     s.takesWrite 0x2C000C ∧ s.printing = true) ∧
    (let s : State := quietTwin .active id
     let v : Word := 0
     s.takesWrite 0x2C0000 ∧ s.regBit 0x2C0000 0 = true ∧ v.getLsbD 0 = false ∧ s.printing = false ∧ s.calm ∧ s.rst.aon = .up ∧
       s.rst.mgmt = .up) ∧
    (let s : State := twin .active id
     let v : Word := 0
     s.takesWrite 0x2C0000 ∧ s.regBit 0x2C0000 0 = true ∧ v.getLsbD 0 = false ∧ s.printing = true) ∧
    (let s : State := twin .standby id
     let v : Word := 1
     s.takesWrite 0x2C0010 ∧ s.paired = true ∧ s.calm ∧ s.rst.aon = .up ∧ s.rst.mgmt = .up) ∧
    (let s : State := up
     let v : Word := 0
     s.takesWrite 0x2C0010) ∧
    (let s : State := queued { twin .failed id with rst := { up.rst with twinFault := true } } (twinEntry 0)
     let n : Fin 16 := 0
     let f : Flight := f5 (twinEntry 0) .queued
     s.starts n f ∧ f.e.op = 0x72 ∧ bitsOf (f.e.num 0) 0 4 = 0 ∧ s.blkUp .twn = true ∧ s.twn.role = .failed ∧ s.calm ∧ s.rst.aon = .up ∧
       s.rst.mgmt = .up ∧ s.rst.wdog = false ∧ s.rst.dataHold = false ∧ s.rst.ctrlHold = false) ∧
    (let s : State := queued (twin .standby id) (twinEntry 0)
     let n : Fin 16 := 0
     let f : Flight := f5 (twinEntry 0) .queued
     s.starts n f ∧ f.e.op = 0x72 ∧ bitsOf (f.e.num 0) 0 4 = 0 ∧ s.blkUp .twn = true ∧ s.twn.role ≠ .failed) :=
  ⟨by decide +kernel, by decide +kernel, by decide +kernel, by decide +kernel, by decide +kernel, by decide +kernel, by decide +kernel,
   by decide +kernel, by decide +kernel, by decide +kernel, by decide +kernel, by decide +kernel, by decide +kernel, by decide +kernel,
   by decide +kernel, by decide +kernel, by decide +kernel, by decide +kernel, by decide +kernel, by decide +kernel, by decide +kernel,
   by decide +kernel, by decide +kernel, by decide +kernel, by decide +kernel, by decide +kernel, by decide +kernel, by decide +kernel⟩

theorem test_hyps_TakeoverJoinAndPlannedSwap :
    (let s : State := twin .standby fun x => { x with block := Vector.replicate 8 7 }
     let node : BitVec 10 := 3
     s.blkUp .twn = true ∧ node = s.peerNode ∧ node ≠ s.node ∧ s.twn.role = .standby ∧ (∀ q : Fin 8, s.lineDueNow q = none) ∧
       s.planePrints 0 = true ∧ s.twn.block[0].getLsbD 0 = true ∧ s.blkUp .urg = true) ∧
    (let s : State := twin .active id
     let node : BitVec 10 := 3
     s.blkUp .twn = true ∧ node = s.peerNode ∧ node ≠ s.node ∧ s.twn.role = .active ∧ s.twn.swap = none ∧ s.planePrints 0 = true ∧
       s.planePrints 1 = false) ∧
    (let s : State := { twin .joining id with lck := { ch := up.lck.ch.set 2 { st := .open_ } } }
     let node : BitVec 10 := 3
     s.blkUp .twn = true ∧ node = s.peerNode ∧ node ≠ s.node ∧ s.standsBy = true ∧ (∀ k : Fin 4, (s.lck.ch[k]).st ≠ .armed) ∧
       s.blkUp .lck = true ∧ (s.lck.ch[2]).st = .open_) ∧
    (let s : State := twin .single id
     let node : BitVec 10 := 3
     s.blkUp .twn = true ∧ node = s.peerNode ∧ node ≠ s.node) ∧
    (let s : State := twin .standby id
     s.blkUp .twn = true ∧ s.regBit 0x2C0000 2 = true ∧ s.twn.role = .standby ∧ (∀ g ∈ s.twn.peer, g.err = false) ∧
       ∀ q : Fin 8, s.lineDueNow q = none) ∧
    (let s : State := twin .standby fun x => { x with peer := [sigOf true 1], peerLive := true }
     (∃ g ∈ s.twn.peer, g.err = true)) ∧
    (let s : State := queued (twin .active fun x => { x with peerRole := some .standby }) (twinEntry 1)
     let n : Fin 16 := 0
     let f : Flight := f5 (twinEntry 1) .queued
     s.starts n f ∧ f.e.op = 0x72 ∧ bitsOf (f.e.num 0) 0 4 = 1 ∧ s.blkUp .twn = true ∧ s.twn.role = .active ∧ s.twn.peerRole = some .standby ∧
       s.twn.peerBlock = false ∧ (s.fir.plane[0]).phase = .run) ∧
    (let s : State := queued (quietTwin .active fun x => { x with peerRole := some .standby }) (twinEntry 1)
     let n : Fin 16 := 0
     let f : Flight := f5 (twinEntry 1) .queued
     s.starts n f ∧ f.e.op = 0x72 ∧ bitsOf (f.e.num 0) 0 4 = 1 ∧ s.blkUp .twn = true ∧ (∀ p : Fin 8, (s.fir.plane[p]).firing = false)) ∧
    (let s : State := queued (twin .active fun x => { x with peerRole := some .standby, peerBlock := true }) (twinEntry 1)
     let n : Fin 16 := 0
     let f : Flight := f5 (twinEntry 1) .queued
     s.starts n f ∧ f.e.op = 0x72 ∧ bitsOf (f.e.num 0) 0 4 = 1 ∧ s.blkUp .twn = true) ∧
    (let s : State := queued (twin .active id) (twinEntry 1)
     let n : Fin 16 := 0
     let f : Flight := f5 (twinEntry 1) .queued
     s.starts n f ∧ f.e.op = 0x72 ∧ bitsOf (f.e.num 0) 0 4 = 1 ∧ s.blkUp .twn = true ∧ s.twn.peerRole ≠ some .standby) ∧
    (let s : State := queued (twin .standby id) (twinEntry 1)
     let n : Fin 16 := 0
     let f : Flight := f5 (twinEntry 1) .queued
     s.starts n f ∧ f.e.op = 0x72 ∧ bitsOf (f.e.num 0) 0 4 = 1 ∧ s.blkUp .twn = true ∧ s.twn.role ≠ .active) :=
  ⟨by decide +kernel, by decide +kernel, by decide +kernel, by decide +kernel, by decide +kernel, by decide +kernel, by decide +kernel,
   by decide +kernel, by decide +kernel, by decide +kernel, by decide +kernel⟩

theorem test_hyps_WritesWaitOrAreDiscardedWhereTheyCannotReach :
    (let c : Instr := .fillStart
     let s : State := rstOf fun r => { r with relData := 0 }
     let u : State := rstOf fun r => { r with relData := 0 }
     let o : Nat := 0x80048
     let v : Word := 1
     registerWritten s c = some (u, o, v) ∧ s.barOpen 0x80048 = false) ∧
    (let c : Instr := .mmuEnableWrite true
     let s : State := stoppedCore
     let u : State := stoppedCore
     let o : Nat := 0x50000
     let v : Word := 1
     registerWritten s c = some (u, o, v) ∧ s.barOpen 0x50000 = true ∧ s.clockStopped 0x50000 = true) ∧
    (let s : State := up
     let o : BitVec 25 := 0x80049
     let v : Word := 5
     o.toNat % 4 ≠ 0) :=
  ⟨by decide +kernel, by decide +kernel, by decide +kernel⟩

theorem test_hyps_EntriesStayInOrderOfFetch : ({ queued up (entryOf 0 0 0 0 0 0) with pending := [.fillStart] } : State).numbered ∧ ∃ t, step { queued up (entryOf 0 0 0 0 0 0) with pending := [.fillStart] } = .next t := ⟨by decide +kernel, _, rfl⟩

theorem test_hyps_EveryCommandKeepsToItsParts : ∃ t, exec .fillStart up = .next t := ⟨_, rfl⟩

theorem test_hyps_ResetCausesAndTheThermalLatchStay : Instr.fillStart ≠ .powerOnAssert ∧ (∃ t, exec .fillStart (rstOf fun r => { r with therm := true, cause := 0x11 }) = .next t) ∧ (rstOf fun r => { r with therm := true, cause := 0x11 }).rst.therm = true ∧ (∀ v : Word, Instr.fillStart ≠ .registerWrite 0x10000 v) ∧ (∀ a ∈ up.hif.accesses, a.off = 0x10000 → a.write = none) ∧ ({ up with pins := { thermtrip := true } } : State).pins.thermtrip = true := ⟨by decide, ⟨_, rfl⟩, rfl, fun _ h => Instr.noConfusion h, by decide +kernel, rfl⟩

/-! The well-formedness checks refuse an ill-formed command, each once. -/

theorem test_wf_bar_access : (Instr.barAccessUnsupported true 0x1000 4).wf = false ∧ (Instr.barAccessUnsupported true 0x1002 4).wf = true ∧
    (Instr.barAccessUnsupported true 0x1000 0).wf = false := by decide +kernel

theorem test_wf_register_offsets : (Instr.registerWrite 0x40002 0).wf = false ∧ (Instr.regAccessAbandoned false 0x40001).wf = false := by decide +kernel

theorem test_wf_bar2_access : (Instr.bar2Access true 0xFFFFFFF [1, 2]).wf = false ∧ (Instr.bar2Access false 0 []).wf = false := by decide +kernel

theorem test_wf_clock_numbers : (Instr.clockMonitorWindow ⟨[(9, 64)], 0⟩).wf = false := by decide +kernel

theorem test_wf_piece_length : (Instr.dataMoverPieceDone 0 (List.replicate 4097 0)).wf = false := by decide +kernel

theorem test_wf_dram_access : (Instr.dramRequestArrive 0 ⟨false, 32, 33, [], false⟩ 0).wf = false ∧
    (Instr.dramRequestArrive 0 ⟨true, 0, 2, [1], false⟩ 0).wf = false ∧ (Instr.dramRequestArrive 0 ⟨false, 0, 0, [], false⟩ 0).wf = false := by decide +kernel

theorem test_wf_web_line : (Instr.screenLineWrite 0 (2 ^ 48) .fill).wf = false := by decide +kernel

theorem test_wf_ring_payload : (Instr.ringFrameForward 0 ⟨true, 0x3C⟩ []).wf = false := by decide +kernel

/-- R355: START of TYPE 0x10, SRC 9, DST 5, ALL, HOPS 2, byte by byte, and the count of payload blocks in END. -/
theorem test_ring_frame_blocks : let f : RingFrame := { type_ := 0x10, src := 9, dst := 5, all := true, hops := 2, seq := 0x1234, payload := List.replicate 8 0xA5 }
    (f.blocks true).map (·.control) = [true, false, true] ∧ ((f.blocks true)[0]?).map (·.bits) = some 0x000204050009103C ∧
    ((f.blocks true)[1]?).map (·.bits) = some 0xA5A5A5A5A5A5A5A5 ∧ ((f.blocks true)[2]?).map (fun b => b.bits.extractLsb' 40 24) = some 0x011234 ∧
    frameIn (⟨true, 0x1E⟩ :: f.blocks true) = some (f, true) ∧ frameIn (f.blocks false) = some (f, false) := by decide +kernel

/-- R362: a tide word byte by byte. -/
theorem test_tide_word_bytes : ({ source := 0x301, group := 7, valid := true, still := false, rev := true, timeOk := true, count := 0x102030405060, extreme := 2, edgeTime := 3, speed := 0xFFFFFFFF } : TideWord).bytes =
    [0x01, 0x03, 0x07, 0x0D, 0x60, 0x50, 0x40, 0x30, 0x20, 0x10, 2, 0, 0, 0, 0, 0, 3, 0, 0, 0, 0, 0, 0, 0, 0xFF, 0xFF, 0xFF, 0xFF, 0, 0, 0, 0] := by decide

theorem test_wf_long_packet : (Instr.csiLongPacket 0 0 false .clean 0x2A (List.replicate 65536 0) true).wf = false := by decide +kernel

theorem test_wf_twin_settings :
    (Instr.twinHeartbeatRx 0 .single 0 false 0 0 false false [1, 2, 3] (Vector.replicate 8 0) false).wf = false := by decide +kernel

theorem test_wf_signature_mask : (Instr.sigRx 0 [0, 1, 0, 0, 0, 0, 0, 0, 1, 0, 0, 0]).wf = false ∧
    (Instr.sigRx 0 [0, 1, 0, 0, 0, 0, 0, 0, 1, 0, 0, 0, 9, 9, 9, 9]).wf = true := by decide +kernel

theorem test_wf_stage : (Instr.stageRx 0 0 [] (List.replicate 65 (0, 0)) []).wf = false ∧ (Instr.stageRx 0 0 [] [] [(262144, 0)]).wf = false := by decide +kernel

theorem test_wf_readings : (Instr.sensorConversion ((Vector.replicate 12 (some 250)).set 11 (some 32768))).wf = false ∧
    (Instr.sleepSensorSample (some (-32769))).wf = false := by decide +kernel

/-! Figures the spec works out, against the model's own functions. -/

/-- R150: the CRC-32C of the nine ASCII bytes. -/
theorem test_crc_check_value : crc32c [0x31, 0x32, 0x33, 0x34, 0x35, 0x36, 0x37, 0x38, 0x39] = 0xE3069283 := by decide +kernel

/-- R148 and the worked example of a 2-bit base quire. -/
theorem test_header_example :
    let h := parseHeader ([0x41, 0x4C, 0x51, 0x52, 0x01, 0x02, 0x02, 0x04, 0x00, 0x00, 0x10, 0x00, 0x00, 0x00, 0x00, 0x02, 0x00, 0x00, 0x00, 0x80,
      0x00, 0x00, 0x40, 0x00, 0x28, 0x70, 0x08, 0x00, 0xE7, 0x91, 0x3C, 0x5A] ++ List.replicate 32 0)
    h.magic = 0x52514C41 ∧ h.plane = 2 ∧ h.kind = 2 ∧ h.role = 4 ∧ h.first = 1048576 ∧ h.count = 512 ∧ h.colFirst = 0 ∧ h.colCount = 32768 ∧
      h.rawLen = 4194304 ∧ h.compLen = 553000 ∧ h.crc = 0x5A3C91E7 ∧ h.clean = true ∧ h.crcOk = false := by decide +kernel

/-- R182 and the worked example of one contone column. -/
theorem test_tone_example : correctedTone 2200 20 = 2286 ∧ correctedTone 4095 127 = 4095 := by decide +kernel

/-- R183, R184 and the same example: thresholds 40, 130 and 210 of screen set 3 in cell (16, 24). -/
theorem test_screen_example :
    let s := up.writeTable 0x0012 0x318100 [40, 130, 210]
    screenLevel s.liveView 2 3 16 24 2286 = 2 ∧ screenLevel s.liveView 2 3 16 24 648 = 1 ∧ screenLevel s.liveView 2 3 16 24 647 = 0 := by decide +kernel

/-- R180 and the same example: entry 128 of curve 37 of plane C2 at byte 211,008. -/
theorem test_curve_example : curveAt (up.writeTable 0x0010 211008 [0x98, 0x18, 0x00]).liveView 2 37 128 = 2200 ∧
    curveAt (up.writeTable 0x0010 211008 [0x98, 0x18, 0x00]).liveView 2 37 129 = 1 := by decide +kernel

/-- R174, R176 and their examples. -/
theorem test_plate_and_overlay_examples :
    let pl : Plate := ⟨0, 0, 24000, 100000, none, 0, 0, 1⟩
    let o : Overlay := ⟨none, 0, 1, 100000, none, 24000, 1500⟩
    pl.lineAt 150000 = 2000 ∧ o.inWindow 148700 = true ∧ o.inWindow 150000 = false := by decide +kernel

/-- R266, R272, R279, R280 and the worked example of line 1,048,600 on link 17. -/
theorem test_link_example :
    let s : State := { up with regs := [(0xC0000, 2)] }
    let c : Caps := { pver := 1, rates := 3, dual := false, portB := false, auth := false, tmin := 3125, proc := 640, channels := 8192, maxBits := 4, nbuf := 4 }
    meanHalf [862] = 431 ∧ s.bits = 2 ∧ s.lineBlocks = 266 ∧ blockTicks .r10 266 = 681 ∧ s.linkLatency c .r10 431 = 1412 ∧
      s.linkPeriod c .r10 1412 = 3125 ∧ s.linkPeriod { c with tmin := 0 } .r10 1412 = 1106 := by decide +kernel

/-- R273 and the same example: 33 54 58 62 02 00 00 C1 in memory. -/
theorem test_line_start_example :
    leBytes 8 (startBlock 2 false { line := 1048600, stamp := 39999572, tf := 5080, deadline := 0, links := [], sends := true }).toNat =
      [0x33, 0x54, 0x58, 0x62, 0x02, 0x00, 0x00, 0xC1] := by decide +kernel

/-- R210, R274 and the same example: phases 121 at T_f 5,080 give 4B 00 61 09 00 61 09 00. -/
theorem test_line_phase_example :
    leBytes 8 (phaseBlock (up.writeTable 0x0004 (8192 + 16 * 17 * 4) [0, 0, 121, 0, 0, 0, 121, 0]).liveView 17 5080 0).toNat =
      [0x4B, 0x00, 0x61, 0x09, 0x00, 0x61, 0x09, 0x00] := by decide +kernel

/-- R238 and its example: 96.31 ppm. -/
theorem test_stretch_example : stretchOf 1775760 0x972E5CB9 1775589 0x972E5CB9 = 9631 := by decide +kernel

/-- R233 and the worked example of dither: 1,003,937.0079 in FWD and 1,003,935.3268 in REV, to the 2 in 10,000 line that the truncated ratio loses. -/
theorem test_position_example :
    let s : State := { up with regs := [(0x140008, 0x972E5CB9), (0x14000C, 0), (0x140014, 0xFFFF8000)] }
    let x : Int := (1700000 * (s.ratio : Int) * 65536 / 2 ^ 32) * 10000 / 65536
    let y : Int := ((1699998 * (s.ratio : Int) * 65536 / 2 ^ 32) + s.regSigned 0x140014) * 10000 / 65536
    s.ratio = 0x972E5CB9 ∧ 10039370079 - 3 ≤ x ∧ x ≤ 10039370079 ∧ 10039353268 - 3 ≤ y ∧ y ≤ 10039353268 := by decide +kernel

/-- R316 and the worked example of column 10,000: −log10(0.2570) is 604 and −log10(0.2600) is 599. -/
theorem test_density_example : densityOf 2570 10000 = 604 ∧ densityOf 2600 10000 = 599 ∧ densityOf 1 1 = 0 := by decide +kernel

/-! The queue: a step runs its front command, an empty queue idles (log entry 46). -/

theorem test_empty_queue_idles :
    (match step State.reset with
     | .next t => decide (t.pending = [] ∧ t.out = [] ∧ t.now = 0 ∧ t.rst = State.reset.rst)
     | _ => false) = true := by decide +kernel

theorem test_step_takes_the_front :
    (match step { State.reset with pending := [.powerOnRelease, .thmPeakClear] } with
     | .next t => decide (t.pending = [.thmPeakClear])
     | _ => false) = true := by decide +kernel


end Sys2Proof.Tests
end

section
/-! The canonical form of the sparse memories and the order of the entries on chip, at reset and under every step (O3, O4). -/

namespace Sys2Proof.Machine

/-- What the law of each command says of the state it starts in, for every command. -/
theorem exec_keeps (c : Instr) (s : State) : OKeeps s (exec c s) := by
  cases c with
  | powerOnAssert => exact execPowerOnAssert_keeps (.refl s)
  | powerOnRelease => exact execPowerOnRelease_keeps (.refl s)
  | railDipDetect => exact execRailDipDetect_keeps (.refl s)
  | railRecoverRelease => exact execRailRecoverRelease_keeps (.refl s)
  | resetNAssert => exact execResetNAssert_keeps (.refl s)
  | resetNRelease => exact execResetNRelease_keeps (.refl s)
  | pciePerstAssert => exact execPciePerstAssert_keeps (.refl s)
  | pciePerstDeassert => exact execPciePerstDeassert_keeps (.refl s)
  | watchdogExpiry => exact execWatchdogExpiry_keeps (.refl s)
  | watchdogSourceRelease => exact execWatchdogSourceRelease_keeps (.refl s)
  | linkResetExpiry link => exact execLinkResetExpiry_keeps link (.refl s)
  | rstBlockHoldWrite hold => exact execRstBlockHoldWrite_keeps hold (.refl s)
  | rstDataHoldWrite hold => exact execRstDataHoldWrite_keeps hold (.refl s)
  | rstCtrlHoldWrite hold => exact execRstCtrlHoldWrite_keeps hold (.refl s)
  | rstLinkWrite hold => exact execRstLinkWrite_keeps hold (.refl s)
  | isolationDrained unit => exact execIsolationDrained_keeps unit (.refl s)
  | domainClocksStable unit => exact execDomainClocksStable_keeps unit (.refl s)
  | pendingClockTimeout unit => exact execPendingClockTimeout_keeps unit (.refl s)
  | blockRelease domain => exact execBlockRelease_keeps domain (.refl s)
  | dmcZqCalDone => exact execDmcZqCalDone_keeps (.refl s)
  | pllLock pll => exact execPllLock_keeps pll (.refl s)
  | oscillatorStart => exact execOscillatorStart_keeps (.refl s)
  | otpReadDone record => exact execOtpReadDone_keeps record (.refl s)
  | secureBootDone slotA slotB => exact execSecureBootDone_keeps slotA slotB (.refl s)
  | dramTrainingDone channel result => exact execDramTrainingDone_keeps channel result (.refl s)
  | serdesCalibrationDone bank ok => exact execSerdesCalibrationDone_keeps bank ok (.refl s)
  | firmwareSelfTestDone ok elapsedMs => exact execFirmwareSelfTestDone_keeps ok elapsedMs (.refl s)
  | pcieLinkUp => exact execPcieLinkUp_keeps (.refl s)
  | configRequest access => exact execConfigRequest_keeps access (.refl s)
  | barAccessUnsupported write offset length => exact execBarAccessUnsupported_keeps write offset length (.refl s)
  | registerWrite offset value => exact execRegisterWrite_keeps offset value (.refl s)
  | regAccessAbandoned write offset => exact execRegAccessAbandoned_keeps write offset (.refl s)
  | bar2Access write offset bytes => exact execBar2Access_keeps write offset bytes (.refl s)
  | sleepEnterWrite value => exact execSleepEnterWrite_keeps value (.refl s)
  | sleepDrainDone => exact execSleepDrainDone_keeps (.refl s)
  | d3hotEntry => exact execD3hotEntry_keeps (.refl s)
  | sleepEntryTimeout => exact execSleepEntryTimeout_keeps (.refl s)
  | gpioWakeEdge gpio rising => exact execGpioWakeEdge_keeps gpio rising (.refl s)
  | heartbeatHalfPeriod => exact execHeartbeatHalfPeriod_keeps (.refl s)
  | fireEnableEdge at_ => exact execFireEnableEdge_keeps at_ (.refl s)
  | fireEnableTimeout at_ => exact execFireEnableTimeout_keeps at_ (.refl s)
  | clockMonitorWindow window => exact execClockMonitorWindow_keeps window (.refl s)
  | clkMeasStart value => exact execClkMeasStart_keeps value (.refl s)
  | clkMeasDone count => exact execClkMeasDone_keeps count (.refl s)
  | mrEnableWrite ring value => exact execMrEnableWrite_keeps ring value (.refl s)
  | mrDisableWrite ring value => exact execMrDisableWrite_keeps ring value (.refl s)
  | mrDrained ring => exact execMrDrained_keeps ring (.refl s)
  | crEnableWrite ring value => exact execCrEnableWrite_keeps ring value (.refl s)
  | logEnableWrite value => exact execLogEnableWrite_keeps value (.refl s)
  | progEnableWrite value => exact execProgEnableWrite_keeps value (.refl s)
  | progressBlockWrite => exact execProgressBlockWrite_keeps (.refl s)
  | dblMtailWrite ring tail => exact execDblMtailWrite_keeps ring tail (.refl s)
  | dblMctrlResume ring => exact execDblMctrlResume_keeps ring (.refl s)
  | dblCheadWrite ring head => exact execDblCheadWrite_keeps ring head (.refl s)
  | dblLheadWrite head => exact execDblLheadWrite_keeps head (.refl s)
  | manifestFetch ring entry => exact execManifestFetch_keeps ring entry (.refl s)
  | manifestReadFail ring => exact execManifestReadFail_keeps ring (.refl s)
  | coalTimerExpiry ring => exact execCoalTimerExpiry_keeps ring (.refl s)
  | msixUnmask write => exact execMsixUnmask_keeps write (.refl s)
  | lostRecordWrite => exact execLostRecordWrite_keeps (.refl s)
  | dataMoverPieceIssue => exact execDataMoverPieceIssue_keeps (.refl s)
  | dataMoverPieceDone piece bytes => exact execDataMoverPieceDone_keeps piece bytes (.refl s)
  | hostReadError piece => exact execHostReadError_keeps piece (.refl s)
  | nop ring => exact execNop_keeps ring (.refl s)
  | quireLoad ring => exact execQuireLoad_keeps ring (.refl s)
  | tableLoad ring => exact execTableLoad_keeps ring (.refl s)
  | tableLoadChannelDone => exact execTableLoadChannelDone_keeps (.refl s)
  | tableRead ring => exact execTableRead_keeps ring (.refl s)
  | mmuWrite ring => exact execMmuWrite_keeps ring (.refl s)
  | mmuInvalidate ring => exact execMmuInvalidate_keeps ring (.refl s)
  | copy ring => exact execCopy_keeps ring (.refl s)
  | copyQueueAdmit => exact execCopyQueueAdmit_keeps (.refl s)
  | compress ring => exact execCompress_keeps ring (.refl s)
  | lockOpen ring => exact execLockOpen_keeps ring (.refl s)
  | lockCheck ring => exact execLockCheck_keeps ring (.refl s)
  | lockArm ring => exact execLockArm_keeps ring (.refl s)
  | lockDiscard ring => exact execLockDiscard_keeps ring (.refl s)
  | jobOpen ring => exact execJobOpen_keeps ring (.refl s)
  | jobClose ring => exact execJobClose_keeps ring (.refl s)
  | serviceBand ring => exact execServiceBand_keeps ring (.refl s)
  | serviceBandAdmit ring => exact execServiceBandAdmit_keeps ring (.refl s)
  | loopCtrlRun ring => exact execLoopCtrlRun_keeps ring (.refl s)
  | loopCtrlFreeze ring => exact execLoopCtrlFreeze_keeps ring (.refl s)
  | loopCtrlZero ring => exact execLoopCtrlZero_keeps ring (.refl s)
  | linkCtrlTrain ring => exact execLinkCtrlTrain_keeps ring (.refl s)
  | linkCtrlRetrain ring => exact execLinkCtrlRetrain_keeps ring (.refl s)
  | linkCtrlPrbsStart ring => exact execLinkCtrlPrbsStart_keeps ring (.refl s)
  | linkCtrlPrbsStop ring => exact execLinkCtrlPrbsStop_keeps ring (.refl s)
  | linkCtrlAuthenticate ring => exact execLinkCtrlAuthenticate_keeps ring (.refl s)
  | linkCtrlDisable ring => exact execLinkCtrlDisable_keeps ring (.refl s)
  | twinCtrlClearFailed ring => exact execTwinCtrlClearFailed_keeps ring (.refl s)
  | twinCtrlPlannedSwap ring => exact execTwinCtrlPlannedSwap_keeps ring (.refl s)
  | counterRead ring => exact execCounterRead_keeps ring (.refl s)
  | mmuEnableWrite enable => exact execMmuEnableWrite_keeps enable (.refl s)
  | copyStart => exact execCopyStart_keeps (.refl s)
  | copyDone => exact execCopyDone_keeps (.refl s)
  | copyFail cause beat => exact execCopyFail_keeps cause beat (.refl s)
  | dramRequestArrive port access at_ => exact execDramRequestArrive_keeps port access at_ (.refl s)
  | dramSchedulePick sub at_ => exact execDramSchedulePick_keeps sub at_ (.refl s)
  | dramAgePromotion sub at_ => exact execDramAgePromotion_keeps sub at_ (.refl s)
  | dramReadReturn sub seq ecc => exact execDramReadReturn_keeps sub seq ecc (.refl s)
  | refreshDue sub at_ refreshTime => exact execRefreshDue_keeps sub at_ refreshTime (.refl s)
  | mr4Poll channel rank value => exact execMr4Poll_keeps channel rank value (.refl s)
  | dmcRetrainNow => exact execDmcRetrainNow_keeps (.refl s)
  | retrainStep sub at_ last => exact execRetrainStep_keeps sub at_ last (.refl s)
  | caParityAlert channel => exact execCaParityAlert_keeps channel (.refl s)
  | scrubUnitRead channel ecc => exact execScrubUnitRead_keeps channel ecc (.refl s)
  | fillStart => exact execFillStart_keeps (.refl s)
  | fillUnitIssue sub => exact execFillUnitIssue_keeps sub (.refl s)
  | decodeDispatch engine => exact execDecodeDispatch_keeps engine (.refl s)
  | decodeEnd engine => exact execDecodeEnd_keeps engine (.refl s)
  | replaceDeadline => exact execReplaceDeadline_keeps (.refl s)
  | quireRetire => exact execQuireRetire_keeps (.refl s)
  | compressEngineStart => exact execCompressEngineStart_keeps (.refl s)
  | compressEnd engine => exact execCompressEnd_keeps engine (.refl s)
  | screenLineWrite plane line source => exact execScreenLineWrite_keeps plane line source (.refl s)
  | rasterFetchStart link seg => exact execRasterFetchStart_keeps link seg (.refl s)
  | fetchComplete link seg => exact execFetchComplete_keeps link seg (.refl s)
  | gutterEmit link at_ => exact execGutterEmit_keeps link at_ (.refl s)
  | refillStart link => exact execRefillStart_keeps link (.refl s)
  | refillDone link => exact execRefillDone_keeps link (.refl s)
  | csmGateCloseWrite value => exact execCsmGateCloseWrite_keeps value (.refl s)
  | csmGateOpenWrite value => exact execCsmGateOpenWrite_keeps value (.refl s)
  | encoderStep k pins at_ => exact execEncoderStep_keeps k pins at_ (.refl s)
  | indexEvent k pin at_ => exact execIndexEvent_keeps k pin at_ (.refl s)
  | missingIndex k => exact execMissingIndex_keeps k (.refl s)
  | speedUpdate at_ => exact execSpeedUpdate_keeps at_ (.refl s)
  | standstill instant => exact execStandstill_keeps instant (.refl s)
  | stretchWindowClose => exact execStretchWindowClose_keeps (.refl s)
  | posFaultClear k => exact execPosFaultClear_keeps k (.refl s)
  | posMainWrite value => exact execPosMainWrite_keeps value (.refl s)
  | posChannelEnable k value => exact execPosChannelEnable_keeps k value (.refl s)
  | posZEnWrite k value => exact execPosZEnWrite_keeps k value (.refl s)
  | posLprWrite k value => exact execPosLprWrite_keeps k value (.refl s)
  | lineCommit plane at_ => exact execLineCommit_keeps plane at_ (.refl s)
  | lineLaunch plane at_ => exact execLineLaunch_keeps plane at_ (.refl s)
  | firCtrlStopWrite value => exact execFirCtrlStopWrite_keeps value (.refl s)
  | firCtrlResumeFwd value => exact execFirCtrlResumeFwd_keeps value (.refl s)
  | firNowDiscipline at_ => exact execFirNowDiscipline_keeps at_ (.refl s)
  | capFrameRx link frame => exact execCapFrameRx_keeps link frame (.refl s)
  | ackFrameRx link frame => exact execAckFrameRx_keeps link frame (.refl s)
  | t0Timeout link => exact execT0Timeout_keeps link (.refl s)
  | blockLockAcquire taken => exact execBlockLockAcquire_keeps taken (.refl s)
  | blockLockLoss taken => exact execBlockLockLoss_keeps taken (.refl s)
  | lockTimeout link => exact execLockTimeout_keeps link (.refl s)
  | prbsPhaseEnd link errors => exact execPrbsPhaseEnd_keeps link errors (.refl s)
  | echoSend link departure => exact execEchoSend_keeps link departure (.refl s)
  | echoReplyRx link id turn r1 arrival => exact execEchoReplyRx_keeps link id turn r1 arrival (.refl s)
  | echoReplyTimeout link id => exact execEchoReplyTimeout_keeps link id (.refl s)
  | echoPhaseTimeout link => exact execEchoPhaseTimeout_keeps link (.refl s)
  | syncSend link departure => exact execSyncSend_keeps link departure (.refl s)
  | statusRx link block => exact execStatusRx_keeps link block (.refl s)
  | statusTimeout link => exact execStatusTimeout_keeps link (.refl s)
  | authResponseRx link kind index bytes => exact execAuthResponseRx_keeps link kind index bytes (.refl s)
  | authTimeout link => exact execAuthTimeout_keeps link (.refl s)
  | cfgBankUpload link => exact execCfgBankUpload_keeps link (.refl s)
  | cfgConfirmTimeout link => exact execCfgConfirmTimeout_keeps link (.refl s)
  | linkBackoffExpiry link => exact execLinkBackoffExpiry_keeps link (.refl s)
  | plkEnableWrite link value => exact execPlkEnableWrite_keeps link value (.refl s)
  | csiFrameStart port vc vcx ecc number => exact execCsiFrameStart_keeps port vc vcx ecc number (.refl s)
  | csiFrameEnd port vc vcx ecc => exact execCsiFrameEnd_keeps port vc vcx ecc (.refl s)
  | csiLongPacket port vc vcx ecc dt payload crcOk => exact execCsiLongPacket_keeps port vc vcx ecc dt payload crcOk (.refl s)
  | frameEndTimeout ctx => exact execFrameEndTimeout_keeps ctx (.refl s)
  | streamStageTake at_ => exact execStreamStageTake_keeps at_ (.refl s)
  | triggerFire trigger at_ => exact execTriggerFire_keeps trigger at_ (.refl s)
  | triggerRecordExpire ctx at_ => exact execTriggerRecordExpire_keeps ctx at_ (.refl s)
  | cameraDropRecord ctx at_ => exact execCameraDropRecord_keeps ctx at_ (.refl s)
  | camPortEnWrite value => exact execCamPortEnWrite_keeps value (.refl s)
  | camContextEnableWrite ctx value => exact execCamContextEnableWrite_keeps ctx value (.refl s)
  | bandMeasure => exact execBandMeasure_keeps (.refl s)
  | bandMissedTimeout at_ => exact execBandMissedTimeout_keeps at_ (.refl s)
  | collationCycle => exact execCollationCycle_keeps (.refl s)
  | chamberBusyTimeout loop => exact execChamberBusyTimeout_keeps loop (.refl s)
  | lckSdataWrite chamber value => exact execLckSdataWrite_keeps chamber value (.refl s)
  | chamberCheckStart chamber => exact execChamberCheckStart_keeps chamber (.refl s)
  | chamberCheckEnd chamber => exact execChamberCheckEnd_keeps chamber (.refl s)
  | chamberApplyInstant chamber at_ => exact execChamberApplyInstant_keeps chamber at_ (.refl s)
  | chamberApplyCopyDone chamber => exact execChamberApplyCopyDone_keeps chamber (.refl s)
  | lockArmRx node group chamber kind plane instant => exact execLockArmRx_keeps node group chamber kind plane instant (.refl s)
  | lockReplyRx node chamber armed => exact execLockReplyRx_keeps node chamber armed (.refl s)
  | ringLockWaitTimeout chamber => exact execRingLockWaitTimeout_keeps chamber (.refl s)
  | lockCommitRx node chamber => exact execLockCommitRx_keeps node chamber (.refl s)
  | lockAbortRx node chamber => exact execLockAbortRx_keeps node chamber (.refl s)
  | lockOutcomeRx node chamber applied => exact execLockOutcomeRx_keeps node chamber applied (.refl s)
  | timRateWrite value at_ => exact execTimRateWrite_keeps value at_ (.refl s)
  | timStepWrite hi at_ => exact execTimStepWrite_keeps hi at_ (.refl s)
  | timSrcWrite value => exact execTimSrcWrite_keeps value (.refl s)
  | comparatorMatch k at_ => exact execComparatorMatch_keeps k at_ (.refl s)
  | comparatorEnableWrite k value at_ => exact execComparatorEnableWrite_keeps k value at_ (.refl s)
  | gpioModeWrite g value => exact execGpioModeWrite_keeps g value (.refl s)
  | ptpMessageRx msg at_ => exact execPtpMessageRx_keeps msg at_ (.refl s)
  | holdoverEntry => exact execHoldoverEntry_keeps (.refl s)
  | holdoverExpiry => exact execHoldoverExpiry_keeps (.refl s)
  | ringPortLock port => exact execRingPortLock_keeps port (.refl s)
  | ringPortRateAlternate port => exact execRingPortRateAlternate_keeps port (.refl s)
  | helloSend port => exact execHelloSend_keeps port (.refl s)
  | helloRx port node sleep => exact execHelloRx_keeps port node sleep (.refl s)
  | helloTimeout port => exact execHelloTimeout_keeps port (.refl s)
  | ringFrameForward port first rest => exact execRingFrameForward_keeps port first rest (.refl s)
  | announceSend => exact execAnnounceSend_keeps (.refl s)
  | announceRx node group prio accepts => exact execAnnounceRx_keeps node group prio accepts (.refl s)
  | nodeLivenessExpiry node => exact execNodeLivenessExpiry_keeps node (.refl s)
  | delayReqSend port at_ => exact execDelayReqSend_keeps port at_ (.refl s)
  | delayReqRx port departure turnaround => exact execDelayReqRx_keeps port departure turnaround (.refl s)
  | delayRespRx port rtt turnaround => exact execDelayRespRx_keeps port rtt turnaround (.refl s)
  | timeSend at_ => exact execTimeSend_keeps at_ (.refl s)
  | timeRx port src seq hops origin correction residence at_ => exact execTimeRx_keeps port src seq hops origin correction residence at_ (.refl s)
  | tideRx word at_ => exact execTideRx_keeps word at_ (.refl s)
  | tideSourceExpiry node => exact execTideSourceExpiry_keeps node (.refl s)
  | stopRx node group mask => exact execStopRx_keeps node group mask (.refl s)
  | stateSend => exact execStateSend_keeps (.refl s)
  | stateRx node group planes => exact execStateRx_keeps node group planes (.refl s)
  | urgSendWake value => exact execUrgSendWake_keeps value (.refl s)
  | wakeRx => exact execWakeRx_keeps (.refl s)
  | urgClrRing value => exact execUrgClrRing_keeps value (.refl s)
  | twinHeartbeatSend => exact execTwinHeartbeatSend_keeps (.refl s)
  | twinHeartbeatRx node role epoch prefer peer group stops locked settings lats blocked => exact execTwinHeartbeatRx_keeps node role epoch prefer peer group stops locked settings lats blocked (.refl s)
  | stampRx node plane line stamp tf => exact execStampRx_keeps node plane line stamp tf (.refl s)
  | sigRx node bytes => exact execSigRx_keeps node bytes (.refl s)
  | takeoverRx node epoch => exact execTakeoverRx_keeps node epoch (.refl s)
  | failedRx node cause => exact execFailedRx_keeps node cause (.refl s)
  | swapRx node first => exact execSwapRx_keeps node first (.refl s)
  | planeStateRx node plane xa phia print ofs stretch epoch => exact execPlaneStateRx_keeps node plane xa phia print ofs stretch epoch (.refl s)
  | stageRx node chamber units entries targets => exact execStageRx_keeps node chamber units entries targets (.refl s)
  | joinRx node => exact execJoinRx_keeps node (.refl s)
  | peerLossTimeout => exact execPeerLossTimeout_keeps (.refl s)
  | twnCtrlFailWrite value => exact execTwnCtrlFailWrite_keeps value (.refl s)
  | twnEnableWrite value => exact execTwnEnableWrite_keeps value (.refl s)
  | twnEpochWrite value => exact execTwnEpochWrite_keeps value (.refl s)
  | sensorConversion readings => exact execSensorConversion_keeps readings (.refl s)
  | thermalHistoryEntry => exact execThermalHistoryEntry_keeps (.refl s)
  | thmCfgWrite rate value => exact execThmCfgWrite_keeps rate value (.refl s)
  | thmPeakClear => exact execThmPeakClear_keeps (.refl s)
  | sleepSensorSample reading => exact execSleepSensorSample_keeps reading (.refl s)
  | pmcFreezeWrite freeze => exact execPmcFreezeWrite_keeps freeze (.refl s)
  | pmcSnapWrite => exact execPmcSnapWrite_keeps (.refl s)
  | pmcSnapshot => exact execPmcSnapshot_keeps (.refl s)
  | pmcWindowClose => exact execPmcWindowClose_keeps (.refl s)
  | pmcCounterWrite k high value => exact execPmcCounterWrite_keeps k high value (.refl s)
  | pmcWinWrite ns => exact execPmcWinWrite_keeps ns (.refl s)
  | ringPortLockLoss port => exact execRingPortLockLoss_keeps port (.refl s)
  | pllLosesLock pll => exact execPllLosesLock_keeps pll (.refl s)
  | csiClockLaneChange port running => exact execCsiClockLaneChange_keeps port running (.refl s)
  | triggerPulseEnd trigger => exact execTriggerPulseEnd_keeps trigger (.refl s)
  | gpioPulseEnd g at_ => exact execGpioPulseEnd_keeps g at_ (.refl s)
  | ptpMessageSend kind at_ => exact execPtpMessageSend_keeps kind at_ (.refl s)
  | ethernetLinkChange port up => exact execEthernetLinkChange_keeps port up (.refl s)
  | scrCfgBitsWrite value => exact execScrCfgBitsWrite_keeps value (.refl s)

/-- A step keeps the invariants: it is the command at the front, carried out on the state with the queue's rest, or an idle step. -/
theorem step_keeps_wf {s t : State} (hs : s.wf) (h : step s = .next t) : t.wf := by
  unfold step at h
  split at h
  next =>
    cases h
    exact (State.idle_keeps (.refl s)).wf hs
  next c rest _ => exact (exec_keeps c { s with pending := rest } t h).wf hs

theorem reset_wf : State.reset.wf := ⟨rfl, rfl, rfl, rfl⟩

theorem reset_numbered : State.reset.numbered := ⟨.nil, List.forall_mem_nil _⟩

/-- Settles O3: every memory and the list of entries on chip are empty at reset. -/
theorem resetStateIsCanonical : Obligations.ResetStateIsCanonical := ⟨reset_wf, reset_numbered⟩

/-- Settles O4, by the law of each command and that of the idle step. -/
theorem stepKeepsCanonicalMemories : Obligations.StepKeepsCanonicalMemories :=
  fun _ _ hs h => step_keeps_wf hs h

end Sys2Proof.Machine
end

section
/-! Bytes written to DRAM through a port: where the pieces of a byte string stand, and what DRAM reads as after them (R138, R144). -/

namespace Sys2Proof.Machine

theorem readRange_eq {get : Nat → Byte} {a : Nat} {bs : List Byte} (h : ∀ (i : Nat) (hi : i < bs.length), get (a + i) = bs[i]) :
    readRange get a bs.length = bs := by
  induction bs generalizing a with
  | nil => rfl
  | cons b bs ih =>
    have hb : get a = b := h 0 (Nat.succ_pos _)
    have ht : readRange get (a + 1) bs.length = bs := ih fun i hi => by
      rw [Nat.add_assoc, Nat.add_comm 1 i]
      exact h (i + 1) (Nat.succ_lt_succ hi)
    simp [readRange, hb, ht]

theorem writeRange_append (d : Option Byte) (m : Mem) (a : Nat) (xs ys : List Byte) :
    writeRange d m a (xs ++ ys) = writeRange d (writeRange d m a xs) (a + xs.length) ys := by
  induction xs generalizing m a with
  | nil => rfl
  | cons x xs ih => simp only [List.cons_append, writeRange, ih, List.length_cons, Nat.add_assoc, Nat.add_comm 1]

theorem sparseGet_writeRange_outside (z : Byte) (m : Mem) (a : Nat) (bs : List Byte) {b : Nat} (h : b < a ∨ a + bs.length ≤ b) :
    sparseGet z (writeRange none m a bs) b = sparseGet z m b := by
  induction bs generalizing m a with
  | nil => rfl
  | cons x bs ih =>
    rw [List.length_cons] at h
    exact (ih _ _ (by omega)).trans (sparseGet_sparseInsert_ne z m (by omega) x)

theorem sparseGet_writeRange_inside (z : Byte) (m : Mem) (a : Nat) (bs : List Byte) {i : Nat} (hi : i < bs.length) :
    sparseGet z (writeRange none m a bs) (a + i) = bs[i] := by
  induction bs generalizing m a i with
  | nil => exact absurd hi (Nat.not_lt_zero i)
  | cons x bs ih =>
    cases i with
    | zero => exact (sparseGet_writeRange_outside z _ (a + 1) bs (by omega)).trans (sparseGet_sparseInsert_same z m a x)
    | succ i =>
      have hi' : i < bs.length := Nat.lt_of_succ_lt_succ hi
      show sparseGet z (writeRange none (sparseInsert m a x) (a + 1) bs) (a + (i + 1)) = bs[i]
      rw [Nat.add_comm i 1, ← Nat.add_assoc]
      exact ih _ _ hi'

/-- Every piece of a byte string starts at one of its bytes. -/
theorem cutUnits_start {k a : Nat} {bs : List Byte} {p : Nat × List Byte} (h : p ∈ cutUnits k a bs) : ∃ i < bs.length, p.1 = a + i := by
  induction k generalizing a bs with
  | zero => exact absurd h List.not_mem_nil
  | succ k ih =>
    cases bs with
    | nil => exact absurd h List.not_mem_nil
    | cons b bs =>
      rcases List.mem_cons.1 h with rfl | h
      · exact ⟨0, Nat.succ_pos _, rfl⟩
      · obtain ⟨i, hi, e⟩ := ih h
        rw [List.length_drop] at hi
        exact ⟨64 - a % 64 + i, by omega, by rw [e, Nat.add_assoc]⟩

/-- The pieces of a byte string, written one after the other, write the string. -/
theorem foldl_writeRange_cutUnits (d : Option Byte) {k : Nat} (m : Mem) (a : Nat) {bs : List Byte} (hk : bs.length ≤ k) :
    (cutUnits k a bs).foldl (fun m p => writeRange d m p.1 p.2) m = writeRange d m a bs := by
  induction k generalizing m a bs with
  | zero => rw [List.eq_nil_of_length_eq_zero (Nat.le_zero.1 hk)]; rfl
  | succ k ih =>
    cases bs with
    | nil => rfl
    | cons b bs =>
      have hn : 0 < 64 - a % 64 := by omega
      generalize hn' : 64 - a % 64 = n at hn
      have hrest : ((b :: bs).drop n).length ≤ k := by rw [List.length_drop]; omega
      simp only [cutUnits, List.foldl_cons, hn']
      rw [ih _ _ hrest]
      have hsplit : writeRange d m a (b :: bs) =
          writeRange d (writeRange d m a ((b :: bs).take n)) (a + ((b :: bs).take n).length) ((b :: bs).drop n) := by
        rw [← writeRange_append, List.take_append_drop]
      rw [hsplit]
      rcases Nat.le_total n (b :: bs).length with hl | hl
      · rw [List.length_take, Nat.min_eq_left hl]
      · rw [List.drop_eq_nil_of_le hl]; rfl

/-- DMC stores what a port writes at an address: it is out of reset, the address is served, and the regions admit the port (R59, R132, R144). -/
def State.storesAt (s : State) (port : Fin 10) (a : Nat) : Prop := s.blkUp .dmc = true ∧ s.unserved a = false ∧ s.rgnAdmits port a = true

theorem reqAt_addr (s : State) (port : Fin 10) (cls : Fin 4) (write : Bool) (a len : Nat) : (s.reqAt port cls write a len).addr = a := by
  simp only [State.reqAt, DramReq.addr]
  omega

theorem dramPutUnit_dram {s : State} {port : Fin 10} {a : Nat} (h : s.storesAt port a) (bs : List Byte) (chamber : Bool) :
    (s.dramPutUnit port a bs chamber).dram = writeRange none s.dram a bs := by
  obtain ⟨hup, hserved, hadmits⟩ := h
  have hlands : s.writeLands (s.reqAt port (portClass port chamber) true a bs.length) = true := by
    simp only [State.writeLands, reqAt_addr, hserved]
    simp [State.reqAt, hadmits]
  rw [State.dramPutUnit, State.putWrite_dram, if_pos ⟨hup, hlands⟩, reqAt_addr]

/-- A write changes nothing that another write depends on. -/
theorem storesAt_dramPutUnit {s : State} {port p : Fin 10} {a b : Nat} (h : s.storesAt p b) (bs : List Byte) (chamber : Bool) :
    (s.dramPutUnit port a bs chamber).storesAt p b := by
  obtain ⟨hregs, hrst, hgeom, hfault⟩ := State.putWrite_rest s (s.reqAt port (portClass port chamber) true a bs.length) bs
  have like : DramLike s { s.dramPutUnit port a bs chamber with dram := s.dram } := ⟨hregs, hrst, hgeom, hfault, rfl⟩
  exact ⟨(like.blkUp .dmc).trans h.1, (like.unserved b).trans h.2.1, (State.rgnAdmits_congr hregs p b).trans h.2.2⟩

theorem foldl_dramPutUnit_dram {port : Fin 10} {l : List (Nat × List Byte)} {s : State} (h : ∀ p ∈ l, s.storesAt port p.1) (chamber : Bool) :
    (l.foldl (fun t p => t.dramPutUnit port p.1 p.2 chamber) s).dram = l.foldl (fun m p => writeRange none m p.1 p.2) s.dram := by
  induction l generalizing s with
  | nil => rfl
  | cons p l ih =>
    have hp := h p List.mem_cons_self
    rw [List.foldl_cons, ih fun q hq => storesAt_dramPutUnit (h q (List.mem_cons_of_mem p hq)) p.2 chamber, dramPutUnit_dram hp, List.foldl_cons]

/-- A write whose bytes DMC all stores puts them into DRAM. -/
theorem dramPut_dram {s : State} {port : Fin 10} {a : Nat} {bs : List Byte} (h : ∀ i < bs.length, s.storesAt port (a + i)) (chamber : Bool) :
    (s.dramPut port a bs chamber).dram = writeRange none s.dram a bs := by
  have hpieces : ∀ p ∈ cutUnits (bs.length + 1) a bs, s.storesAt port p.1 := fun p hp => by
    obtain ⟨i, hi, e⟩ := cutUnits_start hp
    exact e ▸ h i hi
  rw [State.dramPut, foldl_dramPutUnit_dram hpieces, foldl_writeRange_cutUnits none s.dram a (Nat.le_succ _)]

theorem dramByte_of_written_outside {s t : State} {a : Nat} {bs : List Byte} (ht : t.dram = writeRange none s.dram a bs) {b : Nat}
    (h : b < a ∨ a + bs.length ≤ b) : t.dramByte b = s.dramByte b := by
  rw [State.dramByte, ht, sparseGet_writeRange_outside _ _ _ _ h]
  rfl

theorem dramGet_of_written {s t : State} {a : Nat} {bs : List Byte} (ht : t.dram = writeRange none s.dram a bs) :
    t.dramGet a bs.length = bs :=
  readRange_eq fun i hi => by rw [State.dramByte, ht, sparseGet_writeRange_inside _ _ _ _ hi]

theorem dramTouch_dram (s : State) (port : Fin 10) (a len : Nat) (chamber : Bool) : (s.dramTouch port a len chamber).dram = s.dram :=
  (State.dramTouch_frame (M := Touch.of [.dmc, .twn, .pmc, .draws, .out]) .of port a len chamber (.refl _ s)).dram.resolve_left
    (Touch.not_le rfl)

end Sys2Proof.Machine
end

section
/-! Accesses of the host: how a read completes, what it captures, where a write goes, and what an abandoned one leaves (R7 to R9, R78, R79, R241, R265). -/

namespace Sys2Proof.Machine

theorem Next.of_exec {c : Instr} {s t : State} {P : State → Prop} (h : exec c s = .next t) (ht : P t) : Next c s P := ⟨t, h, ht⟩

/-- A message that some state on the way has emitted has left the device. -/
theorem Sent.of_emit {s u t : State} {m : Out} (hu : s.out <+: u.out) (ht : (u.emit m).out <+: t.out) : Sent s t m := by
  obtain ⟨a, ha⟩ := hu
  obtain ⟨b, hb⟩ := ht
  simp [Sent, ← hb, ← ha]

/-! A log record leaves the accesses of the host and the record of discarded writes alone. -/

/-- What HIF holds of the host's accesses to registers: those not complete, and whether one has been discarded. -/
def HifState.host (h : HifState) : List HostAccess × Bool := (h.accesses, h.aerUr)

@[simp] theorem countEvent_hif (s : State) (code n : Nat) (i : EventInfo) : (s.countEvent code n i).hif = s.hif :=
  (State.countEvent_frame (M := Touch.of [.pmc, .out]) .of code n i (.refl _ s)).hif.resolve_left (Touch.not_le rfl)

@[simp] theorem signal_host (s : State) (v : Fin 64) : (s.signal v).hif.host = s.hif.host := by
  unfold State.signal
  split
  · rfl
  · simp

theorem signalLog_host (s : State) : s.signalLog.hif.host = s.hif.host := signal_host _ _

theorem putRecord_host (s : State) (code sev unit : Nat) (data : List Byte) : (s.putRecord code sev unit data).hif.host = s.hif.host := by
  simp only [State.putRecord]
  split
  · rw [signalLog_host, countEvent_hif]
    rfl
  · rw [countEvent_hif]
    rfl

theorem putLost_host (s : State) : s.putLost.hif.host = s.hif.host := by
  unfold State.putLost
  split
  · exact putRecord_host _ _ _ _ _
  · rfl

theorem log_host (s : State) (code sev unit : Nat) (data : List Byte) : (s.log code sev unit data).hif.host = s.hif.host := by
  unfold State.log
  split
  · extract_lets s1
    split
    · exact (putRecord_host _ _ _ _ _).trans (putLost_host s)
    · exact putLost_host s
  · rfl

@[simp] theorem log_accesses (s : State) (code sev unit : Nat) (data : List Byte) :
    (s.log code sev unit data).hif.accesses = s.hif.accesses := congrArg Prod.fst (log_host s code sev unit data)

@[simp] theorem log_aerUr (s : State) (code sev unit : Nat) (data : List Byte) :
    (s.log code sev unit data).hif.aerUr = s.hif.aerUr := congrArg Prod.snd (log_host s code sev unit data)

theorem log_out_prefix (s : State) (code sev unit : Nat) (data : List Byte) : s.out <+: (s.log code sev unit data).out :=
  (State.log_keeps _ _ _ _ (.refl s)).out

/-! Reads that complete at once, no earlier access being held. -/

/-- The state with other accesses of the host not complete. -/
def State.withAccesses (s : State) (l : List HostAccess) : State := { s with hif := { s.hif with accesses := l } }

theorem withAccesses_nil {s : State} (h : s.hif.accesses = []) : s.withAccesses [] = s := by
  rw [State.withAccesses, ← h]

theorem addAccess_first {s : State} (h : s.hif.accesses = []) (a : HostAccess) : s.addAccess a = s.withAccesses [a] := by
  rw [State.addAccess, h, List.nil_append, State.withAccesses]

theorem completeReads_data (s : State) (o len : Nat) (bs : List Byte) :
    (s.withAccesses [⟨o, len, none, some (some bs)⟩]).completeReads = (s.withAccesses []).emit (.barData o bs) := rfl

theorem completeReads_failed (s : State) (o len : Nat) :
    (s.withAccesses [⟨o, len, none, some none⟩]).completeReads = (s.withAccesses []).emit (.unsupported o) := rfl

theorem readUnsupported_eq {s : State} (h : s.hif.accesses = []) (o len : Nat) : s.readUnsupported o len = s.emit (.unsupported o) := by
  rw [State.readUnsupported, addAccess_first h, completeReads_failed, withAccesses_nil h]

theorem readBytes_same (s : State) (o len : Nat) : Same (.of [.plk, .latch, .draws]) s (s.readBytes o len).2 :=
  State.readBytes_frame .of o len (.refl _ s)

@[simp] theorem readBytes_hif (s : State) (o len : Nat) : (s.readBytes o len).2.hif = s.hif :=
  (readBytes_same s o len).hif.resolve_left (Touch.not_le rfl)

@[simp] theorem readBytes_regs (s : State) (o len : Nat) : (s.readBytes o len).2.regs = s.regs :=
  (readBytes_same s o len).regs.resolve_left (Touch.not_le rfl)

@[simp] theorem readBytes_out (s : State) (o len : Nat) : (s.readBytes o len).2.out = s.out :=
  (readBytes_same s o len).out.resolve_left (Touch.not_le rfl)

theorem takeRead_eq {s : State} (h : s.hif.accesses = []) (o len : Nat) :
    s.takeRead o len = (s.readBytes o len).2.emit (.barData o (s.readBytes o len).1) := by
  have hread : (s.readBytes o len).2.hif.accesses = [] := by rw [readBytes_hif, h]
  rw [State.takeRead, addAccess_first hread, completeReads_data, withAccesses_nil hread]

theorem barRead_out (s : State) (o len : Nat) :
    ((s.readBytes o len).2.emit (.barData o (s.readBytes o len).1)).out = s.out ++ [.barData o (s.readBytes o len).1] := by
  rw [State.emit_out, readBytes_out]

theorem pcieUp_of_barOpen {s : State} {o : Nat} (h : s.barOpen o = true) : s.rst.pcieUp = true := by
  simp only [State.barOpen, Bool.and_eq_true] at h
  exact h.1.1.1

/-- A BAR0 read within one register of an open block whose clock runs. -/
theorem exec_barRead {s : State} {o : BitVec 25} {n : Nat} (hopen : s.barOpen o.toNat = true) (hclk : s.clockStopped o.toNat = false)
    (hlen : o.toNat % 4 + n ≤ 4) (hacc : s.hif.accesses = []) :
    exec (.barAccessUnsupported false o n) s = .next ((s.readBytes o.toNat n).2.emit (.barData o.toNat (s.readBytes o.toNat n).1)) := by
  show execBarAccessUnsupported false o n s = _
  simp [execBarAccessUnsupported, pcieUp_of_barOpen hopen, hopen, hclk, hlen, takeRead_eq hacc]

/-- A BAR0 access that does not lie within one open register. -/
theorem exec_bar_outside {s : State} (w : Bool) {o : BitVec 25} {n : Nat} (hup : s.rst.pcieUp = true)
    (hbad : 4 < o.toNat % 4 + n ∨ s.barOpen o.toNat = false) :
    exec (.barAccessUnsupported w o n) s = .next (if w then s.discardWrite else s.readUnsupported o.toNat n) := by
  have hlink : ¬ s.rst.pcieUp = false := by simp [hup]
  have hnot : ¬ (o.toNat % 4 + n ≤ 4 ∧ s.barOpen o.toNat = true) := by
    rintro ⟨hlen, hopen⟩
    rcases hbad with h | h
    · omega
    · simp [h] at hopen
  exact congrArg Host.Outcome.next ((if_neg hlink).trans (if_neg hnot))

/-! What a read captures. -/

/-- The offsets whose read captures another register. -/
theorem capturedBy_ne_nil_iff (o : Nat) : capturedBy o ≠ [] ↔
    o = 0x140008 ∨ (0x140100 ≤ o ∧ o < 0x140200 ∧ o % 8 = 0 ∧ o % 0x20 ≠ 0x18) ∨
    (0x140400 ≤ o ∧ o < 0x140600 ∧ (o % 0x40 = 0x08 ∨ o % 0x40 = 0x20)) ∨
    o = 0x160018 ∨ (0x160100 ≤ o ∧ o < 0x160300 ∧ (o % 0x40 = 0x10 ∨ o % 0x40 = 0x18)) ∨ o = 0x28001C ∨ o = 0x280028 := by
  unfold capturedBy
  repeat' split
  all_goals simp only [ne_eq, not_true_eq_false, List.cons_ne_nil, not_false_eq_true, true_iff, false_iff]
  all_goals omega

theorem capturedBy_cases (o : Nat) :
    capturedBy o = [] ∨ capturedBy o = [o + 4] ∨ (o = 0x28001C ∧ capturedBy o = [0x280018, 0x280020]) := by
  unfold capturedBy
  repeat' split
  all_goals simp [*]

theorem aligned_of_capturedBy {o : Nat} (h : capturedBy o ≠ []) : o % 4 = 0 := by
  rw [capturedBy_ne_nil_iff] at h
  omega

theorem linkWindow_of_capturedBy {o : Nat} (h : capturedBy o ≠ []) : linkWindow o = none := by
  rw [capturedBy_ne_nil_iff] at h
  exact if_neg (by omega)

/-- A register that captures another is itself read as it stands. -/
theorem not_latched_of_capturedBy {o : Nat} (h : capturedBy o ≠ []) : latched o = false := by
  have hprev : capturedBy (o - 4) = [] := by
    refine Classical.byContradiction fun hprev => ?_
    have hsub := (capturedBy_ne_nil_iff (o - 4)).1 hprev
    rw [capturedBy_ne_nil_iff] at h
    omega
  have hfrac : o ≠ 0x280018 := by
    rw [capturedBy_ne_nil_iff] at h
    omega
  simp [latched, hprev, hfrac]

theorem latched_of_mem_capturedBy {o a : Nat} (h : a ∈ capturedBy o) : latched a = true := by
  rcases capturedBy_cases o with e | e | ⟨rfl, e⟩
  · simp [e] at h
  · obtain rfl : a = o + 4 := by simpa [e] using h
    simp [latched, e]
  · rcases (by simpa [e] using h : a = 0x280018 ∨ a = 0x280020) with rfl | rfl <;> decide

theorem wordNow_capture_timeHi (s : State) (b : Nat) : (s.capture b).wordNow 0x280020 = s.wordNow 0x280020 := rfl

/-- Every captured register is held as it stood when the read was taken. -/
theorem latch_of_mem_capturedBy (s : State) {o a : Nat} (h : a ∈ capturedBy o) :
    sparseGet (regReset a) ((capturedBy o).foldl State.capture s).latch a = s.wordNow a := by
  rcases capturedBy_cases o with e | e | ⟨rfl, e⟩
  · simp [e] at h
  · obtain rfl : a = o + 4 := by simpa [e] using h
    rw [e]
    exact sparseGet_sparseSet_same _ _ _ _
  · rw [e]
    rcases (by simpa [e] using h : a = 0x280018 ∨ a = 0x280020) with rfl | rfl
    · exact (sparseGet_sparseSet_ne _ _ _ (by decide) _).trans (sparseGet_sparseSet_same _ _ _ _)
    · exact (sparseGet_sparseSet_same _ _ _ _).trans (wordNow_capture_timeHi s _)

theorem prbsRead_eq (s : State) {o : Nat} (h : linkWindow o = none) : s.prbsRead o = s := by
  simp only [State.prbsRead, h]

theorem readWord_latched (s : State) {o : Nat} (h : latched o = true) : (s.readWord o).1 = sparseGet (regReset o) s.latch o := by
  simp only [State.readWord, h, if_true]

theorem readWord_not_latched (s : State) {o : Nat} (h : latched o = false) (hl : linkWindow o = none) :
    s.readWord o = (s.wordNow o, (capturedBy o).foldl State.capture s) := by
  simp [State.readWord, h, prbsRead_eq s hl]

/-- After a read that captures a register, that register returns what it held at the read. -/
theorem readWord_after_readBytes {s t : State} {o a len : Nat} (h : a ∈ capturedBy o) (ht : t.latch = (s.readBytes o len).2.latch) :
    (t.readWord a).1 = s.wordNow a := by
  have hne : capturedBy o ≠ [] := List.ne_nil_of_mem h
  have ho : o / 4 * 4 = o := by have := aligned_of_capturedBy hne; omega
  rw [readWord_latched _ (latched_of_mem_capturedBy h), ← latch_of_mem_capturedBy s h, ht, State.readBytes, ho,
    readWord_not_latched s (not_latched_of_capturedBy hne) (linkWindow_of_capturedBy hne)]

/-! The offsets of RST's window behind its registers. -/

theorem windowBlk_rst {o : Nat} (h : 0x10000 ≤ o) (h' : o < 0x20000) : windowBlk o = some none := by
  rw [windowBlk, if_neg (by omega), if_pos h']

theorem linkWindow_rst {o : Nat} (h : o < 0x20000) : linkWindow o = none := if_neg (by omega)

theorem clockStopped_rst (s : State) {o : Nat} (h : 0x10000 ≤ o) (h' : o < 0x20000) : s.clockStopped o = false := by
  have hp : posFront o = false := by simp only [posFront, decide_eq_false_iff_not]; omega
  simp [State.clockStopped, windowClk, linkWindow_rst h', windowBlk_rst h h', hp]

theorem not_latched_rst {o : Nat} (h : o < 0x20000) : latched o = false := by
  have hprev : capturedBy (o - 4) = [] := by
    refine Classical.byContradiction fun hprev => ?_
    have hsub := (capturedBy_ne_nil_iff (o - 4)).1 hprev
    omega
  have hfrac : o ≠ 0x280018 := by omega
  simp [latched, hprev, hfrac]

theorem readRst_empty (s : State) {o : Nat} (h : 0x10040 ≤ o) : s.readRst o = 0 := by
  unfold State.readRst
  extract_lets
  split
  case h_9 => rfl
  all_goals omega

theorem readWord_rst_empty (s : State) {o : Nat} (h : 0x10040 ≤ o) (h' : o < 0x20000) : (s.readWord o).1 = 0 := by
  rw [readWord_not_latched s (not_latched_rst h') (linkWindow_rst h')]
  simp only [State.wordNow, windowBlk_rst (by omega) h', if_pos h', readRst_empty s h]

theorem readBytes_rst_empty (s : State) {o : Nat} (h : 0x10040 ≤ o) (h' : o < 0x20000) (ho : o % 4 = 0) :
    (s.readBytes o 4).1 = [0, 0, 0, 0] := by
  have e : o / 4 * 4 = o := by omega
  simp only [State.readBytes, e, readWord_rst_empty s h h', ho]
  decide

/-! Writes of registers. -/

theorem exec_registerWrite_taken {s : State} {o : BitVec 25} (v : Word) (ho : o.toNat % 4 = 0) (h : s.takesWrite o.toNat) :
    exec (.registerWrite o v) s = .next (s.routeWrite o.toNat v) := by
  obtain ⟨hopen, hclk⟩ := h
  show execRegisterWrite o v s = _
  simp [execRegisterWrite, State.onWrite, ho, hopen, hclk]

theorem exec_registerWrite_misaligned {s : State} {o : BitVec 25} (v : Word) (ho : o.toNat % 4 ≠ 0) :
    exec (.registerWrite o v) s = .next s.discardWrite := by
  show execRegisterWrite o v s = _
  simp [execRegisterWrite, ho]

theorem arrayAt_below {o base stride count : Nat} (h : o < base) : arrayAt o base stride count = none :=
  if_neg fun hb => absurd hb.1 (Nat.not_le.2 h)

/-- The registers of CPY and QDC have no behaviour beside their access codes. -/
theorem routeWrite_cpy_qdc (s : State) {o : Nat} (h : 0x60000 ≤ o ∧ o < 0x70000 ∨ 0xA0000 ≤ o ∧ o < 0xC0000) (v : Word) :
    s.routeWrite o v = s.hostWrite o v := by
  have hcfg : arrayAt o 0x180000 0x1000 32 = none := arrayAt_below (by omega)
  have hauth : arrayAt o 0x180040 0x1000 32 = none := arrayAt_below (by omega)
  unfold State.routeWrite
  simp only [hcfg, hauth]
  repeat rw [if_neg (by omega)]

theorem hostWrite_none (s : State) {o : Nat} (h : regDefAt o = none) (v : Word) : s.hostWrite o v = s := by
  simp only [State.hostWrite, h]

/-! Accesses abandoned while their clock stands still. -/

/-- The only waiting access, a read, is abandoned. -/
theorem exec_readAbandoned {s : State} {o : BitVec 25} {n : Nat} (h : s.hif.accesses = [⟨o.toNat, n, none, none⟩]) :
    exec (.regAccessAbandoned false o) s =
      .next (((s.withAccesses []).emit (.unsupported o.toNat)).log 0x0071 2 (bitsOf o.toNat 16 8) (leBytes 4 o.toNat)) := by
  have hfail : failRead o.toNat s.hif.accesses = [⟨o.toNat, n, none, some none⟩] := by simp [h, failRead, HostAccess.waits]
  have hany : s.hif.accesses.any (fun a => a.waits && a.write.isNone && decide (a.off = o.toNat)) = true := by simp [h, HostAccess.waits]
  show execRegAccessAbandoned false o s = _
  simp only [execRegAccessAbandoned, hfail, hany, if_true]
  rfl

/-- A write that waits behind an earlier one of its register is abandoned. -/
theorem exec_writeAbandoned {s : State} {o : BitVec 25} {u v : Word}
    (h : s.hif.accesses = [⟨o.toNat, 4, some u, none⟩, ⟨o.toNat, 4, some v, none⟩]) :
    exec (.regAccessAbandoned true o) s =
      .next ((s.withAccesses [⟨o.toNat, 4, some u, none⟩]).discardWrite.log 0x0071 2 (bitsOf o.toNat 16 8) (leBytes 4 o.toNat)) := by
  have hdrop : dropWrite o.toNat false s.hif.accesses = some [⟨o.toNat, 4, some u, none⟩] := by
    simp [h, dropWrite, HostAccess.waits, sameCrossing]
  show execRegAccessAbandoned true o s = _
  simp only [execRegAccessAbandoned, hdrop, if_true]
  rfl

/-! Configuration requests and accesses to BAR2. -/

theorem exec_config_retry {s : State} (a : ConfigAccess) (hup : s.rst.pcieUp = true) (h7 : s.rst.stage ≠ 7) (hF : s.rst.stage ≠ 0xF) :
    exec (.configRequest a) s = .next (s.emit .configRetry) := by
  show execConfigRequest a s = _
  simp only [execConfigRequest, State.bootDone, hup, decide_eq_true_eq, h7, hF, or_self, if_true, if_false]

theorem exec_config_read {s : State} (r : ConfigReg) (hup : s.rst.pcieUp = true) (hboot : s.bootDone = true) :
    exec (.configRequest ⟨r, none⟩) s = .next (s.emit (.config (s.configWord r))) := by
  show execConfigRequest ⟨r, none⟩ s = _
  simp [execConfigRequest, hup, hboot]

/-- DRAM address that a BAR2 offset names (R21). -/
def State.bar2Addr (s : State) (o : BitVec 28) : Nat := s.regField 0x20 0 8 * 2 ^ 28 + o.toNat

theorem bar2Open_iff (s : State) : s.bar2Open = true ↔
    s.rst.pcieUp = true ∧ s.rst.asleep = false ∧ s.rst.d3hot = false ∧ s.bootDone = true ∧ s.blkUp .hif = true ∧ s.rst.otp.bar2 = true ∧
      s.blkUp .dmc = true ∧ s.dmc.ready = true := by
  simp [State.bar2Open, and_assoc]

theorem dmcUp_of_bar2Open {s : State} (h : s.bar2Open = true) : s.blkUp .dmc = true := by
  obtain ⟨-, -, -, -, -, -, hdmc, -⟩ := (bar2Open_iff s).1 h
  exact hdmc

theorem exec_bar2 {s : State} (w : Bool) {o : BitVec 28} {bs : List Byte} (hopen : s.bar2Open = true)
    (hcap : s.bar2Addr o + bs.length ≤ s.capacity) :
    exec (.bar2Access w o bs) s = .next (if w then s.dramPut 6 (s.bar2Addr o) bs else
      (s.dramTouch 6 (s.bar2Addr o) bs.length).emit
        (.bar2Data (s.dramGet (s.bar2Addr o) bs.length) !(s.blkUp .dmc && (s.badIn (s.bar2Addr o) bs.length).isNone))) := by
  obtain ⟨hup, -⟩ := (bar2Open_iff s).1 hopen
  have hlink : ¬ s.rst.pcieUp = false := by simp [hup]
  have hin : ¬ (s.bar2Open = false ∨ s.capacity < s.bar2Addr o + bs.length) := by
    simpa [hopen] using hcap
  exact congrArg Host.Outcome.next ((if_neg hlink).trans (if_neg hin))

theorem storesAt_bar2 {s : State} {a : Nat} (hopen : s.bar2Open = true) (hcap : a < s.capacity) (hfault : ∀ c : Fin 2, s.dmc.chFault[c] = false)
    (hadmits : s.rgnAdmits 6 a = true) : s.storesAt 6 a :=
  ⟨dmcUp_of_bar2Open hopen, by simpa [State.unserved, hcap] using hfault (channelOf (s.subOf a)), hadmits⟩

end Sys2Proof.Machine
end

section
/-! The accesses of the host to configuration space, BAR0 and BAR2 (O12), each clause from the command's own law above. -/

namespace Sys2Proof.Machine

/-- Settles O12, clause by clause in the order of the statement. -/
theorem hostAccessesReachOpenRegistersAlone : Obligations.HostAccessesReachOpenRegistersAlone := by
  refine ⟨?_, ?_, ?_, ?_, ?_, ?_, ?_, ?_, ?_, ?_, ?_, ?_, ?_, ?_⟩
  · exact fun s r w hup h7 hF => .of_exec (exec_config_retry ⟨r, w⟩ hup h7 hF) rfl
  · exact fun s hup hboot => .of_exec (exec_config_read _ hup hboot) rfl
  · exact fun s o n hopen hclk hlen hacc => .of_exec (exec_barRead hopen hclk hlen hacc)
      ⟨readBytes_regs s _ _, [], (List.append_nil _).trans (barRead_out s _ _).symm⟩
  · exact fun s o hopen hacc hlo hhi ho => .of_exec (exec_barRead hopen (clockStopped_rst s (by omega) hhi) (by omega) hacc)
      ⟨[], by rw [List.append_nil, barRead_out, readBytes_rst_empty s hlo hhi ho]⟩
  · intro s o a hopen hclk hacc ha
    have ho := aligned_of_capturedBy (List.ne_nil_of_mem ha)
    exact .of_exec (exec_barRead hopen hclk (by omega) hacc) (readWord_after_readBytes ha rfl)
  · intro s o n hup hbad hacc
    refine .of_exec (exec_bar_outside false hup hbad) ?_
    rw [if_neg Bool.false_ne_true, readUnsupported_eq hacc]
    exact ⟨rfl, rfl⟩
  · exact fun s o n hup hbad => .of_exec (exec_bar_outside true hup hbad) ⟨rfl, rfl⟩
  · exact fun s o v ho => .of_exec (exec_registerWrite_misaligned v ho) ⟨rfl, rfl⟩
  · intro s o v d ho hwin htakes hdef
    refine .of_exec (exec_registerWrite_taken v ho htakes) ?_
    rw [routeWrite_cpy_qdc s hwin]
    exact ⟨State.reg_hostWrite_same s _ v hdef, fun a ha => State.reg_hostWrite_ne s ha v⟩
  · intro s o v ho hwin htakes hdef
    refine .of_exec (exec_registerWrite_taken v ho htakes) ?_
    rw [routeWrite_cpy_qdc s hwin, hostWrite_none s hdef]
  · exact fun s o n hacc => .of_exec (exec_readAbandoned hacc)
      ⟨.of_emit (u := s.withAccesses []) List.prefix_rfl (log_out_prefix _ _ _ _ _), log_accesses _ _ _ _ _⟩
  · exact fun s o u v hacc => .of_exec (exec_writeAbandoned hacc) ⟨log_aerUr _ _ _ _ _, log_accesses _ _ _ _ _⟩
  · intro s o bs hopen hcap hfault hadmits
    have hstores : ∀ i < bs.length, s.storesAt 6 (s.bar2Addr o + i) := fun i hi =>
      storesAt_bar2 hopen (Nat.lt_of_lt_of_le (Nat.add_lt_add_left hi _) hcap) hfault (hadmits i hi)
    have hdram := dramPut_dram hstores false
    exact .of_exec (exec_bar2 true hopen hcap) ⟨dramGet_of_written hdram, fun a ha => dramByte_of_written_outside hdram ha⟩
  · intro s o bs hopen hcap hgood
    have hok : (!(s.blkUp .dmc && (s.badIn (s.bar2Addr o) bs.length).isNone)) = false := by
      rw [dmcUp_of_bar2Open hopen, show s.badIn (s.bar2Addr o) bs.length = none from hgood]
      rfl
    refine .of_exec (exec_bar2 false hopen hcap) ⟨?_, dramTouch_dram s 6 (s.bar2Addr o) bs.length false⟩
    rw [hok]
    exact .of_emit (State.dramTouch_keeps _ _ _ _ (.refl s)).out List.prefix_rfl

end Sys2Proof.Machine
end

section
/-! Entries on chip: how one starts, waits and completes, and what that leaves of the others (R92, R94, R97, R98). -/

namespace Sys2Proof.Machine

/-! The number of an entry names it. -/

theorem eq_of_id_eq {s : State} (hs : s.numbered) {f g : Flight} (hf : f ∈ s.hif.flights) (hg : g ∈ s.hif.flights) (h : f.id = g.id) : f = g := by
  obtain ⟨i, hi, rfl⟩ := List.getElem_of_mem hf
  obtain ⟨j, hj, rfl⟩ := List.getElem_of_mem hg
  have hrises := List.pairwise_iff_getElem.1 hs.1
  rcases Nat.lt_trichotomy i j with hij | rfl | hij
  · exact absurd h (Nat.ne_of_lt (hrises i j hi hj hij))
  · rfl
  · exact absurd h.symm (Nat.ne_of_lt (hrises j i hj hi hij))

theorem flight?_some {s : State} {id : Nat} {f : Flight} (h : s.flight? id = some f) : f ∈ s.hif.flights ∧ f.id = id :=
  ⟨List.mem_of_find?_eq_some h, by simpa using List.find?_some h⟩

theorem flight?_of_mem {s : State} (hs : s.numbered) {f : Flight} (hf : f ∈ s.hif.flights) : s.flight? f.id = some f := by
  cases h : s.flight? f.id with
  | none => simpa using List.find?_eq_none.1 h f hf
  | some g =>
    obtain ⟨hg, e⟩ := flight?_some h
    rw [eq_of_id_eq hs hg hf e]

theorem flight?_modFlight (s : State) (id : Nat) {g : Flight → Flight} (hg : ∀ f, (g f).id = f.id) :
    (s.modFlight id g).flight? id = (s.flight? id).map g := by
  have hp : ((fun f : Flight => decide (f.id = id)) ∘ fun f => if f.id = id then g f else f) = fun f => decide (f.id = id) := by
    funext f
    by_cases h : f.id = id <;> simp [h, hg]
  simp only [State.flight?, State.modFlight_hif, List.find?_map, hp]
  exact Option.map_congr fun f hf => if_pos (flight?_some hf).2

theorem mem_of_mem_modFlight {s : State} {id : Nat} {k : Flight → Flight} (hk : ∀ f, (k f).id = f.id) {g : Flight}
    (hg : g ∈ (s.modFlight id k).hif.flights) (h : g.id ≠ id) : g ∈ s.hif.flights := by
  obtain ⟨f, hf, rfl⟩ := List.mem_map.1 hg
  by_cases e : f.id = id
  · rw [if_pos e, hk] at h
    exact absurd e h
  · rwa [if_neg e]

/-! The entry that a ring starts next. -/

theorem mem_of_startable {s : State} {ring : Fin 16} {f : Flight} (h : s.startable ring = some f) : f ∈ s.hif.flights := by
  simp only [State.startable] at h
  split at h
  case h_1 => cases h
  case h_2 hfind =>
    repeat' split at h
    all_goals cases h
    exact (List.mem_filter.1 (List.mem_of_find?_eq_some hfind)).1

/-- The state in which an entry has just started (R97). -/
def State.begun (s : State) (f : Flight) : State :=
  let t := s.modFlight f.id fun g => { g with phase := .running, start := s.hif.nextStart }
  { t with hif := { t.hif with nextStart := s.hif.nextStart + 1 } }

/-- A command that the next entry of its ring asks for is carried out on the entry as it starts, its blocks being out of reset. -/
theorem withEntryAt_of_startable {s : State} {ring : Fin 16} {f : Flight} (h : s.startable ring = some f) {is : Entry → Bool}
    {blks : Entry → List Blk} (his : is f.e = true) (hup : ∀ b ∈ blks f.e, s.blkUp b = true) (run : Flight → State → State) :
    s.withEntryAt ring is blks run = run { f with start := s.hif.nextStart } (s.begun f) := by
  have hall : (blks f.e).all (s.begun f).blkUp = true := List.all_eq_true.2 hup
  simp only [State.withEntryAt, State.withEntry, h, his, if_true]
  exact if_pos hall

theorem flight?_begun {s : State} (hs : s.numbered) {f : Flight} (hf : f ∈ s.hif.flights) :
    (s.begun f).flight? f.id = some { f with phase := .running, start := s.hif.nextStart } := by
  have h : (s.begun f).flight? f.id = (s.flight? f.id).map fun g => { g with phase := .running, start := s.hif.nextStart } :=
    flight?_modFlight s f.id fun _ => rfl
  rw [h, flight?_of_mem hs hf, Option.map_some]

theorem flight?_waitFlight (s : State) (id : Nat) :
    (s.waitFlight id).flight? id = (s.flight? id).map fun g => { g with phase := .waiting } :=
  flight?_modFlight s id fun _ => rfl

theorem Stands.of_flight? {t : State} {f : Flight} {ph : FlightPhase} {k : Nat} (h : t.flight? f.id = some { f with phase := ph, start := k }) :
    Stands t f ph :=
  ⟨_, (flight?_some h).1, rfl, rfl, rfl⟩

/-! A completion. -/

@[simp] theorem signal_flights (s : State) (v : Fin 64) : (s.signal v).hif.flights = s.hif.flights := by
  unfold State.signal
  split
  · rfl
  · simp

@[simp] theorem signalCr_flights (s : State) (m : Fin 8) : (s.signalCr m).hif.flights = s.hif.flights := signal_flights _ _

@[simp] theorem writeCompletion_flights (s : State) (m : Fin 8) (tag : BitVec 32) (index : BitVec 16) (status : BitVec 8) (ring : Fin 16)
    (result : Nat) (irq : Bool) : (s.writeCompletion m tag index status ring result irq).hif.flights = s.hif.flights := by
  unfold State.writeCompletion
  extract_lets c bytes c' hif s1
  have hs1 : s1.hif.flights = s.hif.flights := (congrArg HifState.flights (countEvent_hif _ _ _ _)).trans rfl
  split
  · rw [signalCr_flights, hs1]
  · exact hs1

@[simp] theorem postCompletion_flights (s : State) (f : Flight) (status : BitVec 8) (result : Nat) :
    (s.postCompletion f status result).hif.flights = s.hif.flights := by
  unfold State.postCompletion
  split
  · rfl
  · exact writeCompletion_flights _ _ _ _ _ _ _ _

/-- Completing an entry takes it, and no other, from the chip. -/
@[simp] theorem complete_flights (s : State) (id : Nat) (status : BitVec 8) (result : Nat) :
    (s.complete id status result).hif.flights = s.hif.flights.filter fun f => decide (f.id ≠ id) := by
  unfold State.complete
  split
  case h_1 hnone =>
    refine (List.filter_eq_self.2 fun f hf => ?_).symm
    simpa using List.find?_eq_none.1 hnone f hf
  case h_2 => exact postCompletion_flights _ _ _ _

theorem mem_flights_foldl_complete {f : Flight} {status : BitVec 8} {result : Nat} {l : List Flight} (hl : ∀ g ∈ l, g.id ≠ f.id) {s : State}
    (hf : f ∈ s.hif.flights) : f ∈ (l.foldl (fun (t : State) g => t.complete g.id status result) s).hif.flights := by
  induction l generalizing s with
  | nil => exact hf
  | cons g l ih =>
    have hg : f.id ≠ g.id := (hl g List.mem_cons_self).symm
    refine ih (fun h hh => hl h (List.mem_cons_of_mem g hh)) ?_
    simp [hf, hg]

theorem sent_writeCompletion (s : State) (m : Fin 8) (tag : BitVec 32) (index : BitVec 16) (status : BitVec 8) (ring : Fin 16)
    (result : Nat) (irq : Bool) : Sent s (s.writeCompletion m tag index status ring result irq)
      (.hostWrite (s.busAddr (crCfg m - 8) + 16 * (s.hif.cr[m]).tail.toNat) (leBytes 4 tag.toNat ++ leBytes 2 index.toNat ++
        [status, BitVec.ofNat 8 (ring.val + if (s.hif.cr[m]).phase then 128 else 0)] ++ leBytes 8 result) false) := by
  unfold State.writeCompletion
  extract_lets c bytes c' hif s1
  let u : State := { s with hif := { s.hif with cr := s.hif.cr.set m c' } }
  have hs1 : (u.emit (.hostWrite (s.busAddr (crCfg m - 8) + 16 * c.tail.toNat) bytes false)).out <+: s1.out :=
    (State.countEvent_keeps _ _ _ (.refl _)).out
  have hlast : s1.out <+: (if irq || decide (s.coalCount (crCfg m) ≤ c'.unsig) then s1.signalCr m else s1).out := by
    split
    · exact (State.signalCr_keeps m (.refl s1)).out
    · exact List.prefix_rfl
  exact Sent.of_emit (u := u) List.prefix_rfl (hs1.trans hlast)

/-- The completion entry of an entry that is not QUIET, or has failed, leaves the device. -/
theorem sent_postCompletion (s : State) {f : Flight} {status : BitVec 8} (h : f.e.flags.getLsbD 2 = false ∨ status ≠ stOk) (result : Nat) :
    Sent s (s.postCompletion f status result) (s.completionOf f status result) := by
  have hnot : ¬ ((f.e.flags.getLsbD 2 && decide (status = stOk)) = true) := fun hq => by
    obtain ⟨hflag, hok⟩ := Bool.and_eq_true_iff.1 hq
    exact h.elim (fun h => Bool.noConfusion (h.symm.trans hflag)) fun h => h (of_decide_eq_true hok)
  rw [State.postCompletion, if_neg hnot]
  exact sent_writeCompletion _ _ _ _ _ _ _ _

/-- Two states whose completion rings stand alike, the earlier one's messages having all left by the later. -/
structure SameRings (s t : State) : Prop where
  regs : t.regs = s.regs
  cr : t.hif.cr = s.hif.cr
  out : s.out <+: t.out

theorem SameRings.refl (s : State) : SameRings s s := ⟨rfl, rfl, List.prefix_rfl⟩

theorem SameRings.trans {s t u : State} (h : SameRings s t) (k : SameRings t u) : SameRings s u :=
  ⟨k.regs.trans h.regs, k.cr.trans h.cr, h.out.trans k.out⟩

theorem SameRings.completionOf {s t : State} (h : SameRings s t) (f : Flight) (status : BitVec 8) (result : Nat) :
    t.completionOf f status result = s.completionOf f status result := by
  have e : ∀ u : State, u.completionOf f status result =
      { State.reset with regs := u.regs, hif := { State.reset.hif with cr := u.hif.cr } }.completionOf f status result := fun _ => rfl
  rw [e t, e s, h.regs, h.cr]

theorem Sent.of_prefix {s u t : State} {m : Out} (hu : s.out <+: u.out) (h : Sent u t m) : Sent s t m := by
  obtain ⟨a, ha⟩ := hu
  have hdrop : t.out.drop u.out.length = (t.out.drop s.out.length).drop a.length := by
    rw [List.drop_drop, ← ha, List.length_append]
  rw [Sent, hdrop] at h
  exact List.mem_of_mem_drop h

/-- Completing an entry that has started, or waits, since a state whose rings stand alike. -/
theorem completes_complete {s t : State} {f : Flight} {ph : FlightPhase} {k : Nat} (h : SameRings s t)
    (hf : t.flight? f.id = some { f with phase := ph, start := k }) (status : BitVec 8) (result : Nat) :
    Completes s (t.complete f.id status result) f status result := by
  refine ⟨fun g hg => ?_, fun hquiet => ?_⟩
  · rw [complete_flights] at hg
    exact of_decide_eq_true (List.mem_filter.1 hg).2
  · have hpost : Sent (t.dropFlight f.id) ((t.dropFlight f.id).postCompletion { f with phase := ph, start := k } status result)
        ((t.dropFlight f.id).completionOf { f with phase := ph, start := k } status result) := sent_postCompletion _ hquiet result
    have hcompl : (t.dropFlight f.id).completionOf { f with phase := ph, start := k } status result = s.completionOf f status result :=
      h.completionOf f status result
    rw [hcompl] at hpost
    rw [State.complete, hf]
    exact hpost.of_prefix h.out

theorem complete_same (s : State) (id : Nat) (status : BitVec 8) (result : Nat) :
    Same (.of [.hif, .pmc, .out]) s (s.complete id status result) := State.complete_frame .of id status result (.refl _ s)

@[simp] theorem complete_cpy (s : State) (id : Nat) (status : BitVec 8) (result : Nat) : (s.complete id status result).cpy = s.cpy :=
  (complete_same s id status result).cpy.resolve_left (Touch.not_le rfl)

end Sys2Proof.Machine
end

section
/-! MMU_INVALIDATE and the enable of the MMU (R112, R114, R117). -/

namespace Sys2Proof.Machine

/-! When a waiting MMU_INVALIDATE completes. -/

/-- An entry that a piece holds up does not complete. -/
theorem mem_flights_invalidatesEnd {s : State} {f : Flight} {p : Piece} (hf : f ∈ s.hif.flights) (hp : p ∈ s.hif.pieces) (hheld : f.id ∈ p.holds) :
    f ∈ s.invalidatesEnd.hif.flights := by
  refine mem_flights_foldl_complete (fun g hg e => ?_) hf
  have hfree : (s.hif.pieces.any fun p => p.holds.contains g.id) = false := by
    simpa using (Bool.and_eq_true_iff.1 (List.mem_filter.1 hg).2).2
  have hnot := List.any_eq_false.1 hfree p hp
  simp [e, hheld] at hnot

/-- The only MMU_INVALIDATE that waits completes where no piece holds it up. -/
theorem invalidatesEnd_of_sole {s : State} (hs : s.numbered) {f : Flight} (hf : f ∈ s.hif.flights) (hop : f.e.op = 0x31) (hph : f.phase = .waiting)
    (hfree : ∀ p ∈ s.hif.pieces, f.id ∉ p.holds) (hsole : ∀ g ∈ s.hif.flights, g.e.op = 0x31 → g.phase = .waiting → g.id = f.id) :
    s.invalidatesEnd = s.complete f.id stOk 0 := by
  have hnodup : s.hif.flights.Nodup := hs.1.imp fun h e => Nat.ne_of_lt h (congrArg Flight.id e)
  have hends : (s.hif.flights.filter fun f => decide (f.e.op = 0x31 ∧ f.phase = .waiting) && !s.hif.pieces.any fun p => p.holds.contains f.id) = [f] := by
    refine List.perm_singleton.1 ((List.perm_ext_iff_of_nodup (hnodup.filter _) (List.pairwise_singleton _ f)).2 fun g => ?_)
    simp only [List.mem_filter, List.mem_singleton, Bool.and_eq_true, decide_eq_true_eq]
    constructor
    · rintro ⟨hg, ⟨hop, hph⟩, -⟩
      exact eq_of_id_eq hs hg hf (hsole g hg hop hph)
    · rintro rfl
      exact ⟨hf, ⟨hop, hph⟩, by simpa using hfree⟩
  rw [State.invalidatesEnd, hends]
  rfl

theorem invalidatesEnd_mmu (s : State) : s.invalidatesEnd.mmu = s.mmu :=
  (State.invalidatesEnd_frame (M := Touch.of [.hif, .pmc, .out]) .of (.refl _ s)).mmu.resolve_left (Touch.not_le rfl)

/-! What the start of an MMU_INVALIDATE leaves. -/

/-- An MMU_INVALIDATE has removed its translations and waits for the pieces that used one (R114). -/
def State.invalidated (s : State) (f : Flight) : State :=
  ((s.begun f).invalidate f.id (f.e.num 0) (f.e.num 1)).waitFlight f.id

theorem exec_mmuInvalidate {s : State} {n : Fin 16} {f : Flight} (h : s.startable n = some f) (hop : f.e.op = 0x31) (hup : s.blkUp .mmu = true) :
    exec (.mmuInvalidate n) s = .next (s.invalidated f).invalidatesEnd := by
  have hblocks : ∀ b ∈ f.e.blocks, s.blkUp b = true := by simp [Entry.blocks, hop, hup]
  show Host.Outcome.next (s.withEntryAt n _ _ _) = _
  rw [withEntryAt_of_startable h (decide_eq_true hop) hblocks]
  rfl

theorem invalidated_numbered {s : State} (hs : s.numbered) (f : Flight) : (s.invalidated f).numbered := by
  have hbegun : (s.begun f).numbered := (State.modFlight_keeps (s0 := s) f.id _ (.refl s)).ids hs
  exact (State.waitFlight_keeps (s0 := (s.begun f).invalidate f.id (f.e.num 0) (f.e.num 1)) f.id (.refl _)).ids hbegun

theorem flight?_invalidated {s : State} (hs : s.numbered) {f : Flight} (hf : f ∈ s.hif.flights) :
    (s.invalidated f).flight? f.id = some { f with phase := .waiting, start := s.hif.nextStart } := by
  have h : ((s.begun f).invalidate f.id (f.e.num 0) (f.e.num 1)).flight? f.id = (s.begun f).flight? f.id := rfl
  rw [State.invalidated, flight?_waitFlight, h, flight?_begun hs hf, Option.map_some]

theorem mem_of_mem_invalidated {s : State} {f g : Flight} (hg : g ∈ (s.invalidated f).hif.flights) (h : g.id ≠ f.id) : g ∈ s.hif.flights :=
  have hbegun : g ∈ (s.begun f).hif.flights := mem_of_mem_modFlight (k := fun g => { g with phase := .waiting }) (fun _ => rfl) hg h
  mem_of_mem_modFlight (k := fun g => { g with phase := .running, start := s.hif.nextStart }) (fun _ => rfl) hbegun h

theorem invalidated_pieces (s : State) (f : Flight) : (s.invalidated f).hif.pieces =
    s.hif.pieces.map fun p => if p.within (f.e.num 0) (f.e.num 1) then { p with holds := p.holds ++ [f.id] } else p := rfl

theorem mem_invalidated_cache (s : State) (f : Flight) (c : PteCache) :
    c ∈ (s.invalidated f).mmu.cache ↔ c ∈ s.mmu.cache ∧ f.e.num 1 ≠ 0 ∧ c.overlaps (f.e.num 0) (f.e.num 1) = false := by
  have h : (s.invalidated f).mmu.cache =
      if f.e.num 1 = 0 then [] else s.mmu.cache.filter fun c => !c.overlaps (f.e.num 0) (f.e.num 1) := rfl
  rw [h]
  split
  next hz => simp [hz]
  next hz => simp [hz]

theorem stands_invalidated {s : State} (hs : s.numbered) {f : Flight} (hf : f ∈ s.hif.flights) {p : Piece} (hp : p ∈ s.hif.pieces)
    (hin : p.within (f.e.num 0) (f.e.num 1) = true) : Stands (s.invalidated f).invalidatesEnd f .waiting := by
  obtain ⟨hmem, -⟩ := flight?_some (flight?_invalidated hs hf)
  have hpiece : { p with holds := p.holds ++ [f.id] } ∈ (s.invalidated f).hif.pieces := by
    rw [invalidated_pieces]
    exact List.mem_map.2 ⟨p, hp, if_pos hin⟩
  exact ⟨_, mem_flights_invalidatesEnd hmem hpiece (List.mem_append_right _ (List.mem_singleton_self _)), rfl, rfl, rfl⟩

theorem completes_invalidated {s : State} (hs : s.numbered) {f : Flight} (hf : f ∈ s.hif.flights) (hop : f.e.op = 0x31)
    (hfree : ∀ p ∈ s.hif.pieces, p.within (f.e.num 0) (f.e.num 1) = false ∧ f.id ∉ p.holds)
    (hsole : ∀ g ∈ s.hif.flights, g.e.op = 0x31 → g.phase ≠ .waiting) : Completes s (s.invalidated f).invalidatesEnd f stOk 0 := by
  have hfl := flight?_invalidated hs hf
  have hfree' : ∀ p ∈ (s.invalidated f).hif.pieces, f.id ∉ p.holds := fun q hq => by
    rw [invalidated_pieces] at hq
    obtain ⟨p, hp, rfl⟩ := List.mem_map.1 hq
    obtain ⟨hout, hnot⟩ := hfree p hp
    rwa [if_neg (by simp [hout])]
  have hsole' : ∀ g ∈ (s.invalidated f).hif.flights, g.e.op = 0x31 → g.phase = .waiting → g.id = f.id := fun g hg hgop hph =>
    Classical.byContradiction fun hne => hsole g (mem_of_mem_invalidated hg hne) hgop hph
  rw [invalidatesEnd_of_sole (invalidated_numbered hs f) (flight?_some hfl).1 hop rfl hfree' hsole']
  exact completes_complete ⟨rfl, rfl, List.prefix_rfl⟩ hfl stOk 0

/-! MMU_CFG.ENABLE. -/

theorem exec_mmuEnableWrite {s : State} (on : Bool) (h : s.takesWrite 0x50000) :
    exec (.mmuEnableWrite on) s = .next (s.writeMmuCfg (if on then 1 else 0)) := by
  obtain ⟨hopen, hclk⟩ := h
  show Host.Outcome.next (s.onWrite 0x50000 _ _) = _
  simp [State.onWrite, hopen, hclk]

theorem regDefAt_mmuCfg : regDefAt 0x50000 = some ⟨"MMU_CFG", 0x50000, [⟨0, 1, .rw, 0, .open_⟩], 1, 4⟩ := by decide

theorem regBit_hostWrite_mmuCfg (s : State) (on : Bool) : (s.hostWrite 0x50000 (if on then 1 else 0)).regBit 0x50000 0 = on := by
  rw [State.regBit, State.reg_hostWrite_same s _ _ regDefAt_mmuCfg]
  cases on <;> simp [writeField, guardOpen, putBits, bitsOf]

theorem writeMmuCfg_on {s : State} (h : s.inPt s.ptRoot 8192 = true) : s.writeMmuCfg 1 = s.hostWrite 0x50000 1 := by
  simp [State.writeMmuCfg, h]

theorem writeMmuCfg_refused {s : State} (h : s.inPt s.ptRoot 8192 = false) : s.writeMmuCfg 1 = s := by
  simp [State.writeMmuCfg, h]

theorem hostWrite_mmu (s : State) (o : Nat) (v : Word) : (s.hostWrite o v).mmu = s.mmu :=
  (State.hostWrite_frame (M := Touch.of [.regs]) .of o v (.refl _ s)).mmu.resolve_left (Touch.not_le rfl)

/-- Settles O23: the start of an MMU_INVALIDATE by what it leaves, the write of ENABLE by its value. -/
theorem translationsAreInvalidated : Obligations.TranslationsAreInvalidated := by
  refine ⟨?_, ?_, ?_⟩
  · rintro s n f ⟨hstart, hs⟩ hop hup
    have hf := mem_of_startable hstart
    refine .of_exec (exec_mmuInvalidate hstart hop hup) ⟨fun c => ?_, ?_, completes_invalidated hs hf hop⟩
    · rw [invalidatesEnd_mmu]
      exact mem_invalidated_cache s f c
    · rintro ⟨p, hp, hin⟩
      exact stands_invalidated hs hf hp hin
  · intro s on htakes hroot
    refine .of_exec (exec_mmuEnableWrite on htakes) ?_
    cases on with
    | true =>
      rw [if_pos rfl, writeMmuCfg_on (hroot rfl)]
      exact ⟨regBit_hostWrite_mmuCfg s true, congrArg MmuState.cache (hostWrite_mmu s _ _)⟩
    | false => exact ⟨regBit_hostWrite_mmuCfg s false, rfl⟩
  · intro s htakes hroot
    rw [exec_mmuEnableWrite true htakes, if_pos rfl, writeMmuCfg_refused hroot]

end Sys2Proof.Machine
end

section
/-! COPY and the copier (R121 to R124, R424). -/

namespace Sys2Proof.Machine

/-! A COPY entry is accepted, refused or put to wait. -/

theorem exec_copy {s : State} {n : Fin 16} {f : Flight} (h : s.startable n = some f) (hop : f.e.op = 0x40) (hup : s.blkUp .cpy = true) :
    exec (.copy n) s = .next (if s.cpy.queue.length < 16 then (s.begun f).acceptCopy f else (s.begun f).waitFlight f.id) := by
  have hblocks : ∀ b ∈ f.e.blocks, s.blkUp b = true := by simp [Entry.blocks, hop, hup]
  show Host.Outcome.next (s.withEntryAt n _ _ _) = _
  rw [withEntryAt_of_startable h (decide_eq_true hop) hblocks]
  rfl

theorem acceptCopy_refused {s : State} {f : Flight} {st : BitVec 8} (h : s.copyCheck f.e.copyReq = some st) :
    s.acceptCopy f = s.complete f.id st 0 := by
  simp only [State.acceptCopy, h]

/-- An accepted request joins the queue, a chamber that it names as target counts it, and the entry completes. -/
theorem acceptCopy_accepted {s : State} {f : Flight} (h : s.copyCheck f.e.copyReq = none) :
    ∃ u : State, s.acceptCopy f = u.complete f.id stOk 0 ∧ u.cpy.queue = s.cpy.queue ++ [f.e.copyReq] ∧ u.hif = s.hif ∧ SameRings s u := by
  simp only [State.acceptCopy, h]
  cases targetChamber f.e.copyReq.target with
  | none => exact ⟨_, rfl, rfl, rfl, rfl, rfl, List.prefix_rfl⟩
  | some k => exact ⟨_, rfl, rfl, rfl, rfl, rfl, List.prefix_rfl⟩

/-- What accepting a COPY that has started, or waits, does to the queue and to the entry. -/
theorem acceptCopy_completes {s t : State} {f : Flight} {ph : FlightPhase} {k : Nat} (h : SameRings s t)
    (hf : t.flight? f.id = some { f with phase := ph, start := k }) :
    match t.copyCheck f.e.copyReq with
    | none => (t.acceptCopy f).cpy.queue = t.cpy.queue ++ [f.e.copyReq] ∧ Completes s (t.acceptCopy f) f stOk 0
    | some st => (t.acceptCopy f).cpy = t.cpy ∧ Completes s (t.acceptCopy f) f st 0 := by
  cases hcheck : t.copyCheck f.e.copyReq with
  | none =>
    obtain ⟨u, hu, hqueue, hhif, hrings⟩ := acceptCopy_accepted hcheck
    have hfu : u.flight? f.id = some { f with phase := ph, start := k } := by rw [← hf, State.flight?, hhif]; rfl
    rw [hu]
    exact ⟨(congrArg CpyState.queue (complete_cpy _ _ _ _)).trans hqueue, completes_complete (h.trans hrings) hfu stOk 0⟩
  | some st =>
    rw [acceptCopy_refused hcheck]
    exact ⟨complete_cpy _ _ _ _, completes_complete h hf st 0⟩

theorem exec_copyQueueAdmit {s : State} {f : Flight} (hroom : s.cpy.queue.length < 16)
    (hf : s.hif.flights.find? (fun g => decide (g.e.op = 0x40 ∧ g.phase = .waiting)) = some f) :
    exec .copyQueueAdmit s = .next (s.acceptCopy f) := by
  show execCopyQueueAdmit s = _
  simp only [execCopyQueueAdmit, hroom, hf, if_true]

/-! The copier takes a request, and a copy leaves it. -/

theorem exec_copyStart {s : State} {r : CopyReq} {rest : List CopyReq} (hrun : s.cpy.run = none) (hqueue : s.cpy.queue = r :: rest)
    (hup : s.blkUp .cpy = true) (hclk : s.clkRuns 4 = true) (hblks : ∀ b ∈ s.rangeBlk r.src r.len ++ s.rangeBlk r.dst r.len, s.blkUp b = true) :
    exec .copyStart s = .next { s with cpy := { s.cpy with run := some ⟨r, 0, [], false⟩, queue := rest } } := by
  have hall : (s.rangeBlk r.src r.len ++ s.rangeBlk r.dst r.len).all s.blkUp = true := List.all_eq_true.2 hblks
  show execCopyStart s = _
  simp only [execCopyStart, hrun, hqueue, hup, hclk, hall, Bool.and_self, Bool.not_true, if_true]

@[simp] theorem banksChanged_cpy (s : State) (t : Nat) (who : BankFor) : (s.banksChanged t who).cpy = s.cpy :=
  (State.banksChanged_frame (M := Touch.of [.plk]) .of t who (.refl _ s)).cpy.resolve_left (Touch.not_le rfl)

@[simp] theorem endRun_cpy (s : State) (c : CopyRun) : (s.endRun c).cpy = { s.cpy with run := none } := by
  unfold State.endRun
  split
  · split
    · rfl
    · exact banksChanged_cpy _ _ _
  · rfl

theorem endRun_same (s : State) (c : CopyRun) : Same (.of [.cpy, .plk]) s (s.endRun c) := State.endRun_frame .of c (.refl _ s)

theorem copyDest_of_dram {s : State} {a b : Nat} {bs : List Byte} (h : s.devRange a bs.length = some (.dram b)) :
    s.copyDest a bs = s.dramPut 7 b bs := by
  simp only [State.copyDest, h]

/-- What the copier writes depends on DRAM alone, not on the draws made. -/
theorem draw_copyDest_dram {s : State} {a b : Nat} {bs : List Byte} (h : s.devRange a bs.length = some (.dram b)) :
    (s.draw.2.copyDest a bs).dram = (s.dramPut 7 b bs).dram := by
  have hdraw : s.draw.2.devRange a bs.length = some (.dram b) := h
  have like : DramLike s s.draw.2 := ⟨rfl, rfl, rfl, rfl, rfl⟩
  rw [copyDest_of_dram hdraw]
  exact (State.dramPut_like like 7 b bs false false).dram

/-! The event at the end of a copy. -/

theorem modChamber_units (s : State) (k j : Fin 4) {g : Chamber → Chamber} (hg : ∀ c, (g c).units = c.units) :
    ((s.modChamber k g).lck.ch[j]).units = (s.lck.ch[j]).units := by
  by_cases h : k = j
  · subst h
    simp [modAt, hg]
  · simp [modAt, Fin.val_ne_of_ne h]

/-- An event counts in a chamber, whose staged units stay. -/
theorem copyEvent_units (s : State) (r : CopyReq) (ok : Bool) (j : Fin 4) :
    ((s.copyEvent r ok).lck.ch[j]).units = (s.lck.ch[j]).units := by
  unfold State.copyEvent
  extract_lets t
  split
  · exact modChamber_units s _ j fun _ => rfl
  · split <;> rfl

/-! A copy that ends well (R123). -/

/-- The state in which the last beat of a copy has been written. -/
def State.copyWritten (s : State) (c : CopyRun) : State :=
  let r := c.req
  let bs := c.ahead.flatten ++ s.copySource (r.src + c.readTo) (r.len - c.readTo)
  (if bs.isEmpty then s else s.copyDest (r.dst + 64 * c.moved) bs).copyTouch r (r.src + c.readTo) (r.len - c.readTo)

/-- The state in which a copy has left the copier and CPY_DONE has counted it. -/
def State.copyCounted (u : State) (c : CopyRun) : State :=
  let v := u.endRun { c with moved := c.req.len / 64 }
  v.setReg cpyDoneReg (v.reg cpyDoneReg + 1)

theorem copyDone_eq (s : State) (c : CopyRun) :
    s.copyDone c = ((((s.copyWritten c).copyCounted c).countEvent 0x52 c.req.len {}).copyEvent c.req true).settle s := rfl

theorem exec_copyDone {s : State} {c : CopyRun} (hrun : s.cpy.run = some c) (hstuck : c.stuck = false) (hgood : s.copyGood c.req = true) :
    exec .copyDone s = .next (s.copyDone c) := by
  show execCopyDone s = _
  simp only [execCopyDone, hrun, hstuck, hgood, Bool.not_false, Bool.and_self, if_true]

theorem copyWritten_same (s : State) (c : CopyRun) :
    Same (.of [.dmc, .csm, .lck, .twn, .pmc, .dram, .tables, .draws, .out]) s (s.copyWritten c) :=
  State.copyTouch_frame .of _ _ _ (.ite (.refl _ s) (State.copyDest_frame .of _ _ (.refl _ s)))

theorem copyWritten_dram {s : State} {c : CopyRun} {bs : List Byte} {b : Nat}
    (hbs : bs = c.ahead.flatten ++ s.copySource (c.req.src + c.readTo) (c.req.len - c.readTo)) (hne : bs ≠ [])
    (hdst : s.devRange (c.req.dst + 64 * c.moved) bs.length = some (.dram b)) : (s.copyWritten c).dram = (s.dramPut 7 b bs).dram := by
  have hread : ∀ u : State, (u.copyTouch c.req (c.req.src + c.readTo) (c.req.len - c.readTo)).dram = u.dram := fun u =>
    (State.copyTouch_frame (M := Touch.of [.dmc, .twn, .pmc, .draws, .out]) .of _ _ _ (.refl _ u)).dram.resolve_left (Touch.not_le rfl)
  have hfull : bs.isEmpty = false := List.isEmpty_eq_false_iff.2 hne
  simp only [State.copyWritten, hread, ← hbs, hfull, Bool.false_eq_true, if_false, copyDest_of_dram hdst]

theorem copyDone_same (s : State) (c : CopyRun) :
    Same (.of [.csm, .lck, .fir, .urg, .twn, .pmc, .out]) ((s.copyWritten c).copyCounted c) (s.copyDone c) := by
  rw [copyDone_eq]
  exact State.settle_frame .of s (State.copyEvent_frame .of _ true (State.countEvent_frame .of _ _ _ (.refl _ _)))

theorem reg_congr {s t : State} (h : t.regs = s.regs) (o : Nat) : t.reg o = s.reg o := congrArg (sparseGet (regReset o) · o) h

theorem endRun_reg (s : State) (c : CopyRun) (o : Nat) : (s.endRun c).reg o = s.reg o :=
  reg_congr ((endRun_same s c).regs.resolve_left (Touch.not_le rfl)) o

theorem endRun_dram (s : State) (c : CopyRun) : (s.endRun c).dram = s.dram := (endRun_same s c).dram.resolve_left (Touch.not_le rfl)

theorem copyDone_cpy (s : State) (c : CopyRun) : (s.copyDone c).cpy = { s.cpy with run := none } := by
  have hend : (s.copyDone c).cpy = ((s.copyWritten c).copyCounted c).cpy := (copyDone_same s c).cpy.resolve_left (Touch.not_le rfl)
  have hwritten : (s.copyWritten c).cpy = s.cpy := (copyWritten_same s c).cpy.resolve_left (Touch.not_le rfl)
  rw [hend, State.copyCounted, State.setReg_cpy, endRun_cpy, hwritten]

theorem copyDone_dram (s : State) (c : CopyRun) : (s.copyDone c).dram = (s.copyWritten c).dram := by
  rw [(copyDone_same s c).dram.resolve_left (Touch.not_le rfl), State.copyCounted, State.setReg_dram, endRun_dram]

theorem copyDone_reg_done (s : State) (c : CopyRun) : (s.copyDone c).reg cpyDoneReg = s.reg cpyDoneReg + 1 := by
  rw [reg_congr ((copyDone_same s c).regs.resolve_left (Touch.not_le rfl)), State.copyCounted, State.reg_setReg_same, endRun_reg,
    reg_congr ((copyWritten_same s c).regs.resolve_left (Touch.not_le rfl))]

/-! A copy that fails (R124). -/

/-- What a copy that fails `k` bytes from its start has written, and the record of an uncorrectable source. -/
def State.failWritten (s : State) (c : CopyRun) (cause : CopyFault) (k : Nat) : State :=
  let r := c.req
  let u := if cause = .chamberClosed then s
    else
      let d := s.draw
      let tail := (List.range (r.len - k)).map fun i => Config.copyTail d.1 (r.dst + k + i)
      let good := (c.ahead.flatten ++ s.copySource (r.src + c.readTo) (k - c.readTo)).take (k - 64 * c.moved)
      d.2.copyDest (r.dst + 64 * c.moved) (good ++ tail)
  if cause = .sourceEcc then u.recordUe 7 (s.sourceUnit (r.src + k)) else u

/-- What CPY_ERR holds after one more failure. -/
def State.nextCopyErr (u : State) (cause : CopyFault) : Word :=
  BitVec.ofNat 32 (1 + 2 * faultCode cause + 256 * min 255 (bitsOf (u.reg cpyErrReg).toNat 8 8 + 1))

/-- The state in which a copy that fails `k` bytes from its start has left the copier, with CPY_ERR and CPY_ERR_ADDR written. -/
def State.failRecorded (u : State) (c : CopyRun) (cause : CopyFault) (k : Nat) : State :=
  (((u.endRun { c with moved := if cause = .chamberClosed then c.moved else c.req.len / 64 }).setReg cpyErrReg (u.nextCopyErr cause)).setReg
    cpyErrAddr (BitVec.ofNat 32 (c.req.src + k))).setReg (cpyErrAddr + 4) (BitVec.ofNat 32 ((c.req.src + k) / 2 ^ 32))

theorem copyFail_eq (s : State) (c : CopyRun) (cause : CopyFault) {beat : Nat} (h : 64 * beat < c.req.len) :
    s.copyFail c cause beat =
      ((((s.failWritten c cause (64 * beat)).failRecorded c cause (64 * beat)).twinError (List.finRange 8)).copyEvent c.req false).settle s := by
  rw [State.copyFail, Nat.min_eq_left (Nat.le_of_lt h)]
  rfl

theorem exec_copyFail {s : State} {c : CopyRun} {cause : CopyFault} {beat : Nat} (hrun : s.cpy.run = some c)
    (hlen : 64 * c.failsAt cause beat < c.req.len) (hfails : s.copyFails c.req cause = true) :
    exec (.copyFail cause beat) s = .next (s.copyFail c cause (c.failsAt cause beat)) := by
  show execCopyFail cause beat s = _
  simp only [execCopyFail, hrun, hlen, hfails, and_self, if_true]

theorem failWritten_chamberClosed (s : State) (c : CopyRun) (k : Nat) : s.failWritten c .chamberClosed k = s := rfl

/-- Unless a chamber has closed, the beats before the failing one stand in a destination in DRAM, with anything behind them. -/
theorem failWritten_dram {s : State} {c : CopyRun} {cause : CopyFault} {k b : Nat} {good : List Byte} (hcause : cause ≠ .chamberClosed)
    (hgood : good = (c.ahead.flatten ++ s.copySource (c.req.src + c.readTo) (k - c.readTo)).take (k - 64 * c.moved))
    (hdst : s.devRange (c.req.dst + 64 * c.moved) (good.length + (c.req.len - k)) = some (.dram b)) :
    ∃ tail : List Byte, tail.length = c.req.len - k ∧ (s.failWritten c cause k).dram = (s.dramPut 7 b (good ++ tail)).dram := by
  have hlen : ((List.range (c.req.len - k)).map fun i => Config.copyTail s.draw.1 (c.req.dst + k + i)).length = c.req.len - k := by simp
  refine ⟨_, hlen, ?_⟩
  have hrange : s.devRange (c.req.dst + 64 * c.moved)
      (good ++ (List.range (c.req.len - k)).map fun i => Config.copyTail s.draw.1 (c.req.dst + k + i)).length = some (.dram b) := by
    rw [List.length_append, hlen]
    exact hdst
  rw [← draw_copyDest_dram hrange, State.failWritten, if_neg hcause, hgood]
  split <;> rfl

theorem failRecorded_same (u : State) (c : CopyRun) (cause : CopyFault) (k : Nat) :
    Same (.of [.regs, .cpy, .plk]) u (u.failRecorded c cause k) :=
  State.setReg_frame .of _ _ (State.setReg_frame .of _ _ (State.setReg_frame .of _ _ (State.endRun_frame .of _ (.refl _ u))))

theorem failRecorded_cpy (u : State) (c : CopyRun) (cause : CopyFault) (k : Nat) :
    (u.failRecorded c cause k).cpy = { u.cpy with run := none } := endRun_cpy _ _

theorem failRecorded_reg_err (u : State) (c : CopyRun) (cause : CopyFault) (k : Nat) :
    (u.failRecorded c cause k).reg cpyErrReg = u.nextCopyErr cause := by
  rw [State.failRecorded, State.reg_setReg_ne _ (by decide), State.reg_setReg_ne _ (by decide), State.reg_setReg_same]

theorem failRecorded_reg_addr (u : State) (c : CopyRun) (cause : CopyFault) (k : Nat) :
    (u.failRecorded c cause k).reg cpyErrAddr = BitVec.ofNat 32 (c.req.src + k) := by
  rw [State.failRecorded, State.reg_setReg_ne _ (by decide), State.reg_setReg_same]

theorem nextCopyErr_toNat (u : State) (cause : CopyFault) :
    (u.nextCopyErr cause).toNat = 1 + 2 * faultCode cause + 256 * min 255 (bitsOf (u.reg cpyErrReg).toNat 8 8 + 1) := by
  have hcode : faultCode cause ≤ 4 := by cases cause <;> decide
  rw [State.nextCopyErr, BitVec.toNat_ofNat]
  omega

theorem nextCopyErr_error (u : State) (cause : CopyFault) : (u.nextCopyErr cause).getLsbD 0 = true := by
  rw [BitVec.getLsbD, nextCopyErr_toNat, Nat.testBit_zero, decide_eq_true_eq]
  omega

theorem nextCopyErr_cause (u : State) (cause : CopyFault) : bitsOf (u.nextCopyErr cause).toNat 1 3 = faultCode cause := by
  have hcode : faultCode cause ≤ 4 := by cases cause <;> decide
  rw [nextCopyErr_toNat, bitsOf, Nat.shiftRight_eq_div_pow]
  omega

/-- After a copy has failed, the twin is told, the target gets the failure event, and what follows from it settles. -/
theorem copyFail_same (s : State) (c : CopyRun) (cause : CopyFault) {beat : Nat} (h : 64 * beat < c.req.len) :
    Same (.of [.csm, .lck, .fir, .urg, .twn, .out]) ((s.failWritten c cause (64 * beat)).failRecorded c cause (64 * beat))
      (s.copyFail c cause beat) := by
  rw [copyFail_eq s c cause h]
  exact State.settle_frame .of s (State.copyEvent_frame .of _ false (State.twinError_frame .of _ (.refl _ _)))

theorem copyFail_run (s : State) (c : CopyRun) (cause : CopyFault) {beat : Nat} (h : 64 * beat < c.req.len) :
    (s.copyFail c cause beat).cpy.run = none := by
  rw [(copyFail_same s c cause h).cpy.resolve_left (Touch.not_le rfl), failRecorded_cpy]

theorem copyFail_reg (s : State) (c : CopyRun) (cause : CopyFault) {beat : Nat} (h : 64 * beat < c.req.len) (o : Nat) :
    (s.copyFail c cause beat).reg o = ((s.failWritten c cause (64 * beat)).failRecorded c cause (64 * beat)).reg o :=
  reg_congr ((copyFail_same s c cause h).regs.resolve_left (Touch.not_le rfl)) o

theorem copyFail_dram (s : State) (c : CopyRun) (cause : CopyFault) {beat : Nat} (h : 64 * beat < c.req.len) :
    (s.copyFail c cause beat).dram = (s.failWritten c cause (64 * beat)).dram :=
  ((copyFail_same s c cause h).dram.resolve_left (Touch.not_le rfl)).trans
    ((failRecorded_same _ c cause _).dram.resolve_left (Touch.not_le rfl))

theorem copyFail_tables (s : State) (c : CopyRun) (cause : CopyFault) {beat : Nat} (h : 64 * beat < c.req.len) :
    (s.copyFail c cause beat).tables = (s.failWritten c cause (64 * beat)).tables :=
  ((copyFail_same s c cause h).tables.resolve_left (Touch.not_le rfl)).trans
    ((failRecorded_same _ c cause _).tables.resolve_left (Touch.not_le rfl))

theorem copyFail_units (s : State) (c : CopyRun) (cause : CopyFault) {beat : Nat} (h : 64 * beat < c.req.len) (j : Fin 4) :
    ((s.copyFail c cause beat).lck.ch[j]).units = ((s.failWritten c cause (64 * beat)).lck.ch[j]).units := by
  have hsettle : ∀ u : State, (u.settle s).lck = u.lck := fun u =>
    (State.settle_frame (M := Touch.of [.fir, .urg, .twn, .out]) .of s (.refl _ u)).lck.resolve_left (Touch.not_le rfl)
  have htwin : ∀ u : State, (u.twinError (List.finRange 8)).lck = u.lck := fun u =>
    (State.twinError_frame (M := Touch.of [.twn]) .of _ (.refl _ u)).lck.resolve_left (Touch.not_le rfl)
  rw [copyFail_eq s c cause h, hsettle, copyEvent_units, htwin, (failRecorded_same _ c cause _).lck.resolve_left (Touch.not_le rfl)]

/-- Settles O24: the entry by how its request is accepted, the copy by what its end leaves in DRAM and in the registers of the copier. -/
theorem copierTakesRunsAndEnds : Obligations.CopierTakesRunsAndEnds := by
  refine ⟨?_, ?_, ?_, ?_, ?_, ?_⟩
  · rintro s n f ⟨hstart, hs⟩ hop hup hroom
    refine .of_exec (exec_copy hstart hop hup) ?_
    rw [if_pos hroom]
    exact acceptCopy_completes (s := s) (t := s.begun f) ⟨rfl, rfl, List.prefix_rfl⟩ (flight?_begun hs (mem_of_startable hstart))
  · rintro s n f ⟨hstart, hs⟩ hop hup hfull
    refine .of_exec (exec_copy hstart hop hup) ?_
    rw [if_neg (Nat.not_lt.2 hfull)]
    have hwaits : ((s.begun f).waitFlight f.id).flight? f.id = some { f with phase := .waiting, start := s.hif.nextStart } := by
      rw [flight?_waitFlight, flight?_begun hs (mem_of_startable hstart), Option.map_some]
    exact ⟨rfl, .of_flight? hwaits⟩
  · intro s f hs hroom hfind hcheck
    refine .of_exec (exec_copyQueueAdmit hroom hfind) ?_
    have hcompletes := acceptCopy_completes (.refl s) (flight?_of_mem hs (List.mem_of_find?_eq_some hfind))
    rwa [hcheck] at hcompletes
  · exact fun s r rest hrun hqueue hup hclk hblks => exec_copyStart hrun hqueue hup hclk hblks
  · intro s c b bs hrun hstuck hgood hbs hne hdst
    have hcpy := copyDone_cpy s c
    exact .of_exec (exec_copyDone hrun hstuck hgood) ⟨by rw [hcpy], by rw [hcpy], (copyDone_dram s c).trans (copyWritten_dram hbs hne hdst),
      copyDone_reg_done s c⟩
  · rintro s c cause beat k good hrun rfl hlen hfails hgood
    have herr := (copyFail_reg s c cause hlen cpyErrReg).trans (failRecorded_reg_err _ c cause _)
    refine .of_exec (exec_copyFail hrun hlen hfails) ⟨copyFail_run s c cause hlen, ?_, ?_, ?_, ?_, ?_⟩
    · rw [State.regBit, herr, nextCopyErr_error]
    · rw [State.regField, herr, nextCopyErr_cause]
    · rw [copyFail_reg s c cause hlen, failRecorded_reg_addr]
    · rintro rfl
      have hnothing := failWritten_chamberClosed s c (64 * c.failsAt .chamberClosed beat)
      exact ⟨hnothing ▸ copyFail_dram s c _ hlen, hnothing ▸ copyFail_tables s c _ hlen, fun j => hnothing ▸ copyFail_units s c _ hlen j⟩
    · intro b hcause hdst
      rw [copyFail_dram s c cause hlen]
      exact failWritten_dram hcause hgood hdst

end Sys2Proof.Machine
end

section
/-! CRC-32C of the codec (R150) and the two checksums that a quire's header carries (R148). -/

namespace Sys2Proof.Machine

/-- The bit step as a shift and a conditional polynomial, the form in which R150 gives it. -/
theorem crcStep_eq (c : BitVec 32) : crcStep c = (c >>> 1) ^^^ (if c.getLsbD 0 then 0x82F63B78 else 0) := by
  unfold crcStep
  split
  · rfl
  · exact BitVec.xor_zero.symm

theorem crcByte_eq_foldl (c : BitVec 32) (b : Byte) :
    crcByte c b = (List.range 8).foldl (fun (c : BitVec 32) _ => (c >>> 1) ^^^ (if c.getLsbD 0 then 0x82F63B78 else 0)) (c ^^^ b.setWidth 32) := by
  simp only [← crcStep_eq]
  rfl

theorem crc32c_append_byte (bs : List Byte) (b : Byte) : crc32c (bs ++ [b]) = ~~~crcByte (~~~crc32c bs) b := by
  simp only [crc32c, List.foldl_append, List.foldl_cons, List.foldl_nil, BitVec.not_not]

theorem leNat_leBytes (k n : Nat) : leNat (leBytes k n) = n % 256 ^ k := by
  induction k generalizing n with
  | zero => exact (Nat.mod_one n).symm
  | succ k ih => rw [leBytes, leNat, ih, Nat.pow_succ', Nat.mod_mul, BitVec.toNat_ofNat]

/-- A word that stands little-endian in four bytes of a byte string is the number read there (R6). -/
theorem ofNat_numAt {bs : List Byte} {o : Nat} {c : BitVec 32} (h : (bs.drop o).take 4 = leBytes 4 c.toNat) :
    BitVec.ofNat 32 (numAt bs o 4) = c := by
  have hnum : numAt bs o 4 = c.toNat := by
    rw [numAt, h, leNat_leBytes]
    exact Nat.mod_eq_of_lt c.isLt
  rw [hnum, BitVec.ofNat_toNat, BitVec.setWidth_eq]

/-- Settles O33: appending a byte by the fold over its bits, the header's words by what little-endian bytes read as. -/
theorem crcIsTheReflectedCastagnoli : Obligations.CrcIsTheReflectedCastagnoli := by
  refine ⟨rfl, ?_, by decide +kernel, ?_⟩
  · intro bs b
    rw [crc32c_append_byte, crcByte_eq_foldl]
  · intro bs c d
    refine ⟨fun hpayload => ofNat_numAt hpayload, fun hheader => ?_⟩
    have hcrc := ofNat_numAt hheader
    simp only [parseHeader, hcrc, decide_eq_true_eq]

end Sys2Proof.Machine
end

section
/-! Decoding: dispatch and end of a decode (R158, R159, R163, R164). -/

namespace Sys2Proof.Machine

/-! Operations that leave the codec's state alone. -/

@[simp] theorem settle_qdc (s old : State) : (s.settle old).qdc = s.qdc :=
  (State.settle_frame (M := Touch.of [.fir, .urg, .twn, .out]) .of old (.refl _ s)).qdc.resolve_left (Touch.not_le rfl)

@[simp] theorem countEvent_qdc (s : State) (code n : Nat) (i : EventInfo) : (s.countEvent code n i).qdc = s.qdc :=
  (State.countEvent_frame (M := Touch.of [.pmc, .out]) .of code n i (.refl _ s)).qdc.resolve_left (Touch.not_le rfl)

@[simp] theorem log_qdc (s : State) (code sev unit : Nat) (data : List Byte) : (s.log code sev unit data).qdc = s.qdc :=
  (State.log_frame (M := Touch.of [.regs, .hif, .pmc, .out]) .of code sev unit data (.refl _ s)).qdc.resolve_left (Touch.not_le rfl)

@[simp] theorem jobRead_qdc (s : State) (port : Fin 10) (fuel job len : Nat) : (s.jobRead port fuel job len).2.2.qdc = s.qdc :=
  (State.jobRead_frame (M := Touch.of [.mmu, .dmc, .twn, .pmc, .draws, .out]) .of port fuel job len (.refl _ s)).qdc.resolve_left
    (Touch.not_le rfl)

@[simp] theorem blank_qdc (s : State) (src : LineSource) (p : Fin 8) : (s.blank src p).qdc = s.qdc := rfl

@[simp] theorem blankBands_qdc (s : State) (q : Quire) (origin : Int) : (s.blankBands q origin).qdc = s.qdc := rfl

theorem quireBad_qdc (s : State) (q : Quire) (origin : Int) (cause : Nat) : (s.quireBad q origin cause).qdc =
    { s.qdc with badCount := satInc s.qdc.badCount, badCause := BitVec.ofNat 3 cause, badPlane := q.plane } := log_qdc _ _ _ _ _

/-! The state of the quire that an engine holds. -/

/-- Every record of the quire of a decode, in the index or among the plate repeats, stands in a state. -/
def QdcState.jobIs (d : QdcState) (st : QuireState) : EngineJob → Prop
  | .quire id => ∀ x ∈ d.quires, x.id = id → x.state = st
  | .plate id => ∀ x ∈ d.plates, x.quire.id = id → x.quire.state = st

/-- A quire put into a state by its number stands in it, and every other one is as it was. -/
theorem mem_modQuire_state {s : State} {id : Nat} {st : QuireState} {x : Quire}
    (h : x ∈ (s.modQuire id fun q => { q with state := st }).qdc.quires) : x.id = id ∧ x.state = st ∨ x.id ≠ id ∧ x ∈ s.qdc.quires := by
  obtain ⟨q, hq, rfl⟩ := List.mem_map.1 h
  by_cases hid : q.id = id
  · rw [if_pos hid]
    exact .inl ⟨hid, rfl⟩
  · rw [if_neg hid]
    exact .inr ⟨hid, hq⟩

theorem modJob_jobIs (s : State) (j : EngineJob) (st : QuireState) : (s.modJob j fun q => { q with state := st }).qdc.jobIs st j := by
  cases j with
  | quire id => exact fun x hx hid => (mem_modQuire_state hx).elim And.right fun h => absurd hid h.1
  | plate id =>
    intro x hx hid
    obtain ⟨y, -, rfl⟩ := List.mem_map.1 hx
    split
    · rfl
    · next hne => exact absurd (by simpa only [if_neg hne] using hid) hne

/-! Dispatch. -/

theorem exec_decodeDispatch {s : State} {e : Fin 16} {c : DecodeCand} (hruns : s.qdcRuns = true) (hanswers : s.jobAnswers = true)
    (henabled : s.regBit 0xA0004 e.val = true) (hidle : s.qdc.dec[e] = none) (hfirst : firstCand (s.quireCands ++ s.plateCands) = some c) :
    exec (.decodeDispatch e) s = .next (s.takeDecode e c) := by
  show execDecodeDispatch e s = _
  simp only [execDecodeDispatch, hruns, hanswers, henabled, hidle, hfirst, Option.isNone_none, Bool.and_self, if_true]

/-- The engine holds the quire it takes, which is DECODING. -/
theorem takeDecode_quire (s : State) (e : Fin 16) {c : DecodeCand} {id : Nat} (h : c.job = .inl id) :
    (s.takeDecode e c).qdc.dec[e] = some (.quire id) ∧ (s.takeDecode e c).qdc.jobIs .decoding (.quire id) := by
  simp only [State.takeDecode, h]
  exact ⟨Vector.getElem_set_self _, modJob_jobIs s (.quire id) .decoding⟩

/-- The record of a plate quire read again takes the next number and the plane of its listing. -/
theorem readPlate_quire (s : State) (r : Repeat) (q : Quire) :
    (s.readPlate r q).1.id = s.qdc.nextId ∧ (s.readPlate r q).1.plane = q.plane ∧ (s.readPlate r q).1.state = .decoding := by
  simp only [State.readPlate, jobRead_qdc]
  split
  · exact ⟨rfl, rfl, rfl⟩
  · exact ⟨rfl, rfl, rfl⟩

theorem readPlate_qdc (s : State) (r : Repeat) (q : Quire) : (s.readPlate r q).2.qdc =
    { s.qdc with nextId := s.qdc.nextId + 1, plates := s.qdc.plates ++ [⟨r.d, r.entry, r.origin, (s.readPlate r q).1⟩] } := by
  simp only [State.readPlate, jobRead_qdc]

/-- The engine holds the new record of the plate repeat it takes. -/
theorem takeDecode_plate (s : State) (e : Fin 16) {c : DecodeCand} {r : Repeat} {q : Quire} (h : c.job = .inr (r, q)) :
    (s.takeDecode e c).qdc.dec[e] = some (.plate s.qdc.nextId) ∧
      ∃ x : Quire, (s.takeDecode e c).qdc.plates = s.qdc.plates ++ [⟨r.d, r.entry, r.origin, x⟩] ∧ x.id = s.qdc.nextId ∧
        x.plane = q.plane ∧ x.state = .decoding := by
  have hnew := readPlate_quire s r q
  simp only [State.takeDecode, h, readPlate_qdc, hnew.left]
  exact ⟨Vector.getElem_set_self _, _, rfl, hnew⟩

/-! The end of a decode. -/

/-- An engine that has read its stream out reads no more. -/
theorem readUntil_of_readOut {s : State} {j : EngineJob} {q : Quire} (hq : s.jobQuire j = some q) (hout : q.readOut = true) (need k : Nat) :
    s.readUntil j need k = s := by
  cases k with
  | zero => rfl
  | succ k => simp only [State.readUntil, hq, hout, Bool.or_true, Bool.true_or, if_true]

theorem exec_decodeEnd {s : State} {e : Fin 16} {j : EngineJob} {q : Quire} (hdec : s.qdc.dec[e] = some j) (hq : s.jobQuire j = some q)
    (hout : q.readOut = true) :
    exec (.decodeEnd e) s = .next (if s.qdcRuns then if s.decodeOver j q then s.decodeEnds e j q else s else s) := by
  have hread : s.decodeTo j (q.rawLen + 1) = s := by
    simp only [State.decodeTo, hq, readUntil_of_readOut hq hout]
  show execDecodeEnd e s = _
  simp only [execDecodeEnd, hdec, hq, hread]

theorem exec_decodeEnd_over {s : State} {e : Fin 16} {j : EngineJob} {q : Quire} (hruns : s.qdcRuns = true) (hdec : s.qdc.dec[e] = some j)
    (hq : s.jobQuire j = some q) (hout : q.readOut = true) (hover : s.decodeOver j q = true) :
    exec (.decodeEnd e) s = .next (s.decodeEnds e j q) := by
  rw [exec_decodeEnd hdec hq hout, if_pos hruns, if_pos hover]

/-- The state in which a decode that fails leaves its quire: a plate repeat is BLANKED at once (R164). -/
def EngineJob.failed : EngineJob → QuireState
  | .quire _ => .bad
  | .plate _ => .blanked

/-- An engine holds nothing. -/
def State.freeEngine (s : State) (e : Fin 16) : State := { s with qdc := { s.qdc with dec := s.qdc.dec.set e none } }

theorem freeEngine_dec (s : State) (e : Fin 16) : (s.freeEngine e).qdc.dec[e] = none := Vector.getElem_set_self _

theorem modJob_dec (s : State) (j : EngineJob) (f : Quire → Quire) : (s.modJob j f).qdc.dec = s.qdc.dec := by
  cases j with
  | quire id => rfl
  | plate id => rfl

theorem modJob_bad (s : State) (j : EngineJob) (f : Quire → Quire) :
    (s.modJob j f).qdc.badCount = s.qdc.badCount ∧ (s.modJob j f).qdc.badCause = s.qdc.badCause ∧
      (s.modJob j f).qdc.badPlane = s.qdc.badPlane := by
  cases j with
  | quire id => exact ⟨rfl, rfl, rfl⟩
  | plate id => exact ⟨rfl, rfl, rfl⟩

theorem decodeEnds_verified_qdc {s : State} {q : Quire} (h : decodeCause q.rawLen q.crc q.read (decide (q.read.length = q.compLen)) = none)
    (e : Fin 16) (j : EngineJob) :
    (s.decodeEnds e j q).qdc = ((s.freeEngine e).modJob j fun x => { x with state := .verified }).qdc := by
  simp only [State.decodeEnds, h, settle_qdc, countEvent_qdc, State.freeEngine]

theorem decodeEnds_bad_qdc {s : State} {q : Quire} {cause : Nat}
    (h : decodeCause q.rawLen q.crc q.read (decide (q.read.length = q.compLen)) = some cause) (e : Fin 16) (j : EngineJob) :
    (s.decodeEnds e j q).qdc = (((s.freeEngine e).quireBad q ((s.freeEngine e).jobOrigin j) cause).modJob j
      fun x => { x with state := j.failed }).qdc := by
  simp only [State.decodeEnds, h]
  cases j with
  | quire id => rfl
  | plate id =>
    rw [settle_qdc, blankBands_qdc, blank_qdc]
    rfl

/-- A decode whose checks pass frees its engine and leaves the quire VERIFIED. -/
theorem decodeEnds_verified {s : State} {q : Quire} (h : decodeCause q.rawLen q.crc q.read (decide (q.read.length = q.compLen)) = none)
    (e : Fin 16) (j : EngineJob) : (s.decodeEnds e j q).qdc.dec[e] = none ∧ (s.decodeEnds e j q).qdc.jobIs .verified j := by
  rw [decodeEnds_verified_qdc h, modJob_dec]
  exact ⟨freeEngine_dec s e, modJob_jobIs _ j .verified⟩

/-- A decode that a check fails frees its engine, leaves the quire BAD or BLANKED and is noted in QDC_BAD. -/
theorem decodeEnds_bad {s : State} {q : Quire} {cause : Nat}
    (h : decodeCause q.rawLen q.crc q.read (decide (q.read.length = q.compLen)) = some cause) (e : Fin 16) (j : EngineJob) :
    (s.decodeEnds e j q).qdc.dec[e] = none ∧ (s.decodeEnds e j q).qdc.jobIs j.failed j ∧
      (s.decodeEnds e j q).qdc.badCount = satInc s.qdc.badCount ∧ (s.decodeEnds e j q).qdc.badCause = BitVec.ofNat 3 cause ∧
      (s.decodeEnds e j q).qdc.badPlane = q.plane := by
  have hnoted := modJob_bad ((s.freeEngine e).quireBad q ((s.freeEngine e).jobOrigin j) cause) j fun x => { x with state := j.failed }
  rw [quireBad_qdc] at hnoted
  rw [decodeEnds_bad_qdc h, modJob_dec]
  refine ⟨?_, modJob_jobIs _ j j.failed, hnoted⟩
  rw [quireBad_qdc]
  exact freeEngine_dec s e

end Sys2Proof.Machine
end

section
/-! The replace deadline and retirement (R107, R152, R161, R163). -/

namespace Sys2Proof.Machine

theorem modAt_getElem {α : Type} {n : Nat} (v : Vector α n) (i j : Fin n) (f : α → α) : (modAt v i f)[j] = if i = j then f v[j] else v[j] := by
  by_cases h : i = j
  · subst h
    simp [modAt]
  · simp [modAt, h, Fin.val_ne_of_ne h]

@[simp] theorem settle_scr (s old : State) : (s.settle old).scr = s.scr :=
  (State.settle_frame (M := Touch.of [.fir, .urg, .twn, .out]) .of old (.refl _ s)).scr.resolve_left (Touch.not_le rfl)

/-! The replace deadline. -/

/-- One quire of the index is BLANKED. -/
def State.blankQuire (s : State) (q : Quire) : State :=
  ((s.modQuire q.id fun x => { x with state := .blanked }).blank (.quire q.id) q.plane).blankBands q 0

theorem blankDue_eq (s : State) :
    s.blankDue = (s.qdc.quires.filter fun q => decide (q.state = .bad) && s.deadlinePassed q).foldl State.blankQuire s := rfl

theorem blankQuire_lines (s : State) (r : Quire) (p : Fin 8) : (s.blankQuire r).scr.lines[p] =
    if r.plane = p then s.scr.lines[p].map fun w => { w with done := w.done.filter fun x => decide (x ≠ .quire r.id) } else s.scr.lines[p] :=
  modAt_getElem _ _ _ _

/-- A quire is BLANKED and no line of its plane counts as written from it. -/
def State.isBlanked (s : State) (q : Quire) : Prop :=
  s.qdc.jobIs .blanked (.quire q.id) ∧ ∀ w ∈ s.scr.lines[q.plane], .quire q.id ∉ w.done

theorem blankQuire_isBlanked (s : State) (q : Quire) : (s.blankQuire q).isBlanked q := by
  refine ⟨modJob_jobIs s (.quire q.id) .blanked, fun w hw => ?_⟩
  rw [blankQuire_lines, if_pos rfl] at hw
  obtain ⟨v, -, rfl⟩ := List.mem_map.1 hw
  exact fun hmem => of_decide_eq_true (List.mem_filter.1 hmem).2 rfl

/-- What is BLANKED stays so when another quire is. -/
theorem isBlanked_blankQuire {s : State} {q : Quire} (h : s.isBlanked q) (r : Quire) : (s.blankQuire r).isBlanked q := by
  obtain ⟨hstate, hlines⟩ := h
  refine ⟨fun x hx hid => ?_, fun w hw => ?_⟩
  · obtain ⟨-, hx⟩ | ⟨-, hx⟩ := mem_modQuire_state hx
    · exact hx
    · exact hstate x hx hid
  · rw [blankQuire_lines] at hw
    split at hw
    · obtain ⟨v, hv, rfl⟩ := List.mem_map.1 hw
      exact fun hmem => hlines v hv (List.mem_filter.1 hmem).1
    · exact hlines w hw

theorem isBlanked_foldl_of_isBlanked {q : Quire} (l : List Quire) {s : State} (h : s.isBlanked q) : (l.foldl State.blankQuire s).isBlanked q := by
  induction l generalizing s with
  | nil => exact h
  | cons r l ih => exact ih (isBlanked_blankQuire h r)

theorem isBlanked_foldl_of_mem {q : Quire} {l : List Quire} (h : q ∈ l) (s : State) : (l.foldl State.blankQuire s).isBlanked q := by
  obtain ⟨l₁, l₂, rfl⟩ := List.append_of_mem h
  rw [List.foldl_append, List.foldl_cons]
  exact isBlanked_foldl_of_isBlanked l₂ (blankQuire_isBlanked _ q)

theorem blankDue_isBlanked {s : State} {q : Quire} (hq : q ∈ s.qdc.quires) (hbad : q.state = .bad) (hlate : s.deadlinePassed q = true) :
    s.blankDue.isBlanked q := by
  rw [blankDue_eq]
  refine isBlanked_foldl_of_mem (List.mem_filter.2 ⟨hq, ?_⟩) s
  rw [hlate, decide_eq_true hbad, Bool.and_self]

/-! Retirement. -/

theorem foldl_stopDecode_quires {α : Type} (job : α → EngineJob) (l : List α) (s : State) :
    (l.foldl (fun t x => t.stopDecode (job x)) s).qdc.quires = s.qdc.quires := by
  induction l generalizing s with
  | nil => rfl
  | cons x l ih => exact ih _

/-- The index keeps a quire unless one of its number lies wholly below RETIRED. -/
theorem mem_retireQuires_quires {s : State} {x : Quire} : x ∈ s.retireQuires.qdc.quires ↔
    x ∈ s.qdc.quires ∧ ∀ q ∈ s.qdc.quires, q.id = x.id → s.fir.plane[q.plane].retired < q.first + q.count := by
  simp only [State.retireQuires, foldl_stopDecode_quires, List.mem_filter, Bool.not_eq_true', List.any_eq_false, decide_eq_true_eq, and_imp]
  refine and_congr_right fun _ => forall₂_congr fun q _ => ?_
  omega

theorem exec_quireRetire {s : State} (h : s.blkUp .qdc = true) : exec .quireRetire s = .next s.retireQuires := by
  show execQuireRetire s = _
  rw [execQuireRetire, if_pos h]

/-- Settles O25: dispatch by what the engine takes, the end of a decode by its checks, the replace deadline and retirement by what they leave of the index. -/
theorem quiresAreDecodedReplacedAndRetired : Obligations.QuiresAreDecodedReplacedAndRetired := by
  refine ⟨?_, ?_, ?_, ?_, ?_, ?_, ?_⟩
  · exact fun s e c id hruns hanswers henabled hidle hfirst hjob =>
      .of_exec (exec_decodeDispatch hruns hanswers henabled hidle hfirst) (takeDecode_quire s e hjob)
  · exact fun s e c r q hruns hanswers henabled hidle hfirst hjob =>
      .of_exec (exec_decodeDispatch hruns hanswers henabled hidle hfirst) (takeDecode_plate s e hjob)
  · intro s e id q hruns hdec hq hout hover
    refine .of_exec (exec_decodeEnd_over hruns hdec hq hout hover) ?_
    split
    · next hcause => exact decodeEnds_verified hcause e (.quire id)
    · next cause hcause => exact decodeEnds_bad hcause e (.quire id)
  · intro s e id q hruns hdec hq hout hover
    refine .of_exec (exec_decodeEnd_over hruns hdec hq hout hover) ?_
    split
    · next hcause => exact decodeEnds_verified hcause e (.plate id)
    · next cause hcause => exact decodeEnds_bad hcause e (.plate id)
  · intro s e j q hdec hq hout hover
    rw [exec_decodeEnd hdec hq hout, hover, if_neg Bool.false_ne_true, ite_self]
  · intro s q hq hbad hlate
    refine .of_exec (t := s.blankDue.settle s) rfl ?_
    rw [settle_qdc, settle_scr]
    exact blankDue_isBlanked hq hbad hlate
  · intro s hup
    refine .of_exec (exec_quireRetire hup) fun q hq => ⟨fun hretired x hx hid => ?_, fun hkept => mem_retireQuires_quires.2 ⟨hq, hkept⟩⟩
    obtain ⟨-, habove⟩ := mem_retireQuires_quires.1 hx
    exact absurd (habove q hq hid.symm) (Nat.not_lt.2 hretired)

end Sys2Proof.Machine
end

section
/-! Tones and levels of screening (R182 to R185). -/

namespace Sys2Proof.Machine

theorem correctedTone_eq {g : Int} (hg : -128 ≤ g) (curve : Nat) :
    (correctedTone curve g : Int) = min 4095 (((curve : Int) * (512 + g) + 256) / 512) := by
  have hprod : 0 ≤ (curve : Int) * (512 + g) := Int.mul_nonneg (Int.natCast_nonneg _) (by omega)
  unfold correctedTone
  omega

/-- A field of one byte is the byte there. -/
theorem viewNum_byte (v : TableView) (t off : Nat) : viewNum v t off 1 = (v (tableKey t off)).toNat := rfl

theorem threshold_lt (v : TableView) (set x y k : Nat) : threshold v set x y k < 256 := BitVec.isLt _

theorem screenLevel_zero (v : TableView) (b set x y : Nat) : screenLevel v b set x y 0 = 0 := by
  rw [screenLevel, List.length_eq_zero_iff, List.filter_eq_nil_iff]
  intro k _
  simp

/-- The highest boundary, 16 * 255 + 8, lies at or below the tone 4,095: it reaches every threshold. -/
theorem screenLevel_full (v : TableView) (b set x y : Nat) : screenLevel v b set x y 4095 = 2 ^ b - 1 := by
  have hreach : ∀ k ∈ List.range (2 ^ b - 1), decide (16 * threshold v set x y (k + 1) + 8 ≤ 4095) = true := fun k _ => by
    have ht := threshold_lt v set x y (k + 1)
    exact decide_eq_true (by omega)
  rw [screenLevel, List.filter_eq_self.2 hreach, List.length_range]

theorem columnId_lt (p : Fin 8) {c : Nat} (hc : c < 32768) : columnId p c < 262144 := by
  unfold columnId
  omega

/-- A level of screened input depends on the bytes of the remap table alone: 512 bytes of remaps, then a nibble for each column id. -/
theorem remapLevel_congr {v w : TableView} (h : ∀ o, o < 131584 → v (tableKey 0x0013 o) = w (tableKey 0x0013 o)) (b : Nat) (p : Fin 8)
    {id x : Nat} (hid : id < 262144) (hx : x < 16) : remapLevel v b p id x = remapLevel w b p id x := by
  simp only [remapLevel, viewNum_byte]
  rw [h (512 + id / 2) (by omega)]
  have hr := Nat.mod_lt (nibble (w (tableKey 0x0013 (512 + id / 2))).toNat id) (show 0 < 8 by decide)
  rw [h _ (by omega)]

theorem levelOf_screened (s : State) (p : Fin 8) (n : Nat) {kind : Nat} (hk : kind ≠ 0) (c x : Nat) :
    s.levelOf p n kind c x = remapLevel (s.viewAt n) s.bits p (columnId p c) x := if_neg hk

/-- Settles O34: contone input by the definition of its level, screened input by the bytes that its remap reads. -/
theorem contoneTonesBecomeLevels : Obligations.ContoneTonesBecomeLevels := by
  refine ⟨fun curve g hg _ => correctedTone_eq hg curve, fun s p n c x => rfl,
    fun v b set x y => ⟨screenLevel_zero v b set x y, screenLevel_full v b set x y⟩, ?_⟩
  intro s u p n kind c x hk hbits htable hc hx
  rw [levelOf_screened s p n hk, levelOf_screened u p n hk, hbits]
  exact remapLevel_congr htable u.bits p (columnId_lt p hc) hx

end Sys2Proof.Machine
end

section
/-! The write of a source's line into its ring slot (R172, R177, R186, R189 to R191). -/

namespace Sys2Proof.Machine

/-! What the writes to a slot leave. -/

/-- A state of the same passes whose DRAM differs at most from lo up to below hi. -/
structure WritesWithin (lo hi : Nat) (s t : State) : Prop where
  passes : t.scr.passes = s.scr.passes
  outside : ∀ a, a < lo ∨ hi ≤ a → t.dramByte a = s.dramByte a

theorem WritesWithin.refl (lo hi : Nat) (s : State) : WritesWithin lo hi s s := ⟨rfl, fun _ _ => rfl⟩

theorem WritesWithin.trans {lo hi lo' hi' : Nat} {s t u : State} (h : WritesWithin lo hi s t) (h' : WritesWithin lo' hi' t u) (hlo : lo ≤ lo')
    (hhi : hi' ≤ hi) : WritesWithin lo hi s u :=
  ⟨h'.passes.trans h.passes, fun a ha => (h'.outside a (by omega)).trans (h.outside a ha)⟩

theorem dramByte_congr {s t : State} (h : t.dram = s.dram) (a : Nat) : t.dramByte a = s.dramByte a := by
  unfold State.dramByte
  rw [h]

/-- What changes neither the passes nor the DRAM writes nowhere. -/
theorem WritesWithin.of_eq {s t : State} (hpasses : t.scr.passes = s.scr.passes) (hdram : t.dram = s.dram) (lo hi : Nat) :
    WritesWithin lo hi s t := ⟨hpasses, fun a _ => dramByte_congr hdram a⟩

theorem dramPutUnit_within (s : State) (port : Fin 10) (a : Nat) (bs : List Byte) (chamber : Bool) :
    WritesWithin a (a + bs.length) s (s.dramPutUnit port a bs chamber) := by
  constructor
  · rw [(State.dramPutUnit_frame (M := Touch.of [.dmc, .twn, .pmc, .dram, .draws, .out]) .of port a bs chamber (.refl _ s)).scr.resolve_left
      (Touch.not_le rfl)]
  · intro b hb
    have hdram := State.putWrite_dram s (s.reqAt port (portClass port chamber) true a bs.length) bs
    rw [reqAt_addr] at hdram
    split at hdram
    · exact dramByte_of_written_outside hdram hb
    · exact dramByte_congr hdram b

/-- A unit of a slot is written as a whole, its masked bytes with what they held. -/
theorem writeSlotUnit_within (s : State) (b a u : Nat) (lv : Nat → Option Nat) :
    WritesWithin (a + 64 * u) (a + 64 * u + 64) s (s.writeSlotUnit b a u lv) := by
  unfold State.writeSlotUnit
  extract_lets cols masked at_ bytes stored s1 scr2 s2
  split
  · exact .refl _ _ s
  · have h1 : WritesWithin (a + 64 * u) (a + 64 * u + 64) s s1 := by
      have hlen : bytes.length = 64 := by simp [bytes]
      rw [← hlen]
      exact dramPutUnit_within s 2 at_ bytes false
    have h2 : WritesWithin (a + 64 * u) (a + 64 * u + 64) s s2 := by
      unfold s2
      split
      · exact h1.trans (.of_eq (by rfl) (by rfl) _ _) (Nat.le_refl _) (Nat.le_refl _)
      · exact h1
    split
    · have h3 : WritesWithin (a + 64 * u) (a + 64 * u + 64) s2 ((s2.recordUe 2 at_).spoilUnit at_) :=
        .of_eq (by rfl) (by rfl) _ _
      exact h2.trans h3 (Nat.le_refl _) (Nat.le_refl _)
    · exact h2

/-- The slot of a line holds 4,096 bytes for each bit of depth (R189). -/
theorem writeSlot_within (s : State) (p : Fin 8) (n : Nat) (ws : List (Nat × Nat)) :
    WritesWithin (s.slotAddr p n) (s.slotAddr p n + 4096 * s.bits) s (s.writeSlot p n ws) := by
  unfold State.writeSlot
  refine List.foldlRecOn _ _ (motive := WritesWithin _ _ s) (.refl _ _ s) fun t ht u hu => ?_
  have hu := List.mem_range.1 hu
  exact ht.trans (writeSlotUnit_within t _ _ u _) (by omega) (by omega)

theorem useChambers_same (s : State) (p : Fin 8) (n : Nat) : Same (.of [.lck]) s (s.useChambers p n) :=
  State.useChambers_frame .of p n (.refl _ s)

/-- The slot of a line after a write of columns to it: none where no column is left to write. -/
def State.putLine (s : State) (p : Fin 8) (n : Nat) (ws : List (Nat × Nat)) : State :=
  if ws.isEmpty then s else (s.writeSlot p n ws).useChambers p n

theorem putLine_same (s : State) (p : Fin 8) (n : Nat) (ws : List (Nat × Nat)) :
    Same (.of [.dmc, .scr, .lck, .twn, .pmc, .dram, .draws, .out]) s (s.putLine p n ws) := by
  unfold State.putLine
  exact .ite (.refl _ s) (State.useChambers_frame .of p n (State.writeSlot_frame .of p n ws (.refl _ s)))

theorem putLine_within (s : State) (p : Fin 8) (n : Nat) (ws : List (Nat × Nat)) :
    WritesWithin (s.slotAddr p n) (s.slotAddr p n + 4096 * s.bits) s (s.putLine p n ws) := by
  unfold State.putLine
  split
  · exact .refl _ _ s
  · have hlck := useChambers_same (s.writeSlot p n ws) p n
    exact (writeSlot_within s p n ws).trans
      (.of_eq (congrArg ScrState.passes (hlck.scr.resolve_left (Touch.not_le rfl))) (hlck.dram.resolve_left (Touch.not_le rfl)) _ _)
      (Nat.le_refl _) (Nat.le_refl _)

theorem settle_dram (s old : State) : (s.settle old).dram = s.dram :=
  (State.settle_frame (M := Touch.of [.fir, .urg, .twn, .out]) .of old (.refl _ s)).dram.resolve_left (Touch.not_le rfl)

/-! The line counts its source as written. -/

theorem hasWritten_congr {s t : State} (h : t.scr = s.scr) (p : Fin 8) (n : Nat) (src : LineSource) : t.hasWritten p n src = s.hasWritten p n src := by
  simp only [State.hasWritten, State.lineWork, h]

/-- A written source heads the line's record, which begins with it where the line had none. -/
theorem lineWork_markWritten (s : State) (p : Fin 8) (n : Nat) (src : LineSource) (issued : Bool) :
    (s.markWritten p n src issued).lineWork p n = some ⟨n, src :: (s.lineWork p n).elim [] LineWork.done⟩ := by
  simp only [State.markWritten, State.lineWork, Fin.getElem_fin, Vector.getElem_set_self]
  cases hwork : s.scr.lines[p.val].find? fun w => decide (w.line = n) with
  | none =>
    have hany : (s.scr.lines[p.val].any fun w => decide (w.line = n)) = false := by
      rw [List.any_eq_false]
      exact List.find?_eq_none.1 hwork
    simp [hany, hwork]
  | some w =>
    have hline : w.line = n := of_decide_eq_true (List.find?_some hwork :)
    have hany : (s.scr.lines[p.val].any fun w => decide (w.line = n)) = true :=
      List.any_eq_true.2 ⟨w, List.mem_of_find?_eq_some hwork, decide_eq_true hline⟩
    have hkeep : ((fun w : LineWork => decide (w.line = n)) ∘ fun w => if w.line = n then { w with done := src :: w.done } else w) =
        fun w => decide (w.line = n) := by
      funext w
      by_cases h : w.line = n <;> simp [h]
    rw [if_pos hany, List.find?_map, hkeep, hwork]
    simp [hline]

theorem hasWritten_markWritten (s : State) (p : Fin 8) (n : Nat) (src : LineSource) (issued : Bool) :
    (s.markWritten p n src issued).hasWritten p n src = true := by
  rw [State.hasWritten, lineWork_markWritten]
  simp

/-- The record of a line that is not released stays. -/
theorem hasWritten_advanceReady {s : State} {p : Fin 8} {n : Nat} (h : s.lineReleased p n = false) (src : LineSource) :
    (s.advanceReady p).hasWritten p n src = s.hasWritten p n src := by
  have hkeep : ∀ w : LineWork, (!s.lineReleased p w.line && decide (w.line = n)) = decide (w.line = n) := fun w => by
    by_cases hw : w.line = n
    · simp [hw, h]
    · simp [hw]
  simp [State.hasWritten, State.lineWork, State.advanceReady, List.find?_filter, hkeep]

/-- Release follows from FIR and the live tables (R190). -/
theorem lineReleased_congr {s t : State} (hfir : t.fir = s.fir) (htables : t.tables = s.tables) (p : Fin 8) (n : Nat) :
    t.lineReleased p n = s.lineReleased p n := by
  have hview : t.liveView = s.liveView := by
    unfold State.liveView State.tableByte
    rw [htables]
  unfold State.lineReleased State.releaseLine State.releaseBound State.span
  rw [hview, hfir]

/-! The write of a line. -/

/-- The column passes of a write are noted, and counted (R186). -/
def State.notePasses (s : State) (k : Nat) : State :=
  { s with scr := { s.scr with passes := noteWork s.now k s.scr.passes } }.countEvent 0x23 k {}

theorem countEvent_same (s : State) (code n : Nat) (i : EventInfo) : Same (.of [.pmc, .out]) s (s.countEvent code n i) :=
  State.countEvent_frame .of code n i (.refl _ s)

theorem notePasses_same (s : State) (k : Nat) : Same (.of [.scr, .pmc, .out]) s (s.notePasses k) :=
  State.countEvent_frame .of 0x23 k {} (.upd (.refl _ s) (scr := .inl .of))

theorem notePasses_passes (s : State) (k : Nat) : (s.notePasses k).scr.passes = noteWork s.now k s.scr.passes :=
  congrArg ScrState.passes ((countEvent_same _ 0x23 k {}).scr.resolve_left (Touch.not_le rfl))

/-- What a source writes of its columns: those that no source of higher rank has written (R172). -/
def State.ownColumns (s : State) (p : Fin 8) (n : Nat) (x : Source) (ws : List (Nat × Nat)) : List (Nat × Nat) :=
  ws.filter fun w => !(s.writtenAbove p n x.rank).contains w.1

theorem writeLine_eq (s : State) (p : Fin 8) (n : Nat) (x : Source) (ws : List (Nat × Nat)) :
    s.writeLine p n x ws = (((((s.putLine p n (s.ownColumns p n x ws)).notePasses (s.passesOf p n x)).markWritten p n x.src
      !(s.ownColumns p n x ws).isEmpty).advanceReady p).settle s) := rfl

theorem writeLine_passes (s : State) (p : Fin 8) (n : Nat) (x : Source) (ws : List (Nat × Nat)) :
    (s.writeLine p n x ws).scr.passes = noteWork s.now (s.passesOf p n x) s.scr.passes := by
  have hput := putLine_within s p n (s.ownColumns p n x ws)
  have hnow := (putLine_same s p n (s.ownColumns p n x ws)).now.resolve_left (Touch.not_le rfl)
  rw [writeLine_eq, settle_scr]
  refine (notePasses_passes _ _).trans ?_
  rw [hput.passes, hnow]

theorem writeLine_outside (s : State) (p : Fin 8) (n : Nat) (x : Source) (ws : List (Nat × Nat)) {a : Nat}
    (ha : a < s.slotAddr p n ∨ s.slotAddr p n + 4096 * s.bits ≤ a) : (s.writeLine p n x ws).dramByte a = s.dramByte a := by
  refine (dramByte_congr ?_ a).trans ((putLine_within s p n (s.ownColumns p n x ws)).outside a ha)
  rw [writeLine_eq, settle_dram]
  exact (notePasses_same _ _).dram.resolve_left (Touch.not_le rfl)

theorem writeLine_hasWritten {s : State} {p : Fin 8} {n : Nat} (h : s.lineReleased p n = false) (x : Source) (ws : List (Nat × Nat)) :
    (s.writeLine p n x ws).hasWritten p n x.src = true := by
  have hput := putLine_same s p n (s.ownColumns p n x ws)
  have hnote := notePasses_same (s.putLine p n (s.ownColumns p n x ws)) (s.passesOf p n x)
  rw [writeLine_eq, hasWritten_congr (settle_scr _ _), hasWritten_advanceReady, hasWritten_markWritten]
  rw [← h]
  exact lineReleased_congr ((hnote.fir.resolve_left (Touch.not_le rfl)).trans (hput.fir.resolve_left (Touch.not_le rfl)))
    ((hnote.tables.resolve_left (Touch.not_le rfl)).trans (hput.tables.resolve_left (Touch.not_le rfl))) p n

/-! The command. -/

theorem readSource_same (s : State) (src : LineSource) (n : Nat) :
    Same (.of [.mmu, .dmc, .qdc, .twn, .pmc, .draws, .out]) s (s.readSource src n) := State.readSource_frame .of src n (.refl _ s)

theorem exec_screenLineWrite_due {s : State} {p : Fin 8} {n : Nat} {x : Source} {ws : List (Nat × Nat)} (hruns : s.scrRuns = true)
    (hopen : s.slotOpen p n = true) (hx : ((s.readSource x.src n).sourcesAt p n).find? (fun y => decide (y.src = x.src)) = some x)
    (hnew : (s.readSource x.src n).hasWritten p n x.src = false) (hlower : (s.readSource x.src n).lowerWritten p n x.rank = true)
    (hready : (s.readSource x.src n).sourceReady x.src n = true) (hws : (s.readSource x.src n).sourceWrites p n x = some ws) :
    exec (.screenLineWrite p n x.src) s = .next ((s.readSource x.src n).writeLine p n x ws) := by
  show execScreenLineWrite p n x.src s = _
  simp [execScreenLineWrite, hruns, hopen, hx, hnew, hlower, hready, hws]

theorem exec_screenLineWrite_notDue {s : State} {p : Fin 8} {n : Nat} {x : Source}
    (hx : ((s.readSource x.src n).sourcesAt p n).find? (fun y => decide (y.src = x.src)) = some x)
    (h : (s.readSource x.src n).hasWritten p n x.src = true ∨ (s.readSource x.src n).lowerWritten p n x.rank = false ∨
      (s.readSource x.src n).sourceReady x.src n = false) :
    exec (.screenLineWrite p n x.src) s = .next s := by
  have hheld : ((s.readSource x.src n).hasWritten p n x.src || !(s.readSource x.src n).lowerWritten p n x.rank ||
      !(s.readSource x.src n).sourceReady x.src n) = true := by
    simpa [or_assoc] using h
  show execScreenLineWrite p n x.src s = _
  simp only [execScreenLineWrite, hx, hheld, if_true, ite_self]

theorem slotOpen_notReleased {s : State} {p : Fin 8} {n : Nat} (h : s.slotOpen p n = true) : s.lineReleased p n = false := by
  simp only [State.slotOpen, Bool.and_eq_true, Bool.not_eq_true'] at h
  exact h.1.2

theorem slotAddr_congr {s t : State} (h : t.regs = s.regs) (p : Fin 8) (n : Nat) : t.slotAddr p n = s.slotAddr p n := by
  have hreg : t.reg = s.reg := funext (reg_congr h)
  unfold State.slotAddr State.ringBase State.ringSlots State.ringLog State.regField
  rw [hreg]

theorem bits_congr {s t : State} (h : t.regs = s.regs) : t.bits = s.bits := by
  rw [State.bits, State.regField, reg_congr h]
  rfl

/-- Settles O35: a source that is due by what its write leaves, any other by the command's own conditions. -/
theorem linesAreScreenedInRankOrder : Obligations.LinesAreScreenedInRankOrder := by
  refine ⟨?_, ?_⟩
  · rintro s u p n x ws hruns hopen rfl hx hnew hlower hready hws
    have hread := readSource_same s x.src n
    have hregs := hread.regs.resolve_left (Touch.not_le rfl)
    have hdram := hread.dram.resolve_left (Touch.not_le rfl)
    refine .of_exec (exec_screenLineWrite_due hruns hopen hx hnew hlower hready hws) ⟨?_, ?_, fun a ha => ?_⟩
    · refine writeLine_hasWritten ?_ x ws
      rw [lineReleased_congr (hread.fir.resolve_left (Touch.not_le rfl)) (hread.tables.resolve_left (Touch.not_le rfl)), slotOpen_notReleased hopen]
    · rw [writeLine_passes, hread.scr.resolve_left (Touch.not_le rfl), hread.now.resolve_left (Touch.not_le rfl)]
    · rw [← slotAddr_congr hregs, ← bits_congr hregs] at ha
      exact (writeLine_outside _ p n x ws ha).trans (dramByte_congr hdram a)
  · rintro s u p n x rfl hx hheld
    exact exec_screenLineWrite_notDue hx hheld

end Sys2Proof.Machine
end

section
/-! The write of SCR_CFG.BITS and the links it faults (R171, R194, R288). -/

namespace Sys2Proof.Machine

theorem regDefAt_scrCfg : regDefAt 0xC0000 = some ⟨"SCR_CFG", 0xC0000, [⟨0, 3, .rw, 2, .outside 1 4⟩], 1, 4⟩ := by decide

theorem bitsOf_putBits_low (w : BitVec 32) (x : Nat) : bitsOf (putBits w 0 3 x).toNat 0 3 = x % 8 := by
  have hmask : (~~~BitVec.ofNat 32 (2 ^ 3 - 1)).toNat % 2 ^ 3 = 0 := by decide
  have hfield : (BitVec.ofNat 32 (x % 2 ^ 3)).toNat % 2 ^ 3 = x % 8 := by
    rw [BitVec.toNat_ofNat]
    omega
  simp only [bitsOf, putBits, Nat.shiftRight_zero, Nat.shiftLeft_zero, BitVec.toNat_or, BitVec.toNat_and, Nat.or_mod_two_pow, Nat.and_mod_two_pow,
    hmask, hfield, Nat.and_zero, Nat.zero_or]

theorem hostWrite_scrCfg_taken {s : State} {v : Word} (hidle : s.printing = false) (hlo : 1 ≤ bitsOf v.toNat 0 3) (hhi : bitsOf v.toNat 0 3 ≤ 4) :
    (s.hostWrite 0xC0000 v).bits = bitsOf v.toNat 0 3 := by
  have hlt : bitsOf v.toNat 0 3 < 8 := Nat.mod_lt _ (by decide)
  rw [State.bits, State.regField, State.reg_hostWrite_same s _ _ regDefAt_scrCfg]
  simp [writeField, guardOpen, hidle, hlo, hhi, bitsOf_putBits_low, Nat.mod_eq_of_lt hlt]

/-- What may not be written leaves BITS as it was. -/
theorem hostWrite_scrCfg_kept {s : State} {v : Word} (h : s.printing = true ∨ bitsOf v.toNat 0 3 = 0 ∨ 4 < bitsOf v.toNat 0 3) :
    (s.hostWrite 0xC0000 v).bits = s.bits := by
  have hshut : (!s.printing && decide (1 ≤ bitsOf v.toNat 0 3) && decide (bitsOf v.toNat 0 3 ≤ 4)) = false := by
    rcases h with h | h | h
    · simp [h]
    · simp [h]
    · simp [show ¬ bitsOf v.toNat 0 3 ≤ 4 by omega]
  rw [State.bits, State.regField, State.reg_hostWrite_same s _ _ regDefAt_scrCfg]
  simp only [List.foldl_cons, List.foldl_nil, writeField, guardOpen, hshut, if_true]
  rfl

theorem hostWrite_plk (s : State) (o : Nat) (v : Word) : (s.hostWrite o v).plk = s.plk :=
  (State.hostWrite_frame (M := Touch.of [.regs]) .of o v (.refl _ s)).plk.resolve_left (Touch.not_le rfl)

theorem exec_scrCfgBitsWrite {s : State} (v : Word) (h : s.takesWrite 0xC0000) : exec (.scrCfgBitsWrite v) s = .next (s.writeScrCfg v) := by
  obtain ⟨hopen, hclk⟩ := h
  show Host.Outcome.next (s.onWrite 0xC0000 v _) = _
  simp [State.onWrite, hopen, hclk]

/-! A link that faults short of RUN. -/

theorem log_plk (s : State) (code sev unit : Nat) (data : List Byte) : (s.log code sev unit data).plk = s.plk :=
  (State.log_frame (M := Touch.of [.regs, .hif, .pmc, .out]) .of code sev unit data (.refl _ s)).plk.resolve_left (Touch.not_le rfl)

theorem putLost_regs (s : State) : s.putLost.regs = s.regs :=
  (State.putLost_frame (M := Touch.of [.hif, .pmc, .out]) .of (.refl _ s)).regs.resolve_left (Touch.not_le rfl)

theorem putRecord_regs (s : State) (code sev unit : Nat) (data : List Byte) : (s.putRecord code sev unit data).regs = s.regs :=
  (State.putRecord_frame (M := Touch.of [.hif, .pmc, .out]) .of code sev unit data (.refl _ s)).regs.resolve_left (Touch.not_le rfl)

/-- A log record changes no register but the count of lost ones. -/
theorem reg_log (s : State) {o : Nat} (ho : o ≠ logLost) (code sev unit : Nat) (data : List Byte) : (s.log code sev unit data).reg o = s.reg o := by
  unfold State.log
  split
  · simp only
    split
    · exact reg_congr ((putRecord_regs _ _ _ _ _).trans (putLost_regs s)) o
    · exact (State.reg_setReg_ne _ ho _).trans (reg_congr (putLost_regs s) o)
  · rfl

theorem log_bits (s : State) (code sev unit : Nat) (data : List Byte) : (s.log code sev unit data).bits = s.bits := by
  rw [State.bits, State.regField, reg_log s (by decide)]
  rfl

theorem modLink_link (s : State) (n m : Fin 32) (f : Link → Link) :
    (s.modLink n f).plk.link[m] = if n = m then f s.plk.link[m] else s.plk.link[m] := modAt_getElem _ _ _ _

/-- A link short of RUN that faults goes to FAULT; BITS and every other link stay. -/
theorem linkFault_short {s : State} {n : Fin 32} (h : (s.plk.link[n]).st ≠ .run) (cause : Nat) :
    (s.linkFault n cause).bits = s.bits ∧
      ∀ m : Fin 32, ((s.linkFault n cause).plk.link[m]).st = if n = m then .fault else (s.plk.link[m]).st := by
  simp only [State.linkFault, State.enterFault, State.moveLink, log_plk, h, false_and, if_false]
  refine ⟨log_bits _ _ _ _ _, fun m => ?_⟩
  rw [modLink_link, log_plk]
  split <;> rfl

/-- Links short of RUN that fault one after the other are all in FAULT, and BITS stays. -/
theorem foldl_linkFault_short {l : List (Fin 32)} {s : State} (h : ∀ n ∈ l, (s.plk.link[n]).st ≠ .run) (cause : Nat) :
    (l.foldl (fun (t : State) n => t.linkFault n cause) s).bits = s.bits ∧
      ∀ m : Fin 32, m ∈ l ∨ (s.plk.link[m]).st = .fault → ((l.foldl (fun (t : State) n => t.linkFault n cause) s).plk.link[m]).st = .fault := by
  induction l generalizing s with
  | nil => exact ⟨rfl, fun m hm => hm.resolve_left List.not_mem_nil⟩
  | cons k l ih =>
    obtain ⟨hbits, hst⟩ := linkFault_short (h k List.mem_cons_self) cause
    have hl : ∀ n ∈ l, ((s.linkFault k cause).plk.link[n]).st ≠ .run := fun n hn => by
      rw [hst]
      split
      · nofun
      · exact h n (List.mem_cons_of_mem k hn)
    obtain ⟨ihbits, ihst⟩ := ih hl
    refine ⟨ihbits.trans hbits, fun m hm => ihst m ?_⟩
    rw [hst, List.mem_cons] at *
    by_cases hk : k = m
    · exact .inr (if_pos hk)
    · rw [if_neg hk]
      exact hm.imp_left fun h => h.resolve_left (Ne.symm hk)

theorem shortLinks_congr {s t : State} (h : t.plk = s.plk) (b : Nat) : t.shortLinks b = s.shortLinks b := by
  simp only [State.shortLinks, h]

/-- Settles O36: a write that is taken by the links that fault after it, one that is not by what it leaves. -/
theorem bitDepthIsWrittenBetweenJobs : Obligations.BitDepthIsWrittenBetweenJobs := by
  refine ⟨?_, ?_⟩
  · intro s v htakes hidle hlo hhi hshort
    refine .of_exec (exec_scrCfgBitsWrite v htakes) ?_
    have hbits := hostWrite_scrCfg_taken hidle hlo hhi
    have hplk := hostWrite_plk s 0xC0000 v
    by_cases hsame : bitsOf v.toNat 0 3 = s.bits
    · rw [State.writeScrCfg, if_pos (hbits.trans hsame)]
      exact ⟨hbits, fun hne => absurd hsame hne⟩
    · have hfault := foldl_linkFault_short (s := s.hostWrite 0xC0000 v) (l := s.shortLinks (bitsOf v.toNat 0 3)) (by rwa [hplk]) 2
      rw [State.writeScrCfg, if_neg (by rwa [hbits]), hbits, shortLinks_congr hplk]
      exact ⟨hfault.1.trans hbits, fun _ n hn => hfault.2 n (.inl hn)⟩
  · intro s v htakes hno
    have hbits := hostWrite_scrCfg_kept hno
    refine .of_exec (exec_scrCfgBitsWrite v htakes) ?_
    rw [State.writeScrCfg, if_pos hbits]
    exact ⟨hbits, hostWrite_plk s _ v⟩

end Sys2Proof.Machine
end

section
/-! The member slot that prints a column (R199 to R202). -/

namespace Sys2Proof.Machine

theorem slotLive_iff (v : TableView) (coll : Bool) (live : BitVec 32) (w : Nat) : slotLive v coll live w = true ↔
    w.testBit 18 = true ∧ w.testBit 19 = true ∧ (w.testBit 20 = true ∨
      (viewNum v 0x0002 (w % 2 ^ 18) 1).testBit 0 = true ∧ (coll = true → live.getLsbD (w % 2 ^ 18 / 8192) = true)) := by
  simp only [slotLive, Bool.and_eq_true, Bool.or_eq_true, Bool.not_eq_true', and_assoc, Decidable.imp_iff_not_or, Bool.not_eq_true]

theorem patternSelect_lt (v : TableView) (k x y : Nat) : patternSelect v k x y < 4 := Nat.mod_lt _ (by decide)

/-- The slot that the pattern cell of a column selects (R201). -/
def cellSlot (v : TableView) (col x y : Nat) : Nat := patternSelect v (viewNum v 0x0001 (16 * col + 12) 1) x y

/-- The live slots of a column, rising (R200). -/
def liveSlots (v : TableView) (coll : Bool) (live : BitVec 32) (col : Nat) : List Nat :=
  (List.range 4).filter fun k => slotLive v coll live (slotWord v col k)

theorem mem_liveSlots {v : TableView} {coll : Bool} {live : BitVec 32} {col k : Nat} :
    k ∈ liveSlots v coll live col ↔ k < 4 ∧ slotLive v coll live (slotWord v col k) = true := by
  rw [liveSlots, List.mem_filter, List.mem_range]

/-- A pattern's slot that is live prints its column (R202). -/
theorem chosenSlot_of_cellSlot_live {v : TableView} {coll : Bool} {live : BitVec 32} {col x y : Nat}
    (h : cellSlot v col x y ∈ liveSlots v coll live col) : chosenSlot v coll live col x y = some (cellSlot v col x y) :=
  if_pos (List.contains_iff_mem.2 h)

/-- A column without a live slot prints through none. -/
theorem chosenSlot_of_no_live {v : TableView} {coll : Bool} {live : BitVec 32} {col : Nat} (h : liveSlots v coll live col = []) (x y : Nat) :
    chosenSlot v coll live col x y = none := by
  change (if (liveSlots v coll live col).contains (cellSlot v col x y) then _ else if (liveSlots v coll live col).isEmpty then none else _) = none
  rw [h]
  rfl

/-- Where the pattern's slot is not live but some slot is, the (x + y) mod q-th of the q live slots prints the column (R202). -/
theorem chosenSlot_of_cellSlot_not_live {v : TableView} {coll : Bool} {live : BitVec 32} {col x y : Nat}
    (h : cellSlot v col x y ∉ liveSlots v coll live col) (hq : 0 < (liveSlots v coll live col).length) :
    chosenSlot v coll live col x y =
      some ((liveSlots v coll live col)[(x + y) % (liveSlots v coll live col).length]'(Nat.mod_lt _ hq)) := by
  have hsome : ¬ (liveSlots v coll live col).isEmpty = true := by
    rw [List.isEmpty_iff]
    exact List.ne_nil_of_length_pos hq
  refine (if_neg (mt List.contains_iff_mem.1 h)).trans ((if_neg hsome).trans ?_)
  exact List.getElem?_eq_getElem _

/-- Some live slot of a column prints it where one is live. -/
theorem chosenSlot_of_some_live {v : TableView} {coll : Bool} {live : BitVec 32} {col : Nat} (h : liveSlots v coll live col ≠ []) (x y : Nat) :
    ∃ k ∈ liveSlots v coll live col, chosenSlot v coll live col x y = some k := by
  by_cases hcell : cellSlot v col x y ∈ liveSlots v coll live col
  · exact ⟨_, hcell, chosenSlot_of_cellSlot_live hcell⟩
  · exact ⟨_, List.getElem_mem _, chosenSlot_of_cellSlot_not_live hcell (List.length_pos_iff.2 h)⟩

/-- Settles O37: a column prints through one of its live slots, its pattern's where that one is live. -/
theorem columnsPrintThroughALiveSlot : Obligations.ColumnsPrintThroughALiveSlot := by
  refine ⟨slotLive_iff, ?_, ?_, ?_⟩
  · intro v coll live col x y k hk
    by_cases hlive : liveSlots v coll live col = []
    · rw [chosenSlot_of_no_live hlive] at hk
      cases hk
    · obtain ⟨k', hmem, hk'⟩ := chosenSlot_of_some_live hlive x y
      obtain rfl : k' = k := Option.some.inj (hk'.symm.trans hk)
      exact mem_liveSlots.1 hmem
  · exact fun v coll live col x y h => chosenSlot_of_cellSlot_live (mem_liveSlots.2 ⟨patternSelect_lt v _ x y, h⟩)
  · intro v coll live col x y
    have hempty : liveSlots v coll live col = [] ↔ ∀ k < 4, slotLive v coll live (slotWord v col k) = false := by
      simp only [liveSlots, List.filter_eq_nil_iff, List.mem_range, Bool.not_eq_true]
    rw [← hempty]
    refine ⟨fun hnone => ?_, fun hno => chosenSlot_of_no_live hno x y⟩
    refine Decidable.byContradiction fun hlive => ?_
    obtain ⟨k, -, hk⟩ := chosenSlot_of_some_live hlive x y
    rw [hnone] at hk
    cases hk

end Sys2Proof.Machine
end

section
/-! The fetch of a segment's next fire line (R200, R207, R218). -/

namespace Sys2Proof.Machine

/-! The levels that a segment maps do not rest on CSM's own state. -/

theorem rasterLevel_csm (s : State) (c : CsmState) (p : Fin 8) (m : Nat) (x : Int) :
    ({ s with csm := c } : State).rasterLevel p m x = s.rasterLevel p m x := by
  unfold State.rasterLevel
  rfl

/-- The owner of a channel becomes a variable here, so that the kernel does not evaluate the search over all column ids. -/
theorem channelLevel_csm (s : State) (c : CsmState) : ({ s with csm := c } : State).channelLevel = s.channelLevel := by
  have hcollapse : ({ s with csm := c } : State).collapse = s.collapse := rfl
  delta State.channelLevel
  generalize ownerColumn = owner
  as_aux_lemma => simp only [rasterLevel_csm, hcollapse]

theorem segLevels_csm (s : State) (c : CsmState) (v : TableView) (cfg : Word) (live : BitVec 32) (p : Fin 8) (n : Fin 32) (j : Fin 16) (g : Seg)
    (m : Nat) : ({ s with csm := c } : State).segLevels v cfg live p n j g m = s.segLevels v cfg live p n j g m := by
  have hview : ({ s with csm := c } : State).liveView = s.liveView := rfl
  simp only [State.segLevels, channelLevel_csm, hview]

/-! The buffers of a link's fetch stage. -/

theorem modGutter_link (s : State) (n m : Fin 32) (f : LinkGutter → LinkGutter) :
    (s.modGutter n f).csm.link[m] = if n = m then f s.csm.link[m] else s.csm.link[m] := modAt_getElem _ _ _ _

theorem modGutter_link_self (s : State) (n : Fin 32) (f : LinkGutter → LinkGutter) : (s.modGutter n f).csm.link[n] = f s.csm.link[n] :=
  (modGutter_link s n n f).trans (if_pos rfl)

theorem noteSample_link (s : State) (p : Fin 8) (f : Nat) (live : BitVec 32) (n : Fin 32) :
    (s.noteSample p f live).csm.link[n] = s.csm.link[n] := by
  unfold State.noteSample
  split
  · split <;> rfl
  · rfl

theorem mem_of_fetchBuf {s : State} {n : Fin 32} {f : Nat} {b : FetchBuf} (h : s.fetchBuf n f = some b) :
    b ∈ (s.csm.link[n]).fetch ∧ b.line = f := ⟨List.mem_of_find?_eq_some h, of_decide_eq_true (List.find?_some h :)⟩

theorem openBuf_of_some {s : State} {n : Fin 32} {f : Nat} {b : FetchBuf} (h : s.fetchBuf n f = some b) (p : Fin 8) : s.openBuf n p f = s := by
  rw [State.openBuf, h]
  exact if_pos rfl

/-- The buffer of a fire line that has none is made with the links as they are sampled (R200). -/
theorem fetchBuf_openBuf_of_none {s : State} {n : Fin 32} {f : Nat} (h : s.fetchBuf n f = none) (p : Fin 8) :
    (s.openBuf n p f).fetchBuf n f = some ⟨f, s.linkSample, [], [], []⟩ := by
  rw [State.openBuf, h, Option.isSome_none, if_neg Bool.false_ne_true, State.fetchBuf, noteSample_link, modGutter_link_self, List.find?_append]
  rw [State.fetchBuf] at h
  rw [h, Option.none_or, List.find?_singleton]
  exact if_pos (decide_eq_true rfl)

theorem fetchBuf_openBuf (s : State) (n : Fin 32) (p : Fin 8) (f : Nat) : ∃ b, (s.openBuf n p f).fetchBuf n f = some b := by
  cases h : s.fetchBuf n f with
  | none => exact ⟨_, fetchBuf_openBuf_of_none h p⟩
  | some b => exact ⟨b, by rw [openBuf_of_some h, h]⟩

/-- Opening a buffer changes nothing but CSM. -/
theorem openBuf_eq (s : State) (n : Fin 32) (p : Fin 8) (f : Nat) : ∃ c, s.openBuf n p f = { s with csm := c } := by
  unfold State.openBuf State.noteSample
  split
  · exact ⟨_, rfl⟩
  · split
    · split <;> exact ⟨_, rfl⟩
    · exact ⟨_, rfl⟩

theorem segLevels_openBuf (s : State) (n : Fin 32) (p : Fin 8) (f : Nat) (line : Int) (cfg : Word) (live : BitVec 32) (j : Fin 16) (g : Seg) (m : Nat) :
    (s.openBuf n p f).segLevels ((s.openBuf n p f).viewAt line) cfg live p n j g m = s.segLevels (s.viewAt line) cfg live p n j g m := by
  obtain ⟨c, hc⟩ := openBuf_eq s n p f
  have hview : ({ s with csm := c } : State).viewAt line = s.viewAt line := rfl
  rw [hc, segLevels_csm, hview]

theorem modBuf_fetch (s : State) (n : Fin 32) (f : Nat) (g : FetchBuf → FetchBuf) :
    ((s.modBuf n f g).csm.link[n]).fetch = (s.csm.link[n]).fetch.map fun b => if b.line = f then g b else b :=
  congrArg LinkGutter.fetch (modGutter_link_self s n _)

theorem mem_modBuf_fetch {s : State} {n : Fin 32} {f : Nat} {b : FetchBuf} (h : s.fetchBuf n f = some b) (g : FetchBuf → FetchBuf) :
    g b ∈ ((s.modBuf n f g).csm.link[n]).fetch := by
  obtain ⟨hmem, hline⟩ := mem_of_fetchBuf h
  rw [modBuf_fetch, List.mem_map]
  exact ⟨b, hmem, if_pos hline⟩

/-! The start of a fetch. -/

theorem exec_rasterFetchStart {s : State} {n : Fin 32} {j : Fin 16} {p : Fin 8} {g : Seg} {f : Nat} (hseg : s.segNow n j = some (p, g))
    (hruns : s.csmRuns = true) (hstate : (s.csm.link[n]).state ≠ .silent) (hprints : s.planePrints p = true)
    (hnext : s.nextFireFetch n p j = some f) (hcan : s.canFetch p g f = true)
    (hfirst : firstServed ⟨s.fetchDeadline p f, n.val⟩ ((List.finRange 32).flatMap s.fetchCands) = true) :
    exec (.rasterFetchStart n j) s = .next (s.startFetch n p j g f) := by
  show execRasterFetchStart n j s = _
  rw [execRasterFetchStart, hseg]
  simp only [hruns, decide_eq_true hstate, hprints, hnext, hcan, hfirst, Bool.and_self, if_true]

theorem readUnits_csm (s : State) (port : Fin 10) (us : List Nat) : (s.readUnits port us).csm = s.csm :=
  (State.readUnits_frame (M := Touch.of [.dmc, .twn, .pmc, .draws, .out]) .of port us (.refl _ s)).csm.resolve_left (Touch.not_le rfl)

/-- A segment's mark in a buffer: started, its levels merged. -/
def FetchBuf.mapSeg (b : FetchBuf) (j : Fin 16) (ls : List (Nat × Nat)) : FetchBuf :=
  { b with started := j :: b.started, levels := mergeLevels b.levels ls }

/-- A segment's mark in a buffer for which it reads nothing: started and mapped. -/
def FetchBuf.skipSeg (b : FetchBuf) (j : Fin 16) : FetchBuf := { b with started := j :: b.started, done := j :: b.done }

theorem startFetch_of_readsNothing {s : State} {p : Fin 8} {g : Seg} {f : Nat} (h : s.readsNothing p g f = true) (n : Fin 32) (j : Fin 16) :
    s.startFetch n p j g f = (s.openBuf n p f).modBuf n f (·.skipSeg j) := by
  rw [State.startFetch, if_pos h]
  rfl

/-- A fetch that reads marks the buffer by the links sampled as it was made, with the levels that the segment maps. -/
theorem startFetch_fetch {s : State} {n : Fin 32} {p : Fin 8} {g : Seg} {f : Nat} (h : s.readsNothing p g f = false) {b : FetchBuf}
    (hb : (s.openBuf n p f).fetchBuf n f = some b) (j : Fin 16) : b.mapSeg j (s.segLevels (s.viewAt (g.webLine f))
      (s.regAt (g.webLine f) (planeCfg p)) b.live p n j g (g.webLine f)) ∈ ((s.startFetch n p j g f).csm.link[n]).fetch := by
  rw [State.startFetch, if_neg (by rw [h]; exact Bool.false_ne_true)]
  simp only [readUnits_csm, hb, Option.map_some, Option.getD_some, segLevels_openBuf]
  exact mem_modBuf_fetch hb _

theorem startFetch_dmc_of_readsNothing {s : State} {p : Fin 8} {g : Seg} {f : Nat} (h : s.readsNothing p g f = true) (n : Fin 32) (j : Fin 16) :
    (s.startFetch n p j g f).dmc = s.dmc := by
  rw [startFetch_of_readsNothing h]
  have hsame := State.modBuf_frame .of n f (·.skipSeg j) (State.openBuf_frame (M := Touch.of [.csm]) .of n p f (.refl _ s))
  exact hsame.dmc.resolve_left (Touch.not_le rfl)

/-! The completion of a fetch. -/

/-- A segment's fetch of a buffer is mapped and its column visits are noted (R218). -/
def State.fetchMapped (s : State) (n : Fin 32) (j : Fin 16) (g : Seg) (b : FetchBuf) : State :=
  let s1 := s.modBuf n b.line fun x => { x with done := j :: x.done }
  { s1 with csm := { s1.csm with visits := noteWork s1.now g.colCount s1.csm.visits } }.countEvent 0x24 g.colCount {}

theorem execFetchComplete_eq {s : State} {n : Fin 32} {j : Fin 16} {p : Fin 8} {g : Seg} {b : FetchBuf} (hseg : s.segNow n j = some (p, g))
    (hb : (s.csm.link[n]).fetch.find? (fun b => b.started.contains j && !b.done.contains j) = some b) :
    execFetchComplete n j s = .next
      (if s.csmRuns && firstServed ⟨s.fetchDeadline p b.line, n.val⟩ ((List.finRange 32).flatMap s.fetchesRunning) then s.fetchMapped n j g b else s) := by
  rw [execFetchComplete, hseg, hb]
  rfl

theorem countEvent_csm (s : State) (code n : Nat) (i : EventInfo) : (s.countEvent code n i).csm = s.csm :=
  (State.countEvent_frame (M := Touch.of [.pmc, .out]) .of code n i (.refl _ s)).csm.resolve_left (Touch.not_le rfl)

theorem fetchMapped_visits (s : State) (n : Fin 32) (j : Fin 16) (g : Seg) (b : FetchBuf) :
    (s.fetchMapped n j g b).csm.visits = noteWork s.now g.colCount s.csm.visits := congrArg CsmState.visits (countEvent_csm _ _ _ _)

theorem fetchMapped_done {s : State} {n : Fin 32} {j : Fin 16} {g : Seg} {b x : FetchBuf} (hx : x ∈ ((s.fetchMapped n j g b).csm.link[n]).fetch)
    (hline : x.line = b.line) : j ∈ x.done := by
  have hmem : x ∈ ((s.modBuf n b.line fun x => { x with done := j :: x.done }).csm.link[n]).fetch := by
    simpa only [State.fetchMapped, countEvent_csm] using hx
  rw [modBuf_fetch] at hmem
  obtain ⟨y, -, rfl⟩ := List.mem_map.1 hmem
  split at hline
  · next hy => simp [hy]
  · next hy => exact absurd hline hy

/-- Settles O38: the start of a fetch by the mark it leaves in its line's buffer, its completion by its place among the fetches under way. -/
theorem linesAreFetchedForTheGutter : Obligations.LinesAreFetchedForTheGutter := by
  refine ⟨?_, ?_, ?_, ?_⟩
  · intro s n j p g f hseg hruns hstate hprints hnext hreads hcan hfirst
    refine .of_exec (exec_rasterFetchStart hseg hruns hstate hprints hnext hcan hfirst) ⟨?_, fun hnew => ?_⟩
    · obtain ⟨b, hb⟩ := fetchBuf_openBuf s n p f
      exact ⟨_, startFetch_fetch hreads hb j, (mem_of_fetchBuf hb).2, List.mem_cons_self⟩
    · exact ⟨_, startFetch_fetch hreads (fetchBuf_openBuf_of_none hnew p) j, rfl, rfl, rfl⟩
  · intro s n j p g f hseg hruns hstate hprints hnext hout hfirst
    have hreads : s.readsNothing p g f = true := by
      rwa [State.readsNothing, Bool.or_eq_true, decide_eq_true_eq]
    have hcan : s.canFetch p g f = true := by rw [State.canFetch, hreads, Bool.true_or]
    refine .of_exec (exec_rasterFetchStart hseg hruns hstate hprints hnext hcan hfirst) ⟨?_, startFetch_dmc_of_readsNothing hreads n j⟩
    obtain ⟨b, hb⟩ := fetchBuf_openBuf s n p f
    rw [startFetch_of_readsNothing hreads]
    exact ⟨_, mem_modBuf_fetch hb _, (mem_of_fetchBuf hb).2, List.mem_cons_self, List.mem_cons_self⟩
  · intro s n j p g b hseg hruns hb hfirst
    refine .of_exec (t := s.fetchMapped n j g b) ?_ ⟨fetchMapped_visits s n j g b, fun x hx hline => fetchMapped_done hx hline⟩
    refine (execFetchComplete_eq hseg hb).trans ?_
    rw [hruns, hfirst, Bool.and_self, if_pos rfl]
  · intro s n j p g b hseg hb hlate
    refine (execFetchComplete_eq hseg hb).trans ?_
    rw [hlate, Bool.and_false, if_neg Bool.false_ne_true]

end Sys2Proof.Machine
end

section
/-! The line that a gutter emits or discards, its refill and its gate (R208, R215 to R217, R272). -/

namespace Sys2Proof.Machine

/-! A launched line that is due on a link. -/

theorem exec_gutterEmit {s u : State} {n : Fin 32} {at_ : Nat} {p : Fin 8} {l : FireLine} (hu : u = s.advance at_) (hdue : u.lineDue n = some (p, l))
    (hup : u.blkUp .csm = true) (hfire : u.clkRuns 0 = true) (hcore : u.clkRuns 4 = true) :
    exec (.gutterEmit n at_) s = .next (((u.gutterLine n p l).linkDone n p l).settleBank n) := by
  show execGutterEmit n at_ s = _
  rw [execGutterEmit, ← hu]
  simp only [hdue, hup, hfire, hcore, Bool.and_self, if_true]

/-- What the link does after its line takes back nothing that has left the device. -/
theorem settleBank_linkDone_out (s : State) (n : Fin 32) (p : Fin 8) (l : FireLine) : s.out <+: ((s.linkDone n p l).settleBank n).out :=
  (State.settleBank_keeps n (State.linkDone_keeps n p l (.refl s))).out

theorem Sent.mono {s t u : State} {m : Out} (h : Sent s t m) (hu : t.out <+: u.out) : Sent s u m := by
  obtain ⟨a, ha⟩ := hu
  rw [Sent, ← ha, List.drop_append]
  exact List.mem_append_left _ h

/-- The line that a transmitting device sends: the bank of LINE_START is the link's, whichever it is (R273 to R275). -/
theorem sent_sendLine {l : FireLine} (hsends : l.sends = true) (s : State) (n : Fin 32) (p : Fin 8) (level : Nat → Nat) : ∃ vt : Bool,
    Sent s (s.sendLine n p l level) (.line n (startBlock s.bits vt l) ((List.range 8).map (phaseBlock s.liveView n l.tf)) (linePayload s.bits level)
      (endBlock (linePayload s.bits level) s.twn.epoch l.line)) := by
  unfold State.sendLine
  extract_lets b s1 payload phases s2
  rw [if_pos hsends]
  exact ⟨(s1.plk.link[n]).vtab, .of_emit (u := s2.modLink n fun x => { x with lines := x.lines + 1, sendUntil := s.now + blockTime x.rate s.lineBlocks })
    List.prefix_rfl (State.countEvent_keeps 0x30 1 {} (.refl _)).out⟩

/-- A RUNNING gutter that transmitted at the line's launch and owes none sends the line as it builds it, and then takes the fetched line in. -/
theorem gutterLine_of_sends {s : State} {n : Fin 32} {l : FireLine} (hstate : (s.csm.link[n]).state = .running) (hon : l.on.getLsbD n.val = true)
    (hrun : (s.plk.link[n]).st = .run) (hclk : s.linkClkRuns n = true) (howed : (s.csm.link[n]).owed = []) (p : Fin 8) :
    s.gutterLine n p l = ((s.sendLine n p l (s.gutterLevel n l.line (s.csm.link[n]).slots (s.fetchLevels n l.line))).takeIn n l.line
      (s.fetchLevels n l.line)).modGutter n fun x => { x with sent := noteSent l.line x.sent } := by
  simp only [State.gutterLine, hstate, hon, hrun, hclk, howed, List.find?_nil, decide_true, Bool.and_self, Bool.not_true, Bool.false_eq_true, if_true,
    if_false]

theorem sent_gutterLine {s : State} {n : Fin 32} {l : FireLine} (hstate : (s.csm.link[n]).state = .running) (hon : l.on.getLsbD n.val = true)
    (hrun : (s.plk.link[n]).st = .run) (hclk : s.linkClkRuns n = true) (howed : (s.csm.link[n]).owed = []) (hsends : l.sends = true) (p : Fin 8) :
    ∃ vt : Bool, let payload := linePayload s.bits (s.gutterLevel n l.line (s.csm.link[n]).slots (s.fetchLevels n l.line))
      Sent s (s.gutterLine n p l) (.line n (startBlock s.bits vt l) ((List.range 8).map (phaseBlock s.liveView n l.tf)) payload
        (endBlock payload s.twn.epoch l.line)) := by
  rw [gutterLine_of_sends hstate hon hrun hclk howed]
  exact sent_sendLine hsends s n p _

/-! A line that is discarded. -/

theorem discardLine_discard (s : State) : s.discardLine.csm.discard = s.csm.discard + 1 := congrArg CsmState.discard (countEvent_csm _ _ _ _)

/-- A gutter that is not RUNNING discards the line; a REFILLING one takes it in (log entry 38). -/
theorem gutterLine_discard {s : State} {n : Fin 32} (hstate : (s.csm.link[n]).state = .silent ∨ (s.csm.link[n]).state = .refilling) (p : Fin 8)
    (l : FireLine) : (s.gutterLine n p l).csm.discard = s.csm.discard + 1 := by
  rcases hstate with hstate | hstate
  · simp only [State.gutterLine, hstate, discardLine_discard]
  · simp only [State.gutterLine, hstate, discardLine_discard]
    rfl

/-- The link leaves a line that others have yet to take, and the line stays launched for those. -/
def FireLine.leaves (l : FireLine) (n : Fin 32) (y : FireLine) : FireLine :=
  if y.line = l.line then { y with links := l.links.filter fun k => decide (k.1 ≠ n) } else y

theorem linkDone_of_others {l : FireLine} {n : Fin 32} (h : ∃ k ∈ l.links, k.1 ≠ n) (s : State) (p : Fin 8) : s.linkDone n p l =
    s.modPlane p fun x => { x with launched := (x.launched.map (l.leaves n)).filter fun y => !y.links.isEmpty } := by
  have hrest : (l.links.filter fun k => decide (k.1 ≠ n)).isEmpty = false := by
    obtain ⟨k, hk, hne⟩ := h
    rw [List.isEmpty_eq_false_iff_exists_mem]
    exact ⟨k, List.mem_filter.2 ⟨hk, decide_eq_true hne⟩⟩
  simp only [State.linkDone, hrest]
  rfl

theorem leaves_links {l y : FireLine} {n : Fin 32} (hline : (l.leaves n y).line = l.line) : ∀ k ∈ (l.leaves n y).links, k.1 ≠ n := by
  intro k hk
  by_cases hy : y.line = l.line
  · rw [FireLine.leaves, if_pos hy] at hk
    exact of_decide_eq_true (List.mem_filter.1 hk).2
  · rw [FireLine.leaves, if_neg hy] at hline
    exact absurd hline hy

/-- A line that others have yet to take is no longer on the link. -/
theorem linkDone_launched {l : FireLine} {n : Fin 32} (h : ∃ k ∈ l.links, k.1 ≠ n) (s : State) (p : Fin 8) :
    ∀ y ∈ ((s.linkDone n p l).fir.plane[p]).launched, y.line = l.line → ∀ k ∈ y.links, k.1 ≠ n := by
  intro y hy hline
  rw [linkDone_of_others h, State.modPlane_fir] at hy
  simp only [modAt_getElem, if_true] at hy
  obtain ⟨x, -, rfl⟩ := List.mem_map.1 (List.mem_filter.1 hy).1
  exact leaves_links hline

theorem settleBank_same (s : State) (n : Fin 32) : Same (.of [.plk]) s (s.settleBank n) := State.settleBank_frame .of n (.refl _ s)

theorem advance_csm (s : State) (at_ : Nat) : (s.advance at_).csm = s.csm :=
  (State.advance_frame (M := Touch.of [.fir, .tim, .pmc, .now]) .of at_ (.refl _ s)).csm.resolve_left (Touch.not_le rfl)

/-! Refill. -/

theorem exec_refillStart {s : State} {n : Fin 32} {p : Fin 8} (hplane : s.refillPlane n = some p) (hruns : s.csmRuns = true)
    (hstate : (s.csm.link[n]).state = .silent) : exec (.refillStart n) s = .next
      (s.modGutter n fun g => { state := .refilling, f0 := s.fireLine p, taken := s.fireLine p, away := g.away }) := by
  show execRefillStart n s = _
  simp only [execRefillStart, hplane, hruns, hstate, decide_true, Bool.and_self, if_true]

/-- Refill ends once each line that it needs is blocked for good or can be read (R216). -/
theorem exec_refillDone {s : State} {n : Fin 32} {p : Fin 8} (hplane : s.refillPlane n = some p) (hruns : s.csmRuns = true)
    (hstate : (s.csm.link[n]).state = .refilling)
    (hready : ∀ f ∈ s.refillNeeds n, ∀ x ∈ s.refillLines n p f, s.refillBlocked p x.2.2 = true ∨
      s.lineReadable p x.2.2 = true ∧ s.unitsServed (s.fetchUnits (s.reg (planeCfg p)) p x.2.1 x.2.2) = true) :
    exec (.refillDone n) s = .next (((s.refillNeeds n).foldl (fun (t : State) f => t.refillSlot n p f) s).modGutter n fun g =>
      { g with state := .running, joined := false, away := false }) := by
  have hall : ((s.refillNeeds n).all fun f => (s.refillLines n p f).all fun x => s.refillBlocked p x.2.2 ||
      (s.lineReadable p x.2.2 && s.unitsServed (s.fetchUnits (s.reg (planeCfg p)) p x.2.1 x.2.2))) = true := by
    simpa only [List.all_eq_true, Bool.or_eq_true, Bool.and_eq_true] using hready
  show execRefillDone n s = _
  simp only [execRefillDone, hplane, hruns, hstate, hall, decide_true, Bool.and_self, if_true]

/-! Gates. -/

theorem onWrite_of_takesWrite {s : State} {o : Nat} (h : s.takesWrite o) (v : BitVec 32) (run : State → State) : s.onWrite o v run = run s := by
  obtain ⟨hopen, hclk⟩ := h
  simp only [State.onWrite, hopen, hclk, if_true, Bool.false_eq_true, if_false]

theorem gutterSilent_state (s : State) (n m : Fin 32) :
    ((s.gutterSilent n).csm.link[m]).state = if n = m then .silent else (s.csm.link[m]).state := by
  refine (congrArg LinkGutter.state (modAt_getElem _ _ _ _)).trans ?_
  split <;> rfl

/-- The gutters of the links that a test picks go SILENT; the gates stay, and a gutter that is SILENT stays so. -/
theorem foldl_gutterSilent (c : Fin 32 → Bool) (l : List (Fin 32)) (s : State) :
    (l.foldl (fun (t : State) n => if c n then t.gutterSilent n else t) s).csm.gate = s.csm.gate ∧
      ∀ m : Fin 32, (m ∈ l ∧ c m = true) ∨ (s.csm.link[m]).state = .silent →
        ((l.foldl (fun (t : State) n => if c n then t.gutterSilent n else t) s).csm.link[m]).state = .silent := by
  induction l generalizing s with
  | nil => exact ⟨rfl, fun m hm => hm.resolve_left fun h => List.not_mem_nil h.1⟩
  | cons k l ih =>
    obtain ⟨ihgate, ihstate⟩ := ih (if c k then s.gutterSilent k else s)
    refine ⟨ihgate.trans (by split <;> rfl), fun m hm => ihstate m ?_⟩
    by_cases hk : c k = true
    · rw [if_pos hk, gutterSilent_state]
      by_cases hkm : k = m
      · exact .inr (if_pos hkm)
      · rw [if_neg hkm]
        exact hm.imp_left fun h => ⟨(List.mem_cons.1 h.1).resolve_left (Ne.symm hkm), h.2⟩
    · rw [if_neg hk]
      refine hm.imp_left fun h => ⟨(List.mem_cons.1 h.1).resolve_left ?_, h.2⟩
      rintro rfl
      exact hk h.2

theorem closeGates_gate (s : State) (v : BitVec 32) : (s.closeGates v).csm.gate = s.csm.gate ||| v :=
  (foldl_gutterSilent (fun n => v.getLsbD n.val && s.gateOpen n) (List.finRange 32) _).1

theorem closeGates_silent {s : State} {v : BitVec 32} {n : Fin 32} (hv : v.getLsbD n = true) (hopen : s.gateOpen n = true) :
    ((s.closeGates v).csm.link[n]).state = .silent :=
  (foldl_gutterSilent (fun n => v.getLsbD n.val && s.gateOpen n) (List.finRange 32) _).2 n
    (.inl ⟨List.mem_finRange n, by rw [Bool.and_eq_true]; exact ⟨hv, hopen⟩⟩)

/-- Settles O39: a due line by what the gutter makes of it, refill and the gates by what they leave of the gutters. -/
theorem guttersEmitRefillAndGate : Obligations.GuttersEmitRefillAndGate := by
  refine ⟨?_, ?_, ?_, ?_, ?_, ?_⟩
  · intro s u n at_ p l hu hdue hup hfire hcore hstate hon hrun hclk howed hsends
    refine .of_exec (exec_gutterEmit hu hdue hup hfire hcore) ?_
    obtain ⟨vt, hsent⟩ := sent_gutterLine hstate hon hrun hclk howed hsends p
    have hout : s.out <+: u.out := hu ▸ (State.advance_keeps at_ (.refl s)).out
    exact ⟨vt, (Sent.of_prefix hout hsent).mono (settleBank_linkDone_out _ n p l)⟩
  · intro s u n at_ p l hu hdue hup hfire hcore hstate hothers
    have hsame := settleBank_same ((u.gutterLine n p l).linkDone n p l) n
    refine .of_exec (exec_gutterEmit hu hdue hup hfire hcore) ⟨?_, ?_⟩
    · rw [hsame.csm.resolve_left (Touch.not_le rfl), linkDone_of_others hothers, State.modPlane_csm, gutterLine_discard hstate, hu, advance_csm]
    · rw [hsame.fir.resolve_left (Touch.not_le rfl)]
      exact linkDone_launched hothers _ p
  · exact fun s n p hplane hruns hstate => .of_exec (exec_refillStart hplane hruns hstate) (modGutter_link_self s n _)
  · intro s n p hplane hruns hstate hready
    refine .of_exec (exec_refillDone hplane hruns hstate hready) ?_
    rw [modGutter_link_self]
    exact ⟨rfl, rfl, rfl⟩
  · intro s v htakes
    have hexec : exec (.csmGateCloseWrite v) s = .next (s.closeGates v) := congrArg _ (onWrite_of_takesWrite htakes v _)
    exact .of_exec hexec ⟨closeGates_gate s v, fun n hv hopen => closeGates_silent hv hopen⟩
  · intro s v htakes
    have hexec : exec (.csmGateOpenWrite v) s = .next (s.openGates v) := congrArg _ (onWrite_of_takesWrite htakes v _)
    exact .of_exec hexec ⟨rfl, rfl⟩

end Sys2Proof.Machine
end
